-- ==== Sys2Proof/Word.lean ====
section
/-! DEFINITION. The word types of the Nyzin-16 and their plainest arithmetic (00 R2, R10; 02 R41). -/
namespace Sys2Proof

/-- A 64-bit scalar of the timed and dynamic planes (01 R18, R33). -/
abbrev Word := BitVec 64
/-- A byte of any memory of the package. -/
abbrev Byte := BitVec 8
/-- A 2,048-bit vector, queue or drawbar word: lane i is bits [32i+31:32i] (02 R41). -/
abbrev VWord := BitVec 2048

end Sys2Proof
end

