-- ==== Sys2Proof/Syntax.lean ====
section
/-! DEFINITION. The instructions of the Nyzin-16: one constructor per row of the opcode table. Rows with a word
carry the word's operand fields, in the table's order (`w` is the wait count W, 03 R71). Rows without a word are
steps that a unit takes on its own or that the outside makes (95); their operands name the unit it happens on:
g pipeline, d die, t thread, c coach, k partition, j a position in that unit's list. -/
namespace Sys2Proof

/-- Every operation and event of the part. -/
inductive Instr
  /-- R73. Issues in any timed stream and delays the stream's next word by n cycles, changing no other state. -/
  | idle (w : BitVec 3) (n : BitVec 23)
  /-- R106. C ALU: sd := sa + sb modulo 2^64. -/
  | add (w : BitVec 3) (d : BitVec 5) (a : BitVec 5) (b : BitVec 5)
  /-- R106. C ALU: sd := sa - sb modulo 2^64. -/
  | sub (w : BitVec 3) (d : BitVec 5) (a : BitVec 5) (b : BitVec 5)
  /-- R106. C ALU: bitwise AND of sa and sb. -/
  | and (w : BitVec 3) (d : BitVec 5) (a : BitVec 5) (b : BitVec 5)
  /-- R106. C ALU: bitwise OR of sa and sb. -/
  | or (w : BitVec 3) (d : BitVec 5) (a : BitVec 5) (b : BitVec 5)
  /-- R106. C ALU: bitwise XOR of sa and sb. -/
  | xor (w : BitVec 3) (d : BitVec 5) (a : BitVec 5) (b : BitVec 5)
  /-- R106. C ALU: sa shifted left by sb[5:0]. -/
  | shl (w : BitVec 3) (d : BitVec 5) (a : BitVec 5) (b : BitVec 5)
  /-- R106. C ALU: sa shifted right with zero fill by sb[5:0]. -/
  | shr (w : BitVec 3) (d : BitVec 5) (a : BitVec 5) (b : BitVec 5)
  /-- R106. C ALU: sa shifted right with sign fill by sb[5:0]. -/
  | sra (w : BitVec 3) (d : BitVec 5) (a : BitVec 5) (b : BitVec 5)
  /-- R106. C ALU: low 64 bits of sa times sb, latency 3. -/
  | mul (w : BitVec 3) (d : BitVec 5) (a : BitVec 5) (b : BitVec 5)
  /-- R106. C ALU: high 64 bits of the signed product. -/
  | mulh (w : BitVec 3) (d : BitVec 5) (a : BitVec 5) (b : BitVec 5)
  /-- R106. C ALU: high 64 bits of the unsigned product. -/
  | mulhu (w : BitVec 3) (d : BitVec 5) (a : BitVec 5) (b : BitVec 5)
  /-- R106. C ALU: signed minimum. -/
  | min (w : BitVec 3) (d : BitVec 5) (a : BitVec 5) (b : BitVec 5)
  /-- R106. C ALU: signed maximum. -/
  | max (w : BitVec 3) (d : BitVec 5) (a : BitVec 5) (b : BitVec 5)
  /-- R106. C ALU: unsigned minimum. -/
  | minu (w : BitVec 3) (d : BitVec 5) (a : BitVec 5) (b : BitVec 5)
  /-- R106. C ALU: unsigned maximum. -/
  | maxu (w : BitVec 3) (d : BitVec 5) (a : BitVec 5) (b : BitVec 5)
  /-- R107. C: sd := sa + sign-extended imm13. -/
  | addi (w : BitVec 3) (d : BitVec 5) (a : BitVec 5) (i : BitVec 13)
  /-- R107. C: sd := sa AND zero-extended imm13. -/
  | andi (w : BitVec 3) (d : BitVec 5) (a : BitVec 5) (i : BitVec 13)
  /-- R107. C: sd := sa OR zero-extended imm13. -/
  | ori (w : BitVec 3) (d : BitVec 5) (a : BitVec 5) (i : BitVec 13)
  /-- R107. C: sd := sa XOR zero-extended imm13. -/
  | xori (w : BitVec 3) (d : BitVec 5) (a : BitVec 5) (i : BitVec 13)
  /-- R107. C: sd := sa shifted left by imm13[5:0]. -/
  | shli (w : BitVec 3) (d : BitVec 5) (a : BitVec 5) (i : BitVec 6)
  /-- R107. C: sd := sa shifted right, zero fill, by imm13[5:0]. -/
  | shri (w : BitVec 3) (d : BitVec 5) (a : BitVec 5) (i : BitVec 6)
  /-- R107. C: sd := sa shifted right, sign fill, by imm13[5:0]. -/
  | srai (w : BitVec 3) (d : BitVec 5) (a : BitVec 5) (i : BitVec 6)
  /-- R108. C: sd := imm18 sign-extended. -/
  | li (w : BitVec 3) (d : BitVec 5) (i : BitVec 18)
  /-- R108. C: sd := (sd << 18) | unsigned imm18. -/
  | lui (w : BitVec 3) (d : BitVec 5) (i : BitVec 18)
  /-- R109. C: sets predicate pd from a compare of sa and sb under cond. -/
  | cmp (w : BitVec 3) (p : BitVec 3) (a : BitVec 5) (b : BitVec 5) (c : BitVec 3)
  /-- R109. C: sets predicate pd from a compare of sa and sign-extended imm12. -/
  | cmpi (w : BitVec 3) (p : BitVec 3) (a : BitVec 5) (c : BitVec 3) (i : BitVec 12)
  /-- R110. C: sd := sa if predicate p else sb. -/
  | sel (w : BitVec 3) (d : BitVec 5) (a : BitVec 5) (b : BitVec 5) (p : BitVec 3)
  /-- R111. C: reads 8 bytes of own tensor SRAM into sd, readable at issue + 6. -/
  | lds (w : BitVec 3) (d : BitVec 5) (a : BitVec 5) (i : BitVec 13)
  /-- R112. C: writes sd to 8 bytes of own tensor SRAM at the end of the issue cycle. -/
  | sts (w : BitVec 3) (s : BitVec 5) (a : BitVec 5) (i : BitVec 13)
  /-- R114. C: branches when p XOR N = 1, target issuing at + 2 + W. -/
  | br (w : BitVec 3) (p : BitVec 3) (n : BitVec 1) (i : BitVec 19)
  /-- R114. C: branches like BR and also appends the outcome to bq. -/
  | brp (w : BitVec 3) (p : BitVec 3) (n : BitVec 1) (i : BitVec 19)
  /-- R117. C: runs a zero-overhead loop of min(sa, max) iterations placed by span, always taking max × span cycles. -/
  | loop (w : BitVec 3) (a : BitVec 5) (l : BitVec 9) (m : BitVec 9)
  /-- R116. C: loads the C span register. -/
  | lspan (w : BitVec 3) (n : BitVec 23)
  /-- R115. C: pushes PC + 1 on the return stack and branches. -/
  | call (w : BitVec 3) (i : BitVec 19)
  /-- R115. C: pops the return stack and branches to it. -/
  | ret (w : BitVec 3)
  /-- R120. C: adds count tokens to kCL, kCX or kCS. -/
  | cGive (w : BitVec 3) (q : BitVec 4) (c : BitVec 6)
  /-- R120. C: removes count tokens from kLC, kXC or kSC, slipping if too few. -/
  | cTake (w : BitVec 3) (q : BitVec 4) (c : BitVec 6)
  /-- R121. C: appends sa to ql, qx or qs. -/
  | sqw (w : BitVec 3) (t : BitVec 2) (a : BitVec 5)
  /-- R122. C: appends p XOR N to bq. -/
  | bqw (w : BitVec 3) (p : BitVec 3) (n : BitVec 1)
  /-- R124. C: starts an alignment of the die, holding cycles until neighbours' observed ATK catches up or the limit is reached. -/
  | align (w : BitVec 3) (n : BitVec 23)
  /-- R127. C: marks stage n, writes a road-book entry, checks the turnpike budget and detects stage-bound pre-emption. -/
  | stage (w : BitVec 3) (n : BitVec 23)
  /-- R128. C: opens layover w on the die, arming its expected slots. -/
  | wopen (w : BitVec 3) (l : BitVec 6)
  /-- R129. C: closes layover w and judges its expected slots by the miss policy. -/
  | wclose (w : BitVec 3) (l : BitVec 6)
  /-- R130. C: sd := VALUE of a post slot. -/
  | postrd (w : BitVec 3) (d : BitVec 5) (s : BitVec 6)
  /-- R130. C: pd := V of a post slot. -/
  | postv (w : BitVec 3) (p : BitVec 3) (s : BitVec 6)
  /-- R132. C: writes one field of the shadow nest table. -/
  | nest (w : BitVec 3) (l : BitVec 3) (f : BitVec 4) (a : BitVec 5)
  /-- R133. C: validates and copies the shadow nest table to active and sets the go bit. -/
  | mgo (w : BitVec 3)
  /-- R134. C: reads a timed control register into sd. -/
  | csrr (w : BitVec 3) (d : BitVec 5) (c : BitVec 12)
  /-- R134. C: writes s to a timed control register at the end of the cycle. -/
  | csrw (w : BitVec 3) (s : BitVec 5) (c : BitVec 12)
  /-- R135. C: sd := TICK. -/
  | tick (w : BitVec 3) (d : BitVec 5)
  /-- R136. C: writes a road-book entry with a tag. -/
  | mark (w : BitVec 3) (n : BitVec 23)
  /-- R137. C: detects a TRAPC freeze with a code. -/
  | trapc (w : BitVec 3) (c : BitVec 8)
  /-- R137. C: detects a TRAPC freeze with the FREEZE bit set. -/
  | freeze (w : BitVec 3)
  /-- R138. C: ends the pipeline's program; no further word issues. -/
  | halt (w : BitVec 3)
  /-- R145. L: reads a 64-byte stream descriptor, taking effect at issue + 8. -/
  | lScfg (w : BitVec 3) (s : BitVec 4) (a : BitVec 4) (i : BitVec 15)
  /-- R146. L: advances a stream position by simm15. -/
  | lSadv (w : BitVec 3) (s : BitVec 4) (i : BitVec 15)
  /-- R147. L: ad := aa + ab. -/
  | aadd (w : BitVec 3) (d : BitVec 4) (a : BitVec 4) (b : BitVec 4)
  /-- R147. L: ad := aa + simm15. -/
  | aaddi (w : BitVec 3) (d : BitVec 4) (a : BitVec 4) (i : BitVec 15)
  /-- R147. L: ad := simm19. -/
  | ali (w : BitVec 3) (d : BitVec 4) (i : BitVec 19)
  /-- R147. L: pops the head of ql into an address register. -/
  | lSqr (w : BitVec 3) (d : BitVec 4)
  /-- R152. L: reads one stream access, converts it and appends a word to dq0-dq3. -/
  | ldq (w : BitVec 3) (q : BitVec 3) (s : BitVec 4)
  /-- R154. L: gathers 64 indexed rows into operand latch A over 9 cycles. -/
  | gath (w : BitVec 3) (s : BitVec 4) (a : BitVec 4) (i : BitVec 15)
  /-- R162. L: reads a 256-byte HBM unit for landing in tensor SRAM at issue + 640. -/
  | hld (w : BitVec 3) (s : BitVec 4) (a : BitVec 4) (i : BitVec 15)
  /-- R158. L: walks the page of the stream's lookahead address to load NXT at issue + 48. -/
  | lTlbp (w : BitVec 3) (s : BitVec 4)
  /-- R146. L: advances the stream position to the start of the next level-0 run. -/
  | bout (w : BitVec 3) (s : BitVec 4)
  /-- R155. L: loads 16 BF16 values into a codebook register at issue + 6. -/
  | ldcb (w : BitVec 3) (c : BitVec 2) (a : BitVec 4)
  /-- R156. L: copies a .cmem table image into a coefficient table over 256 cycles. -/
  | ldcm (w : BitVec 3) (t : BitVec 4) (a : BitVec 4)
  /-- R148. L: adds tokens to kLC, kLX or kLS. -/
  | lGive (w : BitVec 3) (q : BitVec 4) (c : BitVec 6)
  /-- R148. L: removes tokens from kCL, kXL or kSL. -/
  | lTake (w : BitVec 3) (q : BitVec 4) (c : BitVec 6)
  /-- R145. S: reads a 64-byte stream descriptor, taking effect at issue + 8. -/
  | sScfg (w : BitVec 3) (s : BitVec 4) (b : BitVec 4) (i : BitVec 15)
  /-- R146. S: advances a stream position by simm15. -/
  | sSadv (w : BitVec 3) (s : BitVec 4) (i : BitVec 15)
  /-- R147. S: bd := ba + bb. -/
  | badd (w : BitVec 3) (d : BitVec 4) (a : BitVec 4) (b : BitVec 4)
  /-- R147. S: bd := ba + simm15. -/
  | baddi (w : BitVec 3) (d : BitVec 4) (a : BitVec 4) (i : BitVec 15)
  /-- R147. S: bd := simm19. -/
  | bli (w : BitVec 3) (d : BitVec 4) (i : BitVec 19)
  /-- R147. S: pops the head of qs into a b register. -/
  | sSqr (w : BitVec 3) (d : BitVec 4)
  /-- R164. S: pops a word from dq4 or dq5, converts it and writes it at a stream address, optionally capturing histograms. -/
  | stq (w : BitVec 3) (q : BitVec 3) (s : BitVec 4) (f : BitVec 4) (r : BitVec 3) (x : BitVec 1) (h : BitVec 2) (c : BitVec 1)
  /-- R162. S: reads 256 bytes of tensor SRAM and writes them to HBM, completing at issue + 640. -/
  | hst (w : BitVec 3) (s : BitVec 4) (b : BitVec 4) (i : BitVec 15)
  /-- R168. S: pops a word and sends it as a relay word to a timed global tensor address. -/
  | send (w : BitVec 3) (q : BitVec 3) (b : BitVec 4)
  /-- R169. S: pops a word and writes it to every target of a multicast group in one cycle. -/
  | mcast (w : BitVec 3) (q : BitVec 3) (g : BitVec 4) (b : BitVec 4)
  /-- R170. S: holds a bank for 3 cycles and updates one element with an operation. -/
  | rmw (w : BitVec 3) (o : BitVec 3) (t : BitVec 2) (b : BitVec 4) (v : BitVec 4)
  /-- R166. S: clears an exponent histogram set. -/
  | hclr (w : BitVec 3) (s : BitVec 2)
  /-- R166. S: writes a histogram set to tensor SRAM and clears it as one action. -/
  | hsnap (w : BitVec 3) (s : BitVec 2) (b : BitVec 4)
  /-- R158. S: walks the page of the stream's lookahead address to load NXT at issue + 48. -/
  | sTlbp (w : BitVec 3) (s : BitVec 4)
  /-- R148. S: adds tokens to kSC, kSL or kSX. -/
  | sGive (w : BitVec 3) (q : BitVec 4) (c : BitVec 6)
  /-- R148. S: removes tokens from kCS, kLS or kXS. -/
  | sTake (w : BitVec 3) (q : BitVec 4) (c : BitVec 6)
  /-- R198. X: element-wise addition rounded once. -/
  | vadd (w : BitVec 3) (d : BitVec 5) (a : BitVec 5) (b : BitVec 5) (f : BitVec 3) (r : BitVec 3) (x : BitVec 1) (m : BitVec 1)
  /-- R198. X: element-wise subtraction rounded once. -/
  | vsub (w : BitVec 3) (d : BitVec 5) (a : BitVec 5) (b : BitVec 5) (f : BitVec 3) (r : BitVec 3) (x : BitVec 1) (m : BitVec 1)
  /-- R198. X: element-wise multiplication rounded once. -/
  | vmul (w : BitVec 3) (d : BitVec 5) (a : BitVec 5) (b : BitVec 5) (f : BitVec 3) (r : BitVec 3) (x : BitVec 1) (m : BitVec 1)
  /-- R198. X: fused va × vb + vd rounded once. -/
  | vfma (w : BitVec 3) (d : BitVec 5) (a : BitVec 5) (b : BitVec 5) (f : BitVec 3) (r : BitVec 3) (x : BitVec 1) (m : BitVec 1)
  /-- R198. X: fused va × vb - vd rounded once. -/
  | vfms (w : BitVec 3) (d : BitVec 5) (a : BitVec 5) (b : BitVec 5) (f : BitVec 3) (r : BitVec 3) (x : BitVec 1) (m : BitVec 1)
  /-- R199. X: element-wise maximum. -/
  | vmax (w : BitVec 3) (d : BitVec 5) (a : BitVec 5) (b : BitVec 5) (f : BitVec 3) (m : BitVec 1)
  /-- R199. X: element-wise minimum. -/
  | vmin (w : BitVec 3) (d : BitVec 5) (a : BitVec 5) (b : BitVec 5) (f : BitVec 3) (m : BitVec 1)
  /-- R200. X: clears sign bits of non-NaN elements or takes integer absolute value. -/
  | vabs (w : BitVec 3) (d : BitVec 5) (a : BitVec 5) (f : BitVec 3) (m : BitVec 1)
  /-- R200. X: inverts sign bits of non-NaN elements or negates integers. -/
  | vneg (w : BitVec 3) (d : BitVec 5) (a : BitVec 5) (f : BitVec 3) (m : BitVec 1)
  /-- R202. X: converts elements from sfmt to fmt. -/
  | vcvt (w : BitVec 3) (d : BitVec 5) (a : BitVec 5) (g : BitVec 3) (f : BitVec 3) (r : BitVec 3) (x : BitVec 1) (m : BitVec 1)
  /-- R203. X: writes a mask from a lane-wise compare. -/
  | vcmp (w : BitVec 3) (k : BitVec 3) (a : BitVec 5) (b : BitVec 5) (f : BitVec 3) (c : BitVec 3) (m : BitVec 1)
  /-- R204. X: selects lanes of va or vb by a mask register. -/
  | vsel (w : BitVec 3) (d : BitVec 5) (a : BitVec 5) (b : BitVec 5) (s : BitVec 3) (m : BitVec 1)
  /-- R206. X: bitwise AND of all 2,048 bits. -/
  | vand (w : BitVec 3) (d : BitVec 5) (a : BitVec 5) (b : BitVec 5) (m : BitVec 1)
  /-- R206. X: bitwise OR of all 2,048 bits. -/
  | vor (w : BitVec 3) (d : BitVec 5) (a : BitVec 5) (b : BitVec 5) (m : BitVec 1)
  /-- R206. X: bitwise XOR of all 2,048 bits. -/
  | vxor (w : BitVec 3) (d : BitVec 5) (a : BitVec 5) (b : BitVec 5) (m : BitVec 1)
  /-- R206. X: shifts each 32-bit lane left. -/
  | vshl (w : BitVec 3) (d : BitVec 5) (a : BitVec 5) (b : BitVec 5) (m : BitVec 1)
  /-- R206. X: shifts each 32-bit lane right with zero fill. -/
  | vshr (w : BitVec 3) (d : BitVec 5) (a : BitVec 5) (b : BitVec 5) (m : BitVec 1)
  /-- R207. X: integer addition, wrapping or saturating. -/
  | viadd (w : BitVec 3) (d : BitVec 5) (a : BitVec 5) (b : BitVec 5) (f : BitVec 3) (x : BitVec 1) (m : BitVec 1)
  /-- R207. X: integer multiplication, wrapping or saturating. -/
  | vimul (w : BitVec 3) (d : BitVec 5) (a : BitVec 5) (b : BitVec 5) (f : BitVec 3) (x : BitVec 1) (m : BitVec 1)
  /-- R208. X: reduces 64 lanes by the fixed pairwise tree into lane 0. -/
  | vred (w : BitVec 3) (d : BitVec 5) (a : BitVec 5) (o : BitVec 5) (f : BitVec 3) (r : BitVec 3) (m : BitVec 1)
  /-- R209. X: permutes lanes of va by indices in vb. -/
  | vperm (w : BitVec 3) (d : BitVec 5) (a : BitVec 5) (b : BitVec 5) (m : BitVec 1)
  /-- R210. X: writes one lane of va to every lane. -/
  | vspl (w : BitVec 3) (d : BitVec 5) (a : BitVec 5) (l : BitVec 6) (m : BitVec 1)
  /-- R210. X: pops qx and writes its low 32 bits to every lane. -/
  | vsplQ (w : BitVec 3) (d : BitVec 5) (m : BitVec 1)
  /-- R212. X: pops the head of dq0-dq3 into a vector register. -/
  | vpop (w : BitVec 3) (d : BitVec 5) (q : BitVec 3)
  /-- R212. X: appends a vector register to dq4 or dq5. -/
  | vpush (w : BitVec 3) (a : BitVec 5) (q : BitVec 3)
  /-- R216. X: evaluates a coefficient table's piecewise cubic per lane. -/
  | vtab (w : BitVec 3) (d : BitVec 5) (a : BitVec 5) (t : BitVec 4) (f : BitVec 3) (r : BitVec 3) (x : BitVec 1) (m : BitVec 1)
  /-- R217. X: rotates lane pairs by the exact rotary phase of position and frequency. -/
  | vrope (w : BitVec 3) (d : BitVec 5) (a : BitVec 5) (b : BitVec 5) (f : BitVec 3) (r : BitVec 3) (m : BitVec 1)
  /-- R201. X: pops an FP32 scale from qx and scales every element. -/
  | vscl (w : BitVec 3) (d : BitVec 5) (a : BitVec 5) (f : BitVec 3) (r : BitVec 3) (x : BitVec 1) (m : BitVec 1)
  /-- R220. X: writes keyed Philox output to each lane. -/
  | vrng (w : BitVec 3) (d : BitVec 5) (m : BitVec 1)
  /-- R213. X: pops a drawbar receive buffer, optionally forwarding the word onward. -/
  | vdrw (w : BitVec 3) (d : BitVec 5) (s : BitVec 1) (f : BitVec 1)
  /-- R213. X: sends a vector register to the east or west neighbour. -/
  | vdwr (w : BitVec 3) (a : BitVec 5) (s : BitVec 1)
  /-- R205. X: computes a mask register by a mask function. -/
  | vmsk (w : BitVec 3) (d : BitVec 3) (a : BitVec 3) (b : BitVec 3) (f : BitVec 4)
  /-- R184. X: copies an accumulator row into a vector register. -/
  | accrd (w : BitVec 3) (d : BitVec 5) (r : BitVec 12)
  /-- R184. X: writes a vector register into an accumulator row. -/
  | accwr (w : BitVec 3) (a : BitVec 5) (r : BitVec 12)
  /-- R185. X: zeroes a tile slot of the accumulator store. -/
  | accz (w : BitVec 3) (s : BitVec 6)
  /-- R186. X: converts an accumulator row and appends it to dq4 or dq5. -/
  | accst (w : BitVec 3) (q : BitVec 1) (r : BitVec 12) (f : BitVec 3) (o : BitVec 3) (x : BitVec 1)
  /-- R221. X: pops a bit from bq and branches when b XOR N = 1. -/
  | xbr (w : BitVec 3) (n : BitVec 1) (i : BitVec 19)
  /-- R223. X: pops a count from qx and runs a zero-overhead loop taking max × span cycles. -/
  | xloop (w : BitVec 3) (l : BitVec 9) (m : BitVec 9)
  /-- R222. X: loads the X span register. -/
  | xlspan (w : BitVec 3) (n : BitVec 23)
  /-- R224. X: adds tokens to kXC, kXL or kXS. -/
  | xGive (w : BitVec 3) (q : BitVec 4) (c : BitVec 6)
  /-- R224. X: removes tokens from kCX, kLX or kSX. -/
  | xTake (w : BitVec 3) (q : BitVec 4) (c : BitVec 6)
  /-- R211. X: writes an immediate constant of the given kind to every lane. -/
  | vldi (w : BitVec 3) (d : BitVec 5) (k : BitVec 2) (i : BitVec 16)
  /-- R229. Gig: dd := da + db. -/
  | gigAdd (d : BitVec 5) (a : BitVec 5) (b : BitVec 5)
  /-- R229. Gig: dd := da - db. -/
  | gigSub (d : BitVec 5) (a : BitVec 5) (b : BitVec 5)
  /-- R229. Gig: bitwise AND. -/
  | gigAnd (d : BitVec 5) (a : BitVec 5) (b : BitVec 5)
  /-- R229. Gig: bitwise OR. -/
  | gigOr (d : BitVec 5) (a : BitVec 5) (b : BitVec 5)
  /-- R229. Gig: bitwise XOR. -/
  | gigXor (d : BitVec 5) (a : BitVec 5) (b : BitVec 5)
  /-- R229. Gig: shift left by db[5:0]. -/
  | gigShl (d : BitVec 5) (a : BitVec 5) (b : BitVec 5)
  /-- R229. Gig: shift right with zero fill. -/
  | gigShr (d : BitVec 5) (a : BitVec 5) (b : BitVec 5)
  /-- R229. Gig: shift right with sign fill. -/
  | gigSra (d : BitVec 5) (a : BitVec 5) (b : BitVec 5)
  /-- R229. Gig: low 64 bits of the product. -/
  | gigMul (d : BitVec 5) (a : BitVec 5) (b : BitVec 5)
  /-- R229. Gig: high 64 bits of the signed product. -/
  | gigMulh (d : BitVec 5) (a : BitVec 5) (b : BitVec 5)
  /-- R229. Gig: high 64 bits of the unsigned product. -/
  | gigMulhu (d : BitVec 5) (a : BitVec 5) (b : BitVec 5)
  /-- R229. Gig: signed quotient toward zero; divisor 0 gives all ones. -/
  | gigDiv (d : BitVec 5) (a : BitVec 5) (b : BitVec 5)
  /-- R229. Gig: unsigned quotient. -/
  | gigDivu (d : BitVec 5) (a : BitVec 5) (b : BitVec 5)
  /-- R229. Gig: signed remainder. -/
  | gigRem (d : BitVec 5) (a : BitVec 5) (b : BitVec 5)
  /-- R229. Gig: unsigned remainder. -/
  | gigRemu (d : BitVec 5) (a : BitVec 5) (b : BitVec 5)
  /-- R229. Gig: 1 if da < db signed. -/
  | gigSlt (d : BitVec 5) (a : BitVec 5) (b : BitVec 5)
  /-- R229. Gig: 1 if da < db unsigned. -/
  | gigSltu (d : BitVec 5) (a : BitVec 5) (b : BitVec 5)
  /-- R229. Gig: signed minimum. -/
  | gigMin (d : BitVec 5) (a : BitVec 5) (b : BitVec 5)
  /-- R229. Gig: signed maximum. -/
  | gigMax (d : BitVec 5) (a : BitVec 5) (b : BitVec 5)
  /-- R229. Gig: unsigned minimum. -/
  | gigMinu (d : BitVec 5) (a : BitVec 5) (b : BitVec 5)
  /-- R229. Gig: unsigned maximum. -/
  | gigMaxu (d : BitVec 5) (a : BitVec 5) (b : BitVec 5)
  /-- R229. Gig: count of leading zero bits of da. -/
  | gigClz (d : BitVec 5) (a : BitVec 5)
  /-- R229. Gig: count of trailing zero bits of da. -/
  | gigCtz (d : BitVec 5) (a : BitVec 5)
  /-- R229. Gig: number of one bits of da. -/
  | gigPopc (d : BitVec 5) (a : BitVec 5)
  /-- R230. Gig: dd := da + sign-extended imm16. -/
  | gigAddi (d : BitVec 5) (a : BitVec 5) (i : BitVec 16)
  /-- R230. Gig: dd := da AND zero-extended imm16. -/
  | gigAndi (d : BitVec 5) (a : BitVec 5) (i : BitVec 16)
  /-- R230. Gig: dd := da OR zero-extended imm16. -/
  | gigOri (d : BitVec 5) (a : BitVec 5) (i : BitVec 16)
  /-- R230. Gig: dd := da XOR zero-extended imm16. -/
  | gigXori (d : BitVec 5) (a : BitVec 5) (i : BitVec 16)
  /-- R230. Gig: shift left by imm16[5:0]. -/
  | gigShli (d : BitVec 5) (a : BitVec 5) (i : BitVec 6)
  /-- R230. Gig: shift right with zero fill by imm16[5:0]. -/
  | gigShri (d : BitVec 5) (a : BitVec 5) (i : BitVec 6)
  /-- R230. Gig: shift right with sign fill by imm16[5:0]. -/
  | gigSrai (d : BitVec 5) (a : BitVec 5) (i : BitVec 6)
  /-- R230. Gig: 1 if da < sign-extended imm16, signed. -/
  | slti (d : BitVec 5) (a : BitVec 5) (i : BitVec 16)
  /-- R230. Gig: 1 if da < sign-extended imm16, unsigned. -/
  | sltiu (d : BitVec 5) (a : BitVec 5) (i : BitVec 16)
  /-- R230. Gig: dd := sign-extend(imm16 << 16). -/
  | gigLui (d : BitVec 5) (i : BitVec 16)
  /-- R231. Gig: branches when da = db. -/
  | beq (a : BitVec 5) (b : BitVec 5) (i : BitVec 16)
  /-- R231. Gig: branches when da != db. -/
  | bne (a : BitVec 5) (b : BitVec 5) (i : BitVec 16)
  /-- R231. Gig: branches when da < db signed. -/
  | blt (a : BitVec 5) (b : BitVec 5) (i : BitVec 16)
  /-- R231. Gig: branches when da >= db signed. -/
  | bge (a : BitVec 5) (b : BitVec 5) (i : BitVec 16)
  /-- R231. Gig: branches when da < db unsigned. -/
  | bltu (a : BitVec 5) (b : BitVec 5) (i : BitVec 16)
  /-- R231. Gig: branches when da >= db unsigned. -/
  | bgeu (a : BitVec 5) (b : BitVec 5) (i : BitVec 16)
  /-- R231. Gig: writes the link to d31 and jumps. -/
  | jal (i : BitVec 26)
  /-- R231. Gig: jumps to da + imm16 and writes the link to dd. -/
  | jalr (d : BitVec 5) (a : BitVec 5) (i : BitVec 16)
  /-- R233. Gig: loads a sign-extended byte. -/
  | ldb (d : BitVec 5) (a : BitVec 5) (c : BitVec 4) (i : BitVec 9)
  /-- R233. Gig: loads a sign-extended halfword. -/
  | ldh (d : BitVec 5) (a : BitVec 5) (c : BitVec 4) (i : BitVec 9)
  /-- R233. Gig: loads a sign-extended word. -/
  | ldw (d : BitVec 5) (a : BitVec 5) (c : BitVec 4) (i : BitVec 9)
  /-- R233. Gig: loads a doubleword. -/
  | ldd (d : BitVec 5) (a : BitVec 5) (c : BitVec 4) (i : BitVec 9)
  /-- R233. Gig: loads a zero-extended byte. -/
  | ldbu (d : BitVec 5) (a : BitVec 5) (c : BitVec 4) (i : BitVec 9)
  /-- R233. Gig: loads a zero-extended halfword. -/
  | ldhu (d : BitVec 5) (a : BitVec 5) (c : BitVec 4) (i : BitVec 9)
  /-- R233. Gig: loads a zero-extended word. -/
  | ldwu (d : BitVec 5) (a : BitVec 5) (c : BitVec 4) (i : BitVec 9)
  /-- R233. Gig: stores the low byte of dd. -/
  | stb (s : BitVec 5) (a : BitVec 5) (c : BitVec 4) (i : BitVec 9)
  /-- R233. Gig: stores the low halfword of dd. -/
  | sth (s : BitVec 5) (a : BitVec 5) (c : BitVec 4) (i : BitVec 9)
  /-- R233. Gig: stores the low word of dd. -/
  | stw (s : BitVec 5) (a : BitVec 5) (c : BitVec 4) (i : BitVec 9)
  /-- R233. Gig: stores the doubleword dd. -/
  | std (s : BitVec 5) (a : BitVec 5) (c : BitVec 4) (i : BitVec 9)
  /-- R237. Gig atomic: adds v, returning the old value. -/
  | amoadd (d : BitVec 5) (a : BitVec 5) (b : BitVec 5) (w : BitVec 1) (c : BitVec 4)
  /-- R237. Gig atomic: writes v, returning the old value. -/
  | amoswap (d : BitVec 5) (a : BitVec 5) (b : BitVec 5) (w : BitVec 1) (c : BitVec 4)
  /-- R237. Gig atomic: writes v if old equals dd, returning the old value. -/
  | amocas (d : BitVec 5) (a : BitVec 5) (b : BitVec 5) (w : BitVec 1) (c : BitVec 4)
  /-- R237. Gig atomic: signed minimum. -/
  | amomin (d : BitVec 5) (a : BitVec 5) (b : BitVec 5) (w : BitVec 1) (c : BitVec 4)
  /-- R237. Gig atomic: signed maximum. -/
  | amomax (d : BitVec 5) (a : BitVec 5) (b : BitVec 5) (w : BitVec 1) (c : BitVec 4)
  /-- R237. Gig atomic: unsigned minimum. -/
  | amominu (d : BitVec 5) (a : BitVec 5) (b : BitVec 5) (w : BitVec 1) (c : BitVec 4)
  /-- R237. Gig atomic: unsigned maximum. -/
  | amomaxu (d : BitVec 5) (a : BitVec 5) (b : BitVec 5) (w : BitVec 1) (c : BitVec 4)
  /-- R237. Gig atomic: bitwise AND. -/
  | amoand (d : BitVec 5) (a : BitVec 5) (b : BitVec 5) (w : BitVec 1) (c : BitVec 4)
  /-- R237. Gig atomic: bitwise OR. -/
  | amoor (d : BitVec 5) (a : BitVec 5) (b : BitVec 5) (w : BitVec 1) (c : BitVec 4)
  /-- R237. Gig atomic: bitwise XOR. -/
  | amoxor (d : BitVec 5) (a : BitVec 5) (b : BitVec 5) (w : BitVec 1) (c : BitVec 4)
  /-- R240. Gig: orders the thread's accesses of masked classes within a scope. -/
  | fence (s : BitVec 5) (m : BitVec 16)
  /-- R241. Gig FPU: rounded addition. -/
  | fadd (d : BitVec 5) (a : BitVec 5) (b : BitVec 5) (f : BitVec 3) (r : BitVec 3)
  /-- R241. Gig FPU: rounded subtraction. -/
  | fsub (d : BitVec 5) (a : BitVec 5) (b : BitVec 5) (f : BitVec 3) (r : BitVec 3)
  /-- R241. Gig FPU: rounded multiplication. -/
  | fmul (d : BitVec 5) (a : BitVec 5) (b : BitVec 5) (f : BitVec 3) (r : BitVec 3)
  /-- R241. Gig FPU: rounded division. -/
  | fdiv (d : BitVec 5) (a : BitVec 5) (b : BitVec 5) (f : BitVec 3) (r : BitVec 3)
  /-- R241. Gig FPU: rounded square root. -/
  | fsqrt (d : BitVec 5) (a : BitVec 5) (f : BitVec 3) (r : BitVec 3)
  /-- R241. Gig FPU: smaller operand. -/
  | fmin (d : BitVec 5) (a : BitVec 5) (b : BitVec 5) (f : BitVec 3)
  /-- R241. Gig FPU: larger operand. -/
  | fmax (d : BitVec 5) (a : BitVec 5) (b : BitVec 5) (f : BitVec 3)
  /-- R241. Gig FPU: 1 if equal. -/
  | feq (d : BitVec 5) (a : BitVec 5) (b : BitVec 5) (f : BitVec 3)
  /-- R241. Gig FPU: 1 if less. -/
  | flt (d : BitVec 5) (a : BitVec 5) (b : BitVec 5) (f : BitVec 3)
  /-- R241. Gig FPU: 1 if less or equal. -/
  | fle (d : BitVec 5) (a : BitVec 5) (b : BitVec 5) (f : BitVec 3)
  /-- R242. Gig FPU: converts da from sfmt to fmt. -/
  | fcvt (d : BitVec 5) (a : BitVec 5) (g : BitVec 3) (f : BitVec 3) (r : BitVec 3)
  /-- R243. Gig FPU: correctly rounded 2^da in FP32. -/
  | fexp2 (d : BitVec 5) (a : BitVec 5)
  /-- R244. Gig: fused da × db + dc. -/
  | fma (d : BitVec 5) (a : BitVec 5) (b : BitVec 5) (c : BitVec 5) (f : BitVec 1) (r : BitVec 3)
  /-- R244. Gig: fused da × db - dc. -/
  | fms (d : BitVec 5) (a : BitVec 5) (b : BitVec 5) (c : BitVec 5) (f : BitVec 1) (r : BitVec 3)
  /-- R244. Gig: fused -(da × db) + dc. -/
  | fnma (d : BitVec 5) (a : BitVec 5) (b : BitVec 5) (c : BitVec 5) (f : BitVec 1) (r : BitVec 3)
  /-- R246. Gig: arrives at a barrier, returning the phase token, and may complete the phase. -/
  | arrive (d : BitVec 5) (n : BitVec 4)
  /-- R247. Gig: compares a token with a barrier's phase, waiting with an optional limit. -/
  | waitp (d : BitVec 5) (a : BitVec 5) (b : BitVec 5) (n : BitVec 4)
  /-- R248. Gig: sets an event line of the own coach. -/
  | evsig (n : BitVec 5)
  /-- R248. Gig: sends an event-line set to a coach of the partition. -/
  | evmsg (a : BitVec 5) (n : BitVec 5)
  /-- R249. Gig: sends a 64-byte message to a thread, holding while no room exists. -/
  | gigSend (a : BitVec 5) (b : BitVec 5)
  /-- R250. Gig: takes the oldest message into the scratchpad, waiting unless .NB. -/
  | recv (d : BitVec 5) (a : BitVec 5) (n : BitVec 1)
  /-- R251. Gig: submits a child launch header to the die's pool or spill queue. -/
  | spawn (d : BitVec 5) (a : BitVec 5) (p : BitVec 1)
  /-- R252. Gig: returns a field of the current work item number. -/
  | wid (d : BitVec 5) (n : BitVec 3)
  /-- R253. Gig: offers an entry to a top-k min-heap in the scratchpad. -/
  | hsift (d : BitVec 5) (a : BitVec 5) (b : BitVec 5) (k : BitVec 5)
  /-- R254. Gig: adds to a routing counter of the own die. -/
  | cntadd (a : BitVec 5) (b : BitVec 5)
  /-- R254. Gig: copies and clears a range of routing counters as one action. -/
  | cntsnap (a : BitVec 5) (b : BitVec 5) (n : BitVec 6)
  /-- R401. Livery: allocates the sequence's next logical block. -/
  | balloc (d : BitVec 5) (a : BitVec 5) (n : BitVec 1)
  /-- R401. Livery: releases a sequence or drops its last logical block. -/
  | bfree (a : BitVec 5) (b : BitVec 5)
  /-- R402. Livery: creates a sequence sharing a parent's full blocks and copying its partial block. -/
  | bfork (d : BitVec 5) (a : BitVec 5) (b : BitVec 5) (n : BitVec 1)
  /-- R401. Livery: returns the physical address of the block holding a token. -/
  | bmap (d : BitVec 5) (a : BitVec 5) (b : BitVec 5)
  /-- R401. Livery: extends a sequence by tokens, allocating blocks atomically. -/
  | bappend (d : BitVec 5) (a : BitVec 5) (b : BitVec 5) (n : BitVec 1)
  /-- R256. Gig: submits a waybill card to the coach's engine. -/
  | wbill (d : BitVec 5) (a : BitVec 5)
  /-- R257. Gig: returns the state of a waybill card. -/
  | wbstat (d : BitVec 5) (a : BitVec 5)
  /-- R258. Gig: sends a value to a die's post slot tagged with a layover id. -/
  | post (d : BitVec 5) (a : BitVec 5) (b : BitVec 5) (s : BitVec 6)
  /-- R259. Gig: requests an EXT freeze of the partition, at once or at the next STAGE. -/
  | tfreeze (d : BitVec 5) (s : BitVec 1)
  /-- R259. Gig: requests re-alignment and restart of a frozen partition. -/
  | tresume (d : BitVec 5)
  /-- R259. Gig: returns the freeze frame address of a pipeline. -/
  | tframe (d : BitVec 5) (a : BitVec 5)
  /-- R260. Gig: traps TRAP with the given code. -/
  | trap (c : BitVec 6)
  /-- R260. Gig: returns from a trap to TPC, restoring the privilege level. -/
  | tret
  /-- R261. Gig: reads a gig control register. -/
  | gigCsrr (d : BitVec 5) (c : BitVec 6)
  /-- R261. Gig: writes a gig control register. -/
  | gigCsrw (a : BitVec 5) (c : BitVec 6)
  /-- R260. Gig: ends the context's slice if an equal or higher priority context is ready. -/
  | yield
  /-- R260. Gig: ends the current work item; the thread restarts with its next item or leaves. -/
  | gigHalt
  /-- R261. Gig: writes a road-book entry. -/
  | trace (a : BitVec 5) (t : BitVec 6)
  /-- R262. Gig: returns Philox output for a key, counter and stream. -/
  | rng (d : BitVec 5) (a : BitVec 5) (b : BitVec 5) (s : BitVec 6)
  /-- R263. Gig: asks the die's turnpike for leave to move bytes. -/
  | leave (d : BitVec 5) (a : BitVec 5) (c : BitVec 1)
  /-- R236. LDD at a barrier offset of the event-unit window arrives and waits for the phase to complete. -/
  | euBarrierArrive (t : Nat) (j : Nat)
  /-- R236. LDD at a mutex offset acquires the mutex, waiting while it is held. -/
  | euMutexAcquire (t : Nat) (j : Nat)
  /-- R236. STD at a mutex offset releases the mutex held by the thread. -/
  | euMutexRelease (t : Nat) (j : Nat)
  /-- R236. LDD at an event-line offset waits until the line is set, then clears it. -/
  | euEventWait (t : Nat) (j : Nat)
  /-- R236. STD at an event-line offset sets the line. -/
  | euEventSet (t : Nat) (j : Nat)
  /-- R386. Store to the control block's SHOOT register requests a shoot-down of cached translations. -/
  | shoot (t : Nat) (j : Nat)
  /-- R387. Load of DONE holds the thread until earlier shoot-downs complete and returns the count. -/
  | done (t : Nat) (j : Nat)
  /-- R6. A write to a register or field that has no behaviour of its own stores the value, ignoring RO and RSV bits. -/
  | registerWrite (g : Nat)
  /-- R269. A timed result in flight completes at its exposed latency and becomes readable. -/
  | resultComplete (g : Nat)
  /-- R145. At issue + 8 a stream register takes its new descriptor after the validity check. -/
  | scfgTakesEffect (g : Nat)
  /-- R158. At issue + 48 NXT takes the walk result, faulted if the walk or permissions failed. -/
  | tlbpResult (g : Nat)
  /-- R156. At issue + 256 the coefficient table holds the new contents. -/
  | ldcmComplete (g : Nat)
  /-- R170. At the end of issue + 2 the RMW writes its new value and releases the bank. -/
  | rmwFinalWrite (g : Nat)
  /-- R162. An HLD unit enters tensor SRAM in the cycle carrying its landing ATK. -/
  | hldLanding (g : Nat)
  /-- R162. An HST's bytes are written to HBM at issue + 640. -/
  | hstCompletion (g : Nat)
  /-- R279. An HBM controller performs a timed transfer in the next occurrence of its slot. -/
  | hbmSlotTransfer (j : Nat)
  /-- R279. A returning HBM unit reaches the die's return buffer, slipping LINK if late. -/
  | hbmUnitArrival (g : Nat) (late : Nat)
  /-- R161. At issue + 40 a second timed transfer on one pseudo-channel slot is refused as a TOKEN slip. -/
  | hbmSlotRefusal (g : Nat)
  /-- R278. An HBM controller issues refresh in a slot free of timed use. -/
  | hbmRefresh (j : Nat)
  /-- R462. Firmware scrubs HBM, tensor SRAM or the accumulator store, correcting and counting errors. -/
  | scrub (u : Nat) (a : Nat) (bad : Bool)
  /-- R281. A timed word physically arrives at a die and is judged by its skew. -/
  | wordArrival (d : Nat)
  /-- R168. A SEND or MCAST word lands in its target pipelines at its landing cycle. -/
  | relayLanding (g : Nat)
  /-- R276. In the fourth cycle of a window, words beyond TCH entering a boundary direction are a TOKEN slip. -/
  | boundaryChannelOverflow (d : Nat)
  /-- R213. A drawbar word arrives in the neighbour's receive buffer at the end of issue + 1. -/
  | drawbarArrival (g : Nat)
  /-- R452. A link plan occurrence reads 256 bytes at its source at its τ. -/
  | linkPlanRead (k : Nat) (j : Nat)
  /-- R452. A link plan word lands at its destination 640 cycles after its read. -/
  | linkPlanLanding (k : Nat) (j : Nat)
  /-- R177. A matrix nest K-step reads its operands and accumulates one group into every cell of its tile. -/
  | nestKStep (g : Nat)
  /-- R182. The nest's final values become readable and the go bit clears. -/
  | nestDone (g : Nat)
  /-- R280. A neighbour's ATK arrives on the sideband and is kept as obs. -/
  | sidebandAtk (d : Nat) (n : Nat)
  /-- R124. The alignment ends when the cycle's ATK no longer exceeds every neighbour's observed ATK plus λ. -/
  | alignRelease (d : Nat)
  /-- R124. The held count reaches the limit and an ALIGN slip is detected. -/
  | alignSlip (d : Nat)
  /-- R405. At fe every pipeline stops issue, captures results and words in flight, and writes its freeze frame. -/
  | freezeTakesEffect (k : Nat)
  /-- R413. When every frame is written the partition is frozen and EXT_INT is sent to the SUP coach's chain, or the launch is aborted. -/
  | freezeNotice (k : Nat)
  /-- R413. A pending EXT_INT is taken at the first instruction boundary with XIE set and INH clear. -/
  | extIntTaken (t : Nat)
  /-- R259. A TFREEZE request reaches the partition and is detected as an EXT freeze. -/
  | extRequestArrival (k : Nat)
  /-- R411. TRESUME performs at the partition: reads ACTION, loads frames, runs catch-up and starts re-alignment. -/
  | tresumePerform (k : Nat)
  /-- R411. The cycle carrying fe runs 32 cycles after TRESUME, and latches and siding entries complete at fe + R. -/
  | restart (d : Nat)
  /-- R138. A halted pipeline finishes when its last result completes; the launch completes when all have. -/
  | pipelineFinished (g : Nat)
  /-- R366. Every pipeline of the partition starts issue in the cycle carrying ATK0. -/
  | timedGlobalStart (k : Nat)
  /-- R297. A POST reaches the post board and is taken, held pending, discarded or refused. -/
  | postArrival (t : Nat)
  /-- R300. The cycle that would carry close + 32 is held on every die of the partition. -/
  | brakeHoldStart (d : Nat)
  /-- R300. 32 cycles after the last missing post is taken, the held cycle runs and the brake ends. -/
  | brakeRelease (d : Nat)
  /-- R302. Held cycle LIMIT + 1 detects BRAKE_LIMIT and the freeze follows. -/
  | brakeLimit (d : Nat)
  /-- R299. The cycle carrying close + SETTLE is the settle cycle; NSETTLE is signalled. -/
  | layoverSettle (d : Nat)
  /-- R482. The turnpike hold ends after its whole number of stage lengths and the STAGE issues. -/
  | turnpikeDelayEnd (d : Nat)
  /-- R480. A change of TA or LB is applied by every turnpike at its effective ATK or held cycle. -/
  | allowanceChange (d : Nat) (ta : Nat) (lb : Nat)
  /-- R479. The BMC sets a lower package power cap, which firmware splits among dies. -/
  | powerCap (watts : Nat)
  /-- R309. A launch's wake reaches a coach, loading its event unit and starting its threads. -/
  | wake (c : Nat)
  /-- R312. A group exits once its last thread has left and its accesses and cards are done; its region is zeroed. -/
  | groupExit (c : Nat)
  /-- R311. A dynamic launch completes when every thread has left and every .P child has completed. -/
  | dynLaunchComplete (l : Nat)
  /-- R416. The launch scheduler starts a context on a coach in a free save slot. -/
  | contextStart (c : Nat)
  /-- R319. A chained barrier's child arrival reaches its parent barrier. -/
  | childArrival (c : Nat)
  /-- R319. A parent's release reaches a child barrier, completing its phase. -/
  | barrierRelease (c : Nat)
  /-- R248. An EVMSG reaches its coach and sets the event line. -/
  | evmsgArrival (c : Nat)
  /-- R303. An open or settle notice reaches its coach and sets an event line. -/
  | layoverNotice (c : Nat)
  /-- R315. A child's completion sets the named event line after EVMSG transit. -/
  | childCompletion (c : Nat)
  /-- R247. A WAITP limit expires without the phase completing and it returns TIMEOUT. -/
  | waitpTimeout (t : Nat)
  /-- R249. A held SEND is accepted in the first gig cycle in which room exists. -/
  | sendAccept (t : Nat)
  /-- R325. A waybill card starts when its predecessors are satisfied and its edges retired. -/
  | cardStart (c : Nat) (j : Nat)
  /-- R326. A card row lands and becomes visible, making an arrival if AUNIT = 1. -/
  | rowLanded (c : Nat) (j : Nat)
  /-- R325. A card retires when every row has landed, making its arrival if AUNIT = 0. -/
  | cardRetire (c : Nat) (j : Nat)
  /-- R328. A row check fails, faulting the card and its dependants and sending EXT_INT. -/
  | cardFault (c : Nat) (j : Nat)
  /-- R329. A large card without a grant asks the turnpike again after the returned wait. -/
  | cardLeaveRetry (c : Nat) (j : Nat)
  /-- R484. A turnpike charge expires 65,536 gig cycles after its grant. -/
  | grantExpiry (d : Nat)
  /-- R419. A context's slice expires, switching it out, restarting the slice or trapping SLICE. -/
  | sliceExpiry (c : Nat)
  /-- R420. A context is switched out after its accesses perform and started cards retire. -/
  | switchOut (c : Nat)
  /-- R420. A switched-out context is restored and restarts issue. -/
  | contextRestore (c : Nat)
  /-- R386. A shoot-down completes when its translations are gone and their users have performed. -/
  | shootdownComplete (k : Nat)
  /-- R354. A 64-byte DMWr to the portal submits a packet or is retried or refused. -/
  | portalDmwr (port : Nat) (a : Nat) (w : List Word)
  /-- R354. A posted write to the portal is discarded and counted. -/
  | portalPostedWrite (port : Nat)
  /-- R473. The BMC submits a packet in an MCTP message over I3C. -/
  | mctpPacket (w : List Word)
  /-- R366. Packet: loads, checks and starts a timed launch from an object or the resident bank. -/
  | launchTimed (j : Nat)
  /-- R369. Packet: submits a dynamic launch header to the pool of FCOACH's die. -/
  | launchDyn (j : Nat)
  /-- R359. Packet: copies bytes from SRC to DST. -/
  | copy (j : Nat)
  /-- R359. Packet: writes an 8-byte pattern over DST. -/
  | copyFill (j : Nat)
  /-- R358. Packet: sets a synchronisation counter, optionally raising an event line and MSI-X vector. -/
  | signalSet (j : Nat)
  /-- R358. Packet: adds to a synchronisation counter, optionally raising an event line and MSI-X vector. -/
  | signalAdd (j : Nat)
  /-- R358. Packet: holds its queue until a counter reaches a value. -/
  | wait (j : Nat)
  /-- R358. A WAIT completes when its counter condition first holds. -/
  | waitComplete (j : Nat)
  /-- R372. Packet: applies a difference list to the shadow bank and checks its CRC. -/
  | configDiffApply (j : Nat)
  /-- R373. Packet: makes the previous intact bank resident. -/
  | configDiffRollback (j : Nat)
  /-- R372. The shadow bank becomes resident as an exclusive operation. -/
  | configSwap (k : Nat)
  /-- R374. Query type 0: device identity, firmware versions, portal statistics and link word. -/
  | queryIdentity (j : Nat)
  /-- R374. Query type 1: the partition map. -/
  | queryPartitionMap (j : Nat)
  /-- R374. Query type 2: the state of a launch. -/
  | queryLaunchState (j : Nat)
  /-- R374. Query type 3: the 64 seed records. -/
  | querySeedRecords (j : Nat)
  /-- R466. Query type 4: the health record or a black-box ring. -/
  | queryHealth (j : Nat)
  /-- R374. Query type 5: synchronisation counters from ARG. -/
  | queryCounters (j : Nat)
  /-- R478. Query type 6: reads a nonce and returns a signed attestation report. -/
  | queryAttestation (j : Nat)
  /-- R472. Packet: verifies a firmware image on the standby and hands over to it. -/
  | fwUpdate (j : Nat)
  /-- R362. Packet: creates and aligns a partition from a descriptor. -/
  | partitionCreate (j : Nat)
  /-- R362. Packet: destroys a partition and frees its dies. -/
  | partitionDestroy (j : Nat)
  /-- R360. A 32-byte completion record is written in queue packet order. -/
  | completionRecordWrite (j : Nat)
  /-- R474. A write of CLAIM to OWN claims ownership if free or if named successor. -/
  | ownClaim (m : Nat)
  /-- R474. The owner writes SUCC to name or cancel a successor. -/
  | ownSucc (m : Nat) (succ : Nat)
  /-- R474. A named successor that does not claim within 1 s is cleared. -/
  | succTimeout
  /-- R474. The owner's link is down or the BMC silent for 5 s, so ownership is released. -/
  | ownerLoss
  /-- R478. The BMC obtains the attestation report through SPDM. -/
  | spdmGetMeasurements (nonce : BitVec 384)
  /-- R485. Power-good or package reset brings the package up in order. -/
  | packageReset (bad : List Nat)
  /-- R468. Loss of power leaves the last durable black-box entry as newest. -/
  | powerLoss
  /-- R449. Packages form a timed domain and their ATKs are aligned. -/
  | domainFormation (n : Nat)
  /-- R453. A freeze notice arriving over a package link detects an EXT freeze. -/
  | linkFreezeNotice (k : Nat)
  /-- R455. A restart notice arriving over a package link restarts the member. -/
  | linkRestartNotice (k : Nat)
  /-- R456. An Ethernet port completion sets a synchronisation counter and event line. -/
  | uetCompletion (k : Nat) (ctr : Nat) (v : Word) (line : Option Nat)
  /-- R235. A gig access, or a ROUTE or LIVERY instruction, reaches its target at an instant that is not fixed, where its window and peer checks are judged and where it performs. -/
  | accessReachesTarget (t : Nat) (j : Nat)
  /-- R389. A host access gets an error completion, or no completion before its timeout, and this reaches the consumer as an uncorrectable error. -/
  | completionTimeout (t : Nat) (j : Nat)
  /-- R74. A timed word with an unassigned opcode or a non-zero reserved field issues at its cycle, takes no effect and is an ILL_OP freeze. -/
  | unassignedTimedWord (x : BitVec 32)
  /-- R89. A gig word whose major opcode, code or reserved field is unassigned traps ILL precisely. -/
  | unassignedGigWord (x : BitVec 32)
  deriving DecidableEq, Repr

end Sys2Proof
end

