-- ==== Sys2Proof/WellFormed.lean ====
section
/-! DEFINITION. When an instruction's operands lie in what its layout allows (03 R73 to R89 and the range of each
instruction's own rule). A word that breaks this is illegal: ILL_OP, or trap ILL of a gig. -/
namespace Sys2Proof

/-- The static legality of an instruction (03 R74, R75, R89). An event is always well formed. -/
def Instr.wellFormed (i : Instr) : Bool :=
  match i with
  | .idle .. => true
  | .add .. => true
  | .sub .. => true
  | .and .. => true
  | .or .. => true
  | .xor .. => true
  | .shl .. => true
  | .shr .. => true
  | .sra .. => true
  | .mul .. => true
  | .mulh .. => true
  | .mulhu .. => true
  | .min .. => true
  | .max .. => true
  | .minu .. => true
  | .maxu .. => true
  | .addi .. => true
  | .andi .. => true
  | .ori .. => true
  | .xori .. => true
  | .shli .. => true
  | .shri .. => true
  | .srai .. => true
  | .li .. => true
  | .lui .. => true
  | .cmp _ _ _ _ c => decide (c.toNat ≤ 5)
  | .cmpi _ _ _ c _ => decide (c.toNat ≤ 5)
  | .sel .. => true
  | .lds .. => true
  | .sts .. => true
  | .br .. => true
  | .brp .. => true
  | .loop _ _ l m => decide (1 ≤ l.toNat ∧ 1 ≤ m.toNat)
  | .lspan _ n => decide (1 ≤ n.toNat)
  | .call .. => true
  | .ret .. => true
  | .cGive _ q c => decide ((q.toNat = 0 ∨ q.toNat = 1 ∨ q.toNat = 2) ∧ 1 ≤ c.toNat)
  | .cTake _ q c => decide ((q.toNat = 4 ∨ q.toNat = 6 ∨ q.toNat = 9) ∧ 1 ≤ c.toNat)
  | .sqw _ t _ => decide (t.toNat ≠ 3)
  | .bqw .. => true
  | .align .. => true
  | .stage .. => true
  | .wopen .. => true
  | .wclose .. => true
  | .postrd .. => true
  | .postv .. => true
  | .nest _ l f _ => decide (l.toNat ≤ 5 ∧ f.toNat ≠ 6 ∧ f.toNat ≠ 7 ∧ (8 ≤ f.toNat → l.toNat = 0))
  | .mgo .. => true
  | .csrr _ _ c => decide (c.toNat ≤ 5 ∨ (8 ≤ c.toNat ∧ c.toNat ≤ 0xB) ∨ (0x10 ≤ c.toNat ∧ c.toNat ≤ 0x1F))
  | .csrw _ _ c => decide (c.toNat ≤ 5 ∨ (8 ≤ c.toNat ∧ c.toNat ≤ 0xB) ∨ (0x10 ≤ c.toNat ∧ c.toNat ≤ 0x1F))
  | .tick .. => true
  | .mark .. => true
  | .trapc .. => true
  | .freeze .. => true
  | .halt .. => true
  | .lScfg _ s _ _ => decide (s.toNat < 8)
  | .lSadv _ s _ => decide (s.toNat < 8)
  | .aadd .. => true
  | .aaddi .. => true
  | .ali .. => true
  | .lSqr .. => true
  | .ldq _ q s => decide (q.toNat ≤ 3 ∧ s.toNat < 8)
  | .gath _ s _ _ => decide (s.toNat < 8)
  | .hld _ s _ _ => decide (s.toNat < 8)
  | .lTlbp _ s => decide (s.toNat < 8)
  | .bout _ s => decide (s.toNat < 8)
  | .ldcb .. => true
  | .ldcm .. => true
  | .lGive _ q c => decide ((q.toNat = 3 ∨ q.toNat = 4 ∨ q.toNat = 5) ∧ 1 ≤ c.toNat)
  | .lTake _ q c => decide ((q.toNat = 0 ∨ q.toNat = 7 ∨ q.toNat = 10) ∧ 1 ≤ c.toNat)
  | .sScfg _ s _ _ => decide (8 ≤ s.toNat)
  | .sSadv _ s _ => decide (8 ≤ s.toNat)
  | .badd .. => true
  | .baddi .. => true
  | .bli .. => true
  | .sSqr .. => true
  | .stq _ q s f r _ _ _ => decide ((q.toNat = 4 ∨ q.toNat = 5) ∧ 8 ≤ s.toNat ∧ (f.toNat ≤ 6 ∨ f.toNat = 10) ∧ r.toNat ≠ 6)
  | .hst _ s _ _ => decide (8 ≤ s.toNat)
  | .send _ q _ => decide (q.toNat = 4 ∨ q.toNat = 5)
  | .mcast _ q _ _ => decide (q.toNat = 4 ∨ q.toNat = 5)
  | .rmw _ o t _ _ => decide (o.toNat ≠ 7 ∧ t.toNat ≠ 3)
  | .hclr .. => true
  | .hsnap .. => true
  | .sTlbp _ s => decide (8 ≤ s.toNat)
  | .sGive _ q c => decide ((q.toNat = 9 ∨ q.toNat = 10 ∨ q.toNat = 11) ∧ 1 ≤ c.toNat)
  | .sTake _ q c => decide ((q.toNat = 2 ∨ q.toNat = 5 ∨ q.toNat = 8) ∧ 1 ≤ c.toNat)
  | .vadd _ _ _ _ f r _ _ => decide (f.toNat ≤ 2 ∧ r.toNat ≠ 6)
  | .vsub _ _ _ _ f r _ _ => decide (f.toNat ≤ 2 ∧ r.toNat ≠ 6)
  | .vmul _ _ _ _ f r _ _ => decide (f.toNat ≤ 2 ∧ r.toNat ≠ 6)
  | .vfma _ _ _ _ f r _ _ => decide (f.toNat ≤ 2 ∧ r.toNat ≠ 6)
  | .vfms _ _ _ _ f r _ _ => decide (f.toNat ≤ 2 ∧ r.toNat ≠ 6)
  | .vmax _ _ _ _ f _ => decide (f.toNat ≠ 3 ∧ f.toNat ≠ 4)
  | .vmin _ _ _ _ f _ => decide (f.toNat ≠ 3 ∧ f.toNat ≠ 4)
  | .vabs _ _ _ f _ => decide (f.toNat ≤ 2 ∨ f.toNat = 5 ∨ f.toNat = 7)
  | .vneg _ _ _ f _ => decide (f.toNat ≤ 2 ∨ f.toNat = 5 ∨ f.toNat = 7)
  | .vcvt _ _ _ g f r _ _ => decide
      (g ≠ f ∧ r.toNat ≠ 6 ∧ (5 ≤ g.toNat ∧ 5 ≤ f.toNat → r.toNat = 0) ∧
      (3 ≤ g.toNat ∧ g.toNat ≤ 6 ∧ 3 ≤ f.toNat ∧ f.toNat ≤ 6 → r.toNat ≠ 5))
  | .vcmp _ _ _ _ f c _ => decide ((f.toNat = 0 ∧ c.toNat ≤ 6) ∨ (f.toNat = 7 ∧ c.toNat ≤ 5))
  | .vsel .. => true
  | .vand .. => true
  | .vor .. => true
  | .vxor .. => true
  | .vshl .. => true
  | .vshr .. => true
  | .viadd _ _ _ _ f _ _ => decide (5 ≤ f.toNat)
  | .vimul _ _ _ _ f _ _ => decide (5 ≤ f.toNat)
  | .vred _ _ _ o f r _ => decide
      ((f.toNat = 0 ∧ o.toNat = 0 ∧ r.toNat ≠ 5 ∧ r.toNat ≠ 6) ∨ (f.toNat = 0 ∧ o.toNat ≤ 2 ∧ r.toNat = 0) ∨
      (f.toNat = 7 ∧ o.toNat ≤ 5 ∧ r.toNat = 0))
  | .vperm .. => true
  | .vspl .. => true
  | .vsplQ .. => true
  | .vpop _ _ q => decide (q.toNat ≤ 3)
  | .vpush _ _ q => decide (q.toNat = 4 ∨ q.toNat = 5)
  | .vtab _ _ _ _ f r _ _ => decide (f.toNat ≤ 2 ∧ r.toNat ≠ 6)
  | .vrope _ _ _ _ f r _ => decide (f.toNat ≤ 2 ∧ r.toNat ≠ 6)
  | .vscl _ _ _ f r _ _ => decide (f.toNat ≤ 2 ∧ r.toNat ≠ 6)
  | .vrng .. => true
  | .vdrw .. => true
  | .vdwr .. => true
  | .vmsk _ _ a b f => decide (f.toNat ≤ 7 ∧ (f.toNat = 4 ∨ f.toNat = 7 → b.toNat = 0) ∧ (f.toNat = 5 ∨ f.toNat = 6 → a.toNat = 0 ∧ b.toNat = 0))
  | .accrd _ _ r => decide (r.toNat < 3072)
  | .accwr _ _ r => decide (r.toNat < 3072)
  | .accz _ s => decide (s.toNat < 48)
  | .accst _ _ r f o x => decide (r.toNat < 3072 ∧ o.toNat ≠ 6 ∧ (f.toNat = 7 → o.toNat = 0 ∧ x.toNat = 0) ∧ (f.toNat = 5 ∨ f.toNat = 6 → o.toNat = 0))
  | .xbr .. => true
  | .xloop _ l m => decide (1 ≤ l.toNat ∧ 1 ≤ m.toNat)
  | .xlspan _ n => decide (1 ≤ n.toNat)
  | .xGive _ q c => decide ((q.toNat = 6 ∨ q.toNat = 7 ∨ q.toNat = 8) ∧ 1 ≤ c.toNat)
  | .xTake _ q c => decide ((q.toNat = 1 ∨ q.toNat = 3 ∨ q.toNat = 11) ∧ 1 ≤ c.toNat)
  | .vldi _ _ k _ => decide (k.toNat ≠ 3)
  | .gigAdd .. => true
  | .gigSub .. => true
  | .gigAnd .. => true
  | .gigOr .. => true
  | .gigXor .. => true
  | .gigShl .. => true
  | .gigShr .. => true
  | .gigSra .. => true
  | .gigMul .. => true
  | .gigMulh .. => true
  | .gigMulhu .. => true
  | .gigDiv .. => true
  | .gigDivu .. => true
  | .gigRem .. => true
  | .gigRemu .. => true
  | .gigSlt .. => true
  | .gigSltu .. => true
  | .gigMin .. => true
  | .gigMax .. => true
  | .gigMinu .. => true
  | .gigMaxu .. => true
  | .gigClz .. => true
  | .gigCtz .. => true
  | .gigPopc .. => true
  | .gigAddi .. => true
  | .gigAndi .. => true
  | .gigOri .. => true
  | .gigXori .. => true
  | .gigShli .. => true
  | .gigShri .. => true
  | .gigSrai .. => true
  | .slti .. => true
  | .sltiu .. => true
  | .gigLui .. => true
  | .beq .. => true
  | .bne .. => true
  | .blt .. => true
  | .bge .. => true
  | .bltu .. => true
  | .bgeu .. => true
  | .jal .. => true
  | .jalr .. => true
  | .ldb .. => true
  | .ldh .. => true
  | .ldw .. => true
  | .ldd .. => true
  | .ldbu .. => true
  | .ldhu .. => true
  | .ldwu .. => true
  | .stb .. => true
  | .sth .. => true
  | .stw .. => true
  | .std .. => true
  | .amoadd .. => true
  | .amoswap .. => true
  | .amocas .. => true
  | .amomin .. => true
  | .amomax .. => true
  | .amominu .. => true
  | .amomaxu .. => true
  | .amoand .. => true
  | .amoor .. => true
  | .amoxor .. => true
  | .fence s _ => decide (s.toNat ≤ 4)
  | .fadd _ _ _ f r => decide ((f.toNat = 0 ∨ f.toNat = 3) ∧ r.toNat ≠ 5 ∧ r.toNat ≠ 6)
  | .fsub _ _ _ f r => decide ((f.toNat = 0 ∨ f.toNat = 3) ∧ r.toNat ≠ 5 ∧ r.toNat ≠ 6)
  | .fmul _ _ _ f r => decide ((f.toNat = 0 ∨ f.toNat = 3) ∧ r.toNat ≠ 5 ∧ r.toNat ≠ 6)
  | .fdiv _ _ _ f r => decide ((f.toNat = 0 ∨ f.toNat = 3) ∧ r.toNat ≠ 5 ∧ r.toNat ≠ 6)
  | .fsqrt _ _ f r => decide ((f.toNat = 0 ∨ f.toNat = 3) ∧ r.toNat ≠ 5 ∧ r.toNat ≠ 6)
  | .fmin _ _ _ f => decide (f.toNat = 0 ∨ f.toNat = 3)
  | .fmax _ _ _ f => decide (f.toNat = 0 ∨ f.toNat = 3)
  | .feq _ _ _ f => decide (f.toNat = 0 ∨ f.toNat = 3)
  | .flt _ _ _ f => decide (f.toNat = 0 ∨ f.toNat = 3)
  | .fle _ _ _ f => decide (f.toNat = 0 ∨ f.toNat = 3)
  | .fcvt _ _ g f r => decide (f ≠ g ∧ r.toNat ≠ 5 ∧ r.toNat ≠ 6)
  | .fexp2 .. => true
  | .fma _ _ _ _ _ r => decide (r.toNat ≠ 5 ∧ r.toNat ≠ 6)
  | .fms _ _ _ _ _ r => decide (r.toNat ≠ 5 ∧ r.toNat ≠ 6)
  | .fnma _ _ _ _ _ r => decide (r.toNat ≠ 5 ∧ r.toNat ≠ 6)
  | .arrive .. => true
  | .waitp .. => true
  | .evsig .. => true
  | .evmsg .. => true
  | .gigSend .. => true
  | .recv .. => true
  | .spawn .. => true
  | .wid _ n => decide (n.toNat ≠ 6)
  | .hsift _ _ _ k => decide (1 ≤ k.toNat ∧ k.toNat ≤ 16)
  | .cntadd .. => true
  | .cntsnap .. => true
  | .balloc .. => true
  | .bfree .. => true
  | .bfork .. => true
  | .bmap .. => true
  | .bappend .. => true
  | .wbill .. => true
  | .wbstat .. => true
  | .post .. => true
  | .tfreeze .. => true
  | .tresume .. => true
  | .tframe .. => true
  | .trap .. => true
  | .tret => true
  | .gigCsrr _ c => decide (c.toNat ≤ 0xD)
  | .gigCsrw _ c => decide (c.toNat ≤ 0xD)
  | .yield => true
  | .gigHalt => true
  | .trace .. => true
  | .rng .. => true
  | .leave .. => true
  | .euBarrierArrive .. => true
  | .euMutexAcquire .. => true
  | .euMutexRelease .. => true
  | .euEventWait .. => true
  | .euEventSet .. => true
  | .shoot .. => true
  | .done .. => true
  | .registerWrite .. => true
  | .resultComplete .. => true
  | .scfgTakesEffect .. => true
  | .tlbpResult .. => true
  | .ldcmComplete .. => true
  | .rmwFinalWrite .. => true
  | .hldLanding .. => true
  | .hstCompletion .. => true
  | .hbmSlotTransfer .. => true
  | .hbmUnitArrival .. => true
  | .hbmSlotRefusal .. => true
  | .hbmRefresh .. => true
  | .scrub .. => true
  | .wordArrival .. => true
  | .relayLanding .. => true
  | .boundaryChannelOverflow .. => true
  | .drawbarArrival .. => true
  | .linkPlanRead .. => true
  | .linkPlanLanding .. => true
  | .nestKStep .. => true
  | .nestDone .. => true
  | .sidebandAtk .. => true
  | .alignRelease .. => true
  | .alignSlip .. => true
  | .freezeTakesEffect .. => true
  | .freezeNotice .. => true
  | .extIntTaken .. => true
  | .extRequestArrival .. => true
  | .tresumePerform .. => true
  | .restart .. => true
  | .pipelineFinished .. => true
  | .timedGlobalStart .. => true
  | .postArrival .. => true
  | .brakeHoldStart .. => true
  | .brakeRelease .. => true
  | .brakeLimit .. => true
  | .layoverSettle .. => true
  | .turnpikeDelayEnd .. => true
  | .allowanceChange .. => true
  | .powerCap .. => true
  | .wake .. => true
  | .groupExit .. => true
  | .dynLaunchComplete .. => true
  | .contextStart .. => true
  | .childArrival .. => true
  | .barrierRelease .. => true
  | .evmsgArrival .. => true
  | .layoverNotice .. => true
  | .childCompletion .. => true
  | .waitpTimeout .. => true
  | .sendAccept .. => true
  | .cardStart .. => true
  | .rowLanded .. => true
  | .cardRetire .. => true
  | .cardFault .. => true
  | .cardLeaveRetry .. => true
  | .grantExpiry .. => true
  | .sliceExpiry .. => true
  | .switchOut .. => true
  | .contextRestore .. => true
  | .shootdownComplete .. => true
  | .portalDmwr .. => true
  | .portalPostedWrite .. => true
  | .mctpPacket .. => true
  | .launchTimed .. => true
  | .launchDyn .. => true
  | .copy .. => true
  | .copyFill .. => true
  | .signalSet .. => true
  | .signalAdd .. => true
  | .wait .. => true
  | .waitComplete .. => true
  | .configDiffApply .. => true
  | .configDiffRollback .. => true
  | .configSwap .. => true
  | .queryIdentity .. => true
  | .queryPartitionMap .. => true
  | .queryLaunchState .. => true
  | .querySeedRecords .. => true
  | .queryHealth .. => true
  | .queryCounters .. => true
  | .queryAttestation .. => true
  | .fwUpdate .. => true
  | .partitionCreate .. => true
  | .partitionDestroy .. => true
  | .completionRecordWrite .. => true
  | .ownClaim .. => true
  | .ownSucc .. => true
  | .succTimeout => true
  | .ownerLoss => true
  | .spdmGetMeasurements .. => true
  | .packageReset .. => true
  | .powerLoss => true
  | .domainFormation .. => true
  | .linkFreezeNotice .. => true
  | .linkRestartNotice .. => true
  | .uetCompletion .. => true
  | .accessReachesTarget .. => true
  | .completionTimeout .. => true
  | .unassignedTimedWord .. => true
  | .unassignedGigWord .. => true

end Sys2Proof
end

