-- ==== Sys2Proof/Decode.lean ====
section
/-! DEFINITION. The decoder of the five streams' words and its encoder (03 R71 to R89). Decoding is total: a word is an
instruction or is refused by name. -/
namespace Sys2Proof

/-- The stream a word is fetched for: the opcode spaces of the five streams are separate (03 R71, R85). -/
inductive StreamKind
  | c | l | x | s | gig
  deriving DecidableEq, Repr

/-- The number of a timed stream in FAULT_INFO.STREAM (04 Table 4-12). -/
def StreamKind.num (k : StreamKind) : Nat :=
  match k with
  | .c => 0 | .l => 1 | .x => 2 | .s => 3 | .gig => 4

/-- Why a word is no instruction (03 R74, R89). -/
inductive DecodeError
  /-- The opcode, or major opcode, is not in the stream's map. -/
  | unassignedOpcode
  /-- A function, sub-operation or size code has no assignment. -/
  | unassignedCode
  /-- A reserved field is not zero. -/
  | reservedField
  /-- A number, code or length lies outside what the layout allows (WellFormed). -/
  | operandOutOfRange
  deriving DecidableEq, Repr

/-- The `n` bits of word `x` from bit `lo` up. -/
def fld (x : BitVec 32) (lo n : Nat) : BitVec n := BitVec.ofNat n (x.toNat >>> lo)

/-- The number whose low bits are the field `v` and whose higher bits are `h`. -/
def cat {m : Nat} (h : Nat) (v : BitVec m) : Nat := h * 2 ^ m + v.toNat

/-- The C-stream map (03 Tables 3-2 to 3-4). -/
def decodeC (x : BitVec 32) : Except DecodeError Instr :=
  match (fld x 23 6).toNat with
  | 0x00 => .ok (.idle (fld x 29 3) (fld x 0 23))
  | 0x01 =>
    match (fld x 0 8).toNat with
    | 0x00 => .ok (.add (fld x 29 3) (fld x 18 5) (fld x 13 5) (fld x 8 5))
    | 0x01 => .ok (.sub (fld x 29 3) (fld x 18 5) (fld x 13 5) (fld x 8 5))
    | 0x02 => .ok (.and (fld x 29 3) (fld x 18 5) (fld x 13 5) (fld x 8 5))
    | 0x03 => .ok (.or (fld x 29 3) (fld x 18 5) (fld x 13 5) (fld x 8 5))
    | 0x04 => .ok (.xor (fld x 29 3) (fld x 18 5) (fld x 13 5) (fld x 8 5))
    | 0x05 => .ok (.shl (fld x 29 3) (fld x 18 5) (fld x 13 5) (fld x 8 5))
    | 0x06 => .ok (.shr (fld x 29 3) (fld x 18 5) (fld x 13 5) (fld x 8 5))
    | 0x07 => .ok (.sra (fld x 29 3) (fld x 18 5) (fld x 13 5) (fld x 8 5))
    | 0x08 => .ok (.mul (fld x 29 3) (fld x 18 5) (fld x 13 5) (fld x 8 5))
    | 0x09 => .ok (.mulh (fld x 29 3) (fld x 18 5) (fld x 13 5) (fld x 8 5))
    | 0x0A => .ok (.mulhu (fld x 29 3) (fld x 18 5) (fld x 13 5) (fld x 8 5))
    | 0x0B => .ok (.min (fld x 29 3) (fld x 18 5) (fld x 13 5) (fld x 8 5))
    | 0x0C => .ok (.max (fld x 29 3) (fld x 18 5) (fld x 13 5) (fld x 8 5))
    | 0x0D => .ok (.minu (fld x 29 3) (fld x 18 5) (fld x 13 5) (fld x 8 5))
    | 0x0E => .ok (.maxu (fld x 29 3) (fld x 18 5) (fld x 13 5) (fld x 8 5))
    | _ => .error .unassignedCode
  | 0x02 => .ok (.addi (fld x 29 3) (fld x 18 5) (fld x 13 5) (fld x 0 13))
  | 0x03 => .ok (.andi (fld x 29 3) (fld x 18 5) (fld x 13 5) (fld x 0 13))
  | 0x04 => .ok (.ori (fld x 29 3) (fld x 18 5) (fld x 13 5) (fld x 0 13))
  | 0x05 => .ok (.xori (fld x 29 3) (fld x 18 5) (fld x 13 5) (fld x 0 13))
  | 0x06 => if fld x 6 7 = 0 then .ok (.shli (fld x 29 3) (fld x 18 5) (fld x 13 5) (fld x 0 6)) else .error .reservedField
  | 0x07 => if fld x 6 7 = 0 then .ok (.shri (fld x 29 3) (fld x 18 5) (fld x 13 5) (fld x 0 6)) else .error .reservedField
  | 0x08 => if fld x 6 7 = 0 then .ok (.srai (fld x 29 3) (fld x 18 5) (fld x 13 5) (fld x 0 6)) else .error .reservedField
  | 0x09 => .ok (.li (fld x 29 3) (fld x 18 5) (fld x 0 18))
  | 0x0A => .ok (.lui (fld x 29 3) (fld x 18 5) (fld x 0 18))
  | 0x0B => if fld x 0 7 = 0 then .ok (.cmp (fld x 29 3) (fld x 20 3) (fld x 15 5) (fld x 10 5) (fld x 7 3)) else .error .reservedField
  | 0x0C => .ok (.cmpi (fld x 29 3) (fld x 20 3) (fld x 15 5) (fld x 12 3) (fld x 0 12))
  | 0x0D => if fld x 0 5 = 0 then .ok (.sel (fld x 29 3) (fld x 18 5) (fld x 13 5) (fld x 8 5) (fld x 5 3)) else .error .reservedField
  | 0x0E => .ok (.lds (fld x 29 3) (fld x 18 5) (fld x 13 5) (fld x 0 13))
  | 0x0F => .ok (.sts (fld x 29 3) (fld x 18 5) (fld x 13 5) (fld x 0 13))
  | 0x10 => .ok (.br (fld x 29 3) (fld x 20 3) (fld x 19 1) (fld x 0 19))
  | 0x11 => .ok (.brp (fld x 29 3) (fld x 20 3) (fld x 19 1) (fld x 0 19))
  | 0x12 => .ok (.loop (fld x 29 3) (fld x 18 5) (fld x 9 9) (fld x 0 9))
  | 0x13 => .ok (.lspan (fld x 29 3) (fld x 0 23))
  | 0x14 => if fld x 19 4 = 0 then .ok (.call (fld x 29 3) (fld x 0 19)) else .error .reservedField
  | 0x15 => if fld x 0 23 = 0 then .ok (.ret (fld x 29 3)) else .error .reservedField
  | 0x18 => if fld x 0 13 = 0 then .ok (.cGive (fld x 29 3) (fld x 19 4) (fld x 13 6)) else .error .reservedField
  | 0x19 => if fld x 0 13 = 0 then .ok (.cTake (fld x 29 3) (fld x 19 4) (fld x 13 6)) else .error .reservedField
  | 0x1A => if fld x 0 16 = 0 then .ok (.sqw (fld x 29 3) (fld x 21 2) (fld x 16 5)) else .error .reservedField
  | 0x1B => if fld x 0 19 = 0 then .ok (.bqw (fld x 29 3) (fld x 20 3) (fld x 19 1)) else .error .reservedField
  | 0x1C => .ok (.align (fld x 29 3) (fld x 0 23))
  | 0x1D => .ok (.stage (fld x 29 3) (fld x 0 23))
  | 0x20 => if fld x 0 17 = 0 then .ok (.wopen (fld x 29 3) (fld x 17 6)) else .error .reservedField
  | 0x21 => if fld x 0 17 = 0 then .ok (.wclose (fld x 29 3) (fld x 17 6)) else .error .reservedField
  | 0x22 => if fld x 0 12 = 0 then .ok (.postrd (fld x 29 3) (fld x 18 5) (fld x 12 6)) else .error .reservedField
  | 0x23 => if fld x 0 14 = 0 then .ok (.postv (fld x 29 3) (fld x 20 3) (fld x 14 6)) else .error .reservedField
  | 0x24 => if fld x 0 11 = 0 then .ok (.nest (fld x 29 3) (fld x 20 3) (fld x 16 4) (fld x 11 5)) else .error .reservedField
  | 0x25 => if fld x 0 23 = 0 then .ok (.mgo (fld x 29 3)) else .error .reservedField
  | 0x28 => if fld x 12 6 = 0 then .ok (.csrr (fld x 29 3) (fld x 18 5) (fld x 0 12)) else .error .reservedField
  | 0x29 => if fld x 12 6 = 0 then .ok (.csrw (fld x 29 3) (fld x 18 5) (fld x 0 12)) else .error .reservedField
  | 0x2A => if fld x 0 18 = 0 then .ok (.tick (fld x 29 3) (fld x 18 5)) else .error .reservedField
  | 0x30 => .ok (.mark (fld x 29 3) (fld x 0 23))
  | 0x31 => if fld x 8 15 = 0 then .ok (.trapc (fld x 29 3) (fld x 0 8)) else .error .reservedField
  | 0x32 => if fld x 0 23 = 0 then .ok (.freeze (fld x 29 3)) else .error .reservedField
  | 0x33 => if fld x 0 23 = 0 then .ok (.halt (fld x 29 3)) else .error .reservedField
  | _ => .error .unassignedOpcode

/-- The L-stream map (03 Table 3-9). -/
def decodeL (x : BitVec 32) : Except DecodeError Instr :=
  match (fld x 23 6).toNat with
  | 0x00 => .ok (.idle (fld x 29 3) (fld x 0 23))
  | 0x01 => .ok (.lScfg (fld x 29 3) (fld x 19 4) (fld x 15 4) (fld x 0 15))
  | 0x02 => if fld x 15 4 = 0 then .ok (.lSadv (fld x 29 3) (fld x 19 4) (fld x 0 15)) else .error .reservedField
  | 0x03 => if fld x 0 11 = 0 then .ok (.aadd (fld x 29 3) (fld x 19 4) (fld x 15 4) (fld x 11 4)) else .error .reservedField
  | 0x04 => .ok (.aaddi (fld x 29 3) (fld x 19 4) (fld x 15 4) (fld x 0 15))
  | 0x05 => .ok (.ali (fld x 29 3) (fld x 19 4) (fld x 0 19))
  | 0x06 => if fld x 0 19 = 0 then .ok (.lSqr (fld x 29 3) (fld x 19 4)) else .error .reservedField
  | 0x07 => if fld x 0 16 = 0 then .ok (.ldq (fld x 29 3) (fld x 20 3) (fld x 16 4)) else .error .reservedField
  | 0x08 => .ok (.gath (fld x 29 3) (fld x 19 4) (fld x 15 4) (fld x 0 15))
  | 0x09 => .ok (.hld (fld x 29 3) (fld x 19 4) (fld x 15 4) (fld x 0 15))
  | 0x0A => if fld x 0 19 = 0 then .ok (.lTlbp (fld x 29 3) (fld x 19 4)) else .error .reservedField
  | 0x0B => if fld x 0 19 = 0 then .ok (.bout (fld x 29 3) (fld x 19 4)) else .error .reservedField
  | 0x0C => if fld x 0 17 = 0 then .ok (.ldcb (fld x 29 3) (fld x 21 2) (fld x 17 4)) else .error .reservedField
  | 0x0D => if fld x 0 15 = 0 then .ok (.ldcm (fld x 29 3) (fld x 19 4) (fld x 15 4)) else .error .reservedField
  | 0x0E => if fld x 0 13 = 0 then .ok (.lGive (fld x 29 3) (fld x 19 4) (fld x 13 6)) else .error .reservedField
  | 0x0F => if fld x 0 13 = 0 then .ok (.lTake (fld x 29 3) (fld x 19 4) (fld x 13 6)) else .error .reservedField
  | _ => .error .unassignedOpcode

/-- The X-stream map (03 Table 3-14). -/
def decodeX (x : BitVec 32) : Except DecodeError Instr :=
  match (fld x 23 6).toNat with
  | 0x00 => .ok (.idle (fld x 29 3) (fld x 0 23))
  | 0x01 => .ok (.vadd (fld x 29 3) (fld x 18 5) (fld x 13 5) (fld x 8 5) (fld x 5 3) (fld x 2 3) (fld x 1 1) (fld x 0 1))
  | 0x02 => .ok (.vsub (fld x 29 3) (fld x 18 5) (fld x 13 5) (fld x 8 5) (fld x 5 3) (fld x 2 3) (fld x 1 1) (fld x 0 1))
  | 0x03 => .ok (.vmul (fld x 29 3) (fld x 18 5) (fld x 13 5) (fld x 8 5) (fld x 5 3) (fld x 2 3) (fld x 1 1) (fld x 0 1))
  | 0x04 => .ok (.vfma (fld x 29 3) (fld x 18 5) (fld x 13 5) (fld x 8 5) (fld x 5 3) (fld x 2 3) (fld x 1 1) (fld x 0 1))
  | 0x05 => .ok (.vfms (fld x 29 3) (fld x 18 5) (fld x 13 5) (fld x 8 5) (fld x 5 3) (fld x 2 3) (fld x 1 1) (fld x 0 1))
  | 0x06 => if fld x 1 4 = 0 then .ok (.vmax (fld x 29 3) (fld x 18 5) (fld x 13 5) (fld x 8 5) (fld x 5 3) (fld x 0 1)) else .error .reservedField
  | 0x07 => if fld x 1 4 = 0 then .ok (.vmin (fld x 29 3) (fld x 18 5) (fld x 13 5) (fld x 8 5) (fld x 5 3) (fld x 0 1)) else .error .reservedField
  | 0x08 => if fld x 8 5 = 0 ∧ fld x 1 4 = 0 then .ok (.vabs (fld x 29 3) (fld x 18 5) (fld x 13 5) (fld x 5 3) (fld x 0 1)) else .error .reservedField
  | 0x09 => if fld x 8 5 = 0 ∧ fld x 1 4 = 0 then .ok (.vneg (fld x 29 3) (fld x 18 5) (fld x 13 5) (fld x 5 3) (fld x 0 1)) else .error .reservedField
  | 0x0A => if fld x 8 2 = 0 then .ok (.vcvt (fld x 29 3) (fld x 18 5) (fld x 13 5) (fld x 10 3) (fld x 5 3) (fld x 2 3) (fld x 1 1) (fld x 0 1)) else .error .reservedField
  | 0x0B => if fld x 18 2 = 0 ∧ fld x 1 1 = 0 then .ok (.vcmp (fld x 29 3) (fld x 20 3) (fld x 13 5) (fld x 8 5) (fld x 5 3) (fld x 2 3) (fld x 0 1)) else .error .reservedField
  | 0x0C => if fld x 1 4 = 0 then .ok (.vsel (fld x 29 3) (fld x 18 5) (fld x 13 5) (fld x 8 5) (fld x 5 3) (fld x 0 1)) else .error .reservedField
  | 0x0D => if fld x 1 7 = 0 then .ok (.vand (fld x 29 3) (fld x 18 5) (fld x 13 5) (fld x 8 5) (fld x 0 1)) else .error .reservedField
  | 0x0E => if fld x 1 7 = 0 then .ok (.vor (fld x 29 3) (fld x 18 5) (fld x 13 5) (fld x 8 5) (fld x 0 1)) else .error .reservedField
  | 0x0F => if fld x 1 7 = 0 then .ok (.vxor (fld x 29 3) (fld x 18 5) (fld x 13 5) (fld x 8 5) (fld x 0 1)) else .error .reservedField
  | 0x10 => if fld x 1 7 = 0 then .ok (.vshl (fld x 29 3) (fld x 18 5) (fld x 13 5) (fld x 8 5) (fld x 0 1)) else .error .reservedField
  | 0x11 => if fld x 1 7 = 0 then .ok (.vshr (fld x 29 3) (fld x 18 5) (fld x 13 5) (fld x 8 5) (fld x 0 1)) else .error .reservedField
  | 0x12 => if fld x 2 3 = 0 then .ok (.viadd (fld x 29 3) (fld x 18 5) (fld x 13 5) (fld x 8 5) (fld x 5 3) (fld x 1 1) (fld x 0 1)) else .error .reservedField
  | 0x13 => if fld x 2 3 = 0 then .ok (.vimul (fld x 29 3) (fld x 18 5) (fld x 13 5) (fld x 8 5) (fld x 5 3) (fld x 1 1) (fld x 0 1)) else .error .reservedField
  | 0x14 => if fld x 1 1 = 0 then .ok (.vred (fld x 29 3) (fld x 18 5) (fld x 13 5) (fld x 8 5) (fld x 5 3) (fld x 2 3) (fld x 0 1)) else .error .reservedField
  | 0x15 => if fld x 1 7 = 0 then .ok (.vperm (fld x 29 3) (fld x 18 5) (fld x 13 5) (fld x 8 5) (fld x 0 1)) else .error .reservedField
  | 0x16 =>
    match (fld x 6 1).toNat with
    | 0x00 => if fld x 1 5 = 0 then .ok (.vspl (fld x 29 3) (fld x 18 5) (fld x 13 5) (fld x 7 6) (fld x 0 1)) else .error .reservedField
    | _ => if fld x 7 11 = 0 ∧ fld x 1 5 = 0 then .ok (.vsplQ (fld x 29 3) (fld x 18 5) (fld x 0 1)) else .error .reservedField
  | 0x17 => if fld x 0 15 = 0 then .ok (.vpop (fld x 29 3) (fld x 18 5) (fld x 15 3)) else .error .reservedField
  | 0x18 => if fld x 0 15 = 0 then .ok (.vpush (fld x 29 3) (fld x 18 5) (fld x 15 3)) else .error .reservedField
  | 0x19 => if fld x 8 1 = 0 then .ok (.vtab (fld x 29 3) (fld x 18 5) (fld x 13 5) (fld x 9 4) (fld x 5 3) (fld x 2 3) (fld x 1 1) (fld x 0 1)) else .error .reservedField
  | 0x1A => if fld x 1 1 = 0 then .ok (.vrope (fld x 29 3) (fld x 18 5) (fld x 13 5) (fld x 8 5) (fld x 5 3) (fld x 2 3) (fld x 0 1)) else .error .reservedField
  | 0x1B => if fld x 8 5 = 0 then .ok (.vscl (fld x 29 3) (fld x 18 5) (fld x 13 5) (fld x 5 3) (fld x 2 3) (fld x 1 1) (fld x 0 1)) else .error .reservedField
  | 0x1C => if fld x 1 17 = 0 then .ok (.vrng (fld x 29 3) (fld x 18 5) (fld x 0 1)) else .error .reservedField
  | 0x1D => if fld x 0 16 = 0 then .ok (.vdrw (fld x 29 3) (fld x 18 5) (fld x 17 1) (fld x 16 1)) else .error .reservedField
  | 0x1E => if fld x 0 17 = 0 then .ok (.vdwr (fld x 29 3) (fld x 18 5) (fld x 17 1)) else .error .reservedField
  | 0x1F => if fld x 0 10 = 0 then .ok (.vmsk (fld x 29 3) (fld x 20 3) (fld x 17 3) (fld x 14 3) (fld x 10 4)) else .error .reservedField
  | 0x20 => if fld x 0 6 = 0 then .ok (.accrd (fld x 29 3) (fld x 18 5) (fld x 6 12)) else .error .reservedField
  | 0x21 => if fld x 0 6 = 0 then .ok (.accwr (fld x 29 3) (fld x 18 5) (fld x 6 12)) else .error .reservedField
  | 0x22 => if fld x 0 17 = 0 then .ok (.accz (fld x 29 3) (fld x 17 6)) else .error .reservedField
  | 0x23 => if fld x 0 3 = 0 then .ok (.accst (fld x 29 3) (fld x 22 1) (fld x 10 12) (fld x 7 3) (fld x 4 3) (fld x 3 1)) else .error .reservedField
  | 0x24 => if fld x 19 3 = 0 then .ok (.xbr (fld x 29 3) (fld x 22 1) (fld x 0 19)) else .error .reservedField
  | 0x25 => if fld x 18 5 = 0 then .ok (.xloop (fld x 29 3) (fld x 9 9) (fld x 0 9)) else .error .reservedField
  | 0x26 => .ok (.xlspan (fld x 29 3) (fld x 0 23))
  | 0x27 => if fld x 0 13 = 0 then .ok (.xGive (fld x 29 3) (fld x 19 4) (fld x 13 6)) else .error .reservedField
  | 0x28 => if fld x 0 13 = 0 then .ok (.xTake (fld x 29 3) (fld x 19 4) (fld x 13 6)) else .error .reservedField
  | 0x29 => .ok (.vldi (fld x 29 3) (fld x 18 5) (fld x 16 2) (fld x 0 16))
  | _ => .error .unassignedOpcode

/-- The S-stream map (03 Table 3-10). -/
def decodeS (x : BitVec 32) : Except DecodeError Instr :=
  match (fld x 23 6).toNat with
  | 0x00 => .ok (.idle (fld x 29 3) (fld x 0 23))
  | 0x01 => .ok (.sScfg (fld x 29 3) (fld x 19 4) (fld x 15 4) (fld x 0 15))
  | 0x02 => if fld x 15 4 = 0 then .ok (.sSadv (fld x 29 3) (fld x 19 4) (fld x 0 15)) else .error .reservedField
  | 0x03 => if fld x 0 11 = 0 then .ok (.badd (fld x 29 3) (fld x 19 4) (fld x 15 4) (fld x 11 4)) else .error .reservedField
  | 0x04 => .ok (.baddi (fld x 29 3) (fld x 19 4) (fld x 15 4) (fld x 0 15))
  | 0x05 => .ok (.bli (fld x 29 3) (fld x 19 4) (fld x 0 19))
  | 0x06 => if fld x 0 19 = 0 then .ok (.sSqr (fld x 29 3) (fld x 19 4)) else .error .reservedField
  | 0x07 => if fld x 0 5 = 0 then .ok (.stq (fld x 29 3) (fld x 20 3) (fld x 16 4) (fld x 12 4) (fld x 9 3) (fld x 8 1) (fld x 6 2) (fld x 5 1)) else .error .reservedField
  | 0x08 => .ok (.hst (fld x 29 3) (fld x 19 4) (fld x 15 4) (fld x 0 15))
  | 0x09 => if fld x 0 16 = 0 then .ok (.send (fld x 29 3) (fld x 20 3) (fld x 16 4)) else .error .reservedField
  | 0x0A => if fld x 0 12 = 0 then .ok (.mcast (fld x 29 3) (fld x 20 3) (fld x 16 4) (fld x 12 4)) else .error .reservedField
  | 0x0B => if fld x 0 10 = 0 then .ok (.rmw (fld x 29 3) (fld x 20 3) (fld x 18 2) (fld x 14 4) (fld x 10 4)) else .error .reservedField
  | 0x0C => if fld x 0 21 = 0 then .ok (.hclr (fld x 29 3) (fld x 21 2)) else .error .reservedField
  | 0x0D => if fld x 0 17 = 0 then .ok (.hsnap (fld x 29 3) (fld x 21 2) (fld x 17 4)) else .error .reservedField
  | 0x0E => if fld x 0 19 = 0 then .ok (.sTlbp (fld x 29 3) (fld x 19 4)) else .error .reservedField
  | 0x0F => if fld x 0 13 = 0 then .ok (.sGive (fld x 29 3) (fld x 19 4) (fld x 13 6)) else .error .reservedField
  | 0x10 => if fld x 0 13 = 0 then .ok (.sTake (fld x 29 3) (fld x 19 4) (fld x 13 6)) else .error .reservedField
  | _ => .error .unassignedOpcode

/-- The gig map (03 Tables 3-16 to 3-18). -/
def decodeGig (x : BitVec 32) : Except DecodeError Instr :=
  match (fld x 26 6).toNat with
  | 0x00 =>
    match (fld x 0 11).toNat with
    | 0x00 => .ok (.gigAdd (fld x 21 5) (fld x 16 5) (fld x 11 5))
    | 0x01 => .ok (.gigSub (fld x 21 5) (fld x 16 5) (fld x 11 5))
    | 0x02 => .ok (.gigAnd (fld x 21 5) (fld x 16 5) (fld x 11 5))
    | 0x03 => .ok (.gigOr (fld x 21 5) (fld x 16 5) (fld x 11 5))
    | 0x04 => .ok (.gigXor (fld x 21 5) (fld x 16 5) (fld x 11 5))
    | 0x05 => .ok (.gigShl (fld x 21 5) (fld x 16 5) (fld x 11 5))
    | 0x06 => .ok (.gigShr (fld x 21 5) (fld x 16 5) (fld x 11 5))
    | 0x07 => .ok (.gigSra (fld x 21 5) (fld x 16 5) (fld x 11 5))
    | 0x08 => .ok (.gigMul (fld x 21 5) (fld x 16 5) (fld x 11 5))
    | 0x09 => .ok (.gigMulh (fld x 21 5) (fld x 16 5) (fld x 11 5))
    | 0x0A => .ok (.gigMulhu (fld x 21 5) (fld x 16 5) (fld x 11 5))
    | 0x0B => .ok (.gigDiv (fld x 21 5) (fld x 16 5) (fld x 11 5))
    | 0x0C => .ok (.gigDivu (fld x 21 5) (fld x 16 5) (fld x 11 5))
    | 0x0D => .ok (.gigRem (fld x 21 5) (fld x 16 5) (fld x 11 5))
    | 0x0E => .ok (.gigRemu (fld x 21 5) (fld x 16 5) (fld x 11 5))
    | 0x0F => .ok (.gigSlt (fld x 21 5) (fld x 16 5) (fld x 11 5))
    | 0x10 => .ok (.gigSltu (fld x 21 5) (fld x 16 5) (fld x 11 5))
    | 0x11 => .ok (.gigMin (fld x 21 5) (fld x 16 5) (fld x 11 5))
    | 0x12 => .ok (.gigMax (fld x 21 5) (fld x 16 5) (fld x 11 5))
    | 0x13 => .ok (.gigMinu (fld x 21 5) (fld x 16 5) (fld x 11 5))
    | 0x14 => .ok (.gigMaxu (fld x 21 5) (fld x 16 5) (fld x 11 5))
    | 0x15 => if fld x 11 5 = 0 then .ok (.gigClz (fld x 21 5) (fld x 16 5)) else .error .reservedField
    | 0x16 => if fld x 11 5 = 0 then .ok (.gigCtz (fld x 21 5) (fld x 16 5)) else .error .reservedField
    | 0x17 => if fld x 11 5 = 0 then .ok (.gigPopc (fld x 21 5) (fld x 16 5)) else .error .reservedField
    | _ => .error .unassignedCode
  | 0x01 => .ok (.gigAddi (fld x 21 5) (fld x 16 5) (fld x 0 16))
  | 0x02 => .ok (.gigAndi (fld x 21 5) (fld x 16 5) (fld x 0 16))
  | 0x03 => .ok (.gigOri (fld x 21 5) (fld x 16 5) (fld x 0 16))
  | 0x04 => .ok (.gigXori (fld x 21 5) (fld x 16 5) (fld x 0 16))
  | 0x05 => if fld x 6 10 = 0 then .ok (.gigShli (fld x 21 5) (fld x 16 5) (fld x 0 6)) else .error .reservedField
  | 0x06 => if fld x 6 10 = 0 then .ok (.gigShri (fld x 21 5) (fld x 16 5) (fld x 0 6)) else .error .reservedField
  | 0x07 => if fld x 6 10 = 0 then .ok (.gigSrai (fld x 21 5) (fld x 16 5) (fld x 0 6)) else .error .reservedField
  | 0x08 => .ok (.slti (fld x 21 5) (fld x 16 5) (fld x 0 16))
  | 0x09 => .ok (.sltiu (fld x 21 5) (fld x 16 5) (fld x 0 16))
  | 0x0A => if fld x 16 5 = 0 then .ok (.gigLui (fld x 21 5) (fld x 0 16)) else .error .reservedField
  | 0x10 => .ok (.beq (fld x 21 5) (fld x 16 5) (fld x 0 16))
  | 0x11 => .ok (.bne (fld x 21 5) (fld x 16 5) (fld x 0 16))
  | 0x12 => .ok (.blt (fld x 21 5) (fld x 16 5) (fld x 0 16))
  | 0x13 => .ok (.bge (fld x 21 5) (fld x 16 5) (fld x 0 16))
  | 0x14 => .ok (.bltu (fld x 21 5) (fld x 16 5) (fld x 0 16))
  | 0x15 => .ok (.bgeu (fld x 21 5) (fld x 16 5) (fld x 0 16))
  | 0x16 => .ok (.jal (fld x 0 26))
  | 0x17 => .ok (.jalr (fld x 21 5) (fld x 16 5) (fld x 0 16))
  | 0x18 =>
    match (fld x 9 3).toNat with
    | 0x00 => .ok (.ldb (fld x 21 5) (fld x 16 5) (fld x 12 4) (fld x 0 9))
    | 0x01 => .ok (.ldh (fld x 21 5) (fld x 16 5) (fld x 12 4) (fld x 0 9))
    | 0x02 => .ok (.ldw (fld x 21 5) (fld x 16 5) (fld x 12 4) (fld x 0 9))
    | 0x03 => .ok (.ldd (fld x 21 5) (fld x 16 5) (fld x 12 4) (fld x 0 9))
    | 0x04 => .ok (.ldbu (fld x 21 5) (fld x 16 5) (fld x 12 4) (fld x 0 9))
    | 0x05 => .ok (.ldhu (fld x 21 5) (fld x 16 5) (fld x 12 4) (fld x 0 9))
    | 0x06 => .ok (.ldwu (fld x 21 5) (fld x 16 5) (fld x 12 4) (fld x 0 9))
    | _ => .error .unassignedCode
  | 0x19 =>
    match (fld x 9 3).toNat with
    | 0x00 => .ok (.stb (fld x 21 5) (fld x 16 5) (fld x 12 4) (fld x 0 9))
    | 0x01 => .ok (.sth (fld x 21 5) (fld x 16 5) (fld x 12 4) (fld x 0 9))
    | 0x02 => .ok (.stw (fld x 21 5) (fld x 16 5) (fld x 12 4) (fld x 0 9))
    | 0x03 => .ok (.std (fld x 21 5) (fld x 16 5) (fld x 12 4) (fld x 0 9))
    | _ => .error .unassignedCode
  | 0x1A =>
    match (fld x 7 4).toNat with
    | 0x00 => if fld x 0 2 = 0 then .ok (.amoadd (fld x 21 5) (fld x 16 5) (fld x 11 5) (fld x 6 1) (fld x 2 4)) else .error .reservedField
    | 0x01 => if fld x 0 2 = 0 then .ok (.amoswap (fld x 21 5) (fld x 16 5) (fld x 11 5) (fld x 6 1) (fld x 2 4)) else .error .reservedField
    | 0x02 => if fld x 0 2 = 0 then .ok (.amocas (fld x 21 5) (fld x 16 5) (fld x 11 5) (fld x 6 1) (fld x 2 4)) else .error .reservedField
    | 0x03 => if fld x 0 2 = 0 then .ok (.amomin (fld x 21 5) (fld x 16 5) (fld x 11 5) (fld x 6 1) (fld x 2 4)) else .error .reservedField
    | 0x04 => if fld x 0 2 = 0 then .ok (.amomax (fld x 21 5) (fld x 16 5) (fld x 11 5) (fld x 6 1) (fld x 2 4)) else .error .reservedField
    | 0x05 => if fld x 0 2 = 0 then .ok (.amominu (fld x 21 5) (fld x 16 5) (fld x 11 5) (fld x 6 1) (fld x 2 4)) else .error .reservedField
    | 0x06 => if fld x 0 2 = 0 then .ok (.amomaxu (fld x 21 5) (fld x 16 5) (fld x 11 5) (fld x 6 1) (fld x 2 4)) else .error .reservedField
    | 0x07 => if fld x 0 2 = 0 then .ok (.amoand (fld x 21 5) (fld x 16 5) (fld x 11 5) (fld x 6 1) (fld x 2 4)) else .error .reservedField
    | 0x08 => if fld x 0 2 = 0 then .ok (.amoor (fld x 21 5) (fld x 16 5) (fld x 11 5) (fld x 6 1) (fld x 2 4)) else .error .reservedField
    | 0x09 => if fld x 0 2 = 0 then .ok (.amoxor (fld x 21 5) (fld x 16 5) (fld x 11 5) (fld x 6 1) (fld x 2 4)) else .error .reservedField
    | _ => .error .unassignedCode
  | 0x1B => if fld x 16 5 = 0 then .ok (.fence (fld x 21 5) (fld x 0 16)) else .error .reservedField
  | 0x20 =>
    match (fld x 6 5).toNat with
    | 0x00 => .ok (.fadd (fld x 21 5) (fld x 16 5) (fld x 11 5) (fld x 3 3) (fld x 0 3))
    | 0x01 => .ok (.fsub (fld x 21 5) (fld x 16 5) (fld x 11 5) (fld x 3 3) (fld x 0 3))
    | 0x02 => .ok (.fmul (fld x 21 5) (fld x 16 5) (fld x 11 5) (fld x 3 3) (fld x 0 3))
    | 0x03 => .ok (.fdiv (fld x 21 5) (fld x 16 5) (fld x 11 5) (fld x 3 3) (fld x 0 3))
    | 0x04 => if fld x 11 5 = 0 then .ok (.fsqrt (fld x 21 5) (fld x 16 5) (fld x 3 3) (fld x 0 3)) else .error .reservedField
    | 0x05 => if fld x 0 3 = 0 then .ok (.fmin (fld x 21 5) (fld x 16 5) (fld x 11 5) (fld x 3 3)) else .error .reservedField
    | 0x06 => if fld x 0 3 = 0 then .ok (.fmax (fld x 21 5) (fld x 16 5) (fld x 11 5) (fld x 3 3)) else .error .reservedField
    | 0x07 => if fld x 0 3 = 0 then .ok (.feq (fld x 21 5) (fld x 16 5) (fld x 11 5) (fld x 3 3)) else .error .reservedField
    | 0x08 => if fld x 0 3 = 0 then .ok (.flt (fld x 21 5) (fld x 16 5) (fld x 11 5) (fld x 3 3)) else .error .reservedField
    | 0x09 => if fld x 0 3 = 0 then .ok (.fle (fld x 21 5) (fld x 16 5) (fld x 11 5) (fld x 3 3)) else .error .reservedField
    | 0x0A => if fld x 14 2 = 0 then .ok (.fcvt (fld x 21 5) (fld x 16 5) (fld x 11 3) (fld x 3 3) (fld x 0 3)) else .error .reservedField
    | 0x0B => if fld x 11 5 = 0 ∧ fld x 0 6 = 0 then .ok (.fexp2 (fld x 21 5) (fld x 16 5)) else .error .reservedField
    | _ => .error .unassignedCode
  | 0x21 =>
    match (fld x 4 2).toNat with
    | 0x00 => .ok (.fma (fld x 21 5) (fld x 16 5) (fld x 11 5) (fld x 6 5) (fld x 3 1) (fld x 0 3))
    | 0x01 => .ok (.fms (fld x 21 5) (fld x 16 5) (fld x 11 5) (fld x 6 5) (fld x 3 1) (fld x 0 3))
    | 0x02 => .ok (.fnma (fld x 21 5) (fld x 16 5) (fld x 11 5) (fld x 6 5) (fld x 3 1) (fld x 0 3))
    | _ => .error .unassignedCode
  | 0x28 =>
    match (fld x 6 5).toNat with
    | 0x00 => if fld x 11 10 = 0 ∧ fld x 4 2 = 0 then .ok (.arrive (fld x 21 5) (fld x 0 4)) else .error .reservedField
    | 0x01 => if fld x 4 2 = 0 then .ok (.waitp (fld x 21 5) (fld x 16 5) (fld x 11 5) (fld x 0 4)) else .error .reservedField
    | 0x02 => if fld x 11 15 = 0 ∧ fld x 5 1 = 0 then .ok (.evsig (fld x 0 5)) else .error .reservedField
    | 0x03 => if fld x 21 5 = 0 ∧ fld x 11 5 = 0 ∧ fld x 5 1 = 0 then .ok (.evmsg (fld x 16 5) (fld x 0 5)) else .error .reservedField
    | _ => .error .unassignedCode
  | 0x29 =>
    match (fld x 6 5).toNat with
    | 0x00 => if fld x 21 5 = 0 ∧ fld x 0 6 = 0 then .ok (.gigSend (fld x 16 5) (fld x 11 5)) else .error .reservedField
    | 0x01 => if fld x 11 5 = 0 ∧ fld x 1 5 = 0 then .ok (.recv (fld x 21 5) (fld x 16 5) (fld x 0 1)) else .error .reservedField
    | _ => .error .unassignedCode
  | 0x2A =>
    match (fld x 6 5).toNat with
    | 0x00 => if fld x 11 5 = 0 ∧ fld x 1 5 = 0 then .ok (.spawn (fld x 21 5) (fld x 16 5) (fld x 0 1)) else .error .reservedField
    | 0x01 => if fld x 11 10 = 0 ∧ fld x 3 3 = 0 then .ok (.wid (fld x 21 5) (fld x 0 3)) else .error .reservedField
    | _ => .error .unassignedCode
  | 0x2B =>
    match (fld x 6 5).toNat with
    | 0x00 => if fld x 5 1 = 0 then .ok (.hsift (fld x 21 5) (fld x 16 5) (fld x 11 5) (fld x 0 5)) else .error .reservedField
    | 0x01 => if fld x 21 5 = 0 ∧ fld x 0 6 = 0 then .ok (.cntadd (fld x 16 5) (fld x 11 5)) else .error .reservedField
    | 0x02 => if fld x 21 5 = 0 then .ok (.cntsnap (fld x 16 5) (fld x 11 5) (fld x 0 6)) else .error .reservedField
    | _ => .error .unassignedCode
  | 0x2C =>
    match (fld x 6 5).toNat with
    | 0x00 => if fld x 11 5 = 0 ∧ fld x 1 5 = 0 then .ok (.balloc (fld x 21 5) (fld x 16 5) (fld x 0 1)) else .error .reservedField
    | 0x01 => if fld x 21 5 = 0 ∧ fld x 0 6 = 0 then .ok (.bfree (fld x 16 5) (fld x 11 5)) else .error .reservedField
    | 0x02 => if fld x 1 5 = 0 then .ok (.bfork (fld x 21 5) (fld x 16 5) (fld x 11 5) (fld x 0 1)) else .error .reservedField
    | 0x03 => if fld x 0 6 = 0 then .ok (.bmap (fld x 21 5) (fld x 16 5) (fld x 11 5)) else .error .reservedField
    | 0x04 => if fld x 1 5 = 0 then .ok (.bappend (fld x 21 5) (fld x 16 5) (fld x 11 5) (fld x 0 1)) else .error .reservedField
    | _ => .error .unassignedCode
  | 0x2D =>
    match (fld x 6 5).toNat with
    | 0x00 => if fld x 11 5 = 0 ∧ fld x 0 6 = 0 then .ok (.wbill (fld x 21 5) (fld x 16 5)) else .error .reservedField
    | 0x01 => if fld x 11 5 = 0 ∧ fld x 0 6 = 0 then .ok (.wbstat (fld x 21 5) (fld x 16 5)) else .error .reservedField
    | _ => .error .unassignedCode
  | 0x2E =>
    match (fld x 6 5).toNat with
    | 0x00 => .ok (.post (fld x 21 5) (fld x 16 5) (fld x 11 5) (fld x 0 6))
    | 0x01 => if fld x 11 10 = 0 ∧ fld x 1 5 = 0 then .ok (.tfreeze (fld x 21 5) (fld x 0 1)) else .error .reservedField
    | 0x02 => if fld x 11 10 = 0 ∧ fld x 0 6 = 0 then .ok (.tresume (fld x 21 5)) else .error .reservedField
    | 0x03 => if fld x 11 5 = 0 ∧ fld x 0 6 = 0 then .ok (.tframe (fld x 21 5) (fld x 16 5)) else .error .reservedField
    | _ => .error .unassignedCode
  | 0x30 =>
    match (fld x 6 5).toNat with
    | 0x00 => if fld x 11 15 = 0 then .ok (.trap (fld x 0 6)) else .error .reservedField
    | 0x01 => if fld x 11 15 = 0 ∧ fld x 0 6 = 0 then .ok .tret else .error .reservedField
    | 0x02 => if fld x 11 10 = 0 then .ok (.gigCsrr (fld x 21 5) (fld x 0 6)) else .error .reservedField
    | 0x03 => if fld x 21 5 = 0 ∧ fld x 11 5 = 0 then .ok (.gigCsrw (fld x 16 5) (fld x 0 6)) else .error .reservedField
    | 0x04 => if fld x 11 15 = 0 ∧ fld x 0 6 = 0 then .ok .yield else .error .reservedField
    | 0x05 => if fld x 11 15 = 0 ∧ fld x 0 6 = 0 then .ok .gigHalt else .error .reservedField
    | 0x06 => if fld x 21 5 = 0 ∧ fld x 11 5 = 0 then .ok (.trace (fld x 16 5) (fld x 0 6)) else .error .reservedField
    | 0x07 => .ok (.rng (fld x 21 5) (fld x 16 5) (fld x 11 5) (fld x 0 6))
    | 0x08 => if fld x 11 5 = 0 ∧ fld x 1 5 = 0 then .ok (.leave (fld x 21 5) (fld x 16 5) (fld x 0 1)) else .error .reservedField
    | _ => .error .unassignedCode
  | _ => .error .unassignedOpcode

/-- The fields of a word as its stream's map lays them out. -/
def decodeFields (k : StreamKind) (x : BitVec 32) : Except DecodeError Instr :=
  match k with
  | .c => decodeC x
  | .l => decodeL x
  | .x => decodeX x
  | .s => decodeS x
  | .gig => decodeGig x

/-- The instruction that word `x` is in stream `k`, or why it is none (03 R74, R75, R89). -/
def decode (k : StreamKind) (x : BitVec 32) : Except DecodeError Instr :=
  match decodeFields k x with
  | .error e => .error e
  | .ok i => if i.wellFormed then .ok i else .error .operandOutOfRange

/-- The word of an instruction, from the encoding tables of 03; events have none. -/
def encode (i : Instr) : Option (BitVec 32) :=
  match i with
  | .idle w n => some (.ofNat 32 (cat (cat w.toNat 0x0#6) n))
  | .add w d a b => some (.ofNat 32 (cat (cat (cat (cat (cat w.toNat 0x1#6) d) a) b) 0x0#8))
  | .sub w d a b => some (.ofNat 32 (cat (cat (cat (cat (cat w.toNat 0x1#6) d) a) b) 0x1#8))
  | .and w d a b => some (.ofNat 32 (cat (cat (cat (cat (cat w.toNat 0x1#6) d) a) b) 0x2#8))
  | .or w d a b => some (.ofNat 32 (cat (cat (cat (cat (cat w.toNat 0x1#6) d) a) b) 0x3#8))
  | .xor w d a b => some (.ofNat 32 (cat (cat (cat (cat (cat w.toNat 0x1#6) d) a) b) 0x4#8))
  | .shl w d a b => some (.ofNat 32 (cat (cat (cat (cat (cat w.toNat 0x1#6) d) a) b) 0x5#8))
  | .shr w d a b => some (.ofNat 32 (cat (cat (cat (cat (cat w.toNat 0x1#6) d) a) b) 0x6#8))
  | .sra w d a b => some (.ofNat 32 (cat (cat (cat (cat (cat w.toNat 0x1#6) d) a) b) 0x7#8))
  | .mul w d a b => some (.ofNat 32 (cat (cat (cat (cat (cat w.toNat 0x1#6) d) a) b) 0x8#8))
  | .mulh w d a b => some (.ofNat 32 (cat (cat (cat (cat (cat w.toNat 0x1#6) d) a) b) 0x9#8))
  | .mulhu w d a b => some (.ofNat 32 (cat (cat (cat (cat (cat w.toNat 0x1#6) d) a) b) 0xA#8))
  | .min w d a b => some (.ofNat 32 (cat (cat (cat (cat (cat w.toNat 0x1#6) d) a) b) 0xB#8))
  | .max w d a b => some (.ofNat 32 (cat (cat (cat (cat (cat w.toNat 0x1#6) d) a) b) 0xC#8))
  | .minu w d a b => some (.ofNat 32 (cat (cat (cat (cat (cat w.toNat 0x1#6) d) a) b) 0xD#8))
  | .maxu w d a b => some (.ofNat 32 (cat (cat (cat (cat (cat w.toNat 0x1#6) d) a) b) 0xE#8))
  | .addi w d a i => some (.ofNat 32 (cat (cat (cat (cat w.toNat 0x2#6) d) a) i))
  | .andi w d a i => some (.ofNat 32 (cat (cat (cat (cat w.toNat 0x3#6) d) a) i))
  | .ori w d a i => some (.ofNat 32 (cat (cat (cat (cat w.toNat 0x4#6) d) a) i))
  | .xori w d a i => some (.ofNat 32 (cat (cat (cat (cat w.toNat 0x5#6) d) a) i))
  | .shli w d a i => some (.ofNat 32 (cat (cat (cat (cat (cat w.toNat 0x6#6) d) a) 0x0#7) i))
  | .shri w d a i => some (.ofNat 32 (cat (cat (cat (cat (cat w.toNat 0x7#6) d) a) 0x0#7) i))
  | .srai w d a i => some (.ofNat 32 (cat (cat (cat (cat (cat w.toNat 0x8#6) d) a) 0x0#7) i))
  | .li w d i => some (.ofNat 32 (cat (cat (cat w.toNat 0x9#6) d) i))
  | .lui w d i => some (.ofNat 32 (cat (cat (cat w.toNat 0xA#6) d) i))
  | .cmp w p a b c => some (.ofNat 32 (cat (cat (cat (cat (cat (cat w.toNat 0xB#6) p) a) b) c) 0x0#7))
  | .cmpi w p a c i => some (.ofNat 32 (cat (cat (cat (cat (cat w.toNat 0xC#6) p) a) c) i))
  | .sel w d a b p => some (.ofNat 32 (cat (cat (cat (cat (cat (cat w.toNat 0xD#6) d) a) b) p) 0x0#5))
  | .lds w d a i => some (.ofNat 32 (cat (cat (cat (cat w.toNat 0xE#6) d) a) i))
  | .sts w s a i => some (.ofNat 32 (cat (cat (cat (cat w.toNat 0xF#6) s) a) i))
  | .br w p n i => some (.ofNat 32 (cat (cat (cat (cat w.toNat 0x10#6) p) n) i))
  | .brp w p n i => some (.ofNat 32 (cat (cat (cat (cat w.toNat 0x11#6) p) n) i))
  | .loop w a l m => some (.ofNat 32 (cat (cat (cat (cat w.toNat 0x12#6) a) l) m))
  | .lspan w n => some (.ofNat 32 (cat (cat w.toNat 0x13#6) n))
  | .call w i => some (.ofNat 32 (cat (cat (cat w.toNat 0x14#6) 0x0#4) i))
  | .ret w => some (.ofNat 32 (cat (cat w.toNat 0x15#6) 0x0#23))
  | .cGive w q c => some (.ofNat 32 (cat (cat (cat (cat w.toNat 0x18#6) q) c) 0x0#13))
  | .cTake w q c => some (.ofNat 32 (cat (cat (cat (cat w.toNat 0x19#6) q) c) 0x0#13))
  | .sqw w t a => some (.ofNat 32 (cat (cat (cat (cat w.toNat 0x1A#6) t) a) 0x0#16))
  | .bqw w p n => some (.ofNat 32 (cat (cat (cat (cat w.toNat 0x1B#6) p) n) 0x0#19))
  | .align w n => some (.ofNat 32 (cat (cat w.toNat 0x1C#6) n))
  | .stage w n => some (.ofNat 32 (cat (cat w.toNat 0x1D#6) n))
  | .wopen w l => some (.ofNat 32 (cat (cat (cat w.toNat 0x20#6) l) 0x0#17))
  | .wclose w l => some (.ofNat 32 (cat (cat (cat w.toNat 0x21#6) l) 0x0#17))
  | .postrd w d s => some (.ofNat 32 (cat (cat (cat (cat w.toNat 0x22#6) d) s) 0x0#12))
  | .postv w p s => some (.ofNat 32 (cat (cat (cat (cat w.toNat 0x23#6) p) s) 0x0#14))
  | .nest w l f a => some (.ofNat 32 (cat (cat (cat (cat (cat w.toNat 0x24#6) l) f) a) 0x0#11))
  | .mgo w => some (.ofNat 32 (cat (cat w.toNat 0x25#6) 0x0#23))
  | .csrr w d c => some (.ofNat 32 (cat (cat (cat (cat w.toNat 0x28#6) d) 0x0#6) c))
  | .csrw w s c => some (.ofNat 32 (cat (cat (cat (cat w.toNat 0x29#6) s) 0x0#6) c))
  | .tick w d => some (.ofNat 32 (cat (cat (cat w.toNat 0x2A#6) d) 0x0#18))
  | .mark w n => some (.ofNat 32 (cat (cat w.toNat 0x30#6) n))
  | .trapc w c => some (.ofNat 32 (cat (cat (cat w.toNat 0x31#6) 0x0#15) c))
  | .freeze w => some (.ofNat 32 (cat (cat w.toNat 0x32#6) 0x0#23))
  | .halt w => some (.ofNat 32 (cat (cat w.toNat 0x33#6) 0x0#23))
  | .lScfg w s a i => some (.ofNat 32 (cat (cat (cat (cat w.toNat 0x1#6) s) a) i))
  | .lSadv w s i => some (.ofNat 32 (cat (cat (cat (cat w.toNat 0x2#6) s) 0x0#4) i))
  | .aadd w d a b => some (.ofNat 32 (cat (cat (cat (cat (cat w.toNat 0x3#6) d) a) b) 0x0#11))
  | .aaddi w d a i => some (.ofNat 32 (cat (cat (cat (cat w.toNat 0x4#6) d) a) i))
  | .ali w d i => some (.ofNat 32 (cat (cat (cat w.toNat 0x5#6) d) i))
  | .lSqr w d => some (.ofNat 32 (cat (cat (cat w.toNat 0x6#6) d) 0x0#19))
  | .ldq w q s => some (.ofNat 32 (cat (cat (cat (cat w.toNat 0x7#6) q) s) 0x0#16))
  | .gath w s a i => some (.ofNat 32 (cat (cat (cat (cat w.toNat 0x8#6) s) a) i))
  | .hld w s a i => some (.ofNat 32 (cat (cat (cat (cat w.toNat 0x9#6) s) a) i))
  | .lTlbp w s => some (.ofNat 32 (cat (cat (cat w.toNat 0xA#6) s) 0x0#19))
  | .bout w s => some (.ofNat 32 (cat (cat (cat w.toNat 0xB#6) s) 0x0#19))
  | .ldcb w c a => some (.ofNat 32 (cat (cat (cat (cat w.toNat 0xC#6) c) a) 0x0#17))
  | .ldcm w t a => some (.ofNat 32 (cat (cat (cat (cat w.toNat 0xD#6) t) a) 0x0#15))
  | .lGive w q c => some (.ofNat 32 (cat (cat (cat (cat w.toNat 0xE#6) q) c) 0x0#13))
  | .lTake w q c => some (.ofNat 32 (cat (cat (cat (cat w.toNat 0xF#6) q) c) 0x0#13))
  | .sScfg w s b i => some (.ofNat 32 (cat (cat (cat (cat w.toNat 0x1#6) s) b) i))
  | .sSadv w s i => some (.ofNat 32 (cat (cat (cat (cat w.toNat 0x2#6) s) 0x0#4) i))
  | .badd w d a b => some (.ofNat 32 (cat (cat (cat (cat (cat w.toNat 0x3#6) d) a) b) 0x0#11))
  | .baddi w d a i => some (.ofNat 32 (cat (cat (cat (cat w.toNat 0x4#6) d) a) i))
  | .bli w d i => some (.ofNat 32 (cat (cat (cat w.toNat 0x5#6) d) i))
  | .sSqr w d => some (.ofNat 32 (cat (cat (cat w.toNat 0x6#6) d) 0x0#19))
  | .stq w q s f r x h c => some (.ofNat 32 (cat (cat (cat (cat (cat (cat (cat (cat (cat w.toNat 0x7#6) q) s) f) r) x) h) c) 0x0#5))
  | .hst w s b i => some (.ofNat 32 (cat (cat (cat (cat w.toNat 0x8#6) s) b) i))
  | .send w q b => some (.ofNat 32 (cat (cat (cat (cat w.toNat 0x9#6) q) b) 0x0#16))
  | .mcast w q g b => some (.ofNat 32 (cat (cat (cat (cat (cat w.toNat 0xA#6) q) g) b) 0x0#12))
  | .rmw w o t b v => some (.ofNat 32 (cat (cat (cat (cat (cat (cat w.toNat 0xB#6) o) t) b) v) 0x0#10))
  | .hclr w s => some (.ofNat 32 (cat (cat (cat w.toNat 0xC#6) s) 0x0#21))
  | .hsnap w s b => some (.ofNat 32 (cat (cat (cat (cat w.toNat 0xD#6) s) b) 0x0#17))
  | .sTlbp w s => some (.ofNat 32 (cat (cat (cat w.toNat 0xE#6) s) 0x0#19))
  | .sGive w q c => some (.ofNat 32 (cat (cat (cat (cat w.toNat 0xF#6) q) c) 0x0#13))
  | .sTake w q c => some (.ofNat 32 (cat (cat (cat (cat w.toNat 0x10#6) q) c) 0x0#13))
  | .vadd w d a b f r x m => some (.ofNat 32 (cat (cat (cat (cat (cat (cat (cat (cat w.toNat 0x1#6) d) a) b) f) r) x) m))
  | .vsub w d a b f r x m => some (.ofNat 32 (cat (cat (cat (cat (cat (cat (cat (cat w.toNat 0x2#6) d) a) b) f) r) x) m))
  | .vmul w d a b f r x m => some (.ofNat 32 (cat (cat (cat (cat (cat (cat (cat (cat w.toNat 0x3#6) d) a) b) f) r) x) m))
  | .vfma w d a b f r x m => some (.ofNat 32 (cat (cat (cat (cat (cat (cat (cat (cat w.toNat 0x4#6) d) a) b) f) r) x) m))
  | .vfms w d a b f r x m => some (.ofNat 32 (cat (cat (cat (cat (cat (cat (cat (cat w.toNat 0x5#6) d) a) b) f) r) x) m))
  | .vmax w d a b f m => some (.ofNat 32 (cat (cat (cat (cat (cat (cat (cat w.toNat 0x6#6) d) a) b) f) 0x0#4) m))
  | .vmin w d a b f m => some (.ofNat 32 (cat (cat (cat (cat (cat (cat (cat w.toNat 0x7#6) d) a) b) f) 0x0#4) m))
  | .vabs w d a f m => some (.ofNat 32 (cat (cat (cat (cat (cat (cat (cat w.toNat 0x8#6) d) a) 0x0#5) f) 0x0#4) m))
  | .vneg w d a f m => some (.ofNat 32 (cat (cat (cat (cat (cat (cat (cat w.toNat 0x9#6) d) a) 0x0#5) f) 0x0#4) m))
  | .vcvt w d a g f r x m => some (.ofNat 32 (cat (cat (cat (cat (cat (cat (cat (cat (cat w.toNat 0xA#6) d) a) g) 0x0#2) f) r) x) m))
  | .vcmp w k a b f c m => some (.ofNat 32 (cat (cat (cat (cat (cat (cat (cat (cat (cat w.toNat 0xB#6) k) 0x0#2) a) b) f) c) 0x0#1) m))
  | .vsel w d a b s m => some (.ofNat 32 (cat (cat (cat (cat (cat (cat (cat w.toNat 0xC#6) d) a) b) s) 0x0#4) m))
  | .vand w d a b m => some (.ofNat 32 (cat (cat (cat (cat (cat (cat w.toNat 0xD#6) d) a) b) 0x0#7) m))
  | .vor w d a b m => some (.ofNat 32 (cat (cat (cat (cat (cat (cat w.toNat 0xE#6) d) a) b) 0x0#7) m))
  | .vxor w d a b m => some (.ofNat 32 (cat (cat (cat (cat (cat (cat w.toNat 0xF#6) d) a) b) 0x0#7) m))
  | .vshl w d a b m => some (.ofNat 32 (cat (cat (cat (cat (cat (cat w.toNat 0x10#6) d) a) b) 0x0#7) m))
  | .vshr w d a b m => some (.ofNat 32 (cat (cat (cat (cat (cat (cat w.toNat 0x11#6) d) a) b) 0x0#7) m))
  | .viadd w d a b f x m => some (.ofNat 32 (cat (cat (cat (cat (cat (cat (cat (cat w.toNat 0x12#6) d) a) b) f) 0x0#3) x) m))
  | .vimul w d a b f x m => some (.ofNat 32 (cat (cat (cat (cat (cat (cat (cat (cat w.toNat 0x13#6) d) a) b) f) 0x0#3) x) m))
  | .vred w d a o f r m => some (.ofNat 32 (cat (cat (cat (cat (cat (cat (cat (cat w.toNat 0x14#6) d) a) o) f) r) 0x0#1) m))
  | .vperm w d a b m => some (.ofNat 32 (cat (cat (cat (cat (cat (cat w.toNat 0x15#6) d) a) b) 0x0#7) m))
  | .vspl w d a l m => some (.ofNat 32 (cat (cat (cat (cat (cat (cat w.toNat 0x16#6) d) a) l) 0x0#6) m))
  | .vsplQ w d m => some (.ofNat 32 (cat (cat (cat (cat w.toNat 0x16#6) d) 0x20#17) m))
  | .vpop w d q => some (.ofNat 32 (cat (cat (cat (cat w.toNat 0x17#6) d) q) 0x0#15))
  | .vpush w a q => some (.ofNat 32 (cat (cat (cat (cat w.toNat 0x18#6) a) q) 0x0#15))
  | .vtab w d a t f r x m => some (.ofNat 32 (cat (cat (cat (cat (cat (cat (cat (cat (cat w.toNat 0x19#6) d) a) t) 0x0#1) f) r) x) m))
  | .vrope w d a b f r m => some (.ofNat 32 (cat (cat (cat (cat (cat (cat (cat (cat w.toNat 0x1A#6) d) a) b) f) r) 0x0#1) m))
  | .vscl w d a f r x m => some (.ofNat 32 (cat (cat (cat (cat (cat (cat (cat (cat w.toNat 0x1B#6) d) a) 0x0#5) f) r) x) m))
  | .vrng w d m => some (.ofNat 32 (cat (cat (cat (cat w.toNat 0x1C#6) d) 0x0#17) m))
  | .vdrw w d s f => some (.ofNat 32 (cat (cat (cat (cat (cat w.toNat 0x1D#6) d) s) f) 0x0#16))
  | .vdwr w a s => some (.ofNat 32 (cat (cat (cat (cat w.toNat 0x1E#6) a) s) 0x0#17))
  | .vmsk w d a b f => some (.ofNat 32 (cat (cat (cat (cat (cat (cat w.toNat 0x1F#6) d) a) b) f) 0x0#10))
  | .accrd w d r => some (.ofNat 32 (cat (cat (cat (cat w.toNat 0x20#6) d) r) 0x0#6))
  | .accwr w a r => some (.ofNat 32 (cat (cat (cat (cat w.toNat 0x21#6) a) r) 0x0#6))
  | .accz w s => some (.ofNat 32 (cat (cat (cat w.toNat 0x22#6) s) 0x0#17))
  | .accst w q r f o x => some (.ofNat 32 (cat (cat (cat (cat (cat (cat (cat w.toNat 0x23#6) q) r) f) o) x) 0x0#3))
  | .xbr w n i => some (.ofNat 32 (cat (cat (cat (cat w.toNat 0x24#6) n) 0x0#3) i))
  | .xloop w l m => some (.ofNat 32 (cat (cat (cat (cat w.toNat 0x25#6) 0x0#5) l) m))
  | .xlspan w n => some (.ofNat 32 (cat (cat w.toNat 0x26#6) n))
  | .xGive w q c => some (.ofNat 32 (cat (cat (cat (cat w.toNat 0x27#6) q) c) 0x0#13))
  | .xTake w q c => some (.ofNat 32 (cat (cat (cat (cat w.toNat 0x28#6) q) c) 0x0#13))
  | .vldi w d k i => some (.ofNat 32 (cat (cat (cat (cat w.toNat 0x29#6) d) k) i))
  | .gigAdd d a b => some (.ofNat 32 (cat (cat (cat (cat (0x0#6).toNat d) a) b) 0x0#11))
  | .gigSub d a b => some (.ofNat 32 (cat (cat (cat (cat (0x0#6).toNat d) a) b) 0x1#11))
  | .gigAnd d a b => some (.ofNat 32 (cat (cat (cat (cat (0x0#6).toNat d) a) b) 0x2#11))
  | .gigOr d a b => some (.ofNat 32 (cat (cat (cat (cat (0x0#6).toNat d) a) b) 0x3#11))
  | .gigXor d a b => some (.ofNat 32 (cat (cat (cat (cat (0x0#6).toNat d) a) b) 0x4#11))
  | .gigShl d a b => some (.ofNat 32 (cat (cat (cat (cat (0x0#6).toNat d) a) b) 0x5#11))
  | .gigShr d a b => some (.ofNat 32 (cat (cat (cat (cat (0x0#6).toNat d) a) b) 0x6#11))
  | .gigSra d a b => some (.ofNat 32 (cat (cat (cat (cat (0x0#6).toNat d) a) b) 0x7#11))
  | .gigMul d a b => some (.ofNat 32 (cat (cat (cat (cat (0x0#6).toNat d) a) b) 0x8#11))
  | .gigMulh d a b => some (.ofNat 32 (cat (cat (cat (cat (0x0#6).toNat d) a) b) 0x9#11))
  | .gigMulhu d a b => some (.ofNat 32 (cat (cat (cat (cat (0x0#6).toNat d) a) b) 0xA#11))
  | .gigDiv d a b => some (.ofNat 32 (cat (cat (cat (cat (0x0#6).toNat d) a) b) 0xB#11))
  | .gigDivu d a b => some (.ofNat 32 (cat (cat (cat (cat (0x0#6).toNat d) a) b) 0xC#11))
  | .gigRem d a b => some (.ofNat 32 (cat (cat (cat (cat (0x0#6).toNat d) a) b) 0xD#11))
  | .gigRemu d a b => some (.ofNat 32 (cat (cat (cat (cat (0x0#6).toNat d) a) b) 0xE#11))
  | .gigSlt d a b => some (.ofNat 32 (cat (cat (cat (cat (0x0#6).toNat d) a) b) 0xF#11))
  | .gigSltu d a b => some (.ofNat 32 (cat (cat (cat (cat (0x0#6).toNat d) a) b) 0x10#11))
  | .gigMin d a b => some (.ofNat 32 (cat (cat (cat (cat (0x0#6).toNat d) a) b) 0x11#11))
  | .gigMax d a b => some (.ofNat 32 (cat (cat (cat (cat (0x0#6).toNat d) a) b) 0x12#11))
  | .gigMinu d a b => some (.ofNat 32 (cat (cat (cat (cat (0x0#6).toNat d) a) b) 0x13#11))
  | .gigMaxu d a b => some (.ofNat 32 (cat (cat (cat (cat (0x0#6).toNat d) a) b) 0x14#11))
  | .gigClz d a => some (.ofNat 32 (cat (cat (cat (0x0#6).toNat d) a) 0x15#16))
  | .gigCtz d a => some (.ofNat 32 (cat (cat (cat (0x0#6).toNat d) a) 0x16#16))
  | .gigPopc d a => some (.ofNat 32 (cat (cat (cat (0x0#6).toNat d) a) 0x17#16))
  | .gigAddi d a i => some (.ofNat 32 (cat (cat (cat (0x1#6).toNat d) a) i))
  | .gigAndi d a i => some (.ofNat 32 (cat (cat (cat (0x2#6).toNat d) a) i))
  | .gigOri d a i => some (.ofNat 32 (cat (cat (cat (0x3#6).toNat d) a) i))
  | .gigXori d a i => some (.ofNat 32 (cat (cat (cat (0x4#6).toNat d) a) i))
  | .gigShli d a i => some (.ofNat 32 (cat (cat (cat (cat (0x5#6).toNat d) a) 0x0#10) i))
  | .gigShri d a i => some (.ofNat 32 (cat (cat (cat (cat (0x6#6).toNat d) a) 0x0#10) i))
  | .gigSrai d a i => some (.ofNat 32 (cat (cat (cat (cat (0x7#6).toNat d) a) 0x0#10) i))
  | .slti d a i => some (.ofNat 32 (cat (cat (cat (0x8#6).toNat d) a) i))
  | .sltiu d a i => some (.ofNat 32 (cat (cat (cat (0x9#6).toNat d) a) i))
  | .gigLui d i => some (.ofNat 32 (cat (cat (cat (0xA#6).toNat d) 0x0#5) i))
  | .beq a b i => some (.ofNat 32 (cat (cat (cat (0x10#6).toNat a) b) i))
  | .bne a b i => some (.ofNat 32 (cat (cat (cat (0x11#6).toNat a) b) i))
  | .blt a b i => some (.ofNat 32 (cat (cat (cat (0x12#6).toNat a) b) i))
  | .bge a b i => some (.ofNat 32 (cat (cat (cat (0x13#6).toNat a) b) i))
  | .bltu a b i => some (.ofNat 32 (cat (cat (cat (0x14#6).toNat a) b) i))
  | .bgeu a b i => some (.ofNat 32 (cat (cat (cat (0x15#6).toNat a) b) i))
  | .jal i => some (.ofNat 32 (cat (0x16#6).toNat i))
  | .jalr d a i => some (.ofNat 32 (cat (cat (cat (0x17#6).toNat d) a) i))
  | .ldb d a c i => some (.ofNat 32 (cat (cat (cat (cat (cat (0x18#6).toNat d) a) c) 0x0#3) i))
  | .ldh d a c i => some (.ofNat 32 (cat (cat (cat (cat (cat (0x18#6).toNat d) a) c) 0x1#3) i))
  | .ldw d a c i => some (.ofNat 32 (cat (cat (cat (cat (cat (0x18#6).toNat d) a) c) 0x2#3) i))
  | .ldd d a c i => some (.ofNat 32 (cat (cat (cat (cat (cat (0x18#6).toNat d) a) c) 0x3#3) i))
  | .ldbu d a c i => some (.ofNat 32 (cat (cat (cat (cat (cat (0x18#6).toNat d) a) c) 0x4#3) i))
  | .ldhu d a c i => some (.ofNat 32 (cat (cat (cat (cat (cat (0x18#6).toNat d) a) c) 0x5#3) i))
  | .ldwu d a c i => some (.ofNat 32 (cat (cat (cat (cat (cat (0x18#6).toNat d) a) c) 0x6#3) i))
  | .stb s a c i => some (.ofNat 32 (cat (cat (cat (cat (cat (0x19#6).toNat s) a) c) 0x0#3) i))
  | .sth s a c i => some (.ofNat 32 (cat (cat (cat (cat (cat (0x19#6).toNat s) a) c) 0x1#3) i))
  | .stw s a c i => some (.ofNat 32 (cat (cat (cat (cat (cat (0x19#6).toNat s) a) c) 0x2#3) i))
  | .std s a c i => some (.ofNat 32 (cat (cat (cat (cat (cat (0x19#6).toNat s) a) c) 0x3#3) i))
  | .amoadd d a b w c => some (.ofNat 32 (cat (cat (cat (cat (cat (cat (cat (0x1A#6).toNat d) a) b) 0x0#4) w) c) 0x0#2))
  | .amoswap d a b w c => some (.ofNat 32 (cat (cat (cat (cat (cat (cat (cat (0x1A#6).toNat d) a) b) 0x1#4) w) c) 0x0#2))
  | .amocas d a b w c => some (.ofNat 32 (cat (cat (cat (cat (cat (cat (cat (0x1A#6).toNat d) a) b) 0x2#4) w) c) 0x0#2))
  | .amomin d a b w c => some (.ofNat 32 (cat (cat (cat (cat (cat (cat (cat (0x1A#6).toNat d) a) b) 0x3#4) w) c) 0x0#2))
  | .amomax d a b w c => some (.ofNat 32 (cat (cat (cat (cat (cat (cat (cat (0x1A#6).toNat d) a) b) 0x4#4) w) c) 0x0#2))
  | .amominu d a b w c => some (.ofNat 32 (cat (cat (cat (cat (cat (cat (cat (0x1A#6).toNat d) a) b) 0x5#4) w) c) 0x0#2))
  | .amomaxu d a b w c => some (.ofNat 32 (cat (cat (cat (cat (cat (cat (cat (0x1A#6).toNat d) a) b) 0x6#4) w) c) 0x0#2))
  | .amoand d a b w c => some (.ofNat 32 (cat (cat (cat (cat (cat (cat (cat (0x1A#6).toNat d) a) b) 0x7#4) w) c) 0x0#2))
  | .amoor d a b w c => some (.ofNat 32 (cat (cat (cat (cat (cat (cat (cat (0x1A#6).toNat d) a) b) 0x8#4) w) c) 0x0#2))
  | .amoxor d a b w c => some (.ofNat 32 (cat (cat (cat (cat (cat (cat (cat (0x1A#6).toNat d) a) b) 0x9#4) w) c) 0x0#2))
  | .fence s m => some (.ofNat 32 (cat (cat (cat (0x1B#6).toNat s) 0x0#5) m))
  | .fadd d a b f r => some (.ofNat 32 (cat (cat (cat (cat (cat (cat (0x20#6).toNat d) a) b) 0x0#5) f) r))
  | .fsub d a b f r => some (.ofNat 32 (cat (cat (cat (cat (cat (cat (0x20#6).toNat d) a) b) 0x1#5) f) r))
  | .fmul d a b f r => some (.ofNat 32 (cat (cat (cat (cat (cat (cat (0x20#6).toNat d) a) b) 0x2#5) f) r))
  | .fdiv d a b f r => some (.ofNat 32 (cat (cat (cat (cat (cat (cat (0x20#6).toNat d) a) b) 0x3#5) f) r))
  | .fsqrt d a f r => some (.ofNat 32 (cat (cat (cat (cat (cat (0x20#6).toNat d) a) 0x4#10) f) r))
  | .fmin d a b f => some (.ofNat 32 (cat (cat (cat (cat (cat (cat (0x20#6).toNat d) a) b) 0x5#5) f) 0x0#3))
  | .fmax d a b f => some (.ofNat 32 (cat (cat (cat (cat (cat (cat (0x20#6).toNat d) a) b) 0x6#5) f) 0x0#3))
  | .feq d a b f => some (.ofNat 32 (cat (cat (cat (cat (cat (cat (0x20#6).toNat d) a) b) 0x7#5) f) 0x0#3))
  | .flt d a b f => some (.ofNat 32 (cat (cat (cat (cat (cat (cat (0x20#6).toNat d) a) b) 0x8#5) f) 0x0#3))
  | .fle d a b f => some (.ofNat 32 (cat (cat (cat (cat (cat (cat (0x20#6).toNat d) a) b) 0x9#5) f) 0x0#3))
  | .fcvt d a g f r => some (.ofNat 32 (cat (cat (cat (cat (cat (cat (cat (0x20#6).toNat d) a) 0x0#2) g) 0xA#5) f) r))
  | .fexp2 d a => some (.ofNat 32 (cat (cat (cat (0x20#6).toNat d) a) 0x2C0#16))
  | .fma d a b c f r => some (.ofNat 32 (cat (cat (cat (cat (cat (cat (cat (0x21#6).toNat d) a) b) c) 0x0#2) f) r))
  | .fms d a b c f r => some (.ofNat 32 (cat (cat (cat (cat (cat (cat (cat (0x21#6).toNat d) a) b) c) 0x1#2) f) r))
  | .fnma d a b c f r => some (.ofNat 32 (cat (cat (cat (cat (cat (cat (cat (0x21#6).toNat d) a) b) c) 0x2#2) f) r))
  | .arrive d n => some (.ofNat 32 (cat (cat (cat (0x28#6).toNat d) 0x0#17) n))
  | .waitp d a b n => some (.ofNat 32 (cat (cat (cat (cat (cat (0x28#6).toNat d) a) b) 0x4#7) n))
  | .evsig n => some (.ofNat 32 (cat (cat (0x28#6).toNat 0x4#21) n))
  | .evmsg a n => some (.ofNat 32 (cat (cat (cat (cat (0x28#6).toNat 0x0#5) a) 0x6#11) n))
  | .gigSend a b => some (.ofNat 32 (cat (cat (cat (cat (0x29#6).toNat 0x0#5) a) b) 0x0#11))
  | .recv d a n => some (.ofNat 32 (cat (cat (cat (cat (0x29#6).toNat d) a) 0x20#15) n))
  | .spawn d a p => some (.ofNat 32 (cat (cat (cat (cat (0x2A#6).toNat d) a) 0x0#15) p))
  | .wid d n => some (.ofNat 32 (cat (cat (cat (0x2A#6).toNat d) 0x8#18) n))
  | .hsift d a b k => some (.ofNat 32 (cat (cat (cat (cat (cat (0x2B#6).toNat d) a) b) 0x0#6) k))
  | .cntadd a b => some (.ofNat 32 (cat (cat (cat (cat (0x2B#6).toNat 0x0#5) a) b) 0x40#11))
  | .cntsnap a b n => some (.ofNat 32 (cat (cat (cat (cat (cat (0x2B#6).toNat 0x0#5) a) b) 0x2#5) n))
  | .balloc d a n => some (.ofNat 32 (cat (cat (cat (cat (0x2C#6).toNat d) a) 0x0#15) n))
  | .bfree a b => some (.ofNat 32 (cat (cat (cat (cat (0x2C#6).toNat 0x0#5) a) b) 0x40#11))
  | .bfork d a b n => some (.ofNat 32 (cat (cat (cat (cat (cat (0x2C#6).toNat d) a) b) 0x40#10) n))
  | .bmap d a b => some (.ofNat 32 (cat (cat (cat (cat (0x2C#6).toNat d) a) b) 0xC0#11))
  | .bappend d a b n => some (.ofNat 32 (cat (cat (cat (cat (cat (0x2C#6).toNat d) a) b) 0x80#10) n))
  | .wbill d a => some (.ofNat 32 (cat (cat (cat (0x2D#6).toNat d) a) 0x0#16))
  | .wbstat d a => some (.ofNat 32 (cat (cat (cat (0x2D#6).toNat d) a) 0x40#16))
  | .post d a b s => some (.ofNat 32 (cat (cat (cat (cat (cat (0x2E#6).toNat d) a) b) 0x0#5) s))
  | .tfreeze d s => some (.ofNat 32 (cat (cat (cat (0x2E#6).toNat d) 0x20#20) s))
  | .tresume d => some (.ofNat 32 (cat (cat (0x2E#6).toNat d) 0x80#21))
  | .tframe d a => some (.ofNat 32 (cat (cat (cat (0x2E#6).toNat d) a) 0xC0#16))
  | .trap c => some (.ofNat 32 (cat (cat (0x30#6).toNat 0x0#20) c))
  | .tret => some (.ofNat 32 (cat (0x30#6).toNat 0x40#26))
  | .gigCsrr d c => some (.ofNat 32 (cat (cat (cat (0x30#6).toNat d) 0x2#15) c))
  | .gigCsrw a c => some (.ofNat 32 (cat (cat (cat (cat (0x30#6).toNat 0x0#5) a) 0x3#10) c))
  | .yield => some (.ofNat 32 (cat (0x30#6).toNat 0x100#26))
  | .gigHalt => some (.ofNat 32 (cat (0x30#6).toNat 0x140#26))
  | .trace a t => some (.ofNat 32 (cat (cat (cat (cat (0x30#6).toNat 0x0#5) a) 0x6#10) t))
  | .rng d a b s => some (.ofNat 32 (cat (cat (cat (cat (cat (0x30#6).toNat d) a) b) 0x7#5) s))
  | .leave d a c => some (.ofNat 32 (cat (cat (cat (cat (0x30#6).toNat d) a) 0x100#15) c))
  | .euBarrierArrive _ _ => none
  | .euMutexAcquire _ _ => none
  | .euMutexRelease _ _ => none
  | .euEventWait _ _ => none
  | .euEventSet _ _ => none
  | .shoot _ _ => none
  | .done _ _ => none
  | .registerWrite _ => none
  | .resultComplete _ => none
  | .scfgTakesEffect _ => none
  | .tlbpResult _ => none
  | .ldcmComplete _ => none
  | .rmwFinalWrite _ => none
  | .hldLanding _ => none
  | .hstCompletion _ => none
  | .hbmSlotTransfer _ => none
  | .hbmUnitArrival _ _ => none
  | .hbmSlotRefusal _ => none
  | .hbmRefresh _ => none
  | .scrub _ _ _ => none
  | .wordArrival _ => none
  | .relayLanding _ => none
  | .boundaryChannelOverflow _ => none
  | .drawbarArrival _ => none
  | .linkPlanRead _ _ => none
  | .linkPlanLanding _ _ => none
  | .nestKStep _ => none
  | .nestDone _ => none
  | .sidebandAtk _ _ => none
  | .alignRelease _ => none
  | .alignSlip _ => none
  | .freezeTakesEffect _ => none
  | .freezeNotice _ => none
  | .extIntTaken _ => none
  | .extRequestArrival _ => none
  | .tresumePerform _ => none
  | .restart _ => none
  | .pipelineFinished _ => none
  | .timedGlobalStart _ => none
  | .postArrival _ => none
  | .brakeHoldStart _ => none
  | .brakeRelease _ => none
  | .brakeLimit _ => none
  | .layoverSettle _ => none
  | .turnpikeDelayEnd _ => none
  | .allowanceChange _ _ _ => none
  | .powerCap _ => none
  | .wake _ => none
  | .groupExit _ => none
  | .dynLaunchComplete _ => none
  | .contextStart _ => none
  | .childArrival _ => none
  | .barrierRelease _ => none
  | .evmsgArrival _ => none
  | .layoverNotice _ => none
  | .childCompletion _ => none
  | .waitpTimeout _ => none
  | .sendAccept _ => none
  | .cardStart _ _ => none
  | .rowLanded _ _ => none
  | .cardRetire _ _ => none
  | .cardFault _ _ => none
  | .cardLeaveRetry _ _ => none
  | .grantExpiry _ => none
  | .sliceExpiry _ => none
  | .switchOut _ => none
  | .contextRestore _ => none
  | .shootdownComplete _ => none
  | .portalDmwr _ _ _ => none
  | .portalPostedWrite _ => none
  | .mctpPacket _ => none
  | .launchTimed _ => none
  | .launchDyn _ => none
  | .copy _ => none
  | .copyFill _ => none
  | .signalSet _ => none
  | .signalAdd _ => none
  | .wait _ => none
  | .waitComplete _ => none
  | .configDiffApply _ => none
  | .configDiffRollback _ => none
  | .configSwap _ => none
  | .queryIdentity _ => none
  | .queryPartitionMap _ => none
  | .queryLaunchState _ => none
  | .querySeedRecords _ => none
  | .queryHealth _ => none
  | .queryCounters _ => none
  | .queryAttestation _ => none
  | .fwUpdate _ => none
  | .partitionCreate _ => none
  | .partitionDestroy _ => none
  | .completionRecordWrite _ => none
  | .ownClaim _ => none
  | .ownSucc _ _ => none
  | .succTimeout => none
  | .ownerLoss => none
  | .spdmGetMeasurements _ => none
  | .packageReset _ => none
  | .powerLoss => none
  | .domainFormation _ => none
  | .linkFreezeNotice _ => none
  | .linkRestartNotice _ => none
  | .uetCompletion _ _ _ _ => none
  | .accessReachesTarget _ _ => none
  | .completionTimeout _ _ => none
  | .unassignedTimedWord _ => none
  | .unassignedGigWord _ => none

/-- The stream whose map an instruction stands in; IDLE stands in every timed stream's and is listed as C's (03 R73, R85). -/
def Instr.stream (i : Instr) : StreamKind :=
  if i.ctorIdx < 55 then .c else if i.ctorIdx < 70 then .l else if i.ctorIdx < 86 then .s else if i.ctorIdx < 128 then .x else .gig

/-- The streams' maps tried on a bare table word, in order: a word alone does not say which stream it stands in, and
one word may be an instruction of several (03 R71, R75). A word whose bits [31:29], the W of a timed word, are zero is
taken for a timed word where it is one; any other word is tried as a gig word first. -/
def tableOrder (x : BitVec 32) : List StreamKind :=
  if x.toNat / 2 ^ 29 = 0 then [.c, .l, .x, .s, .gig] else [.gig, .c, .l, .x, .s]

/-- The first stream of a list in which word `x` is an instruction, with that instruction. -/
def decodeFirst (ks : List StreamKind) (x : BitVec 32) : Option (StreamKind × Instr) :=
  match ks with
  | [] => none
  | k :: t => match decode k x with
    | .ok i => some (k, i)
    | .error _ => decodeFirst t x

/-- The instruction read from the word `w` of an opcode-table row. -/
def decodeTableWord (nbits w : Nat) : Option Instr :=
  if nbits = 32 then (decodeFirst (tableOrder (.ofNat 32 w)) (.ofNat 32 w)).map (fun e => e.2) else none

end Sys2Proof
end

