-- ==== Sys2Proof/Machine/Flags.lean ====
section
/-! DEFINITION. The sticky floating-point flags (02 R53) and integer condition codes (03 Table 3-5). -/
namespace Sys2Proof.Machine

/-- A set of sticky flags: bits [4:0] are NX, UF, OF, DZ, NV; [5] SRW and [6] POS_OVF exist in
FFLAGS_T only (02 R53, R60; 04 Table 4-10). -/
abbrev FlagSet := BitVec 7

/-- Inexact. -/
def flagNX : FlagSet := 0x01
/-- Underflow. -/
def flagUF : FlagSet := 0x02
/-- Overflow. -/
def flagOF : FlagSet := 0x04
/-- Division by zero. -/
def flagDZ : FlagSet := 0x08
/-- Invalid operation. -/
def flagNV : FlagSet := 0x10
/-- The stochastic counter has wrapped (02 R60). -/
def flagSRW : FlagSet := 0x20
/-- A rotary position was cut off (07 R219). -/
def flagPOSOVF : FlagSet := 0x40

/-- The flags `f` where the condition holds, none otherwise. -/
def flagIf (c : Bool) (f : FlagSet) : FlagSet := if c then f else 0

/-- The conditions of CMP, CMPI and the compare-and-branch words (03 Table 3-5):
0 EQ, 1 NE, 2 LT, 3 GE, 4 LTU, 5 GEU; other codes are unassigned and never reach here. -/
def condHolds (cond : Nat) (a b : BitVec 64) : Bool :=
  match cond with
  | 0 => a == b
  | 1 => !(a == b)
  | 2 => a.slt b
  | 3 => !(a.slt b)
  | 4 => a.ult b
  | _ => !(a.ult b)

end Sys2Proof.Machine
end

