-- ==== Sys2Proof/Machine/Num.lean ====
section
/-! DEFINITION. Number formats, exact values, Round and Sat (02 R41 to R54), the keyed bit source
(R55, R56), block-scale validity (R62), histogram bins (R67) and scratchpad banks (R69). -/
namespace Sys2Proof.Machine

/-- The formats of 02 Table 2-1. -/
inductive Fmt
  | fp32 | bf16 | fp16 | e4m3 | e5m2 | int8 | uint8 | int4 | cb4 | fp64 | int32
  deriving DecidableEq, Repr

/-- The format of a 4-bit code; codes 11 to 15 are reserved (02 R42). -/
def Fmt.ofCode (c : Nat) : Option Fmt :=
  match c with
  | 0 => some .fp32 | 1 => some .bf16 | 2 => some .fp16 | 3 => some .e4m3
  | 4 => some .e5m2 | 5 => some .int8 | 6 => some .uint8 | 7 => some .int4
  | 8 => some .cb4 | 9 => some .fp64 | 10 => some .int32 | _ => none

/-- The format of a 3-bit X-stream code: 0 to 6 as Table 2-1, 7 is INT32 (03 R83). -/
def Fmt.ofVec (c : Nat) : Fmt :=
  match c with
  | 0 => .fp32 | 1 => .bf16 | 2 => .fp16 | 3 => .e4m3
  | 4 => .e5m2 | 5 => .int8 | 6 => .uint8 | _ => .int32

/-- Element width in bits. -/
def Fmt.bits (f : Fmt) : Nat :=
  match f with
  | .fp32 => 32 | .bf16 => 16 | .fp16 => 16 | .e4m3 => 8 | .e5m2 => 8
  | .int8 => 8 | .uint8 => 8 | .int4 => 4 | .cb4 => 4 | .fp64 => 64 | .int32 => 32

/-- True of the integer formats. CB4 codes are values of BF16 entries (R47). -/
def Fmt.isInt (f : Fmt) : Bool :=
  match f with
  | .int8 | .uint8 | .int4 | .int32 => true
  | _ => false

/-- Precision p of a floating format. CB4 has the precision of its BF16 entries. -/
def Fmt.prec (f : Fmt) : Nat :=
  match f with
  | .fp32 => 24 | .fp16 => 11 | .e4m3 => 4 | .e5m2 => 3 | .fp64 => 53 | _ => 8

/-- Exponent bias of a floating format. -/
def Fmt.bias (f : Fmt) : Nat :=
  match f with
  | .fp16 => 15 | .e4m3 => 7 | .e5m2 => 15 | .fp64 => 1023 | _ => 127

/-- Exponent of the smallest normal value. -/
def Fmt.emin (f : Fmt) : Int := 1 - (f.bias : Int)

/-- The magnitude pattern of the largest finite value. -/
def Fmt.maxMag (f : Fmt) : Nat :=
  match f with
  | .fp32 => 0x7F7FFFFF | .fp16 => 0x7BFF | .e4m3 => 0x7E | .e5m2 => 0x7B
  | .fp64 => 0x7FEFFFFFFFFFFFFF | _ => 0x7F7F

/-- The canonical quiet NaN (R46). -/
def Fmt.qnan (f : Fmt) : Nat :=
  match f with
  | .fp32 => 0x7FC00000 | .fp16 => 0x7E00 | .e4m3 => 0x7F | .e5m2 => 0x7E
  | .fp64 => 0x7FF8000000000000 | _ => 0x7FC0

/-- The magnitude pattern of infinity (all-ones exponent, zero fraction); E4M3 has none (R44). -/
def Fmt.infMag (f : Fmt) : Nat :=
  match f with
  | .fp32 => 0x7F800000 | .fp16 => 0x7C00 | .e4m3 => 0x7F | .e5m2 => 0x7C
  | .fp64 => 0x7FF0000000000000 | _ => 0x7F80

/-- The least value of an integer format. -/
def Fmt.least (f : Fmt) : Int :=
  match f with
  | .int8 => -128 | .uint8 => 0 | .int4 => -8 | _ => -2147483648

/-- The largest value of an integer format. -/
def Fmt.largest (f : Fmt) : Int :=
  match f with
  | .int8 => 127 | .uint8 => 255 | .int4 => 7 | _ => 2147483647

/-- The indefinite pattern: a 1 followed by zeros, 0x80 for UINT8 (R51). -/
def Fmt.indefinite (f : Fmt) : Nat :=
  match f with
  | .int8 => 0x80 | .uint8 => 0x80 | .int4 => 0x8 | _ => 0x80000000

/-- An exact value before rounding (R10, R51): NaN, a signed infinity, or sign and magnitude m × 2^e.
`sticky` says that the magnitude lies strictly between m × 2^e and (m + 1) × 2^e: quotients, roots and
irrational function values are held to many more bits than any format keeps. -/
inductive XVal
  | nan
  | inf (neg : Bool)
  | fin (neg : Bool) (m : Nat) (e : Int) (sticky : Bool)
  deriving DecidableEq, Repr

/-- The exact integer `z`; zero is +0. -/
def XVal.ofInt (z : Int) : XVal := .fin (decide (z < 0)) z.natAbs 0 false

/-- True of an exact zero. -/
def XVal.isZero (x : XVal) : Bool :=
  match x with
  | .fin _ 0 _ false => true
  | _ => false

/-- The sign of a value (false for NaN). -/
def XVal.neg (x : XVal) : Bool :=
  match x with
  | .nan => false
  | .inf n => n
  | .fin n _ _ _ => n

/-- The value with its sign turned. -/
def XVal.negate (x : XVal) : XVal :=
  match x with
  | .nan => .nan
  | .inf n => .inf !n
  | .fin n m e k => .fin (!n) m e k

/-- The magnitude. -/
def XVal.abs (x : XVal) : XVal :=
  match x with
  | .nan => .nan
  | .inf _ => .inf false
  | .fin _ m e k => .fin false m e k

/-- The two's complement value of the low `w` bits of `b`. -/
def signedOf (w b : Nat) : Int :=
  let v := b % 2 ^ w
  if v < 2 ^ (w - 1) then (v : Int) else (v : Int) - (2 ^ w : Nat)

/-- The low `w` bits of an integer, two's complement. -/
def wrapInt (w : Nat) (z : Int) : Nat := (z % ((2 ^ w : Nat) : Int)).toNat

/-- The exact value of pattern `b` in format `f` (R43, R44). CB4 is read as the BF16 entry its code selects. -/
def Fmt.decode (f : Fmt) (b : Nat) : XVal :=
  match f with
  | .uint8 => .ofInt ((b % 256 : Nat) : Int)
  | .int8 => .ofInt (signedOf 8 b)
  | .int4 => .ofInt (signedOf 4 b)
  | .int32 => .ofInt (signedOf 32 b)
  | _ =>
    let w := if f = .cb4 then 16 else f.bits
    let v := b % 2 ^ w
    let neg := decide (2 ^ (w - 1) ≤ v)
    let mag := v % 2 ^ (w - 1)
    let fb := f.prec - 1
    let ex := mag / 2 ^ fb
    let fr := mag % 2 ^ fb
    if f = .e4m3 ∧ mag = 0x7F then .nan
    else if f ≠ .e4m3 ∧ f.infMag ≤ mag then (if mag = f.infMag then .inf neg else .nan)
    else if ex = 0 then .fin neg fr (f.emin - fb) false
    else .fin neg (2 ^ fb + fr) ((ex : Int) - f.bias - fb) false

/-- True of a signalling NaN pattern: a NaN whose top fraction bit is 0 (R43). E4M3 NaNs have all fraction bits 1. -/
def Fmt.isSNaN (f : Fmt) (b : Nat) : Bool :=
  if f.isInt then false
  else decide (f.decode b = .nan) && decide (b / 2 ^ (f.prec - 2) % 2 = 0)

/-- Rounding modes (R48). -/
inductive RMode
  | rne | rtz | rdn | rup | rna | sr
  deriving DecidableEq, Repr

/-- The mode of codes 0 to 5; 6 is reserved and 7 is DYN, resolved before (R49). -/
def RMode.ofCode (c : Nat) : Option RMode :=
  match c with
  | 0 => some .rne | 1 => some .rtz | 2 => some .rdn | 3 => some .rup
  | 4 => some .rna | 5 => some .sr | _ => none

/-- Whether the magnitude n + rem/2^sh (plus a positive part below 1/2^sh where `sticky`) rounds up (R51). -/
def roundsUp (rm : RMode) (neg : Bool) (n rem sh : Nat) (sticky : Bool) (draw : Nat) : Bool :=
  match rm with
  | .rne => decide (2 ^ sh < 2 * rem) ||
      (decide (2 * rem = 2 ^ sh) && (sticky || decide (n % 2 = 1)))
  | .rna => decide (2 ^ sh ≤ 2 * rem)
  | .rtz => false
  | .rup => (decide (0 < rem) || sticky) && !neg
  | .rdn => (decide (0 < rem) || sticky) && neg
  | .sr => decide (2 ^ 23 ≤ rem * 2 ^ 23 / 2 ^ sh + draw)

/-- A magnitude m × 2^e cut at the quantum 2^qe: (floor, remainder numerator, remainder's power of two). -/
def cutAt (m : Nat) (e qe : Int) : Nat × Nat × Nat :=
  if qe ≤ e then (m * 2 ^ (e - qe).toNat, 0, 0)
  else
    let sh := (qe - e).toNat
    (m / 2 ^ sh, m % 2 ^ sh, sh)

/-- What rounding a finite value gives before any range limit: the magnitude as a pattern extended beyond
the largest finite one (floating formats) or as an integer, whether inexact, and whether |x| was below the
smallest normal. -/
structure Rounded where
  mag : Nat
  inexact : Bool
  tiny : Bool
  deriving DecidableEq, Repr

/-- Rounding of a finite magnitude with an unbounded exponent range (R51). -/
def roundMag (f : Fmt) (rm : RMode) (neg : Bool) (m : Nat) (e : Int) (sticky : Bool) (draw : Nat) : Rounded :=
  if m = 0 ∧ sticky = false then { mag := 0, inexact := false, tiny := false }
  else
    let lg : Int := (Nat.log2 m : Int) + e
    let ex : Int := if lg < f.emin ∨ m = 0 then f.emin else lg
    let qe : Int := if f.isInt then 0 else ex - ((f.prec : Int) - 1)
    let (n, rem, sh) := cutAt m e qe
    let n' := n + (if roundsUp rm neg n rem sh sticky draw then 1 else 0)
    let base := if f.isInt then 0 else (ex + (f.bias : Int) - 1).toNat * 2 ^ (f.prec - 1)
    { mag := base + n', inexact := decide (0 < rem) || sticky,
      tiny := !f.isInt && (decide (lg < f.emin) || decide (m = 0)) }

/-- The sign bit of a floating format where `neg`. -/
def Fmt.signBit (f : Fmt) (neg : Bool) : Nat := if neg then 2 ^ ((if f = .cb4 then 16 else f.bits) - 1) else 0

/-- A pattern with the flags its making raised. -/
structure FRes where
  bits : Nat
  flags : FlagSet
  deriving DecidableEq, Repr

/-- Fault(fmt) of R51. -/
def Fmt.faultPattern (f : Fmt) (neg : Bool) : Nat :=
  if f.isInt then f.indefinite
  else if f = .e4m3 then f.qnan
  else f.signBit neg + f.infMag

/-- Round(x, fmt, rm) (R51). `draw` is SRBits under SR and unused otherwise. NV of a signalling operand is
the instruction's (R46). -/
def roundX (x : XVal) (f : Fmt) (rm : RMode) (draw : Nat) : FRes :=
  match x with
  | .nan => if f.isInt then ⟨f.indefinite, flagNV⟩ else ⟨f.qnan, 0⟩
  | .inf n =>
    if f.isInt ∨ f = .e4m3 then ⟨f.faultPattern n, flagNV⟩ else ⟨f.signBit n + f.infMag, 0⟩
  | .fin n m e k =>
    let r := roundMag f rm n m e k draw
    if f.isInt then
      let y : Int := if n then -(r.mag : Int) else (r.mag : Int)
      if y < f.least ∨ f.largest < y then ⟨f.indefinite, flagNV⟩
      else ⟨wrapInt f.bits y, flagIf r.inexact flagNX⟩
    else
      let fl := flagIf r.inexact flagNX ||| flagIf (r.inexact && r.tiny) flagUF
      if f.maxMag < r.mag then
        let fl' := fl ||| flagOF ||| flagNX
        let away := rm = .rne ∨ rm = .rna ∨ rm = .sr ∨ (rm = .rup ∧ n = false) ∨ (rm = .rdn ∧ n = true)
        if away then ⟨f.faultPattern n, fl'⟩ else ⟨f.signBit n + f.maxMag, fl'⟩
      else ⟨f.signBit n + r.mag, fl⟩

/-- Round(Sat(x, fmt, s), fmt, rm) (R54, Table 2-4). -/
def roundSat (x : XVal) (f : Fmt) (s : Bool) (rm : RMode) (draw : Nat) : FRes :=
  if s = false ∨ f = .fp32 ∨ f = .fp64 then roundX x f rm draw
  else
    match x with
    | .nan => if f.isInt then ⟨0, flagNV⟩ else ⟨f.qnan, 0⟩
    | .inf n =>
      if f.isInt then ⟨wrapInt f.bits (if n then f.least else f.largest), flagNV⟩
      else ⟨f.signBit n + f.maxMag, 0⟩
    | .fin n m e k =>
      let r := roundMag f rm n m e k draw
      if f.isInt then
        let y : Int := if n then -(r.mag : Int) else (r.mag : Int)
        if f.largest < y then ⟨wrapInt f.bits f.largest, flagNV⟩
        else if y < f.least then ⟨wrapInt f.bits f.least, flagNV⟩
        else roundX x f rm draw
      else if f.maxMag < r.mag then ⟨f.signBit n + f.maxMag, flagOF ||| flagNX⟩
      else roundX x f rm draw

/-- An exact result with whether forming it was invalid (NV). -/
structure XRes where
  val : XVal
  nv : Bool
  deriving DecidableEq, Repr

/-- The exact signed numerator of a finite value over 2^e. -/
def signedAt (neg : Bool) (m : Nat) (e e0 : Int) : Int :=
  let v : Int := ((m * 2 ^ (e - e0).toNat : Nat) : Int)
  if neg then -v else v

/-- The exact sum; `down` says the rounding mode is RDN, which makes an exact zero of opposite signs −0 (R52). -/
def xadd (a b : XVal) (down : Bool) : XRes :=
  match a, b with
  | .nan, _ => ⟨.nan, false⟩
  | _, .nan => ⟨.nan, false⟩
  | .inf n, .inf k => if n = k then ⟨.inf n, false⟩ else ⟨.nan, true⟩
  | .inf n, _ => ⟨.inf n, false⟩
  | _, .inf n => ⟨.inf n, false⟩
  | .fin na ma ea ka, .fin nb mb eb kb =>
    if ma = 0 ∧ ka = false ∧ mb = 0 ∧ kb = false then
      ⟨.fin (if na = nb then na else down) 0 0 false, false⟩
    else
      let e0 := if ea < eb then ea else eb
      let z := signedAt na ma ea e0 + signedAt nb mb eb e0
      if z = 0 then ⟨.fin down 0 0 false, false⟩
      else ⟨.fin (decide (z < 0)) z.natAbs e0 false, false⟩

/-- The exact product; ∞ × 0 is invalid. -/
def xmul (a b : XVal) : XRes :=
  match a, b with
  | .nan, _ => ⟨.nan, false⟩
  | _, .nan => ⟨.nan, false⟩
  | .inf n, .inf k => ⟨.inf (n != k), false⟩
  | .inf n, .fin k m _ _ => if m = 0 then ⟨.nan, true⟩ else ⟨.inf (n != k), false⟩
  | .fin n m _ _, .inf k => if m = 0 then ⟨.nan, true⟩ else ⟨.inf (n != k), false⟩
  | .fin na ma ea _, .fin nb mb eb _ => ⟨.fin (na != nb) (ma * mb) (ea + eb) false, false⟩

/-- The quotient to 2^−200 relative or better, with its sticky part; x/0 raises DZ by the caller, 0/0 and ∞/∞ are invalid. -/
def xdiv (a b : XVal) : XRes :=
  match a, b with
  | .nan, _ => ⟨.nan, false⟩
  | _, .nan => ⟨.nan, false⟩
  | .inf _, .inf _ => ⟨.nan, true⟩
  | .inf n, .fin k _ _ _ => ⟨.inf (n != k), false⟩
  | .fin n _ _ _, .inf k => ⟨.fin (n != k) 0 0 false, false⟩
  | .fin na ma ea _, .fin nb mb eb _ =>
    if mb = 0 then (if ma = 0 then ⟨.nan, true⟩ else ⟨.inf (na != nb), false⟩)
    else
      let q := ma * 2 ^ 256 / mb
      ⟨.fin (na != nb) q (ea - eb - 256) (decide (ma * 2 ^ 256 % mb ≠ 0)), false⟩

/-- The square root to 2^−200 relative or better, with its sticky part; the root of −0 is −0 and of any
other negative value invalid. -/
def xsqrt (a : XVal) : XRes :=
  match a with
  | .nan => ⟨.nan, false⟩
  | .inf n => if n then ⟨.nan, true⟩ else ⟨.inf false, false⟩
  | .fin n m e _ =>
    if m = 0 then ⟨.fin n 0 0 false, false⟩
    else if n then ⟨.nan, true⟩
    else
      let odd : Nat := (e % 2).toNat
      let big := m * 2 ^ odd * 2 ^ 512
      let r := Nat.sqrt big
      ⟨.fin false r ((e - (odd : Int)) / 2 - 256) (decide (r * r ≠ big)), false⟩

/-- Order of two non-NaN values: a < b. Zeros of either sign are equal. -/
def xlt (a b : XVal) : Bool :=
  match a, b with
  | .nan, _ => false
  | _, .nan => false
  | .inf n, .inf k => n && !k
  | .inf n, _ => n
  | _, .inf k => !k
  | .fin na ma ea _, .fin nb mb eb _ =>
    let e0 := if ea < eb then ea else eb
    decide (signedAt na ma ea e0 < signedAt nb mb eb e0)

/-- Equality of two non-NaN values. -/
def xeq (a b : XVal) : Bool :=
  match a, b with
  | .nan, _ => false
  | _, .nan => false
  | a, b => !(xlt a b) && !(xlt b a)

/-- One round of Philox4x32 (R55): counter words and key words. -/
def philoxRound (k0 k1 : BitVec 32) (x : BitVec 32 × BitVec 32 × BitVec 32 × BitVec 32) :
    BitVec 32 × BitVec 32 × BitVec 32 × BitVec 32 :=
  let p0 : BitVec 64 := (0xD2511F53#64) * x.1.setWidth 64
  let p1 : BitVec 64 := (0xCD9E8D57#64) * x.2.2.1.setWidth 64
  ((p1.extractLsb' 32 32) ^^^ x.2.1 ^^^ k0, p1.setWidth 32,
   (p0.extractLsb' 32 32) ^^^ x.2.2.2 ^^^ k1, p0.setWidth 32)

/-- `n` rounds of Philox, the key words stepped before every round but the first. -/
def philoxRounds (n : Nat) (k0 k1 : BitVec 32) (x : BitVec 32 × BitVec 32 × BitVec 32 × BitVec 32) :
    BitVec 32 × BitVec 32 × BitVec 32 × BitVec 32 :=
  match n with
  | 0 => x
  | n + 1 => philoxRounds n (k0 + 0x9E3779B9#32) (k1 + 0xBB67AE85#32) (philoxRound k0 k1 x)

/-- Philox(k0, k1, x0, x1, x2, x3): ten rounds (R55). -/
def philox (k0 k1 x0 x1 x2 x3 : BitVec 32) : BitVec 32 × BitVec 32 × BitVec 32 × BitVec 32 :=
  philoxRounds 10 k0 k1 (x0, x1, x2, x3)

/-- The 32-bit word y0 that SRBits and VRNG draw (R56). -/
def srWord (seedLo seedHi : BitVec 32) (seat : BitVec 10) (stream : BitVec 6) (ctr : BitVec 48) : BitVec 32 :=
  (philox seedLo seedHi (ctr.setWidth 32) (seat ++ stream ++ ctr.extractLsb' 32 16) 0 0).1

/-- SRBits(seat, stream, ctr): the top 23 bits of y0 (R56). -/
def srBits (seedLo seedHi : BitVec 32) (seat : BitVec 10) (stream : BitVec 6) (ctr : BitVec 48) : Nat :=
  ((srWord seedLo seedHi seat stream ctr).extractLsb' 9 23).toNat

/-- A block scale is valid only if it is a positive normal FP32 value (R62). -/
def scaleValid (b : BitVec 32) : Bool :=
  !b.msb && decide (1 ≤ (b.extractLsb' 23 8).toNat) && decide ((b.extractLsb' 23 8).toNat ≤ 254)

/-- The histogram bin of pattern `b` in a floating format (R67, Table 2-6). -/
def histBin (f : Fmt) (b : Nat) : Nat :=
  match f.decode b with
  | .nan => 63
  | .inf _ => 63
  | .fin _ m e _ =>
    let ex : Int := (Nat.log2 m : Int) + e
    if m = 0 ∨ ex < f.emin then 0
    else if ex + 32 < 1 then 1
    else if 62 < ex + 32 then 62
    else (ex + 32).toNat

/-- The parity of the low `n` bits of `x`. -/
def parityOf (n x : Nat) : Bool :=
  match n with
  | 0 => false
  | n + 1 => (decide (x % 2 = 1)) != parityOf n (x / 2)

/-- Bank(addr, key): the scratchpad bank of a byte offset (R69). It affects timing only. -/
def bankOf (addr : BitVec 19) (key : BitVec 64) : BitVec 4 :=
  let line := addr.extractLsb' 6 13
  let hi := line.extractLsb' 4 9
  let h := fun (j : Nat) => BitVec.ofBool (parityOf 9 (hi &&& key.extractLsb' (9 * j) 9).toNat)
  (line.extractLsb' 0 4) ^^^ (h 3 ++ h 2 ++ h 1 ++ h 0) ^^^ key.extractLsb' 36 4

/-- Lane i of a vector word (R41). -/
def lane (v : BitVec 2048) (i : Nat) : BitVec 32 := v.extractLsb' (32 * i) 32

/-- A vector word from its lanes: lane i is `f i`, for the first `n` lanes. -/
def ofLanes (n : Nat) (f : Nat → BitVec 32) : Nat :=
  match n with
  | 0 => 0
  | n + 1 => ofLanes n f + (f n).toNat * 2 ^ (32 * n)

/-- The 64-lane vector word whose lane i is `f i`. -/
def vecOf (f : Nat → BitVec 32) : BitVec 2048 := BitVec.ofNat 2048 (ofLanes 64 f)

end Sys2Proof.Machine
end

