-- ==== Sys2Proof/Machine/SMap.lean ====
section
/-! DEFINITION. Finite maps as plain data: lists of (key, value) in rising key order, read with a default.
They hold register files, queues of units and tables whose unlisted entries have one known value. Lists in order. -/
namespace Sys2Proof.Machine

/-- A finite map by number, in rising key order. -/
abbrev SMap (α : Type) := List (Nat × α)

/-- The value at key `k`, or `d` where the map lists none. -/
def SMap.get {α : Type} (m : SMap α) (k : Nat) (d : α) : α :=
  match m with
  | [] => d
  | (j, v) :: t => if j = k then v else SMap.get t k d

/-- The map with key `k` set to `v`. -/
def SMap.set {α : Type} (m : SMap α) (k : Nat) (v : α) : SMap α :=
  match m with
  | [] => [(k, v)]
  | (j, x) :: t =>
    if j = k then (k, v) :: t
    else if k < j then (k, v) :: (j, x) :: t
    else (j, x) :: SMap.set t k v

/-- The map without key `k`. -/
def SMap.erase {α : Type} (m : SMap α) (k : Nat) : SMap α :=
  m.filter (fun c => !(c.1 == k))

/-- The keys are strictly rising: equal maps are then equal lists. -/
def SMap.wf {α : Type} (m : SMap α) : Bool :=
  match m with
  | [] => true
  | [_] => true
  | (i, _) :: (j, y) :: t => decide (i < j) && SMap.wf ((j, y) :: t)

/-- `a` put into a list sorted under `le`, before what it does not exceed. -/
def insertBy {α : Type} (le : α → α → Bool) (a : α) (l : List α) : List α :=
  match l with
  | [] => [a]
  | b :: t => if le a b then a :: b :: t else b :: insertBy le a t

/-- The list in the order of `le`; what is equal under it keeps its order. -/
def sortBy {α : Type} (le : α → α → Bool) (l : List α) : List α := l.foldr (insertBy le) []

end Sys2Proof.Machine
end

