-- ==== Sys2Proof/Machine/Timed.lean ====
section
/-! DEFINITION. The state of the timed plane as plain data: pipelines, dies, layovers and timed launches
(01 R18 to R32, R39; 04 R139; 05 R140 to R142; 06 R173; 10; 19). Times are aligned ticks (ATK), 64-bit. -/
namespace Sys2Proof.Machine

/-- An aligned tick, or a tick of one clock. -/
abbrev Tick := BitVec 64

/-- Byte memory: (address, byte) pairs, addresses strictly rising, no entry equal to the unlisted value. -/
abbrev Memory := List Host.Cell

/-- The result of `n` cycles after `t` compared with `u`: `t` is at or before `u` (64-bit ticks, half range). -/
def Tick.le (t u : Tick) : Bool := decide ((u - t).toNat < 2 ^ 63)

/-- One level of a loop stack (01 Table 1-1; 04 R117). `t` is the start cycle T of the iteration in progress,
`stop` the cycle after the loop's whole time; `fixed` says that this iteration's overrun is already detected. -/
structure LoopLevel where
  count : Nat
  left : Nat
  start : Nat
  last : Nat
  span : Nat
  t : Tick
  stop : Tick
  fixed : Bool
  /-- no iteration is left: the stream waits for `stop`, where the level is popped -/
  ended : Bool := false
  deriving DecidableEq, Repr

/-- A sequencer (01 Table 1-1). `next` is the cycle in which a word with W = 0 would issue: the wait
countdown is `next + W - now`. `fresh` says that the last issued word was LSPAN or XLSPAN. -/
structure Seq where
  run : Bool := false
  pc : Nat := 0
  next : Tick := 0
  span : Nat := 0
  fresh : Bool := false
  /-- innermost level first -/
  loops : List LoopLevel := []
  /-- return stack, top first -/
  rets : List Nat := []
  /-- the cycle ts in which the stream stopped under R157 -/
  stop : Option Tick := none
  imem : SMap (BitVec 32) := []
  /-- pairs of words of instruction memory with an uncorrectable error, by address / 2 (23 R460, R463) -/
  bad : List Nat := []
  deriving DecidableEq, Repr

/-- A stream descriptor (05 Table 5-1), fields decoded. -/
structure Desc where
  base : Nat := 0
  kind : Nat := 0
  fmt : Nat := 0
  qfmt : Nat := 0
  cbr : Nat := 0
  scl : Bool := false
  blk : Nat := 0
  kv : Nat := 0
  stride : List Int := []
  count : List Nat := []
  sbase : Nat := 0
  srow : Int := 0
  look : Int := 0
  deriving DecidableEq, Repr

/-- A stream TLB entry: virtual page base, physical frame, 1 MiB page or not, faulted (05 R157). -/
structure STlb where
  valid : Bool := false
  faulted : Bool := false
  page : Nat := 0
  frame : Nat := 0
  big : Bool := false
  deriving DecidableEq, Repr

/-- A stream register (01 R20). `addr` is the tensor offset its descriptor was read from (19 Table 19-1). -/
structure StreamReg where
  desc : Option Desc := none
  addr : Nat := 0
  p : Nat := 0
  cur : STlb := {}
  nxt : STlb := {}
  deriving DecidableEq, Repr

/-- A queue entry with the cycle from which it can be popped (05 R152; 07 R212), the issue cycle of the word that made it
(19 R409), and whether it has a parity error (23 R460). -/
structure QEntry (α : Type) where
  ready : Tick
  val : α
  issue : Tick := 0
  bad : Bool := false
  deriving DecidableEq, Repr

/-- What a result in flight will write when it completes. -/
inductive Result
  | sreg (d : Nat) (v : Word)
  | preg (d : Nat) (v : Bool)
  | areg (d : Nat) (v : Word)
  | breg (d : Nat) (v : Word)
  /-- the bits of `v` under `mask` -/
  | vreg (d : Nat) (v mask : VWord)
  | mreg (d : Nat) (v mask : Word)
  | cb (n : Nat) (v : BitVec 256)
  | coef (t : Nat) (words : List (BitVec 128))
  | scfg (st addr : Nat) (words : List Word) (pc : Nat)
  /-- a TLBP in flight: stream register, virtual address, and the table entries already read (05 R158) -/
  | nxt (st : Nat) (va : Int) (read : List Word)
  /-- an NXT entry from a latch of a frame (19 R409, R411) -/
  | tlb (st : Nat) (e : STlb)
  | latch (rows : List (BitVec 512))
  | acc (rows : List (Nat × BitVec 1536))
  /-- flags alone -/
  | flags
  deriving DecidableEq, Repr

/-- A result in flight: completion cycle, issuing stream (0 C, 1 L, 2 X, 3 S), the flags it raises, and the issue cycle of its
word (19 R409). -/
structure Flight where
  due : Tick
  stream : Nat
  res : Result
  flags : FlagSet := 0
  issue : Tick := 0
  deriving DecidableEq, Repr

/-- A tensor SRAM write of an instruction: charge cycle, class (4 RMW final, 5 STQ or HSNAP, 6 STS, as the list of
R150), address, bytes, and the PC of its word. -/
structure TWrite where
  at_ : Tick
  cls : Nat
  addr : Nat
  bytes : List Byte
  pc : Nat
  deriving DecidableEq, Repr

/-- An HLD or HST in flight (05 R162). `data` holds its aligned 8-byte pieces by number, 0 to 31: an HLD's arrive as the
controller reads them. -/
structure HbmOp where
  isLoad : Bool
  issue : Tick
  pa : Nat
  off : Nat
  data : SMap Word
  /-- cycles by which the unit reaches the return buffer late; 0 in time (09 R279) -/
  late : Nat := 0
  /-- refused by its pseudo-channel slot (R161): moves no byte -/
  refused : Bool := false
  /-- what it read held an uncorrectable error (23 R463) -/
  bad : Bool := false
  pc : Nat
  deriving DecidableEq, Repr

/-- A detection of a timed fault (09 R284, R288). -/
structure Det where
  cause : Nat
  stream : Nat
  pc : Nat
  detail : Nat
  info : BitVec 32
  /-- the stack whose unit was damaged, for an uncorrectable error of HBM (23 R463) -/
  stack : Option Nat := none
  deriving DecidableEq, Repr

/-- The fields of a descriptor that MGO copies (06 R176). -/
structure NestDesc where
  fmt : Nat := 0
  cbr : Nat := 0
  scl : Bool := false
  blk : Nat := 0
  sbase : Nat := 0
  srow : Int := 0
  deriving DecidableEq, Repr

/-- The matrix nest (01 R25; 06 R173 to R182). Tables are keyed by level × 16 + field code. `n` is the next
K-step, `at_` its cycle, `fin` the cycle F, `seen` the rows this nest has written, with their latest values, and
`load` the bytes that the K-step in progress charges in each of its cycles. -/
structure Nest where
  shadow : SMap (BitVec 32) := []
  active : SMap (BitVec 32) := []
  go : Bool := false
  a : NestDesc := {}
  b : NestDesc := {}
  rm : Nat := 0
  n : Nat := 0
  at_ : Tick := 0
  fin : Tick := 0
  seen : SMap (BitVec 1536) := []
  load : Nat := 0
  deriving DecidableEq, Repr

/-- A word held in a siding (01 Table 1-4; 19 R409): landing cycle − fe, kind (7 relay, 8 east, 9 west drawbar),
address, sender or 512 + link for a package link word, data. -/
structure SidingEntry where
  r : Nat
  kind : Nat
  addr : Nat
  src : Nat
  data : VWord
  /-- with a parity error (23 R460) -/
  bad : Bool := false
  deriving DecidableEq, Repr

/-- A road book (19 R428, R429): entries newest first, and the entries still to record once triggered. -/
structure Book where
  entries : List (Word × Word) := []
  left : Option Nat := none
  deriving DecidableEq, Repr

/-- The register files of a pipeline (01 Table 1-1). s0 and p0 are never stored (R19). `parity` lists registers with a parity
error by number: 0 s, 32 p, 64 a, 96 b, 128 v, 160 m, 192 cb, 256 st (23 R460). -/
structure Regs where
  sr : SMap Word := []
  pr : SMap Bool := []
  ar : SMap Word := []
  br : SMap Word := []
  vr : SMap VWord := []
  mr : SMap Word := []
  cb : SMap (BitVec 256) := []
  st : SMap StreamReg := []
  parity : List Nat := []
  deriving DecidableEq, Repr

/-- Token counts, architectural queues and drawbar buffers, oldest entry first (01 R21 to R24, R28). `badDb` lists the words
of the drawbar buffers with a parity error, by buffer (true east) and place (23 R460). -/
structure Queues where
  tok : SMap Nat := []
  dq : SMap (List (QEntry VWord)) := []
  ql : List (QEntry Word) := []
  qx : List (QEntry Word) := []
  qs : List (QEntry Word) := []
  bq : List (QEntry Bool) := []
  east : List VWord := []
  west : List VWord := []
  /-- drawbar words on their way to this pipeline: arrival cycle, into the east buffer or not, word -/
  dbIn : List (Tick × Bool × VWord) := []
  badDb : List (Bool × Nat) := []
  /-- those on their way with a parity error, by arrival cycle and buffer (23 R460) -/
  badIn : List (Tick × Bool) := []
  deriving DecidableEq, Repr

/-- The matrix unit and the accumulator store (01 R25, R26). A row is 48 cells of 32 bits, column 0 lowest; `badRows`
lists the granules of 64 bits with an uncorrectable error, by row × 24 + place (23 R460, R463), `badLatch` rows of operand latch A
with a parity error, and `badNest` entries of the nest's tables (the shadow's 0 to 95, the active one's 96 to 191) and, as 192, the
B staging buffer (23 R460). -/
structure Matrix where
  latchA : SMap (BitVec 512) := []
  badLatch : List Nat := []
  badNest : List Nat := []
  staging : BitVec 8192 := 0
  nest : Nest := {}
  acc : SMap (BitVec 1536) := []
  badRows : List Nat := []
  deriving DecidableEq, Repr

/-- The memories of a pipeline (01 R27, R29). `bad` lists 8-byte granules with an uncorrectable error (23 R463);
a coefficient segment is keyed by table × 256 + segment, a histogram bin by set × 64 + bin. -/
structure Store where
  sram : Memory := []
  bad : List Nat := []
  coef : SMap (BitVec 128) := []
  /-- granules of 64 bits of the coefficient memory with an uncorrectable error, by table × 512 + place -/
  badCoef : List Nat := []
  hist : SMap (BitVec 32) := []
  deriving DecidableEq, Repr

/-- The timed control registers (04 Tables 4-6 to 4-14) and the element counter E (01 Table 1-4). -/
structure Csrs where
  tpctl : BitVec 5 := 0
  seedLo : BitVec 32 := 0
  seedHi : BitVec 32 := 0
  seat : BitVec 10 := 0
  cbase : BitVec 48 := 0
  elem : BitVec 48 := 0
  histCtl : BitVec 8 := 0
  fflags : BitVec 7 := 0
  faultInfo : BitVec 64 := 0
  mcgroup : SMap (BitVec 48) := []
  deriving DecidableEq, Repr

/-- A GATH in flight (05 R154): issue cycle, address A, STRIDE1, the 64 indices, rows read so far. -/
structure GathOp where
  issue : Tick
  base : Int
  stride : Int
  idx : List Int
  rows : List (BitVec 512)
  pc : Nat
  deriving DecidableEq, Repr

/-- A detection to be made in a later cycle. -/
structure LateDet where
  at_ : Tick
  det : Det
  deriving DecidableEq, Repr

/-- What a pipeline has in flight. -/
structure InFlight where
  res : List Flight := []
  writes : List TWrite := []
  /-- writes of the latest cycle, which enter the memory as the next one begins (05 R150) -/
  done : List TWrite := []
  hbm : List HbmOp := []
  gath : List GathOp := []
  /-- banks held by RMWs: bank and last cycle of the hold (05 R170) -/
  rmwHold : List (Nat × Tick) := []
  late : List LateDet := []
  deriving DecidableEq, Repr

/-- What a pipeline collects during the cycle in progress. -/
structure Cycle where
  /-- token changes, made at the end of the cycle (01 R24) -/
  tokDelta : List (Nat × Int) := []
  /-- words popped from the east and west buffers -/
  popE : Nat := 0
  popW : Nat := 0
  /-- a word left east or west -/
  sentE : Bool := false
  sentW : Bool := false
  /-- a CSRW, made at the end of the cycle -/
  csrw : Option (Nat × Word) := none
  /-- flags raised (02 R53) -/
  raised : FlagSet := 0
  /-- most draws one unit made (02 R59) -/
  draws : Nat := 0
  /-- landings: rank in the list of 05 R150 (1 relay, 2 link, 3 HLD), sender or link, offset, bytes -/
  landed : List (Nat × Nat × Nat × List Byte) := []
  /-- bytes charged to the read and write ports, and the PC of the L and S word that charges them -/
  rd : Nat := 0
  wr : Nat := 0
  rdPc : Nat := 0
  wrPc : Nat := 0
  /-- a STAGE issued -/
  stage : Bool := false
  dets : List Det := []
  deriving DecidableEq, Repr

/-- What a result latch holds (19 R405, R409): a result, a write, a transfer, or an entry of the queue `n`. -/
inductive Latched
  | flight (f : Flight)
  | write (w : TWrite)
  | hbm (o : HbmOp)
  | entry (n : Nat) (e : QEntry VWord)
  deriving DecidableEq, Repr

/-- A result latch (01 Table 1-4; 19 R409): what it holds, R, the issue cycle of its word, and its header words and data in
the frame. -/
structure Latch where
  r : Nat
  issue : Tick := 0
  head : Word
  addr : Word
  data : List Byte
  held : Latched
  deriving DecidableEq, Repr

/-- What a freeze fills (01 Table 1-4): result latches and siding, with results that the frame has no entry for (flags,
and rows of operand latch A), and whether a word was lost (19 R406). -/
structure Frozen where
  lat : List Latch := []
  rest : List (Nat × Flight) := []
  siding : List SidingEntry := []
  lost : Bool := false
  deriving DecidableEq, Repr

/-- A tensor pipeline (01 R18 to R29). -/
structure Pipe where
  c : Seq := {}
  l : Seq := {}
  x : Seq := {}
  s : Seq := {}
  regs : Regs := {}
  q : Queues := {}
  mx : Matrix := {}
  mem : Store := {}
  csr : Csrs := {}
  fly : InFlight := {}
  cyc : Cycle := {}
  frz : Frozen := {}
  /-- the detection of its own, since the launch or the last restart, that FAULT_INFO reflects, and its cycle -/
  detected : Option (Tick × Det) := none
  /-- occurrences of the stage table that this pipeline has issued (09 R274) -/
  stages : Nat := 0
  halted : Bool := false
  finished : Bool := false
  book : Book := {}
  deriving DecidableEq, Repr

/-- A post board slot (01 Table 1-5). -/
structure PostSlot where
  value : Word := 0
  lid : Nat := 0
  v : Bool := false
  pend : Bool := false
  late : Bool := false
  deriving DecidableEq, Repr

/-- A layover descriptor (10 Table 10-1). -/
structure LayDesc where
  settle : Nat
  npub : Nat
  brake : Bool
  id : Nat
  limit : Nat
  nsen : Bool
  noen : Bool
  nsettle : Nat
  nopen : Nat
  ncoach : Nat
  dies : BitVec 16
  pipes : BitVec 32
  banks : BitVec 64
  slots : BitVec 64
  defaults : List Word
  pubs : List (Nat × Nat × Nat)
  rsvOk : Bool
  deriving DecidableEq, Repr

/-- A layover's latest opening on a die (10 R293 to R302). -/
structure LayRec where
  opened : Tick
  /-- close cycle, once closed; the die's axis then (`Die.axis`), and the PC of the WCLOSE -/
  closed : Option Tick := none
  closeAt : Tick := 0
  closePc : Nat := 0
  /-- a BRAKE layover that closed with a post missing which this die has not yet taken -/
  braking : Bool := false
  settled : Bool := false
  /-- its posts have been judged at the end of the close cycle -/
  judged : Bool := false
  /-- the die's axis when its last missing post was taken (10 R300) -/
  releaseAt : Option Tick := none
  /-- that post was taken in a hold that a detection keeps, or in a freeze: it releases nothing before the restart (09 R289;
  10 R302, R305) -/
  waits : Bool := false
  /-- openings of the layover on the die before this one: open and close cycle, as far as a catch-up may look back (19 R411) -/
  past : List (Tick × Tick) := []
  /-- where a freeze has moved `releaseAt`: the place on the axis up to which other brakes were joined to this one (10 R300) -/
  overAt : Option Tick := none
  deriving DecidableEq, Repr

/-- An alignment in progress (04 R124, R125): limit, cycles held, recording pipeline and PC of its ALIGN. -/
structure AlignRec where
  limit : Nat
  held : Nat
  pipe : Nat
  pc : Nat
  deriving DecidableEq, Repr

/-- A word on its way between pipelines (05 R168, R169): sender, target, offset, data, landing ATK. `judged` once
its skew has been found in the window; `slipped` once outside it (09 R281). -/
structure RelayWord where
  src : Nat
  dst : Nat
  off : Nat
  data : VWord
  ta : Tick
  judged : Bool := false
  slipped : Bool := false
  /-- with an uncorrectable error (23 R460, R463) -/
  bad : Bool := false
  deriving DecidableEq, Repr

/-- One step of a die's cycle in progress (the model's own order of work, log 1). -/
inductive Work
  /-- stream `k` of pipeline `g` issues its word -/
  | issue (g : Nat) (k : StreamKind)
  /-- the end of the cycle in pipeline `g` -/
  | endPipe (g : Nat)
  /-- the end of the cycle on the die -/
  | endDie
  deriving DecidableEq, Repr

/-- A word entering a boundary direction (09 R276): boundary number × 2 + direction, entering cycle, sender, its PC. -/
structure ChanUse where
  dir : Nat
  enter : Tick
  g : Nat
  pc : Nat
  deriving DecidableEq, Repr

/-- A child launch record in a die's pool or spill queue (11 R313): launch number. -/
abbrev PoolEntry := Nat

/-- A charge of the turnpike's gig bucket (25 R484): bytes, CXL bucket or not, expiry cycle. -/
structure Grant where
  bytes : Nat
  cxl : Bool
  expiry : Word
  deriving DecidableEq, Repr

/-- A turnpike delay (25 R482): the ATK of the STAGE's cycle, stage length, need, and cycles to hold (none:
unbounded). -/
structure DelayRec where
  at_ : Tick
  ls : Nat
  need : Nat
  total : Option Nat
  deriving DecidableEq, Repr

/-- A compute die (01 R30 to R32; 09; 10; 25). -/
structure Die where
  tick : Word := 0
  absorbed : Word := 0
  obs : SMap Word := []
  post : SMap PostSlot := []
  /-- slots whose value has an uncorrectable error (23 R460, R463) -/
  badPost : List Nat := []
  holders : SMap (Word × Nat) := []
  lays : SMap LayRec := []
  align : Option AlignRec := none
  aligns : List AlignRec := []
  /-- held cycles of a turnpike delay in progress (25 R482) -/
  delay : Option Nat := none
  /-- cycles held by brakes and turnpike delays, which every die of a partition holds alike (10 R301; 25 R482) -/
  stalled : Word := 0
  /-- held cycles of the latest brake hold, and the ATK that it holds back (10 R300, R302) -/
  held : Nat := 0
  heldAt : Tick := 0
  /-- that hold has ended, and its cycle is the next to run -/
  holdDone : Bool := false
  /-- the ATKs of the latest cycles, newest first, as sent on the sideband (09 R280) -/
  sent : List Tick := []
  /-- TICK in which the die reached fe (19 Table 19-2) -/
  feTick : Word := 0
  /-- ATK stands at fe, whose cycle has not run (09 R268) -/
  atFe : Bool := false
  counters : SMap Word := []
  pool : List PoolEntry := []
  spill : List PoolEntry := []
  ta : Nat := 60
  lb : Nat := 268435456
  grants : List Grant := []
  /-- allowance changes to come: ATK or held cycle, TA, LB -/
  changes : List (Tick × Bool × Nat × Nat) := []
  chan : List ChanUse := []
  /-- the last cycle whose four-cycle window this die has judged (09 R276) -/
  chanDone : Tick := 0
  /-- posts handled in the cycle: slot and thread (10 R298) -/
  posted : List (Nat × Nat) := []
  /-- layovers that open in the cycle in progress -/
  opening : List Nat := []
  /-- TICKs until the cycle carrying fe runs after TRESUME (19 R411) -/
  restart : Option Nat := none
  /-- gig cycles since die reset: CYCLE (08 Table 8-15) -/
  gigCycle : Word := 0
  work : List Work := []
  deriving DecidableEq, Repr

/-- A stage table entry (09 Table 9-2). -/
structure StageEntry where
  hmax : Nat
  pclass : Nat
  n : Nat
  start : Nat
  rlen : Nat
  rstart : Nat
  period : Nat
  repeats : Nat
  rsvOk : Bool
  deriving DecidableEq, Repr

/-- Where a timed launch stands (16 Table 16-7: 1 waiting, 2 running, 3 frozen, 4 complete). -/
inductive TimedPhase
  | none | loading | running | frozen | restarting | complete
  deriving DecidableEq, Repr

/-- A request to freeze from outside the timed plane (08 R259; 22 R453): thread or link word, at a stage or not,
and whether it has reached the partition. -/
structure ExtReq where
  who : Nat
  stg : Bool
  arrived : Bool
  deriving DecidableEq, Repr

/-- The timed launch of a partition. -/
structure TimedRun where
  phase : TimedPhase := .none
  lid : Nat := 0
  atk0 : Tick := 0
  /-- words of the launch header (16 Table 16-6) -/
  header : List Word := []
  stages : List StageEntry := []
  lays : SMap LayDesc := []
  links : List (List Word) := []
  /-- the .cmem images of the resident bank: 256 segments of four FP32 each (05 R156) -/
  cmem : SMap (List (BitVec 128)) := []
  /-- first detection of the partition: ATK td, pipeline, detection -/
  td : Option Tick := none
  first : Option (Nat × Det) := none
  fe : Option Tick := none
  /-- a detection in a held cycle: held cycles after which its freeze takes effect (09 R289) -/
  feHeld : Option Nat := none
  /-- the notice of R413 is still to be sent -/
  notice : Bool := false
  /-- dies that stand at fe -/
  frozenDies : List Nat := []
  /-- dies that have started -/
  started : List Nat := []
  ext : List ExtReq := []
  /-- the latest turnpike delay of the partition (25 R482) -/
  delay : Option DelayRec := none
  /-- the domain has restarted: its members keep to one ATK axis (22 R455) -/
  paced : Bool := false
  /-- by package link, the ATK below which the neighbour's link words have already been sent (22 R454) -/
  linkUpto : SMap Tick := []
  /-- τ of the latest pipeline to finish (16 Table 16-4) -/
  span : Nat := 0
  /-- lowest launch id of an overlapping seed record (16 R371) -/
  overlap : Option Nat := none
  flags : FlagSet := 0
  /-- queue packet that waits for this launch's record, as a job number -/
  job : Option Nat := none
  deriving DecidableEq, Repr

end Sys2Proof.Machine
end

