-- ==== Sys2Proof/Machine/Dynamic.lean ====
section
/-! DEFINITION. The state of the dynamic plane, the host portal, the liveries, firmware and power as plain data
(01 R33, R34; 08; 11; 16 to 19; 22 to 25). -/
namespace Sys2Proof.Machine

/-! ### Gig threads (01 R33; 08) -/

/-- Where a gig thread stands: not part of the context, running its items, stalled by a trap in its handler
(19 R424), or gone from the launch (11 R310). -/
inductive ThreadPhase
  | absent | running | stalled | left
  deriving DecidableEq, Repr

/-- What a clock-gated or held thread waits for. `d` is the destination register. -/
inductive Wait
  | none
  /-- a barrier phase through the window: barrier, token (08 Table 8-4) -/
  | barrier (n token d : Nat)
  /-- WAITP: barrier, token, the CYCLE at which the limit expires, as a number (08 R247) -/
  | phase (n token d : Nat) (limit : Option Nat)
  | mutex (n d : Nat)
  /-- an acquire of mutex `n` that this gig cycle ends with (11 R320) -/
  | asking (n d : Nat)
  /-- an arrival through the window that this gig cycle ends with (11 R317) -/
  | arriving (n d : Nat)
  | line (n d : Nat)
  /-- RECV: scratchpad offset (08 R250) -/
  | recv (off d : Nat)
  /-- a SEND held for room (08 R249) -/
  | send (dst : Nat) (body : List Byte)
  /-- a load of DONE: shoot-downs that it waits for (17 R387) -/
  | done (d upTo : Nat)
  deriving DecidableEq, Repr

/-- The trap registers of a thread (08 Tables 8-14 to 8-16). `tvec` is TVEC.ADDR. -/
structure TrapRegs where
  tcause : BitVec 8 := 0
  tvalue : Word := 0
  tpc : Word := 0
  tscratch : Word := 0
  tvec : BitVec 47 := 0
  sliceClamped : Bool := false
  sltrap : Bool := false
  xie : Bool := false
  sub : BitVec 4 := 0
  hops : BitVec 2 := 0
  inh : Bool := false
  pprv : Bool := false
  deriving DecidableEq, Repr

/-- What an access does when it performs. -/
inductive AccOp
  | load (size : Nat) (signed : Bool)
  | store (size v : Nat)
  /-- operation code, 64-bit or not, v and c (08 Table 8-5) -/
  | amo (op : Nat) (wide : Bool) (v c : Word)
  | cntadd (n : Nat) (v : Word)
  | cntsnap (first count : Nat)
  | hsift (k : Nat) (e : Word)
  /-- sub-operation of 0x2C, sequence, argument, NF -/
  | livery (op : Nat) (seq arg : Word) (nf : Bool)
  /-- die, layover, slot, value -/
  | post (die lay slot : Nat) (v : Word)
  | tfreeze (stg : Bool)
  | tresume
  deriving DecidableEq, Repr

/-- The memory that an access reaches (12 Table 12-1; 17 R375). -/
inductive Target
  /-- not yet translated -/
  | paged
  | phys (pa : Nat)
  | near (gig off : Nat)
  | tensor (die pipe off : Nat)
  | event (off : Nat)
  | control (off : Nat)
  | counters
  | livery (j : Nat)
  /-- the timed plane's boards and controllers -/
  | plane
  deriving DecidableEq, Repr

/-- What a cached translation that an access used covers (17 R386): base and size. -/
structure PageUse where
  base : Nat
  size : Nat
  deriving DecidableEq, Repr

/-- An access in flight: number, class, address, what it does, destination register, target, the cached translations it
used, and the PC and privilege of its instruction. -/
structure Access where
  id : Nat
  cls : Nat
  va : Nat
  op : AccOp
  dest : Option Nat
  target : Target
  pages : List PageUse
  pc : Nat
  level : Bool
  deriving DecidableEq, Repr

/-- What a thread has outstanding, in program order: accesses, and the fences between them (12 R334). -/
inductive Pending
  | acc (a : Access)
  | fence (scope : Nat) (mask : BitVec 16)
  deriving DecidableEq, Repr

/-- A message of 64 bytes with its sender (08 R249), its number in the order in which messages reached its context (19 R422), and
whether it has a parity error (23 R460). -/
structure Msg where
  src : Nat
  body : List Byte
  num : Nat := 0
  bad : Bool := false
  deriving DecidableEq, Repr

/-- A result of long latency: its register, the CYCLE at which it is written, and the flags that enter FFLAGS then (08 R225;
02 R53). -/
structure Late where
  dest : Nat
  due : Nat
  flags : BitVec 5
  deriving DecidableEq, Repr

/-- A turnpike grant that a thread holds (08 R263). -/
structure Held where
  cxl : Bool
  bytes : Nat
  expiry : Word
  deriving DecidableEq, Repr

/-- A gig thread (01 R33). Register 0 is never stored. `marks` gives for a register the address of the load that met
an uncorrectable error (08 R227); `item` is the current work item (11 R310). -/
structure Thread where
  phase : ThreadPhase := .absent
  wait : Wait := .none
  regs : SMap Word := []
  marks : SMap Word := []
  pc : Nat := 0
  fflags : BitVec 5 := 0
  frm : BitVec 3 := 0
  trap : TrapRegs := {}
  level : Bool := false
  k : Nat := 0
  item : Nat := 0
  pend : List Pending := []
  nextId : Nat := 0
  ext : List Word := []
  inbox : List Msg := []
  grants : List Held := []
  late : List Late := []
  /-- the register that the end of its latest wait wrote, since its context was last switched out: that release takes effect at
  restore (19 R421) -/
  woke : Option Nat := none
  /-- registers with a parity error (23 R460) -/
  odd : List Nat := []
  deriving DecidableEq, Repr

/-- A gig (01 R34). `last` is the gig cycle of its last turn; `stale` are the regions of exited groups that are not yet
written with zeros, as base and length (11 R312). -/
structure Gig where
  sp : Memory := []
  bad : List Nat := []
  ctxkey : Word := 0
  spbank : BitVec 16 := 0
  icway : BitVec 4 := 0
  slice : BitVec 32 := 0
  last : Word := 0
  stale : List (Nat × Nat) := []
  book : Book := {}
  deriving DecidableEq, Repr

/-! ### Contexts and coaches (11; 19 R416 to R426) -/

/-- A barrier of the event unit (11 R316, R319). `sent` says that a child arrival waits for its release; `held` counts
the arrivals held meanwhile. -/
structure Barrier where
  expect : Nat := 0
  phase : BitVec 16 := 0
  count : Nat := 0
  held : Nat := 0
  sent : Bool := false
  linked : Bool := false
  lcoach : Nat := 0
  lbar : Nat := 0
  deriving DecidableEq, Repr

/-- State of a waybill card, as WBSTAT codes it. -/
inductive CardState
  | waiting | running | retired | faulted
  deriving DecidableEq, Repr

/-- A row of a running card in progress: its source address (none: a row of zeros), the source bytes read so far by
offset in the row, the destination words written, and the pages whose cached translations it used. -/
structure CardRow where
  row : Nat
  src : Option Int
  got : SMap Byte := []
  wrote : List Nat := []
  pages : List PageUse := []
  full : Bool := false
  deriving DecidableEq, Repr

/-- A waybill card (11 R322 to R329), numbered in order of submission; `edges` are the cards with an edge to it. A
retired or faulted card has left the engine and keeps its state for WBSTAT. `retry` is the CYCLE before which it does
not ask the turnpike again. -/
structure Card where
  num : Nat
  lid : Nat
  thread : Nat
  level : Bool
  words : List Word
  state : CardState
  granted : Bool
  retry : Word
  rows : List CardRow
  cause : Nat
  edges : List Nat
  deriving DecidableEq, Repr

/-- Who arrives at a barrier (11 R317): a thread by ARRIVE or through the window, with its register, the engine, or a child
barrier of a coach. -/
inductive Arriver
  | thread (n d : Nat)
  | window (n d : Nat)
  | engine
  | child (coach bar : Nat)
  deriving DecidableEq, Repr

/-- An arrival that reached barrier `bar` in the gig cycle that is running. -/
structure Arrival where
  bar : Nat
  who : Arriver
  deriving DecidableEq, Repr

/-- A LEAVE that reached the turnpike in the gig cycle that is running: thread of the context, its register, .CXL or not, and
bytes (25 R484). -/
structure LeaveAsk where
  thread : Nat
  dest : Nat
  cxl : Bool
  bytes : Nat
  deriving DecidableEq, Repr

/-- Whether a context runs, is switched out or has ended (19 Table 19-6). -/
inductive CtxState
  | running | out | ended
  deriving DecidableEq, Repr

/-- A context: one launch's threads on one coach (11 R308). Threads are keyed by rank × 4 + slot. -/
structure Context where
  lid : Nat := 0
  state : CtxState := .running
  threads : SMap Thread := []
  bars : SMap Barrier := []
  /-- arrivals of the running gig cycle, which are applied at its end -/
  arrivals : List Arrival := []
  /-- requests for leave of the running gig cycle, which are judged at its end -/
  asks : List LeaveAsk := []
  /-- messages that have reached it -/
  msgs : Nat := 0
  /-- holder of each held mutex -/
  mutex : SMap Nat := []
  lines : BitVec 32 := 0
  /-- inbox while switched out: receiver and message -/
  inbox : List (Nat × Msg) := []
  exited : BitVec 8 := 0
  slice : Nat := 0
  sliceEnd : Word := 0
  /-- threads that SLICE trapped and the cycle by which the switch is made (19 R419) -/
  sliced : List Nat := []
  sliceLimit : Option Word := none
  /-- a switch-out has begun: issue has stopped (19 R420) -/
  leaving : Bool := false
  deriving DecidableEq, Repr

/-- A coach. `waiting` are the launches whose wake has arrived and whose context has not started. -/
structure Coach where
  ctxs : SMap Context := []
  run : Option Nat := none
  waiting : List Nat := []
  hchain : BitVec 32 := 0
  cards : List Card := []
  nextCard : Nat := 0
  /-- halted by a broken handler chain: TCAUSE (19 R426) -/
  halted : Option Nat := none
  deriving DecidableEq, Repr

/-- Kinds of what travels to an event unit. -/
inductive EvKind
  | evmsg | notice | completion | childArrival | release
  deriving DecidableEq, Repr

/-- An event on its way to a coach (08 R248; 10 R303; 11 R315, R319): the coach, the line or barrier, the launch it
belongs to, and for a child arrival the coach and barrier that sent it. -/
structure EvMsg where
  kind : EvKind
  coach : Nat
  line : Nat
  lid : Nat
  src : Nat
  srcBar : Nat
  deriving DecidableEq, Repr

/-- A child arrival that a parent phase has counted and will release: parent coach and barrier, child coach and
barrier, launch, and the token of the phase. -/
structure ChildWait where
  lid : Nat
  token : Nat
  coach : Nat
  bar : Nat
  src : Nat
  srcBar : Nat
  deriving DecidableEq, Repr

/-- Where a dynamic launch stands. -/
inductive LaunchPhase
  /-- in its die's pool -/
  | pooled
  /-- in its die's spill queue -/
  | spilled
  | started
  | complete
  deriving DecidableEq, Repr

/-- A dynamic launch (11). `wakes` are the coaches its wake has not reached; `age` is its place in the order of
admission. -/
structure Launch where
  part : Nat
  die : Nat
  header : List Word
  /-- EVINIT entries, coach × 16 + barrier -/
  evinit : SMap (BitVec 32)
  progress : Bool
  parent : Option Nat
  phase : LaunchPhase
  wakes : List Nat
  age : Nat
  kids : Nat
  flags : BitVec 5
  began : Option Word
  job : Option Nat
  killed : Option Word
  deriving DecidableEq, Repr

/-- Where a translation may be cached (17 R382, R384; 01 R34): a gig's data or instruction TLB, its coach's second level, a line
of a gig's scratchpad or of a way of its instruction cache lent as victim storage, and the row translations of an engine or of
COPY. -/
inductive TlbPlace
  | data (g : Nat)
  | instr (g : Nat)
  | second (c : Nat)
  | victim (g line : Nat)
  | way (g w line : Nat)
  | engine (c : Nat)
  | copy
  deriving DecidableEq, Repr

/-- A cached entry of a page table (17 R382): the partition, the first address that it covers, its level in the table (1 and 2
directories, 3 a leaf), whether it maps 1 MiB, the entry, and whether it has an uncorrectable error (23 R460). -/
structure Cached where
  place : TlbPlace
  part : Nat
  base : Nat
  level : Nat
  big : Bool
  entry : Word
  bad : Bool := false
  deriving DecidableEq, Repr

/-- A SEND that is held for room: sender and its launch, receiver, and the gig cycle of its first refusal (08 R249). -/
structure HeldSend where
  src : Nat
  lid : Nat
  dst : Nat
  cycle : Word
  deriving DecidableEq, Repr

/-! ### Liveries (18) -/

/-- A sequence entry (18 Table 18-4). -/
structure SeqEntry where
  parent : Nat
  length : Nat
  shared : Nat
  blocks : Nat
  rel : Bool
  depth : Nat
  children : Nat
  deriving DecidableEq, Repr

/-- An inverted entry with V = 1. -/
structure InvEntry where
  seq : Nat
  lb : Nat
  ref : Nat
  deriving DecidableEq, Repr

/-- An overflow entry. -/
structure OvfEntry where
  seq : Nat
  lb : Nat
  block : Nat
  deriving DecidableEq, Repr

/-- A pool of one partition in one livery. `head` lists, in order, the free blocks that have been freed before; the
other free blocks follow in increasing number (18 R393, R398). `bad` lists table entries with an uncorrectable error
(23 R460, R463): 3 × index + 0 for the sequence table, + 1 for the inverted entry and + 2 for the overflow entry of a block. -/
structure Pool where
  base : Nat := 0
  nblk : Nat := 0
  nseq : Nat := 0
  novf : Nat := 0
  seqs : SMap SeqEntry := []
  inv : SMap InvEntry := []
  ovf : List OvfEntry := []
  head : List Nat := []
  bad : List Nat := []
  deriving DecidableEq, Repr

/-! ### Host portal, firmware and power (16; 22 to 25) -/

/-- Status of a completion record (16 Table 16-4). -/
inductive JobStatus
  | done | rejected | aborted | seedFault
  deriving DecidableEq, Repr

/-- Where an accepted packet stands (16 R357, R360). -/
inductive JobPhase
  | waiting | started | completed | recorded
  deriving DecidableEq, Repr

/-- An accepted packet, numbered in the acceptance order (16 R355). `port` 0 is host port A, 1 port B, 2 the BMC. -/
structure Job where
  port : Nat
  words : List Word
  phase : JobPhase := .waiting
  status : JobStatus := .done
  reason : Nat := 0
  detail : Word := 0
  lid : Nat := 0
  flags : Nat := 0
  span : Word := 0
  overlap : Bool := false
  /-- the steps of R372 are done and the swap remains -/
  ready : Bool := false
  /-- bytes that a COPY has moved -/
  moved : Nat := 0
  deriving DecidableEq, Repr

/-- A completion given to a portal write (16 Table 16-1). -/
inductive PortalAnswer
  | accepted | retry | unsupported
  deriving DecidableEq, Repr

/-- A configuration bank: its image, and whether it is the image resident before the last swap (16 R364, R373). -/
structure Bank where
  image : List Byte := []
  intact : Bool := false
  deriving DecidableEq, Repr

/-- A shoot-down (17 R386): the range named and its number. -/
structure Shoot where
  num : Nat
  kind : Nat
  va : Nat
  deriving DecidableEq, Repr

/-- A seed record (16 R371). -/
structure SeedRec where
  seed : Word
  cbase : Nat
  span : Nat
  lid : Nat
  deriving DecidableEq, Repr

/-- What a black-box entry names as its source (23 R468): a die, pipeline, gig, HBM stack or host port. -/
inductive BoxSource
  | die (d : Nat) | pipe (g : Nat) | gig (g : Nat) | stack (j : Nat) | port (p : Nat)
  deriving DecidableEq, Repr

/-- A black-box entry (23 R468): sequence number, TICK, kind, source, payload. -/
structure BoxEntry where
  num : Nat
  tick : Word
  kind : Nat
  source : BoxSource
  payload : Word
  deriving DecidableEq, Repr

/-- The health record (23 Table 23-3). Spare registers are keyed by die; counters by die, or 16 + stack. -/
structure Health where
  stackoff : BitVec 8 := 0
  retired : BitVec 16 := 0
  version : BitVec 8 := 1
  fatal : Bool := false
  replace : Bool := false
  sp0 : SMap (BitVec 6) := []
  sp1 : SMap (BitVec 6) := []
  unc : SMap Nat := []
  cor : SMap Nat := []
  hosterr : Word := 0
  deriving DecidableEq, Repr

/-- OWN (24 Table 24-1). -/
structure Own where
  epoch : BitVec 8 := 0
  succ : BitVec 2 := 0
  owner : BitVec 2 := 0
  deriving DecidableEq, Repr

/-- The firmware complexes and what they keep (23, 24). -/
structure Firmware where
  own : Own := {}
  /-- a complex is active: neither is where no image verified (24 R469) -/
  active : Bool := true
  /-- the west complex is the active one -/
  west : Bool := true
  /-- slots CUR and NEXT of the image store, and the image that both complexes run -/
  cur : List Byte := []
  image : List Byte := []
  next : List Byte := []
  tableVersion : Nat := 0
  meas : SMap (BitVec 384) := []
  /-- LMS leaf index in the MRAM of the west and of the east I/O die (23 R468; 24 R477) -/
  leafWest : Nat := 0
  leafEast : Nat := 0
  /-- the west die's identity keys signed the alias certificate -/
  certWest : Bool := true
  rings : List BoxEntry := []
  nextBox : Nat := 0
  health : Health := {}
  /-- dies whose bit of RETIRED marks them for the next package reset -/
  marked : BitVec 16 := 0
  /-- a takeover is in progress (24 R470) -/
  handover : Bool := false
  seeds : List SeedRec := []
  dx : BitVec 2 := 0
  dy : BitVec 2 := 0
  dz : BitVec 2 := 0
  pkg : BitVec 6 := 0
  lup : BitVec 6 := 0
  tch : BitVec 6 := 40
  /-- TCH as the next package reset sets it (22 R443; 25 R485) -/
  bootTch : BitVec 6 := 40
  capWatts : Nat := 2800
  /-- ports that failed training and are retired: Ethernet, host A and B, CXL (25 R485) -/
  ethOff : BitVec 8 := 0
  hostOff : BitVec 2 := 0
  cxlOff : BitVec 16 := 0
  powered : Bool := true
  deriving DecidableEq, Repr

/-- The host portal (16 R354, R358). -/
structure Portal where
  jobs : SMap Job := []
  nextJob : Nat := 1
  /-- the packets below this number were accepted before the latest takeover (24 R470) -/
  tookOver : Nat := 0
  /-- completions given to portal writes and BMC packets: port and answer, newest last -/
  answers : List (Nat × PortalAnswer) := []
  /-- posted writes discarded, per port -/
  discarded : SMap Nat := []
  /-- MSI-X vectors raised: port and vector, newest last -/
  msix : List (Nat × Nat) := []
  /-- what the BMC has been sent: completion records and SPDM reports, newest last (24 R473, R478) -/
  toBmc : List (List Byte) := []
  /-- what reads of the portal and of the status page have returned: master and words, newest last (16 R354; 24 R473) -/
  reads : List (Nat × List Word) := []
  /-- the partition that system software has bound each Ethernet port to (22 R456) -/
  binds : SMap Nat := []
  /-- what the ports have read for the network: port and bytes, none where the read failed, newest last (22 R456) -/
  sent : List (Nat × Option (List Byte)) := []
  deriving DecidableEq, Repr

/-- What a notice between the packages of a domain says. -/
inductive NoticeKind
  | freeze | restart | abort
  deriving DecidableEq, Repr

/-- A notice that this package has sent over a package link (22 R453, R455): link, partition, what it says, first detecting
package, and the ATK at which it was sent. -/
structure LinkNotice where
  link : Nat
  part : Nat
  kind : NoticeKind
  pkg : Nat
  atk : Tick
  deriving DecidableEq, Repr

/-- A word of the link plan on its way to this package (22 R450, R452, R454): link, destination, data, landing ATK, and
skew at its physical arrival; `slipped` once that has been detected, `bad` with an uncorrectable error (23 R460). -/
structure LinkWord where
  link : Nat
  dst : Nat
  data : VWord
  ta : Tick
  skew : Int := 0
  slipped : Bool := false
  bad : Bool := false
  deriving DecidableEq, Repr

end Sys2Proof.Machine
end

