-- ==== Sys2Proof/Machine/Memory.lean ====
section
/-! DEFINITION. Byte memories (01 R27, R34; 02 R41; 17 R375): an unlisted address reads 0x00 (log 4). -/
namespace Sys2Proof.Machine

/-- What an address that nothing has written reads as. DESIGN CHOICE (log 4). -/
def Memory.blank : Byte := 0

/-- The byte at address `a`. -/
def Memory.read (m : Memory) (a : Nat) : Byte :=
  match m with
  | [] => Memory.blank
  | (k, b) :: t => if k = a then b else Memory.read t a

/-- The memory without an entry at `a`. -/
def Memory.clear (m : Memory) (a : Nat) : Memory := m.filter (fun c => !(c.1 == a))

/-- The memory with a non-blank byte entered at `a`. -/
def Memory.enter (m : Memory) (a : Nat) (b : Byte) : Memory :=
  match m with
  | [] => [(a, b)]
  | (k, x) :: t =>
    if k = a then (a, b) :: t
    else if a < k then (a, b) :: (k, x) :: t
    else (k, x) :: Memory.enter t a b

/-- The memory after byte `b` is written at `a`, in canonical form. -/
def Memory.write (m : Memory) (a : Nat) (b : Byte) : Memory :=
  if b = Memory.blank then m.clear a else m.enter a b

/-- The canonical form: addresses strictly rising and no entry blank. -/
def Memory.wf (m : Memory) : Bool :=
  SMap.wf m && m.all (fun c => !(c.2 == Memory.blank))

/-- The `n` bytes from `a` up. -/
def Memory.readBytes (m : Memory) (a n : Nat) : List Byte := (List.range n).map (fun i => m.read (a + i))

/-- The memory after bytes `bs` are written from `a` up. -/
def Memory.writeBytes (m : Memory) (a : Nat) (bs : List Byte) : Memory :=
  match bs with
  | [] => m
  | b :: t => Memory.writeBytes (m.write a b) (a + 1) t

/-- The little-endian number that bytes spell (R41). -/
def ofBytes (bs : List Byte) : Nat :=
  match bs with
  | [] => 0
  | b :: t => b.toNat + 256 * ofBytes t

/-- The `n` little-endian bytes of a number (R41). -/
def toBytes (n v : Nat) : List Byte :=
  match n with
  | 0 => []
  | n + 1 => BitVec.ofNat 8 v :: toBytes n (v / 256)

/-- The little-endian number in the `n` bytes from `a` up. -/
def Memory.readLE (m : Memory) (a n : Nat) : Nat := ofBytes (m.readBytes a n)

/-- The memory after the `n`-byte little-endian number `v` is written at `a`. -/
def Memory.writeLE (m : Memory) (a n v : Nat) : Memory := m.writeBytes a (toBytes n v)

/-- The 64-bit word at `a`. -/
def Memory.word (m : Memory) (a : Nat) : Word := BitVec.ofNat 64 (m.readLE a 8)

/-- The `n` 64-bit words from `a` up. -/
def Memory.words (m : Memory) (a n : Nat) : List Word := (List.range n).map (fun i => m.word (a + 8 * i))

/-- The number in bits [hi:lo] of `w` (R2). -/
def bitsOf (w : Word) (hi lo : Nat) : Nat := w.toNat / 2 ^ lo % 2 ^ (hi - lo + 1)

/-- Word `n` of a list of words, 0 beyond its end. -/
def wordAt (ws : List Word) (n : Nat) : Word := ws.getD n 0

/-- The value of a bit. -/
def bitOf (w : Word) (n : Nat) : Bool := decide (w.toNat / 2 ^ n % 2 = 1)

end Sys2Proof.Machine
end

