-- ==== Sys2Proof/Machine/State.lean ====
section
/-! DEFINITION. The state of the package, as plain data, the reasons a step can stop, and the state after reset. -/
namespace Sys2Proof.Machine

/-- Who moves next (log 1): a die does the next piece of its cycle, a gig thread takes its turn after giving up `n` of
them, an event row happens, or an error strikes a memory or a register. -/
inductive Turn
  | die (d : Nat)
  | gig (t n : Nat)
  | event (i : Instr)
  /-- an uncorrectable error strikes place `a` of unit `u` (23 R460) -/
  | strike (u a : Nat)
  /-- a host access at bus address `a` behind port `p` begins to fail, or no longer fails (17 R389) -/
  | hostFails (p a : Nat) (on : Bool)
  /-- the frozen launch of partition `k` is taken off its dies (19 R410) -/
  | takeOff (k : Nat)
  /-- the boot configuration gives the timed plane `n` channels from the next package reset on (22 R443) -/
  | bootChannels (n : Nat)
  /-- firmware clears the health record, the failed hardware having been replaced (23 R467) -/
  | hardwareReplaced
  /-- master `m` (1 port A, 2 port B, 3 BMC) reads its portal, or the status page (16 R354; 24 R473) -/
  | hostRead (m : Nat) (page : Bool)
  /-- system software binds Ethernet port `p` to partition `k` (22 R456) -/
  | bindPort (p k : Nat)
  /-- Ethernet port `p` reads `n` bytes at virtual address `a` for the network (22 R456) -/
  | portRead (p a n : Nat)
  /-- Ethernet port `p` writes bytes from the network at virtual address `a` (22 R456) -/
  | portWrite (p a : Nat) (bs : List Byte)
  deriving DecidableEq, Repr, Inhabited

/-- Why the machine stops. -/
inductive Fault
  /-- raised by step where the schedule names as an event of its own an encoded instruction, or a step that the timed
  plane takes within a cycle; the hardware has no such event, so stopping is safe -/
  | notAnEvent
  deriving DecidableEq, Repr

/-- Why an instruction has no meaning here. -/
inductive Refusal
  /-- raised by exec for an instruction without a meaning yet; safe -/
  | notModelled (mnemonic : String)
  deriving DecidableEq, Repr

/-- A partition (16 R361, R362): its rectangle, slots, page table root, save region, spill queues, pools by livery,
synchronisation counters, configuration banks, shoot-downs and timed launch. -/
structure Partition where
  configured : Bool := false
  row0 : Nat := 0
  col0 : Nat := 0
  height : Nat := 1
  width : Nat := 1
  tsmask : BitVec 16 := 0x0FFF
  root : Nat := 0
  csbase : Nat := 0
  sqbase : Nat := 0
  sqcap : Nat := 0
  pools : SMap Pool := []
  ctrs : SMap Word := []
  bankA : Bank := {}
  bankB : Bank := {}
  /-- bank B is resident -/
  useB : Bool := false
  shoots : List Shoot := []
  nextShoot : Nat := 0
  done : Word := 0
  run : TimedRun := {}
  deriving DecidableEq, Repr

/-- The state of the package. `schedule` says who moves next and `free` counts the free values drawn: both are the
model's own (log 1, log 2), as are `curPipe`, `curStream` and `curThread`, which name the unit that acts. -/
structure State where
  schedule : List Turn := []
  free : Nat := 0
  curPipe : Nat := 0
  curStream : StreamKind := .c
  curThread : Nat := 0
  pipes : SMap Pipe := []
  dies : SMap Die := []
  parts : SMap Partition := []
  /-- relay and MCAST words on their way (05 R168) -/
  words : List RelayWord := []
  /-- physical memory (17 R375) -/
  mem : Memory := []
  /-- granules of 32 bytes with an uncorrectable error (23 R463) -/
  bad : List Nat := []
  gigs : SMap Gig := []
  coaches : SMap Coach := []
  evs : List EvMsg := []
  kidWaits : List ChildWait := []
  /-- held SENDs in the order of their first refusal (08 R249) -/
  held : List HeldSend := []
  launches : SMap Launch := []
  nextLid : Nat := 1
  tlb : List Cached := []
  portal : Portal := {}
  fw : Firmware := {}
  linkWords : List LinkWord := []
  notices : List LinkNotice := []
  deriving DecidableEq, Repr

/-- The machine right after reset. -/
def State.reset : State := {}

end Sys2Proof.Machine
end

