-- ==== Sys2Proof/Config.lean ====
section
/-! DEFINITION. What an implementation fixes, and the values that the spec leaves open: constants without a body,
of which no proof can see a value (log 1, log 2, log 40). -/
namespace Sys2Proof.Config

/-- Who moves where the schedule says nothing (log 1). -/
opaque freeTurn : Nat → Sys2Proof.Machine.Turn

/-- The free values drawn in turn (log 2). -/
opaque freeNat : Nat → Nat

/-- Installed capacity of the CXL tier in bytes (17 R375). -/
opaque cxlBytes : Nat

/-- The CXL port behind an address of that tier, which the spec does not give (00 R1; log 41). -/
opaque cxlPort : Nat → Nat

/-- SHA-384 of a byte list (24 R471, R476): its standard is not part of the spec (log 40). -/
opaque sha384 : List Byte → BitVec 384

/-- The ECDSA P-384 signature of an image verifies against the fused key digest (24 R471; log 40). -/
opaque ecdsaOk : List Byte → Bool

/-- The LMS signature of an image verifies against the fused key digest (24 R471; log 40). -/
opaque lmsOk : List Byte → Bool

/-- VERSION, SVN, TMIN and TMAX in an image's header, whose layout the spec does not give (24 R471; log 40). -/
opaque imageVersion : List Byte → Nat
/-- SVN of an image. -/
opaque imageSvn : List Byte → Nat
/-- Lowest state table version that an image imports. -/
opaque imageTmin : List Byte → Nat
/-- Highest state table version that an image imports. -/
opaque imageTmax : List Byte → Nat
/-- A standby complex can boot the image (24 R472). -/
opaque imageBoots : List Byte → Bool
/-- The fused minimum security version (24 R471). -/
opaque fusedSvn : Nat

/-- The ECDSA signature of the alias key that the identity keys of the west I/O die, or of the east one, certified with leaf `n`
(24 R477, R478; log 40). -/
opaque sign : Bool → Nat → List Byte → List Byte
/-- The alias certificate that they signed (24 R477, R478; log 40). -/
opaque aliasCert : Bool → Nat → List Byte

/-- The device identity in a QUERY type 0 reply, which the spec does not give (16 R374; log 45). -/
opaque identity : Nat → List Byte

/-- The firmware threshold of an uncorrectable count (23 R465, R467). -/
opaque uncThreshold : Nat
/-- The firmware threshold of a corrected count (23 R467). -/
opaque corThreshold : Nat
/-- The firmware threshold of HOSTERR (23 R467). -/
opaque hostThreshold : Nat

/-- The measurement digest of the boot ROM and first-stage loader (24 R476). -/
opaque bootDigest : BitVec 384

end Sys2Proof.Config
end

