-- ==== Sys2Proof/Machine/Rotary.lean ====
section
/-! DEFINITION. Correctly rounded sine and cosine of the rotary generator (07 R218): fixed-point Taylor sums to about
180 bits, far beyond the bits that decide a rounding to FP32 for any of the 2^32 phases (log 9). -/
namespace Sys2Proof.Machine

/-- 2π × 2^192, rounded down. -/
def twoPi192 : Nat := 0x6487ed5110b4611a62633145c06e0e68948127044533e63a0

/-- Adds `n` further Taylor terms: `t` is the next term, `k` the next index, `x2` the square of the argument,
all over 2^192; signs alternate. -/
def taylor (n k : Nat) (t x2 : Nat) (plus : Bool) (acc : Int) : Int :=
  match n with
  | 0 => acc
  | n + 1 =>
    let acc' := if plus then acc + (t : Int) else acc - (t : Int)
    taylor n (k + 2) (t * x2 / 2 ^ 192 / ((k + 1) * (k + 2))) x2 (!plus) acc'

/-- sin x over 2^192, for x over 2^192 in 0 to about 0.8. -/
def sinFix (x : Nat) : Nat := (taylor 24 1 x (x * x / 2 ^ 192) true 0).toNat
/-- cos x over 2^192, for x over 2^192 in 0 to about 0.8. -/
def cosFix (x : Nat) : Nat := (taylor 24 0 (2 ^ 192) (x * x / 2 ^ 192) true 0).toNat

/-- sin(2π r / 2^32) for r from 0 to 2^30, a quarter turn. It is exact only at 0 and a quarter turn. -/
def sinQuarter (r : Nat) : XVal :=
  if r = 0 then .fin false 0 0 false
  else if 2 ^ 30 ≤ r then .fin false 1 0 false
  else if r ≤ 2 ^ 29 then .fin false (sinFix (twoPi192 * r / 2 ^ 32)) (-192) true
  else .fin false (cosFix (twoPi192 * (2 ^ 30 - r) / 2 ^ 32)) (-192) true

/-- sin(2π phase / 2^32). -/
def sinPhase (phase : Nat) : XVal :=
  let r := phase % 2 ^ 30
  match phase / 2 ^ 30 % 4 with
  | 0 => sinQuarter r
  | 1 => sinQuarter (2 ^ 30 - r)
  | 2 => if r = 0 then .fin false 0 0 false else (sinQuarter r).negate
  | _ => (sinQuarter (2 ^ 30 - r)).negate

/-- cos(2π phase / 2^32). -/
def cosPhase (phase : Nat) : XVal := sinPhase ((phase + 2 ^ 30) % 2 ^ 32)

/-- c = Round(cos θ, FP32, RNE) of a phase, as an exact value (07 R218). -/
def rotCos (phase : Nat) : XVal := Fmt.fp32.decode (roundX (cosPhase phase) .fp32 .rne 0).bits
/-- sn = Round(sin θ, FP32, RNE) of a phase, as an exact value (07 R218). -/
def rotSin (phase : Nat) : XVal := Fmt.fp32.decode (roundX (sinPhase phase) .fp32 .rne 0).bits

end Sys2Proof.Machine
end

