-- ==== Sys2Proof/Machine/Operands.lean ====
section
/-! DEFINITION. Operands of timed words: register reads, the checking scoreboard, results in flight, queues,
sequencer flow, stream positions and element formats (04 R104 to R119; 05 R142 to R152; 07 R192, R195). -/
namespace Sys2Proof.Machine

/-- Freeze cause codes (04 Table 4-13). -/
def causeIllOp : Nat := 1
def causeScore : Nat := 2
def causeToken : Nat := 3
def causeAlign : Nat := 4
def causeLink : Nat := 5
def causeStlbMiss : Nat := 6
def causePage : Nat := 7
def causeScale : Nat := 8
def causeLayoverBank : Nat := 9
def causeBrakeLimit : Nat := 0xA
def causeRelaySend : Nat := 0xB
def causeEcc : Nat := 0xC
def causeTrapc : Nat := 0xD
def causeExt : Nat := 0xE

/-- The sequencer of stream `k`. -/
def Pipe.seq (p : Pipe) (k : StreamKind) : Seq :=
  match k with
  | .c => p.c | .l => p.l | .x => p.x | .s => p.s | .gig => p.c

/-- The pipeline with the sequencer of stream `k` replaced. -/
def Pipe.setSeq (p : Pipe) (k : StreamKind) (q : Seq) : Pipe :=
  match k with
  | .c => { p with c := q }
  | .l => { p with l := q }
  | .x => { p with x := q }
  | .s => { p with s := q }
  | .gig => p

/-- The wait count W of the word that stream `q` issues next (03 R71). -/
def Seq.wait (q : Seq) : Nat := ((q.imem.get q.pc 0).extractLsb' 29 3).toNat

/-- The cycle in which stream `q` issues its next word (03 R72); beyond word 16,383 there is no wait count. -/
def Seq.issueAt (q : Seq) : Tick := if q.pc < 16384 then q.next + BitVec.ofNat 64 q.wait else q.next

/-- s register `n`; s0 reads 0 (01 R19). -/
def Pipe.sreg (p : Pipe) (n : Nat) : Word := if n = 0 then 0 else p.regs.sr.get n 0
/-- Predicate `n`; p0 reads 1 (01 R19). -/
def Pipe.preg (p : Pipe) (n : Nat) : Bool := if n = 0 then true else p.regs.pr.get n false
/-- a register `n`. -/
def Pipe.areg (p : Pipe) (n : Nat) : Word := p.regs.ar.get n 0
/-- b register `n`. -/
def Pipe.breg (p : Pipe) (n : Nat) : Word := p.regs.br.get n 0
/-- v register `n`. -/
def Pipe.vreg (p : Pipe) (n : Nat) : VWord := p.regs.vr.get n 0
/-- m register `n`. -/
def Pipe.mreg (p : Pipe) (n : Nat) : Word := p.regs.mr.get n 0
/-- Codebook register `n`. -/
def Pipe.cbreg (p : Pipe) (n : Nat) : BitVec 256 := p.regs.cb.get n 0
/-- Stream register `n`. -/
def Pipe.streg (p : Pipe) (n : Nat) : StreamReg := p.regs.st.get n {}

/-- The pipeline with stream register `n` set. -/
def Pipe.setSt (p : Pipe) (n : Nat) (r : StreamReg) : Pipe :=
  { p with regs := { p.regs with st := p.regs.st.set n r } }

/-- A register that a word reads, as the scoreboard names it (09 R270). -/
inductive RegRef
  | s (n : Nat) | p (n : Nat) | a (n : Nat) | b (n : Nat) | v (n : Nat) | m (n : Nat) | cb (n : Nat)
  | coef (n : Nat) | st (n : Nat)
  deriving DecidableEq, Repr

/-- Whether a result writes the register. s0 and p0 have no producer. -/
def Result.writes (r : Result) (q : RegRef) : Bool :=
  match r, q with
  | .sreg d _, .s n => decide (d = n) && decide (n ≠ 0)
  | .preg d _, .p n => decide (d = n) && decide (n ≠ 0)
  | .areg d _, .a n => decide (d = n)
  | .breg d _, .b n => decide (d = n)
  | .vreg d _ _, .v n => decide (d = n)
  | .mreg d _ _, .m n => decide (d = n)
  | .cb d _, .cb n => decide (d = n)
  | .coef d _, .coef n => decide (d = n)
  | .scfg d _ _ _, .st n => decide (d = n)
  | _, _ => false

/-- The (DETAIL, INFO) of a SCORE slip (09 R270). -/
def RegRef.scoreInfo (q : RegRef) : Nat × Nat :=
  match q with
  | .s n => (0, n)
  | .p n => (0, 32 + n)
  | .a n => (0, 64 + n)
  | .b n => (0, 96 + n)
  | .v n => (0, 128 + n)
  | .m n => (0, 160 + n)
  | .cb n => (0, 192 + n)
  | .coef n => (0, 224 + n)
  | .st n => (n, 0)

/-- The number of a register among those that parity covers; a coefficient table is a memory (23 R460). -/
def RegRef.number (q : RegRef) : Option Nat :=
  match q with
  | .st n => some (256 + n)
  | .coef _ => none
  | q => some q.scoreInfo.2

/-- One of the registers has a parity error (23 R460). -/
def Pipe.parityIn (p : Pipe) (qs : List RegRef) : Bool :=
  qs.any (fun q => match q.number with
    | some n => p.regs.parity.contains n
    | none => false)

/-- The registers with number `n` written whole: its parity error is gone (23 R463). -/
def Regs.sound (r : Regs) (n : Nat) : Regs := { r with parity := r.parity.filter (fun k => !(decide (k = n))) }

/-- TPCTL.CHECK. -/
def Pipe.check (p : Pipe) : Bool := p.csr.tpctl.getLsbD 0

/-- A producer of the register is in flight (04 R104). -/
def Pipe.busy (p : Pipe) (q : RegRef) : Bool := p.fly.res.any (fun f => f.res.writes q)

/-- The SCORE slips of a word that reads `qs` early, with CHECK = 1 (04 R104; 09 R270). -/
def Pipe.scores (p : Pipe) (k : StreamKind) (qs : List RegRef) : List Det :=
  if p.check then
    (qs.filter p.busy).map (fun q =>
      { cause := causeScore, stream := k.num, pc := (p.seq k).pc, detail := q.scoreInfo.1,
        info := BitVec.ofNat 32 q.scoreInfo.2 })
  else []

/-- A detection by the word that stream `k` issues. -/
def Pipe.wordDet (p : Pipe) (k : StreamKind) (cause detail info : Nat) : Det :=
  { cause := cause, stream := k.num, pc := (p.seq k).pc, detail := detail, info := BitVec.ofNat 32 info }

/-- The uncorrectable error of a word that uses a register with a parity error (23 R463): INFO = 0. -/
def Pipe.parityDets (p : Pipe) (k : StreamKind) (qs : List RegRef) : List Det :=
  if p.parityIn qs then [p.wordDet k causeEcc 0 0] else []

/-- The pipeline with detections of this cycle added (09 R288). -/
def Pipe.detect (p : Pipe) (ds : List Det) : Pipe :=
  { p with cyc := { p.cyc with dets := p.cyc.dets ++ ds } }

/-- The pipeline with a result that completes `lat` cycles after `now` (04 R104). -/
def Pipe.produce (p : Pipe) (k : StreamKind) (now : Tick) (lat : Nat) (r : Result) (f : FlagSet) : Pipe :=
  { p with fly := { p.fly with
      res := p.fly.res ++ [{ due := now + BitVec.ofNat 64 lat, stream := k.num, res := r, flags := f, issue := now }] } }

/-- The pipeline after one unit makes `n` draws in this cycle (02 R59). -/
def Pipe.drawn (p : Pipe) (n : Nat) : Pipe :=
  { p with cyc := { p.cyc with draws := if p.cyc.draws < n then n else p.cyc.draws } }

/-- The mode of a rounding field: DYN takes TPCTL.RM; none where reserved (02 R49). -/
def Pipe.mode (p : Pipe) (rm : Nat) : Option RMode :=
  if rm = 7 then RMode.ofCode ((p.csr.tpctl.extractLsb' 1 3).toNat) else RMode.ofCode rm

/-- SRBits for draw index `i` of stream `stream` in this cycle (02 R56, R57). -/
def Pipe.draw (p : Pipe) (stream i : Nat) : Nat :=
  srBits p.csr.seedLo p.csr.seedHi p.csr.seat (BitVec.ofNat 6 stream)
    (p.csr.cbase + p.csr.elem + BitVec.ofNat 48 i)

/-- The road book with an entry added, unless it has stopped (19 R428, R429). It keeps the latest 4,096. -/
def Book.add (b : Book) (time : Word) (kind pc : Nat) (data : Nat) : Book :=
  let e := (time, BitVec.ofNat 64 (kind * 2 ^ 60 + pc % 2 ^ 28 * 2 ^ 32 + data % 2 ^ 32))
  match b.left with
  | some 0 => b
  | some (n + 1) => { entries := (e :: b.entries).take 4096, left := some n }
  | none => { entries := (e :: b.entries).take 4096, left := none }

/-- The road book after a trigger: 1,024 further entries (19 R429). -/
def Book.trigger (b : Book) : Book :=
  match b.left with
  | none => { b with left := some 1024 }
  | some _ => b

/-- The pipeline with a road book entry of the word that stream `k` issues. -/
def Pipe.note (p : Pipe) (now : Tick) (kind : Nat) (k : StreamKind) (data : Nat) : Pipe :=
  { p with book := p.book.add now kind (p.seq k).pc data }

/-! ### Flow of a sequencer (03 R72; 04 R114 to R119) -/

/-- The word at `pc` lies in the body of loop level `v`. -/
def LoopLevel.holds (v : LoopLevel) (pc : Nat) : Bool := decide (v.start ≤ pc) && decide (pc ≤ v.last)

/-- `t` lies before `u`. -/
def Tick.lt (t u : Tick) : Bool := !(Tick.le u t)

/-- The later of two ticks. -/
def Tick.max (t u : Tick) : Tick := if Tick.le t u then u else t

/-- The sequencer after its innermost iteration has ended with next free cycle `nf` (04 R117): the next
iteration, or the padding that runs to the cycle in which the word after the loop may issue. DESIGN CHOICE (log 61): the
iteration after an overrun starts at the next free issue cycle, and so do those after it; a loop whose last iteration
overruns ends there. -/
def Seq.endIter (q : Seq) (v : LoopLevel) (rest : List LoopLevel) (nf : Tick) : Seq :=
  let t' := Tick.max (v.t + BitVec.ofNat 64 v.span) nf
  match v.left with
  | 0 =>
    let stop := Tick.max v.stop nf
    { q with loops := { v with stop := stop, fixed := true, ended := true } :: rest, pc := v.last + 1, next := stop }
  | n + 1 => { q with loops := { v with left := n, t := t', fixed := false } :: rest, pc := v.start, next := t' }

/-- The loop level whose whole time has passed by the cycle `now` is popped (04 R117). -/
def Seq.popOver (q : Seq) (now : Tick) : Seq :=
  match q.loops with
  | v :: rest => if v.ended && Tick.le v.stop now then { q with loops := rest } else q
  | [] => q

/-- The cycle T + span at which the ended iteration is found to overrun, where it does (04 R117). -/
def LoopLevel.overruns (v : LoopLevel) (nf : Tick) : Bool :=
  !v.fixed && !(Tick.le nf (v.t + BitVec.ofNat 64 v.span))

/-- The sequencer after a word that does not branch, with next free cycle `nf` (03 R72; 04 R118). -/
def Seq.after (q : Seq) (nf : Tick) (span : Bool) : Seq :=
  match q.loops with
  | v :: rest =>
    if v.last = q.pc then { Seq.endIter q v rest nf with fresh := span }
    else { q with pc := q.pc + 1, next := nf, fresh := span }
  | [] => { q with pc := q.pc + 1, next := nf, fresh := span }

/-- The pipeline after stream `k` has issued a word that does not branch; an overrun that the end of the
iteration shows is detected at T + span. -/
def Pipe.afterWord (p : Pipe) (k : StreamKind) (nf : Tick) (span : Bool) : Pipe :=
  let q := p.seq k
  let p' := p.setSeq k (q.after nf span)
  match q.loops with
  | v :: _ =>
    if v.last = q.pc && v.overruns nf then
      { p' with fly := { p'.fly with late := p'.fly.late ++
          [{ at_ := v.t + BitVec.ofNat 64 v.span,
             det := { cause := causeIllOp, stream := k.num, pc := v.last, detail := 0, info := 0 } }] } }
    else p'
  | [] => p'

/-- The sequencer after a taken branch to `target`, issued at `now` (03 R72). -/
def Seq.branch (q : Seq) (now : Tick) (target : Nat) : Seq :=
  { q with pc := target, next := now + 2, fresh := false }

/-- A branch's target: its PC + the signed word offset (03 R76). -/
def branchTarget (pc : Nat) (off : BitVec 19) : Int := (pc : Int) + off.toInt

/-- A taken branch to `t` from word `pc` is illegal: outside 0 to 16,383, or, where the word lies in the body of
the innermost loop, outside that body (03 R76; 04 R118). -/
def Seq.badTarget (q : Seq) (t : Int) : Bool :=
  decide (t < 0) || decide (16383 < t) ||
    match q.loops with
    | v :: _ => v.holds q.pc && !(v.holds t.toNat)
    | [] => false

/-- Why a LOOP or XLOOP of `len` words is illegal here (04 R117 to R119). -/
def Seq.badLoop (q : Seq) (len : Nat) : Bool :=
  !q.fresh || decide (4 ≤ q.loops.length) ||
    match q.loops with
    | v :: _ => v.holds q.pc && decide (v.last ≤ q.pc + len)
    | [] => false

/-- The sequencer after a LOOP or XLOOP with this trip count (04 R117): a level is pushed, which with a count of zero
only pads. -/
def Seq.enter (q : Seq) (now : Tick) (trips len most : Nat) : Seq :=
  let stop := now + 1 + BitVec.ofNat 64 (most * q.span)
  let v : LoopLevel := { count := trips, left := trips - 1, start := q.pc + 1, last := q.pc + len, span := q.span,
                         t := now + 1, stop := stop, fixed := decide (trips = 0), ended := decide (trips = 0) }
  match trips with
  | 0 => { q with loops := v :: q.loops, pc := q.pc + len + 1, next := stop, fresh := false }
  | _ + 1 => { q with loops := v :: q.loops, pc := q.pc + 1, next := now + 1, fresh := false }

/-! ### Architectural queues (01 R22 to R24) -/

/-- The head of a queue that can be popped in cycle `now`. -/
def qHead {α : Type} (q : List (QEntry α)) (now : Tick) : Option α :=
  match q with
  | [] => none
  | e :: _ => if Tick.le e.ready now then some e.val else none

/-- The head of a queue that can be popped in cycle `now` has a parity error (23 R460, R463). -/
def qBad {α : Type} (q : List (QEntry α)) (now : Tick) : Bool :=
  match q with
  | [] => false
  | e :: _ => Tick.le e.ready now && e.bad

/-- The queue with an entry appended, ready `lat` cycles after `now`. -/
def qPush {α : Type} (q : List (QEntry α)) (now : Tick) (lat : Nat) (v : α) : List (QEntry α) :=
  q ++ [{ ready := now + BitVec.ofNat 64 lat, val := v, issue := now }]

/-- Data queue `n`. -/
def Pipe.dqueue (p : Pipe) (n : Nat) : List (QEntry VWord) := p.q.dq.get n []

/-- The pipeline with data queue `n` set. -/
def Pipe.setDq (p : Pipe) (n : Nat) (q : List (QEntry VWord)) : Pipe :=
  { p with q := { p.q with dq := p.q.dq.set n q } }

/-- The count of token queue `n`. -/
def Pipe.tokens (p : Pipe) (n : Nat) : Nat := p.q.tok.get n 0

/-- The pipeline with a token change made at the end of the cycle (01 R24). -/
def Pipe.giveTokens (p : Pipe) (n : Nat) (d : Int) : Pipe :=
  { p with cyc := { p.cyc with tokDelta := p.cyc.tokDelta ++ [(n, d)] } }

/-! ### Stream descriptors and positions (05 R140 to R143, R146) -/

/-- The signed value of bits [hi:lo] of a word. -/
def sbitsOf (w : Word) (hi lo : Nat) : Int := signedOf (hi - lo + 1) (bitsOf w hi lo)

/-- The descriptor in eight words (05 Table 5-1). -/
def Desc.ofWords (ws : List Word) : Desc :=
  let w := wordAt ws
  { base := bitsOf (w 0) 48 0, kind := bitsOf (w 1) 57 56, fmt := bitsOf (w 1) 55 52,
    qfmt := bitsOf (w 1) 51 48, cbr := bitsOf (w 1) 47 46, scl := bitOf (w 1) 45,
    blk := bitsOf (w 1) 44 43, kv := bitsOf (w 1) 42 41,
    stride := [sbitsOf (w 2) 63 32, sbitsOf (w 3) 63 32, sbitsOf (w 4) 63 32],
    count := [bitsOf (w 2) 31 0, bitsOf (w 3) 31 0, bitsOf (w 4) 31 0],
    sbase := bitsOf (w 5) 22 0, srow := sbitsOf (w 6) 31 0, look := sbitsOf (w 7) 31 0 }

/-- Count of level `l`. -/
def Desc.cnt (d : Desc) (l : Nat) : Nat := d.count.getD l 1
/-- Stride of level `l`. -/
def Desc.str (d : Desc) (l : Nat) : Int := d.stride.getD l 0
/-- TOT: the number of positions. -/
def Desc.tot (d : Desc) : Nat := d.cnt 0 * d.cnt 1 * d.cnt 2

/-- The reserved fields of a descriptor are zero. -/
def Desc.rsvOk (ws : List Word) : Bool :=
  let w := wordAt ws
  decide (bitsOf (w 0) 63 49 = 0) && decide (bitsOf (w 1) 63 58 = 0) && decide (bitsOf (w 1) 40 0 = 0) &&
  decide (bitsOf (w 5) 63 23 = 0) && decide (bitsOf (w 6) 63 32 = 0) && decide (bitsOf (w 7) 63 32 = 0)

/-- QFMT codes that a queue takes. -/
def queueFmtOk (c : Nat) : Bool := decide (c ≤ 6) || decide (c = 10)

/-- Formats that may carry block scales (02 R61). -/
def scaledFmtOk (c : Nat) : Bool := decide (c = 3) || decide (c = 4) || decide (c = 5) || decide (c = 7) || decide (c = 8)

/-- The validity of a descriptor for stream register `st` (05 R141, R153). FMT 11 to 15 is reserved (02 R42). -/
def Desc.valid (ws : List Word) (st : Nat) : Bool :=
  let d := Desc.ofWords ws
  let w := wordAt ws
  Desc.rsvOk ws && decide (d.kind ≤ 1) && decide (d.fmt ≤ 10) && queueFmtOk d.qfmt && decide (d.kv ≤ 2) &&
  (decide (d.kind = 1) || decide (bitsOf (w 0) 48 23 = 0)) &&
  decide (1 ≤ d.cnt 0) && decide (1 ≤ d.cnt 1) && decide (1 ≤ d.cnt 2) && decide (d.tot ≤ 2 ^ 48) &&
  (!d.scl || scaledFmtOk d.fmt) &&
  (decide (d.kv = 0) ||
    (decide (d.fmt = 7) && decide (d.qfmt = 1) && !d.scl && decide (d.kind = 0) &&
     decide (d.cnt 0 = 16) && decide (d.cnt 1 = 16))) &&
  (decide (st < 8) ||
    (decide (d.fmt = 0) && decide (d.cbr = 0) && !d.scl && decide (d.blk = 0) && decide (d.kv = 0)))

/-- The three indices of position `p` (05 R142). -/
def Desc.index (d : Desc) (p : Nat) : Nat × Nat × Nat :=
  (p % d.cnt 0, p / d.cnt 0 % d.cnt 1, p / (d.cnt 0 * d.cnt 1))

/-- The exact address of position `p` (05 R142). -/
def Desc.addr (d : Desc) (p : Nat) : Int :=
  let (i0, i1, i2) := d.index p
  (d.base : Int) + i0 * d.str 0 + i1 * d.str 1 + i2 * d.str 2

/-- The scale row of position `p` (05 R142). -/
def Desc.scaleRow (d : Desc) (p : Nat) : Nat :=
  let (_, i1, i2) := d.index p
  i1 + i2 * d.cnt 1

/-- Block length (05 Table 5-1). -/
def blockLen (blk : Nat) : Nat := 16 * 2 ^ blk

/-- The tensor SRAM offset of a scale word (05 R143). -/
def scaleAddr (sbase : Nat) (srow : Int) (blk : Nat) (row : Int) (k : Nat) : Int :=
  (sbase : Int) + row * srow + (k / blockLen blk : Nat) * 4

/-- The stream register with its position advanced once (05 R142). -/
def StreamReg.advance (r : StreamReg) (d : Desc) : StreamReg := { r with p := (r.p + 1) % d.tot }

/-- Size of tensor SRAM (01 R27). -/
def tensorSize : Nat := 0x600000
/-- The bank of an offset (01 R27). -/
def tensorBank (off : Nat) : Nat := off / 0x18000
/-- The banks that `n` bytes from `off` touch. -/
def banksOf (off n : Nat) : List Nat :=
  if n = 0 then [] else (List.range (tensorBank (off + n - 1) - tensorBank off + 1)).map (fun i => tensorBank off + i)

/-- `n` bytes at `a` lie within tensor SRAM. -/
def inTensor (a : Int) (n : Nat) : Bool := decide (0 ≤ a) && decide (a + n ≤ (tensorSize : Int))

/-- `n` bytes at `a` lie within the addresses that a KIND 1 stream may name (05 R142). -/
def inPaged (a : Int) (n : Nat) : Bool := decide (0 ≤ a) && decide (a + n ≤ 0x1FFFE00000000)

/-- Bytes of a memory element; 1 for the 4-bit formats (05 R142). -/
def fmtAlign (f : Fmt) : Nat := if f.bits < 8 then 1 else f.bits / 8

/-! ### Elements of vector words (02 R41; 07 R192) -/

/-- Element `e` of width `w` of a 2,048-bit word. -/
def elemOf (v : VWord) (w e : Nat) : Nat := v.toNat / 2 ^ (w * e) % 2 ^ w

/-- The number whose element `e` of width `w` is `f e`, for the first `n` elements. -/
def packElems (w n : Nat) (f : Nat → Nat) : Nat :=
  match n with
  | 0 => 0
  | n + 1 => packElems w n f + f n % 2 ^ w * 2 ^ (w * n)

/-- The word of `n` elements of width `w`. -/
def vecPack (w n : Nat) (f : Nat → Nat) : VWord := BitVec.ofNat 2048 (packElems w n f)

/-- The bits of the elements that `p` selects. -/
def elemMask (w n : Nat) (p : Nat → Bool) : VWord := vecPack w n (fun e => if p e then 2 ^ w - 1 else 0)

/-- The `n`-element little-endian byte list of elements of width `w`. -/
def elemBytes (w n : Nat) (f : Nat → Nat) : List Byte := toBytes (n * w / 8) (packElems w n f)

/-- The flags that a fold over elements raises. -/
def flagsOf (n : Nat) (f : Nat → FlagSet) : FlagSet :=
  match n with
  | 0 => 0
  | n + 1 => flagsOf n f ||| f n

/-- The flag NV where pattern `b` of format `f` is a signalling NaN (02 R46). -/
def snanFlag (f : Fmt) (b : Nat) : FlagSet := flagIf (f.isSNaN b) flagNV

/-- The value of a CB4 code or of another format's pattern, with its signalling flag (02 R47). -/
def valueOf (f : Fmt) (cb : BitVec 256) (b : Nat) : XVal × FlagSet :=
  if f = .cb4 then
    let e := cb.toNat / 2 ^ (16 * (b % 16)) % 2 ^ 16
    (Fmt.bf16.decode e, snanFlag .bf16 e)
  else (f.decode b, snanFlag f b)

/-- The bits that element `e` of `n` draws under SR: lane i = e div (n / 64), mirrored for an odd half (07 R195). -/
def srDraw (p : Pipe) (rm : RMode) (n e : Nat) : Nat :=
  if rm = .sr then
    let r := p.draw 0 (e / (n / 64))
    if e % (n / 64) = 0 then r else 2 ^ 23 - 1 - r
  else 0

/-- The execution mask: all ones, or m0 where M = 1 (07 R193). -/
def Pipe.execMask (p : Pipe) (m : BitVec 1) : Word := if m = 1 then p.mreg 0 else -1

/-- Whether element `e` of `n` is written under mask `m` (07 R192). -/
def laneOn (m : Word) (n e : Nat) : Bool := m.getLsbD (e / (n / 64))

end Sys2Proof.Machine
end

