-- ==== Sys2Proof/Machine/Ops.lean ====
section
/-! DEFINITION. The named operations on the timed plane that the meanings share: reading and replacing a unit,
the aligned tick, reserved banks, the frame of every timed word, and the detection of timed faults
(01 R30; 03 R72 to R76; 09 R283 to R288; 10 R294). -/
namespace Sys2Proof.Machine

/-! ### Units -/

/-- Pipeline `g`. -/
def State.pipe (s : State) (g : Nat) : Pipe := s.pipes.get g {}
/-- The state with pipeline `g` replaced. -/
def State.setPipe (s : State) (g : Nat) (p : Pipe) : State := { s with pipes := s.pipes.set g p }
/-- The state with pipeline `g` changed by `f`. -/
def State.onPipe (s : State) (g : Nat) (f : Pipe → Pipe) : State := s.setPipe g (f (s.pipe g))
/-- Die `d`. -/
def State.die (s : State) (d : Nat) : Die := s.dies.get d {}
/-- The state with die `d` replaced. -/
def State.setDie (s : State) (d : Nat) (x : Die) : State := { s with dies := s.dies.set d x }
/-- The state with die `d` changed by `f`. -/
def State.onDie (s : State) (d : Nat) (f : Die → Die) : State := s.setDie d (f (s.die d))
/-- Partition `k`. -/
def State.part (s : State) (k : Nat) : Partition := s.parts.get k {}
/-- The state with partition `k` replaced. -/
def State.setPart (s : State) (k : Nat) (x : Partition) : State := { s with parts := s.parts.set k x }
/-- The state with partition `k` changed by `f`. -/
def State.onPart (s : State) (k : Nat) (f : Partition → Partition) : State := s.setPart k (f (s.part k))
/-- The state with the timed launch of partition `k` changed by `f`. -/
def State.onRun (s : State) (k : Nat) (f : TimedRun → TimedRun) : State :=
  s.onPart k (fun x => { x with run := f x.run })

/-- The die of pipeline `g` (01 R15). -/
def dieOfPipe (g : Nat) : Nat := g / 32
/-- ATK = TICK − ABSORBED (01 R30). -/
def Die.atk (d : Die) : Tick := d.tick - d.absorbed
/-- The axis that the dies of a partition share: cycles run, and cycles held by brakes and turnpike delays (10 R301). -/
def Die.axis (d : Die) : Tick := d.atk + d.stalled
/-- The aligned tick of the cycle that die `d` runs. -/
def State.now (s : State) (d : Nat) : Tick := (s.die d).atk

/-- Whether partition `x` holds die `d` (16 R361). -/
def Partition.hasDie (x : Partition) (d : Nat) : Bool :=
  x.configured && decide (d < 16) && decide (x.row0 ≤ d / 4) && decide (d / 4 < x.row0 + x.height) &&
  decide (x.col0 ≤ d % 4) && decide (d % 4 < x.col0 + x.width)

/-- The dies of a partition in die order. -/
def Partition.dies (x : Partition) : List Nat := (List.range 16).filter x.hasDie

/-- The number of the partition that holds die `d`, if any. -/
def State.partOf (s : State) (d : Nat) : Option Nat := (List.range 16).find? (fun k => (s.part k).hasDie d)

/-- The partition of the pipeline that acts; a pipeline of no partition issues nothing. -/
def State.curPart (s : State) : Nat := (s.partOf (dieOfPipe s.curPipe)).getD 0

/-- The pipelines of a die. -/
def pipesOfDie (d : Nat) : List Nat := (List.range 32).map (fun q => d * 32 + q)

/-- The pipelines of a partition in partition order (01 R17). -/
def Partition.pipes (x : Partition) : List Nat := x.dies.flatMap pipesOfDie

/-- The dies that share a Kolano boundary with die `d` (01 R13). -/
def neighbours (d : Nat) : List Nat :=
  (if d / 4 = 0 then [] else [d - 4]) ++ (if d % 4 = 0 then [] else [d - 1]) ++
  (if d % 4 = 3 then [] else [d + 1]) ++ (if d / 4 = 3 then [] else [d + 4])

/-- Hops between two dies (05 R168). -/
def hops (a b : Nat) : Nat :=
  ((a / 4 : Nat) - (b / 4 : Nat) + ((b / 4 : Nat) - (a / 4 : Nat))) +
  ((a % 4 : Nat) - (b % 4 : Nat) + ((b % 4 : Nat) - (a % 4 : Nat)))

/-! ### Layovers of a die (10 R293, R294) -/

/-- Layover `w` is open on the die in the cycle `now`: from its open cycle to its close cycle. -/
def Die.isOpen (x : Die) (now : Tick) (w : Nat) : Bool :=
  match x.lays.find? (fun e => e.1 == w) with
  | none => false
  | some e => match e.2.closed with
    | none => true
    | some c => decide (c = now)

/-- An opening from `o` to the close cycle `c` reserves its banks in the cycle `now` (R294). -/
def reservedBy (now o : Tick) (c : Option Tick) (brake : Bool) : Bool :=
  Tick.le o now && (match c with
    | none => true
    | some c => Tick.le now c || (brake && !(Tick.le (c + 32) now)))

/-- Layover `w` reserves its banks in the cycle `now`, which in a catch-up lies back (R294; 19 R411). -/
def Die.reserves (x : Die) (now : Tick) (w : Nat) (brake : Bool) : Bool :=
  match x.lays.find? (fun e => e.1 == w) with
  | none => false
  | some e => reservedBy now e.2.opened e.2.closed brake || e.2.past.any (fun p => reservedBy now p.1 (some p.2) brake)

/-- The layover that reserves bank `b` of pipeline `g` in this cycle, if any (R294). -/
def State.reserver (s : State) (g b : Nat) : Option Nat :=
  let d := dieOfPipe g
  let x := s.die d
  let run := (s.part ((s.partOf d).getD 0)).run
  (run.lays.find? (fun e =>
    e.2.dies.getLsbD d && e.2.pipes.getLsbD (g % 32) && e.2.banks.getLsbD b &&
    (x.reserves x.atk e.1 e.2.brake || x.opening.contains e.1))).map (fun e => e.1)

/-- The LAYOVER_BANK slip that an access to `n` bytes at `off` of pipeline `g` meets (05 R151), for the word or
event that `k`, `pc` name. -/
def State.bankSlips (s : State) (g : Nat) (k pc : Nat) (off n : Nat) : List Det :=
  match (banksOf off n).find? (fun b => (s.reserver g b).isSome) with
  | none => []
  | some b =>
    [{ cause := causeLayoverBank, stream := k, pc := pc, detail := 0,
       info := BitVec.ofNat 32 ((s.reserver g b).getD 0 + b * 256) }]

/-- The uncorrectable error that a read of `n` bytes at `off` of pipeline `g` meets (23 R463). -/
def State.eccSlips (s : State) (g : Nat) (k pc : Nat) (off n : Nat) : List Det :=
  match (s.pipe g).mem.bad.find? (fun b => decide (off < b * 8 + 8) && decide (b * 8 < off + n)) with
  | none => []
  | some b => [{ cause := causeEcc, stream := k, pc := pc, detail := 0, info := BitVec.ofNat 32 (b * 8) }]

/-- The uncorrectable error that a read of accumulator rows meets (23 R463): INFO, which the spec does not give for a row,
is a free value (log 2). -/
def State.rowEcc (s : State) (g : Nat) (k pc : Nat) (rows : List Nat) : List Det :=
  if (s.pipe g).mx.badRows.any (fun b => rows.contains (b / 24)) then
    [{ cause := causeEcc, stream := k, pc := pc, detail := 0, info := BitVec.ofNat 32 (Config.freeNat s.free) }]
  else []

/-! ### The frame of a timed word (03 R72 to R74; 09 R287, R288) -/

/-- An illegal word issues, takes no effect and is detected as ILL_OP (03 R74). -/
def State.illegal (s : State) (k : StreamKind) (info : Nat) : State :=
  let g := s.curPipe
  let now := s.now (dieOfPipe g)
  s.onPipe g (fun p => (p.detect [p.wordDet k causeIllOp 0 info]).afterWord k (now + 1) false)

/-- Whether a detection lets its word act: an early read does, on the older value (04 R104, log 8). -/
def Det.acts (d : Det) : Bool := decide (d.cause = causeScore)

/-- A timed word `i` of stream `k`. `srcs` are the registers it reads, `chk` the conditions it fails, `draws` its
draws under an effective mode of SR (made also when it slips, 02 R59), `eff` its effect, and `nf` the next free
issue cycle. A word that fails a condition takes no effect; an illegal one draws nothing. -/
def State.timedTo (s : State) (i : Instr) (k : StreamKind) (srcs : List RegRef) (chk : List Det) (draws : Nat)
    (nf : Tick) (span : Bool) (eff : State → State) : State :=
  if i.wellFormed then
    let g := s.curPipe
    let p := s.pipe g
    let chk := p.parityDets k srcs ++ chk
    let s1 := s.setPipe g (p.detect (p.scores k srcs ++ chk))
    let s2 := if chk.all Det.acts then eff s1 else s1
    let s3 := if chk.any (fun d => d.cause == causeIllOp) then s2 else s2.onPipe g (fun p => p.drawn draws)
    s3.onPipe g (fun p => p.afterWord k nf span)
  else s.illegal k 0

/-- A timed word after which the next word may issue in the next cycle. -/
def State.timed (s : State) (i : Instr) (k : StreamKind) (srcs : List RegRef) (chk : List Det)
    (eff : State → State) : State :=
  s.timedTo i k srcs chk 0 (s.now (dieOfPipe s.curPipe) + 1) false eff

/-- A timed word whose effect is on its own pipeline. -/
def State.timedPipe (s : State) (i : Instr) (k : StreamKind) (srcs : List RegRef) (chk : List Det)
    (eff : Tick → Pipe → Pipe) : State :=
  s.timed i k srcs chk (fun t => t.onPipe s.curPipe (eff (s.now (dieOfPipe s.curPipe))))

/-- The pipeline that acts. -/
def State.me (s : State) : Pipe := s.pipe s.curPipe
/-- The aligned tick of the acting pipeline. -/
def State.atk (s : State) : Tick := s.now (dieOfPipe s.curPipe)
/-- One detection where the condition holds, by the word of stream `k`. -/
def State.fails (s : State) (c : Bool) (k : StreamKind) (cause detail info : Nat) : List Det :=
  if c then [s.me.wordDet k cause detail info] else []
/-- What the word of stream `k` meets where it pops the queue of index `n`: a TOKEN slip where nothing can be popped, and an
uncorrectable error where the head is damaged (01 R24; 23 R463). -/
def State.popSlips {α : Type} (s : State) (k : StreamKind) (q : List (QEntry α)) (n : Nat) : List Det :=
  s.fails (qHead q s.atk).isNone k causeToken n 0 ++ s.fails (qBad q s.atk) k causeEcc 0 0

end Sys2Proof.Machine
end

