-- ==== Sys2Proof/Machine/Layover.lean ====
section
/-! DEFINITION. Stage occurrences (09 R271 to R274), layover descriptors, openings, closes and post slots
(10 R290 to R299, R306). -/
namespace Sys2Proof.Machine

/-! ### Stage table (09 Table 9-2, R271) -/

/-- The stage table entry in four words. -/
def StageEntry.ofWords (ws : List Word) : StageEntry :=
  let w := wordAt ws
  { hmax := bitsOf (w 0) 35 32, pclass := bitsOf (w 0) 27 24, n := bitsOf (w 0) 22 0, start := (w 1).toNat,
    rlen := bitsOf (w 2) 63 32, rstart := bitsOf (w 2) 31 0, period := bitsOf (w 3) 63 32,
    repeats := bitsOf (w 3) 31 0,
    rsvOk := decide (bitsOf (w 0) 63 36 = 0) && decide (bitsOf (w 0) 31 28 = 0) && decide (bitsOf (w 0) 23 23 = 0) }

/-- The occurrence of the entry that starts at τ `t`, if any. -/
def StageEntry.occAt (e : StageEntry) (t : Nat) : Option Nat :=
  if t < e.start then none
  else if e.period = 0 then (if t = e.start ∧ 1 ≤ e.repeats then some 0 else none)
  else if (t - e.start) % e.period = 0 ∧ (t - e.start) / e.period < e.repeats then some ((t - e.start) / e.period)
  else none

/-- How many occurrences of the entry start before τ `t`. -/
def StageEntry.before (e : StageEntry) (t : Nat) : Nat :=
  if t ≤ e.start then 0
  else if e.period = 0 then Nat.min e.repeats 1
  else Nat.min e.repeats ((t - e.start + e.period - 1) / e.period)

/-- The latest occurrence of the entry that starts at or before τ `t`: its start. -/
def StageEntry.latest (e : StageEntry) (t : Nat) : Option Nat :=
  match e.before (t + 1) with
  | 0 => none
  | n + 1 => some (e.start + n * e.period)

/-- The first occurrence of the entry that starts after τ `t`. -/
def StageEntry.following (e : StageEntry) (t : Nat) : Option Nat :=
  let n := e.before (t + 1)
  if n < e.repeats then some (e.start + n * e.period) else none

/-- D_DRAIN (R271). -/
def StageEntry.drain (e : StageEntry) : Nat := 18 + 14 * e.hmax

/-- D(k) of an occurrence that starts at `t` (R271). -/
def StageEntry.endOf (e : StageEntry) (t : Nat) : Nat :=
  if e.rlen = 0 then t + e.rstart else t + e.rstart + e.rlen - 1 + e.drain

/-- The relay window that holds τ `t`: its entry and its last cycle RE(k) (R275). -/
def relayAt (es : List StageEntry) (t : Nat) : Option (StageEntry × Nat) :=
  es.findSome? (fun e =>
    if e.rlen = 0 ∨ t < e.rstart then none
    else match e.latest (t - e.rstart) with
      | none => none
      | some b => if t < b + e.rstart + e.rlen then some (e, b + e.rstart + e.rlen - 1) else none)

/-- The entry with an occurrence at τ `t`. -/
def stageAt (es : List StageEntry) (t : Nat) : Option StageEntry := es.find? (fun e => (e.occAt t).isSome)

/-- How many occurrences of the table start before τ `t`. -/
def stagesBefore (es : List StageEntry) (t : Nat) : Nat := (es.map (fun e => e.before t)).sum

/-- The least element of a list of numbers. -/
def leastOf (l : List Nat) : Option Nat :=
  match l with
  | [] => none
  | a :: t => match leastOf t with
    | none => some a
    | some b => some (if a ≤ b then a else b)

/-- The stage length Ls of the occurrence of `e` at τ `t` (25 R482). -/
def stageLength (es : List StageEntry) (e : StageEntry) (t : Nat) : Nat :=
  match leastOf (es.filterMap (fun x => x.following t)) with
  | some u => u - t
  | none => e.endOf t - t + 1

/-- τ of the cycle `now` (09 R266). -/
def TimedRun.tau (r : TimedRun) (now : Tick) : Nat := (now - r.atk0).toNat

/-! ### Layover descriptors (10 Table 10-1) -/

/-- The numbers of the set bits of a 64-bit word. -/
def setBits (w : BitVec 64) : List Nat := (List.range 64).filter (fun i => w.getLsbD i)

/-- The layover descriptor in the words `ws`. -/
def LayDesc.ofWords (ws : List Word) : LayDesc :=
  let w := wordAt ws
  let n := (setBits (w 4)).length
  let np := bitsOf (w 0) 15 12
  { settle := bitsOf (w 0) 35 16, npub := np, brake := bitOf (w 0) 8, id := bitsOf (w 0) 5 0,
    limit := bitsOf (w 1) 63 32, nsen := bitOf (w 1) 25, noen := bitOf (w 1) 24, nsettle := bitsOf (w 1) 20 16,
    nopen := bitsOf (w 1) 12 8, ncoach := bitsOf (w 1) 6 0,
    dies := BitVec.ofNat 16 (bitsOf (w 2) 47 32), pipes := BitVec.ofNat 32 (bitsOf (w 2) 31 0),
    banks := w 3, slots := w 4, defaults := (List.range n).map (fun i => w (5 + i)),
    pubs := (List.range np).map (fun i =>
      (bitsOf (w (5 + n + 2 * i)) 63 32, bitsOf (w (5 + n + 2 * i)) 31 0, bitsOf (w (6 + n + 2 * i)) 31 0)),
    rsvOk := decide (bitsOf (w 0) 63 36 = 0) && decide (bitsOf (w 0) 11 9 = 0) && decide (bitsOf (w 0) 7 6 = 0) &&
      decide (bitsOf (w 1) 31 26 = 0) && decide (bitsOf (w 1) 23 21 = 0) && decide (bitsOf (w 1) 15 13 = 0) &&
      decide (bitsOf (w 1) 7 7 = 0) && decide (bitsOf (w 2) 63 48 = 0) &&
      (List.range np).all (fun i => decide (bitsOf (w (6 + n + 2 * i)) 63 32 = 0)) }

/-- The default value of slot `i`: that of its place among the set bits of SLOTS (R290). -/
def LayDesc.default (d : LayDesc) (i : Nat) : Word :=
  d.defaults.getD ((setBits d.slots).filter (fun j => decide (j < i))).length 0

/-- The layovers of the image resident in partition `k` (10 R297; 03 R102). -/
def State.lays (s : State) (k : Nat) : SMap LayDesc := (s.part k).run.lays

/-- The descriptor of layover `w` in a launch, where resident. -/
def layOf (ls : SMap LayDesc) (w : Nat) : Option LayDesc := (ls.find? (fun e => e.1 == w)).map (fun e => e.2)

/-- The latest opening of layover `w` on a die. -/
def Die.layRec (x : Die) (w : Nat) : Option LayRec := (x.lays.find? (fun e => e.1 == w)).map (fun e => e.2)

/-- The settle cycle of an opening has not yet been reached (R299). -/
def LayRec.unsettled (r : LayRec) (d : LayDesc) (now : Tick) : Bool :=
  match r.closed with
  | none => true
  | some c => !(Tick.le (c + BitVec.ofNat 64 d.settle) now)

/-- Two descriptors reserve a common bank on a pipeline that both name (R293). -/
def LayDesc.clash (a b : LayDesc) : Bool :=
  decide (a.pipes &&& b.pipes ≠ 0) && decide (a.banks &&& b.banks ≠ 0)

/-- Whether WOPEN `w` is illegal on die `d` in the cycle `now` (04 R128; 10 R293), where it does not join an
opening of the same cycle. -/
def wopenBad (ls : SMap LayDesc) (x : Die) (now : Tick) (w : Nat) : Bool :=
  match layOf ls w with
  | none => true
  | some d =>
    x.isOpen now w || decide (8 ≤ (x.lays.filter (fun e => x.isOpen now e.1)).length) ||
    ls.any (fun e =>
      decide (e.1 ≠ w) && x.isOpen now e.1 && (d.clash e.2 || decide (d.slots &&& e.2.slots ≠ 0))) ||
    ls.any (fun e => decide (d.slots &&& e.2.slots ≠ 0) &&
      (match x.layRec e.1 with
       | none => false
       | some r => r.unsettled e.2 now))

/-- Slot `i` written whole: an uncorrectable error of it is gone (23 R463). -/
def Die.putSlot (x : Die) (i : Nat) (v : PostSlot) : Die :=
  { x with post := x.post.set i v, badPost := x.badPost.filter (fun j => !(decide (j = i))) }

/-- The slots armed at the open cycle of `w` (R297). -/
def armSlots (x : Die) (w : Nat) (slots : List Nat) : Die :=
  slots.foldl (fun x i =>
    let bare := x.putSlot i { value := 0, lid := w, v := false, pend := false, late := false }
    match x.holders.find? (fun e => e.1 == i) with
    | some (_, (v, l)) =>
      if l = w then
        { x.putSlot i { value := v, lid := w, v := true, pend := true, late := false } with holders := SMap.erase x.holders i }
      else bare
    | none => bare) x

/-- The openings of layover `w` on the die before one in the cycle `now`, back to 128 cycles. -/
def Die.openings (x : Die) (w : Nat) (now : Tick) : List (Tick × Tick) :=
  match x.layRec w with
  | none => []
  | some r => ((match r.closed with
      | some c => [(r.opened, c)]
      | none => []) ++ r.past).filter (fun p => !(Tick.le (p.2 + 128) now))

/-- A die opens layover `w` (04 R128; 10 R293, R297, R303). -/
def State.openLay (s : State) (d w : Nat) (l : LayDesc) : State :=
  let now := s.now d
  let named := l.dies.getLsbD d
  let s1 := s.onDie d (fun x =>
    let x1 := { x with lays := x.lays.set w { opened := now, past := x.openings w now } }
    if named then armSlots x1 w (setBits l.slots) else x1)
  if named && l.noen then { s1 with evs := s1.evs ++ [{ kind := .notice, coach := l.ncoach, line := l.nopen, lid := 0, src := 0, srcBar := 0 }] }
  else s1

/-- A die closes layover `w`; its posts are judged at the end of the cycle (04 R129). The PC is kept where
pipeline `q` is the lowest-numbered that the descriptor names (10 R302). -/
def Die.closeLay (x : Die) (w q pc : Nat) (l : LayDesc) : Die :=
  match x.layRec w with
  | none => x
  | some r =>
    let lowest := (List.range 32).find? (fun i => l.pipes.getLsbD i) = some q
    { x with lays := x.lays.set w { r with closed := some x.atk, closeAt := x.axis,
                                           closePc := if lowest then pc else r.closePc } }

/-- The judgement of the layovers that closed in this cycle (10 R299): missing slots take their defaults, or the
layover brakes. -/
def Die.judge (x : Die) (ls : SMap LayDesc) (d : Nat) : Die :=
  ls.foldl (fun x e =>
    match x.layRec e.1 with
    | none => x
    | some r =>
      if r.closed = some x.atk ∧ r.judged = false then
        let missing := if e.2.dies.getLsbD d then (setBits e.2.slots).filter (fun i => !(x.post.get i {}).v) else []
        let r1 := { r with judged := true, braking := e.2.brake && !missing.isEmpty }
        let x1 := { x with lays := x.lays.set e.1 r1 }
        if e.2.brake then x1
        else missing.foldl (fun y i => y.putSlot i { y.post.get i {} with value := e.2.default i, v := false }) x1
      else x) x

/-- A brake on the axis of its partition (10 R300): the ATK and the place of its close, the place at which the last missing post was
taken, if it was, and the one up to which other brakes join it; `waits` where the release waits for a restart. -/
structure BrakeSpan where
  closes : Tick
  start : Tick
  release : Option Tick
  joinedTo : Option Tick
  waits : Bool
  deriving DecidableEq, Repr

/-- The brakes of a die: its BRAKE layovers that closed with a post missing. -/
def Die.brakeSpans (x : Die) (ls : SMap LayDesc) : List BrakeSpan :=
  x.lays.filterMap (fun e =>
    if (match layOf ls e.1 with
        | some l => l.brake
        | none => false) && e.2.judged && (e.2.braking || e.2.releaseAt.isSome) then
      e.2.closed.map (fun c => { closes := c, start := e.2.closeAt, release := e.2.releaseAt,
                                 joinedTo := e.2.overAt.or e.2.releaseAt, waits := e.2.waits })
    else none)

/-- The later of two places, none where one is open. -/
def laterOf (a b : Option Tick) : Option Tick :=
  match a, b with
  | some r, some q => some (if Tick.le r q then q else r)
  | _, _ => none

/-- A brake that begins before the hold of others is released joins them; the hold is released with the last of them
(10 R300). -/
def joinBrakes (hs : List BrakeSpan) (b : BrakeSpan) : List BrakeSpan :=
  match hs with
  | [] => [b]
  | h :: t =>
    if decide (b.start = h.start) || (match h.joinedTo with
        | none => true
        | some r => !(Tick.le r b.start)) then
      { h with release := laterOf h.release b.release, joinedTo := laterOf h.joinedTo b.joinedTo, waits := h.waits || b.waits } :: t
    else b :: h :: t

/-- The holds of partition `k`, over every die, latest first. -/
def State.brakeHolds (s : State) (k : Nat) : List BrakeSpan :=
  let x := s.part k
  (sortBy (fun a b => Tick.le a.start b.start) (x.dies.flatMap (fun e => (s.die e).brakeSpans (s.lays k)))).foldl joinBrakes []

/-- The place of die `d` on the axis of partition `k`; the TICKs since a die came to stand at fe are counted on it until the
restart takes them off again (10 R305). -/
def State.axisNow (s : State) (k d : Nat) : Tick :=
  let x := s.die d
  if (s.part k).run.frozenDies.contains d then x.axis + (x.tick - x.feTick) else x.axis

/-- Layover `w` brakes on die `d` and its hold has not been released (10 R295, R300, R302, R305). -/
def State.brakesNow (s : State) (k d w : Nat) : Bool :=
  match (s.die d).layRec w with
  | none => false
  | some r => (r.braking || r.releaseAt.isSome) && r.judged &&
    (s.brakeHolds k).any (fun h => Tick.le h.start r.closeAt && (match h.release with
      | none => true
      | some t => (h.waits || !(Tick.le t (s.die d).axis)) && Tick.le r.closeAt t))

/-- The hold of a brake of the opening is under way on the die (10 R300, R305). -/
def Die.underHold (x : Die) (r : LayRec) : Bool :=
  decide (x.heldAt = x.atk + 1) && decide (x.held ≠ 0) && !x.holdDone && (match r.closed with
    | none => false
    | some c => Tick.lt c (x.atk + 1) && Tick.le (x.atk + 1) (c + 32))

/-- The status that POST returns (08 R258), in the order of its codes: 0 ON_TIME, 1 PENDING, 2 LATE, 3 REFUSED. -/
inductive PostStatus
  | onTime | pending | late | refused
  deriving DecidableEq, Repr

/-- A POST of `v` for layover `w` reaches slot `i` of die `d` (10 R297). -/
def Die.takePost (x : Die) (ls : SMap LayDesc) (d w i : Nat) (v : Word) : Die × PostStatus :=
  match layOf ls w with
  | none => (x, .refused)
  | some l =>
    if !(l.dies.getLsbD d) || !(l.slots.getLsbD i) then (x, .refused)
    else
      let now := x.atk
      let slot := x.post.get i {}
      let hold := fun (_ : Unit) =>
        if (x.holders.find? (fun e => e.1 == i)).isNone then
          ({ x with holders := x.holders.set i (v, w) }, PostStatus.pending)
        else (x, .refused)
      match x.layRec w with
      | none => hold ()
      | some r =>
        if x.isOpen now w && !r.judged then
          if slot.v && decide (slot.lid = w) then (x, .refused)
          else (x.putSlot i { slot with value := v, v := true, lid := w }, .onTime)
        else if r.braking && !slot.v then
          (x.putSlot i { value := v, v := true, late := true, lid := w, pend := slot.pend }, .late)
        else if r.unsettled l now then (x, .late)
        else hold ()

/-- POSTRD and POSTV are illegal for slot `i` in this cycle (04 R131). DESIGN CHOICE (log 88): a layover closes its slots to them also
on a die that its DIES does not name, where it opens; there it neither arms nor judges them. -/
def Die.slotClosed (x : Die) (ls : SMap LayDesc) (i : Nat) : Bool :=
  ls.any (fun e => e.2.slots.getLsbD i &&
    (x.isOpen x.atk e.1 || x.opening.contains e.1 ||
      (e.2.brake && (match x.layRec e.1 with
        | some r => (match r.closed with
          | some c => !(Tick.le (c + 32) x.atk)
          | none => true)
        | none => false))))

end Sys2Proof.Machine
end

