-- ==== Sys2Proof/Machine/CStream.lean ====
section
/-! DEFINITION. The meanings of the C stream's words but for the nest (04; 03 R73), and of IDLE in any stream. -/
namespace Sys2Proof.Machine

abbrev Out := Host.Outcome State Fault Refusal

/-- IDLE n: the next word may issue at + 1 + n (03 R72, R73). -/
def execIdle (w : BitVec 3) (n : BitVec 23) (s : State) : Out :=
  .next (s.timedTo (.idle w n) s.curStream [] [] 0 (s.atk + 1 + BitVec.ofNat 64 n.toNat) false id)

/-! ### Scalar integer words (04 R106 to R110) -/

/-- The upper half of a signed 128-bit product. -/
def mulHigh (a b : Word) : Word := BitVec.ofInt 64 (a.toInt * b.toInt / 2 ^ 64)
/-- The upper half of an unsigned 128-bit product. -/
def mulHighU (a b : Word) : Word := BitVec.ofNat 64 (a.toNat * b.toNat / 2 ^ 64)
/-- The smaller, signed. -/
def minS (a b : Word) : Word := if a.slt b then a else b
/-- The larger, signed. -/
def maxS (a b : Word) : Word := if a.slt b then b else a
/-- The smaller, unsigned. -/
def minU (a b : Word) : Word := if a.ult b then a else b
/-- The larger, unsigned. -/
def maxU (a b : Word) : Word := if a.ult b then b else a

/-- A word that writes s register `d` with `v` after `lat` cycles, reading `srcs`. -/
def State.toS (s : State) (i : Instr) (srcs : List RegRef) (d lat : Nat) (v : Word) : State :=
  s.timedPipe i .c srcs [] (fun now p => p.produce .c now lat (.sreg d v) 0)

/-- A register-register ALU word (04 R106). -/
def State.alu (s : State) (i : Instr) (d a b : BitVec 5) (lat : Nat) (f : Word → Word → Word) : State :=
  s.toS i [.s a.toNat, .s b.toNat] d.toNat lat (f (s.me.sreg a.toNat) (s.me.sreg b.toNat))

/-- ADD: sd := sa + sb (04 R106). -/
def execAdd (w : BitVec 3) (d a b : BitVec 5) (s : State) : Out := .next (s.alu (.add w d a b) d a b 1 (· + ·))
/-- SUB (04 R106). -/
def execSub (w : BitVec 3) (d a b : BitVec 5) (s : State) : Out := .next (s.alu (.sub w d a b) d a b 1 (· - ·))
/-- AND (04 R106). -/
def execAnd (w : BitVec 3) (d a b : BitVec 5) (s : State) : Out := .next (s.alu (.and w d a b) d a b 1 (· &&& ·))
/-- OR (04 R106). -/
def execOr (w : BitVec 3) (d a b : BitVec 5) (s : State) : Out := .next (s.alu (.or w d a b) d a b 1 (· ||| ·))
/-- XOR (04 R106). -/
def execXor (w : BitVec 3) (d a b : BitVec 5) (s : State) : Out := .next (s.alu (.xor w d a b) d a b 1 (· ^^^ ·))
/-- SHL by sb[5:0] (04 R106). -/
def execShl (w : BitVec 3) (d a b : BitVec 5) (s : State) : Out :=
  .next (s.alu (.shl w d a b) d a b 1 (fun x y => x <<< (y.toNat % 64)))
/-- SHR by sb[5:0], zero fill (04 R106). -/
def execShr (w : BitVec 3) (d a b : BitVec 5) (s : State) : Out :=
  .next (s.alu (.shr w d a b) d a b 1 (fun x y => x >>> (y.toNat % 64)))
/-- SRA by sb[5:0], sign fill (04 R106). -/
def execSra (w : BitVec 3) (d a b : BitVec 5) (s : State) : Out :=
  .next (s.alu (.sra w d a b) d a b 1 (fun x y => x.sshiftRight (y.toNat % 64)))
/-- MUL, readable after 3 cycles (04 R106, Table 4-1). -/
def execMul (w : BitVec 3) (d a b : BitVec 5) (s : State) : Out := .next (s.alu (.mul w d a b) d a b 3 (· * ·))
/-- MULH, signed (04 R106). -/
def execMulh (w : BitVec 3) (d a b : BitVec 5) (s : State) : Out := .next (s.alu (.mulh w d a b) d a b 3 mulHigh)
/-- MULHU, unsigned (04 R106). -/
def execMulhu (w : BitVec 3) (d a b : BitVec 5) (s : State) : Out := .next (s.alu (.mulhu w d a b) d a b 3 mulHighU)
/-- MIN, signed (04 R106). -/
def execMin (w : BitVec 3) (d a b : BitVec 5) (s : State) : Out := .next (s.alu (.min w d a b) d a b 1 minS)
/-- MAX, signed (04 R106). -/
def execMax (w : BitVec 3) (d a b : BitVec 5) (s : State) : Out := .next (s.alu (.max w d a b) d a b 1 maxS)
/-- MINU (04 R106). -/
def execMinu (w : BitVec 3) (d a b : BitVec 5) (s : State) : Out := .next (s.alu (.minu w d a b) d a b 1 minU)
/-- MAXU (04 R106). -/
def execMaxu (w : BitVec 3) (d a b : BitVec 5) (s : State) : Out := .next (s.alu (.maxu w d a b) d a b 1 maxU)

/-- An immediate word sd := F(sa, k) (04 R107). -/
def State.aluImm (s : State) (i : Instr) (d a : BitVec 5) (v : Word) : State :=
  s.toS i [.s a.toNat] d.toNat 1 v

/-- ADDI: imm13 sign-extended (04 R107). -/
def execAddi (w : BitVec 3) (d a : BitVec 5) (i : BitVec 13) (s : State) : Out :=
  .next (s.aluImm (.addi w d a i) d a (s.me.sreg a.toNat + i.signExtend 64))
/-- ANDI: imm13 zero-extended (04 R107). -/
def execAndi (w : BitVec 3) (d a : BitVec 5) (i : BitVec 13) (s : State) : Out :=
  .next (s.aluImm (.andi w d a i) d a (s.me.sreg a.toNat &&& i.setWidth 64))
/-- ORI (04 R107). -/
def execOri (w : BitVec 3) (d a : BitVec 5) (i : BitVec 13) (s : State) : Out :=
  .next (s.aluImm (.ori w d a i) d a (s.me.sreg a.toNat ||| i.setWidth 64))
/-- XORI (04 R107). -/
def execXori (w : BitVec 3) (d a : BitVec 5) (i : BitVec 13) (s : State) : Out :=
  .next (s.aluImm (.xori w d a i) d a (s.me.sreg a.toNat ^^^ i.setWidth 64))
/-- SHLI (04 R107). -/
def execShli (w : BitVec 3) (d a : BitVec 5) (i : BitVec 6) (s : State) : Out :=
  .next (s.aluImm (.shli w d a i) d a (s.me.sreg a.toNat <<< i.toNat))
/-- SHRI (04 R107). -/
def execShri (w : BitVec 3) (d a : BitVec 5) (i : BitVec 6) (s : State) : Out :=
  .next (s.aluImm (.shri w d a i) d a (s.me.sreg a.toNat >>> i.toNat))
/-- SRAI (04 R107). -/
def execSrai (w : BitVec 3) (d a : BitVec 5) (i : BitVec 6) (s : State) : Out :=
  .next (s.aluImm (.srai w d a i) d a ((s.me.sreg a.toNat).sshiftRight i.toNat))
/-- LI: imm18 sign-extended (04 R108). -/
def execLi (w : BitVec 3) (d : BitVec 5) (i : BitVec 18) (s : State) : Out :=
  .next (s.toS (.li w d i) [] d.toNat 1 (i.signExtend 64))
/-- LUI: sd := (sd << 18) | imm18, reading sd (04 R108). -/
def execLui (w : BitVec 3) (d : BitVec 5) (i : BitVec 18) (s : State) : Out :=
  .next (s.toS (.lui w d i) [.s d.toNat] d.toNat 1 ((s.me.sreg d.toNat <<< 18) ||| i.setWidth 64))

/-- A word that writes predicate `d`. -/
def State.toP (s : State) (i : Instr) (srcs : List RegRef) (chk : List Det) (d : BitVec 3) (v : Bool) : State :=
  s.timedPipe i .c srcs chk (fun now p => p.produce .c now 1 (.preg d.toNat v) 0)

/-- CMP.cond pd, sa, sb (04 R109). -/
def execCmp (w p : BitVec 3) (a b : BitVec 5) (c : BitVec 3) (s : State) : Out :=
  .next (s.toP (.cmp w p a b c) [.s a.toNat, .s b.toNat] [] p
    (condHolds c.toNat (s.me.sreg a.toNat) (s.me.sreg b.toNat)))
/-- CMPI.cond pd, sa, imm12 sign-extended (04 R109). -/
def execCmpi (w p : BitVec 3) (a : BitVec 5) (c : BitVec 3) (i : BitVec 12) (s : State) : Out :=
  .next (s.toP (.cmpi w p a c i) [.s a.toNat] [] p (condHolds c.toNat (s.me.sreg a.toNat) (i.signExtend 64)))
/-- SEL: sd := sa if p = 1, else sb (04 R110). -/
def execSel (w : BitVec 3) (d a b : BitVec 5) (p : BitVec 3) (s : State) : Out :=
  .next (s.toS (.sel w d a b p) [.s a.toNat, .s b.toNat, .p p.toNat] d.toNat 1
    (if s.me.preg p.toNat then s.me.sreg a.toNat else s.me.sreg b.toNat))

/-! ### Scalar memory (04 R111, R112) -/

/-- The byte offset of LDS and STS: sa + imm13 × 8 modulo 2^64. -/
def ldsAddr (base : Word) (i : BitVec 13) : Nat := (base + i.signExtend 64 * 8).toNat

/-- The failures of an LDS or STS at offset `a`: misaligned or out of range, and in a reserved bank (04 R111; 09 R288). -/
def State.ldsFails (s : State) (a : Nat) : List Det :=
  s.fails (decide (a % 8 ≠ 0) || decide (tensorSize ≤ a)) .c causeIllOp 0 0 ++
  (if tensorSize ≤ a then [] else s.bankSlips s.curPipe 0 s.me.c.pc a 8)

/-- LDS: 8 bytes of the memory state at the start of the cycle, readable after 6 cycles (04 R111; 05 R149). -/
def execLds (w : BitVec 3) (d a : BitVec 5) (i : BitVec 13) (s : State) : Out :=
  let o := ldsAddr (s.me.sreg a.toNat) i
  let chk := s.ldsFails o ++ s.eccSlips s.curPipe 0 s.me.c.pc o 8
  .next (s.timedPipe (.lds w d a i) .c [.s a.toNat] chk (fun now p =>
    { p.produce .c now 6 (.sreg d.toNat (p.mem.sram.word o)) 0 with cyc := { p.cyc with rd := p.cyc.rd + 8 } }))

/-- STS: 8 bytes written at the end of the issue cycle (04 R112). -/
def execSts (w : BitVec 3) (d a : BitVec 5) (i : BitVec 13) (s : State) : Out :=
  let o := ldsAddr (s.me.sreg a.toNat) i
  .next (s.timedPipe (.sts w d a i) .c [.s d.toNat, .s a.toNat] (s.ldsFails o) (fun now p =>
    { p with fly := { p.fly with writes := p.fly.writes ++
        [{ at_ := now, cls := 6, addr := o, bytes := toBytes 8 (p.sreg d.toNat).toNat, pc := p.c.pc }] } }))

/-! ### Branches, calls and loops (04 R114 to R119) -/

/-- The pipeline after stream `k` branches to `t`, with its road book entry (19 R428). -/
def Pipe.jump (p : Pipe) (k : StreamKind) (now : Tick) (t : Nat) : Pipe :=
  let q := p.note now 2 k t
  q.setSeq k ((q.seq k).branch now t)

/-- A branch word: `srcs` read, `slips` recorded without hindering it, `taken`, target `t`, and what else it does
where it is legal. A taken branch to an illegal target is an illegal word (03 R76; 04 R118); none of its conditions hides
another (09 R288). -/
def State.branchWord (s : State) (i : Instr) (k : StreamKind) (srcs : List RegRef) (slips : List Det)
    (taken : Bool) (off : BitVec 19) (eff : Pipe → Pipe) : State :=
  if i.wellFormed then
    let g := s.curPipe
    let now := s.atk
    let p := s.pipe g
    let t := branchTarget (p.seq k).pc off
    let ill := taken && (p.seq k).badTarget t
    let p1 := p.detect (p.scores k srcs ++ p.parityDets k srcs ++ (if ill then [p.wordDet k causeIllOp 0 0] else []) ++ slips)
    if p.parityIn srcs || ill then s.setPipe g (p1.afterWord k (now + 1) false)
    else
      let p2 := eff p1
      s.setPipe g (if taken then p2.jump k now t.toNat else p2.afterWord k (now + 1) false)
  else s.illegal k 0

/-- BR{.N}: taken if and only if p ^ N = 1 (04 R114). -/
def execBr (w p : BitVec 3) (n : BitVec 1) (i : BitVec 19) (s : State) : Out :=
  .next (s.branchWord (.br w p n i) .c [.p p.toNat] [] (s.me.preg p.toNat != decide (n = 1)) i id)

/-- Appending to bq, poppable from the next cycle; a full bq is a TOKEN slip (04 R122). -/
def Pipe.pushBq (p : Pipe) (now : Tick) (b : Bool) : Pipe :=
  if 16 ≤ p.q.bq.length then p else { p with q := { p.q with bq := qPush p.q.bq now 1 b } }

/-- BRP{.N}: BR that also writes the outcome into bq; a full bq slips and the branch still acts (04 R114). -/
def execBrp (w p : BitVec 3) (n : BitVec 1) (i : BitVec 19) (s : State) : Out :=
  let taken := s.me.preg p.toNat != decide (n = 1)
  let now := s.atk
  .next (s.branchWord (.brp w p n i) .c [.p p.toNat]
    (s.fails (decide (16 ≤ s.me.q.bq.length)) .c causeToken 27 0) taken i (fun q => q.pushBq now taken))

/-- CALL: pushes PC + 1 and branches; illegal with 8 entries pushed (04 R115). It may leave a loop body (R118). DESIGN CHOICE
(log 85): a CALL at word 16,383 pushes 16,384, which 14 bits cannot hold, and the RET that pops it is illegal. -/
def execCall (_w : BitVec 3) (i : BitVec 19) (s : State) : Out :=
  let p := s.me
  let t := branchTarget p.c.pc i
  if t < 0 ∨ 16383 < t ∨ 8 ≤ p.c.rets.length then .next (s.illegal .c 0)
  else
    .next (s.setPipe s.curPipe
      ({ p with c := { p.c with rets := (p.c.pc + 1) :: p.c.rets } }.jump .c s.atk t.toNat))

/-- RET: pops an entry and branches to it; illegal with none (04 R115), or where the entry lies past word 16,383
(03 R76). -/
def execRet (_w : BitVec 3) (s : State) : Out :=
  let p := s.me
  match p.c.rets with
  | [] => .next (s.illegal .c 0)
  | t :: rest =>
    if 16383 < t then .next (s.illegal .c 0)
    else .next (s.setPipe s.curPipe ({ p with c := { p.c with rets := rest } }.jump .c s.atk t))

/-- LSPAN: loads the span register (04 R116). -/
def execLspan (w : BitVec 3) (n : BitVec 23) (s : State) : Out :=
  .next (s.timedTo (.lspan w n) .c [] [] 0 (s.atk + 1) true
    (fun t => t.onPipe s.curPipe (fun p => { p with c := { p.c with span := n.toNat } })))

/-- A legal loop word enters its body with this trip count (04 R117); none of its conditions hides another (09 R288). -/
def State.loopWord (s : State) (i : Instr) (k : StreamKind) (srcs : List RegRef) (slips : List Det)
    (len most trips : Nat) (eff : Pipe → Pipe) : State :=
  let p := s.me
  if i.wellFormed then
    let ill := (p.seq k).badLoop len
    let p1 := p.detect (p.scores k srcs ++ p.parityDets k srcs ++ (if ill then [p.wordDet k causeIllOp 0 0] else []) ++ slips)
    if p.parityIn srcs || ill then s.setPipe s.curPipe (p1.afterWord k (s.atk + 1) false)
    else
      let p2 := eff p1
      s.setPipe s.curPipe (p2.setSeq k ((p2.seq k).enter s.atk (Nat.min trips most) len most))
  else s.illegal k 0

/-- LOOP sa, endlabel, max (04 R117 to R119). -/
def execLoop (w : BitVec 3) (a : BitVec 5) (l m : BitVec 9) (s : State) : Out :=
  .next (s.loopWord (.loop w a l m) .c [.s a.toNat] [] l.toNat m.toNat (s.me.sreg a.toNat).toNat id)

/-! ### Tokens and scalar queues (04 R120 to R122) -/

/-- GIVE: judged on the count at the start of the cycle (01 R23, R24). -/
def State.give (s : State) (i : Instr) (k : StreamKind) (q : BitVec 4) (c : BitVec 6) : State :=
  s.timedPipe i k [] (s.fails (decide (63 < s.me.tokens q.toNat + c.toNat)) k causeToken q.toNat 0)
    (fun _ p => p.giveTokens q.toNat c.toNat)

/-- TAKE: cannot use a token given in the same cycle (01 R24). -/
def State.take (s : State) (i : Instr) (k : StreamKind) (q : BitVec 4) (c : BitVec 6) : State :=
  s.timedPipe i k [] (s.fails (decide (s.me.tokens q.toNat < c.toNat)) k causeToken q.toNat 0)
    (fun _ p => p.giveTokens q.toNat (-(c.toNat : Int)))

/-- GIVE in C (04 R120). -/
def execCGive (w : BitVec 3) (q : BitVec 4) (c : BitVec 6) (s : State) : Out := .next (s.give (.cGive w q c) .c q c)
/-- TAKE in C (04 R120). -/
def execCTake (w : BitVec 3) (q : BitVec 4) (c : BitVec 6) (s : State) : Out := .next (s.take (.cTake w q c) .c q c)

/-- Scalar queue `t`: 0 ql, 1 qx, 2 qs. -/
def Pipe.squeue (p : Pipe) (t : Nat) : List (QEntry Word) :=
  match t with
  | 0 => p.q.ql | 1 => p.q.qx | _ => p.q.qs

/-- The pipeline with scalar queue `t` set. -/
def Pipe.setSq (p : Pipe) (t : Nat) (q : List (QEntry Word)) : Pipe :=
  match t with
  | 0 => { p with q := { p.q with ql := q } }
  | 1 => { p with q := { p.q with qx := q } }
  | _ => { p with q := { p.q with qs := q } }

/-- SQW: appends sa to ql, qx or qs, readable from the next cycle; a full queue slips (04 R121). -/
def execSqw (w : BitVec 3) (t : BitVec 2) (a : BitVec 5) (s : State) : Out :=
  .next (s.timedPipe (.sqw w t a) .c [.s a.toNat]
    (s.fails (decide (8 ≤ (s.me.squeue t.toNat).length)) .c causeToken (24 + t.toNat) 0)
    (fun now p => p.setSq t.toNat (qPush (p.squeue t.toNat) now 1 (p.sreg a.toNat))))

/-- BQW{.N}: appends p ^ N to bq (04 R122). -/
def execBqw (w p : BitVec 3) (n : BitVec 1) (s : State) : Out :=
  .next (s.timedPipe (.bqw w p n) .c [.p p.toNat]
    (s.fails (decide (16 ≤ s.me.q.bq.length)) .c causeToken 27 0)
    (fun now q => q.pushBq now (q.preg p.toNat != decide (n = 1))))

/-! ### Alignment, stages, layovers and posts (04 R123 to R131) -/

/-- ALIGN: starts an alignment of the die at the end of the cycle (04 R124, R125). -/
def execAlign (w : BitVec 3) (n : BitVec 23) (s : State) : Out :=
  .next (s.timed (.align w n) .c [] [] (fun t => t.onDie (dieOfPipe s.curPipe) (fun x =>
    { x with aligns := x.aligns ++ [{ limit := n.toNat, held := 0, pipe := s.curPipe, pc := s.me.c.pc }] })))

/-- STAGE: the j-th that the pipeline issues names the j-th occurrence of the table and issues at its τ (09 R274); an illegal one
issues too, and counts (03 R74). Road book entry (19 R428). A freeze request that waits for a stage is detected at the end of
the cycle (04 R127; 19 R414; 20 R433). Turnpike delays precede its cycle. -/
def execStage (w : BitVec 3) (n : BitVec 23) (s : State) : Out :=
  let run := (s.part s.curPart).run
  let t := run.tau s.atk
  let ok := match stageAt run.stages t with
    | none => false
    | some e => decide (e.n = n.toNat) && decide (stagesBefore run.stages t = s.me.stages)
  let s1 := s.timedPipe (.stage w n) .c [] (s.fails (!ok) .c causeIllOp 0 n.toNat) (fun now p =>
    { p.note now 0 .c n.toNat with cyc := { p.cyc with stage := true } })
  .next (s1.onPipe s.curPipe (fun p => { p with stages := p.stages + 1 }))

/-- WOPEN w (04 R128; 10 R293). Another pipeline's WOPEN of the same cycle opens the layover once. -/
def execWopen (w : BitVec 3) (l : BitVec 6) (s : State) : Out :=
  let d := dieOfPipe s.curPipe
  let x := s.die d
  let ls := s.lays s.curPart
  let joins := match x.layRec l.toNat with
    | none => false
    | some r => decide (r.opened = x.atk) && r.closed.isNone
  .next (s.timed (.wopen w l) .c [] (s.fails (!joins && wopenBad ls x x.atk l.toNat) .c causeIllOp 0 0) (fun t =>
    if joins then t
    else match layOf ls l.toNat with
      | none => t
      | some ld => t.openLay d l.toNat ld))

/-- WCLOSE w (04 R129). Its posts are judged at the end of the cycle (10 R299). -/
def execWclose (w : BitVec 3) (l : BitVec 6) (s : State) : Out :=
  let d := dieOfPipe s.curPipe
  let x := s.die d
  .next (s.timed (.wclose w l) .c [] (s.fails (!(x.isOpen x.atk l.toNat)) .c causeIllOp 0 0) (fun t =>
    match layOf (s.lays s.curPart) l.toNat with
    | none => t
    | some ld => t.onDie d (fun x => x.closeLay l.toNat (s.curPipe % 32) s.me.c.pc ld)))

/-- POSTRD sd, slot: VALUE, readable after 2 cycles (04 R130, R131). INFO of a damaged slot, which the spec does not give, is a
free value (23 R463; log 2). -/
def execPostrd (w : BitVec 3) (d : BitVec 5) (i : BitVec 6) (s : State) : Out :=
  let x := s.die (dieOfPipe s.curPipe)
  .next (s.timedPipe (.postrd w d i) .c []
    (s.fails (x.slotClosed (s.lays s.curPart) i.toNat) .c causeIllOp 0 0 ++
      s.fails (x.badPost.contains i.toNat) .c causeEcc 0 (Config.freeNat s.free))
    (fun now p => p.produce .c now 2 (.sreg d.toNat (x.post.get i.toNat {}).value) 0))

/-- POSTV pd, slot: V, readable after 1 cycle (04 R130, R131). -/
def execPostv (w p : BitVec 3) (i : BitVec 6) (s : State) : Out :=
  let x := s.die (dieOfPipe s.curPipe)
  .next (s.toP (.postv w p i) [] (s.fails (x.slotClosed (s.lays s.curPart) i.toNat) .c causeIllOp 0 0) p
    (x.post.get i.toNat {}).v)

/-! ### Control registers (04 R134 to R139) -/

/-- The value of timed control register `c` at the start of the cycle (03 Table 3-6; 04 Tables 4-6 to 4-14). -/
def csrValue (x : Die) (p : Pipe) (c : Nat) : Word :=
  match c with
  | 0 => p.csr.tpctl.setWidth 64
  | 1 => p.csr.seedLo.setWidth 64
  | 2 => p.csr.seedHi.setWidth 64
  | 3 => (p.csr.seat.setWidth 64 <<< 48) ||| (p.csr.cbase + p.csr.elem).setWidth 64
  | 4 => p.csr.histCtl.setWidth 64
  | 5 => p.csr.fflags.setWidth 64
  | 8 => x.tick
  | 9 => x.atk
  | 0xA => x.absorbed
  | 0xB => p.csr.faultInfo
  | n => (p.csr.mcgroup.get (n - 0x10) 0).setWidth 64

/-- CSRR sd, NAME: readable after 2 cycles (04 R134). -/
def execCsrr (w : BitVec 3) (d : BitVec 5) (c : BitVec 12) (s : State) : Out :=
  .next (s.timedPipe (.csrr w d c) .c [] [] (fun now p =>
    p.produce .c now 2 (.sreg d.toNat (csrValue (s.die (dieOfPipe s.curPipe)) p c.toNat)) 0))

/-- CSRW NAME, s: written at the end of the cycle (04 R134). -/
def execCsrw (w : BitVec 3) (r : BitVec 5) (c : BitVec 12) (s : State) : Out :=
  .next (s.timedPipe (.csrw w r c) .c [.s r.toNat] [] (fun _ p =>
    { p with cyc := { p.cyc with csrw := some (c.toNat, p.sreg r.toNat) } }))

/-- TICK sd: readable after 2 cycles (04 R135). -/
def execTick (w : BitVec 3) (d : BitVec 5) (s : State) : Out :=
  .next (s.timedPipe (.tick w d) .c [] [] (fun now p =>
    p.produce .c now 2 (.sreg d.toNat (s.die (dieOfPipe s.curPipe)).tick) 0))

/-- MARK tag: a road book entry; tag bit 22 triggers the book (04 R136; 19 R429). -/
def execMark (w : BitVec 3) (n : BitVec 23) (s : State) : Out :=
  .next (s.timedPipe (.mark w n) .c [] [] (fun now p =>
    let q := p.note now 1 .c n.toNat
    if n.getLsbD 22 then { q with book := q.book.trigger } else q))

/-- TRAPC code: a freeze of cause TRAPC (04 R137). -/
def execTrapc (w : BitVec 3) (c : BitVec 8) (s : State) : Out :=
  .next (s.timed (.trapc w c) .c [] (s.fails true .c causeTrapc 0 c.toNat) id)

/-- FREEZE: a freeze of cause TRAPC with INFO[8] = 1 (04 R137). -/
def execFreeze (w : BitVec 3) (s : State) : Out :=
  .next (s.timed (.freeze w) .c [] (s.fails true .c causeTrapc 0 256) id)

/-- HALT: no word of the pipeline issues from the next cycle on (04 R138). -/
def execHalt (w : BitVec 3) (s : State) : Out :=
  .next (s.timedPipe (.halt w) .c [] [] (fun _ p =>
    { p with halted := true, c := { p.c with run := false }, l := { p.l with run := false },
             x := { p.x with run := false }, s := { p.s with run := false } }))

end Sys2Proof.Machine
end

