-- ==== Sys2Proof/Machine/LStream.lean ====
section
/-! DEFINITION. The meanings of the L stream's words but for TLBP (05 R145 to R162), and the operations it shares
with the S stream. -/
namespace Sys2Proof.Machine

/-! ### Stream registers -/

/-- The failures of a tensor SRAM offset that must be a multiple of `al` and below 0x60_0000, and of its banks; neither
hides the other (09 R288). -/
def State.offFails (s : State) (k : StreamKind) (o al n : Nat) : List Det :=
  s.fails (decide (o % al ≠ 0) || decide (tensorSize ≤ o)) k causeIllOp 0 0 ++
  (if tensorSize ≤ o then [] else s.bankSlips s.curPipe k.num (s.me.seq k).pc o n)

/-- The pipeline with `n` bytes charged to the read port by an L word (05 R149). -/
def Pipe.chargeL (p : Pipe) (n : Nat) : Pipe := { p with cyc := { p.cyc with rd := p.cyc.rd + n, rdPc := p.l.pc } }
/-- The pipeline with `n` bytes charged to the read port by another word. -/
def Pipe.charge (p : Pipe) (n : Nat) : Pipe := { p with cyc := { p.cyc with rd := p.cyc.rd + n } }

/-- SCFG: reads 64 bytes; the stream register takes the descriptor 8 cycles later (05 R145). -/
def State.scfg (s : State) (i : Instr) (k : StreamKind) (src : RegRef) (st : Nat) (base : Word) (imm : BitVec 15) : State :=
  let o := (base + imm.signExtend 64 * 64).toNat
  let chk := s.offFails k o 64 64 ++ s.eccSlips s.curPipe k.num (s.me.seq k).pc o 64
  s.timedPipe i k [src] chk (fun now p =>
    let q := p.produce k now 8 (.scfg st o (p.mem.sram.words o 8) (p.seq k).pc) 0
    if k = .l then q.chargeL 64 else q.charge 64)

/-- A word that moves a stream register's position: illegal before the first descriptor (01 R39), SCORE while an
SCFG is in flight (05 R145). -/
def State.movePos (s : State) (i : Instr) (k : StreamKind) (st : Nat) (f : Desc → Nat → Nat) : State :=
  s.timedPipe i k [.st st] (s.fails ((s.me.streg st).desc.isNone) k causeIllOp 0 0) (fun _ p =>
    let r := p.streg st
    match r.desc with
    | none => p
    | some d => p.setSt st { r with p := f d r.p })

/-- P + imm modulo TOT (05 R146). -/
def sadvPos (imm : BitVec 15) (d : Desc) (p : Nat) : Nat := (((p : Int) + imm.toInt) % (d.tot : Int)).toNat
/-- The start of the next level-0 run (05 R146). -/
def boutPos (d : Desc) (p : Nat) : Nat := if p % d.cnt 0 = 0 then p else (p / d.cnt 0 + 1) * d.cnt 0 % d.tot

/-- SCFG in L (05 R145). -/
def execLScfg (w : BitVec 3) (st a : BitVec 4) (i : BitVec 15) (s : State) : Out :=
  .next (s.scfg (.lScfg w st a i) .l (.a a.toNat) st.toNat (s.me.areg a.toNat) i)
/-- SADV in L (05 R146). -/
def execLSadv (w : BitVec 3) (st : BitVec 4) (i : BitVec 15) (s : State) : Out :=
  .next (s.movePos (.lSadv w st i) .l st.toNat (sadvPos i))
/-- BOUT (05 R146). -/
def execBout (w : BitVec 3) (st : BitVec 4) (s : State) : Out :=
  .next (s.movePos (.bout w st) .l st.toNat boutPos)

/-- A word that writes an a register, readable after 1 cycle (05 R147). -/
def State.toA (s : State) (i : Instr) (srcs : List RegRef) (d : BitVec 4) (v : Word) : State :=
  s.timedPipe i .l srcs [] (fun now p => p.produce .l now 1 (.areg d.toNat v) 0)

/-- AADD (05 R147). -/
def execAadd (w : BitVec 3) (d a b : BitVec 4) (s : State) : Out :=
  .next (s.toA (.aadd w d a b) [.a a.toNat, .a b.toNat] d (s.me.areg a.toNat + s.me.areg b.toNat))
/-- AADDI (05 R147). -/
def execAaddi (w : BitVec 3) (d a : BitVec 4) (i : BitVec 15) (s : State) : Out :=
  .next (s.toA (.aaddi w d a i) [.a a.toNat] d (s.me.areg a.toNat + i.signExtend 64))
/-- ALI (05 R147). -/
def execAli (w : BitVec 3) (d : BitVec 4) (i : BitVec 19) (s : State) : Out :=
  .next (s.toA (.ali w d i) [] d (i.signExtend 64))

/-- SQR pops the head of scalar queue `t` into a register; an empty queue slips (05 R147). -/
def State.sqr (s : State) (i : Instr) (k : StreamKind) (t : Nat) (r : Word → Result) : State :=
  s.timedPipe i k [] (s.popSlips k (s.me.squeue t) (24 + t)) (fun now p =>
    match qHead (p.squeue t) now with
    | none => p
    | some v => (p.setSq t (p.squeue t).tail).produce k now 1 (r v) 0)

/-- SQR in L (05 R147). -/
def execLSqr (w : BitVec 3) (d : BitVec 4) (s : State) : Out :=
  .next (s.sqr (.lSqr w d) .l 0 (fun v => .areg d.toNat v))

/-- GIVE in L (05 R148). -/
def execLGive (w : BitVec 3) (q : BitVec 4) (c : BitVec 6) (s : State) : Out := .next (s.give (.lGive w q c) .l q c)
/-- TAKE in L (05 R148). -/
def execLTake (w : BitVec 3) (q : BitVec 4) (c : BitVec 6) (s : State) : Out := .next (s.take (.lTake w q c) .l q c)

/-! ### LDQ (05 R152, R153; 02 R61 to R63; 18 R394, R395) -/

/-- The format of a code that a valid descriptor holds. -/
def fmtOf (c : Nat) : Fmt := (Fmt.ofCode c).getD .fp32

/-- Elements of the queue word: 2048 / width(QFMT). -/
def Desc.lanes (d : Desc) : Nat := 2048 / (fmtOf d.qfmt).bits
/-- Memory bytes of one access. -/
def Desc.accBytes (d : Desc) : Nat := d.lanes * (fmtOf d.fmt).bits / 8
/-- The K index of element 0 of the access at position `p`. -/
def Desc.k0 (d : Desc) (p : Nat) : Nat := (d.index p).1 * d.lanes

/-- The scale word offsets that an LDQ at position `p` reads, one per block (05 R143). -/
def Desc.scaleOffs (d : Desc) (p : Nat) : List Int :=
  if d.scl then
    let b0 := d.k0 p / blockLen d.blk
    let b1 := (d.k0 p + d.lanes - 1) / blockLen d.blk
    (List.range (b1 - b0 + 1)).map (fun i => (d.sbase : Int) + d.scaleRow p * d.srow + ((b0 + i : Nat) : Int) * 4)
  else []

/-- The bytes of a KV16 block that token `t`, head `h` needs, as offsets in the block (18 Table 18-2): codes, scales, count,
outliers. -/
def kvParts (kv t h cnt : Nat) : List (Nat × Nat) :=
  let codes := (if kv = 1 then 0x100 else 0x4100) + (t * 16 + h) * 64
  let scales := if kv = 1 then (0x8100 + 2 * (h * 128), 256) else (0x9100 + 2 * (t * 16 + h), 2)
  [(codes, 64), scales, ((if kv = 1 then 0x10 else 0x20) + h, 1), ((if kv = 1 then 0x9300 else 0x9B00) + 128 * h, 4 * cnt)]

/-- The offset of byte `n` of a block at `base`. -/
def kvAt (base : Int) (n : Nat) : Nat := (base + n).toNat

/-- The count of a head's outlier list; above 32 is taken as 32 (18 R395). -/
def kvCount (m : Memory) (kv : Nat) (base : Int) (h : Nat) : Nat :=
  Nat.min 32 (m.read (kvAt base ((if kv = 1 then 0x10 else 0x20) + h))).toNat

/-- The values of a list's outliers for token `t` and channel `c`, in list order (05 R153). -/
def kvOutliers (m : Memory) (kv : Nat) (base : Int) (t h c : Nat) : List Nat :=
  ((List.range (kvCount m kv base h)).map (fun j =>
    m.readLE (kvAt base ((if kv = 1 then 0x9300 else 0x9B00) + 128 * h + 4 * j)) 4)).filterMap (fun e =>
      if e / 2 ^ 16 % 2 ^ 7 = c ∧ e / 2 ^ 24 % 2 ^ 4 = t then some (e % 2 ^ 16) else none)

/-- Lane `c` of a KV16 token (05 R153): the code times its scale, then each outlier that replaces it; every Round raises its
flags. -/
def kvLane (m : Memory) (kv : Nat) (base : Int) (t h c : Nat) : FRes :=
  let idx := (t * 16 + h) * 128 + c
  let code := (m.read (kvAt base ((if kv = 1 then 0x100 else 0x4100) + idx / 2))).toNat / 16 ^ (idx % 2) % 16
  let sc := m.readLE (kvAt base (if kv = 1 then 0x8100 + 2 * (h * 128 + c) else 0x9100 + 2 * (t * 16 + h))) 2
  let x := xmul (Fmt.int4.decode code) (Fmt.fp16.decode sc)
  let r := roundX x.val .bf16 .rne 0
  (kvOutliers m kv base t h c).foldl (fun (y : FRes) v =>
    let o := roundX (Fmt.fp16.decode v) .bf16 .rne 0
    ⟨o.bits, y.flags ||| o.flags ||| snanFlag .fp16 v⟩) ⟨r.bits, r.flags ||| snanFlag .fp16 sc ||| flagIf x.nv flagNV⟩

/-- Element `e` of an LDQ without KV (05 R152): the exact value, scaled, rounded once to QFMT. -/
def ldqElem (p : Pipe) (d : Desc) (a : Nat) (pos e : Nat) : FRes :=
  let f := fmtOf d.fmt
  let m := p.mem.sram
  let b := if f.bits < 8 then (m.read (a + e / 2)).toNat / 16 ^ (e % 2) % 16 else m.readLE (a + e * (f.bits / 8)) (f.bits / 8)
  let (x, fl) := valueOf f (p.cbreg d.cbr) b
  let y : XRes := if d.scl then
      xmul x (Fmt.fp32.decode (m.readLE (scaleAddr d.sbase d.srow d.blk (d.scaleRow pos) (d.k0 pos + e)).toNat 4))
    else ⟨x, false⟩
  let r := roundX y.val (fmtOf d.qfmt) .rne 0
  ⟨r.bits, r.flags ||| fl ||| flagIf y.nv flagNV⟩

/-- The first byte of the KV16 block of position `pos` (05 R153). -/
def Desc.kvBase (d : Desc) (pos : Nat) : Int := (d.base : Int) + (d.index pos).2.2 * d.str 2

/-- The byte ranges of tensor SRAM that an LDQ reads, scale words last; an outlier list with no entry is none (05 R149, R152,
R153). -/
def ldqSpans (p : Pipe) (d : Desc) (pos : Nat) : List (Int × Nat) :=
  if d.kv = 0 then
    (if d.kind = 1 then [] else [(d.addr pos, d.accBytes)]) ++ (d.scaleOffs pos).map (fun o => (o, 4))
  else
    let b := d.kvBase pos
    ((kvParts d.kv (d.index pos).1 (d.index pos).2.1 (kvCount p.mem.sram d.kv b (d.index pos).2.1)).filter
      (fun e => decide (e.2 ≠ 0))).map (fun e => (b + e.1, e.2))

/-- Those ranges that lie within tensor SRAM. -/
def ldqRanges (p : Pipe) (d : Desc) (pos : Nat) : List (Nat × Nat) :=
  ((ldqSpans p d pos).filter (fun e => inTensor e.1 e.2)).map (fun e => (e.1.toNat, e.2))

/-- The LDQ is illegal (05 R142, R152): HBM stream, FP64, too many bytes, or a byte that it reads out of bounds. -/
def ldqBad (p : Pipe) (d : Desc) (pos : Nat) : Bool :=
  decide (d.kind = 1) || decide (d.fmt = 9) ||
  (if d.kv = 0 then decide (512 < d.accBytes) || decide (d.addr pos % (fmtAlign (fmtOf d.fmt) : Int) ≠ 0) else false) ||
  (ldqSpans p d pos).any (fun e => !(inTensor e.1 e.2))

/-- The first invalid scale word of an LDQ, as a SCALE fault (02 R62). DESIGN CHOICE (log 63): among several, INFO names that
of the lowest block. -/
def State.scaleFails (s : State) (k : StreamKind) (offs : List Int) : List Det :=
  match offs.find? (fun o => inTensor o 4 && !(scaleValid (BitVec.ofNat 32 (s.me.mem.sram.readLE o.toNat 4)))) with
  | none => []
  | some o => [s.me.wordDet k causeScale 0 o.toNat]

/-- LDQ dq, st (05 R152, R153). -/
def execLdq (w q : BitVec 3) (st : BitVec 4) (s : State) : Out :=
  let i : Instr := .ldq w q st
  let p := s.me
  let r := p.streg st.toNat
  let full := s.fails (decide (16 ≤ (p.dqueue q.toNat).length)) .l causeToken (16 + q.toNat) 0
  match r.desc with
  | none => .next (s.timed i .l [.st st.toNat] (s.fails true .l causeIllOp 0 0 ++ full) id)
  | some d =>
    let rs := ldqRanges p d r.p
    let acc := rs.flatMap (fun x => s.bankSlips s.curPipe 1 p.l.pc x.1 x.2 ++ s.eccSlips s.curPipe 1 p.l.pc x.1 x.2)
    let chk := s.fails (ldqBad p d r.p) .l causeIllOp 0 0 ++ full ++ acc ++ s.scaleFails .l (d.scaleOffs r.p)
    let srcs := if d.fmt = 8 then [RegRef.st st.toNat, .cb d.cbr] else [.st st.toNat]
    .next (s.timedPipe i .l srcs chk (fun now p =>
      let a := (d.addr r.p).toNat
      let f := fun e => if d.kv = 0 then ldqElem p d a r.p e
        else kvLane p.mem.sram d.kv (d.kvBase r.p) (d.index r.p).1 (d.index r.p).2.1 e
      let v := vecPack (fmtOf d.qfmt).bits d.lanes (fun e => (f e).bits)
      let p1 := p.setDq q.toNat (qPush (p.dqueue q.toNat) now 6 v)
      ((p1.produce .l now 6 .flags (flagsOf d.lanes (fun e => (f e).flags))).chargeL
        ((rs.map (fun x => x.2)).sum)).setSt st.toNat (r.advance d)))

/-! ### GATH, LDCB, LDCM (05 R154 to R156) -/

/-- GATH st, imm(a): reads 64 row indices now and eight rows in each of the next eight cycles (05 R154). -/
def execGath (w : BitVec 3) (st a : BitVec 4) (i : BitVec 15) (s : State) : Out :=
  let ins : Instr := .gath w st a i
  let p := s.me
  let r := p.streg st.toNat
  let o := (p.areg a.toNat + i.signExtend 64 * 256).toNat
  let srcs := [RegRef.st st.toNat, .a a.toNat]
  let vec := s.offFails .l o 256 256 ++ s.eccSlips s.curPipe 1 p.l.pc o 256
  match r.desc with
  | none => .next (s.timed ins .l srcs (s.fails true .l causeIllOp 0 0 ++ vec) id)
  | some d =>
    let bad := decide (d.kind = 1) || decide (d.addr r.p % (fmtAlign (fmtOf d.fmt) : Int) ≠ 0)
    let chk := s.fails bad .l causeIllOp 0 0 ++ vec
    .next (s.timedPipe ins .l srcs chk (fun now p =>
      let idx := (List.range 64).map (fun n => signedOf 32 (p.mem.sram.readLE (o + 4 * n) 4))
      let op : GathOp :=
        { issue := now, base := d.addr r.p, stride := d.str 1, idx := idx, rows := [], pc := p.l.pc }
      let q : Pipe := { p with fly := { p.fly with gath := p.fly.gath ++ [op] } }
      (q.chargeL 256).setSt st.toNat (r.advance d)))

/-- LDCB cb, (a): 32 bytes into a codebook after 6 cycles (05 R155). -/
def execLdcb (w : BitVec 3) (c : BitVec 2) (a : BitVec 4) (s : State) : Out :=
  let o := (s.me.areg a.toNat).toNat
  let chk := s.offFails .l o 32 32 ++ s.eccSlips s.curPipe 1 s.me.l.pc o 32
  .next (s.timedPipe (.ldcb w c a) .l [.a a.toNat] chk (fun now p =>
    (p.produce .l now 6 (.cb c.toNat (BitVec.ofNat 256 (p.mem.sram.readLE o 32))) 0).chargeL 32))

/-- LDCM table, (a): a coefficient image of the resident bank, held from issue + 256 (05 R156). -/
def execLdcm (w : BitVec 3) (t a : BitVec 4) (s : State) : Out :=
  let n := (s.me.areg a.toNat).toNat
  let img := ((s.part s.curPart).run.cmem.find? (fun e => e.1 == n)).map (fun e => e.2)
  .next (s.timedPipe (.ldcm w t a) .l [.a a.toNat] (s.fails (img.isNone || decide (15 < n)) .l causeIllOp 0 0)
    (fun now p => p.produce .l now 256 (.coef t.toNat (img.getD [])) 0))

/-! ### Timed HBM transfers (05 R157 to R163) -/

/-- The virtual page base of an address. -/
def pageOf (va : Nat) (big : Bool) : Nat := if big then va / 0x100000 * 0x100000 else va / 0x10000 * 0x10000

/-- A stream TLB entry covers an address. -/
def STlb.covers (e : STlb) (va : Nat) : Bool := e.valid && decide (e.page = pageOf va e.big)

/-- What a stream TLB lookup finds (05 R157): the entry to use, with NXT moved where it matched; a faulted entry;
or neither. -/
inductive Lookup
  | hit (e : STlb) (r : StreamReg)
  | faulted
  | miss
  deriving DecidableEq, Repr

/-- The lookup of the page of an access's first byte (05 R157). -/
def StreamReg.lookup (r : StreamReg) (va : Nat) : Lookup :=
  if r.cur.covers va then (if r.cur.faulted then .faulted else .hit r.cur r)
  else if r.nxt.covers va then
    (if r.nxt.faulted then .faulted else .hit r.nxt { r with cur := r.nxt, nxt := {} })
  else .miss

/-- The slot number of a cycle (05 R160). -/
def slotOf (t : Tick) : Nat := t.toNat / 20 % 16

/-- The pipeline whose stream `k` stops at `now`: it issues no further word before the freeze (05 R157; 19 R407). -/
def Pipe.stopStream (p : Pipe) (k : StreamKind) (now : Tick) : Pipe :=
  p.setSeq k { p.seq k with run := false, stop := some now }

/-- HLD and HST (05 R161, R162): `o` is the tensor offset, `extra` the failures of the tensor access of this
cycle. A stream TLB failure stops the stream, whatever else the word meets (09 R288). -/
def State.hbmWord (s : State) (i : Instr) (k : StreamKind) (src : RegRef) (st o : Nat) (load : Bool) (extra : List Det) : State :=
  let p := s.me
  let r := p.streg st
  match r.desc with
  | none => s.timed i k [.st st, src] (s.fails true k causeIllOp 0 0 ++ extra) id
  | some d =>
    let now := s.atk
    let va := (d.addr r.p).toNat
    let bad := decide (d.kind ≠ 1) || decide (o % 256 ≠ 0) || decide (tensorSize ≤ o) ||
      decide (d.addr r.p % 256 ≠ 0) || !(inPaged (d.addr r.p) 256) ||
      !((s.part s.curPart).tsmask.getLsbD (slotOf now))
    let chk := (if bad then s.fails true k causeIllOp 0 0 else []) ++ extra
    if decide (d.kind ≠ 1) || !(inPaged (d.addr r.p) 256) || !i.wellFormed then s.timed i k [.st st, src] chk id
    else match r.lookup va with
      | .hit e r' =>
        let bad8 := !load && !(s.eccSlips s.curPipe k.num (p.seq k).pc o 256).isEmpty
        s.timedPipe i k [.st st, src] chk (fun now p =>
          let pa := e.frame + (va - e.page)
          let data := if load then [] else (List.range 32).map (fun i => (i, p.mem.sram.word (o + 8 * i)))
          let op : HbmOp :=
            { isLoad := load, issue := now, pa := pa, off := o, data := data, bad := bad8, pc := (p.seq k).pc }
          let p1 := p.note now 4 k va
          let p2 := if load then p1 else p1.charge 256
          let q : Pipe := { p2 with fly := { p2.fly with hbm := p2.fly.hbm ++ [op] } }
          q.setSt st (r'.advance d))
      | .faulted =>
        (s.timed i k [.st st, src] (chk ++ s.fails true k causePage st (va % 2 ^ 32)) id).onPipe s.curPipe
          (fun p => (p.setSeq k (s.me.seq k)).stopStream k now)
      | .miss =>
        (s.timed i k [.st st, src] (chk ++ s.fails true k causeStlbMiss st (va % 2 ^ 32)) id).onPipe s.curPipe
          (fun p => (p.setSeq k (s.me.seq k)).stopStream k now)

/-- HLD st, imm(a) (05 R162). -/
def execHld (w : BitVec 3) (st a : BitVec 4) (i : BitVec 15) (s : State) : Out :=
  .next (s.hbmWord (.hld w st a i) .l (.a a.toNat) st.toNat (s.me.areg a.toNat + i.signExtend 64 * 256).toNat true [])

end Sys2Proof.Machine
end

