-- ==== Sys2Proof/Machine/SStream.lean ====
section
/-! DEFINITION. The meanings of the S stream's words but for TLBP (05 R145 to R148, R162 to R171), relay words and
the channels of the die boundaries (09 R275, R276). -/
namespace Sys2Proof.Machine

/-- SCFG in S (05 R145). -/
def execSScfg (w : BitVec 3) (st b : BitVec 4) (i : BitVec 15) (s : State) : Out :=
  .next (s.scfg (.sScfg w st b i) .s (.b b.toNat) st.toNat (s.me.breg b.toNat) i)
/-- SADV in S (05 R146). -/
def execSSadv (w : BitVec 3) (st : BitVec 4) (i : BitVec 15) (s : State) : Out :=
  .next (s.movePos (.sSadv w st i) .s st.toNat (sadvPos i))

/-- A word that writes a b register, readable after 1 cycle (05 R147). -/
def State.toB (s : State) (i : Instr) (srcs : List RegRef) (d : BitVec 4) (v : Word) : State :=
  s.timedPipe i .s srcs [] (fun now p => p.produce .s now 1 (.breg d.toNat v) 0)

/-- BADD (05 R147). -/
def execBadd (w : BitVec 3) (d a b : BitVec 4) (s : State) : Out :=
  .next (s.toB (.badd w d a b) [.b a.toNat, .b b.toNat] d (s.me.breg a.toNat + s.me.breg b.toNat))
/-- BADDI (05 R147). -/
def execBaddi (w : BitVec 3) (d a : BitVec 4) (i : BitVec 15) (s : State) : Out :=
  .next (s.toB (.baddi w d a i) [.b a.toNat] d (s.me.breg a.toNat + i.signExtend 64))
/-- BLI (05 R147). -/
def execBli (w : BitVec 3) (d : BitVec 4) (i : BitVec 19) (s : State) : Out :=
  .next (s.toB (.bli w d i) [] d (i.signExtend 64))
/-- SQR in S: pops qs (05 R147). -/
def execSSqr (w : BitVec 3) (d : BitVec 4) (s : State) : Out :=
  .next (s.sqr (.sSqr w d) .s 2 (fun v => .breg d.toNat v))
/-- GIVE in S (05 R148). -/
def execSGive (w : BitVec 3) (q : BitVec 4) (c : BitVec 6) (s : State) : Out := .next (s.give (.sGive w q c) .s q c)
/-- TAKE in S (05 R148). -/
def execSTake (w : BitVec 3) (q : BitVec 4) (c : BitVec 6) (s : State) : Out := .next (s.take (.sTake w q c) .s q c)

/-! ### STQ and histograms (05 R164 to R166; 02 R67, R68) -/

/-- One captured value: its bin, unless its format is integer (02 R67). -/
def captureBin (f : Fmt) (b : Nat) : Option Nat := if f.isInt then none else some (histBin f b)

/-- The histogram with one more count in `bin` of `set`, saturating (02 R67). -/
def addCount (h : SMap (BitVec 32)) (set bin : Nat) : SMap (BitVec 32) :=
  let c := h.get (set * 64 + bin) 0
  h.set (set * 64 + bin) (if c = 0xFFFFFFFF then c else c + 1)

/-- One element of an STQ (05 R164). -/
def stqElem (p : Pipe) (qf f : Fmt) (sat : Bool) (rm : RMode) (v : VWord) (e : Nat) : FRes :=
  let b := elemOf v qf.bits e
  let x := qf.decode b
  if qf.isInt && f.isInt then
    if sat then
      let r := roundSat x f true .rne 0
      ⟨r.bits, r.flags⟩
    else
      match x with
      | .fin n m _ _ => ⟨wrapInt f.bits (if n then -(m : Int) else m), 0⟩
      | _ => ⟨0, 0⟩
  else
    let r := roundSat x f sat rm (if rm = .sr then p.draw 3 e else 0)
    ⟨r.bits, r.flags ||| snanFlag qf b⟩

/-- STQ.fmt.rm dq, st (05 R164, R165). -/
def execStq (w q : BitVec 3) (st f : BitVec 4) (r : BitVec 3) (x : BitVec 1) (h : BitVec 2) (c : BitVec 1) (s : State) : Out :=
  let i : Instr := .stq w q st f r x h c
  let p := s.me
  let sr := p.streg st.toNat
  let pops := s.popSlips .s (p.dqueue q.toNat) (16 + q.toNat)
  match sr.desc, p.mode r.toNat with
  | some d, some rm =>
    let fm := fmtOf f.toNat
    let qf := fmtOf d.qfmt
    let bytes := d.lanes * fm.bits / 8
    let a := d.addr sr.p
    let bad := decide (d.kind = 1) || decide (256 < bytes) || !(inTensor a bytes) || decide (a % (fmtAlign fm : Int) ≠ 0)
    let head := qHead (p.dqueue q.toNat) s.atk
    let chk := s.fails bad .s causeIllOp 0 0 ++ pops
    let draws := if rm = .sr then d.lanes else 0
    .next (s.timedTo i .s [.st st.toNat] chk draws (s.atk + 1) false (fun t => t.onPipe s.curPipe (fun p =>
      let v := head.getD 0
      let out := fun e => stqElem p qf fm (decide (x = 1)) rm v e
      let on := decide (c = 1) && p.csr.histCtl.getLsbD h.toNat
      let post := p.csr.histCtl.getLsbD (4 + h.toNat)
      let bins := (List.range d.lanes).filterMap (fun e =>
        if post then captureBin fm (out e).bits else captureBin qf (elemOf v qf.bits e))
      let hist := if on then bins.foldl (fun m b => addCount m h.toNat b) p.mem.hist else p.mem.hist
      let wr : TWrite := { at_ := s.atk + 2, cls := 5, addr := a.toNat,
                           bytes := elemBytes fm.bits d.lanes (fun e => (out e).bits), pc := p.s.pc }
      let p1 := (p.setDq q.toNat (p.dqueue q.toNat).tail).produce .s s.atk 3 .flags (flagsOf d.lanes (fun e => (out e).flags))
      let p2 : Pipe := { p1 with mem := { p1.mem with hist := hist }, fly := { p1.fly with writes := p1.fly.writes ++ [wr] } }
      p2.setSt st.toNat (sr.advance d))))
  | _, _ => .next (s.timed i .s [.st st.toNat] (s.fails true .s causeIllOp 0 0 ++ pops) id)

/-- The histogram with the 64 bins of `set` cleared. -/
def clearSet (h : SMap (BitVec 32)) (set : Nat) : SMap (BitVec 32) := h.filter (fun e => !(decide (e.1 / 64 = set)))

/-- HCLR set (05 R166). -/
def execHclr (w : BitVec 3) (n : BitVec 2) (s : State) : Out :=
  .next (s.timedPipe (.hclr w n) .s [] [] (fun _ p => { p with mem := { p.mem with hist := clearSet p.mem.hist n.toNat } }))

/-- HSNAP set, (b): writes the 64 counts and clears the set as one action (05 R166; 02 R68). -/
def execHsnap (w : BitVec 3) (n : BitVec 2) (b : BitVec 4) (s : State) : Out :=
  let o := (s.me.breg b.toNat).toNat
  .next (s.timedPipe (.hsnap w n b) .s [.b b.toNat]
    (s.fails (decide (o % 256 ≠ 0) || decide (tensorSize ≤ o)) .s causeIllOp 0 0) (fun now p =>
      let bytes := elemBytes 32 64 (fun j => (p.mem.hist.get (n.toNat * 64 + j) 0).toNat)
      let wr : TWrite := { at_ := now + 2, cls := 5, addr := o, bytes := bytes, pc := p.s.pc }
      { p with mem := { p.mem with hist := clearSet p.mem.hist n.toNat },
               fly := { p.fly with writes := p.fly.writes ++ [wr] } }))

/-- HST st, imm(b): 256 bytes of tensor SRAM to HBM, complete at issue + 640 (05 R162). -/
def execHst (w : BitVec 3) (st b : BitVec 4) (i : BitVec 15) (s : State) : Out :=
  let o := (s.me.breg b.toNat + i.signExtend 64 * 256).toNat
  .next (s.hbmWord (.hst w st b i) .s (.b b.toNat) st.toNat o false
    (s.bankSlips s.curPipe 3 s.me.s.pc o 256))

/-! ### Relays (05 R167 to R169; 09 R275, R276) -/

/-- The boundary directions on the way from die `a` to die `b`, column first, then row: die left and direction
(0 north, 1 west, 2 east, 3 south) as die × 4 + direction (09 R276). -/
def routeDirs (a b : Nat) : List Nat :=
  let cols := if a % 4 ≤ b % 4 then (List.range (b % 4 - a % 4)).map (fun i => (a + i) * 4 + 2)
    else (List.range (a % 4 - b % 4)).map (fun i => (a - i) * 4 + 1)
  let m := a / 4 * 4 + b % 4
  let rows := if a / 4 ≤ b / 4 then (List.range (b / 4 - a / 4)).map (fun i => (m + 4 * i) * 4 + 3)
    else (List.range (a / 4 - b / 4)).map (fun i => (m - 4 * i) * 4)
  cols ++ rows

/-- The channel uses of a word that goes from die `a` to the dies `bs`, one for each boundary that it crosses. -/
def chanUses (a : Nat) (bs : List Nat) (now : Tick) (g pc : Nat) : List ChanUse :=
  (bs.flatMap (fun b => (routeDirs a b).zipIdx.map (fun e =>
    ({ dir := e.1, enter := now + BitVec.ofNat 64 (4 + 14 * e.2), g := g, pc := pc } : ChanUse)))).eraseDups

/-- The pipeline after S pops data queue `q`. -/
def Pipe.popDq (p : Pipe) (q : Nat) : Pipe := p.setDq q (p.dqueue q).tail

/-- SEND dq, (b) (05 R167, R168; 09 R275). -/
def execSend (w q : BitVec 3) (b : BitVec 4) (s : State) : Out :=
  let p := s.me
  let v := p.breg b.toNat
  let dst := bitsOf v 31 28
  let off := bitsOf v 22 0
  let d := dieOfPipe s.curPipe
  let part := s.part s.curPart
  let h := hops d dst
  let bad := decide (bitsOf v 63 32 ≠ 0) || decide (off % 256 ≠ 0) || decide (tensorSize ≤ off) || !(part.hasDie dst)
  let late := match relayAt part.run.stages (part.run.tau s.atk) with
    | none => true
    | some (e, _) => decide (e.hmax < h)
  let head := qHead (p.dqueue q.toNat) s.atk
  let chk := s.fails bad .s causeIllOp 0 0 ++ s.fails late .s causeRelaySend 0 (bitsOf v 31 0) ++
    s.popSlips .s (p.dqueue q.toNat) (16 + q.toNat)
  .next (s.timed (.send w q b) .s [.b b.toNat] chk (fun t =>
    let u := t.onPipe s.curPipe (fun p => (p.popDq q.toNat).note s.atk 4 .s (bitsOf v 31 0))
    let word : RelayWord := { src := s.curPipe, dst := dst * 32 + bitsOf v 27 23, off := off, data := head.getD 0,
                              ta := s.atk + BitVec.ofNat 64 (18 + 14 * h), judged := decide (dst = d) }
    { u with words := u.words ++ [word] }.onDie d (fun x =>
      { x with chan := x.chan ++ chanUses d [dst] s.atk s.curPipe p.s.pc })))

/-- MCAST dq, grp, (b) (05 R167, R169; 09 R275): every target is written in one cycle. -/
def execMcast (w q : BitVec 3) (g b : BitVec 4) (s : State) : Out :=
  let p := s.me
  let v := p.breg b.toNat
  let off := bitsOf v 22 0
  let d := dieOfPipe s.curPipe
  let part := s.part s.curPart
  let grp := p.csr.mcgroup.get g.toNat 0
  let dies := (List.range 16).filter (fun i => grp.getLsbD (32 + i))
  let pipes := (List.range 32).filter (fun i => grp.getLsbD i)
  let hmax := (dies.map (hops d)).foldl Nat.max 0
  let bad := decide (bitsOf v 63 23 ≠ 0) || decide (off % 256 ≠ 0) || decide (tensorSize ≤ off) ||
    dies.isEmpty || pipes.isEmpty || !(dies.all part.hasDie)
  let tau := part.run.tau s.atk
  let late := match relayAt part.run.stages tau with
    | none => true
    | some (e, re) => decide (e.hmax < hmax) || decide (re < tau + 4)
  let head := qHead (p.dqueue q.toNat) s.atk
  let chk := s.fails bad .s causeIllOp 0 0 ++ s.fails late .s causeRelaySend 0 (bitsOf v 31 0) ++
    s.popSlips .s (p.dqueue q.toNat) (16 + q.toNat)
  .next (s.timed (.mcast w q g b) .s [.b b.toNat] chk (fun t =>
    let u := t.onPipe s.curPipe (fun p => (p.popDq q.toNat).note s.atk 4 .s (bitsOf v 31 0))
    let ws := dies.flatMap (fun e => pipes.map (fun n =>
      ({ src := s.curPipe, dst := e * 32 + n, off := off, data := head.getD 0,
         ta := s.atk + BitVec.ofNat 64 (22 + 14 * hmax), judged := decide (e = d) } : RelayWord)))
    { u with words := u.words ++ ws }.onDie d (fun x =>
      { x with chan := x.chan ++ chanUses d dies s.atk s.curPipe p.s.pc })))

/-! ### Read-modify-write (05 R170, R171) -/

/-- The smaller or larger of two floating patterns: −0 below +0, one NaN gives the other operand, two the
canonical NaN (05 R170; 07 R199). -/
def fmtMinMax (f : Fmt) (larger : Bool) (a b : Nat) : FRes :=
  let x := f.decode a
  let y := f.decode b
  let fl := snanFlag f a ||| snanFlag f b
  if x = .nan ∧ y = .nan then ⟨f.qnan, fl⟩
  else if x = .nan then ⟨b, fl⟩
  else if y = .nan then ⟨a, fl⟩
  else
    let less := xlt x y || (x.isZero && y.isZero && x.neg && !y.neg)
    ⟨if less != larger then a else b, fl⟩

/-- The smaller or larger of two integers of a format. -/
def intMinMax (f : Fmt) (larger : Bool) (a b : Nat) : FRes :=
  ⟨if xlt (f.decode a) (f.decode b) != larger then a else b, 0⟩

/-- The new value of an RMW (05 R170). -/
def rmwValue (op : Nat) (f : Fmt) (old v : Nat) : FRes :=
  match op with
  | 0 =>
    if f.isInt then ⟨(old + v) % 2 ^ 32, 0⟩
    else
      let x := xadd (f.decode old) (f.decode v) false
      let r := roundX x.val f .rne 0
      ⟨r.bits, r.flags ||| snanFlag f old ||| snanFlag f v ||| flagIf x.nv flagNV⟩
  | 1 => if f.isInt then intMinMax f false old v else fmtMinMax f false old v
  | 2 => if f.isInt then intMinMax f true old v else fmtMinMax f true old v
  | 3 => ⟨old &&& v, 0⟩
  | 4 => ⟨old ||| v, 0⟩
  | 5 => ⟨old ^^^ v, 0⟩
  | _ => ⟨v, 0⟩

/-- RMW.op.ty (b), bv: holds the bank for three cycles, writes at the end of issue + 2 (05 R170, R171). -/
def execRmw (w o : BitVec 3) (t : BitVec 2) (b v : BitVec 4) (s : State) : Out :=
  let p := s.me
  let f : Fmt := match t.toNat with
    | 0 => .fp32 | 1 => .bf16 | _ => .int32
  let n := f.bits / 8
  let a := (p.breg b.toNat).toNat
  let bad := decide (a % n ≠ 0) || decide (tensorSize ≤ a)
  let held := p.fly.rmwHold.any (fun e => decide (e.1 = tensorBank a) && Tick.le s.atk e.2)
  let chk := s.fails bad .s causeIllOp 0 0 ++ s.fails held .s causeToken 62 0 ++ s.eccSlips s.curPipe 3 p.s.pc a n
  .next (s.timedPipe (.rmw w o t b v) .s [.b b.toNat, .b v.toNat] chk (fun now p =>
    let r := rmwValue o.toNat f (p.mem.sram.readLE a n) ((p.breg v.toNat).toNat % 2 ^ f.bits)
    let q := p.produce .s now 3 .flags r.flags
    { q with fly := { q.fly with
        writes := q.fly.writes ++ [{ at_ := now + 2, cls := 4, addr := a, bytes := toBytes n r.bits, pc := p.s.pc }],
        rmwHold := q.fly.rmwHold.filter (fun e => Tick.le now e.2) ++ [(tensorBank a, now + 2)] } }))

end Sys2Proof.Machine
end

