-- ==== Sys2Proof/Machine/XStream.lean ====
section
/-! DEFINITION. The meanings of the X stream's words but for the accumulator words (07). -/
namespace Sys2Proof.Machine

/-- The scoreboard's sources of a masked word. -/
def maskSrc (m : BitVec 1) : List RegRef := if m = 1 then [.m 0] else []

/-- An X word whose mode field is `rm`: `eff` takes the resolved mode; a reserved one is illegal (02 R49). Under SR
it makes 64 draws, and is illegal where a lane holds more than two of its `n` elements (07 R195). -/
def State.xMode (s : State) (i : Instr) (srcs : List RegRef) (chk : List Det) (rm n : Nat)
    (eff : RMode → Tick → Pipe → Pipe) : State :=
  match s.me.mode rm with
  | none => s.timed i .x srcs (s.fails true .x causeIllOp 0 0 ++ chk) id
  | some r =>
    let bad := s.fails (decide (r = .sr) && decide (128 < n)) .x causeIllOp 0 0
    s.timedTo i .x srcs (bad ++ chk) (if r = .sr then 64 else 0) (s.atk + 1) false
      (fun t => t.onPipe s.curPipe (eff r s.atk))

/-- Writes the `n` elements of width `w` that the mask lets through; masked elements raise no flag (07 R193). -/
def Pipe.writeElems (p : Pipe) (now : Tick) (lat d : Nat) (m : Word) (w n : Nat) (f : Nat → FRes) (extra : FlagSet) : Pipe :=
  p.produce .x now lat (.vreg d (vecPack w n (fun e => (f e).bits)) (elemMask w n (laneOn m n)))
    (flagsOf n (fun e => if laneOn m n e then (f e).flags else 0) ||| extra)

/-- The latency of floating arithmetic (07 Table 7-1). -/
def fpLat (f : Nat) : Nat := if f = 0 then 4 else 3

/-- VADD to VFMS: `op` gives the exact result of the three operands (07 R198). -/
def State.vArith (s : State) (i : Instr) (d a b : BitVec 5) (f r : BitVec 3) (x m : BitVec 1) (useD : Bool)
    (op : XVal → XVal → XVal → Bool → XRes) : State :=
  let fm := Fmt.ofVec f.toNat
  let w := fm.bits
  let n := 2048 / w
  let srcs := [RegRef.v a.toNat, .v b.toNat] ++ (if useD then [.v d.toNat] else []) ++ maskSrc m
  s.xMode i srcs [] r.toNat n (fun rm now p =>
    p.writeElems now (fpLat f.toNat) d.toNat (p.execMask m) w n (fun e =>
      let ba := elemOf (p.vreg a.toNat) w e
      let bb := elemOf (p.vreg b.toNat) w e
      let bd := elemOf (p.vreg d.toNat) w e
      let y := op (fm.decode ba) (fm.decode bb) (fm.decode bd) (decide (rm = .rdn))
      let q := roundSat y.val fm (decide (x = 1)) rm (srDraw p rm n e)
      ⟨q.bits, q.flags ||| snanFlag fm ba ||| snanFlag fm bb ||| (if useD then snanFlag fm bd else 0) |||
        flagIf y.nv flagNV⟩) 0)

/-- A sum of an exact product and a third value, invalid where either is (07 R198). -/
def xfma (a b c : XVal) (down : Bool) : XRes :=
  let p := xmul a b
  let y := xadd p.val c down
  ⟨y.val, p.nv || y.nv⟩

/-- VADD (07 R198). -/
def execVadd (w : BitVec 3) (d a b : BitVec 5) (f r : BitVec 3) (x m : BitVec 1) (s : State) : Out :=
  .next (s.vArith (.vadd w d a b f r x m) d a b f r x m false (fun u v _ dn => xadd u v dn))
/-- VSUB (07 R198). -/
def execVsub (w : BitVec 3) (d a b : BitVec 5) (f r : BitVec 3) (x m : BitVec 1) (s : State) : Out :=
  .next (s.vArith (.vsub w d a b f r x m) d a b f r x m false (fun u v _ dn => xadd u v.negate dn))
/-- VMUL (07 R198). -/
def execVmul (w : BitVec 3) (d a b : BitVec 5) (f r : BitVec 3) (x m : BitVec 1) (s : State) : Out :=
  .next (s.vArith (.vmul w d a b f r x m) d a b f r x m false (fun u v _ _ => xmul u v))
/-- VFMA (07 R198). -/
def execVfma (w : BitVec 3) (d a b : BitVec 5) (f r : BitVec 3) (x m : BitVec 1) (s : State) : Out :=
  .next (s.vArith (.vfma w d a b f r x m) d a b f r x m true xfma)
/-- VFMS (07 R198). -/
def execVfms (w : BitVec 3) (d a b : BitVec 5) (f r : BitVec 3) (x m : BitVec 1) (s : State) : Out :=
  .next (s.vArith (.vfms w d a b f r x m) d a b f r x m true (fun u v z dn => xfma u v z.negate dn))

/-- An element-wise word without rounding, readable after 2 cycles. -/
def State.vMap (s : State) (i : Instr) (d a b : BitVec 5) (m : BitVec 1) (two : Bool) (w : Nat)
    (f : Nat → Nat → FRes) : State :=
  let n := 2048 / w
  s.timedPipe i .x ((if two then [RegRef.v a.toNat, .v b.toNat] else [.v a.toNat]) ++ maskSrc m) [] (fun now p =>
    p.writeElems now 2 d.toNat (p.execMask m) w n
      (fun e => f (elemOf (p.vreg a.toNat) w e) (elemOf (p.vreg b.toNat) w e)) 0)

/-- The larger or smaller element of a vector format (07 R199). -/
def vecMinMax (f : Fmt) (larger : Bool) (a b : Nat) : FRes :=
  if f.isInt then intMinMax f larger a b else fmtMinMax f larger a b

/-- VMAX (07 R199). -/
def execVmax (w : BitVec 3) (d a b : BitVec 5) (f : BitVec 3) (m : BitVec 1) (s : State) : Out :=
  .next (s.vMap (.vmax w d a b f m) d a b m true (Fmt.ofVec f.toNat).bits (vecMinMax (Fmt.ofVec f.toNat) true))
/-- VMIN (07 R199). -/
def execVmin (w : BitVec 3) (d a b : BitVec 5) (f : BitVec 3) (m : BitVec 1) (s : State) : Out :=
  .next (s.vMap (.vmin w d a b f m) d a b m true (Fmt.ofVec f.toNat).bits (vecMinMax (Fmt.ofVec f.toNat) false))

/-- |x| or −x: a NaN is unchanged, a floating sign is cleared or turned, integers wrap (07 R200). -/
def signOp (f : Fmt) (absolute : Bool) (b : Nat) : FRes :=
  if f.isInt then
    let x := signedOf f.bits b
    ⟨wrapInt f.bits (if absolute && decide (0 ≤ x) then x else -x), 0⟩
  else if f.decode b = .nan then ⟨b, 0⟩
  else
    let sg := 2 ^ (f.bits - 1)
    let mag := b % sg
    ⟨if absolute || decide (sg ≤ b) then mag else mag + sg, 0⟩

/-- VABS (07 R200). -/
def execVabs (w : BitVec 3) (d a : BitVec 5) (f : BitVec 3) (m : BitVec 1) (s : State) : Out :=
  .next (s.vMap (.vabs w d a f m) d a 0 m false (Fmt.ofVec f.toNat).bits (fun x _ => signOp (Fmt.ofVec f.toNat) true x))
/-- VNEG (07 R200). -/
def execVneg (w : BitVec 3) (d a : BitVec 5) (f : BitVec 3) (m : BitVec 1) (s : State) : Out :=
  .next (s.vMap (.vneg w d a f m) d a 0 m false (Fmt.ofVec f.toNat).bits (fun x _ => signOp (Fmt.ofVec f.toNat) false x))

/-- The integer of a finite exact value with exponent 0. -/
def intOf (x : XVal) : Int :=
  match x with
  | .fin n m _ _ => if n then -(m : Int) else m
  | _ => 0

/-- A conversion of one element (07 R202): integer to integer clamps or wraps, anything else rounds. -/
def convert (sf f : Fmt) (sat : Bool) (rm : RMode) (draw b : Nat) : FRes :=
  let x := sf.decode b
  if sf.isInt && f.isInt then
    if sat then roundSat x f true .rne 0 else ⟨wrapInt f.bits (intOf x), 0⟩
  else
    let r := roundSat x f sat rm draw
    ⟨r.bits, r.flags ||| snanFlag sf b⟩

/-- VCVT (07 R202). -/
def execVcvt (w : BitVec 3) (d a : BitVec 5) (g f r : BitVec 3) (x m : BitVec 1) (s : State) : Out :=
  let sf := Fmt.ofVec g.toNat
  let fm := Fmt.ofVec f.toNat
  let n := 2048 / Nat.max sf.bits fm.bits
  .next (s.xMode (.vcvt w d a g f r x m) ([.v a.toNat] ++ maskSrc m) [] r.toNat n (fun rm now p =>
    p.writeElems now 3 d.toNat (p.execMask m) fm.bits n
      (fun e => convert sf fm (decide (x = 1)) rm (srDraw p rm n e) (elemOf (p.vreg a.toNat) sf.bits e)) 0))

/-- The relation of VCMP (03 Table 3-15; 07 R203). -/
def vcmpHolds (c : Nat) (f : Fmt) (a b : Nat) : Bool :=
  let x := f.decode a
  let y := f.decode b
  let un := decide (x = .nan) || decide (y = .nan)
  match c with
  | 0 => xeq x y
  | 1 => un || !(xeq x y)
  | 2 => xlt x y
  | 3 => !un && !(xlt y x)
  | 4 => xlt y x
  | 5 => !un && !(xlt x y)
  | _ => un

/-- The 64-bit mask whose bit i is `f i`. -/
def maskOf (f : Nat → Bool) : Word := BitVec.ofNat 64 (packElems 1 64 (fun i => if f i then 1 else 0))

/-- A result for mask register `d` under mask `on`, with the road book entry of a change of m0: its new value, in which a lane that
`on` turns off keeps its bit (19 R428). -/
def Pipe.writeMask (p : Pipe) (now : Tick) (d : Nat) (v on : Word) (fl : FlagSet) : Pipe :=
  let q := p.produce .x now 2 (.mreg d v on) fl
  if d = 0 then q.note now 3 .x (((v &&& on) ||| (p.mreg 0 &&& ~~~on)).toNat % 2 ^ 32) else q

/-- VCMP.cond.fmt md, va, vb (07 R203). -/
def execVcmp (w k : BitVec 3) (a b : BitVec 5) (f c : BitVec 3) (m : BitVec 1) (s : State) : Out :=
  let fm := Fmt.ofVec f.toNat
  .next (s.timedPipe (.vcmp w k a b f c m) .x ([.v a.toNat, .v b.toNat] ++ maskSrc m) [] (fun now p =>
    let on := p.execMask m
    let la := fun i => (lane (p.vreg a.toNat) i).toNat
    let lb := fun i => (lane (p.vreg b.toNat) i).toNat
    p.writeMask now k.toNat (maskOf (fun i => vcmpHolds c.toNat fm (la i) (lb i))) on
      (flagsOf 64 (fun i => if on.getLsbD i then snanFlag fm (la i) ||| snanFlag fm (lb i) else 0))))

/-- A lane-wise word without flags, readable after 2 cycles. -/
def State.vLanes (s : State) (i : Instr) (srcs : List RegRef) (chk : List Det) (d : BitVec 5) (m : BitVec 1)
    (f : Pipe → Nat → BitVec 32) : State :=
  s.timedPipe i .x (srcs ++ maskSrc m) chk (fun now p =>
    p.writeElems now 2 d.toNat (p.execMask m) 32 64 (fun e => ⟨(f p e).toNat, 0⟩) 0)

/-- VSEL (07 R204). -/
def execVsel (w : BitVec 3) (d a b : BitVec 5) (n : BitVec 3) (m : BitVec 1) (s : State) : Out :=
  .next (s.vLanes (.vsel w d a b n m) [.v a.toNat, .v b.toNat, .m n.toNat] [] d m
    (fun p i => if (p.mreg n.toNat).getLsbD i then lane (p.vreg a.toNat) i else lane (p.vreg b.toNat) i))

/-- A two-operand lane word (07 R206). -/
def State.vLogic (s : State) (i : Instr) (d a b : BitVec 5) (m : BitVec 1) (f : BitVec 32 → BitVec 32 → BitVec 32) : State :=
  s.vLanes i [.v a.toNat, .v b.toNat] [] d m (fun p j => f (lane (p.vreg a.toNat) j) (lane (p.vreg b.toNat) j))

/-- VAND (07 R206). -/
def execVand (w : BitVec 3) (d a b : BitVec 5) (m : BitVec 1) (s : State) : Out :=
  .next (s.vLogic (.vand w d a b m) d a b m (· &&& ·))
/-- VOR (07 R206). -/
def execVor (w : BitVec 3) (d a b : BitVec 5) (m : BitVec 1) (s : State) : Out :=
  .next (s.vLogic (.vor w d a b m) d a b m (· ||| ·))
/-- VXOR (07 R206). -/
def execVxor (w : BitVec 3) (d a b : BitVec 5) (m : BitVec 1) (s : State) : Out :=
  .next (s.vLogic (.vxor w d a b m) d a b m (· ^^^ ·))
/-- VSHL: by vb[i][5:0]; 32 or more gives 0 (07 R206). -/
def execVshl (w : BitVec 3) (d a b : BitVec 5) (m : BitVec 1) (s : State) : Out :=
  .next (s.vLogic (.vshl w d a b m) d a b m (fun x y => x <<< (y.toNat % 64)))
/-- VSHR (07 R206). -/
def execVshr (w : BitVec 3) (d a b : BitVec 5) (m : BitVec 1) (s : State) : Out :=
  .next (s.vLogic (.vshr w d a b m) d a b m (fun x y => x >>> (y.toNat % 64)))

/-- Exact integer arithmetic, wrapped or clamped with NV (07 R207). -/
def vecInt (f : Fmt) (sat : Bool) (z : Int) : FRes :=
  if sat then roundSat (.ofInt z) f true .rne 0 else ⟨wrapInt f.bits z, 0⟩

/-- VIADD (07 R207). -/
def execViadd (w : BitVec 3) (d a b : BitVec 5) (f : BitVec 3) (x m : BitVec 1) (s : State) : Out :=
  let fm := Fmt.ofVec f.toNat
  .next (s.vMap (.viadd w d a b f x m) d a b m true fm.bits
    (fun u v => vecInt fm (decide (x = 1)) (intOf (fm.decode u) + intOf (fm.decode v))))
/-- VIMUL (07 R207). -/
def execVimul (w : BitVec 3) (d a b : BitVec 5) (f : BitVec 3) (x m : BitVec 1) (s : State) : Out :=
  let fm := Fmt.ofVec f.toNat
  .next (s.vMap (.vimul w d a b f x m) d a b m true fm.bits
    (fun u v => vecInt fm (decide (x = 1)) (intOf (fm.decode u) * intOf (fm.decode v))))

/-! ### Reduction (07 R208; 02 R65) -/

/-- The identity of a reduction (07 Table 7-3). -/
def redIdentity (o : Nat) (f : Fmt) : Nat :=
  match o with
  | 0 => if f.isInt then 0 else 0x80000000
  | 1 => if f.isInt then 0x80000000 else 0xFF800000
  | 2 => if f.isInt then 0x7FFFFFFF else 0x7F800000
  | 3 => 0xFFFFFFFF
  | _ => 0

/-- One combination (07 R208). -/
def redOp (o : Nat) (f : Fmt) (rm : RMode) (a b : Nat) : FRes :=
  match o with
  | 0 =>
    if f.isInt then ⟨(a + b) % 2 ^ 32, 0⟩
    else
      let y := xadd (f.decode a) (f.decode b) (decide (rm = .rdn))
      let r := roundX y.val f rm 0
      ⟨r.bits, r.flags ||| snanFlag f a ||| snanFlag f b ||| flagIf y.nv flagNV⟩
  | 1 => vecMinMax f true a b
  | 2 => vecMinMax f false a b
  | 3 => ⟨a &&& b, 0⟩
  | 4 => ⟨a ||| b, 0⟩
  | _ => ⟨a ^^^ b, 0⟩

/-- One level of the tree: neighbours combine, the lower-numbered operand first (02 R65). -/
def redLevel (op : Nat → Nat → FRes) (l : List FRes) : List FRes :=
  match l with
  | a :: b :: t =>
    let r := op a.bits b.bits
    ⟨r.bits, r.flags ||| a.flags ||| b.flags⟩ :: redLevel op t
  | t => t

/-- The pairwise tree over `n` levels. -/
def redTree (op : Nat → Nat → FRes) (n : Nat) (l : List FRes) : List FRes :=
  match n with
  | 0 => l
  | n + 1 => redTree op n (redLevel op l)

/-- VRED.op.fmt.rm vd, va (07 R208). Under DYN a mode of SR is illegal. -/
def execVred (w : BitVec 3) (d a o : BitVec 5) (f r : BitVec 3) (m : BitVec 1) (s : State) : Out :=
  let fm := Fmt.ofVec f.toNat
  let srcs := [RegRef.v a.toNat] ++ maskSrc m
  match s.me.mode r.toNat with
  | none => .next (s.timed (.vred w d a o f r m) .x srcs (s.fails true .x causeIllOp 0 0) id)
  | some rm =>
    .next (s.timedPipe (.vred w d a o f r m) .x srcs (s.fails (decide (rm = .sr)) .x causeIllOp 0 0) (fun now p =>
      let on := p.execMask m
      let ls := (List.range 64).map (fun i =>
        (⟨if on.getLsbD i then (lane (p.vreg a.toNat) i).toNat else redIdentity o.toNat fm, 0⟩ : FRes))
      let t := (redTree (redOp o.toNat fm rm) 6 ls).headD ⟨0, 0⟩
      p.produce .x now 7 (.vreg d.toNat (BitVec.ofNat 2048 (t.bits % 2 ^ 32)) (-1)) t.flags))

/-! ### Permutation, splat and constants (07 R209 to R211) -/

/-- VPERM (07 R209). -/
def execVperm (w : BitVec 3) (d a b : BitVec 5) (m : BitVec 1) (s : State) : Out :=
  .next (s.vLanes (.vperm w d a b m) [.v a.toNat, .v b.toNat] [] d m (fun p i =>
    let j := (lane (p.vreg b.toNat) i).toNat
    if j < 64 then lane (p.vreg a.toNat) j else 0))

/-- VSPL vd, va, lane (07 R210). -/
def execVspl (w : BitVec 3) (d a : BitVec 5) (l : BitVec 6) (m : BitVec 1) (s : State) : Out :=
  .next (s.vLanes (.vspl w d a l m) [.v a.toNat] [] d m (fun p _ => lane (p.vreg a.toNat) l.toNat))

/-- What a pop of qx meets: the TOKEN slip of an empty one, or a damaged head. -/
def State.qxEmpty (s : State) : List Det := s.popSlips .x s.me.q.qx 25
/-- The head of qx, 0 where absent. -/
def Pipe.qxHead (p : Pipe) (now : Tick) : Word := (qHead p.q.qx now).getD 0
/-- The pipeline with qx popped. -/
def Pipe.popQx (p : Pipe) : Pipe := p.setSq 1 p.q.qx.tail

/-- VSPL.Q vd: splats bits [31:0] of the head of qx (07 R210). -/
def execVsplQ (w : BitVec 3) (d : BitVec 5) (m : BitVec 1) (s : State) : Out :=
  .next (s.timedPipe (.vsplQ w d m) .x (maskSrc m) s.qxEmpty (fun now p =>
    p.popQx.writeElems now 2 d.toNat (p.execMask m) 32 64 (fun _ => ⟨(p.qxHead now).toNat % 2 ^ 32, 0⟩) 0))

/-- The value of VLDI (03 Table 3-15). -/
def vldiValue (k : Nat) (i : BitVec 16) : BitVec 32 :=
  match k with
  | 0 => i.signExtend 32
  | 1 => i.setWidth 32 <<< 16
  | _ => i ++ i

/-- VLDI.kind vd, imm (07 R211). -/
def execVldi (w : BitVec 3) (d : BitVec 5) (k : BitVec 2) (i : BitVec 16) (s : State) : Out :=
  .next (s.vLanes (.vldi w d k i) [] [] d 0 (fun _ _ => vldiValue k.toNat i))

/-! ### Queues and drawbars (07 R212 to R214) -/

/-- VPOP vd, dq (07 R212). -/
def execVpop (w : BitVec 3) (d : BitVec 5) (q : BitVec 3) (s : State) : Out :=
  .next (s.timedPipe (.vpop w d q) .x [] (s.popSlips .x (s.me.dqueue q.toNat) (16 + q.toNat)) (fun now p =>
      (p.popDq q.toNat).produce .x now 2 (.vreg d.toNat ((qHead (p.dqueue q.toNat) now).getD 0) (-1)) 0))

/-- VPUSH dq, va (07 R212). -/
def execVpush (w : BitVec 3) (a : BitVec 5) (q : BitVec 3) (s : State) : Out :=
  .next (s.timedPipe (.vpush w a q) .x [.v a.toNat]
    (s.fails (decide (16 ≤ (s.me.dqueue q.toNat).length)) .x causeToken (16 + q.toNat) 0) (fun now p =>
      p.setDq q.toNat (qPush (p.dqueue q.toNat) now 2 (p.vreg a.toNat))))

/-- The neighbour of a pipeline to the east or west, in the same die (01 R15, R28). -/
def drawbarTo (g : Nat) (east : Bool) : Option Nat :=
  if east then (if g % 8 = 7 then none else some (g + 1))
  else (if g % 8 = 0 then none else some (g - 1))

/-- Pipeline `g` sends a word out of a side: it arrives at the end of the next cycle, and is discarded at an edge
(07 R213). -/
def State.sendDrawbar (s : State) (g : Nat) (east : Bool) (now : Tick) (v : VWord) : State :=
  let s1 := s.onPipe g (fun p =>
    { p with cyc := if east then { p.cyc with sentE := true } else { p.cyc with sentW := true } })
  match drawbarTo g east with
  | none => s1
  | some h => s1.onPipe h (fun p => { p with q := { p.q with dbIn := p.q.dbIn ++ [(now + 1, !east, v)] } })

/-- The receive buffer of a side. -/
def Pipe.drawbar (p : Pipe) (east : Bool) : List VWord := if east then p.q.east else p.q.west

/-- The head of a side's buffer has a parity error (23 R460, R463). -/
def Pipe.drawbarBad (p : Pipe) (east : Bool) : Bool := p.q.badDb.contains (east, 0)

/-- The damaged words of the drawbar buffers after one is popped from a side's buffer. -/
def shiftBad (east : Bool) (l : List (Bool × Nat)) : List (Bool × Nat) :=
  (l.filter (fun e => !(decide (e = (east, 0))))).map (fun e => if e.1 = east then (e.1, e.2 - 1) else e)

/-- The pipeline after a word is popped from a side's buffer. -/
def Pipe.popDrawbar (p : Pipe) (east : Bool) : Pipe :=
  let bad := shiftBad east p.q.badDb
  if east then { p with q := { p.q with east := p.q.east.tail, badDb := bad }, cyc := { p.cyc with popE := p.cyc.popE + 1 } }
  else { p with q := { p.q with west := p.q.west.tail, badDb := bad }, cyc := { p.cyc with popW := p.cyc.popW + 1 } }

/-- VDWR.E or .W va (07 R213, R214). -/
def execVdwr (w : BitVec 3) (a : BitVec 5) (d : BitVec 1) (s : State) : Out :=
  let east := decide (d = 0)
  let busy := if east then s.me.cyc.sentE else s.me.cyc.sentW
  .next (s.timed (.vdwr w a d) .x [.v a.toNat] (s.fails busy .x causeToken 58 0)
    (fun t => t.sendDrawbar s.curPipe east s.atk (s.me.vreg a.toNat)))

/-- VDRW.E or .W vd, with forwarding out of the opposite side (07 R213, R214; 06 R178). -/
def execVdrw (w : BitVec 3) (d : BitVec 5) (sd f : BitVec 1) (s : State) : Out :=
  let east := decide (sd = 0)
  let popped := if east then decide (0 < s.me.cyc.popE) else decide (0 < s.me.cyc.popW)
  let buf := s.me.drawbar east
  -- the buffer as it stood at the start of the cycle (01 R24)
  let chk := s.fails (buf.isEmpty && !popped) .x causeToken (if east then 28 else 29) 0 ++
    s.fails popped .x causeToken 59 0 ++ s.fails (s.me.drawbarBad east && !popped) .x causeEcc 0 0
  .next (s.timed (.vdrw w d sd f) .x [] chk (fun t =>
    let v := buf.headD 0
    let u := t.onPipe s.curPipe (fun p => (p.popDrawbar east).produce .x s.atk 2 (.vreg d.toNat v (-1)) 0)
    if f = 1 then u.sendDrawbar s.curPipe (!east) s.atk v else u))

/-! ### Masks (07 R205) -/

/-- VMSK.fn md, ma, mb (07 Table 7-2). -/
def execVmsk (w d a b : BitVec 3) (f : BitVec 4) (s : State) : Out :=
  let srcs := (if f.toNat = 5 ∨ f.toNat = 6 then [] else [RegRef.m a.toNat]) ++
    (if f.toNat ≤ 3 then [RegRef.m b.toNat] else [])
  .next (s.timedPipe (.vmsk w d a b f) .x srcs (if f.toNat = 6 then s.qxEmpty else []) (fun now p =>
    let x := p.mreg a.toNat
    let y := p.mreg b.toNat
    let v : Word := match f.toNat with
      | 0 => x &&& y | 1 => x ||| y | 2 => x ^^^ y | 3 => x &&& ~~~y | 4 => ~~~x | 5 => -1
      | 6 => maskOf (fun i => decide (i < (p.qxHead now).toNat))
      | _ => x
    (if f.toNat = 6 then p.popQx else p).writeMask now d.toNat v (-1) 0))

/-! ### Tables and rotary angles (07 R215 to R219) -/

/-- floor(16 × x) of an exact value, clamped to a segment number (07 R216). -/
def segmentOf (x : XVal) : Nat :=
  match x with
  | .nan => 0
  | .inf n => if n then 0 else 255
  | .fin n m e _ =>
    let (q, rem, _) := cutAt m (e + 4) 0
    let fl : Int := if n then -(q : Int) - (if rem = 0 then 0 else 1) else q
    let z := fl + 128
    if z < 0 then 0 else if 255 < z then 255 else z.toNat

/-- FMA(a, b, c) in FP32 under RNE, on patterns, with flags gathered (07 R216). -/
def fmaStep (a : Nat) (b : FRes) (c : Nat) : FRes :=
  let f := Fmt.fp32
  let y := xfma (f.decode a) (f.decode b.bits) (f.decode c) false
  let r := roundX y.val f .rne 0
  ⟨r.bits, b.flags ||| r.flags ||| snanFlag f a ||| snanFlag f c ||| flagIf y.nv flagNV⟩

/-- The FP32 pattern of a value rounded to `f` (07 R192). -/
def asFp32 (f : Fmt) (b : Nat) : Nat := (roundX (f.decode b) .fp32 .rne 0).bits

/-- The segment whose coefficients a lane of VTAB takes; a NaN takes none (07 R216). -/
def vtabSegment (b : Nat) : Option Nat :=
  match Fmt.fp32.decode b with
  | .nan => none
  | x => some (segmentOf x)

/-- One lane of VTAB (07 R216). -/
def vtabLane (coef : SMap (BitVec 128)) (t : Nat) (f : Fmt) (sat : Bool) (rm : RMode) (draw b : Nat) : FRes :=
  let fp := Fmt.fp32
  let x := fp.decode b
  if x = .nan then ⟨0x7FC00000, snanFlag fp b⟩
  else
    let sg := segmentOf x
    let c := fun (k : Nat) => (coef.get (t * 256 + sg) 0).toNat / 2 ^ (32 * k) % 2 ^ 32
    let xs : XVal := .fin (decide (sg < 128)) ((sg : Int) - 128).natAbs (-4) false
    let u := xadd x xs.negate false
    let tr := roundX u.val fp .rne 0
    let t0 : FRes := ⟨tr.bits, tr.flags ||| flagIf u.nv flagNV⟩
    let y1 := fmaStep (c 3) t0 (c 2)
    let y2 := fmaStep y1.bits t0 (c 1)
    let y3 := fmaStep y2.bits t0 (c 0)
    let r := roundSat (fp.decode y3.bits) f sat rm draw
    ⟨asFp32 f r.bits, r.flags ||| t0.flags ||| y1.flags ||| y2.flags ||| y3.flags⟩

/-- VTAB.fmt.rm vd, va, table (07 R216). -/
def execVtab (w : BitVec 3) (d a : BitVec 5) (t : BitVec 4) (f r : BitVec 3) (x m : BitVec 1) (s : State) : Out :=
  let fm := Fmt.ofVec f.toNat
  let p := s.me
  let bad := (List.range 64).any (fun i => laneOn (p.execMask m) 64 i &&
    (match vtabSegment (lane (p.vreg a.toNat) i).toNat with
      | some sg => p.mem.badCoef.any (fun b => decide (b / 2 = t.toNat * 256 + sg))
      | none => false))
  .next (s.xMode (.vtab w d a t f r x m) ([.v a.toNat, .coef t.toNat] ++ maskSrc m)
    (s.fails bad .x causeEcc 0 p.x.pc) r.toNat 64 (fun rm now p =>
    p.writeElems now 8 d.toNat (p.execMask m) 32 64
      (fun i => vtabLane p.mem.coef t.toNat fm (decide (x = 1)) rm (srDraw p rm 64 i) (lane (p.vreg a.toNat) i).toNat) 0))

/-- TPCTL.POSFLT. -/
def Pipe.posflt (p : Pipe) : Bool := p.csr.tpctl.getLsbD 4

/-- One lane of VROPE: lane 2j takes x × c − y × sn, lane 2j + 1 takes x × sn + y × c (07 R219). -/
def vropeLane (va vb : VWord) (f : Fmt) (rm : RMode) (draw i : Nat) : FRes :=
  let j := i / 2 * 2
  let fp := Fmt.fp32
  let bx := (lane va j).toNat
  let by_ := (lane va (j + 1)).toNat
  let phase := (lane vb j).toNat % 2 ^ 24 * (lane vb (j + 1)).toNat % 2 ^ 32
  let c := rotCos phase
  let sn := rotSin phase
  let down := decide (rm = .rdn)
  let u := if i % 2 = 0 then xmul (fp.decode bx) c else xmul (fp.decode bx) sn
  let v := if i % 2 = 0 then xmul (fp.decode by_) sn else xmul (fp.decode by_) c
  let y := xadd u.val (if i % 2 = 0 then v.val.negate else v.val) down
  let r := roundX y.val f rm draw
  ⟨asFp32 f r.bits, r.flags ||| snanFlag fp bx ||| snanFlag fp by_ ||| flagIf (u.nv || v.nv || y.nv) flagNV⟩

/-- VROPE.fmt.rm vd, va, vb (07 R217 to R219). -/
def execVrope (w : BitVec 3) (d a b : BitVec 5) (f r : BitVec 3) (m : BitVec 1) (s : State) : Out :=
  let fm := Fmt.ofVec f.toNat
  let on := s.me.execMask m
  let big := (List.range 32).filter (fun j => (on.getLsbD (2 * j) || on.getLsbD (2 * j + 1)) &&
    decide (2 ^ 24 ≤ (lane (s.me.vreg b.toNat) (2 * j)).toNat))
  let chk := match big with
    | j :: _ => s.fails s.me.posflt .x causeScale 0 (lane (s.me.vreg b.toNat) (2 * j)).toNat
    | [] => []
  .next (s.xMode (.vrope w d a b f r m) ([.v a.toNat, .v b.toNat] ++ maskSrc m) chk r.toNat 64 (fun rm now p =>
    p.writeElems now 6 d.toNat on 32 64
      (fun i => vropeLane (p.vreg a.toNat) (p.vreg b.toNat) fm rm (srDraw p rm 64 i) i)
      (flagIf (!big.isEmpty) flagPOSOVF)))

/-! ### Scaling and random bits (07 R201, R220) -/

/-- VSCL.fmt.rm vd, va: the scale is bits [31:0] of the head of qx (07 R201). -/
def execVscl (w : BitVec 3) (d a : BitVec 5) (f r : BitVec 3) (x m : BitVec 1) (s : State) : Out :=
  let fm := Fmt.ofVec f.toNat
  let n := 2048 / fm.bits
  let sc := (s.me.qxHead s.atk).setWidth 32
  let chk := s.qxEmpty ++
    s.fails ((qHead s.me.q.qx s.atk).isSome && !(qBad s.me.q.qx s.atk) && !(scaleValid sc)) .x causeScale 0 sc.toNat
  .next (s.xMode (.vscl w d a f r x m) ([.v a.toNat] ++ maskSrc m) chk r.toNat n (fun rm now p =>
    p.popQx.writeElems now (fpLat f.toNat) d.toNat (p.execMask m) fm.bits n (fun e =>
      let b := elemOf (p.vreg a.toNat) fm.bits e
      let y := xmul (fm.decode b) (Fmt.fp32.decode sc.toNat)
      let q := roundSat y.val fm (decide (x = 1)) rm (srDraw p rm n e)
      ⟨q.bits, q.flags ||| snanFlag fm b ||| flagIf y.nv flagNV⟩) 0))

/-- VRNG vd: lane i takes word y0 of its draw of stream 4; all 64 lanes draw (07 R220). -/
def execVrng (w : BitVec 3) (d : BitVec 5) (m : BitVec 1) (s : State) : Out :=
  .next (s.timedTo (.vrng w d m) .x (maskSrc m) [] 64 (s.atk + 1) false (fun t => t.onPipe s.curPipe (fun p =>
    p.writeElems s.atk 4 d.toNat (p.execMask m) 32 64 (fun i =>
      ⟨(srWord p.csr.seedLo p.csr.seedHi p.csr.seat 4 (p.csr.cbase + p.csr.elem + BitVec.ofNat 48 i)).toNat, 0⟩) 0)))

/-! ### Branches, loops and tokens (07 R221 to R224) -/

/-- XBR{.N}: pops one bit from bq; taken when b ^ N = 1. An empty bq slips and is not taken, as does a damaged bit; an
illegal target pops nothing (07 R221; 23 R463). -/
def execXbr (w : BitVec 3) (n : BitVec 1) (i : BitVec 19) (s : State) : Out :=
  match s.popSlips .x s.me.q.bq 27, qHead s.me.q.bq s.atk with
  | [], some b => .next (s.branchWord (.xbr w n i) .x [] [] (b != decide (n = 1)) i
      (fun p => { p with q := { p.q with bq := p.q.bq.tail } }))
  | slips, _ => .next (s.timed (.xbr w n i) .x [] slips id)

/-- XLSPAN (07 R222). -/
def execXlspan (w : BitVec 3) (n : BitVec 23) (s : State) : Out :=
  .next (s.timedTo (.xlspan w n) .x [] [] 0 (s.atk + 1) true
    (fun t => t.onPipe s.curPipe (fun p => { p with x := { p.x with span := n.toNat } })))

/-- XLOOP: the count is the head of qx; an empty qx slips and the loop runs with count 0 (07 R223); a damaged head is not
popped, and no loop is entered (23 R463). -/
def execXloop (w : BitVec 3) (l m : BitVec 9) (s : State) : Out :=
  .next (if qBad s.me.q.qx s.atk && !(s.me.x.badLoop l.toNat) then s.timed (.xloop w l m) .x [] s.qxEmpty id
    else s.loopWord (.xloop w l m) .x [] s.qxEmpty l.toNat m.toNat (s.me.qxHead s.atk).toNat
      (fun p => if (qHead p.q.qx s.atk).isSome then p.popQx else p))

/-- GIVE in X (07 R224). -/
def execXGive (w : BitVec 3) (q : BitVec 4) (c : BitVec 6) (s : State) : Out := .next (s.give (.xGive w q c) .x q c)
/-- TAKE in X (07 R224). -/
def execXTake (w : BitVec 3) (q : BitVec 4) (c : BitVec 6) (s : State) : Out := .next (s.take (.xTake w q c) .x q c)

end Sys2Proof.Machine
end

