-- ==== Sys2Proof/Machine/Nest.lean ====
section
/-! DEFINITION. Matrix nests and the accumulator store (06): NEST, MGO, K-steps and the accumulator words. -/
namespace Sys2Proof.Machine

/-! ### The nest table (R173 to R175) -/

/-- The field of code `c` at level `l`. -/
def nestField (t : SMap (BitVec 32)) (l c : Nat) : Nat := (t.get (l * 16 + c) 0).toNat

/-- Width of a field (Table 6-1). -/
def nestWidth (c : Nat) : Nat :=
  match c with
  | 0 => 16 | 1 => 2 | 4 => 8 | 8 => 5 | 9 => 6 | 10 => 23 | 11 => 23 | 12 => 23 | 13 => 6 | 14 => 5 | _ => 32

/-- The signed value of a field. -/
def nestSigned (t : SMap (BitVec 32)) (l c : Nat) : Int := signedOf (nestWidth c) (nestField t l c)

/-- COUNT of level `l`. -/
def nestCount (t : SMap (BitVec 32)) (l : Nat) : Nat := nestField t l 0 + 1
/-- ROLE of level `l`: 0 K, 1 M, 2 N. -/
def nestRole (t : SMap (BitVec 32)) (l : Nat) : Nat := nestField t l 1
/-- KS: the product of the counts (R177). -/
def nestSteps (t : SMap (BitVec 32)) : Nat := (List.range 6).foldl (fun a l => a * nestCount t l) 1

/-- LATCH of ASRC. -/
def nestLatch (t : SMap (BitVec 32)) : Bool := decide (nestField t 0 8 / 8 % 2 = 1)
/-- GIDX of ASRC. -/
def nestGidx (t : SMap (BitVec 32)) : Bool := decide (nestField t 0 8 / 16 % 2 = 1)
/-- Stream register that types A. -/
def nestAst (t : SMap (BitVec 32)) : Nat := nestField t 0 8 % 8
/-- Stream register that types B. -/
def nestBst (t : SMap (BitVec 32)) : Nat := nestField t 0 9 % 8
/-- FROM of BSRC: 0 tensor SRAM, 1 east, 2 west. -/
def nestFrom (t : SMap (BitVec 32)) : Nat := nestField t 0 9 / 8 % 4
/-- FWD of BSRC. -/
def nestFwd (t : SMap (BitVec 32)) : Bool := decide (nestField t 0 9 / 32 % 2 = 1)
/-- SAT of CTL. -/
def nestSat (t : SMap (BitVec 32)) : Bool := decide (nestField t 0 14 / 8 % 2 = 1)
/-- ZERO of CTL. -/
def nestZero (t : SMap (BitVec 32)) : Bool := decide (nestField t 0 14 / 16 % 2 = 1)

/-- Operand class of a format code: 0 16-bit, 1 8-bit, 2 4-bit, 3 FP32, 4 FP64 (Table 6-2). -/
def nestClass (c : Nat) : Option Nat :=
  match c with
  | 1 => some 0 | 2 => some 0 | 3 => some 1 | 4 => some 1 | 5 => some 1 | 7 => some 2 | 8 => some 2
  | 0 => some 3 | 9 => some 4 | _ => none

/-- Group G of a class. -/
def nestGroup (c : Nat) : Nat := if c = 1 then 2 else if c = 2 then 4 else 1
/-- Cycles per K-step of a class. -/
def nestCpk (c : Nat) : Nat := if c = 3 then 4 else if c = 4 then 16 else 1
/-- Columns NC of a class. -/
def nestCols (c : Nat) : Nat := if c = 4 then 24 else 48

/-- The class of the nest that holds copies `a` and `b`. -/
def Nest.cls (x : Nest) : Nat := (nestClass x.a.fmt).getD 0
/-- The accumulator format AF (Table 6-2). -/
def Nest.af (x : Nest) : Fmt :=
  if x.a.fmt = 9 then .fp64
  else if x.a.fmt = x.b.fmt ∧ (x.a.fmt = 5 ∨ x.a.fmt = 7) ∧ x.a.scl = false ∧ x.b.scl = false then .int32
  else .fp32

/-- The fields of a descriptor that MGO copies (R176). -/
def NestDesc.ofDesc (d : Desc) : NestDesc :=
  { fmt := d.fmt, cbr := d.cbr, scl := d.scl, blk := d.blk, sbase := d.sbase, srow := d.srow }

/-- NEST level, field, sa: the low bits of sa, written at the end of the cycle (04 R132). MGO and NEST issue in one
stream, so no word sees the table in between. -/
def execNest (w l : BitVec 3) (f : BitVec 4) (a : BitVec 5) (s : State) : Out :=
  .next (s.timedPipe (.nest w l f a) .c [.s a.toNat] [] (fun _ p =>
    let v := BitVec.ofNat 32 ((p.sreg a.toNat).toNat % 2 ^ nestWidth f.toNat)
    let n := l.toNat * 16 + f.toNat
    { p with mx := { p.mx with
        nest := { p.mx.nest with shadow := p.mx.nest.shadow.set n v }
        badNest := p.mx.badNest.filter (fun m => !(m == n)) } }))

/-! ### MGO (R176) -/

/-- The least and the greatest of base + Σ i_l × field over the nest (R177). -/
def nestSpan (t : SMap (BitVec 32)) (base : Int) (c : Nat) : Int × Int :=
  (List.range 6).foldl (fun (e : Int × Int) l =>
    let z := nestSigned t l c * (nestField t l 0 : Nat)
    if z < 0 then (e.1 + z, e.2) else (e.1, e.2 + z)) (base, base)

/-- A span of offsets with `n` bytes at each lies within tensor SRAM. -/
def spanIn (e : Int × Int) (n : Nat) : Bool := inTensor e.1 n && inTensor e.2 n

/-- The span widened by rows `k` = 0 to 63 times `step`. -/
def spanRows (e : Int × Int) (step : Int) : Int × Int :=
  if step < 0 then (e.1 + 63 * step, e.2) else (e.1, e.2 + 63 * step)

/-- The first level at which ROLE breaks item 1. -/
def nestBadRole (t : SMap (BitVec 32)) : Option Nat :=
  (List.range 6).find? (fun l => decide (nestRole t l = 3) || (decide (l = 0) && decide (nestRole t l ≠ 0)) ||
    (decide (nestRole t l = 0) && (List.range l).any (fun k => decide (nestRole t k ≠ 0))))

/-- Item 8: the fields in the order that Table 6-7 gives, with the multiples they must be. -/
def nestAligned (t : SMap (BitVec 32)) (ea eb : Nat) : List (Nat × Int × Nat) :=
  let per := fun (c m : Nat) => (List.range 6).map (fun l => (l * 8 + c, nestSigned t l c, m))
  ((50, (nestField t 0 10 : Int), ea) :: per 2 ea) ++
  (if nestLatch t then [] else [(55, nestSigned t 0 15, ea)]) ++
  (if nestFrom t = 0 then (51, (nestField t 0 11 : Int), eb) :: per 3 eb else []) ++
  (if nestGidx t then (52, (nestField t 0 12 : Int), 256) :: per 5 256 else [])

/-- The DETAIL of an invalid nest table, by the lowest item that fails (Table 6-7); none where it is valid. DESIGN CHOICE (log 86):
with GIDX = 1 item 7 exempts the A rows alone, and the bytes of B are judged before the index vector. -/
def nestInvalid (p : Pipe) (t : SMap (BitVec 32)) : Option Nat :=
  match nestBadRole t with
  | some l => some (l * 8 + 1)
  | none =>
    if 2 ^ 40 < nestSteps t then
      ((List.range 6).reverse.find? (fun l => decide (1 < nestCount t l))).map (fun l => l * 8)
    else
      match (p.streg (nestAst t)).desc, (p.streg (nestBst t)).desc with
      | some da, some db =>
        match nestClass da.fmt, nestClass db.fmt with
        | some ca, some cb =>
          if ca ≠ cb ∨ da.kind = 1 ∨ db.kind = 1 ∨ da.kv ≠ 0 ∨ db.kv ≠ 0 then some 63
          else if nestLatch t && nestGidx t then some 48
          else if nestFrom t = 3 then some 49
          else if (p.mode (nestField t 0 14 % 8)).isNone then some 54
          else
            let slots := nestSpan t (nestField t 0 13 : Nat) 4
            let g := nestGroup ca
            let ba := g * (fmtOf da.fmt).bits / 8
            let bb := g * nestCols ca * (fmtOf db.fmt).bits / 8
            let a := nestSpan t (nestField t 0 10 : Nat) 2
            let b := nestSpan t (nestField t 0 11 : Nat) 3
            let x := nestSpan t (nestField t 0 12 : Nat) 5
            let aOk := if nestLatch t then decide (0 ≤ a.1) && decide (a.2 + ba ≤ 64)
              else nestGidx t || spanIn (spanRows a (nestSigned t 0 15)) ba
            if slots.1 < 0 ∨ 47 < slots.2 then some 53
            else if !aOk then some 50
            else if nestFrom t = 0 && !(spanIn b bb) then some 51
            else if nestGidx t && !(spanIn x 256) then some 52
            else ((nestAligned t (fmtAlign (fmtOf da.fmt)) (fmtAlign (fmtOf db.fmt))).find?
              (fun e => decide (e.2.1 % (e.2.2 : Int) ≠ 0))).map (fun e => e.1)
        | _, _ => some 63
      | _, _ => some 63

/-- The nest that MGO starts in cycle `now` (04 R133; R176, R182). -/
def Nest.start (x : Nest) (now : Tick) (da db : Desc) (rm : Nat) : Nest :=
  let c := (nestClass da.fmt).getD 0
  { shadow := x.shadow, active := x.shadow, go := true, a := .ofDesc da, b := .ofDesc db, rm := rm, n := 0,
    at_ := now + 4, fin := now + 12 + BitVec.ofNat 64 (nestSteps x.shadow * nestCpk c), seen := [], load := 0 }

/-- The code of a resolved mode. -/
def RMode.code (r : RMode) : Nat :=
  match r with
  | .rne => 0 | .rtz => 1 | .rdn => 2 | .rup => 3 | .rna => 4 | .sr => 5

/-- MGO (04 R133; R176). A damaged entry of the shadow table, which decides every other check, comes first (23 R463; log 91). DESIGN
CHOICE (log 86): an SCFG to a named stream register that issues in the cycle of the MGO gives no SCORE slip, since C issues before
L and S. -/
def execMgo (w : BitVec 3) (s : State) : Out :=
  let p := s.me
  let x := p.mx.nest
  let chk := if x.go then s.fails true .c causeIllOp 0 0
    else if p.mx.badNest.any (fun n => decide (n < 96)) then s.fails true .c causeEcc 0 0
    else match nestInvalid p x.shadow with
      | some d => s.fails true .c causeIllOp d 0
      | none => []
  .next (s.timedPipe (.mgo w) .c [.st (nestAst x.shadow), .st (nestBst x.shadow)] chk (fun now p =>
    match (p.streg (nestAst x.shadow)).desc, (p.streg (nestBst x.shadow)).desc with
    | some da, some db =>
      let rm := ((p.mode (nestField x.shadow 0 14 % 8)).getD .rne).code
      { p with mx := { p.mx with nest := x.start now da db rm, badNest := p.mx.badNest.filter (fun n => decide (191 < n)) } }
    | _, _ => p))

/-! ### K-steps (R177 to R181) -/

/-- The level indices of K-step `n`, level 0 first (R177). -/
def nestDigits (t : SMap (BitVec 32)) (l k n : Nat) : List Nat :=
  match k with
  | 0 => []
  | k + 1 => n % nestCount t l :: nestDigits t (l + 1) k (n / nestCount t l)

/-- Σ i_l × field over the levels from `l` on. -/
def nestSum (t : SMap (BitVec 32)) (c l : Nat) (is : List Nat) : Int :=
  match is with
  | [] => 0
  | i :: r => (i : Int) * nestSigned t l c + nestSum t c (l + 1) r

/-- The linear index of the levels from `l` on whose role is `r`, the lowest fastest. -/
def nestLinear (t : SMap (BitVec 32)) (r l : Nat) (is : List Nat) : Nat :=
  match is with
  | [] => 0
  | i :: rest =>
    if nestRole t l = r then i + nestCount t l * nestLinear t r (l + 1) rest
    else nestLinear t r (l + 1) rest

/-- What K-step n reads and writes. `idx` holds the row indices under GIDX. -/
structure KStep where
  aoff : Int
  boff : Int
  ioff : Int
  slot : Nat
  first : Bool
  kt : Nat
  mt : Nat
  nt : Nat
  idx : List Int
  deriving DecidableEq, Repr

/-- K-step `n` of the active nest, indices read from tensor SRAM (R177, R178). -/
def Pipe.kstep (p : Pipe) (n : Nat) : KStep :=
  let t := p.mx.nest.active
  let is := nestDigits t 0 6 n
  let io := (nestField t 0 12 : Int) + nestSum t 5 0 is
  { aoff := (nestField t 0 10 : Int) + nestSum t 2 0 is, boff := (nestField t 0 11 : Int) + nestSum t 3 0 is,
    ioff := io, slot := ((nestField t 0 13 : Int) + nestSum t 4 0 is).toNat,
    first := decide (nestLinear t 0 0 is = 0), kt := nestLinear t 0 0 is, mt := nestLinear t 1 0 is,
    nt := nestLinear t 2 0 is,
    idx := if nestGidx t then (List.range 64).map (fun i => signedOf 32 (p.mem.sram.readLE (io.toNat + 4 * i) 4)) else [] }

/-- Row `i` of A is a row of zeros (R178). -/
def KStep.zeroRow (k : KStep) (i : Nat) : Bool := decide (k.idx[i]? = some (-1))

/-- The offset of row `i` of A in tensor SRAM (Table 6-3). -/
def KStep.rowAt (k : KStep) (arow : Int) (i : Nat) : Int :=
  k.aoff + (match k.idx[i]? with | some z => z | none => (i : Int)) * arow

/-- The scale row of row `i` of A (R179). -/
def KStep.scaleRow (k : KStep) (i : Nat) : Int :=
  match k.idx[i]? with | some z => z | none => ((k.mt * 64 + i : Nat) : Int)

/-- The offset of a scale word of a copied descriptor (R179). -/
def NestDesc.scaleAt (d : NestDesc) (row : Int) (k : Nat) : Int := scaleAddr d.sbase d.srow d.blk row k

/-- Bytes of a group of A. -/
def Nest.aBytes (x : Nest) : Nat := nestGroup x.cls * (fmtOf x.a.fmt).bits / 8
/-- Bytes of a block of B. -/
def Nest.bBytes (x : Nest) : Nat := nestGroup x.cls * nestCols x.cls * (fmtOf x.b.fmt).bits / 8

/-- The offsets of the A scale words of a K-step. -/
def Nest.aScales (x : Nest) (k : KStep) : List Int :=
  if x.a.scl then
    ((List.range 64).filter (fun i => !(k.zeroRow i))).map (fun i => x.a.scaleAt (k.scaleRow i) (k.kt * nestGroup x.cls))
  else []

/-- The offsets of the B scale words of a K-step. -/
def Nest.bScales (x : Nest) (k : KStep) : List Int :=
  if x.b.scl then
    (List.range (nestCols x.cls)).map (fun j =>
      x.b.scaleAt ((k.nt * nestCols x.cls + j : Nat) : Int) (k.kt * nestGroup x.cls))
  else []

/-- The tensor SRAM ranges of the A rows, B block and index vector that a K-step reads. -/
def Nest.reads (x : Nest) (k : KStep) : List (Int × Nat) :=
  let t := x.active
  (if nestLatch t then []
   else ((List.range 64).filter (fun i => !(k.zeroRow i))).map (fun i => (k.rowAt (nestSigned t 0 15) i, x.aBytes))) ++
  (if nestFrom t = 0 then [(k.boff, x.bBytes)] else []) ++
  (if nestGidx t then [(k.ioff, 256)] else [])

/-- The bits of element (i, g) of A. -/
def Pipe.aElem (p : Pipe) (k : KStep) (i g : Nat) : Nat :=
  let x := p.mx.nest
  let w := (fmtOf x.a.fmt).bits
  let raw := if nestLatch x.active then (p.mx.latchA.get i 0).toNat / 2 ^ (8 * k.aoff.toNat)
    else p.mem.sram.readLE (k.rowAt (nestSigned x.active 0 15) i).toNat x.aBytes
  raw / 2 ^ (w * g) % 2 ^ w

/-- The B block of a K-step: from tensor SRAM, or the drawbar word `d`. -/
def Pipe.bBlock (p : Pipe) (k : KStep) (d : VWord) : Nat :=
  let x := p.mx.nest
  if nestFrom x.active = 0 then p.mem.sram.readLE k.boff.toNat x.bBytes else d.toNat

/-- A scale word's exact value. -/
def Pipe.scaleVal (p : Pipe) (o : Int) : XVal := Fmt.fp32.decode (p.mem.sram.readLE o.toNat 4)

/-- The exact sum of a group's products, whether one is invalid, and the flags of signalling operands (02 R64).
DESIGN CHOICE (log 62): infinity + (−infinity) within the group or with the accumulator raises NV too, and the fold runs
from the group's last product to its first, which decides NV where a NaN stands in the same group. -/
def groupSum (as bs : List (XVal × FlagSet)) (down : Bool) : XRes × FlagSet :=
  match as, bs with
  | (a, fa) :: as, (b, fb) :: bs =>
    let m := xmul a b
    match as with
    | [] => (m, fa ||| fb)
    | _ =>
      let (r, fr) := groupSum as bs down
      let y := xadd m.val r.val down
      (⟨y.val, y.nv || m.nv || r.nv⟩, fa ||| fb ||| fr)
  | _, _ => (⟨.fin false 0 0 false, false⟩, 0)

/-- One group applied to a floating accumulator (02 R64). -/
def fpCell (af : Fmt) (rm : RMode) (draw acc : Nat) (t : XRes) (fl : FlagSet) (scales : Option (XVal × XVal)) : FRes :=
  let t' : XRes := match scales with
    | none => t
    | some (sa, sb) =>
      let u := xmul t.val sa
      let v := xmul u.val sb
      ⟨v.val, t.nv || u.nv || v.nv⟩
  let y := xadd (af.decode acc) t'.val (decide (rm = .rdn))
  let r := roundX y.val af rm draw
  ⟨r.bits, r.flags ||| fl ||| snanFlag af acc ||| flagIf (t'.nv || y.nv) flagNV⟩

/-- One group applied to an integer accumulator (02 R64). -/
def intCell (sat : Bool) (acc : Nat) (t : Int) : Nat :=
  let z := signedOf 32 acc + t
  if sat && decide (z < -2147483648) then 0x80000000
  else if sat && decide (2147483647 < z) then 0x7FFFFFFF
  else wrapInt 32 z

/-- Current of row `r`: what this nest has written last, or the store's value (R177). -/
def Matrix.current (m : Matrix) (r : Nat) : BitVec 1536 :=
  match m.nest.seen.find? (fun e => e.1 == r) with
  | some e => e.2
  | none => m.acc.get r 0

/-- The cells of row `i` of the tile after a K-step, and the flags raised. -/
def Pipe.tileRow (p : Pipe) (k : KStep) (bs : List (List (XVal × FlagSet))) (sbs : List XVal) (i : Nat) : Nat × FlagSet :=
  let x := p.mx.nest
  let g := nestGroup x.cls
  let nc := nestCols x.cls
  let w := if x.af = .fp64 then 64 else 32
  let fa := fmtOf x.a.fmt
  let rm := (RMode.ofCode x.rm).getD .rne
  let old := if k.first && nestZero x.active then 0 else (p.mx.current (64 * k.slot + i)).toNat
  let as := (List.range g).map (fun e =>
    if k.zeroRow i then (XVal.fin false 0 0 false, (0 : FlagSet)) else valueOf fa (p.cbreg x.a.cbr) (p.aElem k i e))
  let one : XVal := .fin false 1 0 false
  let sa := if x.a.scl && !(k.zeroRow i) then p.scaleVal (x.a.scaleAt (k.scaleRow i) (k.kt * g)) else one
  let cells := (List.range nc).map (fun j =>
    let acc := old / 2 ^ (w * j) % 2 ^ w
    let (t, fl) := groupSum as (bs.getD j []) (decide (rm = .rdn))
    if x.af = Fmt.int32 then (⟨intCell (nestSat x.active) acc (intOf t.val), 0⟩ : FRes)
    else fpCell x.af rm (if rm = RMode.sr then p.draw 1 (i * nc + j) else 0) acc t fl
      (if x.a.scl || x.b.scl then some (sa, sbs.getD j one) else none))
  (packElems w nc (fun j => (cells.getD j ⟨0, 0⟩).bits), cells.foldl (fun f c => f ||| c.flags) 0)

/-- The codebooks that a nest decodes with. -/
def Nest.books (x : Nest) : List RegRef :=
  (if x.a.fmt = 8 then [RegRef.cb x.a.cbr] else []) ++ (if x.b.fmt = 8 then [RegRef.cb x.b.cbr] else [])

/-- The faults that K-step `k` of pipeline `g` meets at T, but for an empty drawbar (R178, R155, R487); none hides another
(09 R288). DESIGN CHOICE (log 63): among several invalid scale words of one operand, INFO names the first in row order of A,
or in column order of B. -/
def State.kstepFaults (s : State) (g : Nat) (k : KStep) : List Det :=
  let p := s.pipe g
  let x := p.mx.nest
  let det := fun (cause info : Nat) => ({ cause := cause, stream := 1, pc := 0, detail := 0, info := BitVec.ofNat 32 info } : Det)
  let scales := x.aScales k ++ x.bScales k
  let all : List (Int × Nat) := x.reads k ++ scales.map (fun o => (o, 4))
  let rs := all.filter (fun e => inTensor e.1 e.2)
  let ill := if rs.length < all.length then [det causeIllOp 0] else []
  let bank := match rs.findSome? (fun e => (s.bankSlips g 1 0 e.1.toNat e.2).head?) with
    | none => [] | some d => [d]
  let ecc := match rs.findSome? (fun e => (s.eccSlips g 1 0 e.1.toNat e.2).head?) with
    | none => [] | some d => [d]
  let bad := match scales.find? (fun o => inTensor o 4 && !(scaleValid (BitVec.ofNat 32 (p.mem.sram.readLE o.toNat 4)))) with
    | none => [] | some o => [det causeScale o.toNat]
  let rows := if k.first && nestZero x.active then []
    else ((List.range 64).map (fun i => 64 * k.slot + i)).filter (fun r => !(x.seen.any (fun e => e.1 == r)))
  let east := decide (nestFrom x.active = 1)
  let odd := if p.parityIn x.books || p.mx.badNest.any (fun n => decide (96 ≤ n) && decide (n < 192)) ||
      (nestLatch x.active && (List.range 64).any (fun i => !(k.zeroRow i) && p.mx.badLatch.contains i)) ||
      (decide (nestFrom x.active ≠ 0) && !(p.drawbar east).isEmpty && p.drawbarBad east) then [det causeEcc 0] else []
  ill ++ bank ++ bad ++ ecc ++ odd ++ s.rowEcc g 1 0 rows

/-- The SCORE slips of a K-step that decodes with a codebook still being loaded (05 R155). DESIGN CHOICE (log 86): an LDCB that
issues in the cycle T gives none, since K-steps run before L issues. -/
def Pipe.kstepScores (p : Pipe) : List Det :=
  let x := p.mx.nest
  (p.scores .c x.books).map (fun d => { d with stream := 1, pc := 0 })

/-- The nest after K-step n: the next one's number and cycle, and the port charge of the step in progress. -/
def Nest.stepped (x : Nest) (load : Nat) : Nest :=
  { x with n := x.n + 1, at_ := x.at_ + BitVec.ofNat 64 (nestCpk x.cls), load := load }

/-- The pipeline after the cells of a K-step have been formed: the rows overlay the store for later K-steps and
become readable 9 cycles after the step's last cycle (R177, R182). -/
def Pipe.kstepWrite (p : Pipe) (now : Tick) (k : KStep) (d : VWord) : Pipe :=
  let x := p.mx.nest
  let g := nestGroup x.cls
  let nc := nestCols x.cls
  let fb := fmtOf x.b.fmt
  let blk := p.bBlock k d
  let bs := (List.range nc).map (fun j => (List.range g).map (fun e =>
    valueOf fb (p.cbreg x.b.cbr) (blk / 2 ^ (fb.bits * (e * nc + j)) % 2 ^ fb.bits)))
  let sbs := (x.bScales k).map p.scaleVal
  let rows := (List.range 64).map (fun i => (64 * k.slot + i, p.tileRow k bs sbs i))
  let vals := rows.map (fun r => (r.1, BitVec.ofNat 1536 r.2.1))
  let fl := rows.foldl (fun f r => f ||| r.2.2) 0
  let q := p.produce .c now (nestCpk x.cls + 8) (.acc vals) fl
  { q with mx := { q.mx with staging := BitVec.ofNat 8192 (blk % 2 ^ (8 * x.bBytes)),
                             badNest := q.mx.badNest.filter (fun n => decide (n < 192)),
                             nest := { x with seen := vals.foldl (fun m r => m.set r.1 r.2) x.seen } } }

/-- Bytes that a K-step charges to the read port in each of its cycles, without the index vector (R180). -/
def Nest.charge (x : Nest) (k : KStep) : Nat :=
  let a := if nestLatch x.active then 0
    else ((List.range 64).filter (fun i => !(k.zeroRow i))).length * x.aBytes
  let b := if nestFrom x.active = 0 then x.bBytes else 0
  (a + b) / nestCpk x.cls

/-- The draws of a K-step (R181). -/
def Nest.draws (x : Nest) : Nat :=
  if x.rm = 5 ∧ x.af ≠ .int32 then 64 * nestCols x.cls else 0

/-- K-step n of pipeline `g` in its first cycle T (R177, R178). DESIGN CHOICE (log 86): one that takes no effect charges the read
port in none of its cycles (R180). -/
def State.runKstep (s : State) (g : Nat) : State :=
  let p := s.pipe g
  let x := p.mx.nest
  let now := s.now (dieOfPipe g)
  let k := p.kstep x.n
  let faults := s.kstepFaults g k
  let east := decide (nestFrom x.active = 1)
  let empty := decide (nestFrom x.active ≠ 0) && (p.drawbar east).isEmpty
  let slip : List Det := if empty then
      [{ cause := causeToken, stream := 1, pc := 0, detail := if east then 28 else 29, info := 0 }] else []
  let p1 := (p.detect (p.kstepScores ++ faults ++ slip)).drawn x.draws
  let ok := faults.isEmpty && !empty
  let load := if ok then x.charge k else 0
  let idxLoad := if ok && nestGidx x.active then 256 else 0
  let d := (p.drawbar east).headD 0
  let pops := ok && decide (nestFrom x.active ≠ 0)
  let p2 := if ok then p1.kstepWrite now k d else p1
  let p3 := if pops then p2.popDrawbar east else p2
  let p4 : Pipe := { p3 with mx := { p3.mx with nest := p3.mx.nest.stepped load } }
  let s1 := s.setPipe g (p4.charge (load + idxLoad))
  if pops && nestFwd x.active then s1.sendDrawbar g (!east) now d else s1

/-- NEST_K_STEP: where K-step n of pipeline `g` has its first cycle now (R177). -/
def execNestKStep (g : Nat) (s : State) : Out :=
  let x := (s.pipe g).mx.nest
  if x.go && decide (x.at_ = s.now (dieOfPipe g)) && decide (x.n < nestSteps x.active) then .next (s.runKstep g)
  else .next s

/-- NEST_DONE: at F the final values are readable and the go bit is clear (R182). -/
def execNestDone (g : Nat) (s : State) : Out :=
  let x := (s.pipe g).mx.nest
  if x.go && decide (x.fin = s.now (dieOfPipe g)) then
    .next (s.onPipe g (fun p => { p with mx := { p.mx with nest := { x with go := false, seen := [], load := 0 } } }))
  else .next s

/-! ### Accumulator words (R184 to R187) -/

/-- The tile slots that the running nest writes (R187): SLOT0 and the sums of the levels' steps. -/
def nestSlots (t : SMap (BitVec 32)) : List Int :=
  (List.range 6).foldl (fun acc l =>
    let c := nestSigned t l 4
    let n := if c = 0 then 1 else Nat.min (nestCount t l) 48
    (acc.flatMap (fun z => (List.range n).map (fun (i : Nat) => z + (i : Int) * c))).eraseDups) [(nestField t 0 13 : Int)]

/-- The running nest writes slot `n`. -/
def Nest.owns (x : Nest) (n : Nat) : Bool := x.go && (nestSlots x.active).contains (n : Int)

/-- ACCRD vd, row (R184). -/
def execAccrd (w : BitVec 3) (d : BitVec 5) (r : BitVec 12) (s : State) : Out :=
  .next (s.timedPipe (.accrd w d r) .x [] (s.rowEcc s.curPipe 2 s.me.x.pc [r.toNat]) (fun now p =>
    p.produce .x now 5 (.vreg d.toNat ((p.mx.acc.get r.toNat 0).setWidth 2048) (-1)) 0))

/-- ACCWR va, row: readable from the next cycle (R184, R187). -/
def execAccwr (w : BitVec 3) (a : BitVec 5) (r : BitVec 12) (s : State) : Out :=
  .next (s.timedPipe (.accwr w a r) .x [.v a.toNat]
    (s.fails (s.me.mx.nest.owns (r.toNat / 64)) .x causeIllOp 0 0) (fun now p =>
      p.produce .x now 1 (.acc [(r.toNat, (p.vreg a.toNat).setWidth 1536)]) 0))

/-- ACCZ slot (R185, R187). -/
def execAccz (w : BitVec 3) (n : BitVec 6) (s : State) : Out :=
  .next (s.timedPipe (.accz w n) .x [] (s.fails (s.me.mx.nest.owns n.toNat) .x causeIllOp 0 0) (fun now p =>
    p.produce .x now 1 (.acc ((List.range 64).map (fun i => (64 * n.toNat + i, 0)))) 0))

/-- The conversion of one accumulator cell (Table 6-5): formats as 03 Table 3-13. -/
def accCell (f : Nat) (sat : Bool) (rm : RMode) (draw b : Nat) : FRes :=
  let fm := Fmt.ofVec f
  if fm = Fmt.int32 then ⟨b, 0⟩
  else if fm.isInt then
    if sat then roundSat (.ofInt (signedOf 32 b)) fm true .rne 0 else ⟨b % 256, 0⟩
  else
    let r := roundSat (Fmt.fp32.decode b) fm sat rm draw
    ⟨r.bits, r.flags ||| snanFlag .fp32 b⟩

/-- ACCST.fmt.rm dq, row (R186): draws 48 under SR; the entry counts from issue. -/
def execAccst (w : BitVec 3) (q : BitVec 1) (r : BitVec 12) (f o : BitVec 3) (x : BitVec 1) (s : State) : Out :=
  let i : Instr := .accst w q r f o x
  let dq := 4 + q.toNat
  let fm := Fmt.ofVec f.toNat
  let chk := s.fails (decide (16 ≤ (s.me.dqueue dq).length)) .x causeToken (16 + dq) 0 ++
    s.rowEcc s.curPipe 2 s.me.x.pc [r.toNat]
  match s.me.mode o.toNat with
  | none => .next (s.timed i .x [] (s.fails true .x causeIllOp 0 0 ++ chk) id)
  | some rm =>
    .next (s.timedTo i .x [] chk (if rm = RMode.sr ∧ fm.isInt = false then 48 else 0) (s.atk + 1) false (fun t =>
      t.onPipe s.curPipe (fun p =>
        let row := (p.mx.acc.get r.toNat 0).toNat
        let out := fun e => accCell f.toNat (decide (x = 1)) rm (if rm = RMode.sr then p.draw 2 e else 0) (row / 2 ^ (32 * e) % 2 ^ 32)
        let v := vecPack fm.bits 48 (fun e => (out e).bits)
        (p.setDq dq (qPush (p.dqueue dq) s.atk 6 v)).produce .x s.atk 6 .flags (flagsOf 48 (fun e => (out e).flags)))))

end Sys2Proof.Machine
end

