-- ==== Sys2Proof/Machine/GigOps.lean ====
section
/-! DEFINITION. The named operations of the dynamic plane that the meanings share: threads, registers, traps and the
handler chain, the event unit, translation, and the frame of every gig instruction (08 R225 to R228; 11 R317 to R321;
17 R375 to R383; 19 R424 to R426). -/
namespace Sys2Proof.Machine

/-! ### Units (01 R16) -/

/-- Gig `g`. -/
def State.gig (s : State) (g : Nat) : Gig := s.gigs.get g {}
/-- The state with gig `g` changed by `f`. -/
def State.onGig (s : State) (g : Nat) (f : Gig → Gig) : State := { s with gigs := s.gigs.set g (f (s.gig g)) }
/-- Coach `c`. -/
def State.coach (s : State) (c : Nat) : Coach := s.coaches.get c {}
/-- The state with coach `c` changed by `f`. -/
def State.onCoach (s : State) (c : Nat) (f : Coach → Coach) : State :=
  { s with coaches := s.coaches.set c (f (s.coach c)) }
/-- Context slot `x` of coach `c`. -/
def State.ctx (s : State) (c x : Nat) : Context := (s.coach c).ctxs.get x {}
/-- The state with context slot `x` of coach `c` changed by `f`. -/
def State.onCtx (s : State) (c x : Nat) (f : Context → Context) : State :=
  s.onCoach c (fun k => { k with ctxs := k.ctxs.set x (f (k.ctxs.get x {})) })

/-- The gig, coach and die of a thread, and its number in its coach. -/
def gigOf (t : Nat) : Nat := t / 4
/-- The coach of a thread. -/
def coachOf (t : Nat) : Nat := t / 32
/-- The die of a thread. -/
def dieOf (t : Nat) : Nat := t / 256
/-- A thread's number in its coach: rank × 4 + slot. -/
def localOf (t : Nat) : Nat := t % 32
/-- The die of a coach. -/
def dieOfCoach (c : Nat) : Nat := c / 8

/-- The context slot that runs on the coach of thread `t`. -/
def State.slotOf (s : State) (t : Nat) : Option Nat := (s.coach (coachOf t)).run

/-- Thread `t` of the running context; a thread of no running context is absent. -/
def State.thread (s : State) (t : Nat) : Thread :=
  match s.slotOf t with
  | none => {}
  | some x => (s.ctx (coachOf t) x).threads.get (localOf t) {}

/-- The context with its thread `n` changed by `f`. -/
def Context.onThread (x : Context) (n : Nat) (f : Thread → Thread) : Context :=
  { x with threads := x.threads.set n (f (x.threads.get n {})) }

/-- The state with thread `t` of the running context changed by `f`. -/
def State.onThread (s : State) (t : Nat) (f : Thread → Thread) : State :=
  match s.slotOf t with
  | none => s
  | some x => s.onCtx (coachOf t) x (fun c => c.onThread (localOf t) f)

/-- The thread that acts. -/
def State.th (s : State) : Thread := s.thread s.curThread
/-- The state with the acting thread changed by `f`. -/
def State.onMe (s : State) (f : Thread → Thread) : State := s.onThread s.curThread f
/-- The launch of the running context on a coach. -/
def State.launchOn (s : State) (c : Nat) : Nat :=
  match (s.coach c).run with
  | none => 0
  | some x => (s.ctx c x).lid
/-- The partition of a thread's die; a thread of no partition has none. -/
def State.partOfThread (s : State) (t : Nat) : Nat := (s.partOf (dieOf t)).getD 0
/-- CYCLE of a die's gigs. -/
def State.cycle (s : State) (d : Nat) : Word := (s.die d).gigCycle

/-- The next free value (log 2). -/
def State.freeVal (s : State) : Nat := Config.freeNat s.free
/-- The state after a free value has been drawn. -/
def State.drawn (s : State) : State := { s with free := s.free + 1 }

/-! ### Registers (01 R33; 08 R225, R227) -/

/-- d register `n`; d0 reads 0. -/
def Thread.d (t : Thread) (n : Nat) : Word := if n = 0 then 0 else t.regs.get n 0

/-- An entry without the destination `n`: a later write to the register prevails over an outstanding access. -/
def Pending.forget (p : Pending) (n : Nat) : Pending :=
  match p with
  | .acc a => .acc (if a.dest = some n then { a with dest := none } else a)
  | f => f

/-- The thread with d register `n` written; a write to d0 is discarded, and a new result clears the register's mark. -/
def Thread.setD (t : Thread) (n : Nat) (v : Word) : Thread :=
  if n = 0 then t
  else { t with regs := t.regs.set n v, marks := SMap.erase t.marks n, odd := t.odd.filter (fun m => !(m == n)),
                pend := t.pend.map (fun p => p.forget n) }

/-- The wait of a thread ends with the value `v` in d register `d`. -/
def Thread.wake (th : Thread) (d : Nat) (v : Word) : Thread := { th with wait := .none, woke := some d }.setD d v

/-- The thread one instruction on. -/
def Thread.next (t : Thread) : Thread := { t with pc := t.pc + 4 }

/-- The outstanding accesses of a thread, in program order. -/
def Thread.accs (t : Thread) : List Access :=
  t.pend.filterMap (fun p => match p with | .acc a => some a | _ => none)

/-- Whether an access must still pass a check before its thread may issue again (R226). The own scratchpad, the
routing counters and the boards have no check left once issued. -/
def Access.unchecked (a : Access) (g : Nat) : Bool :=
  match a.target with
  | .paged => true
  | .near k _ => decide (k ≠ g)
  | .tensor .. => true
  | .event _ => true
  | .control _ => true
  | .livery _ => true
  | _ => false

/-- Thread number `t` may issue: it runs, waits for nothing, and its last access has passed its checks (R226). -/
def Thread.free (th : Thread) (t : Nat) : Bool :=
  decide (th.phase = .running) && decide (th.wait = .none) && !(th.accs.any (fun a => a.unchecked (gigOf t)))

/-- In gig cycle `now` a register holds the result of every earlier instruction (R225). -/
def Thread.present (th : Thread) (now n : Nat) : Bool :=
  decide (n = 0) || (!(th.accs.any (fun a => decide (a.dest = some n))) &&
    !(th.late.any (fun e => decide (e.dest = n) && decide (now < e.due))))

/-- The thread with the flags of the results that are written before gig cycle `n` in FFLAGS (02 R53). -/
def Thread.settle (th : Thread) (n : Nat) : Thread :=
  { th with fflags := (th.late.filter (fun e => decide (e.due < n))).foldl (fun f e => f ||| e.flags) th.fflags,
            late := th.late.filter (fun e => !(decide (e.due < n))) }

/-- FFLAGS once every result is written. -/
def Thread.allFlags (th : Thread) : BitVec 5 := th.late.foldl (fun f e => f ||| e.flags) th.fflags

/-- The thread with the result `v` of an instruction that issues in gig cycle `now` and takes `lat` cycles in d register `d`:
it is not read before, and its flags enter FFLAGS then (08 R225; 02 R53). -/
def Thread.setLate (th : Thread) (d : Nat) (v : Word) (now lat : Nat) (f : BitVec 5) : Thread :=
  let th1 := th.setD d v
  { th1 with late := th1.late ++ [{ dest := d, due := now + lat, flags := f }] }

/-- The first register of a list that a damaged load has marked (R227). -/
def Thread.marked (th : Thread) (rs : List Nat) : Option Word :=
  match rs.find? (fun n => th.marks.any (fun e => e.1 == n)) with
  | none => none
  | some n => some (th.marks.get n 0)

/-! ### Control registers (08 Tables 8-14 to 8-20) -/

/-- TSTATUS as a word. -/
def TrapRegs.status (r : TrapRegs) : Word :=
  BitVec.ofNat 64 ((if r.sliceClamped then 2 ^ 19 else 0) + (if r.sltrap then 2 ^ 17 else 0) +
    (if r.xie then 2 ^ 16 else 0) + r.sub.toNat * 2 ^ 12 + r.hops.toNat * 2 ^ 10 +
    (if r.inh then 2 ^ 9 else 0) + (if r.pprv then 2 ^ 8 else 0))

/-- TVEC as an address. -/
def TrapRegs.vector (r : TrapRegs) : Nat := r.tvec.toNat * 4

/-- The state after `bs` are written at physical address `pa`; a granule written whole is sound again (23 R463). -/
def State.writePhys (s : State) (pa : Nat) (bs : List Byte) : State :=
  { s with mem := s.mem.writeBytes pa bs,
           bad := s.bad.filter (fun g => !(decide (pa ≤ g * 32) && decide (g * 32 + 32 ≤ pa + bs.length))) }

/-! ### Road books and the black box (19 R428; 23 R468) -/

/-- The bytes of a road book: 4,096 entries of 16 bytes, oldest first, unused entries zero (R428). -/
def Book.bytes (b : Book) : List Byte :=
  (List.range (4096 - b.entries.length)).flatMap (fun _ => toBytes 16 0) ++
  b.entries.reverse.flatMap (fun e => toBytes 8 e.1.toNat ++ toBytes 8 e.2.toNat)

/-- A gig's book that has stopped is written to the save region, and records again (R429). -/
def State.flushBook (s : State) (g : Nat) : State :=
  let b := (s.gig g).book
  if b.left = some 0 then
    let base := (s.part ((s.partOf (g / 64)).getD 0)).csbase + 0x2000000 + g * 0x10000
    (s.writePhys base b.bytes).onGig g (fun x => { x with book := { b with left := none } })
  else s

/-- A road book entry of the gig of thread `t`. -/
def State.noteGig (s : State) (t kind addr data : Nat) : State :=
  (s.onGig (gigOf t) (fun g => { g with book := g.book.add (s.cycle (dieOf t)) kind addr data })).flushBook (gigOf t)

/-- A black-box entry in both rings, the latest 8,192 kept. -/
def State.box (s : State) (d kind : Nat) (source : BoxSource) (payload : Word) : State :=
  { s with fw := { s.fw with
      rings := (({ num := s.fw.nextBox, tick := (s.die d).tick, kind := kind, source := source,
                   payload := payload } : BoxEntry) :: s.fw.rings).take 8192
      nextBox := s.fw.nextBox + 1 } }

/-- Kinds of black-box entries: the spec names the events, the model numbers them (log 3). -/
def boxFreeze : Nat := 1
def boxHalt : Nat := 2
def boxEcc : Nat := 3
def boxRetire : Nat := 4
def boxTakeover : Nat := 5
def boxReset : Nat := 6

/-- The die of HBM controller `j`, and of the livery in it (01 R14). -/
def dieOfStack (j : Nat) : Nat := if j < 4 then j else 8 + j

/-- The die on which a cached translation lies (01 R34). -/
def TlbPlace.die (p : TlbPlace) : Nat :=
  match p with
  | .data g => g / 64
  | .instr g => g / 64
  | .victim g _ => g / 64
  | .way g _ _ => g / 64
  | .second c => c / 8
  | .engine c => c / 8
  | .copy => 0

/-- The die, or 16 + stack, whose counters an error at a source adds to (23 R461, R463); a port's are HOSTERR. -/
def BoxSource.unit (b : BoxSource) : Nat :=
  match b with
  | .die d => d
  | .pipe g => g / 32
  | .gig g => g / 64
  | .stack j => 16 + j
  | .port _ => 24

/-- One more host completion error or timeout (17 R389; 23 R466, R467). -/
def State.countHost (s : State) : State :=
  let h := s.fw.health
  let n := h.hosterr + 1
  { s with fw := { s.fw with health := { h with
      hosterr := n, replace := h.replace || decide (Config.hostThreshold < n.toNat) } } }

/-- One more uncorrectable error of the unit behind `b`. -/
def State.countUnit (s : State) (b : BoxSource) : State :=
  let k := b.unit
  let h := s.fw.health
  let n := Nat.min (h.unc.get k 0 + 1) 0xFFFFFFFF
  let tooMany := decide (Config.uncThreshold < n)
  { s with fw := { s.fw with
    health := { h with unc := h.unc.set k n, replace := h.replace || tooMany,
                       retired := if tooMany && decide (k < 16) then h.retired ||| BitVec.ofNat 16 (2 ^ k) else h.retired },
    marked := if tooMany && decide (k < 16) && !(h.retired.getLsbD k) then s.fw.marked ||| BitVec.ofNat 16 (2 ^ k)
              else s.fw.marked } }

/-- One more uncorrectable error, found at `b`: its counter, which for a host port is HOSTERR, and a black-box entry (17 R389;
23 R463, R465 to R468). -/
def State.countUnc (s : State) (b : BoxSource) : State :=
  (match b with
    | .port _ => s.countHost
    | _ => s.countUnit b).box (if b.unit < 16 then b.unit else 0) boxEcc b 0

/-- One more correction by the code of a die's memories or a stack; nothing else changes (23 R461, R467). -/
def State.countCor (s : State) (b : BoxSource) : State :=
  let k := b.unit
  let h := s.fw.health
  let n := Nat.min (h.cor.get k 0 + 1) 0xFFFFFFFF
  { s with fw := { s.fw with health := { h with cor := h.cor.set k n, replace := h.replace || decide (Config.corThreshold < n) } } }

/-! ### Event unit (08 R246 to R248; 11 R316 to R321) -/

/-- The WAITP result word (R247). -/
def waitpResult (phase token code : Nat) : Word :=
  let d := (phase + 65536 - token) % 65536
  let dn := if code = 3 then 0 else Nat.min d 255
  BitVec.ofNat 64 (phase * 65536 + dn * 256 + code)

/-- A thread released from phase `token` of barrier `n`, which is now at `phase` (R318). -/
def Thread.released (th : Thread) (n token phase : Nat) : Thread :=
  match th.wait with
  | .barrier m k d =>
    if m = n ∧ k = token then th.wake d (BitVec.ofNat 64 phase) else th
  | .phase m k d _ =>
    if m = n ∧ k = token then th.wake d (waitpResult phase token 0) else th
  | _ => th

/-- An arrival that reaches a barrier of context `x` on coach `c`; it is applied when the gig cycle ends (R317). -/
def State.arrive (s : State) (c x : Nat) (a : Arrival) : State :=
  s.onCtx c x (fun k => { k with arrivals := k.arrivals ++ [a] })

/-- A request for leave of context `x` on coach `c`; it is judged when the gig cycle ends (25 R484). -/
def State.ask (s : State) (c x : Nat) (a : LeaveAsk) : State :=
  s.onCtx c x (fun k => { k with asks := k.asks ++ [a] })

/-- The context with barrier `n` completed: the phase moves on and its waiters are released (R246, R318). -/
def Context.complete (x : Context) (n : Nat) : Context :=
  let b := x.bars.get n {}
  let p := b.phase + 1
  { x with bars := x.bars.set n { b with phase := p, count := 0 },
           threads := x.threads.map (fun e => (e.1, e.2.released n b.phase.toNat p.toNat)) }

/-- The releases that the completion of phase `token` of barrier `n` sends to its child barriers (R319). -/
def State.sendReleases (s : State) (lid c n token : Nat) : State :=
  let mine := fun (w : ChildWait) => decide (w.lid = lid) && decide (w.coach = c) && decide (w.bar = n) && decide (w.token = token)
  { s with kidWaits := s.kidWaits.filter (fun w => !(mine w)),
           evs := s.evs ++ (s.kidWaits.filter mine).map (fun w =>
             ({ kind := .release, coach := w.src, line := w.srcBar, lid := lid, src := c, srcBar := n } : EvMsg)) }

/-- Barrier `n` of context `x` on coach `c` has its count at EXPECT: it completes, or a chained barrier sends its child
arrival (R246, R319). -/
def State.reached (s : State) (c x n : Nat) : State :=
  let k := s.ctx c x
  let b := k.bars.get n {}
  if b.linked then
    let m : EvMsg := { kind := .childArrival, coach := b.lcoach, line := b.lbar, lid := k.lid, src := c, srcBar := n }
    { s.onCtx c x (fun k => { k with bars := k.bars.set n { b with sent := true } }) with evs := s.evs ++ [m] }
  else (s.onCtx c x (fun k => k.complete n)).sendReleases k.lid c n b.phase.toNat

/-- The token that the next arrival at a barrier is given (R246, R319). -/
def Barrier.token (b : Barrier) : Nat :=
  if b.sent then (b.phase.toNat + 1 + b.held / b.expect) % 65536 else b.phase.toNat

/-- One arrival at barrier `n` of context `x` on coach `c` (R246, R317, R319). -/
def State.arriveAt (s : State) (c x n : Nat) : State :=
  let b := (s.ctx c x).bars.get n {}
  if b.sent then s.onCtx c x (fun k => { k with bars := k.bars.set n { b with held := b.held + 1 } })
  else
    let s1 := s.onCtx c x (fun k => { k with bars := k.bars.set n { b with count := b.count + 1 } })
    if b.count + 1 = b.expect then s1.reached c x n else s1

/-- The release of a chained barrier: its phase completes, its own children are released, and its held arrivals
count towards the next phase (R319). -/
def State.releaseAt (s : State) (c x n : Nat) : State :=
  let k := s.ctx c x
  let b := k.bars.get n {}
  if b.sent then
    let s1 := (s.onCtx c x (fun k => k.complete n)).sendReleases k.lid c n b.phase.toNat
    let m := Nat.min b.held b.expect
    let s2 := s1.onCtx c x (fun k =>
      let b' := k.bars.get n {}
      { k with bars := k.bars.set n { b' with sent := false, count := m, held := b.held - m } })
    if m = b.expect ∧ 0 < b.expect then s2.reached c x n else s2
  else s

/-- The place of an arrival among those of its gig cycle: threads by number, the engine, children by coach (R317). -/
def Arrival.rank (a : Arrival) : Nat :=
  match a.who with
  | .thread n _ => n
  | .window n _ => n
  | .engine => 32
  | .child c b => 33 + c * 16 + b

/-- An arrival put in its place among others, which are in order; it follows those of its own place. -/
def putArrival (a : Arrival) (l : List Arrival) : List Arrival :=
  match l with
  | [] => [a]
  | b :: t => if a.rank < b.rank then a :: b :: t else b :: putArrival a t

/-- One arrival of the gig cycle that ends is applied: its thread gets the token and, through the window, waits for the phase;
a child's coach is noted for the release of the phase (R246, R317, R319). -/
def State.applyArrival (s : State) (c x : Nat) (a : Arrival) : State :=
  let k := s.ctx c x
  let tok := (k.bars.get a.bar {}).token
  let s1 : State := match a.who with
    | .thread n d => s.onCtx c x (fun k => k.onThread n (fun (th : Thread) => th.setD d (BitVec.ofNat 64 tok)))
    | .window n d => s.onCtx c x (fun k => k.onThread n (fun (th : Thread) =>
        if th.wait = .arriving a.bar d then { th with wait := .barrier a.bar tok d } else th))
    | .engine => s
    | .child src b =>
      let w : ChildWait := { lid := k.lid, token := tok, coach := c, bar := a.bar, src := src, srcBar := b }
      { s with kidWaits := s.kidWaits ++ [w] }
  s1.arriveAt c x a.bar

/-- The lowest-numbered thread of a context for which `p` holds. -/
def Context.lowest (x : Context) (p : Thread → Bool) : Option Nat :=
  (x.threads.find? (fun e => p e.2)).map (fun e => e.1)

/-- An event line is set: it releases the lowest waiting thread, or stays set (R248, R321). -/
def Context.setLine (x : Context) (n : Nat) : Context :=
  match x.lowest (fun th => match th.wait with | .line m _ => decide (m = n) | _ => false) with
  | some k => x.onThread k (fun th => match th.wait with
      | .line _ d => th.wake d 0
      | _ => th)
  | none => { x with lines := x.lines ||| BitVec.ofNat 32 (2 ^ n) }

/-- A mutex is let go: it passes to the lowest waiting thread, or becomes free (R320). -/
def Context.passMutex (x : Context) (n : Nat) : Context :=
  match x.lowest (fun th => match th.wait with | .mutex m _ => decide (m = n) | _ => false) with
  | some k => { x.onThread k (fun th => match th.wait with
      | .mutex _ d => th.wake d 0
      | _ => th) with mutex := x.mutex.set n k }
  | none => { x with mutex := SMap.erase x.mutex n }

/-- The contexts that a coach holds: running or switched out. -/
def Coach.holds (k : Coach) : List Nat :=
  (k.ctxs.filter (fun e => !(decide (e.2.state = .ended)))).map (fun e => e.1)

/-- Line `n` is set in every context that the coach holds (19 R421). -/
def State.setLineAll (s : State) (c n : Nat) : State :=
  (s.coach c).holds.foldl (fun s x => s.onCtx c x (fun k => k.setLine n)) s

/-- The context of launch `lid` that a coach holds. -/
def Coach.ctxOf (k : Coach) (lid : Nat) : Option Nat :=
  (k.ctxs.find? (fun e => decide (e.2.lid = lid) && !(decide (e.2.state = .ended)))).map (fun e => e.1)

/-! ### Leaving a launch (11 R310 to R312, R320; 19 R423) -/

/-- The launch `lid`. -/
def State.launch (s : State) (lid : Nat) : Option Launch := (s.launches.find? (fun e => e.1 == lid)).map (fun e => e.2)
/-- The state with launch `lid` changed by `f`, where it exists. -/
def State.onLaunch (s : State) (lid : Nat) (f : Launch → Launch) : State :=
  match s.launch lid with
  | none => s
  | some l => { s with launches := s.launches.set lid (f l) }

/-- Thread `n` of a context leaves: its wait is cancelled. The mutexes it holds pass on at the end of the gig cycle, once its
accesses have performed, as with a release (R320; 12 R335). -/
def Context.leave (x : Context) (n : Nat) : Context :=
  x.onThread n (fun th => { th with phase := .left, wait := .none, fflags := th.allFlags, late := [] })

/-- The mutexes of the threads that have left with every access performed pass on (R320; 12 R335). -/
def Context.freeLeft (x : Context) : Context :=
  (x.mutex.filter (fun e =>
    let th := x.threads.get e.2 {}
    decide (th.phase = .left) && th.accs.isEmpty)).foldl (fun x e => x.passMutex e.1) x

/-- The acquires of the gig cycle that ends take their mutexes in thread order, or wait, its releases being done (R320). -/
def Context.takeAsked (x : Context) : Context :=
  x.threads.foldl (fun x e => match e.2.wait with
    | .asking n d =>
      if (x.mutex.find? (fun m => m.1 == n)).isNone then
        { x.onThread e.1 (fun th => th.wake d 0) with mutex := x.mutex.set n e.1 }
      else x.onThread e.1 (fun th => { th with wait := .mutex n d })
    | _ => x) x

/-- Thread `n` of context `x` on coach `c` leaves its launch; its flags join the launch's summary (R311). -/
def State.leave (s : State) (c x n : Nat) : State :=
  let k := s.ctx c x
  let fl := (k.threads.get n {}).allFlags
  let s1 := (s.onCtx c x (fun k => k.leave n)).onLaunch k.lid (fun l => { l with flags := l.flags ||| fl })
  { s1 with held := s1.held.filter (fun e => !(decide (e.src = c * 32 + n) && decide (e.lid = k.lid))) }

/-- Every access of a context has performed. -/
def Context.quiet (k : Context) : Bool := k.threads.all (fun e => e.2.accs.isEmpty)

/-- Context `x` on coach `c` ends (19 R423): its threads leave, its unstarted cards are discarded. It stays on the coach until
its accesses have performed. -/
def State.endContext (s : State) (c x : Nat) (code : Word) : State :=
  let k := s.ctx c x
  let s1 := (k.threads.filter (fun e => decide (e.2.phase = .running) || decide (e.2.phase = .stalled))).foldl
    (fun s e => s.leave c x e.1) s
  let s2 := s1.onCtx c x (fun k => { k with state := .ended, inbox := [] })
  let s3 := s2.onCoach c (fun k' => { k' with
    cards := k'.cards.filter (fun d => !(decide (d.lid = k.lid) && decide (d.state = .waiting))),
    run := if k'.run = some x && (s2.ctx c x).quiet then none else k'.run })
  s3.onLaunch k.lid (fun l => { l with killed := some code })

/-! ### The context save area (19 R416, R420 to R422) -/

/-- The save area of context slot `x` of coach `c` (R416). -/
def State.ctxBase (s : State) (c x : Nat) : Nat :=
  (s.part ((s.partOf (dieOfCoach c)).getD 0)).csbase + (c * 8 + x) * 0x8000

/-- CSTATE of a context (19 Table 19-6). -/
def CtxState.code (c : CtxState) : Nat :=
  match c with
  | .running => 1
  | .out => 2
  | .ended => 3

/-- Words 0 and 3 of a context header (Table 19-6); KILL and KCODE stand as software wrote them. -/
def State.putHeader (s : State) (c x : Nat) : State :=
  let k := s.ctx c x
  let b := s.ctxBase c x
  let m := s.mem.writeLE b 8 (k.lid % 2 ^ 32 * 2 ^ 32 + k.state.code)
  { s with mem := m.writeLE (b + 24) 8 (k.inbox.length * 2 ^ 32 + k.slice % 2 ^ 32) }

/-- The bytes of an event unit: barriers of 8 bytes, mutex holders of 4, the lines (Table 19-5; log 51). -/
def Context.unitBytes (k : Context) (c : Nat) : List Byte :=
  (List.range 16).flatMap (fun n =>
    let b := k.bars.get n {}
    toBytes 8 (b.phase.toNat + b.count * 2 ^ 16 + b.held * 2 ^ 32)) ++
  (List.range 16).flatMap (fun n => toBytes 4 (match k.mutex.find? (fun e => e.1 == n) with
    | some e => c * 32 + e.2
    | none => 0xFFFFFFFF)) ++ toBytes 4 k.lines.toNat

/-- The saved part that arrivals change: header, event unit, inbox index and inbox (R421, R422). -/
def State.saveUnit (s : State) (c x : Nat) : State :=
  let k := s.ctx c x
  let b := s.ctxBase c x
  (((s.putHeader c x).writePhys (b + 0x100) (k.unitBytes c)).writePhys (b + 0xC00)
    (k.inbox.flatMap (fun e => toBytes 8 (c * 32 + e.1 + e.2.src % 4096 * 2 ^ 16)))).writePhys (b + 0x1000)
    (k.inbox.flatMap (fun e => e.2.body))

/-- The saved state of a switched-out context follows what is applied to it (R421). -/
def State.resave (s : State) (c x : Nat) : State :=
  if (s.ctx c x).state = .out then s.saveUnit c x else s

/-! ### Messages (08 R249, R250; 19 R422) -/

/-- A scratchpad after bytes are written: granules written whole are sound again (23 R463). -/
def Gig.put (g : Gig) (o : Nat) (bs : List Byte) : Gig :=
  { g with sp := g.sp.writeBytes o bs,
           bad := g.bad.filter (fun b => !(decide (o ≤ b * 8) && decide (b * 8 + 8 ≤ o + bs.length))) }

/-- Thread `n` belongs to a group of the context that has not exited (11 R312; 19 R423). -/
def Context.includes (x : Context) (n : Nat) : Bool :=
  !(decide ((x.threads.get n {}).phase = .absent)) && !(x.exited.getLsbD (n / 4))

/-- Thread `n` belongs to a running group of the context: none of an ended context is (08 R249; log 82). -/
def Context.serves (x : Context) (n : Nat) : Bool := !(decide (x.state = .ended)) && x.includes n

/-- The context slot in which thread `t` has a group: the running one, else the lowest (log 23). -/
def State.homeOf (s : State) (t : Nat) : Option Nat :=
  let k := s.coach (coachOf t)
  match k.run with
  | some x => if (s.ctx (coachOf t) x).serves (localOf t) then some x
    else (k.ctxs.find? (fun e => e.2.serves (localOf t))).map (fun e => e.1)
  | none => (k.ctxs.find? (fun e => e.2.serves (localOf t))).map (fun e => e.1)

/-- Room for a message to thread `t`: fewer than 2 in its queue, or fewer than 64 in the inbox. -/
def State.roomFor (s : State) (t : Nat) : Bool :=
  match s.homeOf t with
  | none => false
  | some x =>
    let k := s.ctx (coachOf t) x
    if k.state = .running then decide ((k.threads.get (localOf t) {}).inbox.length < 2)
    else decide (k.inbox.length < 64)

/-- Bytes written to the scratchpad of gig `g`; a line that is written holds victim entries no more (17 R384). -/
def State.spWrite (s : State) (g o : Nat) (bs : List Byte) : State :=
  let s1 := s.onGig g (fun x => x.put o bs)
  { s1 with tlb := s1.tlb.filter (fun e => match e.place with
      | .victim h l => !(decide (h = g) && decide (o < l * 64 + 64) && decide (l * 64 < o + bs.length))
      | _ => true) }

/-- A message delivered to thread `t`: a waiting RECV takes it, else it is queued, with its number among those of its
context (19 R422). -/
def State.deliver (s : State) (t : Nat) (m : Msg) : State :=
  match s.homeOf t with
  | none => s
  | some x =>
    let c := coachOf t
    let k := s.ctx c x
    let m1 : Msg := { m with num := k.msgs }
    if k.state = .running then
      match (k.threads.get (localOf t) {}).wait with
      | .recv off d =>
        (s.spWrite (gigOf t) off m.body).onCtx c x (fun k =>
          k.onThread (localOf t) (fun th => th.wake d (BitVec.ofNat 64 m.src)))
      | _ => s.onCtx c x (fun k =>
          { k.onThread (localOf t) (fun th => { th with inbox := th.inbox ++ [m1] }) with msgs := k.msgs + 1 })
    else (s.onCtx c x (fun k => { k with inbox := k.inbox ++ [(localOf t, m1)], msgs := k.msgs + 1 })).saveUnit c x

/-- A refused SEND put in its place: after those refused before, and after those of the same gig cycle and receiver with a lower
sender (R249). -/
def putHeld (e : HeldSend) (l : List HeldSend) : List HeldSend :=
  match l with
  | [] => [e]
  | x :: t => if x.dst = e.dst ∧ x.cycle = e.cycle ∧ e.src < x.src then e :: x :: t else x :: putHeld e t

/-- The thread of a held SEND runs: no switch has taken its context away (R249; 19 R420). -/
def State.sends (s : State) (e : HeldSend) : Bool :=
  decide (s.launchOn (coachOf e.src) = e.lid) && (match (s.thread e.src).wait with
    | .send .. => true
    | _ => false)

/-- A SEND of `body` from thread `t` to thread `r`: delivered, or held in the order of refusals (R249). -/
def State.sendMsg (s : State) (t r : Nat) (body : List Byte) : State :=
  if s.roomFor r && !(s.held.any (fun e => decide (e.dst = r) && s.sends e)) then s.deliver r { src := t, body := body }
  else { s.onThread t (fun th => { th with wait := .send r body }) with
           held := putHeld { src := t, lid := s.launchOn (coachOf t), dst := r, cycle := s.cycle (dieOf t) } s.held }

/-- The first held SEND to thread `r` whose thread runs, where room exists for it, is accepted (R249). -/
def State.acceptOne (s : State) (r : Nat) : State :=
  match s.held.find? (fun e => e.dst == r && s.sends e) with
  | none => s
  | some e =>
    match (s.thread e.src).wait with
    | .send _ body =>
      if s.roomFor r then
        (({ s with held := s.held.filter (fun x => !(x == e)) } : State).deliver r { src := e.src, body := body }).onThread
          e.src (fun th => if th.phase = .running then { th with wait := .none, pc := th.pc + 4 } else { th with wait := .none })
      else s
    | _ => s

/-- Held SENDs are accepted in order wherever room has come to exist: this is the first gig cycle in which it does (R249). -/
def State.acceptHeld (s : State) : State := s.held.foldl (fun s e => s.acceptOne e.dst) s

/-! ### Traps and the handler chain (08 R226; 19 R424 to R426) -/

/-- Entry `k` of HCHAIN: its thread where V = 1. -/
def chainEntry (h : BitVec 32) (c k : Nat) : Option Nat :=
  let e := h.toNat / 2 ^ (8 * k) % 256
  if 128 ≤ e then some ((c * 8 + e / 4 % 8) * 4 + e % 4) else none

/-- The first usable entry of a coach's chain from entry `k` on: entry and thread (19 R424). -/
def State.chainFrom (s : State) (c k : Nat) : Option (Nat × Nat) :=
  (List.range 4).findSome? (fun i =>
    if i < k then none
    else match chainEntry (s.coach c).hchain c i with
      | none => none
      | some t => if (s.homeOf t).isSome then some (i, t) else none)

/-- The entry of a coach's chain that names thread `t`. -/
def State.chainIndex (s : State) (t : Nat) : Option Nat :=
  (List.range 4).find? (fun i => decide (chainEntry (s.coach (coachOf t)).hchain (coachOf t) i = some t))

/-- The 64 bytes of eight words. -/
def wordsBytes (ws : List Nat) : List Byte := ws.flatMap (toBytes 8)

/-- A coach halts for want of a handler of thread `t`: its contexts end with KCODE, and one black-box entry is written (R426;
23 R468). -/
def State.haltCoach (s : State) (t cause : Nat) : State :=
  let c := coachOf t
  let code : Word := BitVec.ofNat 64 (2 ^ 63 + cause)
  ((s.coach c).holds.foldl (fun s x => s.endContext c x code) s).box (dieOfCoach c) boxHalt (.gig (gigOf t)) (BitVec.ofNat 64 cause)

/-- A trap with INH = 1 stalls its thread and travels the chain (R424, R425). -/
def State.chainTrap (s : State) (t cause : Nat) (tvalue : Word) (pc : Nat) : State :=
  let c := coachOf t
  let th := s.thread t
  let s1 := (s.onThread t (fun th => { th with phase := .stalled })).onGig (gigOf t) (fun g => { g with book := g.book.trigger })
  match s1.chainFrom c (match s.chainIndex t with | none => 0 | some k => k + 1) with
  | none => s1.haltCoach t cause
  | some (k, r) =>
    let st := ({ th.trap with hops := BitVec.ofNat 2 (Nat.min (k + 1) 3) } : TrapRegs).status
    s1.sendMsg t r (wordsBytes [cause, tvalue.toNat, pc, st.toNat, k, (s.cycle (dieOf t)).toNat, 0, 0])

/-- Thread `t` traps with a cause, SUB, TVALUE and the address of the trapping instruction (R226). -/
def State.trapAt (s : State) (t cause sub : Nat) (tvalue : Word) (pc : Nat) : State :=
  let s0 := s.noteGig t 5 pc cause
  if (s.thread t).trap.inh then s0.chainTrap t cause tvalue pc
  else s0.onThread t (fun th => { th with
    trap := { th.trap with tcause := BitVec.ofNat 8 cause, tvalue := tvalue, tpc := BitVec.ofNat 64 pc,
                           sub := BitVec.ofNat 4 sub, hops := 0, pprv := th.level, inh := true },
    level := true, pc := th.trap.vector })

/-- Trap causes (08 Table 8-12). -/
def trapIll : Nat := 0x01
def trapMisalign : Nat := 0x02
def trapPage : Nat := 0x03
def trapAccess : Nat := 0x04
def trapTsram : Nat := 0x05
def trapPeer : Nat := 0x06
def trapOverlap : Nat := 0x07
def trapLivEmpty : Nat := 0x08
def trapLivFault : Nat := 0x09
def trapTrap : Nat := 0x10
def trapSlice : Nat := 0x11
def trapExt : Nat := 0x12

/-- SUB codes of ACCESS (08 Table 8-16). -/
def subEcc : Nat := 1
def subPerm : Nat := 2
def subPriv : Nat := 3
def subWindow : Nat := 4
def subRange : Nat := 5
def subUnsup : Nat := 6

/-- The acting thread traps at its current instruction. -/
def State.trapMe (s : State) (cause sub : Nat) (tvalue : Word) : State := s.trapAt s.curThread cause sub tvalue s.th.pc

/-- The word of the instruction. -/
def wordOf (i : Instr) : Word := ((encode i).getD 0).setWidth 64

/-! ### The frame of a gig instruction (R225 to R228) -/

/-- A gig word `w`, well formed or not, that reads the registers `srcs`. An ill-formed word traps ILL. While an operand
is not present the thread gives up its turn; a release waits in the same way for every earlier access to perform
(12 R335). A marked operand ACCESS (ECC), and so does one with a parity error, whose TVALUE the spec does not give (log 91). -/
def State.gigWord (s : State) (wf : Bool) (w : Word) (srcs : List Nat) (release : Bool) (eff : State → State) : State :=
  let th := s.th
  let now := (s.cycle (dieOf s.curThread)).toNat
  if !(th.free s.curThread) then s
  else if !wf then s.trapMe trapIll 0 w
  else if srcs.any (fun n => !(th.present now n)) || (release && !(th.accs.isEmpty)) then s
  else match th.marked srcs with
    | some a => s.trapMe trapAccess subEcc a
    | none =>
      if srcs.any s.th.odd.contains then
        (s.trapMe trapAccess subEcc (BitVec.ofNat 64 s.freeVal)).drawn.countUnc (.gig (gigOf s.curThread))
      else eff s

/-- The frame of gig instruction `i`. -/
def State.gigInstr (s : State) (i : Instr) (srcs : List Nat) (release : Bool) (eff : State → State) : State :=
  s.gigWord i.wellFormed (wordOf i) srcs release eff

/-- An instruction that writes d register `d` with `v` of the operands. -/
def State.toD (s : State) (i : Instr) (srcs : List Nat) (d : Nat) (v : Thread → Word) : State :=
  s.gigInstr i srcs false (fun s => s.onMe (fun th => (th.setD d (v th)).next))

/-- The acting thread with the result `v` in d register `d` after `lat` gig cycles, with its flags, and its instruction passed
(R225; 02 R53). -/
def State.lateD (s : State) (d lat : Nat) (v : Thread → Word × BitVec 5) : State :=
  s.onMe (fun th => (th.setLate d (v th).1 (s.cycle (dieOf s.curThread)).toNat lat (v th).2).next)

/-- An instruction whose result takes `lat` gig cycles and raises no flag (R225). -/
def State.toLateD (s : State) (i : Instr) (srcs : List Nat) (d lat : Nat) (v : Thread → Word) : State :=
  s.gigInstr i srcs false (fun s => s.lateD d lat (fun th => (v th, 0)))

/-- A privileged instruction: at level 0 it traps ACCESS (PRIV) with the word (R228). -/
def State.privileged (s : State) (i : Instr) (srcs : List Nat) (eff : State → State) : State :=
  s.gigInstr i srcs false (fun s => if s.th.level then eff s else s.trapMe trapAccess subPriv (wordOf i))

/-- PRIV.SUP: the coach supervises a running or frozen timed launch of its partition (08 Table 8-20). -/
def State.supOf (s : State) (t : Nat) : Bool :=
  let r := (s.part (s.partOfThread t)).run
  (decide (r.phase = .running) || decide (r.phase = .frozen) || decide (r.phase = .restarting)) &&
    decide (bitsOf (wordAt r.header 0) 23 17 = coachOf t)

/-! ### Physical memory (17 R375, R376, R389; 23 R463) -/

/-- What a physical address reaches (Table 17-1). -/
inductive Tier
  | hbm | cxl | control (p off : Nat) | host | nothing
  deriving DecidableEq, Repr

/-- First physical address of host memory (Table 17-1). -/
def hostBase : Nat := 0x8000000000000

/-- Host memory at bus address `a` behind host port `p`: 0 is port A, which the BMC also uses, 1 port B. Each port reaches
memory of its own, and port A's bus addresses PA[50:0] stand at PA (R375, R378; 16 R356; 24 R473; log 42). -/
def hostAddr (p a : Nat) : Nat :=
  a / hostBase * (4 * hostBase) + (if p = 1 then 3 * hostBase else hostBase) + a % hostBase

/-- The stack, or the host port, behind a physical address, where an uncorrectable error is counted (17 R389; 23 R466). -/
def physSource (pa : Nat) : BoxSource :=
  if hostBase ≤ pa then .port (if pa / hostBase % 4 = 3 then 1 else 0) else .stack (pa / 2 ^ 14 % 8)

/-- The tier of a physical address (R375); a host address behind port B lies where `hostAddr` puts it. The CXL tier holds at most
4,096 GB (00 R1); behind a retired port it holds nothing (25 R485; log 41). -/
def State.tier (s : State) (pa : Nat) : Tier :=
  if pa < 0x6000000000 then
    (if s.fw.health.stackoff.getLsbD (pa / 2 ^ 14 % 8) then .nothing else .hbm)
  else if 0x1000000000000 ≤ pa ∧ pa < 0x1040000000000 then
    (if pa - 0x1000000000000 < Nat.min Config.cxlBytes 4096000000000 ∧ s.fw.cxlOff.getLsbD (Config.cxlPort pa % 16) = false then .cxl
     else .nothing)
  else if 0x4000000000000 ≤ pa ∧ pa < 0x4000000100000 then
    .control ((pa - 0x4000000000000) / 0x10000) (pa % 0x10000)
  else if (hostBase ≤ pa ∧ pa < 2 * hostBase) ∨ (3 * hostBase ≤ pa ∧ pa < 4 * hostBase) then .host
  else .nothing

/-- A host access at `pa` goes out through a retired port (25 R485). -/
def State.portGone (s : State) (pa : Nat) : Bool :=
  match physSource pa with
  | .port p => s.fw.hostOff.getLsbD p
  | _ => false

/-- A read of `n` bytes at `pa` meets an uncorrectable granule, or a host access that fails. -/
def State.damaged (s : State) (pa n : Nat) : Bool :=
  s.portGone pa || s.bad.any (fun g => decide (pa < g * 32 + 32) && decide (g * 32 < pa + n))



/-! ### Translation (02 R70; 17 R377 to R383) -/

/-- The address of the first-level entry. -/
def walk1 (root va : Nat) : Nat := root + 8 * (va / 2 ^ 36 % 2 ^ 13)

/-- A pointer lies in HBM. -/
def inHbm (pa : Nat) : Bool := decide (pa < 0x6000000000)

/-- The address of the second-level entry, where the first is valid and well-formed (R379). -/
def walk2 (e1 : Word) (va : Nat) : Option Nat :=
  let p := bitsOf e1 51 16 * 2 ^ 16
  if bitOf e1 0 && decide (bitsOf e1 63 52 = 0) && decide (bitsOf e1 15 1 = 0) && inHbm p then
    some (p + 8 * (va / 2 ^ 23 % 2 ^ 13))
  else none

/-- The address of the leaf entry and whether it maps a 1 MiB page. -/
def walk3 (e2 : Word) (va : Nat) : Option (Nat × Bool) :=
  let p := bitsOf e2 51 6 * 2 ^ 6
  let size := bitsOf e2 2 1
  if bitOf e2 0 && decide (bitsOf e2 63 52 = 0) && decide (bitsOf e2 5 3 = 0) && inHbm p then
    (if size = 0 then (if p % 1024 = 0 then some (p + 8 * (va / 2 ^ 16 % 2 ^ 7), false) else none)
     else if size = 1 then some (p + 8 * (va / 2 ^ 20 % 2 ^ 3), true)
     else none)
  else none

/-- A leaf entry is valid and well-formed. -/
def leafOk (e3 : Word) (big : Bool) : Bool :=
  bitOf e3 0 && decide (bitsOf e3 63 52 = 0) && decide (bitsOf e3 15 10 = 0) && decide (bitsOf e3 7 6 = 0) &&
  !(bitOf e3 1) && !(big && decide (bitsOf e3 19 16 ≠ 0)) && !((bitOf e3 3 || bitOf e3 4) && !(bitOf e3 2))

/-- Size of a page. -/
def pageSize (big : Bool) : Nat := if big then 0x100000 else 0x10000

/-- The physical address through a leaf; HPORT names the port of a host page (Table 17-4). -/
def leafAddr (e3 : Word) (big : Bool) (va : Nat) : Nat :=
  let pa := bitsOf e3 51 16 * 2 ^ 16 + va % pageSize big
  if hostBase ≤ pa ∧ bitOf e3 8 = true then pa + 2 * hostBase else pa

/-- The page table entry at `a`, as a walk reads it: a damaged one is no valid entry (23 R463; log 90). -/
def State.tableWord (s : State) (a : Nat) : Word := if s.damaged a 8 then 0 else s.mem.word a

/-- The uncorrectable errors that a walk has met in the table entries at `reads` are counted (23 R463; log 90). -/
def State.countTable (s : State) (reads : List Nat) : State :=
  (reads.filter (fun a => s.damaged a 8)).foldl (fun s a => s.countUnc (physSource a)) s

/-- Walk(va) from `root` (R70): the leaf and its page size; none is the fault PAGE. -/
def State.walk (s : State) (root va : Nat) : Option (Word × Bool) :=
  match walk2 (s.tableWord (walk1 root va)) va with
  | none => none
  | some a2 =>
    match walk3 (s.tableWord a2) va with
    | none => none
    | some (a3, big) => if leafOk (s.tableWord a3) big then some (s.tableWord a3, big) else none

/-- The page base of `va`. -/
def pageBase (big : Bool) (va : Nat) : Nat := va / pageSize big * pageSize big

/-! ### Cached translations (01 R34; 17 R382 to R384) -/

/-- A scratchpad line lies outside the region of every group that the coach of gig `g` holds (R384). -/
def State.idleLine (s : State) (g line : Nat) : Bool :=
  (s.coach (g / 8)).ctxs.all (fun e =>
    match s.launches.find? (fun l => l.1 == e.2.lid) with
    | none => true
    | some (_, l) =>
      let b := bitsOf (wordAt l.header 6) 19 0
      !(bitOf (wordAt l.header 5) (16 + g % 8)) || e.2.exited.getLsbD (g % 8) ||
        decide (line * 64 + 64 ≤ b) || decide (b + bitsOf (wordAt l.header 6) 51 32 ≤ line * 64))

/-- A scratchpad line may hold victim entries: it is idle, and SPBANK lends its bank (R384). -/
def State.lentLine (s : State) (g line : Nat) : Bool :=
  (s.gig g).spbank.getLsbD (bankOf (BitVec.ofNat 19 (line * 64)) (s.gig g).ctxkey).toNat && s.idleLine g line

/-- The victim entries of lines of coach `c` that are no longer lent are dropped (R384). -/
def State.reclaim (s : State) (c : Nat) : State :=
  { s with tlb := s.tlb.filter (fun e => match e.place with
      | .victim g l => !(decide (g / 8 = c)) || s.lentLine g l
      | .way g w _ => !(decide (g / 8 = c)) || (s.gig g).icway.getLsbD w
      | _ => true) }

/-- A fetch of gig `g`: where a free value says so, its instruction cache fills a line, which holds victim entries no more (R384;
log 89). -/
def State.fillWay (s : State) (g : Nat) : State :=
  let v := s.freeVal
  { s.drawn with tlb := s.tlb.filter (fun e => !(decide (e.place = .way g (v % 4) (v / 8)) && decide (v / 4 % 2 = 1))) }

/-- Who translates: the data or the fetches of a gig, the engine of a coach, or COPY and the ports. -/
inductive Walker
  | data (g : Nat)
  | fetch (g : Nat)
  | engine (c : Nat)
  | copy
  deriving DecidableEq, Repr

/-- A place belongs to a gig's second level or victim storage. -/
def TlbPlace.outer (p : TlbPlace) (g : Nat) : Nat :=
  match p with
  | .second c => if c = g / 8 then 2 else 0
  | .victim h _ => if h / 8 = g / 8 then 3 else 0
  | .way h _ _ => if h / 8 = g / 8 then 3 else 0
  | _ => 0

/-- The storage level, from 1, at which a walker finds an entry in a place; 0 is none (R382). -/
def Walker.rank (a : Walker) (p : TlbPlace) : Nat :=
  match a with
  | .data g => if p = .data g then 1 else p.outer g
  | .fetch g => if p = .instr g then 1 else p.outer g
  | .engine c => if p = .engine c then 1 else 0
  | .copy => if p = .copy then 1 else 0

/-- The bytes that an entry of a table level covers from its base on. -/
def entrySize (level : Nat) (big : Bool) : Nat := if level = 1 then 2 ^ 36 else if level = 2 then 2 ^ 23 else pageSize big

/-- The bytes that an entry covers from its base on. -/
def Cached.size (e : Cached) : Nat := entrySize e.level e.big

/-- An entry that an access uses. -/
def Cached.use (e : Cached) : PageUse := { base := e.base, size := e.size }

/-- An entry covers `va` for partition `k`. -/
def Cached.covers (e : Cached) (k va : Nat) : Bool :=
  decide (e.part = k) && decide (e.base ≤ va) && decide (va < e.base + e.size)

/-- The entry of table level `lvl` that a walker has cached for `va`, from its nearest storage (R382). -/
def State.cached (s : State) (a : Walker) (k va lvl : Nat) : Option Cached :=
  [1, 2, 3].findSome? (fun r =>
    s.tlb.find? (fun e => decide (a.rank e.place = r) && decide (e.level = lvl) && e.covers k va))

/-- What a lookup comes to: the table entries that it reads, its leaf with its page size, and the entries that it may cache. -/
structure PageLookup where
  reads : List Nat
  leaf : Option (Word × Bool)
  found : List (Nat × Nat × Bool × Word)
  deriving DecidableEq, Repr

/-- The last read of a walk, through second-level entry `e2`. -/
def State.leafLookup (s : State) (va : Nat) (e2 : Word) : PageLookup :=
  match walk3 e2 va with
  | none => { reads := [], leaf := none, found := [] }
  | some (a3, big) =>
    let e3 := s.tableWord a3
    if leafOk e3 big then { reads := [a3], leaf := some (e3, big), found := [(pageBase big va, 3, big, e3)] }
    else { reads := [a3], leaf := none, found := [] }

/-- A walk from first-level entry `e1`. -/
def State.midLookup (s : State) (va : Nat) (e1 : Word) : PageLookup :=
  match walk2 e1 va with
  | none => { reads := [], leaf := none, found := [] }
  | some a2 =>
    let e2 := s.tableWord a2
    let l := s.leafLookup va e2
    { reads := a2 :: l.reads, leaf := l.leaf,
      found := (if (walk3 e2 va).isSome then [(va / 2 ^ 23 * 2 ^ 23, 2, false, e2)] else []) ++ l.found }

/-- A lookup of `va` (R382): a cached leaf; else a walk from the nearest cached directory entry, or from the root. -/
def State.lookup (s : State) (a : Walker) (k va : Nat) : PageLookup :=
  match s.cached a k va 3 with
  | some e => { reads := [], leaf := some (e.entry, e.big), found := [(e.base, 3, e.big, e.entry)] }
  | none => match s.cached a k va 2 with
    | some e => s.leafLookup va e.entry
    | none => match s.cached a k va 1 with
      | some e => s.midLookup va e.entry
      | none =>
        let a1 := walk1 (s.part k).root va
        let e1 := s.tableWord a1
        let l := s.midLookup va e1
        { reads := a1 :: l.reads, leaf := l.leaf,
          found := (if (walk2 e1 va).isSome then [(va / 2 ^ 36 * 2 ^ 36, 1, false, e1)] else []) ++ l.found }

/-- An entry filed in its storage of at most `cap` entries; `n` picks the one that a full storage replaces. -/
def fileCached (l : List Cached) (e : Cached) (cap n : Nat) : List Cached :=
  let mine := l.filter (fun x => decide (x.place = e.place))
  if mine.contains e then l
  else if mine.length < cap then l ++ [e]
  else match mine[n % cap]? with
    | some x => l.erase x ++ [e]
    | none => l ++ [e]

/-- Entries of a second-level TLB and of a gig's data and instruction TLB (01 R34). -/
def TlbPlace.cap (p : TlbPlace) : Nat :=
  match p with
  | .data _ => 32
  | .instr _ => 16
  | .second _ => 512
  | _ => 2 ^ 16

/-- The places in which a walker files what it finds, nearest first. -/
def Walker.places (a : Walker) : List TlbPlace :=
  match a with
  | .data g => [.data g, .second (g / 8)]
  | .fetch g => [.instr g, .second (g / 8)]
  | .engine c => [.engine c]
  | .copy => [.copy]

/-- The line of victim storage that the free value `v` picks for what a gig's walker found: one that is lent, of a scratchpad or
of a way of an instruction cache, whose number of lines the spec does not give (R384; log 89). -/
def State.victimOf (s : State) (a : Walker) (v : Nat) : Option TlbPlace :=
  match a.places with
  | [_, .second c] =>
    let g := c * 8 + v / 2 % 8
    let line := v / 16 % 8192
    let w := v / 16 % 4
    if s.lentLine g line && decide (v / 2 ^ 17 % 4 = 1) then some (.victim g line)
    else if (s.gig g).icway.getLsbD w && decide (v / 2 ^ 17 % 4 = 2) then some (.way g w (v / 2 ^ 19))
    else none
  | _ => none

/-- A gig whose scratchpad line reads zero. -/
def Gig.blankLine (x : Gig) (line : Nat) : Gig :=
  { x with sp := x.sp.filter (fun e => !(decide (e.1 / 64 = line))), bad := x.bad.filter (fun b => !(decide (b / 8 = line))) }

/-- What a lookup found is filed in a place, as the free value `v` says. -/
def fileFound (k v : Nat) (found : List (Nat × Nat × Bool × Word)) (l : List Cached) (p : TlbPlace) : List Cached :=
  found.foldl (fun l f =>
    fileCached l { place := p, part := k, base := f.1, level := f.2.1, big := f.2.2.1, entry := f.2.2.2 } p.cap v) l

/-- What a lookup found is cached, as the free value `v` says: in each place of the walker, and perhaps in victim storage, a line
of which reads zero from then on (R382, R384). -/
def State.fillTlb (s : State) (a : Walker) (k v : Nat) (found : List (Nat × Nat × Bool × Word)) : State :=
  let l := a.places.foldl (fileFound k v found) s.tlb
  { s with
    tlb := match s.victimOf a v with
      | some p => fileFound k v found l p
      | none => l
    gigs := match s.victimOf a v with
      | some (.victim g line) => s.gigs.set g ((s.gig g).blankLine line)
      | _ => s.gigs }

/-- The state that a lookup of `va` is made in: what is damaged is found no more (23 R463; log 90), and where a free value says so,
what its walker would find has been replaced, which may happen at any time (R382). -/
def State.toLookup (s : State) (a : Walker) (k va : Nat) : State :=
  { s with tlb := s.tlb.filter (fun e =>
      !(decide (a.rank e.place ≠ 0) && e.covers k va && (e.bad || decide (s.freeVal % 2 = 1)))) }

/-- The gig, or the die, whose TLB array a place lies in (01 R34). -/
def TlbPlace.source (p : TlbPlace) : BoxSource :=
  match p with
  | .data g => .gig g
  | .instr g => .gig g
  | .victim g _ => .gig g
  | .way g _ _ => .gig g
  | p => .die p.die

/-- The errors in the cached entries that a lookup finds are counted (23 R463; log 90). -/
def State.countTlb (s : State) (a : Walker) (k va : Nat) : State :=
  (s.tlb.filter (fun e => e.bad && decide (a.rank e.place ≠ 0) && e.covers k va)).foldl (fun s e => s.countUnc e.place.source) s

/-- A translation of `va` for a walker of partition `k` (R382, R383): its leaf and size, none for PAGE, and the state after, in which
the errors that its walk met are counted. -/
def State.translate (s : State) (a : Walker) (k va : Nat) : Option (Word × Bool) × State :=
  let s1 := (s.countTlb a k va).toLookup a k va
  let l := s1.lookup a k va
  (l.leaf, ((s1.fillTlb a k (s.freeVal / 2) l.found).countTable l.reads).drawn)

/-- The cached translations that a translation of `va` uses: the directory entry from which it walks on, if any, and what its
lookup finds, which it caches (R382, R386). -/
def State.uses (s : State) (a : Walker) (k va : Nat) : List PageUse :=
  let s1 := s.toLookup a k va
  (if (s1.cached a k va 3).isSome then [] else (((s1.cached a k va 2).or (s1.cached a k va 1)).map Cached.use).toList) ++
    (s1.lookup a k va).found.map (fun f => { base := f.1, size := entrySize f.2.1 f.2.2.1 })

/-- The leaf bits that an access needs (Table 17-5): reading, writing, fetching, and U at level 0. -/
def leafAllows (e3 : Word) (rd wr ex level : Bool) : Bool :=
  (!rd || bitOf e3 2) && (!wr || bitOf e3 3) && (!ex || bitOf e3 4) && (level || bitOf e3 5)

/-- First address of the windows (01 R36). -/
def windowBase : Nat := 0x1FFFE00000000
/-- First address of the near window. -/
def nearBase : Nat := 0x1FFFFFFC00000
/-- First address of the event-unit window. -/
def eventBase : Nat := 0x1FFFFFF800000

end Sys2Proof.Machine
end

