-- ==== Sys2Proof/Machine/GigAlu.lean ====
section
/-! DEFINITION. Gig integer instructions, branches and jumps (08 R229 to R232), and floating point (R241 to R244). -/
namespace Sys2Proof.Machine

/-! ### Integer functions (R229) -/

/-- Signed quotient toward zero; a divisor of 0 gives all ones, and −2^63 / −1 gives −2^63. -/
def gigQuot (a b : Word) : Word := if b = 0 then -1 else a.sdiv b
/-- Unsigned quotient; a divisor of 0 gives all ones. -/
def gigQuotU (a b : Word) : Word := if b = 0 then -1 else a / b
/-- Signed remainder, with the sign of the dividend; a divisor of 0 gives the dividend. -/
def gigRest (a b : Word) : Word := if b = 0 then a else a.srem b
/-- Unsigned remainder; a divisor of 0 gives the dividend. -/
def gigRestU (a b : Word) : Word := if b = 0 then a else a % b
/-- 1 where the condition holds. -/
def bit64 (c : Bool) : Word := if c then 1 else 0
/-- Leading zero bits; 64 for 0. -/
def leadingZeros (a : Word) : Word := if a = 0 then 64 else BitVec.ofNat 64 (63 - Nat.log2 a.toNat)
/-- Trailing zero bits of `n` bits. -/
def trailingZerosIn (n a : Nat) : Nat :=
  match n with
  | 0 => 0
  | n + 1 => if a % 2 = 1 then 0 else 1 + trailingZerosIn n (a / 2)
/-- One bits among `n` bits. -/
def onesIn (n a : Nat) : Nat :=
  match n with
  | 0 => 0
  | n + 1 => a % 2 + onesIn n (a / 2)

/-- An ALU instruction dd := F(da, db) (R229). -/
def State.gigAlu (s : State) (i : Instr) (d a b : BitVec 5) (f : Word → Word → Word) : State :=
  s.toD i [a.toNat, b.toNat] d.toNat (fun t => f (t.d a.toNat) (t.d b.toNat))
/-- An instruction dd := F(da) (R229, R230). -/
def State.gigOne (s : State) (i : Instr) (d a : BitVec 5) (f : Word → Word) : State :=
  s.toD i [a.toNat] d.toNat (fun t => f (t.d a.toNat))

/-- ADD: dd := da + db (R229). -/
def execGigAdd (d a b : BitVec 5) (s : State) : Out := .next (s.gigAlu (.gigAdd d a b) d a b (· + ·))
/-- SUB (R229). -/
def execGigSub (d a b : BitVec 5) (s : State) : Out := .next (s.gigAlu (.gigSub d a b) d a b (· - ·))
/-- AND (R229). -/
def execGigAnd (d a b : BitVec 5) (s : State) : Out := .next (s.gigAlu (.gigAnd d a b) d a b (· &&& ·))
/-- OR (R229). -/
def execGigOr (d a b : BitVec 5) (s : State) : Out := .next (s.gigAlu (.gigOr d a b) d a b (· ||| ·))
/-- XOR (R229). -/
def execGigXor (d a b : BitVec 5) (s : State) : Out := .next (s.gigAlu (.gigXor d a b) d a b (· ^^^ ·))
/-- SHL: by db[5:0] (R229). -/
def execGigShl (d a b : BitVec 5) (s : State) : Out := .next (s.gigAlu (.gigShl d a b) d a b (fun x y => x <<< (y.toNat % 64)))
/-- SHR: by db[5:0], zero fill (R229). -/
def execGigShr (d a b : BitVec 5) (s : State) : Out := .next (s.gigAlu (.gigShr d a b) d a b (fun x y => x >>> (y.toNat % 64)))
/-- SRA: by db[5:0], sign fill (R229). -/
def execGigSra (d a b : BitVec 5) (s : State) : Out := .next (s.gigAlu (.gigSra d a b) d a b (fun x y => x.sshiftRight (y.toNat % 64)))
/-- MUL: low half (R229). -/
def execGigMul (d a b : BitVec 5) (s : State) : Out := .next (s.gigAlu (.gigMul d a b) d a b (· * ·))
/-- MULH: signed (R229). -/
def execGigMulh (d a b : BitVec 5) (s : State) : Out := .next (s.gigAlu (.gigMulh d a b) d a b mulHigh)
/-- MULHU: unsigned (R229). -/
def execGigMulhu (d a b : BitVec 5) (s : State) : Out := .next (s.gigAlu (.gigMulhu d a b) d a b mulHighU)
/-- A division: its result takes 36 gig cycles (R225, R229). -/
def State.gigDivide (s : State) (i : Instr) (d a b : BitVec 5) (f : Word → Word → Word) : State :=
  s.toLateD i [a.toNat, b.toNat] d.toNat 36 (fun t => f (t.d a.toNat) (t.d b.toNat))
/-- DIV: signed (R229). -/
def execGigDiv (d a b : BitVec 5) (s : State) : Out := .next (s.gigDivide (.gigDiv d a b) d a b gigQuot)
/-- DIVU: unsigned (R229). -/
def execGigDivu (d a b : BitVec 5) (s : State) : Out := .next (s.gigDivide (.gigDivu d a b) d a b gigQuotU)
/-- REM: signed (R229). -/
def execGigRem (d a b : BitVec 5) (s : State) : Out := .next (s.gigDivide (.gigRem d a b) d a b gigRest)
/-- REMU: unsigned (R229). -/
def execGigRemu (d a b : BitVec 5) (s : State) : Out := .next (s.gigDivide (.gigRemu d a b) d a b gigRestU)
/-- SLT: signed (R229). -/
def execGigSlt (d a b : BitVec 5) (s : State) : Out := .next (s.gigAlu (.gigSlt d a b) d a b (fun x y => bit64 (x.slt y)))
/-- SLTU: unsigned (R229). -/
def execGigSltu (d a b : BitVec 5) (s : State) : Out := .next (s.gigAlu (.gigSltu d a b) d a b (fun x y => bit64 (x.ult y)))
/-- MIN: signed (R229). -/
def execGigMin (d a b : BitVec 5) (s : State) : Out := .next (s.gigAlu (.gigMin d a b) d a b minS)
/-- MAX: signed (R229). -/
def execGigMax (d a b : BitVec 5) (s : State) : Out := .next (s.gigAlu (.gigMax d a b) d a b maxS)
/-- MINU: unsigned (R229). -/
def execGigMinu (d a b : BitVec 5) (s : State) : Out := .next (s.gigAlu (.gigMinu d a b) d a b minU)
/-- MAXU: unsigned (R229). -/
def execGigMaxu (d a b : BitVec 5) (s : State) : Out := .next (s.gigAlu (.gigMaxu d a b) d a b maxU)
/-- CLZ (R229). -/
def execGigClz (d a : BitVec 5) (s : State) : Out := .next (s.gigOne (.gigClz d a) d a leadingZeros)
/-- CTZ (R229). -/
def execGigCtz (d a : BitVec 5) (s : State) : Out := .next (s.gigOne (.gigCtz d a) d a (fun x => BitVec.ofNat 64 (trailingZerosIn 64 x.toNat)))
/-- POPC (R229). -/
def execGigPopc (d a : BitVec 5) (s : State) : Out := .next (s.gigOne (.gigPopc d a) d a (fun x => BitVec.ofNat 64 (onesIn 64 x.toNat)))

/-! ### Immediate forms (R230; 03 R88) -/

/-- ADDI (R230). -/
def execGigAddi (d a : BitVec 5) (i : BitVec 16) (s : State) : Out := .next (s.gigOne (.gigAddi d a i) d a (fun x => x + i.signExtend 64))
/-- ANDI (R230). -/
def execGigAndi (d a : BitVec 5) (i : BitVec 16) (s : State) : Out := .next (s.gigOne (.gigAndi d a i) d a (fun x => x &&& i.setWidth 64))
/-- ORI (R230). -/
def execGigOri (d a : BitVec 5) (i : BitVec 16) (s : State) : Out := .next (s.gigOne (.gigOri d a i) d a (fun x => x ||| i.setWidth 64))
/-- XORI (R230). -/
def execGigXori (d a : BitVec 5) (i : BitVec 16) (s : State) : Out := .next (s.gigOne (.gigXori d a i) d a (fun x => x ^^^ i.setWidth 64))
/-- SHLI (R230). -/
def execGigShli (d a : BitVec 5) (i : BitVec 6) (s : State) : Out := .next (s.gigOne (.gigShli d a i) d a (fun x => x <<< i.toNat))
/-- SHRI (R230). -/
def execGigShri (d a : BitVec 5) (i : BitVec 6) (s : State) : Out := .next (s.gigOne (.gigShri d a i) d a (fun x => x >>> i.toNat))
/-- SRAI (R230). -/
def execGigSrai (d a : BitVec 5) (i : BitVec 6) (s : State) : Out := .next (s.gigOne (.gigSrai d a i) d a (fun x => x.sshiftRight i.toNat))
/-- SLTI (R230). -/
def execSlti (d a : BitVec 5) (i : BitVec 16) (s : State) : Out := .next (s.gigOne (.slti d a i) d a (fun x => bit64 (x.slt (i.signExtend 64))))
/-- SLTIU (R230). -/
def execSltiu (d a : BitVec 5) (i : BitVec 16) (s : State) : Out := .next (s.gigOne (.sltiu d a i) d a (fun x => bit64 (x.ult (i.signExtend 64))))
/-- LUI: sign-extend(imm16 << 16) (R230). -/
def execGigLui (d : BitVec 5) (i : BitVec 16) (s : State) : Out :=
  .next (s.toD (.gigLui d i) [] d.toNat (fun _ => (i ++ (0 : BitVec 16)).signExtend 64))

/-! ### Branches and jumps (R231, R232) -/

/-- A taken jump of the acting thread: RANGE, then MISALIGN, at the jump; else the link is written and the road book
records it (R232; 19 R428). -/
def State.gigJump (s : State) (target : Word) (link : Option Nat) : State :=
  if 2 ^ 49 ≤ target.toNat then s.trapMe trapAccess subRange target
  else if target.toNat % 4 ≠ 0 then s.trapMe trapMisalign 0 target
  else
    let pc := s.th.pc
    (s.noteGig s.curThread 2 pc target.toNat).onMe (fun th =>
      let th' := match link with
        | some d => th.setD d (BitVec.ofNat 64 (pc + 4))
        | none => th
      { th' with pc := target.toNat })

/-- The target at the instruction's address + 4 × offset (03 R88). -/
def State.relTarget (s : State) (off : Word) : Word := BitVec.ofNat 64 s.th.pc + 4 * off

/-- A conditional branch (R231). -/
def State.gigBranch (s : State) (i : Instr) (a b : BitVec 5) (off : BitVec 16) (c : Word → Word → Bool) : State :=
  s.gigInstr i [a.toNat, b.toNat] false (fun s =>
    if c (s.th.d a.toNat) (s.th.d b.toNat) then s.gigJump (s.relTarget (off.signExtend 64)) none
    else s.onMe Thread.next)

/-- BEQ (R231). -/
def execBeq (a b : BitVec 5) (i : BitVec 16) (s : State) : Out := .next (s.gigBranch (.beq a b i) a b i (fun x y => x == y))
/-- BNE (R231). -/
def execBne (a b : BitVec 5) (i : BitVec 16) (s : State) : Out := .next (s.gigBranch (.bne a b i) a b i (fun x y => !(x == y)))
/-- BLT (R231). -/
def execBlt (a b : BitVec 5) (i : BitVec 16) (s : State) : Out := .next (s.gigBranch (.blt a b i) a b i (fun x y => x.slt y))
/-- BGE (R231). -/
def execBge (a b : BitVec 5) (i : BitVec 16) (s : State) : Out := .next (s.gigBranch (.bge a b i) a b i (fun x y => !(x.slt y)))
/-- BLTU (R231). -/
def execBltu (a b : BitVec 5) (i : BitVec 16) (s : State) : Out := .next (s.gigBranch (.bltu a b i) a b i (fun x y => x.ult y))
/-- BGEU (R231). -/
def execBgeu (a b : BitVec 5) (i : BitVec 16) (s : State) : Out := .next (s.gigBranch (.bgeu a b i) a b i (fun x y => !(x.ult y)))
/-- JAL: links in d31 (R231). -/
def execJal (i : BitVec 26) (s : State) : Out :=
  .next (s.gigInstr (.jal i) [] false (fun s => s.gigJump (s.relTarget (i.signExtend 64)) (some 31)))
/-- JALR dd, imm(da): da is read before dd is written (R231). -/
def execJalr (d a : BitVec 5) (i : BitVec 16) (s : State) : Out :=
  .next (s.gigInstr (.jalr d a i) [a.toNat] false (fun s => s.gigJump (s.th.d a.toNat + i.signExtend 64) (some d.toNat)))

/-! ### Floating point (R241 to R244) -/

/-- The format of an FPU code that arithmetic takes: 0 FP32, 3 FP64. -/
def fpuFmt (f : BitVec 3) : Fmt := if f = 3 then .fp64 else .fp32

/-- The bits of an operand of a format. -/
def fpuBits (f : Fmt) (w : Word) : Nat := w.toNat % 2 ^ f.bits

/-- The mode of a gig rounding field: DYN takes FRM; a code that the gig plane does not have traps ILL (02 R49, R50). -/
def Thread.mode (t : Thread) (r : BitVec 3) : Option RMode :=
  let c := if r = 7 then t.frm.toNat else r.toNat
  if 5 ≤ c then none else RMode.ofCode c

/-- Gig cycles that a floating-point result takes (Table 8-1): `n` in F32, `m` in F64. -/
def fpuLat (f : BitVec 3) (n m : Nat) : Nat := if f = 3 then m else n

/-- The acting thread with the result `d` of a floating-point instruction, whose flags enter FFLAGS when it is written (02 R53). -/
def State.fpuD (s : State) (d lat : Nat) (v : Thread → Word × FlagSet) : State :=
  s.lateD d lat (fun th => ((v th).1, (v th).2.setWidth 5))

/-- An FPU instruction with a rounding mode: `f` gives the result and its flags. DESIGN CHOICE (log 72): a marked operand
traps before DYN is found to hold no mode. -/
def State.fpu (s : State) (i : Instr) (srcs : List Nat) (d lat : Nat) (r : BitVec 3) (f : RMode → Thread → Word × FlagSet) :
    State :=
  s.gigInstr i srcs false (fun s =>
    match s.th.mode r with
    | none => s.trapMe trapIll 0 (wordOf i)
    | some rm => s.fpuD d lat (f rm))

/-- A rounded two-operand operation (Table 8-7) with its latency. -/
def State.fpuTwo (s : State) (i : Instr) (d a b : BitVec 5) (f r : BitVec 3) (lat : Nat)
    (op : XVal → XVal → Bool → XRes × FlagSet) : State :=
  let fm := fpuFmt f
  s.fpu i [a.toNat, b.toNat] d.toNat lat r (fun rm t =>
    let x := fpuBits fm (t.d a.toNat)
    let y := fpuBits fm (t.d b.toNat)
    let z := op (fm.decode x) (fm.decode y) (decide (rm = .rdn))
    let q := roundX z.1.val fm rm 0
    (BitVec.ofNat 64 q.bits, q.flags ||| z.2 ||| snanFlag fm x ||| snanFlag fm y ||| flagIf z.1.nv flagNV))

/-- FADD (R241). -/
def execFadd (d a b : BitVec 5) (f r : BitVec 3) (s : State) : Out :=
  .next (s.fpuTwo (.fadd d a b f r) d a b f r (fpuLat f 4 8) (fun x y dn => (xadd x y dn, 0)))
/-- FSUB (R241). -/
def execFsub (d a b : BitVec 5) (f r : BitVec 3) (s : State) : Out :=
  .next (s.fpuTwo (.fsub d a b f r) d a b f r (fpuLat f 4 8) (fun x y dn => (xadd x y.negate dn, 0)))
/-- FMUL (R241). -/
def execFmul (d a b : BitVec 5) (f r : BitVec 3) (s : State) : Out :=
  .next (s.fpuTwo (.fmul d a b f r) d a b f r (fpuLat f 4 8) (fun x y _ => (xmul x y, 0)))

/-- A finite non-zero value over zero (02 R53). -/
def divByZero (x y : XVal) : Bool :=
  match x with
  | .fin _ m _ _ => decide (m ≠ 0) && y.isZero
  | _ => false

/-- FDIV (R241). -/
def execFdiv (d a b : BitVec 5) (f r : BitVec 3) (s : State) : Out :=
  .next (s.fpuTwo (.fdiv d a b f r) d a b f r (fpuLat f 20 40) (fun x y _ => (xdiv x y, flagIf (divByZero x y) flagDZ)))
/-- FSQRT (R241). -/
def execFsqrt (d a : BitVec 5) (f r : BitVec 3) (s : State) : Out :=
  let fm := fpuFmt f
  .next (s.fpu (.fsqrt d a f r) [a.toNat] d.toNat (fpuLat f 20 40) r (fun rm t =>
    let x := fpuBits fm (t.d a.toNat)
    let z := xsqrt (fm.decode x)
    let q := roundX z.val fm rm 0
    (BitVec.ofNat 64 q.bits, q.flags ||| snanFlag fm x ||| flagIf z.nv flagNV)))

/-- FMIN, FMAX and the comparisons: no rounding (Table 8-7). -/
def State.fpuPlain (s : State) (i : Instr) (d a b : BitVec 5) (f : BitVec 3) (op : Fmt → Nat → Nat → FRes) : State :=
  let fm := fpuFmt f
  s.gigInstr i [a.toNat, b.toNat] false (fun s => s.fpuD d.toNat (fpuLat f 4 8) (fun th =>
    let q := op fm (fpuBits fm (th.d a.toNat)) (fpuBits fm (th.d b.toNat))
    (BitVec.ofNat 64 q.bits, q.flags)))

/-- FMIN (R241; 07 R199). -/
def execFmin (d a b : BitVec 5) (f : BitVec 3) (s : State) : Out :=
  .next (s.fpuPlain (.fmin d a b f) d a b f (fun fm => fmtMinMax fm false))
/-- FMAX (R241; 07 R199). -/
def execFmax (d a b : BitVec 5) (f : BitVec 3) (s : State) : Out :=
  .next (s.fpuPlain (.fmax d a b f) d a b f (fun fm => fmtMinMax fm true))

/-- A comparison: a NaN makes it 0; `quiet` raises NV on a signalling NaN only (Table 8-7). -/
def fpuCompare (quiet : Bool) (rel : XVal → XVal → Bool) (f : Fmt) (a b : Nat) : FRes :=
  let x := f.decode a
  let y := f.decode b
  let un := decide (x = .nan) || decide (y = .nan)
  ⟨if !un && rel x y then 1 else 0,
   if quiet then snanFlag f a ||| snanFlag f b else flagIf un flagNV⟩

/-- FEQ (R241). -/
def execFeq (d a b : BitVec 5) (f : BitVec 3) (s : State) : Out :=
  .next (s.fpuPlain (.feq d a b f) d a b f (fpuCompare true xeq))
/-- FLT (R241). -/
def execFlt (d a b : BitVec 5) (f : BitVec 3) (s : State) : Out :=
  .next (s.fpuPlain (.flt d a b f) d a b f (fpuCompare false xlt))
/-- FLE (R241). -/
def execFle (d a b : BitVec 5) (f : BitVec 3) (s : State) : Out :=
  .next (s.fpuPlain (.fle d a b f) d a b f (fpuCompare false (fun x y => !(xlt y x))))

/-- The floating format of a code of 03 Table 3-19; none for the integer codes. -/
def cvtFmt (c : Nat) : Option Fmt :=
  match c with
  | 0 => some .fp32 | 1 => some .bf16 | 2 => some .fp16 | 3 => some .fp64 | _ => none

/-- The exact value that FCVT reads, and its signalling flag (R242). -/
def cvtValue (c : Nat) (w : Word) : XVal × FlagSet :=
  match cvtFmt c with
  | some f => (f.decode (fpuBits f w), snanFlag f (fpuBits f w))
  | none => (match c with
    | 4 => .ofInt (signedOf 32 w.toNat)
    | 5 => .ofInt w.toInt
    | 6 => .ofInt ((w.toNat % 2 ^ 32 : Nat) : Int)
    | _ => .ofInt ((w.toNat : Nat) : Int), 0)

/-- A value converted to an integer range; out of range, infinite or NaN gives the indefinite pattern and NV (R242). -/
def cvtInt (x : XVal) (least largest : Int) (indefinite : Nat) (w : Nat) (rm : RMode) : Nat × FlagSet :=
  match x with
  | .fin n m e k =>
    let (q, rem, sh) := cutAt m e 0
    let up := roundsUp rm n q rem sh k 0
    let z : Int := ((q + (if up then 1 else 0) : Nat) : Int)
    let y := if n then -z else z
    if y < least ∨ largest < y then (indefinite, flagNV)
    else (wrapInt w y, flagIf (decide (0 < rem) || k) flagNX)
  | _ => (indefinite, flagNV)

/-- The result word of FCVT into format code `c` (R242). -/
def cvtResult (c : Nat) (x : XVal) (rm : RMode) : Word × FlagSet :=
  match cvtFmt c with
  | some f => let r := roundX x f rm 0; (BitVec.ofNat 64 r.bits, r.flags)
  | none =>
    match c with
    | 4 => let r := cvtInt x (-(2 ^ 31)) (2 ^ 31 - 1) 0x80000000 32 rm
           ((BitVec.ofNat 32 r.1).signExtend 64, r.2)
    | 5 => let r := cvtInt x (-(2 ^ 63)) (2 ^ 63 - 1) 0x8000000000000000 64 rm
           (BitVec.ofNat 64 r.1, r.2)
    | 6 => let r := cvtInt x 0 (2 ^ 32 - 1) 0x80000000 32 rm
           (BitVec.ofNat 64 r.1, r.2)
    | _ => let r := cvtInt x 0 (2 ^ 64 - 1) 0x8000000000000000 64 rm
           (BitVec.ofNat 64 r.1, r.2)

/-- FCVT.fmt.sfmt.rm (R242). -/
def execFcvt (d a : BitVec 5) (g f r : BitVec 3) (s : State) : Out :=
  .next (s.fpu (.fcvt d a g f r) [a.toNat] d.toNat (if f = 3 ∨ g = 3 then 8 else 4) r (fun rm t =>
    let x := cvtValue g.toNat (t.d a.toNat)
    let q := cvtResult f.toNat x.1 rm
    (q.1, q.2 ||| x.2)))

/-- ln 2 × 2^256, rounded down: Σ 1 / (n 2^n) to 300 terms (R243). -/
def ln2Scaled (n : Nat) : Nat :=
  match n with
  | 0 => 0
  | n + 1 => ln2Scaled n + 2 ^ 320 / ((n + 1) * 2 ^ (n + 1))

/-- exp(z) × 2^256 for z = `z` / 2^256 below 1: the terms from number `n` on, of which `t` is the first. -/
def expTerms (fuel n t z : Nat) : Nat :=
  match fuel with
  | 0 => 0
  | fuel + 1 => t + expTerms fuel (n + 1) (t * z / 2 ^ 256 / (n + 1)) z

/-- 2^(f / 2^k) × 2^256 for a fraction f / 2^k below 1, to better than 2^−200 (log 9). -/
def exp2Frac (f k : Nat) : Nat :=
  let ln2 := ln2Scaled 320 / 2 ^ 64
  expTerms 80 0 (2 ^ 256) (f * ln2 / 2 ^ k)

/-- The exact value of 2^x (R243), held to better than 2^−200 where it is irrational. -/
def xexp2 (x : XVal) : XVal :=
  match x with
  | .nan => .nan
  | .inf n => if n then .fin false 0 0 false else .inf false
  | .fin n m e _ =>
    if m = 0 then .fin false 1 0 false
    else if 16 < (Nat.log2 m : Int) + e then
      -- beyond the range of FP32: far too large, or so small that only its being positive counts
      (if n then .fin false 1 (-1000) true else .fin false 1 1000 true)
    else if (Nat.log2 m : Int) + e < -60 then
      -- 1 ± less than 2^−59
      (if n then .fin false (2 ^ 200 - 1) (-200) true else .fin false (2 ^ 200) (-200) true)
    else
      let (q, rem, sh) := cutAt m e 0
      if rem = 0 then .fin false 1 (if n then -(q : Int) else q) false
      else if n then .fin false (exp2Frac (2 ^ sh - rem) sh) (-(q : Int) - 1 - 256) true
      else .fin false (exp2Frac rem sh) ((q : Int) - 256) true

/-- FEXP2.F32 (R243). -/
def execFexp2 (d a : BitVec 5) (s : State) : Out :=
  .next (s.gigInstr (.fexp2 d a) [a.toNat] false (fun s => s.fpuD d.toNat 16 (fun th =>
    let x := fpuBits .fp32 (th.d a.toNat)
    let r := roundX (xexp2 (Fmt.fp32.decode x)) .fp32 .rne 0
    (BitVec.ofNat 64 r.bits, r.flags ||| snanFlag .fp32 x))))

/-- FMA, FMS and FNMA (R244): the product, negated where `np`, and ±dc, rounded once. -/
def State.fused (s : State) (i : Instr) (d a b c : BitVec 5) (f : BitVec 1) (r : BitVec 3) (np nc : Bool) : State :=
  let fm : Fmt := if f = 1 then .fp64 else .fp32
  s.fpu i [a.toNat, b.toNat, c.toNat] d.toNat (if f = 1 then 8 else 4) r (fun rm t =>
    let x := fpuBits fm (t.d a.toNat)
    let y := fpuBits fm (t.d b.toNat)
    let z := fpuBits fm (t.d c.toNat)
    let p := xmul (fm.decode x) (fm.decode y)
    let pv := if np then p.val.negate else p.val
    let cv := if nc then (fm.decode z).negate else fm.decode z
    let w := xadd pv cv (decide (rm = .rdn))
    let q := roundX w.val fm rm 0
    (BitVec.ofNat 64 q.bits,
     q.flags ||| snanFlag fm x ||| snanFlag fm y ||| snanFlag fm z ||| flagIf (p.nv || w.nv) flagNV))

/-- FMA (R244). -/
def execFma (d a b c : BitVec 5) (f : BitVec 1) (r : BitVec 3) (s : State) : Out :=
  .next (s.fused (.fma d a b c f r) d a b c f r false false)
/-- FMS (R244). -/
def execFms (d a b c : BitVec 5) (f : BitVec 1) (r : BitVec 3) (s : State) : Out :=
  .next (s.fused (.fms d a b c f r) d a b c f r false true)
/-- FNMA (R244). -/
def execFnma (d a b c : BitVec 5) (f : BitVec 1) (r : BitVec 3) (s : State) : Out :=
  .next (s.fused (.fnma d a b c f r) d a b c f r true false)

end Sys2Proof.Machine
end

