-- ==== Sys2Proof/Machine/Livery.lean ====
section
/-! DEFINITION. The livery: pools, probe windows, references, and what the five instructions do when they perform
(18 R392 to R403). -/
namespace Sys2Proof.Machine

/-! ### Blocks (R398 to R400) -/

/-- The inverted entry of block `p`, where it is allocated. -/
def Pool.entry (q : Pool) (p : Nat) : Option InvEntry := (q.inv.find? (fun e => e.1 == p)).map (fun e => e.2)

/-- The start h of a pair's probe window (R399). -/
def probeHash (sq lb : Nat) : Nat := (sq * 0x9E3779B1 + lb * 0x85EBCA6B) % 2 ^ 32

/-- The probe window of a pair. -/
def Pool.window (q : Pool) (sq lb : Nat) : List Nat :=
  (List.range 8).map (fun i => (probeHash sq lb + i) % q.nblk)

/-- Find(seq, lb) (R399). -/
def Pool.find (q : Pool) (sq lb : Nat) : Nat :=
  match (q.window sq lb).find? (fun p => match q.entry p with
      | some e => decide (e.seq = sq) && decide (e.lb = lb)
      | none => false) with
  | some p => p
  | none => match q.ovf.find? (fun e => decide (e.seq = sq) && decide (e.lb = lb)) with
    | some e => e.block
    | none => 0

/-- The sequence entry of id `sq`, where V = 1. -/
def Pool.seqOf (q : Pool) (sq : Nat) : Option SeqEntry := (q.seqs.find? (fun e => e.1 == sq / 8)).map (fun e => e.2)

/-- Translate(seq, lb), following at most `n` parents (R399). -/
def Pool.translate (q : Pool) (n sq lb : Nat) : Nat :=
  match n with
  | 0 => q.find sq lb
  | n + 1 => match q.seqOf sq with
    | some e => if lb < e.shared then Pool.translate q n e.parent lb else q.find sq lb
    | none => q.find sq lb

/-- The first block from `p` on, of `n`, that is free and was never freed. -/
def Pool.firstFrom (q : Pool) (n p : Nat) : Option Nat :=
  match n with
  | 0 => none
  | n + 1 => if (q.entry p).isNone && !(q.head.contains p) then some p else Pool.firstFrom q n (p + 1)

/-- The head of the free list (R398). -/
def Pool.freeHead (q : Pool) : Option Nat :=
  match q.head with
  | p :: _ => some p
  | [] => q.firstFrom q.nblk 0

/-- A table entry written whole: its error is gone (23 R463). -/
def Pool.sound (q : Pool) (n : Nat) : Pool := { q with bad := q.bad.filter (fun k => !(decide (k = n))) }

/-- The number of blocks that hold `n` tokens. -/
def blocksFor (n : Nat) : Nat := (n + 15) / 16

/-- The lowest index of an invalid sequence entry, of the first `n`. -/
def Pool.freeSeq (q : Pool) (n k : Nat) : Option Nat :=
  match n with
  | 0 => none
  | n + 1 => if q.seqs.any (fun e => e.1 == k) then Pool.freeSeq q n (k + 1) else some k

/-- Alloc(seq, lb) (R399): the pool with the block taken, and the block; none is EMPTY. -/
def Pool.alloc (q : Pool) (sq lb : Nat) : Option (Pool × Nat) :=
  let take := fun (q : Pool) (p : Nat) =>
    ({ q.sound (3 * p + 1) with head := q.head.filter (fun x => !(x == p)),
                                inv := q.inv.set p { seq := sq, lb := lb, ref := 1 } }, p)
  match (q.window sq lb).find? (fun p => (q.entry p).isNone) with
  | some p => some (take q p)
  | none =>
    if q.novf ≤ q.ovf.length then none
    else match q.freeHead with
      | none => none
      | some p => some (take { q.sound (3 * p + 2) with ovf := q.ovf ++ [{ seq := sq, lb := lb, block := p }] } p)

/-- A reference to block `p` is dropped (R400 item 1). -/
def Pool.drop (q : Pool) (p : Nat) : Pool :=
  match q.entry p with
  | none => q
  | some e =>
    if e.ref ≤ 1 then
      { q with inv := SMap.erase q.inv p, ovf := q.ovf.filter (fun o => !(decide (o.block = p))), head := p :: q.head }
    else { q with inv := q.inv.set p { e with ref := e.ref - 1 } }

/-- A released entry without children becomes invalid, and its parent is judged in turn (R400 item 3). -/
def Pool.retire (q : Pool) (n sq : Nat) : Pool :=
  match n with
  | 0 => q
  | n + 1 => match q.seqOf sq with
    | none => q
    | some e =>
      if e.rel && decide (e.children = 0) then
        let q1 : Pool := { q with seqs := SMap.erase q.seqs (sq / 8) }
        if e.shared = 0 then q1
        else match q1.seqOf e.parent with
          | none => q1
          | some f =>
            Pool.retire { q1 with seqs := q1.seqs.set (e.parent / 8) { f with children := f.children - 1 } } n e.parent
      else q

/-- Release of sequence `sq` (R400 items 2 and 3). -/
def Pool.release (q : Pool) (sq : Nat) (e : SeqEntry) : Pool :=
  let q1 : Pool := { q with seqs := q.seqs.set (sq / 8) { e with rel := true } }
  ((List.range e.blocks).foldl (fun q lb => q.drop (q.translate 4 sq lb)) q1).retire 6 sq

/-! ### Damaged tables (23 R460, R463) -/

/-- An uncorrectable error in livery `j`: entry `a / 16` of the tables of partition `a % 16`. -/
def State.spoilLivery (s : State) (j a : Nat) : State :=
  s.onPart (a % 16) (fun x => { x with pools := x.pools.map (fun e =>
    if e.1 = j then (j, { e.2 with bad := a / 16 :: e.2.bad }) else e) })

/-- The table entries that Find reads. -/
def Pool.findReads (q : Pool) (sq lb : Nat) : List Nat :=
  let w := q.window sq lb
  match w.findIdx? (fun p => match q.entry p with
      | some e => decide (e.seq = sq) && decide (e.lb = lb)
      | none => false) with
  | some i => (w.take (i + 1)).map (fun p => 3 * p + 1)
  | none => w.map (fun p => 3 * p + 1) ++ q.ovf.map (fun e => 3 * e.block + 2)

/-- The table entries that Translate reads. -/
def Pool.translateReads (q : Pool) (n sq lb : Nat) : List Nat :=
  match n with
  | 0 => q.findReads sq lb
  | n + 1 => 3 * (sq / 8) :: (match q.seqOf sq with
    | some e => if lb < e.shared then Pool.translateReads q n e.parent lb else q.findReads sq lb
    | none => q.findReads sq lb)

/-- The inverted entries that Alloc reads. -/
def Pool.allocReads (q : Pool) (sq lb : Nat) : List Nat :=
  let w := q.window sq lb
  (match w.findIdx? (fun p => (q.entry p).isNone) with
    | some i => w.take (i + 1)
    | none => w).map (fun p => 3 * p + 1)

/-- The table entries that a livery instruction reads beside the sequence's own: operation, sequence, its entry, n. A condition that
the sequence's own entry decides comes before them (R401). -/
def Pool.reads (q : Pool) (op id : Nat) (e : SeqEntry) (all : Bool) (n : Nat) : List Nat :=
  match op with
  | 0 => q.allocReads id e.blocks
  | 1 => if all then (List.range e.blocks).flatMap (q.translateReads 4 id)
    else if n + 1 ≠ e.blocks ∨ n < e.shared then [] else q.translateReads 4 id n
  | 2 =>
    let i := (q.freeSeq (Nat.min q.nseq (q.seqs.length + 1)) 0).getD 0
    if e.length < n ∨ 4 < (if n / 16 = 0 then 0 else e.depth + 1) then []
    else (List.range (i + 1)).map (fun k => 3 * k) ++ (List.range (blocksFor n)).flatMap (q.translateReads 4 id) ++
      (if n % 16 = 0 then [] else q.allocReads (id % 8 + 8 * i) (n / 16))
  | 3 => if e.length ≤ n then [] else q.translateReads 4 id (n / 16)
  | _ =>
    if 0xFFFFFFFF - e.length < n then []
    else (List.range (blocksFor (e.length + n) - e.blocks)).flatMap (fun i => q.allocReads id (e.blocks + i))

/-- One of the table entries is damaged. -/
def Pool.damagedIn (q : Pool) (l : List Nat) : Bool := q.bad.any l.contains

/-! ### The block's bytes (R394, R396, R402) -/

/-- Physical address of block `p`. -/
def Pool.addr (q : Pool) (p : Nat) : Nat := q.base + 0x10000 * p

/-- The bytes of a newly allocated block: zeros, FORMAT 1, SEQ and LB (R399). -/
def freshBlock (sq lb : Nat) : List Byte :=
  toBytes 4 sq ++ toBytes 4 lb ++ [1] ++ List.replicate (0x10000 - 9) 0

/-- The state with block `p` of a pool written as new. -/
def State.freshBlock (s : State) (q : Pool) (p sq lb : Nat) : State := s.writePhys (q.addr p) (Machine.freshBlock sq lb)

/-- The outlier entries of a list whose token lies below `r`, in order. -/
def keptOutliers (m : Memory) (base cnt r : Nat) : List Nat :=
  ((List.range (Nat.min cnt 32)).map (fun j => m.readLE (base + 4 * j) 4)).filter (fun e => decide (e / 2 ^ 24 % 16 < r))

/-- Bytes moved within physical memory. -/
def copyPhys (m : Memory) (src dst n : Nat) : Memory := m.writeBytes dst (m.readBytes src n)

/-- The partial block copied by BFORK: the first `r` tokens of block `src` into block `dst` (R402). -/
def copyPartial (m : Memory) (src dst r : Nat) : Memory :=
  let m1 := copyPhys m (src + 0x100) (dst + 0x100) (r * 0x400)
  let m2 := copyPhys m1 (src + 0x4100) (dst + 0x4100) (r * 0x400)
  let m3 := copyPhys m2 (src + 0x9100) (dst + 0x9100) (r * 32)
  let m4 := copyPhys m3 (src + 0x8100) (dst + 0x8100) 0x1000
  [(0x10, 0x9300), (0x20, 0x9B00)].foldl (fun m part =>
    (List.range 16).foldl (fun m h =>
      let es := keptOutliers m (src + part.2 + 128 * h) (m.read (src + part.1 + h)).toNat r
      let m5 := m.write (dst + part.1 + h) (BitVec.ofNat 8 es.length)
      m5.writeBytes (dst + part.2 + 128 * h) (es.flatMap (toBytes 4))) m) m4

/-! ### The instructions (R401, R402) -/

/-- What a livery instruction gives: a result for dd, LIVERY_FAULT with its reason, LIVERY_EMPTY, or an uncorrectable error of its
tables or of a block. -/
inductive LivOut
  | ok (v : Option Word) | fault (reason : Nat) | empty | ecc (table : Bool)
  deriving DecidableEq, Repr

/-- Allocation of logical blocks `lb` to `lb + n − 1` of a sequence: the pool and the blocks taken. -/
def Pool.allocMany (q : Pool) (sq lb n : Nat) : Option (Pool × List (Nat × Nat)) :=
  match n with
  | 0 => some (q, [])
  | n + 1 => match q.alloc sq lb with
    | none => none
    | some (q1, p) => match Pool.allocMany q1 sq (lb + 1) n with
      | none => none
      | some (q2, ps) => some (q2, (p, lb) :: ps)

/-- The pool of partition `k` in livery `j`. -/
def State.pool (s : State) (k j : Nat) : Option Pool := ((s.part k).pools.find? (fun e => e.1 == j)).map (fun e => e.2)
/-- The state with that pool replaced. -/
def State.setPool (s : State) (k j : Nat) (q : Pool) : State :=
  s.onPart k (fun x => { x with pools := x.pools.set j q })



/-- BFORK from a parent entry (a creator's has length 0) with `n` tokens (R401, R402). -/
def State.bfork (s : State) (k j : Nat) (q : Pool) (p : Nat) (root : Bool) (e : SeqEntry) (n : Nat) : LivOut × State :=
  let m := n / 16
  let depth := if m = 0 then 0 else e.depth + 1
  if (if root then 0 else e.length) < n then (.fault 3, s)
  else if 4 < depth then (.fault 4, s)
  -- one entry more than are used is enough to find the lowest invalid one
  else match q.freeSeq (Nat.min q.nseq (q.seqs.length + 1)) 0 with
    | none => (.fault 6, s)
    | some i =>
      let c := j + 8 * i
      let x : SeqEntry := { parent := if m = 0 then 0xFFFFFFFF else p, length := n, shared := m, blocks := blocksFor n,
                            rel := false, depth := depth, children := 0 }
      let q1 : Pool := { q.sound (3 * i) with seqs := q.seqs.set i x }
      let q2 : Pool := if m = 0 then q1
        else { q1 with seqs := q1.seqs.set (p / 8) { e with children := e.children + 1 } }
      let q3 := (List.range m).foldl (fun (q : Pool) lb =>
        let b := q.translate 4 p lb
        match q.entry b with
        | none => q
        | some x => { q with inv := q.inv.set b { x with ref := x.ref + 1 } }) q2
      let r := n % 16
      if r = 0 then (.ok (some (BitVec.ofNat 64 c)), s.setPool k j q3)
      else
        let src := q3.translate 4 p m
        match q3.alloc c m with
        | none => (.empty, s)
        | some (q4, dst) =>
          if s.damaged (q4.addr src) 0x10000 then (.ecc false, s)
          else
            let s1 := (s.setPool k j q4).freshBlock q4 dst c m
            (.ok (some (BitVec.ofNat 64 c)), { s1 with mem := copyPartial s1.mem (q4.addr src) (q4.addr dst) r })

/-- A livery instruction performs at its home livery for partition `k` (R401 to R403; log 80): sub-operation, da, db. -/
def State.liveryDo (s : State) (k op : Nat) (da db : Word) : LivOut × State :=
  let id := da.toNat
  let j := id % 8
  let n := db.toNat
  match s.pool k j with
  | none => (.fault 1, s)
  | some q =>
    if 2 ^ 32 ≤ id then (.fault 1, s)
    else if 0xFFFFFFF8 ≤ id then
      let e : SeqEntry := { parent := 0xFFFFFFFF, length := 0, shared := 0, blocks := 0, rel := false, depth := 0, children := 0 }
      (if op = 2 then (if n = 0 ∧ q.damagedIn (q.reads 2 id e false 0) = true then (.ecc true, s) else s.bfork k j q id true e n)
       else (.fault 1, s))
    else if q.damagedIn [3 * (id / 8)] then (.ecc true, s)
    else match q.seqOf id with
      | none => (.fault 1, s)
      | some e =>
        if e.rel then (.fault 1, s)
        else if q.damagedIn (q.reads op id e (decide (db = -1)) n) then (.ecc true, s)
        else match op with
          | 0 => match q.alloc id e.blocks with
            | none => (.empty, s)
            | some (q1, p) =>
              let q2 : Pool := { q1 with seqs := q1.seqs.set (id / 8) { e with blocks := e.blocks + 1 } }
              (.ok (some (BitVec.ofNat 64 e.blocks)), (s.setPool k j q2).freshBlock q2 p id e.blocks)
          | 1 =>
            if db = -1 then (.ok none, s.setPool k j (q.release id e))
            else
              let p := q.translate 4 id n
              let ref := match q.entry p with | some x => x.ref | none => 0
              if n + 1 ≠ e.blocks ∨ n < e.shared ∨ ref ≠ 1 then (.fault 2, s)
              else
                let q1 := q.drop p
                (.ok none, s.setPool k j { q1 with
                  seqs := q1.seqs.set (id / 8) { e with blocks := n, length := Nat.min e.length (16 * n) } })
          | 2 => s.bfork k j q id false e n
          | 3 =>
            if e.length ≤ n then (.fault 3, s)
            else (.ok (some (BitVec.ofNat 64 (q.addr (q.translate 4 id (n / 16))))), s)
          | _ =>
            if 0xFFFFFFFF - e.length < n then (.fault 5, s)
            else
              let l := e.length + n
              match q.allocMany id e.blocks (blocksFor l - e.blocks) with
              | none => (.empty, s)
              | some (q1, ps) =>
                let e' : SeqEntry := { e with length := l, blocks := Nat.max e.blocks (blocksFor l) }
                let q2 : Pool := { q1 with seqs := q1.seqs.set (id / 8) e' }
                (.ok (some (BitVec.ofNat 64 l)), ps.foldl (fun s x => s.freshBlock q2 x.1 id x.2) (s.setPool k j q2))

end Sys2Proof.Machine
end

