-- ==== Sys2Proof/Machine/GigMem.lean ====
section
/-! DEFINITION. Gig loads, stores, atomics and fences (08 R233 to R240), the routing and livery instructions as accesses
(R253 to R255), and how an access reaches its target and performs (08 R235, R236; 12 R331 to R338; 17 R385 to R387). -/
namespace Sys2Proof.Machine

/-! ### Order within a thread (12 R333, R334) -/

/-- Bytes that an operation touches from its address on. -/
def AccOp.bytes (o : AccOp) : Nat :=
  match o with
  | .load n _ => n
  | .store n _ => n
  | .amo _ w _ _ => if w then 8 else 4
  | .cntsnap _ n => 8 * n
  | .hsift k _ => 8 * k
  | _ => 0

/-- The place that an access touches: a space number and an offset in it. -/
def Target.place (t : Target) : Option (Nat × Nat) :=
  match t with
  | .phys pa => some (0, pa)
  | .near g o => some (1 + g, o)
  | .tensor d p o => some (2000 + d * 32 + p, o)
  | .event o => some (3000, o)
  | .control o => some (3001, o)
  | _ => none

/-- Two accesses of one thread share a byte. -/
def Access.shares (a b : Access) : Bool :=
  match a.target.place, b.target.place with
  | some (x, i), some (y, j) => decide (x = y) && decide (i < j + b.op.bytes) && decide (j < i + a.op.bytes)
  | _, _ => false

/-- The memory of a scope, for thread `t` (12 Table 12-1). -/
def inScope (t scope : Nat) (k : Target) : Bool :=
  match k with
  | .near g _ => decide (g = gigOf t) || decide (1 ≤ scope)
  | .event _ => decide (1 ≤ scope)
  | .tensor d _ _ => if d = dieOf t then decide (2 ≤ scope) else decide (3 ≤ scope)
  | .counters => decide (2 ≤ scope)
  | .phys pa => if inHbm pa then decide (3 ≤ scope) else decide (4 ≤ scope)
  | .livery _ => decide (3 ≤ scope)
  | _ => decide (4 ≤ scope)

/-- The class bit of a mask. -/
def inMask (m : BitVec 16) (c : Nat) : Bool := m.getLsbD c

/-- A load of the window that acquires a mutex or an event, which a fence takes as an access of every class (R334). -/
def Access.acquires (a : Access) : Bool :=
  match a.target, a.op with
  | .event o, .load .. => decide (0x100 ≤ o)
  | _, _ => false

/-- A class of the access lies in the mask of a fence (R334). -/
def Access.inClass (a : Access) (m : BitVec 16) : Bool := inMask m a.cls || (a.acquires && decide (m ≠ 0))

/-- Some earlier entry of `ps` orders access `a` after itself: an access of the same class or bytes, or one that a
fence between them covers (R333 items 1 to 3, R334). -/
def heldBack (t : Nat) (a : Access) (ps : List Pending) : Bool :=
  match ps with
  | [] => false
  | .fence _ _ :: rest => heldBack t a rest
  | .acc b :: rest =>
    (decide (b.id ≠ a.id) && decide (b.id < a.id) &&
      (decide (b.cls = a.cls) || b.shares a ||
        ((rest.takeWhile (fun p => match p with | .acc c => decide (c.id ≠ a.id) | _ => true)).any (fun p => match p with
          | .fence sc m => b.inClass m && a.inClass m && inScope t sc b.target && inScope t sc a.target
          | _ => false)))) ||
    heldBack t a rest

/-- Access `a` of thread `t` may perform: nothing orders an earlier access before it. -/
def Thread.mayPerform (th : Thread) (t : Nat) (a : Access) : Bool := !(heldBack t a th.pend)

/-- Access `a` may perform as a release: every earlier access has performed (R335). -/
def Thread.mayRelease (th : Thread) (a : Access) : Bool := th.accs.all (fun b => decide (a.id ≤ b.id))

/-- The outstanding list without fences that no access precedes. -/
def trimFences (ps : List Pending) : List Pending :=
  match ps with
  | .fence _ _ :: rest => trimFences rest
  | ps => ps

/-- The thread without access `j`. -/
def Thread.retireAcc (th : Thread) (j : Nat) : Thread :=
  { th with pend := trimFences (th.pend.filter (fun p => match p with
      | .acc a => !(decide (a.id = j))
      | _ => true)) }

/-- The outstanding list with register `d` no longer a destination of the accesses before number `j`: the result of a later
instruction prevails over theirs (R225). -/
def forgetBefore (j d : Nat) (ps : List Pending) : List Pending :=
  ps.map (fun p => match p with
    | .acc b => if b.id < j then p.forget d else p
    | f => f)

/-- The thread with access `a` performed and its result in the destination register, where one is still wanted: those of earlier
accesses are not any more (R225). -/
def Thread.complete (th : Thread) (a : Access) (v : Word) : Thread :=
  let th1 := th.retireAcc a.id
  match a.dest with
  | some d => if d = 0 then th1
    else { th1 with regs := th1.regs.set d v, marks := SMap.erase th1.marks d, pend := forgetBefore a.id d th1.pend }
  | none => th1

/-- The thread with access `a` performed on damaged data: its destination is marked (R227). -/
def Thread.spoil (th : Thread) (a : Access) : Thread :=
  let th1 := th.retireAcc a.id
  match a.dest with
  | some d => if d = 0 then th1
    else { th1 with marks := th1.marks.set d (BitVec.ofNat 64 a.va), pend := forgetBefore a.id d th1.pend }
  | none => th1

/-- Access `j` of thread `t`. -/
def State.access (s : State) (t j : Nat) : Option Access := (s.thread t).accs.find? (fun a => decide (a.id = j))

/-- Access `a` of thread `t` traps: it does not perform, and TPC is its instruction's address (R226). A thread that has left,
its context having ended, takes no trap (19 R423). -/
def State.accTrap (s : State) (t : Nat) (a : Access) (cause sub : Nat) (v : Word) : State :=
  let s1 := s.onThread t (fun th => th.retireAcc a.id)
  if (s.thread t).phase = .left then s1 else s1.trapAt t cause sub v a.pc

/-! ### Issue (R233, R234) -/

/-- The thread with a new access outstanding and its instruction passed. An earlier access keeps its destination until this one
has performed: one that traps takes no effect (R226). -/
def Thread.push (th : Thread) (cls va : Nat) (op : AccOp) (dest : Option Nat) (k : Target) : Thread :=
  let a : Access := { id := th.nextId, cls := cls, va := va, op := op, dest := dest, target := k, pages := [],
                      pc := th.pc, level := th.level }
  { th with pend := th.pend ++ [.acc a], nextId := th.nextId + 1, pc := th.pc + 4 }

/-- The acting thread issues an access of `size` bytes at `va` (R234 items 1 to 3; 01 R36, R38 items 1 and 2; R236). A window
access and an atomic enter the road book where they issue (19 R428). DESIGN CHOICE (log 73): an atomic in the tensor SRAM window
traps UNSUP before its die and offset are judged. -/
def State.issueAcc (s : State) (cls va size : Nat) (op : AccOp) (dest : Option Nat) : State :=
  let t := s.curThread
  let v : Word := BitVec.ofNat 64 va
  let amo := match op with | .amo .. => true | _ => false
  let store := match op with | .store .. => true | _ => false
  if 2 ^ 49 ≤ va then s.trapMe trapAccess subRange v
  else if va % size ≠ 0 then s.trapMe trapMisalign 0 v
  else if va < windowBase then (if amo then s.noteGig t 4 s.th.pc va else s).onMe (fun th => th.push cls va op dest .paged)
  else if va < windowBase + 2 ^ 32 then
    let o := va - windowBase
    if amo then s.trapMe trapAccess subUnsup v
    else if !((s.part (s.partOfThread t)).hasDie (o / 2 ^ 28)) || decide (tensorSize ≤ o % 2 ^ 23) then
      s.trapMe trapAccess subRange v
    else (s.noteGig t 4 s.th.pc va).onMe (fun th =>
      th.push cls va op dest (.tensor (o / 2 ^ 28) (o / 2 ^ 23 % 32) (o % 2 ^ 23)))
  else if eventBase ≤ va ∧ va < eventBase + 0x1000 then
    let o := va - eventBase
    if amo then s.trapMe trapAccess subUnsup v
    else if size ≠ 8 ∨ 0x300 ≤ o ∨ (0x180 ≤ o ∧ o < 0x200) ∨ (0x080 ≤ o ∧ o < 0x100) ∨ (store ∧ o < 0x080) then
      s.trapMe trapAccess subWindow v
    else (s.noteGig t 4 s.th.pc va).onMe (fun th => th.push cls va op dest (.event o))
  else if nearBase ≤ va then
    let o := va - nearBase
    (s.noteGig t 4 s.th.pc va).onMe (fun th =>
      th.push cls va op dest (.near (coachOf t * 8 + o / 2 ^ 19) (o % 2 ^ 19)))
  else s.trapMe trapAccess subWindow v

/-- A := da + sign-extend(imm9) × size, modulo 2^64 (R233). -/
def Thread.address (th : Thread) (a : BitVec 5) (i : BitVec 9) (size : Nat) : Nat :=
  (th.d a.toNat + i.signExtend 64 * BitVec.ofNat 64 size).toNat

/-- A load (R233). -/
def State.gigLoad (s : State) (ins : Instr) (d a : BitVec 5) (c : BitVec 4) (i : BitVec 9) (size : Nat) (sg : Bool) : State :=
  s.gigInstr ins [a.toNat] false (fun s =>
    s.issueAcc c.toNat (s.th.address a i size) size (.load size sg) (some d.toNat))

/-- A store (R233). -/
def State.gigStore (s : State) (ins : Instr) (d a : BitVec 5) (c : BitVec 4) (i : BitVec 9) (size : Nat) : State :=
  s.gigInstr ins [d.toNat, a.toNat] false (fun s =>
    s.issueAcc c.toNat (s.th.address a i size) size (.store size ((s.th.d d.toNat).toNat % 2 ^ (8 * size))) none)

/-- An atomic on the word or doubleword at da; AMOCAS reads dd too (R237). -/
def State.gigAmo (s : State) (ins : Instr) (d a b : BitVec 5) (w : BitVec 1) (c : BitVec 4) (op : Nat) : State :=
  s.gigInstr ins (if op = 2 then [a.toNat, b.toNat, d.toNat] else [a.toNat, b.toNat]) false (fun s =>
    let va := (s.th.d a.toNat).toNat
    s.issueAcc c.toNat va (if w = 1 then 8 else 4)
      (.amo op (decide (w = 1)) (s.th.d b.toNat) (s.th.d d.toNat)) (some d.toNat))

/-- LDB: a sign-extended byte (R233). -/
def execLdb (d a : BitVec 5) (c : BitVec 4) (i : BitVec 9) (s : State) : Out := .next (s.gigLoad (.ldb d a c i) d a c i 1 true)
/-- LDH: a sign-extended halfword (R233). -/
def execLdh (d a : BitVec 5) (c : BitVec 4) (i : BitVec 9) (s : State) : Out := .next (s.gigLoad (.ldh d a c i) d a c i 2 true)
/-- LDW: a sign-extended word (R233). -/
def execLdw (d a : BitVec 5) (c : BitVec 4) (i : BitVec 9) (s : State) : Out := .next (s.gigLoad (.ldw d a c i) d a c i 4 true)
/-- LDD: a doubleword (R233). -/
def execLdd (d a : BitVec 5) (c : BitVec 4) (i : BitVec 9) (s : State) : Out := .next (s.gigLoad (.ldd d a c i) d a c i 8 false)
/-- LDBU: a zero-extended byte (R233). -/
def execLdbu (d a : BitVec 5) (c : BitVec 4) (i : BitVec 9) (s : State) : Out := .next (s.gigLoad (.ldbu d a c i) d a c i 1 false)
/-- LDHU: a zero-extended halfword (R233). -/
def execLdhu (d a : BitVec 5) (c : BitVec 4) (i : BitVec 9) (s : State) : Out := .next (s.gigLoad (.ldhu d a c i) d a c i 2 false)
/-- LDWU: a zero-extended word (R233). -/
def execLdwu (d a : BitVec 5) (c : BitVec 4) (i : BitVec 9) (s : State) : Out := .next (s.gigLoad (.ldwu d a c i) d a c i 4 false)
/-- STB (R233). -/
def execStb (d a : BitVec 5) (c : BitVec 4) (i : BitVec 9) (s : State) : Out := .next (s.gigStore (.stb d a c i) d a c i 1)
/-- STH (R233). -/
def execSth (d a : BitVec 5) (c : BitVec 4) (i : BitVec 9) (s : State) : Out := .next (s.gigStore (.sth d a c i) d a c i 2)
/-- STW (R233). -/
def execStw (d a : BitVec 5) (c : BitVec 4) (i : BitVec 9) (s : State) : Out := .next (s.gigStore (.stw d a c i) d a c i 4)
/-- STD (R233). -/
def execStd (d a : BitVec 5) (c : BitVec 4) (i : BitVec 9) (s : State) : Out := .next (s.gigStore (.std d a c i) d a c i 8)
/-- AMOADD (R237). -/
def execAmoadd (d a b : BitVec 5) (w : BitVec 1) (c : BitVec 4) (s : State) : Out := .next (s.gigAmo (.amoadd d a b w c) d a b w c 0)
/-- AMOSWAP (R237). -/
def execAmoswap (d a b : BitVec 5) (w : BitVec 1) (c : BitVec 4) (s : State) : Out := .next (s.gigAmo (.amoswap d a b w c) d a b w c 1)
/-- AMOCAS (R237). -/
def execAmocas (d a b : BitVec 5) (w : BitVec 1) (c : BitVec 4) (s : State) : Out := .next (s.gigAmo (.amocas d a b w c) d a b w c 2)
/-- AMOMIN (R237). -/
def execAmomin (d a b : BitVec 5) (w : BitVec 1) (c : BitVec 4) (s : State) : Out := .next (s.gigAmo (.amomin d a b w c) d a b w c 3)
/-- AMOMAX (R237). -/
def execAmomax (d a b : BitVec 5) (w : BitVec 1) (c : BitVec 4) (s : State) : Out := .next (s.gigAmo (.amomax d a b w c) d a b w c 4)
/-- AMOMINU (R237). -/
def execAmominu (d a b : BitVec 5) (w : BitVec 1) (c : BitVec 4) (s : State) : Out := .next (s.gigAmo (.amominu d a b w c) d a b w c 5)
/-- AMOMAXU (R237). -/
def execAmomaxu (d a b : BitVec 5) (w : BitVec 1) (c : BitVec 4) (s : State) : Out := .next (s.gigAmo (.amomaxu d a b w c) d a b w c 6)
/-- AMOAND (R237). -/
def execAmoand (d a b : BitVec 5) (w : BitVec 1) (c : BitVec 4) (s : State) : Out := .next (s.gigAmo (.amoand d a b w c) d a b w c 7)
/-- AMOOR (R237). -/
def execAmoor (d a b : BitVec 5) (w : BitVec 1) (c : BitVec 4) (s : State) : Out := .next (s.gigAmo (.amoor d a b w c) d a b w c 8)
/-- AMOXOR (R237). -/
def execAmoxor (d a b : BitVec 5) (w : BitVec 1) (c : BitVec 4) (s : State) : Out := .next (s.gigAmo (.amoxor d a b w c) d a b w c 9)

/-- FENCE.scope mask: it stands between the accesses before it and those that follow (R240; 12 R334). -/
def execFence (sc : BitVec 5) (m : BitVec 16) (s : State) : Out :=
  .next (s.gigInstr (.fence sc m) [] false (fun s => s.onMe (fun th =>
    { th with pend := if th.pend.isEmpty then [] else th.pend ++ [.fence sc.toNat m], pc := th.pc + 4 })))

/-! ### Routing and livery instructions (R253 to R255) -/

/-- An address that must be `al`-aligned and lie with its `n` bytes in the own scratchpad (R249): its offset, or the
trap, whose TVALUE is the address. -/
def ownOffset (t al n va : Nat) : Except (Nat × Nat) Nat :=
  if va % al ≠ 0 then .error (trapMisalign, 0)
  else if va < nearBase ∨ 2 ^ 49 ≤ va then .error (trapAccess, subWindow)
  else
    let o := va - nearBase
    if o / 2 ^ 19 = gigOf t % 8 ∧ o % 2 ^ 19 + n ≤ 2 ^ 19 then .ok (o % 2 ^ 19)
    else .error (trapAccess, subWindow)

/-- The acting thread goes on with the offset of `va` in its own scratchpad, or traps. -/
def State.withOwn (s : State) (al n : Nat) (va : Word) (f : Nat → State) : State :=
  match ownOffset s.curThread al n va.toNat with
  | .error e => s.trapMe e.1 e.2 va
  | .ok o => f o

/-- HSIFT dd, da, db, k: an access of class 14 to the heap (R253; 12 R338). -/
def execHsift (d a b k : BitVec 5) (s : State) : Out :=
  .next (s.gigInstr (.hsift d a b k) [a.toNat, b.toNat] false (fun s =>
    s.withOwn 8 (8 * k.toNat) (s.th.d a.toNat) (fun o => s.onMe (fun th =>
      th.push 14 (th.d a.toNat).toNat (.hsift k.toNat (th.d b.toNat)) (some d.toNat) (.near (gigOf s.curThread) o)))))

/-- CNTADD da, db (R254). -/
def execCntadd (a b : BitVec 5) (s : State) : Out :=
  .next (s.gigInstr (.cntadd a b) [a.toNat, b.toNat] false (fun s =>
    let n := s.th.d a.toNat
    if 255 < n.toNat then s.trapMe trapAccess subRange n
    else s.onMe (fun th => th.push 14 0 (.cntadd n.toNat (th.d b.toNat)) none .counters)))

/-- CNTSNAP da, db, n with n from 1 to 64 (R254). The TVALUE of a range past 255 is the first counter past it. -/
def execCntsnap (a b : BitVec 5) (n : BitVec 6) (s : State) : Out :=
  .next (s.gigInstr (.cntsnap a b n) [a.toNat, b.toNat] false (fun s =>
    let f := s.th.d a.toNat
    let c := n.toNat + 1
    if 255 < f.toNat then s.trapMe trapAccess subRange f
    else if 256 < f.toNat + c then s.trapMe trapAccess subRange 256
    else s.withOwn 8 (8 * c) (s.th.d b.toNat) (fun o => s.onMe (fun th =>
      th.push 14 (th.d b.toNat).toNat (.cntsnap f.toNat c) none (.near (gigOf s.curThread) o)))))

/-- A livery instruction: an access of class 15 to the home livery of da (R255). -/
def State.liveryInstr (s : State) (i : Instr) (srcs : List Nat) (op : Nat) (d : Option Nat) (a b : Nat) (nf : Bool) : State :=
  s.gigInstr i srcs false (fun s => s.onMe (fun th =>
    th.push 15 (th.d a).toNat (.livery op (th.d a) (th.d b) nf) d (.livery ((th.d a).toNat % 8))))

/-- BALLOC{.NF} dd, da (R255; 18 R401). -/
def execBalloc (d a : BitVec 5) (n : BitVec 1) (s : State) : Out :=
  .next (s.liveryInstr (.balloc d a n) [a.toNat] 0 (some d.toNat) a.toNat 0 (decide (n = 1)))
/-- BFREE da, db (R255; 18 R401). -/
def execBfree (a b : BitVec 5) (s : State) : Out :=
  .next (s.liveryInstr (.bfree a b) [a.toNat, b.toNat] 1 none a.toNat b.toNat false)
/-- BFORK{.NF} dd, da, db (R255; 18 R402). -/
def execBfork (d a b : BitVec 5) (n : BitVec 1) (s : State) : Out :=
  .next (s.liveryInstr (.bfork d a b n) [a.toNat, b.toNat] 2 (some d.toNat) a.toNat b.toNat (decide (n = 1)))
/-- BMAP dd, da, db (R255; 18 R401). -/
def execBmap (d a b : BitVec 5) (s : State) : Out :=
  .next (s.liveryInstr (.bmap d a b) [a.toNat, b.toNat] 3 (some d.toNat) a.toNat b.toNat false)
/-- BAPPEND{.NF} dd, da, db (R255; 18 R401). -/
def execBappend (d a b : BitVec 5) (n : BitVec 1) (s : State) : Out :=
  .next (s.liveryInstr (.bappend d a b n) [a.toNat, b.toNat] 4 (some d.toNat) a.toNat b.toNat (decide (n = 1)))

/-! ### Performing (12 R331, R332, R336) -/

/-- The value that a load writes (R233). -/
def loadValue (size : Nat) (sg : Bool) (v : Nat) : Word :=
  if sg then BitVec.ofInt 64 (signedOf (8 * size) v) else BitVec.ofNat 64 v

/-- The new value of an AMO on `w` bits (Table 8-5). -/
def amoNew (op w old v c : Nat) : Nat :=
  let x := BitVec.ofNat w old
  let y := BitVec.ofNat w v
  match op with
  | 0 => (x + y).toNat
  | 1 => y.toNat
  | 2 => if old % 2 ^ w = c % 2 ^ w then y.toNat else x.toNat
  | 3 => (if y.slt x then y else x).toNat
  | 4 => (if y.slt x then x else y).toNat
  | 5 => (if y.ult x then y else x).toNat
  | 6 => (if y.ult x then x else y).toNat
  | 7 => (x &&& y).toNat
  | 8 => (x ||| y).toNat
  | _ => (x ^^^ y).toNat

/-- Less(x, y) of two heap entries (R253). -/
def heapLess (x y : Word) : Bool :=
  let f := Fmt.fp32
  let a := f.decode (bitsOf x 63 32)
  let b := f.decode (bitsOf y 63 32)
  xlt a b || (xeq a b && decide (bitsOf y 31 0 < bitsOf x 31 0))

/-- The sift of an entry from index `i` down (R253). -/
def heapSift (n k i : Nat) (e : Word) (h : List Word) : List Word :=
  match n with
  | 0 => h.set i e
  | n + 1 =>
    if 2 * i + 1 < k then
      let c0 := 2 * i + 1
      let c := if c0 + 1 < k && heapLess (wordAt h (c0 + 1)) (wordAt h c0) then c0 + 1 else c0
      if heapLess (wordAt h c) e then heapSift n k c e (h.set i (wordAt h c)) else h.set i e
    else h.set i e

/-- An offer to a top-k heap: the heap after it and whether the entry went in (R253). -/
def heapOffer (k : Nat) (e : Word) (h : List Word) : List Word × Bool :=
  if Fmt.fp32.decode (bitsOf e 63 32) = .nan ∨ heapLess (wordAt h 0) e = false then (h, false)
  else (heapSift 5 k 0 e h, true)

/-- A tensor SRAM after bytes are written. -/
def Store.put (m : Store) (o : Nat) (bs : List Byte) : Store :=
  { m with sram := m.sram.writeBytes o bs,
           bad := m.bad.filter (fun b => !(decide (o ≤ b * 8) && decide (b * 8 + 8 ≤ o + bs.length))) }



/-- Bytes of the place that an access reached: the bytes, and whether they are damaged. -/
def State.placeRead (s : State) (k : Target) (n : Nat) : List Byte × Bool :=
  match k with
  | .phys pa => (s.mem.readBytes pa n, s.damaged pa n)
  | .near g o => ((s.gig g).sp.readBytes o n, (s.gig g).bad.any (fun b => decide (o < b * 8 + 8) && decide (b * 8 < o + n)))
  | .tensor d p o =>
    let m := (s.pipe (d * 32 + p)).mem
    (m.sram.readBytes o n, m.bad.any (fun b => decide (o < b * 8 + 8) && decide (b * 8 < o + n)))
  | _ => ([], false)

/-- The state with bytes written to a place. -/
def State.placeWrite (s : State) (k : Target) (bs : List Byte) : State :=
  match k with
  | .phys pa => s.writePhys pa bs
  | .near g o => s.spWrite g o bs
  | .tensor d p o => s.onPipe (d * 32 + p) (fun x => { x with mem := x.mem.put o bs })
  | _ => s

/-- The unit that holds the data of a place (23 R466, R468). -/
def Target.source (k : Target) : BoxSource :=
  match k with
  | .phys pa => physSource pa
  | .near g _ => .gig g
  | .tensor d p _ => .pipe (d * 32 + p)
  | _ => .die 0

/-- A thread's grant asked with .CXL is consumed by its next access to the CXL tier (08 R263; log 71). -/
def Thread.useCxl (th : Thread) : Thread :=
  match th.grants.find? (fun g => g.cxl) with
  | some g => { th with grants := th.grants.erase g }
  | none => th

/-- The state with the CXL grant of thread `t` consumed where its access reaches that tier. -/
def State.burst (s : State) (t : Nat) (k : Target) : State :=
  match k with
  | .phys pa => if s.tier pa = .cxl then s.onThread t Thread.useCxl else s
  | _ => s

/-- A store to a host address whose accesses fail is counted, and its bytes do not land (17 R389). -/
def State.hostStoreFails (s : State) (k : Target) (n : Nat) : Bool :=
  match k with
  | .phys pa => decide (s.tier pa = .host) && s.damaged pa n
  | _ => false

/-- What access `a` of thread `t` does at its target, once nothing orders it back (R237, R253, R254, R332). An AMO or
HSIFT that reads damaged bytes marks dd and writes nothing (log 81). -/
def State.performAcc (s : State) (t : Nat) (a : Access) : State :=
  match a.op with
  | .load n sg =>
    let (bs, bad) := s.placeRead a.target n
    if bad then (s.onThread t (fun th => th.spoil a)).countUnc a.target.source
    else (s.onThread t (fun th => th.complete a (loadValue n sg (ofBytes bs)))).burst t a.target
  | .store n v =>
    if s.hostStoreFails a.target n then (s.onThread t (fun th => th.retireAcc a.id)).countUnc a.target.source
    else ((s.placeWrite a.target (toBytes n v)).onThread t (fun th => th.retireAcc a.id)).burst t a.target
  | .amo op w v c =>
    let n := if w then 8 else 4
    let (bs, bad) := s.placeRead a.target n
    if bad then (s.onThread t (fun th => th.spoil a)).countUnc a.target.source
    else
      let old := ofBytes bs
      (s.placeWrite a.target (toBytes n (amoNew op (8 * n) old v.toNat c.toNat))).onThread t
        (fun th => th.complete a (loadValue n true old))
  | .cntadd n v =>
    (s.onDie (dieOf t) (fun x => { x with counters := x.counters.set n (x.counters.get n 0 + v) })).onThread t
      (fun th => th.retireAcc a.id)
  | .cntsnap f n =>
    let x := s.die (dieOf t)
    let bs := (List.range n).flatMap (fun i => toBytes 8 (x.counters.get (f + i) 0).toNat)
    ((s.placeWrite a.target bs).onDie (dieOf t) (fun x =>
      { x with counters := x.counters.filter (fun e => !(decide (f ≤ e.1) && decide (e.1 < f + n))) })).onThread t
      (fun th => th.retireAcc a.id)
  | .hsift k e =>
    let (bs, bad) := s.placeRead a.target (8 * k)
    if bad then (s.onThread t (fun th => th.spoil a)).countUnc a.target.source
    else
      let h := (List.range k).map (fun i => BitVec.ofNat 64 (ofBytes ((bs.drop (8 * i)).take 8)))
      let (h', went) := heapOffer k e h
      ((if went then s.placeWrite a.target (h'.flatMap (fun w => toBytes 8 w.toNat)) else s)).onThread t
        (fun th => th.complete a (bit64 went))
  | .livery op sq arg nf =>
    let (r, s1) := s.liveryDo (s.partOfThread t) op sq arg
    let id : Word := BitVec.ofNat 64 (sq.toNat % 2 ^ 32)
    match r with
    | .ok (some v) => s1.onThread t (fun th => th.complete a v)
    | .ok none => s1.onThread t (fun th => th.retireAcc a.id)
    | .fault n => s.accTrap t a trapLivFault n id
    | .empty => if nf then s.onThread t (fun th => th.complete a (-1)) else s.accTrap t a trapLivEmpty 0 id
    | .ecc table => (s.accTrap t a trapAccess subEcc id).countUnc
        (if table then .die (dieOfStack (sq.toNat % 8)) else .stack (sq.toNat % 8))
  | _ => s

/-- A walk for an access or a fetch that follows what a thread has issued may read the table at `reads`: no earlier access of
the thread is ordered before a class 0 read of the entries (R383). -/
def Thread.mayWalk (th : Thread) (t id : Nat) (reads : List Nat) : Bool :=
  reads.all (fun r => th.mayPerform t { id := id, cls := 0, va := 0, op := .load 8 false, dest := none, target := .phys r,
                                        pages := [], pc := 0, level := false })

/-- The blocks whose bytes a livery instruction reads or writes as the tables stand, by address (18 R401, R402). -/
def State.liveryBlocks (s : State) (k op : Nat) (da db : Word) : List Nat :=
  match s.pool k (da.toNat % 8) with
  | none => []
  | some q =>
    let id := da.toNat
    let n := db.toNat
    let e : SeqEntry := (q.seqOf id).getD
      { parent := 0xFFFFFFFF, length := 0, shared := 0, blocks := 0, rel := false, depth := 0, children := 0 }
    let taken : List Nat := match op with
      | 0 => ((q.alloc id e.blocks).map Prod.snd).toList
      | 2 => if n % 16 = 0 then []
        else q.translate 4 id (n / 16) :: ((q.freeSeq (Nat.min q.nseq (q.seqs.length + 1)) 0).bind (fun i =>
          (q.alloc (id % 8 + 8 * i) (n / 16)).map Prod.snd)).toList
      | 4 => ((q.allocMany id e.blocks (blocksFor (e.length + n) - e.blocks)).map (fun r => r.2.map Prod.fst)).getD []
      | _ => []
    taken.map q.addr

/-- The livery access `b` and the memory access `a` of partition `k` share a byte (R333 item 2). -/
def State.meetsBlocks (s : State) (k : Nat) (a b : Access) : Bool :=
  match a.target, b.op with
  | .phys pa, .livery op sq arg _ =>
    (s.liveryBlocks k op sq arg).any (fun x => decide (pa < x + 0x10000) && decide (x < pa + a.op.bytes))
  | _, _ => false

/-- No earlier access of thread `t` shares a byte of a block with access `a` (R333 item 2; R338). -/
def State.blocksClear (s : State) (t : Nat) (a : Access) : Bool :=
  (s.thread t).accs.all (fun b => decide (a.id ≤ b.id) ||
    !(s.meetsBlocks (s.partOfThread t) a b || s.meetsBlocks (s.partOfThread t) b a))

/-- Access `a` translated to leaf `e3`: PERM, an unpopulated address, what a tier does not support, or its target
(R234 item 4, R238; 17 R376, R381, R385). It notes the cached translations that it used. -/
def State.translated (s : State) (t : Nat) (a : Access) (e3 : Word) (big : Bool) (used : List PageUse) : State :=
  let v : Word := BitVec.ofNat 64 a.va
  let amo := match a.op with | .amo .. => true | _ => false
  let store := match a.op with | .store .. => true | _ => false
  let pa := leafAddr e3 big a.va
  let set := fun (k : Target) => s.onThread t (fun th => { th with pend := th.pend.map (fun p => match p with
    | .acc b => if b.id = a.id then .acc { b with target := k, pages := used } else p
    | p => p) })
  if !(leafAllows e3 (!store) (store || amo) false a.level) then s.accTrap t a trapAccess subPerm v
  else match s.tier pa with
    | .nothing => s.accTrap t a trapAccess subRange v
    | .control p o =>
      if amo || decide (a.op.bytes ≠ 8) then s.accTrap t a trapAccess subUnsup v
      else if p ≠ s.partOfThread t ∨ ¬(o = 0 ∨ o = 8 ∨ o = 16) then s.accTrap t a trapAccess subRange v
      else match a.op with
        | .store _ w =>
          if o = 8 ∧ (w / 2 ^ 49 % 2 ^ 13 ≠ 0 ∨ w % 2 ^ 16 ≠ 0) then s.accTrap t a trapAccess subRange v
          else set (.control o)
        | _ => set (.control o)
    | .hbm => set (.phys pa)
    | _ => if amo then s.accTrap t a trapAccess subUnsup v else set (.phys pa)

/-- The window of a pipeline is open to gigs at an offset: an open or braking layover names the pipeline and the
bank (01 R38; 10 R295). -/
def State.windowOpen (s : State) (d p o : Nat) : Bool :=
  let x := s.die d
  (s.lays ((s.partOf d).getD 0)).any (fun e =>
    e.2.dies.getLsbD d && e.2.pipes.getLsbD p && e.2.banks.getLsbD (tensorBank o) &&
    ((x.isOpen x.atk e.1 && (match x.layRec e.1 with | some r => !r.judged | none => false)) ||
     s.brakesNow ((s.partOf d).getD 0) d e.1))

/-- Gig `g` holds a group of the context of thread `t` that has not exited (01 R37; 11 R312). -/
def State.groupOn (s : State) (t g : Nat) : Bool :=
  match s.slotOf t with
  | none => false
  | some x => (List.range 4).any (fun i => (s.ctx (coachOf t) x).includes (g % 8 * 4 + i))

/-- ACCESS_REACHES_TARGET: a paged access is first translated; then it reaches its target, where the window and peer
checks are judged and where it performs (R235). -/
def execAccessReachesTarget (t j : Nat) (s : State) : Out :=
  match s.access t j with
  | none => .next s
  | some a =>
    let v : Word := BitVec.ofNat 64 a.va
    match a.target with
    | .paged =>
      let k := s.partOfThread t
      let w : Walker := .data (gigOf t)
      if (s.thread t).mayWalk t a.id ((s.toLookup w k a.va).lookup w k a.va).reads then
        match s.translate w k a.va with
        | (none, s1) => .next (s1.accTrap t a trapPage 0 v)
        | (some (e3, big), s1) => .next (s1.translated t a e3 big (s.uses w k a.va))
      else .next s
    | .event _ => .next s
    | .plane => .next s
    | .control o =>
      if (s.thread t).mayPerform t a && !(decide (o = 8) && (match a.op with | .store .. => true | _ => false)) &&
          !(decide (o = 16) && (match a.op with | .load .. => true | _ => false)) then
        let root : Word := BitVec.ofNat 64 (s.part (s.partOfThread t)).root
        match a.op with
        | .load .. => .next (s.onThread t (fun th => th.complete a (if o = 0 then root else 0)))
        | _ => .next (s.onThread t (fun th => th.retireAcc a.id))
      else .next s
    | .near g _ =>
      if !((s.thread t).mayPerform t a) then .next s
      else if g ≠ gigOf t ∧ s.groupOn t g = false then .next (s.accTrap t a trapPeer 0 v)
      else .next (s.performAcc t a)
    | .tensor d p o =>
      if !((s.thread t).mayPerform t a) then .next s
      else if !(s.windowOpen d p o) then .next (s.accTrap t a trapTsram 0 v)
      else .next (s.performAcc t a)
    | _ => if (s.thread t).mayPerform t a && s.blocksClear t a then .next (s.performAcc t a) else .next s

/-- COMPLETION_TIMEOUT: a host access ends in an error: HOSTERR grows, and a load's register is marked (17 R389; 23
R466). -/
def execCompletionTimeout (t j : Nat) (s : State) : Out :=
  match s.access t j with
  | none => .next s
  | some a =>
    match a.target with
    | .phys pa =>
      if s.tier pa = .host ∧ (s.thread t).mayPerform t a then
        .next ((s.onThread t (fun th => th.spoil a)).countUnc (physSource pa))
      else .next s
    | _ => .next s

/-! ### The event-unit window (R236) -/

/-- Event offset `o` of access `j` of thread `t`, a load or a store. -/
def State.eventAcc (s : State) (t j : Nat) (load : Bool) : Option (Access × Nat × Nat) :=
  match s.access t j, s.slotOf t with
  | some a, some x =>
    match a.target, a.op with
    | .event o, .load .. => if load then some (a, o, x) else none
    | .event o, .store .. => if load then none else some (a, o, x)
    | _, _ => none
  | _, _ => none

/-- EU_BARRIER_ARRIVE: a release; the thread arrives when the gig cycle ends and waits for the phase (R236, R246; 11 R317). -/
def execEuBarrierArrive (t j : Nat) (s : State) : Out :=
  match s.eventAcc t j true with
  | none => .next s
  | some (a, o, x) =>
    if 0x080 ≤ o ∨ (s.thread t).mayRelease a = false then .next s
    else
      let n := o / 8
      let b := (s.ctx (coachOf t) x).bars.get n {}
      if b.expect = 0 then .next (s.accTrap t a trapAccess subWindow (BitVec.ofNat 64 a.va))
      else
        let d := a.dest.getD 0
        let s1 := s.onThread t (fun th => { th.retireAcc a.id with wait := .arriving n d })
        .next (s1.arrive (coachOf t) x { bar := n, who := .window (localOf t) d })

/-- EU_MUTEX_ACQUIRE: the thread takes the mutex, or goes on waiting, when the gig cycle ends, after its releases (R236; 11
R320). -/
def execEuMutexAcquire (t j : Nat) (s : State) : Out :=
  match s.eventAcc t j true with
  | none => .next s
  | some (a, o, _) =>
    if o < 0x100 ∨ 0x180 ≤ o ∨ (s.thread t).mayPerform t a = false then .next s
    else
      .next (s.onThread t (fun th => { th.retireAcc a.id with wait := .asking ((o - 0x100) / 8) (a.dest.getD 0) }))

/-- EU_MUTEX_RELEASE: a release; one that the thread does not hold traps (R236). -/
def execEuMutexRelease (t j : Nat) (s : State) : Out :=
  match s.eventAcc t j false with
  | none => .next s
  | some (a, o, x) =>
    if o < 0x100 ∨ 0x180 ≤ o ∨ (s.thread t).mayRelease a = false then .next s
    else
      let n := (o - 0x100) / 8
      if (s.ctx (coachOf t) x).mutex.find? (fun e => e.1 == n) = some (n, localOf t) then
        .next ((s.onThread t (fun th => th.retireAcc a.id)).onCtx (coachOf t) x (fun k => k.passMutex n))
      else .next (s.accTrap t a trapAccess subWindow (BitVec.ofNat 64 a.va))

/-- EU_EVENT_WAIT (R236; 11 R321). -/
def execEuEventWait (t j : Nat) (s : State) : Out :=
  match s.eventAcc t j true with
  | none => .next s
  | some (a, o, x) =>
    if o < 0x200 ∨ 0x300 ≤ o ∨ (s.thread t).mayPerform t a = false then .next s
    else
      let n := (o - 0x200) / 8
      if (s.ctx (coachOf t) x).lines.getLsbD n then
        .next ((s.onCtx (coachOf t) x (fun k => { k with lines := k.lines &&& ~~~(BitVec.ofNat 32 (2 ^ n)) })).onThread t
          (fun th => th.complete a 0))
      else .next (s.onThread t (fun th => { th.retireAcc a.id with wait := .line n (a.dest.getD 0) }))

/-- EU_EVENT_SET: a release; the data is ignored (R236). -/
def execEuEventSet (t j : Nat) (s : State) : Out :=
  match s.eventAcc t j false with
  | none => .next s
  | some (a, o, x) =>
    if o < 0x200 ∨ 0x300 ≤ o ∨ (s.thread t).mayRelease a = false then .next s
    else .next ((s.onThread t (fun th => th.retireAcc a.id)).onCtx (coachOf t) x (fun k => k.setLine ((o - 0x200) / 8)))

/-! ### Shoot-down (17 R386, R387) -/

/-- SHOOT: after every earlier access of the thread, the store requests a shoot-down (17 R386). -/
def execShoot (t j : Nat) (s : State) : Out :=
  match s.access t j with
  | none => .next s
  | some a =>
    match a.target, a.op with
    | .control 8, .store _ v =>
      if (s.thread t).mayRelease a then
        .next ((s.onThread t (fun th => th.retireAcc a.id)).onPart (s.partOfThread t) (fun x =>
          { x with shoots := x.shoots ++ [{ num := x.nextShoot, kind := v / 2 ^ 62, va := v % 2 ^ 49 / 2 ^ 16 * 2 ^ 16 }],
                   nextShoot := x.nextShoot + 1 }))
      else .next s
    | _, _ => .next s

/-- DONE: the load holds the thread until every shoot-down requested before it has completed, then returns the count
(17 R387). -/
def execDone (t j : Nat) (s : State) : Out :=
  match s.access t j with
  | none => .next s
  | some a =>
    match a.target, a.op with
    | .control 16, .load .. =>
      let x := s.part (s.partOfThread t)
      if !((s.thread t).mayPerform t a) then .next s
      else if x.shoots.isEmpty then .next (s.onThread t (fun th => th.complete a x.done))
      else .next (s.onThread t (fun th => { th.retireAcc a.id with wait := .done (a.dest.getD 0) x.nextShoot }))
    | _, _ => .next s

/-- The range that a shoot-down names: base and size; none is every translation (17 Table 17-6). -/
def Shoot.range (h : Shoot) : Option (Nat × Nat) :=
  match h.kind with
  | 0 => some (h.va / 0x10000 * 0x10000, 0x10000)
  | 1 => some (h.va / 0x100000 * 0x100000, 0x100000)
  | 2 => some (h.va / 0x800000 * 0x800000, 0x800000)
  | _ => none

/-- A page lies in part within the range of a shoot-down. -/
def Shoot.hits (h : Shoot) (p : PageUse) : Bool :=
  match h.range with
  | none => true
  | some (b, n) => decide (p.base < b + n) && decide (b < p.base + p.size)

/-- The contexts of the coaches of a partition, with their coaches. -/
def State.contextsOf (s : State) (k : Nat) : List (Nat × Context) :=
  (s.coaches.filter (fun e => (s.part k).hasDie (dieOfCoach e.1))).flatMap (fun e => e.2.ctxs.map (fun x => (e.1, x.2)))

/-- An outstanding access or card row of partition `k` used a translation that the shoot-down names. -/
def State.shootBusy (s : State) (k : Nat) (h : Shoot) : Bool :=
  (s.contextsOf k).any (fun e => e.2.threads.any (fun t => t.2.accs.any (fun a => a.pages.any h.hits))) ||
  (s.coaches.filter (fun e => (s.part k).hasDie (dieOfCoach e.1))).any (fun e => e.2.cards.any (fun c =>
    decide (c.state = .running) && c.rows.any (fun r => !r.full && r.pages.any h.hits)))

/-- SHOOTDOWN_COMPLETE: the oldest shoot-down of partition `k` completes once no access that used its translations is
outstanding: they are gone, DONE counts it, and the loads of DONE that waited for it return (17 R386, R387). -/
def execShootdownComplete (k : Nat) (s : State) : Out :=
  let x := s.part k
  match x.shoots with
  | [] => .next s
  | h :: rest =>
    if s.shootBusy k h then .next s
    else
      let gone := fun (e : Cached) => decide (e.part = k) && h.hits e.use
      let done := x.done + 1
      let s1 : State := { s with tlb := s.tlb.filter (fun e => !(gone e)) }
      let s2 := s1.onPart k (fun x => { x with shoots := rest, done := done })
      let wake := fun (th : Thread) => match th.wait with
        | .done d n => if n ≤ h.num + 1 then th.wake d done else th
        | _ => th
      .next { s2 with coaches := s2.coaches.map (fun e =>
        if (s.part k).hasDie (dieOfCoach e.1) then
          (e.1, { e.2 with ctxs := e.2.ctxs.map (fun c => (c.1, { c.2 with threads := c.2.threads.map (fun t => (t.1, wake t.2)) })) })
        else e) }

end Sys2Proof.Machine
end

