-- ==== Sys2Proof/Machine/Launch.lean ====
section
/-! DEFINITION. Dynamic launches and contexts: header fields and checks, event-unit records, admission to pool and
spill queue, the start, switch-out and end of contexts, slices (11 R307 to R316; 16 R368, R370; 19 R416 to R423). -/
namespace Sys2Proof.Machine

/-! ### Header fields (16 Table 16-7a; 11 Table 11-1) -/

/-- ENTRY. -/
def hEntry (h : List Word) : Nat := bitsOf (wordAt h 0) 48 0
/-- TRAPVEC. -/
def hTrapvec (h : List Word) : Nat := bitsOf (wordAt h 1) 48 0
/-- EVINIT. -/
def hEvinit (h : List Word) : Nat := bitsOf (wordAt h 2) 48 0
/-- ITEMS. -/
def hItems (h : List Word) : Nat := (wordAt h 3).toNat + 1
/-- Width of field `i` of the item number. -/
def hWidth (h : List Word) (i : Nat) : Nat := bitsOf (wordAt h 4) (8 * i + 6) (8 * i)
/-- Sum of the widths of the first `n` fields. -/
def hWidths (h : List Word) (n : Nat) : Nat := ((List.range n).map (hWidth h)).sum
/-- CDLINE. -/
def hCdline (h : List Word) : Nat := bitsOf (wordAt h 5) 44 40
/-- CDCOACH. -/
def hCdcoach (h : List Word) : Nat := bitsOf (wordAt h 5) 39 33
/-- CDV. -/
def hCdv (h : List Word) : Bool := bitOf (wordAt h 5) 32
/-- PRIO. -/
def hPrio (h : List Word) : Nat := bitsOf (wordAt h 5) 31 29
/-- DET. -/
def hDet (h : List Word) : Bool := bitOf (wordAt h 5) 28
/-- SMASK. -/
def hSmask (h : List Word) : Nat := bitsOf (wordAt h 5) 27 24
/-- RMASK. -/
def hRmask (h : List Word) : Nat := bitsOf (wordAt h 5) 23 16
/-- NCOACH. -/
def hNcoach (h : List Word) : Nat := bitsOf (wordAt h 5) 14 8 + 1
/-- FCOACH. -/
def hFcoach (h : List Word) : Nat := bitsOf (wordAt h 5) 6 0
/-- SPLEN. -/
def hSplen (h : List Word) : Nat := bitsOf (wordAt h 6) 51 32
/-- SPBASE. -/
def hSpbase (h : List Word) : Nat := bitsOf (wordAt h 6) 19 0
/-- The coaches of a launch. -/
def hCoaches (h : List Word) : List Nat := (List.range (hNcoach h)).map (fun i => hFcoach h + i)

/-- A 4-aligned paged address. -/
def codeAddr (a : Nat) : Bool := decide (a % 4 = 0) && decide (a < windowBase)

/-- The reserved bits of a header are zero. -/
def hRsvOk (h : List Word) : Bool :=
  let w := wordAt h
  decide (bitsOf (w 0) 63 49 = 0) && decide (bitsOf (w 1) 63 49 = 0) && decide (bitsOf (w 2) 63 49 = 0) &&
  !(bitOf (w 4) 7) && !(bitOf (w 4) 15) && !(bitOf (w 4) 23) && !(bitOf (w 4) 31) && !(bitOf (w 4) 39) &&
  decide (bitsOf (w 4) 63 47 = 0) && !(bitOf (w 5) 7) && !(bitOf (w 5) 15) && decide (bitsOf (w 5) 63 45 = 0) &&
  decide (bitsOf (w 6) 31 20 = 0) && decide (bitsOf (w 6) 63 52 = 0) && decide (w 7 = 0)

/-- The limits of a header for partition `x` (R307, R368; 12 R342). -/
def headerOk (x : Partition) (h : List Word) : Bool :=
  let wsum := hWidths h 6
  hRsvOk h && codeAddr (hEntry h) && codeAddr (hTrapvec h) &&
  decide (hEvinit h % 64 = 0) && decide (hEvinit h + 64 * hNcoach h ≤ windowBase) &&
  (List.range 6).all (fun i => decide (hWidth h i ≤ 64)) && decide (1 ≤ wsum) && decide (wsum ≤ 64) &&
  decide (hItems h ≤ 2 ^ wsum) && decide (hFcoach h + hNcoach h ≤ 128) &&
  (hCoaches h).all (fun c => x.hasDie (dieOfCoach c)) && decide (hRmask h ≠ 0) && decide (hSmask h ≠ 0) &&
  decide (hSpbase h % 64 = 0) && decide (hSplen h % 64 = 0) && decide (64 ≤ hSplen h) &&
  decide (hSpbase h + hSplen h ≤ 0x80000) && (!(hCdv h) || x.hasDie (dieOfCoach (hCdcoach h)))

/-! ### Event-unit records (11 R316) -/

/-- The barriers of an EVINIT array, keyed by coach × 16 + barrier. -/
def evinitOf (f : Nat) (bs : List Byte) : SMap (BitVec 32) :=
  (List.range (bs.length / 4)).map (fun i => (f * 16 + i, BitVec.ofNat 32 (ofBytes ((bs.drop (4 * i)).take 4))))

/-- The parent that an entry links to, as coach × 16 + barrier. -/
def evLink (e : BitVec 32) : Option Nat :=
  if e.getLsbD 31 then some (e.toNat / 2 ^ 20 % 128 * 16 + e.toNat / 2 ^ 16 % 16) else none

/-- From barrier `b` the links end within `n` steps. -/
def linksEnd (m : SMap (BitVec 32)) (n b : Nat) : Bool :=
  match n with
  | 0 => false
  | n + 1 => match evLink (m.get b 0) with
    | none => true
    | some p => linksEnd m n p

/-- The records of a launch on coaches `f` to `f` + `n` − 1 are acceptable. -/
def evinitOk (m : SMap (BitVec 32)) (f n : Nat) : Bool :=
  m.all (fun e => decide (e.2.toNat / 2 ^ 27 % 16 = 0) &&
    (match evLink e.2 with
     | none => true
     | some p => decide (f ≤ p / 16) && decide (p / 16 < f + n))) &&
  m.all (fun e => linksEnd m (16 * n + 1) e.1)

/-! ### Paged reads of controllers (17 R376, R381) -/

/-- The physical address of `va` for a controller of partition `k`, as a read or a write: none where the walk fails, a
bit of Table 17-5 is missing, or the address is no memory. -/
def State.vaRead (s : State) (k va : Nat) : Option Nat :=
  if windowBase ≤ va then none
  else match s.walk (s.part k).root va with
    | none => none
    | some (e3, big) =>
      let pa := leafAddr e3 big va
      match s.tier pa with
      | .nothing => none
      | .control _ _ => none
      | _ => if leafAllows e3 true false false true then some pa else none

/-- The `n` bytes at `va` of partition `k`, or the first address that cannot be read. -/
def State.pagedBytes (s : State) (k va n : Nat) : Except Nat (List Byte) :=
  match n with
  | 0 => .ok []
  | n + 1 => match s.vaRead k va with
    | none => .error va
    | some pa => if s.damaged pa 1 then .error va
      else match State.pagedBytes s k (va + 1) n with
        | .error e => .error e
        | .ok bs => .ok (s.mem.read pa :: bs)

/-- The 64-bit words that bytes spell. -/
def wordsOf (bs : List Byte) : List Word :=
  (List.range (bs.length / 8)).map (fun i => BitVec.ofNat 64 (ofBytes ((bs.drop (8 * i)).take 8)))

/-! ### Pool and spill queue (11 R313, R314) -/

/-- A child is admitted to a pool with `n` entries occupied (R313). -/
def poolAdmits (n : Nat) (progress : Bool) : Bool := decide (n < (if progress then 256 else 224))

/-- The latest place in the order of admission. -/
def State.lastAge (s : State) : Nat := s.launches.foldl (fun m e => Nat.max m e.2.age) 0

/-- A launch enters the pool of die `d`: it may wake. -/
def State.takeIn (s : State) (d lid : Nat) : State :=
  (s.onDie d (fun x => { x with pool := x.pool ++ [lid] })).onLaunch lid (fun l =>
    { l with phase := .pooled, wakes := hCoaches l.header, age := s.lastAge + 1 })

/-- After an entry is freed, the oldest spilled child that R313 allows is admitted (R314). -/
def State.admitSpill (s : State) (d : Nat) : State :=
  let x := s.die d
  match x.spill.find? (fun lid => poolAdmits x.pool.length ((s.launch lid).map (fun l => l.progress) = some true)) with
  | none => s
  | some lid => (s.onDie d (fun x => { x with spill := x.spill.filter (fun j => !(j == lid)) })).takeIn d lid

/-- A new launch of partition `k` with a valid header and records, not yet in any pool. -/
def State.newLaunch (s : State) (k d : Nat) (h : List Word) (ev : SMap (BitVec 32)) (progress : Bool)
    (parent job : Option Nat) : State :=
  let l : Launch := { part := k, die := d, header := h, evinit := ev, progress := progress, parent := parent,
                      phase := .spilled, wakes := [], age := 0, kids := 0, flags := 0, began := none, job := job,
                      killed := none }
  let s1 : State := { s with launches := s.launches.set s.nextLid l, nextLid := s.nextLid + 1 }
  match parent with
  | none => s1
  | some p => s1.onLaunch p (fun l => { l with kids := l.kids + 1 })

/-- The index of a die in its partition's die order. -/
def Partition.dieIndex (x : Partition) (d : Nat) : Nat := (x.dies.filter (fun e => decide (e < d))).length

/-! ### The launch scheduler (16 R370; 19 R416 to R419) -/

/-- Priority of a launch. -/
def State.prio (s : State) (lid : Nat) : Nat :=
  match s.launch lid with
  | none => 0
  | some l => hPrio l.header

/-- A launch's place in the order of admission. -/
def State.ageOf (s : State) (lid : Nat) : Nat :=
  match s.launch lid with
  | none => 0
  | some l => l.age

/-- Two contexts' regions overlap on a gig that both use (R417). -/
def regionsClash (a b : List Word) : Bool :=
  decide ((BitVec.ofNat 8 (hRmask a) &&& BitVec.ofNat 8 (hRmask b)) ≠ 0) &&
  decide (hSpbase a < hSpbase b + hSplen b) && decide (hSpbase b < hSpbase a + hSplen a)

/-- The header of a launch. -/
def State.header (s : State) (lid : Nat) : List Word :=
  match s.launch lid with
  | none => []
  | some l => l.header

/-- The lowest free context slot of a coach (R416). -/
def Coach.freeSlot (k : Coach) : Option Nat := (List.range 8).find? (fun i => !(k.ctxs.any (fun e => e.1 == i)))

/-- A context of launch `lid` may start on coach `c` (R416, R417). -/
def State.mayStart (s : State) (c lid : Nat) : Bool :=
  let k := s.coach c
  k.freeSlot.isSome && k.ctxs.all (fun e => !(regionsClash (s.header e.2.lid) (s.header lid)))

/-- What is ready on a coach: switched-out contexts and waiting launches that may start, as launch numbers. -/
def State.ready (s : State) (c : Nat) : List Nat :=
  let k := s.coach c
  (k.ctxs.filter (fun e => decide (e.2.state = .out))).map (fun e => e.2.lid) ++ k.waiting.filter (fun l => s.mayStart c l)

/-- The launch that the scheduler prefers: highest priority, then oldest (R370). -/
def State.best (s : State) (ls : List Nat) : Option Nat :=
  ls.foldl (fun b l => match b with
    | none => some l
    | some a => if s.prio a < s.prio l ∨ (s.prio a = s.prio l ∧ s.ageOf l < s.ageOf a) then some l else some a) none

/-- A ready context of a priority above (or, with `eq`, at least) that of the running one waits. -/
def State.waits (s : State) (c : Nat) (eq : Bool) : Bool :=
  let p := s.prio (s.launchOn c)
  (s.ready c).any (fun l => decide (p < s.prio l) || (eq && decide (p = s.prio l)))

/-- The ranks of a launch in a coach. -/
def hRanks (h : List Word) : List Nat := (List.range 8).filter (fun r => (BitVec.ofNat 8 (hRmask h)).getLsbD r)

/-- The local numbers of a launch's threads in each coach: rank × 4 + slot (R307). -/
def hLocals (h : List Word) : List Nat :=
  (hRanks h).flatMap (fun r => ((List.range 4).filter (fun i => (BitVec.ofNat 4 (hSmask h)).getLsbD i)).map (fun i => r * 4 + i))

/-- T: the number of a launch's threads. -/
def hThreads (h : List Word) : Nat := (hLocals h).length * hNcoach h

/-- The slice that a context takes on coach `c`, and whether it was raised (R418). -/
def State.sliceFor (s : State) (c : Nat) (h : List Word) : Nat × Bool :=
  let n := match hRanks h with
    | [] => 0
    | r :: _ => (s.gig (c * 8 + r)).slice.toNat
  if n = 0 then (262144, false) else if n < 8192 then (8192, true) else (n, false)

/-- A new slice of context `x` on coach `c` (R418, R419). -/
def State.startSlice (s : State) (c x : Nat) : State :=
  let h := s.header (s.ctx c x).lid
  let (n, clamp) := s.sliceFor c h
  s.onCtx c x (fun k => { k with
    slice := n, sliceEnd := s.cycle (dieOfCoach c) + BitVec.ofNat 64 n, sliced := [], sliceLimit := none,
    threads := k.threads.map (fun e => (e.1, { e.2 with trap := { e.2.trap with sliceClamped := e.2.trap.sliceClamped || clamp } })) })

/-- The scheduler sets CTXKEY of the gigs of a context; the value is its own (log 2). -/
def State.keyGigs (s : State) (c : Nat) (h : List Word) : State :=
  let key : Word := BitVec.ofNat 64 s.freeVal
  (hRanks h).foldl (fun s r => s.onGig (c * 8 + r) (fun g => { g with ctxkey := key })) s.drawn

/-- A barrier as its record loads it (R316). -/
def Barrier.ofEntry (e : BitVec 32) : Barrier :=
  { expect := e.toNat % 65536, linked := e.getLsbD 31, lcoach := e.toNat / 2 ^ 20 % 128, lbar := e.toNat / 2 ^ 16 % 16 }

/-- A thread at the start of its first item (01 R40). One whose index is no item leaves at once (R310). -/
def startThread (h : List Word) (k : Nat) : Thread :=
  { phase := if k < hItems h then .running else .left, pc := hEntry h, k := k, item := k,
    trap := { tvec := BitVec.ofNat 47 (hTrapvec h / 4) } }

/-- A scratchpad with `n` bytes from `o` written with zeros. -/
def Gig.zero (g : Gig) (o n : Nat) : Gig :=
  { g with sp := g.sp.filter (fun c => !(decide (o ≤ c.1) && decide (c.1 < o + n))),
           bad := g.bad.filter (fun b => !(decide (o ≤ b * 8) && decide (b * 8 + 8 ≤ o + n))) }

/-- The regions of exited groups on the gigs of coach `c` are written with zeros, before another group's thread can reach them
(R312). -/
def State.cleanGigs (s : State) (c : Nat) : State :=
  (List.range 8).foldl (fun s r =>
    if (s.gig (c * 8 + r)).stale.isEmpty then s
    else s.onGig (c * 8 + r) (fun g => { g.stale.foldl (fun g e => g.zero e.1 e.2) g with stale := [] })) s

/-- A context of launch `lid` starts on coach `c` in slot `x`: event unit, then threads (R309, R416). -/
def State.startContext (s : State) (c x lid : Nat) : State :=
  let h := s.header lid
  let ls := hLocals h
  let ev : SMap (BitVec 32) := match s.launch lid with
    | none => []
    | some l => l.evinit
  let base := (c - hFcoach h) * ls.length
  let k : Context :=
    { lid := lid
      threads := (List.range ls.length).map (fun i => (ls.getD i 0, startThread h (base + i)))
      bars := (List.range 16).map (fun n => (n, Barrier.ofEntry (SMap.get ev (c * 16 + n) 0))) }
  let s1 := ((s.cleanGigs c).onCoach c (fun q =>
    { q with ctxs := q.ctxs.set x k, run := some x, waiting := q.waiting.filter (fun l => !(l == lid)) })).reclaim c
  let s2 := (s1.startSlice c x).keyGigs c h
  let b := s2.ctxBase c x
  let s3 := (s2.writePhys (b + 8) (toBytes 16 0)).putHeader c x
  -- the first context of a child frees its pool entry (R313, R314)
  match s3.launch lid with
  | none => s3
  | some l =>
    if l.phase = .pooled then
      ((s3.onLaunch lid (fun l => { l with phase := .started })).onDie l.die (fun x =>
        { x with pool := x.pool.filter (fun j => !(j == lid)) })).admitSpill l.die
    else s3

/-- The scheduler starts `lid` on coach `c` where nothing runs there and it may start. -/
def State.tryStart (s : State) (c lid : Nat) : State :=
  if (s.coach c).run.isNone && s.mayStart c lid then
    (match (s.coach c).freeSlot with
     | some x => s.startContext c x lid
     | none => s)
  else s

/-- KILL and KCODE of a context's header (R423); in a damaged granule no KILL is seen (23 R463; log 90). -/
def State.killWord (s : State) (c x : Nat) : Option Word :=
  let b := s.ctxBase c x
  if s.damaged b 24 then none
  else if s.mem.read (b + 8) &&& 1 = 1 then some (s.mem.word (b + 16)) else none

/-- The running context stops issue and will be switched out (R419, R420). -/
def State.beginLeave (s : State) (c : Nat) : State :=
  match (s.coach c).run with
  | none => s
  | some x => s.onCtx c x (fun k => { k with leaving := true })

/-- A context has performed its accesses, the gig cycle of its arrivals, requests, acquires and leaving threads has ended, and its started cards have
retired or faulted (R420). -/
def State.drained (s : State) (c x : Nat) : Bool :=
  let k := s.ctx c x
  k.quiet && k.arrivals.isEmpty && k.asks.isEmpty && k.threads.all (fun e => match e.2.wait with
    | .asking .. => false
    | _ => true) &&
  k.mutex.all (fun m => !(decide ((k.threads.get m.2 {}).phase = .left))) &&
  (s.coach c).cards.all (fun d => !(decide (d.lid = k.lid) && decide (d.state = .running)))

/-! ### The turnpike (08 R263; 25 R484) -/

/-- The charges of one bucket that have not expired, oldest first. -/
def Die.charges (x : Die) (cxl : Bool) : List Grant :=
  x.grants.filter (fun g => (g.cxl == cxl) && decide (x.gigCycle.toNat < g.expiry.toNat))

/-- Bytes charged to a bucket. -/
def chargedBytes (gs : List Grant) : Nat := (gs.map (fun g => g.bytes)).sum

/-- A request for `n` bytes fits a bucket of LB with these charges. -/
def fitsBucket (lb n : Nat) (gs : List Grant) : Bool :=
  decide (n = 0) || (if lb < n then gs.isEmpty else decide (chargedBytes gs + n ≤ lb))

/-- Gig cycles until enough of the charges `gs`, oldest first, have expired, at least 1. -/
def waitFor (now lb n : Nat) (gs : List Grant) : Nat :=
  match gs with
  | [] => 1
  | g :: rest => if fitsBucket lb n rest then Nat.max 1 (g.expiry.toNat - now) else waitFor now lb n rest

/-- LEAVE for `n` bytes at die `d`: 0 and the charge, or the cycles to wait (25 R484). -/
def State.askLeave (s : State) (d : Nat) (cxl : Bool) (n : Nat) : Nat × State :=
  let x := s.die d
  let gs := x.charges cxl
  if fitsBucket x.lb n gs then
    (0, if n = 0 then s
        else s.onDie d (fun x => { x with grants := x.grants ++ [{ bytes := n, cxl := cxl, expiry := x.gigCycle + 65536 }] }))
  else (waitFor x.gigCycle.toNat x.lb n gs, s)

/-- The request of a thread of context `x` on coach `c` is judged: its register gets 0, and the thread a grant for 65,536 gig
cycles, or the cycles to wait (08 R263; 25 R484). -/
def State.judgeAsk (s : State) (c x : Nat) (a : LeaveAsk) : State :=
  let (w, s1) := s.askLeave (dieOfCoach c) a.cxl a.bytes
  s1.onCtx c x (fun k => k.onThread a.thread (fun th =>
    let th1 := th.setD a.dest (BitVec.ofNat 64 w)
    if w = 0 then
      { th1 with grants := th1.grants ++ [{ cxl := a.cxl, bytes := a.bytes, expiry := s.cycle (dieOfCoach c) + 65536 }] }
    else th1))

/-- The requests of the gig cycle on die `d`, with coach and context, in rising thread number (25 R484). -/
def State.asksOf (s : State) (d : Nat) : List (Nat × Nat × LeaveAsk) :=
  sortBy (fun a b => decide (a.1 * 32 + a.2.2.thread ≤ b.1 * 32 + b.2.2.thread))
    ((s.coaches.filter (fun e => decide (dieOfCoach e.1 = d))).flatMap (fun e =>
      e.2.ctxs.flatMap (fun x => x.2.asks.map (fun a => (e.1, x.1, a)))))

/-- The turnpike of die `d` judges the requests that reached it in the gig cycle that ends (25 R484). -/
def State.judgeAsks (s : State) (d : Nat) : State :=
  (s.asksOf d).foldl (fun s e => s.judgeAsk e.1 e.2.1 e.2.2) s

/-! ### The end of a gig cycle (11 R312, R317, R320) -/

/-- A card is in the engine. -/
def Card.inEngine (d : Card) : Bool := decide (d.state = .waiting) || decide (d.state = .running)

/-- The group of rank `r` of a context has nothing left to do: its threads have left, their accesses have performed, and
their cards have retired or faulted (R312). -/
def Context.groupDone (k : Context) (cards : List Card) (r : Nat) : Bool :=
  !(k.exited.getLsbD r) && k.threads.any (fun e => decide (e.1 / 4 = r)) &&
  k.threads.all (fun e => decide (e.1 / 4 ≠ r) || (decide (e.2.phase = .left) && e.2.accs.isEmpty)) &&
  cards.all (fun d => !(d.inEngine && decide (d.lid = k.lid) && decide (d.thread / 4 = r)))

/-- Every group of a context has exited. -/
def Context.gone (k : Context) : Bool := k.threads.all (fun e => k.exited.getLsbD (e.1 / 4))

/-- A context whose groups have all exited leaves its coach: its slot is free, or holds an ended context's record. -/
def State.dropContext (s : State) (c x : Nat) : State :=
  let k := s.ctx c x
  let s1 := s.onCoach c (fun q => { q with ctxs := SMap.erase q.ctxs x, run := if q.run = some x then none else q.run,
                                           cards := q.cards.filter (fun d => !(decide (d.lid = k.lid))) })
  let b := s.ctxBase c x
  { s1 with mem := s1.mem.writeLE b 4 (if k.state = .ended then 3 else 0) }

/-- The group of rank `r` of context `x` on coach `c` exits: its region is to be written with zeros, at once where another
group is held there (R312). -/
def State.exitGroup (s : State) (c x r : Nat) : State :=
  let h := s.header (s.ctx c x).lid
  let s1 := (s.onCtx c x (fun k => { k with exited := k.exited ||| BitVec.ofNat 8 (2 ^ r) })).onGig (c * 8 + r) (fun g =>
    { g with stale := g.stale ++ [(hSpbase h, hSplen h)] })
  let s2 := if (s1.coach c).ctxs.all (fun e => e.2.gone) then s1 else s1.cleanGigs c
  if (s2.ctx c x).gone then s2.dropContext c x else s2

/-- The groups of coach `c` that have nothing left to do exit (R312). -/
def State.exitGroups (s : State) (c : Nat) : State :=
  ((s.coach c).ctxs.flatMap (fun e => ((List.range 8).filter (e.2.groupDone (s.coach c).cards)).map (fun r => (e.1, r)))).foldl
    (fun s e => s.exitGroup c e.1 e.2) s

/-- The gig cycle ends for context `x` of coach `c`: mutexes of threads that have left pass on, acquires take theirs, and
arrivals are applied in their order (R317, R320). -/
def State.endCycleCtx (s : State) (c x : Nat) : State :=
  let as := (s.ctx c x).arrivals.foldl (fun l a => putArrival a l) []
  let s1 := s.onCtx c x (fun k => { k.freeLeft.takeAsked with arrivals := [], asks := [] })
  let s2 := as.foldl (fun s a => s.applyArrival c x a) s1
  if as.isEmpty then s2 else s2.resave c x

/-- The gig cycle ends on coach `c`; a context that has ended leaves the coach once its accesses have performed (19 R423). -/
def State.endCycleCoach (s : State) (c : Nat) : State :=
  let s1 := ((s.coach c).ctxs.foldl (fun s e => s.endCycleCtx c e.1) s).exitGroups c
  s1.onCoach c (fun q => match q.run with
    | none => q
    | some x => if (q.ctxs.get x {}).state = .ended ∧ (q.ctxs.get x {}).quiet = true then { q with run := none } else q)

/-- The gig cycle ends on die `d`. -/
def State.endCycle (s : State) (d : Nat) : State :=
  s.coaches.foldl (fun s e => if dieOfCoach e.1 = d then s.endCycleCoach e.1 else s) (s.judgeAsks d)

/-! ### Time on a die's gigs (08 Table 8-15; log 22) -/

/-- A thread whose WAITP limit lies before CYCLE `n` gets TIMEOUT (08 R247). -/
def Thread.expire (th : Thread) (bars : SMap Barrier) (n : Word) : Thread :=
  match th.wait with
  | .phase m tok d (some lim) =>
    if lim < n.toNat then
      th.wake d (waitpResult (bars.get m {}).phase.toNat tok 2)
    else th
  | _ => th

/-- CYCLE of die `d`'s gigs moves on to `n`: the running gig cycle ends, results that are due are written, and limits that lie
before it expire. -/
def State.gigTime (s : State) (d : Nat) (n : Word) : State :=
  let s0 := if (s.cycle d).toNat < n.toNat then s.endCycle d else s
  let s1 := s0.onDie d (fun x => { x with gigCycle := n, grants := x.grants.filter (fun g => decide (n.toNat < g.expiry.toNat)) })
  { s1 with coaches := s1.coaches.map (fun e =>
      if dieOfCoach e.1 = d then
        (e.1, { e.2 with ctxs := e.2.ctxs.map (fun x =>
          (x.1, { x.2 with threads := x.2.threads.map (fun t => (t.1, (t.2.expire x.2.bars n).settle n.toNat)) })) })
      else e) }

end Sys2Proof.Machine
end

