-- ==== Sys2Proof/Machine/GigSync.lean ====
section
/-! DEFINITION. Gig synchronisation, messages, launches, work items and system instructions
(08 R246 to R252, R260 to R264), and the word without a meaning (R89). -/
namespace Sys2Proof.Machine

/-- A fence of the acting thread stands between an outstanding access and an acquire or release that comes now: such an
action counts as an access of every class to the own event unit (12 R334). -/
def Thread.fenced (th : Thread) (t : Nat) : Bool :=
  let rec go (ps : List Pending) : Bool :=
    match ps with
    | [] => false
    | .fence _ _ :: rest => go rest
    | .acc b :: rest =>
      rest.any (fun p => match p with
        | .fence sc m => inMask m b.cls && inScope t sc b.target && decide (1 ≤ sc)
        | _ => false) || go rest
  go th.pend

/-- An acquire: it gives up its turn while a fence holds it back. -/
def State.acquire (s : State) (i : Instr) (srcs : List Nat) (eff : State → State) : State :=
  s.gigInstr i srcs false (fun s => if s.th.fenced s.curThread then s else eff s)

/-! ### Barriers and events (R246 to R248) -/

/-- ARRIVE dd, n (R246): a release. The arrival is applied, and dd gets its token, when the gig cycle ends (11 R317). -/
def execArrive (d : BitVec 5) (n : BitVec 4) (s : State) : Out :=
  .next (s.gigInstr (.arrive d n) [] true (fun s =>
    match s.slotOf s.curThread with
    | none => s
    | some x =>
      let c := coachOf s.curThread
      let b := (s.ctx c x).bars.get n.toNat {}
      if b.expect = 0 then s.trapMe trapAccess subWindow (n.setWidth 64)
      else (s.onMe Thread.next).arrive c x { bar := n.toNat, who := .thread (localOf s.curThread) d.toNat }))

/-- WAITP dd, da, db, n (R247): an acquire. -/
def execWaitp (d a b : BitVec 5) (n : BitVec 4) (s : State) : Out :=
  .next (s.acquire (.waitp d a b n) [a.toNat, b.toNat] (fun s =>
    match s.slotOf s.curThread with
    | none => s
    | some x =>
      let c := coachOf s.curThread
      let ph := ((s.ctx c x).bars.get n.toNat {}).phase.toNat
      let tok := (s.th.d a.toNat).toNat % 65536
      let dist := (ph + 65536 - tok) % 65536
      let lim := s.th.d b.toNat
      if dist = 0 then
        let upTo := if lim = 0 then none else some ((s.cycle (dieOf s.curThread)).toNat + lim.toNat)
        s.onMe (fun th => { th.next with wait := .phase n.toNat tok d.toNat upTo })
      else
        let code := if 32768 ≤ dist then 3 else if dist = 1 then 0 else 1
        s.onMe (fun th => (th.setD d.toNat (waitpResult ph tok code)).next)))

/-- EVSIG n (R248): a release. -/
def execEvsig (n : BitVec 5) (s : State) : Out :=
  .next (s.gigInstr (.evsig n) [] true (fun s =>
    match s.slotOf s.curThread with
    | none => s
    | some x => (s.onMe Thread.next).onCtx (coachOf s.curThread) x (fun k => k.setLine n.toNat)))

/-- EVMSG da, n (R248): a release; the line is set when it arrives. -/
def execEvmsg (a n : BitVec 5) (s : State) : Out :=
  .next (s.gigInstr (.evmsg a n) [a.toNat] true (fun s =>
    let c := s.th.d a.toNat
    if c.toNat < 128 ∧ (s.part (s.partOfThread s.curThread)).hasDie (dieOfCoach c.toNat) then
      let m : EvMsg := { kind := .evmsg, coach := c.toNat, line := n.toNat,
                         lid := s.launchOn (coachOf s.curThread), src := coachOf s.curThread, srcBar := 0 }
      let s1 := s.onMe Thread.next
      { s1 with evs := s1.evs ++ [m] }
    else s.trapMe trapAccess subRange c))

/-! ### Messages (R249, R250) -/

/-- The own scratchpad's bytes at offset `o` are damaged. -/
def State.ownBad (s : State) (o n : Nat) : Bool := (s.placeRead (.near (gigOf s.curThread) o) n).2

/-- SEND da, db (R249): a release. It holds the thread while no room exists, and enters the road book (19 R428).
The order of its checks is log 80's, the trap on damaged bytes log 81's. -/
def execGigSend (a b : BitVec 5) (s : State) : Out :=
  .next (s.gigInstr (.gigSend a b) [a.toNat, b.toNat] true (fun s =>
    let r := s.th.d a.toNat
    s.withOwn 64 64 (s.th.d b.toNat) (fun o =>
      if 4096 ≤ r.toNat ∨ (s.part (s.partOfThread s.curThread)).hasDie (dieOf r.toNat) = false then
        s.trapMe trapAccess subRange r
      else if (s.homeOf r.toNat).isNone then s.trapMe trapPeer 0 r
      else if s.ownBad o 64 then (s.trapMe trapAccess subEcc (s.th.d b.toNat)).countUnc (.gig (gigOf s.curThread))
      else
        let s1 := (s.noteGig s.curThread 4 s.th.pc (s.th.d b.toNat).toNat).sendMsg s.curThread r.toNat
          ((s.gig (gigOf s.curThread)).sp.readBytes o 64)
        s1.onMe (fun th => match th.wait with
          | .send _ _ => th
          | _ => th.next))))

/-- RECV{.NB} dd, da (R250): an acquire where it takes a message; a held SEND is accepted in the room that it makes (R249). A message
with a parity error traps, and stays (23 R463; log 91). -/
def execRecv (d a : BitVec 5) (n : BitVec 1) (s : State) : Out :=
  .next (s.acquire (.recv d a n) [a.toNat] (fun s =>
    s.withOwn 64 64 (s.th.d a.toNat) (fun o =>
      match s.th.inbox with
      | m :: rest =>
        if m.bad then (s.trapMe trapAccess subEcc (s.th.d a.toNat)).countUnc (.gig (gigOf s.curThread))
        else ((s.spWrite (gigOf s.curThread) o m.body).onMe (fun th =>
          ({ th with inbox := rest }.setD d.toNat (BitVec.ofNat 64 m.src)).next)).acceptHeld
      | [] =>
        if n = 1 then s.onMe (fun th => (th.setD d.toNat (-1)).next)
        else s.onMe (fun th => { th.next with wait := .recv o d.toNat }))))

/-- SEND_ACCEPT: the first held SEND of a running thread for the receiver of thread `t`'s is accepted once room exists; a receiver
that is gone traps PEER_GONE, or the trap message goes on along the chain (R249; 19 R424; log 82). -/
def execSendAccept (t : Nat) (s : State) : Out :=
  match (s.thread t).wait with
  | .send r body =>
    if (s.homeOf r).isNone then
      let others := s.held.filter (fun e => !(e.src == t && e.lid == s.launchOn (coachOf t)))
      let s1 := ({ s with held := others } : State).onThread t (fun th => { th with wait := .none })
      if (s.thread t).phase = .running then .next (s1.trapAt t trapPeer 0 (BitVec.ofNat 64 r) (s.thread t).pc)
      else
        let w := wordsOf body
        match s1.chainFrom (coachOf t) ((wordAt w 4).toNat + 1) with
        | none => .next (s1.haltCoach t (wordAt w 0).toNat)
        | some (k, r') =>
          let st := ({ (s.thread t).trap with hops := BitVec.ofNat 2 (Nat.min (k + 1) 3) } : TrapRegs).status
          .next (s1.sendMsg t r' (wordsBytes ((w.set 3 st).set 4 (BitVec.ofNat 64 k) |>.map (fun x => x.toNat))))
    else .next (s.acceptOne r)
  | _ => .next s

/-! ### Launches and items (R251, R252, R260) -/

/-- The 64 bytes of a child header at `va`, as a gig read of the thread: the trap, or the bytes, and the state after the
translation and the count of an error (R226, R251; 17 R382; 23 R463; logs 80 and 81). -/
def State.headerBytes (s : State) (va : Nat) : Except (Nat × Nat) (List Byte) × State :=
  if va % 64 ≠ 0 ∨ windowBase ≤ va then (.error (trapIll, 0), s)
  else match s.translate (.data (gigOf s.curThread)) (s.partOfThread s.curThread) va with
    | (none, s1) => (.error (trapPage, 0), s1)
    | (some (e3, big), s1) =>
      let pa := leafAddr e3 big va
      if !(leafAllows e3 true false false s1.th.level) then (.error (trapAccess, subPerm), s1)
      else match s1.tier pa with
        | .nothing => (.error (trapAccess, subRange), s1)
        | .control _ _ => (.error (trapAccess, subUnsup), s1)
        | _ => if s1.damaged pa 64 then (.error (trapAccess, subEcc), s1.countUnc (physSource pa))
          else (.ok (s1.mem.readBytes pa 64), s1)

/-- SPAWN{.P} dd, da (R251; 11 R313): a release. -/
def execSpawn (d a : BitVec 5) (p : BitVec 1) (s : State) : Out :=
  .next (s.gigInstr (.spawn d a p) [a.toNat] true (fun s =>
    let va := s.th.d a.toNat
    let k := s.partOfThread s.curThread
    let die := dieOf s.curThread
    match s.headerBytes va.toNat with
    | (.error e, s1) => s1.trapMe e.1 e.2 va
    | (.ok bs, s) =>
      let h := wordsOf bs
      if !(headerOk (s.part k) h) then s.trapMe trapIll 0 va
      else match s.pagedBytes k (hEvinit h) (64 * hNcoach h) with
        | .error _ => s.trapMe trapIll 0 va
        | .ok es =>
          let ev := evinitOf (hFcoach h) es
          if !(evinitOk ev (hFcoach h) (hNcoach h)) then s.trapMe trapIll 0 va
          else
            let parent := if p = 1 then some (s.launchOn (coachOf s.curThread)) else none
            let lid := s.nextLid
            let done := fun (s : State) (st id : Nat) =>
              s.onMe (fun th => (th.setD d.toNat (BitVec.ofNat 64 (st * 2 ^ 62 + id % 2 ^ 32))).next)
            if poolAdmits (s.die die).pool.length (decide (p = 1)) then
              done ((s.newLaunch k die h ev (decide (p = 1)) parent none).takeIn die lid) 0 lid
            else if (s.die die).spill.length < (s.part k).sqcap then
              -- the entry's place in the die's queue is a free value
              let slot := s.freeVal % (s.part k).sqcap
              let at_ := (s.part k).sqbase + ((s.part k).dieIndex die * (s.part k).sqcap + slot) * 64
              let s1 := (s.drawn.newLaunch k die h ev (decide (p = 1)) parent none).onDie die (fun x =>
                { x with spill := x.spill ++ [lid] })
              done (s1.writePhys at_ bs) 1 lid
            -- no child exists: the id field holds a free value
            else done s.drawn 2 s.freeVal))

/-- Field `n` of a work item number (R252). -/
def widField (h : List Word) (item n : Nat) : Nat :=
  if n = 7 then item
  else item / 2 ^ (hWidths h 6 - hWidths h (n + 1)) % 2 ^ hWidth h n

/-- WID dd, n (R252). -/
def execWid (d : BitVec 5) (n : BitVec 3) (s : State) : Out :=
  .next (s.toD (.wid d n) [] d.toNat (fun th =>
    BitVec.ofNat 64 (widField (s.header (s.launchOn (coachOf s.curThread))) th.item n.toNat)))

/-- A thread that SLICE trapped has let go: when none is left, the switch is made (19 R419). -/
def State.unslice (s : State) (t : Nat) : State :=
  match s.slotOf t with
  | none => s
  | some x =>
    let c := coachOf t
    let k := s.ctx c x
    if k.sliceLimit.isSome && k.sliced.contains (localOf t) then
      let s1 := s.onCtx c x (fun k => { k with sliced := k.sliced.filter (fun i => !(i == localOf t)) })
      if (s1.ctx c x).sliced.isEmpty then s1.beginLeave c else s1
    else s

/-- The thread at the start of its next item (11 R310; 01 R40); what it issued before writes no register of the item (log 82). -/
def Thread.restart (th : Thread) (h : List Word) (item : Nat) : Thread :=
  { th with item := item, pc := hEntry h, regs := [], marks := [], odd := [], frm := 0, level := false,
            trap := { th.trap with inh := false },
            late := th.late.map (fun e => { e with dest := 0 }),
            pend := th.pend.map (fun p => match p with
              | .acc a => .acc { a with dest := none }
              | f => f) }

/-- HALT (R260; 11 R310). -/
def execGigHalt (s : State) : Out :=
  .next (s.gigInstr .gigHalt [] false (fun s =>
    match s.slotOf s.curThread with
    | none => s
    | some x =>
      let c := coachOf s.curThread
      let h := s.header (s.ctx c x).lid
      let item := s.th.item + hThreads h
      if item < hItems h then s.onMe (fun th => th.restart h item)
      else (s.leave c x (localOf s.curThread)).unslice s.curThread))

/-- YIELD (R260; 19 R419). -/
def execYield (s : State) : Out :=
  .next (s.gigInstr .yield [] false (fun s =>
    let c := coachOf s.curThread
    let s1 := (s.onMe Thread.next).unslice s.curThread
    if s1.waits c true then s1.beginLeave c else s1))

/-! ### Traps (R260) -/

/-- TRAP code (R260). -/
def execTrap (c : BitVec 6) (s : State) : Out :=
  .next (s.gigInstr (.trap c) [] false (fun s => s.trapMe trapTrap 0 (c.setWidth 64)))

/-- TRET (R260): the return from a trap. -/
def execTret (s : State) : Out :=
  .next (s.privileged .tret [] (fun s =>
    (s.onMe (fun th => { th with pc := th.trap.tpc.toNat, level := th.trap.pprv,
                                 trap := { th.trap with inh := false } })).unslice s.curThread))

/-- A word without a meaning traps ILL (R89). -/
def execUnassignedGigWord (x : BitVec 32) (s : State) : Out :=
  .next (s.gigWord false (x.setWidth 64) [] false (fun s => s))

/-- EXT_INT_TAKEN: a pending EXT_INT is taken at an instruction boundary with XIE = 1 and INH = 0 (19 R413). -/
def execExtIntTaken (t : Nat) (s : State) : Out :=
  let th := s.thread t
  match th.ext with
  | [] => .next s
  | v :: rest =>
    if th.free t && th.trap.xie && !th.trap.inh then
      .next ((s.onThread t (fun th => { th with ext := rest })).trapAt t trapExt 0 v th.pc)
    else .next s

/-! ### Control registers (R261, R264) -/

/-- Level 0 may read or write a control register (Table 8-11). -/
def csrOpen (c : Nat) (write : Bool) : Bool :=
  if write then decide (c = 0xB ∨ c = 0xC)
  else decide (c = 7 ∨ c = 9 ∨ c = 0xA ∨ c = 0xB ∨ c = 0xC ∨ c = 0xD)

/-- The value of gig control register `c` for the acting thread (Tables 8-14 to 8-20). -/
def State.gigCsr (s : State) (c : Nat) : Word :=
  let th := s.th
  let g := s.gig (gigOf s.curThread)
  match c with
  | 0 => th.trap.tcause.setWidth 64
  | 1 => th.trap.tvalue
  | 2 => th.trap.tpc
  | 3 => th.trap.status
  | 4 => BitVec.ofNat 64 th.trap.vector
  | 5 => th.trap.tscratch
  | 6 => (s.coach (coachOf s.curThread)).hchain.setWidth 64
  | 7 => g.ctxkey
  | 8 => (g.spbank.setWidth 64 <<< 32) ||| g.icway.setWidth 64
  | 9 => g.slice.setWidth 64
  | 0xA => s.cycle (dieOf s.curThread)
  | 0xB => (th.settle ((s.cycle (dieOf s.curThread)).toNat + 1)).fflags.setWidth 64
  | 0xC => th.frm.setWidth 64
  | _ => BitVec.ofNat 64 ((if s.supOf s.curThread then 2 else 0) + (if th.level then 1 else 0))

/-- The state after `v` is written to gig control register `c`: RO and RSV bits are ignored (R261). -/
def State.setGigCsr (s : State) (c : Nat) (v : Word) : State :=
  let trap := fun (f : TrapRegs → TrapRegs) => s.onMe (fun th => { th with trap := f th.trap })
  let gig := s.onGig (gigOf s.curThread)
  match c with
  | 0 => trap (fun r => { r with tcause := v.setWidth 8 })
  | 1 => trap (fun r => { r with tvalue := v })
  | 2 => trap (fun r => { r with tpc := v })
  | 3 => trap (fun r => { r with sltrap := bitOf v 17, xie := bitOf v 16, inh := bitOf v 9, pprv := bitOf v 8 })
  | 4 => trap (fun r => { r with tvec := v.extractLsb' 2 47 })
  | 5 => trap (fun r => { r with tscratch := v })
  | 6 => s.onCoach (coachOf s.curThread) (fun k => { k with hchain := v.setWidth 32 &&& 0x9F9F9F9F })
  | 8 => (gig (fun g => { g with spbank := v.extractLsb' 32 16, icway := v.setWidth 4 })).reclaim (coachOf s.curThread)
  | 9 => gig (fun g => { g with slice := v.setWidth 32 })
  | 0xB => s.onMe (fun th => { th.settle (s.cycle (dieOf s.curThread)).toNat with fflags := v.setWidth 5 })
  | 0xC => s.onMe (fun th => { th with frm := v.setWidth 3 })
  | _ => s

/-- CSRR dd, NAME (R261, R264). -/
def execGigCsrr (d : BitVec 5) (c : BitVec 6) (s : State) : Out :=
  .next (s.gigInstr (.gigCsrr d c) [] false (fun s =>
    if s.th.level || csrOpen c.toNat false then
      s.onMe (fun th => (th.setD d.toNat (s.gigCsr c.toNat)).next)
    else s.trapMe trapAccess subPriv (wordOf (.gigCsrr d c))))

/-- CSRW NAME, da (R261, R264). -/
def execGigCsrw (a : BitVec 5) (c : BitVec 6) (s : State) : Out :=
  .next (s.gigInstr (.gigCsrw a c) [a.toNat] false (fun s =>
    if s.th.level || csrOpen c.toNat true then
      (s.setGigCsr c.toNat (s.th.d a.toNat)).onMe Thread.next
    else s.trapMe trapAccess subPriv (wordOf (.gigCsrw a c))))

/-- TRACE da, tag: two road-book entries; tag 63 triggers (R261; 19 R428, R429). -/
def execTrace (a : BitVec 5) (t : BitVec 6) (s : State) : Out :=
  .next (s.gigInstr (.trace a t) [a.toNat] false (fun s =>
    let s1 := (s.noteGig s.curThread 1 s.th.pc t.toNat).noteGig s.curThread 1 s.th.pc ((s.th.d a.toNat).toNat % 2 ^ 32)
    let s2 := if t = 63 then s1.onGig (gigOf s.curThread) (fun g => { g with book := g.book.trigger }) else s1
    s2.onMe Thread.next))

/-- RNG dd, da, db, stream (R262); its result takes 12 gig cycles (R486). -/
def execRng (d a b : BitVec 5) (x : BitVec 6) (s : State) : Out :=
  .next (s.toLateD (.rng d a b x) [a.toNat, b.toNat] d.toNat 12 (fun th =>
    let k := th.d a.toNat
    let c := th.d b.toNat
    let x1 : BitVec 32 := BitVec.ofNat 32 (bitsOf c 57 48 * 2 ^ 22 + x.toNat * 2 ^ 16 + bitsOf c 47 32)
    let (y0, y1, _, _) := philox (k.setWidth 32) (k.extractLsb' 32 32) (c.setWidth 32) x1 0 0
    BitVec.ofNat 64 (y1.toNat * 2 ^ 32 + y0.toNat)))

/-! ### The turnpike (R263; 25 R484) -/

/-- LEAVE{.CXL} dd, da (R263): the request reaches the turnpike, which judges it when the gig cycle ends (25 R484). -/
def execLeave (d a : BitVec 5) (c : BitVec 1) (s : State) : Out :=
  .next (s.gigInstr (.leave d a c) [a.toNat] false (fun s =>
    match s.slotOf s.curThread with
    | none => s
    | some x => (s.onMe Thread.next).ask (coachOf s.curThread) x
        { thread := localOf s.curThread, dest := d.toNat, cxl := decide (c = 1), bytes := (s.th.d a.toNat).toNat }))

end Sys2Proof.Machine
end

