-- ==== Sys2Proof/Machine/Waybill.lean ====
section
/-! DEFINITION. Waybill cards: fields, checks, footprints, edges, submission, rows, retirement and faults
(08 R256, R257; 11 R322 to R329). -/
namespace Sys2Proof.Machine

/-! ### Fields of a card (Table 11-5) -/

/-- SEQ. -/
def wSeq (w : List Word) : Nat := bitsOf (wordAt w 0) 31 0
/-- The valid predecessor numbers. -/
def wPreds (w : List Word) : List Nat :=
  (if bitOf (wordAt w 1) 32 then [bitsOf (wordAt w 0) 63 32] else []) ++
  (if bitOf (wordAt w 1) 33 then [bitsOf (wordAt w 1) 31 0] else [])
/-- GATHER. -/
def wGather (w : List Word) : Bool := bitOf (wordAt w 1) 38
/-- DKIND. -/
def wDkind (w : List Word) : Nat := bitsOf (wordAt w 1) 37 36
/-- SKIND. -/
def wSkind (w : List Word) : Nat := bitsOf (wordAt w 1) 35 34
/-- SADDR. -/
def wSaddr (w : List Word) : Nat := bitsOf (wordAt w 2) 48 0
/-- DADDR. -/
def wDaddr (w : List Word) : Nat := bitsOf (wordAt w 3) 48 0
/-- RBYTES. -/
def wRbytes (w : List Word) : Nat := bitsOf (wordAt w 4) 63 32
/-- ROWS. -/
def wRows (w : List Word) : Nat := bitsOf (wordAt w 4) 31 0
/-- DSTRIDE. -/
def wDstride (w : List Word) : Int := sbitsOf (wordAt w 5) 63 32
/-- SSTRIDE. -/
def wSstride (w : List Word) : Int := sbitsOf (wordAt w 5) 31 0
/-- IADDR. -/
def wIaddr (w : List Word) : Nat := bitsOf (wordAt w 6) 48 0
/-- IBOUND. -/
def wIbound (w : List Word) : Nat := bitsOf (wordAt w 7) 63 32
/-- FV. -/
def wFv (w : List Word) : Bool := bitOf (wordAt w 7) 11
/-- FLINE. -/
def wFline (w : List Word) : Nat := bitsOf (wordAt w 7) 10 6
/-- AUNIT. -/
def wAunit (w : List Word) : Bool := bitOf (wordAt w 7) 5
/-- AV. -/
def wAv (w : List Word) : Bool := bitOf (wordAt w 7) 4
/-- ABAR. -/
def wAbar (w : List Word) : Nat := bitsOf (wordAt w 7) 3 0
/-- Size: the bytes a card moves (R329). -/
def wSize (w : List Word) : Nat := wRows w * wRbytes w
/-- 4 MiB. -/
def largeCard : Nat := 0x400000

/-! ### Checks (R323) -/

/-- First address of a kind's range, and the address after its last (01 R36). -/
def kindRange (k : Nat) : Int × Int :=
  match k with
  | 0 => ((nearBase : Nat), (2 ^ 49 : Nat))
  | 1 => ((windowBase : Nat), (windowBase + 2 ^ 32 : Nat))
  | _ => (0, (windowBase : Nat))

/-- `n` rows of `rb` bytes from `base` by `st` lie in the range of kind `k`; a row of the near kind lies in one rank's
scratchpad. -/
def rowsIn (k : Nat) (base st : Int) (n rb : Nat) : Bool :=
  let last := base + ((n : Int) - 1) * st
  let (lo, hi) := kindRange k
  decide (lo ≤ base) && decide (lo ≤ last) && decide (base + rb ≤ hi) && decide (last + rb ≤ hi) &&
  (decide (k ≠ 0) ||
    (List.range (if st = 0 then 1 else n)).all (fun i => decide ((base + i * st) % (2 ^ 19 : Nat) + rb ≤ (2 ^ 19 : Nat))))

/-- A card is malformed (R323); `used` says which barriers of its context are used. -/
def cardBad (used : Nat → Bool) (w : List Word) : Bool :=
  let x := wordAt w
  decide (bitsOf (x 1) 63 39 ≠ 0) || decide (bitsOf (x 2) 63 49 ≠ 0) || decide (bitsOf (x 3) 63 49 ≠ 0) ||
  decide (bitsOf (x 6) 63 49 ≠ 0) || decide (bitsOf (x 7) 31 12 ≠ 0) ||
  decide (wDkind w = 3) || decide (wSkind w = 3) ||
  decide (wRows w = 0) || decide (wRbytes w = 0) || decide (2 ^ 24 < wRbytes w) ||
  (wGather w && (decide (wIbound w = 0) || decide (wIaddr w < nearBase) || decide (2 ^ 49 < wIaddr w + 4 * wRows w))) ||
  !(rowsIn (wSkind w) (wSaddr w) (wSstride w) (if wGather w then wIbound w else wRows w) (wRbytes w)) ||
  !(rowsIn (wDkind w) (wDaddr w) (wDstride w) (wRows w) (wRbytes w)) ||
  (wAv w && !(used (wAbar w)))

/-! ### Footprints (R324) -/

/-- An interval of a space: 0 to 7 the ranks, 8 the tensor SRAM window, 9 the paged addresses; first and last byte. -/
structure Span where
  space : Nat
  first : Int
  last : Int
  deriving DecidableEq, Repr

/-- The part of `n` rows that lies in rank `r`. -/
def rankSpan (base st : Int) (n rb r : Nat) : List Span :=
  let lo : Int := (nearBase + r * 2 ^ 19 : Nat)
  let hi : Int := lo + (2 ^ 19 - 1 : Nat)
  if st = 0 then (if lo ≤ base ∧ base ≤ hi then [{ space := r, first := base, last := base + rb - 1 }] else [])
  else
    let a := if 0 < st then -((base - lo) / st) else -((hi - base) / (-st))
    let b := if 0 < st then (hi - base) / st else (base - lo) / (-st)
    let i0 := if a < 0 then 0 else a
    let i1 := if (n : Int) - 1 < b then (n : Int) - 1 else b
    if i1 < i0 then []
    else
      let p := base + i0 * st
      let q := base + i1 * st
      [{ space := r, first := if p ≤ q then p else q, last := (if p ≤ q then q else p) + rb - 1 }]

/-- The parts of the `n` contiguous bytes from near address `base` on that lie in each rank: the index list of a card. -/
def listSpans (base n : Nat) : List Span :=
  (List.range 8).filterMap (fun r =>
    let lo := Nat.max base (nearBase + r * 2 ^ 19)
    let hi := Nat.min (base + n) (nearBase + (r + 1) * 2 ^ 19)
    if lo < hi then some { space := r, first := (lo : Int), last := (hi : Int) - 1 } else none)

/-- The smallest intervals that hold `n` rows of kind `k`. -/
def rowSpans (k : Nat) (base st : Int) (n rb : Nat) : List Span :=
  if k = 0 then (List.range 8).flatMap (rankSpan base st n rb)
  else
    let q := base + ((n : Int) - 1) * st
    [{ space := 7 + k, first := if base ≤ q then base else q, last := (if base ≤ q then q else base) + rb - 1 }]

/-- The smallest interval of each space that holds the spans of `l`. -/
def joinSpans (l : List Span) : List Span :=
  (List.range 10).filterMap (fun p => (l.filter (fun s => decide (s.space = p))).foldl (fun o s => match o with
    | none => some s
    | some t => some { space := p, first := if s.first ≤ t.first then s.first else t.first,
                       last := if s.last ≤ t.last then t.last else s.last }) none)

/-- R(c). -/
def readSpans (w : List Word) : List Span :=
  joinSpans (rowSpans (wSkind w) (wSaddr w) (wSstride w) (if wGather w then wIbound w else wRows w) (wRbytes w) ++
    (if wGather w then listSpans (wIaddr w) (4 * wRows w) else []))

/-- W(c). -/
def writeSpans (w : List Word) : List Span :=
  joinSpans (rowSpans (wDkind w) (wDaddr w) (wDstride w) (wRows w) (wRbytes w))

/-- Two footprints overlap. -/
def spansMeet (a b : List Span) : Bool :=
  a.any (fun x => b.any (fun y => decide (x.space = y.space) && decide (x.first ≤ y.last) && decide (y.first ≤ x.last)))

/-- A later card `w` has an edge from card `e` (R325). -/
def cardEdge (e w : List Word) : Bool :=
  spansMeet (writeSpans e) (readSpans w) || spansMeet (readSpans e) (writeSpans w) || spansMeet (writeSpans e) (writeSpans w)

/-! ### Submission (R256, R327) -/



/-- Number `target` is reachable through the predecessor numbers of unretired cards `cs`, in at most `n` steps. -/
def predReach (cs : List Card) (n : Nat) (preds : List Nat) (target : Nat) : Bool :=
  match n with
  | 0 => false
  | n + 1 => preds.contains target ||
    predReach cs n ((cs.filter (fun c => preds.contains (wSeq c.words))).flatMap (fun c => wPreds c.words)) target

/-- The unretired cards in the engine of coach `c` while it serves launch `lid`: those of the launch, and started cards of
launches that have ended (R325; 19 R423). The unstarted cards of a context that is switched out are saved with it (19 R420). -/
def State.engineCards (s : State) (c lid : Nat) : List Card :=
  (s.coach c).cards.filter (fun d => d.inEngine && (decide (d.lid = lid) || decide (d.state = .running)))

/-- The first grant without .CXL of a thread that covers `n` bytes at CYCLE `now` (08 R263). -/
def Thread.grantFor (th : Thread) (now : Word) (n : Nat) : Option Held :=
  th.grants.find? (fun g => !g.cxl && decide (n ≤ g.bytes) && decide (now.toNat < g.expiry.toNat))

/-- WBILL dd, da (R256): a release; logs 81 and 83 name what the rule leaves open. -/
def execWbill (d a : BitVec 5) (s : State) : Out :=
  .next (s.gigInstr (.wbill d a) [a.toNat] true (fun s =>
    let va := s.th.d a.toNat
    s.withOwn 64 64 va (fun o =>
      match s.slotOf s.curThread with
      | none => s
      | some x =>
        let c := coachOf s.curThread
        let k := s.ctx c x
        if s.ownBad o 64 then (s.trapMe trapAccess subEcc va).countUnc (.gig (gigOf s.curThread))
        else
          let w := wordsOf ((s.gig (gigOf s.curThread)).sp.readBytes o 64)
          let cs := s.engineCards c k.lid
          let met := cs.filter (fun e => cardEdge e.words w)
          let me := localOf s.curThread
          let free := met.filter (fun e => decide (e.thread ≠ me) &&
            !(predReach cs (cs.length + 1) (wPreds w) (wSeq e.words)) &&
            !(predReach cs (cs.length + 1) (wPreds e.words) (wSeq w)))
          if cardBad (fun n => decide ((k.bars.get n {}).expect ≠ 0)) w then s.trapMe trapIll 0 va
          else if 32 ≤ (cs.filter (fun e => decide (e.state = .waiting))).length then
            s.onMe (fun th => (th.setD d.toNat 1).next)
          else match (if hDet (s.header k.lid) then free.head? else none) with
            | some e => s.trapMe trapOverlap 0 (BitVec.ofNat 64 (wSeq e.words))
            | none =>
              let now := s.cycle (dieOf s.curThread)
              let grant := if largeCard ≤ wSize w then s.th.grantFor now (wSize w) else none
              let card : Card :=
                { num := (s.coach c).nextCard, lid := k.lid, thread := me, level := s.th.level, words := w,
                  state := .waiting, granted := grant.isSome, retry := 0, rows := [], cause := 0,
                  edges := met.map (fun e => e.num) }
              (s.onCoach c (fun q => { q with cards := q.cards ++ [card], nextCard := q.nextCard + 1 })).onMe (fun th =>
                let th1 : Thread := match grant with
                  | none => th
                  | some g => { th with grants := th.grants.erase g }
                (th1.setD d.toNat 0).next))))

/-- The code of a card's state (08 R257). -/
def CardState.code (c : CardState) : Nat :=
  match c with
  | .waiting => 1
  | .running => 2
  | .retired => 3
  | .faulted => 4

/-- WBSTAT dd, da: the latest card of the launch with that sequence number (R257; log 83). -/
def execWbstat (d a : BitVec 5) (s : State) : Out :=
  .next (s.toD (.wbstat d a) [a.toNat] d.toNat (fun th =>
    let c := coachOf s.curThread
    let seq := (th.d a.toNat).toNat
    match ((s.coach c).cards.filter (fun e => decide (e.lid = s.launchOn c) && decide (wSeq e.words = seq))).getLast? with
    | none => 0
    | some e => BitVec.ofNat 64 (e.cause * 256 + e.state.code)))

/-! ### The engine (R325, R326, R328, R329) -/

/-- Card `j` of coach `c`. -/
def State.card (s : State) (c j : Nat) : Option Card := (s.coach c).cards.find? (fun d => decide (d.num = j))

/-- The state with card `j` of coach `c` changed by `f`. -/
def State.onCard (s : State) (c j : Nat) (f : Card → Card) : State :=
  s.onCoach c (fun q => { q with cards := q.cards.map (fun d => if d.num = j then f d else d) })

/-- Nothing orders card `d` behind another: no unretired card carries the number of a predecessor, its own included, and its
edges have retired (R325). -/
def State.startable (s : State) (c : Nat) (d : Card) : Bool :=
  let cs := s.engineCards c d.lid
  decide (d.state = .waiting) &&
  cs.all (fun e => !((wPreds d.words).contains (wSeq e.words)) && !(d.edges.contains e.num))

/-- The context whose cards the engine of a coach runs. -/
def State.engineLid (s : State) (c : Nat) : Option Nat :=
  match (s.coach c).run with
  | none => none
  | some x => if (s.ctx c x).leaving || !(decide ((s.ctx c x).state = .running)) then none else some (s.ctx c x).lid

/-- Card `d` asks for leave where it needs a grant: whether it may start, and the state after (R329). -/
def State.cardLeave (s : State) (c : Nat) (d : Card) : Bool × State :=
  if wSize d.words < largeCard ∨ d.granted = true then (true, s)
  else
    let (w, s1) := s.askLeave (dieOfCoach c) false (wSize d.words)
    if w = 0 then (true, s1.onCard c d.num (fun d => { d with granted := true }))
    else (false, s1.onCard c d.num (fun d => { d with retry := s.cycle (dieOfCoach c) + BitVec.ofNat 64 w }))

/-- CARD_START: the first startable card of the running context that does not wait for leave starts, where fewer than
four run (R325, R329). -/
def execCardStart (c j : Nat) (s : State) : Out :=
  match s.card c j, s.engineLid c with
  | some d, some lid =>
    let cs := s.engineCards c lid
    let ok := fun (e : Card) => s.startable c e && decide (e.retry.toNat ≤ (s.cycle (dieOfCoach c)).toNat)
    if d.lid = lid ∧ (cs.find? ok).map (fun e => e.num) = some j ∧
        (cs.filter (fun e => decide (e.state = .running))).length < 4 then
      let (go, s1) := s.cardLeave c d
      .next (if go then s1.onCard c j (fun d => { d with state := .running }) else s1)
    else .next s
  | _, _ => .next s

/-- CARD_LEAVE_RETRY: the returned wait has passed, and the card asks again (R329). -/
def execCardLeaveRetry (c j : Nat) (s : State) : Out :=
  match s.card c j with
  | some d =>
    if s.startable c d ∧ largeCard ≤ wSize d.words ∧ d.granted = false ∧ s.engineLid c = some d.lid then
      let now := s.cycle (dieOfCoach c)
      let s1 := if now.toNat < d.retry.toNat then s.gigTime (dieOfCoach c) d.retry else s
      .next (s1.cardLeave c d).2
    else .next s
  | none => .next s

/-- A piece of a row at address `a` of kind `k`, read or written by the card: its place, or the cause of the fault; and
the cached translations used (R328, R381, R386). -/
def State.rowPlace (s : State) (c : Nat) (d : Card) (k : Nat) (a : Nat) (wr : Bool) :
    Except Nat (Target × List PageUse) × State :=
  let p := (s.partOf (dieOfCoach c)).getD 0
  match k with
  | 0 => (.ok (.near (c * 8 + (a - nearBase) / 2 ^ 19) ((a - nearBase) % 2 ^ 19), []), s)
  | 1 =>
    let o := a - windowBase
    if !((s.part p).hasDie (o / 2 ^ 28)) || decide (tensorSize ≤ o % 2 ^ 23) then (.error trapAccess, s)
    else if !(s.windowOpen (o / 2 ^ 28) (o / 2 ^ 23 % 32) (o % 2 ^ 23)) then (.error trapTsram, s)
    else (.ok (.tensor (o / 2 ^ 28) (o / 2 ^ 23 % 32) (o % 2 ^ 23), []), s)
  | _ =>
    match s.translate (.engine c) p a with
    | (none, s1) => (.error trapPage, s1)
    | (some (e3, big), s1) =>
      if !(leafAllows e3 (!wr) wr false d.level) then (.error trapAccess, s1)
      else match s1.tier (leafAddr e3 big a) with
        | .nothing => (.error trapAccess, s1)
        | .control _ _ => (.error trapAccess, s1)
        | _ => (.ok (.phys (leafAddr e3 big a), s.uses (.engine c) p a), s1)

/-- The place of near address `a` in coach `c`. -/
def nearPlace (c a : Nat) : Target := .near (c * 8 + (a - nearBase) / 2 ^ 19) ((a - nearBase) % 2 ^ 19)

/-- The row `i` of a card as it begins: under GATHER its index, whose bytes may lie in two ranks, is read and judged (R322,
R328). -/
def State.beginRow (s : State) (c : Nat) (d : Card) (i : Nat) : Except Nat CardRow × State :=
  let w := d.words
  if wGather w then
    let a := wIaddr w + 4 * i
    let rs := (List.range 4).map (fun q => s.placeRead (nearPlace c (a + q)) 1)
    let idx := ofBytes (rs.flatMap (fun r => r.1))
    if rs.any (fun r => r.2) then (.error trapAccess, s.countUnc (.gig (c * 8 + (a - nearBase) / 2 ^ 19)))
    else if idx = 0xFFFFFFFF then (.ok { row := i, src := none }, s)
    else if wIbound w ≤ idx then (.error trapAccess, s)
    else (.ok { row := i, src := some ((wSaddr w : Int) + idx * wSstride w) }, s)
  else (.ok { row := i, src := some ((wSaddr w : Int) + i * wSstride w) }, s)

/-- The offsets in a row of `n` bytes at `base` that the aligned word `i` of its address range covers. -/
def wordOffsets (base n i : Nat) : List Nat := (List.range n).filter (fun o => decide ((base + o) / 8 = base / 8 + i))

/-- The number of aligned words that `n` bytes at `base` touch. -/
def wordCount (base n : Nat) : Nat := (base + n - 1) / 8 - base / 8 + 1

/-- One access of row `r` of a running card: the read of an aligned 8 bytes of its source, or the write of an aligned 8
bytes of its destination whose source bytes have been read (12 R331, R337). Which, a free value says. -/
def State.rowAccess (s : State) (c : Nat) (d : Card) (r : CardRow) : Except Nat CardRow × State :=
  let w := d.words
  let n := wRbytes w
  let da := ((wDaddr w : Int) + r.row * wDstride w).toNat
  let v := s.freeVal
  let s0 := s.drawn
  let note := fun (p : List PageUse) => r.pages ++ p
  if v % 2 = 0 then
    match r.src with
    | none => (.ok r, s0)
    | some src =>
      let os := wordOffsets src.toNat n (v / 2 % wordCount src.toNat n)
      match os.head? with
      | none => (.ok r, s0)
      | some o =>
        if r.got.any (fun e => e.1 == o) then (.ok r, s0)
        else match s0.rowPlace c d (wSkind w) (src.toNat + o) false with
        | (.error e, s1) => (.error e, s1)
        | (.ok (k, p), s1) =>
          let (bs, bad) := s1.placeRead k os.length
          if bad then (.error trapAccess, s1.countUnc k.source)
          else (.ok { r with got := (List.range os.length).foldl (fun m i => m.set (o + i) (bs.getD i 0)) r.got,
                             pages := note p }, s1)
  else
    let i := v / 2 % wordCount da n
    let os := wordOffsets da n i
    match os.head? with
    | none => (.ok r, s0)
    | some o =>
      if r.wrote.contains i || !(r.src.isNone || os.all (fun q => r.got.any (fun e => e.1 == q))) then (.ok r, s0)
      else match s0.rowPlace c d (wDkind w) (da + o) true with
        | (.error e, s1) => (.error e, s1)
        | (.ok (k, p), s1) =>
          let s2 := if s1.hostStoreFails k os.length then s1.countUnc k.source
            else s1.placeWrite k (os.map (fun q => if r.src.isNone then 0 else r.got.get q 0))
          let done := r.wrote ++ [i]
          (.ok { r with wrote := done, pages := note p, full := decide (done.length = wordCount da n) }, s2)

/-- A row index whose turn a free value gives. -/
def State.pickRow (s : State) (d : Card) : Nat × State := (s.freeVal % wRows d.words, s.drawn)

/-- One row access of card `d`, of a row that a free value picks. -/
def State.rowStep (s : State) (c : Nat) (d : Card) : Except Nat CardRow × State :=
  let (i, s1) := s.pickRow d
  match d.rows.find? (fun r => decide (r.row = i)) with
  | some r => if r.full then (.ok r, s1) else s1.rowAccess c d r
  | none => match s1.beginRow c d i with
    | (.error e, s2) => (.error e, s2)
    | (.ok r, s2) => s2.rowAccess c d r

/-- A card's list of rows with `r` entered. -/
def putRow (rs : List CardRow) (r : CardRow) : List CardRow := r :: rs.filter (fun q => !(decide (q.row = r.row)))

/-- An arrival of the engine at a card's barrier, in the context of its launch (R317, R326; 19 R421). -/
def State.cardArrive (s : State) (c : Nat) (d : Card) : State :=
  match (s.coach c).ctxOf d.lid with
  | none => s
  | some x => s.arrive c x { bar := wAbar d.words, who := .engine }

/-- ROW_LANDED: a running card moves one more aligned 8 bytes; a row that is whole makes an arrival where AUNIT = 1
(R326). -/
def execRowLanded (c j : Nat) (s : State) : Out :=
  match s.card c j with
  | none => .next s
  | some d =>
    if d.state = .running then
      match s.rowStep c d with
      | (.error _, _) => .next s
      | (.ok r, s1) =>
        let fresh := r.full && !(d.rows.any (fun q => decide (q.row = r.row) && q.full))
        let s2 := s1.onCard c j (fun d => { d with rows := putRow d.rows r })
        .next (if fresh && wAv d.words && wAunit d.words then s2.cardArrive c d else s2)
    else .next s

/-- CARD_RETIRE: every row has landed (R325, R326). -/
def execCardRetire (c j : Nat) (s : State) : Out :=
  match s.card c j with
  | none => .next s
  | some d =>
    if d.state = .running ∧ (d.rows.filter (fun r => r.full)).length = wRows d.words then
      let s1 := s.onCard c j (fun d => { d with state := .retired, rows := [] })
      .next (if wAv d.words && !(wAunit d.words) then s1.cardArrive c d else s1)
    else .next s

/-- A card becomes faulted with a cause: its event line is set (R328). -/
def State.faultOne (s : State) (c : Nat) (d : Card) (cause : Nat) : State :=
  let s1 := s.onCard c d.num (fun d => { d with state := .faulted, cause := cause, rows := [] })
  match (s1.coach c).ctxOf d.lid with
  | some x => if wFv d.words then s1.onCtx c x (fun k => k.setLine (wFline d.words)) else s1
  | none => s1

/-- The cards that fault in turn after card `d`, in at most `n` rounds (R328): those of its launch, and of the one that runs, which
may wait for a card of a launch that has ended. -/
def State.faultChain (s : State) (c cause n : Nat) (d : Card) : State :=
  match n with
  | 0 => s
  | n + 1 =>
    let deps := (s.engineCards c d.lid ++ (s.engineCards c (s.launchOn c)).filter (fun e => decide (e.lid ≠ d.lid))).filter
      (fun e => e.edges.contains d.num || (wPreds e.words).contains (wSeq d.words))
    deps.foldl (fun s e =>
      if (s.card c e.num).any Card.inEngine then (s.faultOne c e cause).faultChain c cause n e else s) s

/-- CARD_FAULT: the next row access fails its check: the card and its dependants fault, and the submitting thread gets
EXT_INT (R328), unless no context of the launch is on the coach (log 83). -/
def execCardFault (c j : Nat) (s : State) : Out :=
  match s.card c j with
  | none => .next s
  | some d =>
    if d.state = .running then
      match s.rowStep c d with
      | (.ok _, _) => .next s
      | (.error cause, s1) =>
        let s2 := (s1.faultOne c d cause).faultChain c cause (s1.coach c).cards.length d
        let word : Word := BitVec.ofNat 64 (wSeq d.words * 2 ^ 32 + cause)
        match (s2.coach c).ctxOf d.lid with
        | none => .next s2
        | some x => .next (s2.onCtx c x (fun k => k.onThread d.thread (fun th => { th with ext := th.ext ++ [word] })))
    else .next s

/-- GRANT_EXPIRY: the oldest charge of a die's turnpike expires; the grant of a thread goes with it (08 R263; 25 R484). -/
def execGrantExpiry (d : Nat) (s : State) : Out :=
  match (s.die d).grants with
  | [] => .next s
  | g :: rest =>
    let s1 := if (s.cycle d).toNat < g.expiry.toNat then s.gigTime d g.expiry else s
    .next (s1.onDie d (fun x => { x with grants := rest.filter (fun e => decide (x.gigCycle.toNat < e.expiry.toNat)) }))

end Sys2Proof.Machine
end

