-- ==== Sys2Proof/Machine/Plane.lean ====
section
/-! DEFINITION. The gig instructions that reach the timed plane, and the arrival of posts and freeze requests there
(08 R258, R259; 10 R295 to R298; 19 R414). -/
namespace Sys2Proof.Machine

/-- Issue of an instruction that reaches the timed plane later. It is no access of an ordering class: its class number
lies above the sixteen (12 R331). -/
def State.toPlane (s : State) (op : AccOp) (d : BitVec 5) : State :=
  s.onMe (fun th => th.push (16 + th.nextId) 0 op (some d.toNat) .plane)

/-- POST dd, da, db, slot (R258). -/
def execPost (d a b : BitVec 5) (i : BitVec 6) (s : State) : Out :=
  .next (s.gigInstr (.post d a b i) [a.toNat, b.toNat] false (fun s =>
    let v := s.th.d a.toNat
    let die := bitsOf v 11 8
    if bitsOf v 63 12 ≠ 0 ∨ bitsOf v 7 6 ≠ 0 ∨ (s.part (s.partOfThread s.curThread)).hasDie die = false then
      s.trapMe trapAccess subRange v
    else s.toPlane (.post die (bitsOf v 5 0) i.toNat (s.th.d b.toNat)) d))

/-- A privileged instruction that also needs PRIV.SUP (R259). -/
def State.supervisor (s : State) (i : Instr) (srcs : List Nat) (eff : State → State) : State :=
  s.privileged i srcs (fun s => if s.supOf s.curThread then eff s else s.trapMe trapAccess subPriv (wordOf i))

/-- TFREEZE{.STG} dd (R259; 19 R414). -/
def execTfreeze (d : BitVec 5) (g : BitVec 1) (s : State) : Out :=
  .next (s.supervisor (.tfreeze d g) [] (fun s => s.toPlane (.tfreeze (decide (g = 1))) d))

/-- TRESUME dd (R259; 19 R411). -/
def execTresume (d : BitVec 5) (s : State) : Out :=
  .next (s.supervisor (.tresume d) [] (fun s => s.toPlane .tresume d))

/-- The place of `a` in a list. -/
def indexOf (a : Nat) (l : List Nat) : Option Nat :=
  match l with
  | [] => none
  | b :: t => if b = a then some 0 else (indexOf a t).map (fun i => i + 1)

/-- FRAME of the launch header (16 Table 16-6). -/
def TimedRun.frame (r : TimedRun) : Nat := bitsOf (wordAt r.header 6) 48 0

/-- TFRAME dd, da (R259; 19 R408). -/
def execTframe (d a : BitVec 5) (s : State) : Out :=
  .next (s.supervisor (.tframe d a) [a.toNat] (fun s =>
    let x := s.part (s.partOfThread s.curThread)
    let v := if x.run.phase = .frozen then
        (match indexOf (s.th.d a.toNat).toNat x.pipes with
         | some k => BitVec.ofNat 64 (x.run.frame + k * 0x800000)
         | none => -1)
      else -1
    s.onMe (fun th => (th.setD d.toNat v).next)))

/-! ### Arrivals (10 R297, R298) -/

/-- No access of thread `t` to the tensor SRAM window that precedes `a` is outstanding (R258). -/
def Thread.postable (th : Thread) (a : Access) : Bool :=
  th.accs.all (fun b => decide (a.id ≤ b.id) || (match b.target with
    | .tensor .. => false
    | _ => true))

/-- When a layover that brakes has no post missing on the die any more, its last one was taken at the place `t` of the axis
(R300); with `waits` it releases nothing before the restart (R302, R305). -/
def Die.releaseBrake (x : Die) (ls : SMap LayDesc) (w : Nat) (t : Tick) (waits : Bool) : Die :=
  match layOf ls w, x.layRec w with
  | some l, some r =>
    if r.braking && (setBits l.slots).all (fun i => (x.post.get i {}).v) then
      let a := if Tick.lt r.closeAt t then t else r.closeAt + 1
      { x with lays := x.lays.set w { r with braking := false, releaseAt := some a, waits := waits } }
    else x
  | _, _ => x

/-- A post of thread `t` for slot `i` may be handled on die `x` now: the WOPEN and WCLOSE words of the cycle have issued,
and no thread of a higher number has posted to the slot in the cycle (R298). -/
def Die.mayPost (x : Die) (t i : Nat) : Bool :=
  !(x.work.any (fun w => match w with
    | .issue _ .c => true
    | _ => false)) && !(x.posted.any (fun e => decide (e.1 = i) && decide (t < e.2)))

/-- POST_ARRIVAL: a post of thread `t` reaches its board, in this cycle or, where it may not, in a later one (R297, R298). -/
def execPostArrival (t : Nat) (s : State) : Out :=
  let th := s.thread t
  let ps := th.accs.filter (fun a => (match a.op with
    | .post .. => true
    | _ => false) && th.postable a)
  match ps[s.freeVal % ps.length]? with
  | none => .next s
  | some a =>
    match a.op with
    | .post die w i v =>
      if (s.die die).mayPost t i then
        let k := s.partOfThread t
        let ls := s.lays k
        let (x, st) := (s.die die).takePost ls die w i v
        let code := match st with
          | .onTime => 0
          | .pending => 1
          | .late => 2
          | .refused => 3
        let r := (s.part k).run
        let waits := r.frozenDies.contains die || (r.feHeld.isSome && (match x.layRec w with
          | some e => x.underHold e
          | none => false))
        let y := x.releaseBrake ls w (s.axisNow k die) waits
        .next ((s.drawn.setDie die { y with posted := (i, t) :: y.posted }).onThread t
          (fun th => th.complete a (BitVec.ofNat 64 code)))
      else .next s.drawn
    | _ => .next s

/-- The threads of coach `c` whose pending list holds an operation that `p` picks, with the access. -/
def State.planeOps (s : State) (c : Nat) (p : AccOp → Bool) : List (Nat × Access) :=
  (List.range 32).flatMap (fun n =>
    ((s.thread (c * 32 + n)).accs.filter (fun a => p a.op)).map (fun a => (c * 32 + n, a)))

/-- The SUP coach of partition `k`'s timed launch. -/
def TimedRun.sup (r : TimedRun) : Nat := bitsOf (wordAt r.header 0) 23 17

/-- EXT_REQUEST_ARRIVAL: a TFREEZE reaches partition `k` (19 R414). -/
def execExtRequestArrival (k : Nat) (s : State) : Out :=
  let r := (s.part k).run
  let ps := s.planeOps r.sup (fun o => match o with
    | .tfreeze _ => true
    | _ => false)
  match ps[s.freeVal % ps.length]? with
  | none => .next s
  | some (t, a) =>
    let stg := match a.op with
      | .tfreeze g => g
      | _ => false
    let done := fun (s : State) (v : Word) => s.onThread t (fun th => th.complete a v)
    if r.phase = .frozen then .next (done s.drawn 1)
    else if r.phase = .running ∨ r.phase = .restarting then
      .next (done (s.drawn.onRun k (fun r => { r with ext := r.ext ++ [{ who := t, stg := stg, arrived := true }] })) 0)
    else .next (done s.drawn 0)

end Sys2Proof.Machine
end

