-- ==== Sys2Proof/Machine/Contexts.lean ====
section
/-! DEFINITION. The events of dynamic launches and contexts: wakes, events that reach an event unit, the end of groups
and launches, slices and context switches (08 R247, R248; 10 R303; 11 R309 to R319; 16 R370; 19 R416 to R423). -/
namespace Sys2Proof.Machine

/-! ### Starting (11 R309, R314; 16 R370; 19 R416) -/

/-- The launches whose wake has not reached coach `c`. -/
def State.wakesFor (s : State) (c : Nat) : List Nat :=
  (s.launches.filter (fun e => e.2.wakes.contains c && (decide (e.2.phase = .pooled) || decide (e.2.phase = .started)))).map
    (fun e => e.1)

/-- The event-unit record of launch `lid` for coach `c`, as memory holds it now: the coach loads it on the wake (R309, R316). One
that cannot be read any more is the one that was checked (log 74). -/
def State.loadRecord (s : State) (c lid : Nat) : State :=
  s.onLaunch lid (fun l => match s.pagedBytes l.part (hEvinit l.header + 64 * (c - hFcoach l.header)) 64 with
    | .error _ => l
    | .ok bs => { l with evinit := (evinitOf c bs).foldl (fun m e => m.set e.1 e.2) l.evinit })

/-- WAKE: a launch's wake reaches coach `c`, which loads its event-unit record; the first one starts the launch's time. Its
context starts where the scheduler prefers it, and waits otherwise (R309, R370). -/
def execWake (c : Nat) (s : State) : Out :=
  let ls := s.wakesFor c
  match ls[s.freeVal % ls.length]? with
  | none => .next s
  | some lid =>
    let s1 := s.drawn.onLaunch lid (fun l => { l with
      wakes := l.wakes.filter (fun w => !(w == c)),
      began := some (l.began.getD (s.cycle (dieOfCoach (hFcoach l.header)))) })
    let s2 := (s1.loadRecord c lid).onCoach c (fun k => { k with waiting := k.waiting ++ [lid] })
    .next (if (s2.coach c).run.isNone && decide (s2.best (s2.ready c) = some lid) then s2.tryStart c lid else s2)

/-- CONTEXT_START: where no context runs on coach `c` and the scheduler prefers a waiting launch, its context starts
(R416, R370). -/
def execContextStart (c : Nat) (s : State) : Out :=
  match s.best (s.ready c) with
  | none => .next s
  | some lid => .next (if (s.coach c).waiting.contains lid then s.tryStart c lid else s)

/-! ### What reaches an event unit -/

/-- One of the events of one kind that may reach coach `c` now, as a free value picks, without it in the list. A child arrival
stays on its way until the launch's context has started there (R319). -/
def State.takeEv (s : State) (c : Nat) (k : EvKind) : Option (EvMsg × State) :=
  let es := s.evs.filter (fun e => decide (e.kind = k) && decide (e.coach = c) &&
    (decide (k ≠ .childArrival) || ((s.coach c).ctxOf e.lid).isSome || !((s.coach c).waiting.contains e.lid ||
      (s.wakesFor c).contains e.lid)))
  match es[s.freeVal % es.length]? with
  | none => none
  | some e => some (e, { s.drawn with evs := s.evs.erase e })

/-- A line is set in every context that the coach holds (R421). -/
def State.setLineHeld (s : State) (c n : Nat) : State :=
  let s1 := s.setLineAll c n
  (s1.coach c).holds.foldl (fun s x => s.resave c x) s1

/-- CHILD_ARRIVAL: a chained barrier's arrival reaches its parent barrier on coach `c`, in the order of its gig cycle; the phase it
counts towards will release it (R317, R319). -/
def execChildArrival (c : Nat) (s : State) : Out :=
  match s.takeEv c .childArrival with
  | none => .next s
  | some (e, s1) =>
    match (s1.coach c).ctxOf e.lid with
    | none => .next s1
    | some x =>
      .next (if ((s1.ctx c x).bars.get e.line {}).expect = 0 then s1
        else s1.arrive c x { bar := e.line, who := .child e.src e.srcBar })

/-- BARRIER_RELEASE: a parent's release reaches its child barrier on coach `c` (R319). -/
def execBarrierRelease (c : Nat) (s : State) : Out :=
  match s.takeEv c .release with
  | none => .next s
  | some (e, s1) =>
    match (s1.coach c).ctxOf e.lid with
    | none => .next s1
    | some x => .next ((s1.releaseAt c x e.line).resave c x)

/-- EVMSG_ARRIVAL: the line is set in the sender launch's own context, or, from another launch, in the running context
(R248, R421). -/
def execEvmsgArrival (c : Nat) (s : State) : Out :=
  match s.takeEv c .evmsg with
  | none => .next s
  | some (e, s1) =>
    let place := match (s1.coach c).ctxOf e.lid with
      | some x => some x
      | none => (s1.coach c).run
    match place with
    | none => .next s1
    | some x => .next ((s1.onCtx c x (fun k => k.setLine e.line)).resave c x)

/-- LAYOVER_NOTICE: an open or settle notice sets its line in every context that the coach holds (R303, R421). -/
def execLayoverNotice (c : Nat) (s : State) : Out :=
  match s.takeEv c .notice with
  | none => .next s
  | some (e, s1) => .next (s1.setLineHeld c e.line)

/-- CHILD_COMPLETION: a launch's completion sets the line that its header names (R315, R421). -/
def execChildCompletion (c : Nat) (s : State) : Out :=
  match s.takeEv c .completion with
  | none => .next s
  | some (e, s1) => .next (s1.setLineHeld c e.line)

/-- WAITP_TIMEOUT: time on the die passes the limit of thread `t`'s WAITP; a phase that completes later does not save
it (R247). -/
def execWaitpTimeout (t : Nat) (s : State) : Out :=
  let c := coachOf t
  let waits := (s.coach c).ctxs.filterMap (fun e => match (e.2.threads.get (localOf t) {}).wait with
    | .phase _ _ _ (some lim) => some lim
    | _ => none)
  match waits with
  | [] => .next s
  | lim :: _ => .next (if (s.cycle (dieOf t)).toNat ≤ lim ∧ lim + 1 < 2 ^ 64 then s.gigTime (dieOf t) (BitVec.ofNat 64 (lim + 1))
      else s)

/-! ### Leaving (11 R311, R312) -/

/-- GROUP_EXIT: the gig cycle ends in which a group of coach `c` has nothing left to do: it exits, and its scratchpad region reads
zero to any later group (R312). -/
def execGroupExit (c : Nat) (s : State) : Out :=
  let q := s.coach c
  let d := dieOfCoach c
  .next (if q.ctxs.any (fun e => (List.range 8).any (fun r => e.2.groupDone q.cards r)) then s.gigTime d (s.cycle d + 1) else s)

/-- No thread of launch `lid` is still to run: its wakes have arrived, its contexts have started, what remains of them has
left with every access performed, and their cards have retired or faulted (R311; 13 Table 13-4). -/
def State.launchLeft (s : State) (lid : Nat) (l : Launch) : Bool :=
  l.wakes.isEmpty && decide (l.kids = 0) &&
  s.coaches.all (fun e => !(e.2.waiting.contains lid) && e.2.cards.all (fun d => !(d.inEngine && decide (d.lid = lid))) &&
    e.2.ctxs.all (fun x => decide (x.2.lid ≠ lid) ||
      x.2.threads.all (fun t => decide (t.2.phase = .left) && t.2.accs.isEmpty)))

/-- DYN_LAUNCH_COMPLETE: launch `lid` completes: its parent is told, its line is set, and its packet gets its outcome
(R311, R315; 16 Table 16-4; 19 R423). -/
def execDynLaunchComplete (lid : Nat) (s : State) : Out :=
  match s.launch lid with
  | none => .next s
  | some l =>
    if l.phase = .started ∧ s.launchLeft lid l = true then
      let h := l.header
      let s1 := s.onLaunch lid (fun l => { l with phase := .complete })
      let s2 := match l.parent with
        | none => s1
        | some p => s1.onLaunch p (fun q => { q with kids := q.kids - 1 })
      let s3 : State := if hCdv h then
          { s2 with evs := s2.evs ++ [{ kind := .completion, coach := hCdcoach h, line := hCdline h, lid := lid,
                                        src := hFcoach h, srcBar := 0 }] }
        else s2
      let span := s.cycle (dieOfCoach (hFcoach h)) - l.began.getD 0
      match l.job with
      | none => .next s3
      | some j =>
        let done : Job → Job := fun q =>
          { q with phase := .completed, status := if l.killed.isSome then .aborted else .done, reason := 0,
                   detail := l.killed.getD 0, lid := lid, flags := l.flags.toNat, span := span }
        .next { s3 with portal := { s3.portal with jobs := s3.portal.jobs.map (fun e =>
          if e.1 = j then (j, done e.2) else e) } }
    else .next s

/-! ### Slices and switches (19 R418 to R423) -/

/-- The threads of the running context that a slice's expiry traps (R419). -/
def Context.sliceTrapped (k : Context) (c : Nat) : List Nat :=
  (k.threads.filter (fun e => e.2.free (c * 32 + e.1) && e.2.trap.sltrap)).map (fun e => e.1)

/-- SLICE_EXPIRY: the running context of coach `c` ends where KILL is set; it is switched out, its SLTRAP threads trap
first, or its slice starts again (R419, R423). -/
def execSliceExpiry (c : Nat) (s : State) : Out :=
  match (s.coach c).run with
  | none => .next s
  | some x =>
    let k := s.ctx c x
    let d := dieOfCoach c
    if k.leaving || !(decide (k.state = .running)) then .next s
    else
      let at_ := k.sliceLimit.getD k.sliceEnd
      let s1 := if (s.cycle d).toNat < at_.toNat then s.gigTime d at_ else s
      match s1.killWord c x with
      | some code => .next ((s1.endContext c x code).putHeader c x)
      | none =>
        let s1 := s1.countTable [s1.ctxBase c x + 8]
        if k.sliceLimit.isSome then .next (s1.beginLeave c)
        else if s1.waits c true then
          let ts := (s1.ctx c x).sliceTrapped c
          if ts.isEmpty then .next (s1.beginLeave c)
          else
            let s2 := s1.onCtx c x (fun k => { k with sliced := ts, sliceLimit := some (at_ + BitVec.ofNat 64 k.slice) })
            .next (ts.foldl (fun s n =>
              s.trapAt (c * 32 + n) trapSlice 0 (BitVec.ofNat 64 k.slice) (s.thread (c * 32 + n)).pc) s2)
        else .next ((s1.startSlice c x).putHeader c x)

/-- The words of a thread record; the wait and state words, whose coding the spec does not give, are free values. -/
def Thread.recordBytes (th : Thread) (w v : Word) : List Byte :=
  ((List.range 31).map (fun i => th.d (i + 1)) ++
    [BitVec.ofNat 64 th.pc, th.fflags.setWidth 64, th.frm.setWidth 64, th.trap.tcause.setWidth 64, th.trap.tvalue,
     th.trap.tpc, th.trap.status, BitVec.ofNat 64 th.trap.vector, th.trap.tscratch, w, v]).flatMap (fun r => toBytes 8 r.toNat)

/-- The unstarted cards of a context's launch, in submission order. -/
def Coach.unstarted (q : Coach) (lid : Nat) : List Card :=
  q.cards.filter (fun d => decide (d.lid = lid) && decide (d.state = .waiting))

/-- The save of a context: header, event unit, inbox, unstarted cards and threads (Table 19-5). -/
def State.saveContext (s : State) (c x : Nat) : State :=
  let k := s.ctx c x
  let b := s.ctxBase c x
  let s1 := (s.saveUnit c x).writePhys (b + 0x400)
    (((s.coach c).unstarted k.lid).flatMap (fun d => d.words.flatMap (fun w => toBytes 8 w.toNat)))
  let v := fun (i : Nat) => BitVec.ofNat 64 (Config.freeNat (s.free + i))
  let s2 := (List.range 32).foldl (fun (s : State) n =>
    s.writePhys (b + 0x2000 + 384 * n) ((k.threads.get n {}).recordBytes (v (2 * n)) (v (2 * n + 1)))) s1
  { s2 with free := s.free + 64 }

/-- A thread with the registers of its record; its wait and its state, whose words have no given coding, are its own (R420), and
so is the register that a release wrote while it was switched out, which takes effect now (R421). -/
def Thread.restored (th : Thread) (ws : List Word) : Thread :=
  let w := wordAt ws
  { th with
    regs := (List.range 31).foldl (fun m i => if SMap.get m (i + 1) 0 = w i ∨ th.woke = some (i + 1) then m else SMap.set m (i + 1) (w i)) th.regs
    pc := (w 31).toNat, fflags := (w 32).setWidth 5, frm := (w 33).setWidth 3
    trap := { tcause := (w 34).setWidth 8, tvalue := w 35, tpc := w 36, tscratch := w 39, tvec := (w 38).extractLsb' 2 47,
              sliceClamped := bitOf (w 37) 19, sltrap := bitOf (w 37) 17, xie := bitOf (w 37) 16,
              sub := (w 37).extractLsb' 12 4, hops := (w 37).extractLsb' 10 2, inh := bitOf (w 37) 9, pprv := bitOf (w 37) 8 } }

/-- A context with the event unit that its save area holds in the bytes `bs`: phases, counts and held counts, mutexes, lines
(Table 19-5). -/
def Context.restoredUnit (k : Context) (bs : List Byte) : Context :=
  let n := fun (o l : Nat) => ofBytes ((bs.drop o).take l)
  { k with
    bars := k.bars.map (fun e => (e.1, { e.2 with
      phase := BitVec.ofNat 16 (n (8 * e.1) 2), count := n (8 * e.1 + 2) 2, held := n (8 * e.1 + 4) 2 }))
    mutex := (List.range 16).filterMap (fun i =>
      let h := n (128 + 4 * i) 4
      if h = 0xFFFFFFFF then none else some (i, h % 32))
    lines := BitVec.ofNat 32 (n 192 4) }

/-- The context in slot `x` of coach `c` as its save area holds it: event unit, unstarted cards, inbox and threads (R420, R422). -/
def State.loadContext (s : State) (c x : Nat) : State :=
  let b := s.ctxBase c x
  let k := s.ctx c x
  let box := (List.range (Nat.min 64 (s.mem.readLE (b + 28) 4))).map (fun i =>
    let w := s.mem.word (b + 0xC00 + 8 * i)
    (bitsOf w 11 0 % 32, ({ src := bitsOf w 27 16, body := s.mem.readBytes (b + 0x1000 + 64 * i) 64 } : Msg)))
  let s1 := s.onCtx c x (fun k => { k.restoredUnit (s.mem.readBytes (b + 0x100) 196) with
    inbox := box
    threads := k.threads.map (fun e => (e.1, e.2.restored (wordsOf (s.mem.readBytes (b + 0x2000 + 384 * e.1) 320)))) })
  (((s.coach c).unstarted k.lid).zipIdx).foldl (fun s e =>
    s.onCard c e.1.num (fun d => { d with words := wordsOf (s.mem.readBytes (b + 0x400 + 64 * e.2) 64) })) s1

/-- What a restore reads of the save area of context `x` on coach `c`: header, event unit, cards, inbox and threads (Table 19-5). -/
def State.savedReads (s : State) (c x : Nat) : List (Nat × Nat) :=
  let b := s.ctxBase c x
  let k := s.ctx c x
  [(b, 32), (b + 0x100, 196), (b + 0x400, 64 * ((s.coach c).unstarted k.lid).length), (b + 0xC00, 8 * k.inbox.length),
   (b + 0x1000, 64 * k.inbox.length)] ++ k.threads.map (fun e => (b + 0x2000 + 384 * e.1, 320))

/-- The first place of a save area that a restore cannot read for an uncorrectable error (23 R463). -/
def State.savedBad (s : State) (c x : Nat) : Option Nat :=
  ((s.savedReads c x).find? (fun e => s.damaged e.1 e.2)).map (fun e => e.1)

/-- A message put in its place in arrival order (R422). -/
def putMsg (a : Nat × Msg) (l : List (Nat × Msg)) : List (Nat × Msg) :=
  match l with
  | [] => [a]
  | b :: t => if a.2.num < b.2.num then a :: b :: t else b :: putMsg a t

/-- A register or a queued message of a context has a parity error (23 R460). -/
def Context.damaged (k : Context) : Bool := k.threads.any (fun e => !e.2.odd.isEmpty || e.2.inbox.any (fun m => m.bad))

/-- SWITCH_OUT: a ready context of higher priority switches the running one out; once its accesses have performed and
its started cards have ended, it is saved and its queued messages move to the inbox (R419, R420, R422). DESIGN CHOICE (log 90): one
whose registers or messages have a parity error cannot be saved and ends, with its save area as the code. -/
def execSwitchOut (c : Nat) (s : State) : Out :=
  match (s.coach c).run with
  | none => .next s
  | some x =>
    let s1 := if s.waits c false then s.beginLeave c else s
    if (s1.ctx c x).state = .running ∧ (s1.ctx c x).leaving ∧ s1.drained c x = true then
      if (s1.ctx c x).damaged then
        .next (((s1.countUnc (.die (dieOfCoach c))).endContext c x (BitVec.ofNat 64 (s1.ctxBase c x))).putHeader c x)
      else
      let s2 := s1.onCtx c x (fun k => { k with
        state := .out, leaving := false, sliced := [], sliceLimit := none,
        inbox := (k.threads.flatMap (fun e => e.2.inbox.map (fun m => (e.1, m)))).foldl (fun l m => putMsg m l) k.inbox,
        threads := k.threads.map (fun e => (e.1, { e.2 with inbox := [], fflags := e.2.allFlags, late := [], woke := none })) })
      .next (((s2.onCoach c (fun q => { q with run := none })).saveContext c x).acceptHeld)
    else .next s1

/-- CONTEXT_RESTORE: where no context runs and the scheduler prefers a switched-out one, it is restored from its save area and
issues again, or ends where KILL is set (R420, R422, R423). DESIGN CHOICE (log 90): one whose save area is damaged ends too, with the
address as its code. -/
def execContextRestore (c : Nat) (s : State) : Out :=
  if (s.coach c).run.isSome then .next s
  else match s.best (s.ready c) with
    | none => .next s
    | some lid =>
      match (s.coach c).ctxOf lid with
      | none => .next s
      | some x =>
        match s.killWord c x with
        | some code => .next ((s.endContext c x code).putHeader c x)
        | none =>
        match s.savedBad c x with
        | some a => .next (((s.countUnc (physSource a)).endContext c x (BitVec.ofNat 64 a)).putHeader c x)
        | none =>
          let s0 := s.loadContext c x
          let box := (s0.ctx c x).inbox
          let s1 := s0.onCtx c x (fun k => { k with state := .running, inbox := [] })
          let s2 := (s1.onCoach c (fun q => { q with run := some x })).reclaim c
          let s3 := ((s2.startSlice c x).keyGigs c (s.header lid)).putHeader c x
          .next (box.foldl (fun s e => s.deliver (c * 32 + e.1) e.2) s3).acceptHeld

end Sys2Proof.Machine
end

