-- ==== Sys2Proof/Machine/Cycle.lean ====
section
/-! DEFINITION. Detection of timed faults, results in flight, TLB prefetch, HBM transfers, relay and link words, and
the nest, as the events that a die's cycle makes (04 R104; 05 R145, R150, R154, R156 to R163, R168, R169; 06 R177,
R182; 09 R276 to R281, R286 to R289, R487; 22 R452; 23 R462, R463). -/
namespace Sys2Proof.Machine

/-! ### Detection (09 R286, R288, R289) -/

/-- FAULT_INFO of a detection, LOCAL as given (04 Table 4-12). -/
def Det.word (d : Det) (loc : Bool) : BitVec 64 :=
  BitVec.ofNat 64 (d.info.toNat * 2 ^ 32 + d.detail % 64 * 2 ^ 26 + d.pc % 2 ^ 14 * 2 ^ 12 + d.stream % 4 * 2 ^ 10 +
    (if loc then 2 ^ 9 else 0) + d.cause % 256)

/-- A detection is recorded rather than another of its cycle: lowest cause, then lowest stream (R288). -/
def Det.before (a b : Det) : Bool :=
  decide (a.cause < b.cause) || (decide (a.cause = b.cause) && decide (a.stream < b.stream))

/-- The detection that a pipeline records among those of one cycle. DESIGN CHOICE (log 84): among those of one cause and stream it is
the first that its word made, so that of two registers read early INFO names the earlier operand. -/
def leastDet (ds : List Det) : Option Det :=
  ds.foldl (fun b d => match b with
    | none => some d
    | some e => if d.before e then some d else some e) none

/-- The launch after pipeline `g` detects `d` in the cycle `td`: the first detection of the partition fixes fe = td + 32;
one in a held cycle takes effect after `held` held cycles, with fe = td. Of one cycle the first is that of the lowest pipeline,
the one that it records (R286, R288, R289). -/
def TimedRun.detected (r : TimedRun) (td : Tick) (g : Nat) (d : Det) (held : Option Nat) : TimedRun :=
  let r' : TimedRun := { r with td := some td, first := some (g, d),
                                fe := some (if held.isSome then td else td + 32), feHeld := held }
  match r.td, r.first with
  | some t, some (h, e) =>
    if held = none ∧ Tick.lt td t = true then r'
    else if td = t ∧ (g < h ∨ (g = h ∧ d.before e = true)) ∧ held = r.feHeld then { r with first := some (g, d) } else r
  | _, _ => r'

/-- The number of the partition that holds pipeline `g`. -/
def State.partOfPipe (s : State) (g : Nat) : Nat := (s.partOf (dieOfPipe g)).getD 0

/-- The package belongs to a timed domain of two or more (22 R446). -/
def Firmware.inDomain (f : Firmware) : Bool := !(decide (f.dx = 0) && decide (f.dy = 0) && decide (f.dz = 0))

/-- The package that first detected, as a detection tells it (22 R453). -/
def State.firstPkg (s : State) (d : Det) : Nat :=
  if d.cause = causeExt ∧ 0xFFFFF000 ≤ d.info.toNat ∧ d.info.toNat < 0xFFFFF040 then d.info.toNat % 64 else s.fw.pkg.toNat

/-- A package of a domain sends a notice of partition `k` on every joined link (22 R453, R455). -/
def State.tellDomain (s : State) (k : Nat) (kind : NoticeKind) (pkg : Nat) (atk : Tick) : State :=
  if s.fw.inDomain then
    { s with notices := s.notices ++ ((List.range 6).filter (fun l => s.fw.lup.getLsbD l)).map (fun l =>
        { link := l, part := k, kind := kind, pkg := pkg, atk := atk }) }
  else s

/-- The latest freeze notice of partition `k` on each joined link is taken back: a die that lags has detected earlier (log 1). -/
def State.untell (s : State) (k : Nat) : State :=
  { s with notices := ((List.range 6).filter (fun l => s.fw.lup.getLsbD l)).foldl (fun ns l =>
      (ns.reverse.eraseP (fun n => decide (n.link = l) && decide (n.part = k) && decide (n.kind = .freeze))).reverse) s.notices }

/-- The domain's other members are told of partition `k`'s first detection, where the launch's record `old` did not hold it yet (22
R453). -/
def State.tellFirst (s : State) (k : Nat) (old : TimedRun) : State :=
  let r := (s.part k).run
  match r.td, r.first with
  | some td, some (_, d) =>
    if old.td = none then s.tellDomain k .freeze (s.firstPkg d) td
    else if (old.td ≠ r.td ∨ old.first ≠ r.first) ∧ s.fw.inDomain = true then
      (s.untell k).tellDomain k .freeze (s.firstPkg d) td
    else s
  | _, _ => s

/-- What FAULT_INFO reflects after detection `d` in the cycle `td`: the latest cycle's, and of one cycle the least
(R288). -/
def Pipe.reflects (p : Pipe) (td : Tick) (d : Det) : Tick × Det :=
  match p.detected with
  | none => (td, d)
  | some (t, e) => if Tick.lt td t || (decide (t = td) && !(d.before e)) then (t, e) else (td, d)

/-- Pipeline `g` records the detections that have gathered, made in the cycle `td` (R288): FAULT_INFO, the road book with
its trigger, and the partition's first detection, of which a domain's other members are told (22 R453). -/
def State.conclude (s : State) (g : Nat) (td : Tick) (held : Option Nat) : State :=
  let p := s.pipe g
  let ds := p.cyc.dets
  match leastDet ds with
  | none => s
  | some d =>
    let book := (ds.foldl (fun (b : Book) e => b.add td 5 e.pc e.cause) p.book).trigger
    let top := p.reflects td d
    let p1 : Pipe := { p with csr := { p.csr with faultInfo := top.2.word true }, detected := some top, book := book,
                              cyc := { p.cyc with dets := [] } }
    let k := s.partOfPipe g
    let s2 := ((s.setPipe g p1).onRun k (fun r => r.detected td g d held)).tellFirst k (s.part k).run
    (ds.filter (fun e => decide (e.cause = causeEcc))).foldl (fun s e =>
      s.countUnc (match e.stack with
        | some j => .stack j
        | none => .pipe g)) s2

/-- Pipeline `g` detects `ds` in the cycle `td`, apart from what it has gathered in its own cycle (R288). -/
def State.concludeApart (s : State) (g : Nat) (td : Tick) (ds : List Det) : State :=
  let old := (s.pipe g).cyc.dets
  ((s.onPipe g (fun p => { p with cyc := { p.cyc with dets := ds } })).conclude g td none).onPipe g
    (fun p => { p with cyc := { p.cyc with dets := old } })

/-- Pipeline `g` meets a condition by an event. -/
def State.record (s : State) (g : Nat) (ds : List Det) : State := s.onPipe g (fun p => p.detect ds)

/-! ### Results in flight (04 R104; 02 R53) -/

/-- Flags raised in the cycle: a CSRR that issues in it sees them, and a CSRW in it leaves them set (02 R53). -/
def Pipe.raise (p : Pipe) (f : FlagSet) : Pipe :=
  { p with csr := { p.csr with fflags := p.csr.fflags ||| f }, cyc := { p.cyc with raised := p.cyc.raised ||| f } }

/-- A register file entry replaced under a mask. -/
def masked {n : Nat} (old new mask : BitVec n) : BitVec n := (old &&& ~~~mask) ||| (new &&& mask)

/-- A TLBP in flight for stream register `st`. -/
def Result.prefetches (r : Result) (st : Nat) : Bool :=
  match r with
  | .nxt n _ _ => decide (n = st)
  | .tlb n _ => decide (n = st)
  | _ => false

/-- A TLBP in flight. -/
def Result.isPrefetch (r : Result) : Bool :=
  match r with
  | .nxt .. => true
  | .tlb .. => true
  | _ => false

/-- A descriptor takes effect in stream register `st`, unless it is invalid (05 R145). -/
def Pipe.takeDesc (p : Pipe) (k st addr : Nat) (ws : List Word) (pc : Nat) : Pipe :=
  if Desc.valid ws st then
    let p1 := p.setSt st { desc := some (Desc.ofWords ws), addr := addr, p := 0, cur := {}, nxt := {} }
    { p1 with regs := p1.regs.sound (256 + st), fly := { p1.fly with res := p1.fly.res.filter (fun f => !(f.res.prefetches st)) } }
  else p.detect [{ cause := causeIllOp, stream := k, pc := pc, detail := 0, info := 0 }]

/-- A register result is written (04 R104); s0 and p0 keep their constants (01 R19). -/
def Pipe.writeResult (p : Pipe) (r : Result) : Pipe :=
  let regs := p.regs
  match r with
  | .sreg d v => if d = 0 then p else { p with regs := { regs with sr := regs.sr.set d v }.sound d }
  | .preg d v => if d = 0 then p else { p with regs := { regs with pr := regs.pr.set d v }.sound (32 + d) }
  | .areg d v => { p with regs := { regs with ar := regs.ar.set d v }.sound (64 + d) }
  | .breg d v => { p with regs := { regs with br := regs.br.set d v }.sound (96 + d) }
  | .vreg d v m =>
    let r : Regs := { regs with vr := regs.vr.set d (masked (regs.vr.get d 0) v m) }
    { p with regs := if m = BitVec.allOnes 2048 then r.sound (128 + d) else r }
  | .mreg d v m =>
    let r : Regs := { regs with mr := regs.mr.set d (masked (regs.mr.get d 0) v m) }
    { p with regs := if m = BitVec.allOnes 64 then r.sound (160 + d) else r }
  | .cb n v => { p with regs := { regs with cb := regs.cb.set n v }.sound (192 + n) }
  | .latch rows => { p with mx := { p.mx with latchA := rows.zipIdx.map (fun e => (e.2, e.1)), badLatch := [] } }
  | .acc rows =>
    { p with mx := { p.mx with acc := rows.foldl (fun m e => m.set e.1 e.2) p.mx.acc,
                               badRows := p.mx.badRows.filter (fun b => !(rows.any (fun e => e.1 == b / 24))) } }
  | .coef t ws =>
    { p with mem := { p.mem with coef := ws.zipIdx.foldl (fun m e => m.set (t * 256 + e.2) e.1) p.mem.coef,
                                 badCoef := p.mem.badCoef.filter (fun n => !(decide (n / 512 = t))) } }
  | _ => p

/-- Whether a result is one of registers, latch, accumulator rows or flags. -/
def Result.plain (r : Result) : Bool :=
  match r with
  | .scfg .. => false
  | .nxt .. => false
  | .tlb .. => false
  | .coef .. => false
  | _ => true

/-- The pipeline after the flights that `p` picks and that are due now have been completed by `f`, oldest first. -/
def Pipe.completeDue (p : Pipe) (now : Tick) (pick : Result → Bool) (f : Pipe → Flight → Pipe) : Pipe :=
  let mine := fun (e : Flight) => decide (e.due = now) && pick e.res
  let due := p.fly.res.filter mine
  let p1 : Pipe := { p with fly := { p.fly with res := p.fly.res.filter (fun e => !(mine e)) } }
  due.foldl f p1

/-- RESULT_COMPLETE: every register result of pipeline `g` due in this cycle becomes readable (09 R269). -/
def execResultComplete (g : Nat) (s : State) : Out :=
  let now := s.now (dieOfPipe g)
  .next (s.onPipe g (fun p => p.completeDue now Result.plain (fun q f => (q.writeResult f.res).raise f.flags)))

/-- SCFG_TAKES_EFFECT: descriptors due in this cycle are judged and taken (05 R145). -/
def execScfgTakesEffect (g : Nat) (s : State) : Out :=
  let now := s.now (dieOfPipe g)
  .next (s.onPipe g (fun p => p.completeDue now (fun r => match r with
      | .scfg .. => true
      | _ => false) (fun q f => match f.res with
      | .scfg st a ws pc => q.takeDesc f.stream st a ws pc
      | _ => q)))

/-- LDCM_COMPLETE: a coefficient table due in this cycle has its new contents (05 R156). -/
def execLdcmComplete (g : Nat) (s : State) : Out :=
  let now := s.now (dieOfPipe g)
  .next (s.onPipe g (fun p => p.completeDue now (fun r => match r with
      | .coef .. => true
      | _ => false) (fun q f => q.writeResult f.res)))

/-! ### TLB prefetch (05 R157, R158; 17 R381) -/

/-- TLBP st: the walk starts; an earlier one of the register is replaced (05 R158). -/
def State.tlbp (s : State) (i : Instr) (k : StreamKind) (st : Nat) : State :=
  let bad := match (s.me.streg st).desc with
    | none => true
    | some d => decide (d.kind = 0)
  s.timedPipe i k [.st st] (s.fails bad k causeIllOp 0 0) (fun now p =>
    match (p.streg st).desc with
    | none => p
    | some d =>
      let p1 : Pipe := { p with fly := { p.fly with res := p.fly.res.filter (fun f => !(f.res.prefetches st)) } }
      p1.produce k now 48 (.nxt st (d.addr (p.streg st).p + d.look) []) 0)

/-- TLBP in L (05 R158). -/
def execLTlbp (w : BitVec 3) (st : BitVec 4) (s : State) : Out := .next (s.tlbp (.lTlbp w st) .l st.toNat)
/-- TLBP in S (05 R158). -/
def execSTlbp (w : BitVec 3) (st : BitVec 4) (s : State) : Out := .next (s.tlbp (.sTlbp w st) .s st.toNat)

/-- The next table entry that a walk of `va` from `root` reads, after those in `read` (02 R70). -/
def nextRead (root : Nat) (va : Int) (read : List Word) : Option Nat :=
  if va < 0 ∨ (windowBase : Int) ≤ va then none
  else match read with
    | [] => some (walk1 root va.toNat)
    | [e1] => walk2 e1 va.toNat
    | [_, e2] => (walk3 e2 va.toNat).map (fun e => e.1)
    | _ => none

/-- The NXT entry that a finished walk gives to a stream register (05 R158; 17 Table 17-5). DESIGN CHOICE (log 64): where the
walk reaches no leaf entry, the faulted entry names the 64 KiB page of A + LOOK, and page 0 for a negative sum; where it reads
one that is invalid or malformed, it names the page of the size that the directory gives. -/
def walkResult (va : Int) (st : Nat) (read : List Word) : STlb :=
  let small : STlb := { valid := true, faulted := true, page := pageBase false va.toNat, frame := 0, big := false }
  match read with
  | [_, e2, e3] =>
    match walk3 e2 va.toNat with
    | none => small
    | some (_, big) =>
      let frame := bitsOf e3 51 16 * 2 ^ 16
      let ok := leafOk e3 big && leafAllows e3 true (decide (8 ≤ st)) false true && bitOf e3 9 && inHbm frame
      { valid := true, faulted := !ok, page := pageBase big va.toNat, frame := frame, big := big }
  | _ => small

/-- A walk carried on by at most `n` further reads of the page table. -/
def State.walkOn (s : State) (root : Nat) (va : Int) (n : Nat) (read : List Word) : List Word :=
  match n with
  | 0 => read
  | n + 1 => match nextRead root va read with
    | none => read
    | some a => State.walkOn s root va n (read ++ [s.tableWord a])

/-- The table entries that those further reads read. -/
def State.walkReads (s : State) (root : Nat) (va : Int) (n : Nat) (read : List Word) : List Nat :=
  match n with
  | 0 => []
  | n + 1 => match nextRead root va read with
    | none => []
    | some a => a :: State.walkReads s root va n (read ++ [s.tableWord a])

/-- The walks in flight of pipeline `g` may each make a read in this cycle, as free values say (05 R158). -/
def State.walksMove (s : State) (g : Nat) : State :=
  let root := (s.part (s.partOfPipe g)).root
  let p := s.pipe g
  if p.fly.res.any (fun f => match f.res with
      | .nxt .. => true
      | _ => false) then
    let step := fun (e : Flight × Nat) => match e.1.res with
      | .nxt st va read =>
        { e.1 with res := .nxt st va (s.walkOn root va (Config.freeNat (s.free + e.2) % 2) read) }
      | _ => e.1
    let reads := p.fly.res.zipIdx.flatMap (fun e => match e.1.res with
      | .nxt _ va read => s.walkReads root va (Config.freeNat (s.free + e.2) % 2) read
      | _ => [])
    { (s.countTable reads).setPipe g { p with fly := { p.fly with res := p.fly.res.zipIdx.map step } } with
        free := s.free + p.fly.res.length }
  else s

/-- The reads that the walks of pipeline `g` for which `d` holds still have to make. -/
def State.restReads (s : State) (root g : Nat) (d : Flight → Bool) : List Nat :=
  ((s.pipe g).fly.res.filter d).flatMap (fun f => match f.res with
    | .nxt _ va read => s.walkReads root va 3 read
    | _ => [])

/-- TLBP_RESULT: a walk due in this cycle ends, and NXT takes its outcome (05 R158). -/
def execTlbpResult (g : Nat) (s : State) : Out :=
  let now := s.now (dieOfPipe g)
  let root := (s.part (s.partOfPipe g)).root
  .next ((s.countTable (s.restReads root g (fun f => decide (f.due = now)))).onPipe g (fun p =>
    p.completeDue now Result.isPrefetch (fun q f => match f.res with
      | .nxt st va read =>
        q.setSt st { q.streg st with nxt := walkResult va st (s.walkOn root va 3 read) }
      | .tlb st e => q.setSt st { q.streg st with nxt := e }
      | _ => q)))

/-! ### HBM transfers (05 R161 to R163; 09 R278, R279; 23 R463) -/

/-- The transfers of a pipeline changed by `f`. -/
def Pipe.onHbm (p : Pipe) (f : HbmOp → HbmOp) : Pipe := { p with fly := { p.fly with hbm := p.fly.hbm.map f } }

/-- The stack of an HBM address (17 R375). -/
def stackOf (pa : Nat) : Nat := pa / 2 ^ 14 % 8

/-- An HLD that has not yet read all its pieces. -/
def HbmOp.waiting (o : HbmOp) : Bool := o.isLoad && decide (o.data.length < 32)

/-- The HLD with piece `i` read from memory `m`. -/
def HbmOp.readPiece (o : HbmOp) (m : Memory) (i : Nat) : HbmOp :=
  if o.isLoad && !(o.data.any (fun e => e.1 == i)) then { o with data := o.data.set i (m.word (o.pa + 8 * i)) } else o

/-- The HLD with every piece read. -/
def State.readAll (s : State) (o : HbmOp) : HbmOp :=
  if o.waiting then { (List.range 32).foldl (fun (o : HbmOp) i => o.readPiece s.mem i) o with bad := o.bad || s.damaged o.pa 256 }
  else o

/-- Two transfers share a byte of HBM. -/
def HbmOp.meets (a b : HbmOp) : Bool := decide (a.pa < b.pa + 256) && decide (b.pa < a.pa + 256)

/-- An HST of partition `k` in flight that must be performed before HLD `o` reads (05 R163). -/
def State.storeFirst (s : State) (k : Nat) (o : HbmOp) : Bool :=
  (s.part k).pipes.any (fun g => (s.pipe g).fly.hbm.any (fun h =>
    !h.isLoad && !h.refused && h.meets o && Tick.le (h.issue + 640) o.issue))

/-- The pipelines with an HLD that waits for stack `j`. -/
def State.hbmWaiters (s : State) (j : Nat) : List Nat :=
  (s.pipes.filter (fun e => e.2.fly.hbm.any (fun o => o.waiting && decide (stackOf o.pa = j)))).map (fun e => e.1)

/-- The places of the HLDs in flight of pipeline `g` that stack `j` may read now. -/
def State.hbmReady (s : State) (j g : Nat) : List Nat :=
  let l := (s.pipe g).fly.hbm
  (List.range l.length).filter (fun m => match l[m]? with
    | some o => o.waiting && decide (stackOf o.pa = j) && !(s.storeFirst (s.partOfPipe g) o)
    | none => false)

/-- The HLD in place `m` of pipeline `g` reads its piece `i`. -/
def State.hbmPiece (s : State) (g m i : Nat) : State :=
  s.onPipe g (fun p => { p with fly := { p.fly with hbm := p.fly.hbm.zipIdx.map (fun e =>
    if e.2 = m then { e.1.readPiece s.mem i with bad := e.1.bad || s.damaged (e.1.pa + 8 * i) 8 } else e.1) } })

/-- HBM_SLOT_TRANSFER: the controller of stack `j` reads one aligned 8-byte piece of a waiting HLD; free values say which
(05 R163; 09 R279). -/
def execHbmSlotTransfer (j : Nat) (s : State) : Out :=
  let gs := s.hbmWaiters j
  match gs[s.freeVal % gs.length]? with
  | none => .next s
  | some g =>
    let idx := s.hbmReady j g
    let s1 : State := { s with free := s.free + 3 }
    .next (match idx[Config.freeNat (s.free + 2) % idx.length]? with
      | none => s1
      | some m => s1.hbmPiece g m (Config.freeNat (s.free + 1) % 32))

/-- HBM_UNIT_ARRIVAL: a unit of pipeline `g` reaches the return buffer `late` cycles after the start of its landing
cycle; 0 is in time (09 R279). A free value says which unit. -/
def execHbmUnitArrival (g late : Nat) (s : State) : Out :=
  let p := s.pipe g
  let n := s.freeVal % p.fly.hbm.length
  .next (s.drawn.setPipe g { p with fly := { p.fly with hbm := p.fly.hbm.zipIdx.map (fun e =>
    if e.2 = n && e.1.isLoad && !e.1.refused then { e.1 with late := late } else e.1) } })

/-- Transfer `b` of pipeline `h` uses a pseudo-channel slot before transfer `a` of pipeline `g` (05 R161). DESIGN CHOICE
(log 65): of an HLD and an HST that one pipeline issues in one cycle, the HLD goes first. -/
def HbmOp.refuses (b : HbmOp) (h : Nat) (a : HbmOp) (g : Nat) : Bool :=
  decide (b.pa / 256 % 512 = a.pa / 256 % 512) && decide (b.issue.toNat / 20 = a.issue.toNat / 20) &&
  (Tick.lt b.issue a.issue || (decide (b.issue = a.issue) &&
    (decide (h < g) || (decide (h = g) && b.isLoad && !a.isLoad))))

/-- HBM_SLOT_REFUSAL: 40 cycles after issue, a transfer of pipeline `g` whose slot is taken is refused (05 R161). -/
def execHbmSlotRefusal (g : Nat) (s : State) : Out :=
  let now := s.now (dieOfPipe g)
  let part := s.part (s.partOfPipe g)
  let p := s.pipe g
  let hit := fun (o : HbmOp) => decide (o.issue + 40 = now) &&
    part.pipes.any (fun h => (s.pipe h).fly.hbm.any (fun b => b.refuses h o g))
  let ds := (p.fly.hbm.filter hit).map (fun o =>
    ({ cause := causeToken, stream := if o.isLoad then 1 else 3, pc := o.pc, detail := 63, info := 0 } : Det))
  .next (s.setPipe g ((p.onHbm (fun o => if hit o then { o with refused := true } else o)).detect ds))

/-- HBM_REFRESH: refresh in a free slot changes no bit (09 R278). -/
def execHbmRefresh (_j : Nat) (s : State) : Out := .next s

/-- The bytes of the pieces of a transfer. -/
def HbmOp.bytes (o : HbmOp) : List Byte := (List.range 32).flatMap (fun i => toBytes 8 (o.data.get i 0).toNat)

/-- A landing enters tensor SRAM and charges the write port (05 R149, R150): rank in the list of R150 and its order. -/
def Pipe.land (p : Pipe) (rank n off : Nat) (bs : List Byte) : Pipe :=
  { p with mem := p.mem.put off bs,
           cyc := { p.cyc with landed := p.cyc.landed ++ [(rank, n, off, bs)], wr := p.cyc.wr + bs.length } }

/-- HLD_LANDING: the units of pipeline `g` due in this cycle enter tensor SRAM, are late, or are faults (05 R151, R162;
09 R279; 23 R463). DESIGN CHOICE (log 66): a LAYOVER_BANK slip of a landing records stream 1 and the PC of the HLD. -/
def execHldLanding (g : Nat) (s : State) : Out :=
  let now := s.now (dieOfPipe g)
  let mine := fun (o : HbmOp) => o.isLoad && decide (o.issue + 640 = now)
  let due := (s.pipe g).fly.hbm.filter mine
  let s1 := s.onPipe g (fun p => { p with fly := { p.fly with hbm := p.fly.hbm.filter (fun o => !(mine o)) } })
  .next (due.foldl (fun s o =>
    if o.refused then s
    else if o.late ≠ 0 then
      s.onPipe g (fun p => { p with fly := { p.fly with late := p.fly.late ++
        [{ at_ := now + BitVec.ofNat 64 o.late,
           det := { cause := causeLink, stream := 0, pc := 0, detail := 0, info := BitVec.ofInt 32 (-(o.late : Int)) } }] } })
    else
      let o := s.readAll o
      let slips := s.bankSlips g 1 o.pc o.off 256 ++ (if o.bad then
        [{ cause := causeEcc, stream := 1, pc := o.pc, detail := 0, info := BitVec.ofNat 32 o.pa, stack := some (stackOf o.pa) }]
        else [])
      if slips.isEmpty then s.onPipe g (fun p => p.land 3 0 o.off o.bytes) else s.record g slips) s1)

/-- Every HLD of partition `k` that issued before the cycle `t` has read what it shares with the store `o` (05 R163). -/
def State.readBefore (s : State) (k : Nat) (o : HbmOp) (t : Tick) : State :=
  (s.part k).pipes.foldl (fun u h =>
    if (u.pipe h).fly.hbm.any (fun a => a.waiting && a.meets o && Tick.lt a.issue t) then
      u.onPipe h (fun p => p.onHbm (fun a => if a.meets o && Tick.lt a.issue t then u.readAll a else a))
    else u) s

/-- The store `o` of pipeline `g` completes in this cycle: its own die stands there for one that is refused or damaged,
and every die of the partition has reached it for one that reaches HBM (05 R162, R163; log 1). -/
def State.completes (s : State) (g : Nat) (o : HbmOp) : Bool :=
  let t := o.issue + 640
  !o.isLoad &&
  (if o.refused || o.bad then decide (t = s.now (dieOfPipe g))
   else (s.part (s.partOfPipe g)).dies.all (fun d => Tick.le t (s.now d)))

/-- HST_COMPLETION: the stores of pipeline `g` that complete in this cycle reach HBM, after every HLD that issued before
has read what it overlaps (05 R162, R163). DESIGN CHOICE (log 27): a store whose source is damaged is detected here, with the HBM
address in INFO. -/
def execHstCompletion (g : Nat) (s : State) : Out :=
  let mine := s.completes g
  let due := (s.pipe g).fly.hbm.filter mine
  let s1 := s.onPipe g (fun p => { p with fly := { p.fly with hbm := p.fly.hbm.filter (fun o => !(mine o)) } })
  .next (due.foldl (fun s o =>
    if o.refused then s
    else if o.bad then
      s.record g [{ cause := causeEcc, stream := 3, pc := o.pc, detail := 0, info := BitVec.ofNat 32 o.pa }]
    else (s.readBefore (s.partOfPipe g) o (o.issue + 640)).writePhys o.pa o.bytes) s1)

/-- A queue whose entry `i` has a parity error. -/
def spoilAt {α : Type} (q : List (QEntry α)) (i : Nat) : List (QEntry α) :=
  q.zipIdx.map (fun e => if e.2 = i then { e.1 with bad := true } else e.1)

/-- Entry `i` of queue `n` of a pipeline gets a parity error: 0 to 5 dq0 to dq5, 6 ql, 7 qx, 8 qs, 9 bq, 10 and 11 the east and
west drawbar buffer, 12 the drawbar words on their way; an empty place holds nothing to damage (23 R460). -/
def Pipe.spoil (p : Pipe) (n i : Nat) : Pipe :=
  match n with
  | 6 => { p with q := { p.q with ql := spoilAt p.q.ql i } }
  | 7 => { p with q := { p.q with qx := spoilAt p.q.qx i } }
  | 8 => { p with q := { p.q with qs := spoilAt p.q.qs i } }
  | 9 => { p with q := { p.q with bq := spoilAt p.q.bq i } }
  | 10 => if i < p.q.east.length then { p with q := { p.q with badDb := (true, i) :: p.q.badDb } } else p
  | 11 => if i < p.q.west.length then { p with q := { p.q with badDb := (false, i) :: p.q.badDb } } else p
  | 12 => (match p.q.dbIn[i]? with
    | some e => { p with q := { p.q with badIn := (e.1, e.2.1) :: p.q.badIn } }
    | none => p)
  | n => if n < 6 then p.setDq n (spoilAt (p.dqueue n) i) else p

/-- An uncorrectable error strikes place `a` of a unit of pipeline `g` that `n` names: 0 the tensor SRAM (a granule of 8 bytes),
1 the accumulator store (row × 24 + a granule of 8 bytes), 2 to 5 the instruction memory of C, L, X and S (two words), 6 the
coefficient memory (a granule of 8 bytes), 7 the registers (by number), 8 the queues (queue × 16 + entry), 9 operand latch A
(a row), 10 the nest's tables and the B staging buffer (`Matrix.badNest`) (23 R460). -/
def Pipe.strike (p : Pipe) (n a : Nat) : Pipe :=
  let word := fun (k : StreamKind) => p.setSeq k { p.seq k with bad := a :: (p.seq k).bad }
  match n with
  | 0 => { p with mem := { p.mem with bad := a :: p.mem.bad } }
  | 1 => { p with mx := { p.mx with badRows := a :: p.mx.badRows } }
  | 2 => word .c
  | 3 => word .l
  | 4 => word .x
  | 5 => word .s
  | 6 => { p with mem := { p.mem with badCoef := a :: p.mem.badCoef } }
  | 7 => { p with regs := { p.regs with parity := a :: p.regs.parity } }
  | 8 => p.spoil (a / 16) (a % 16)
  | 9 => { p with mx := { p.mx with badLatch := a :: p.mx.badLatch } }
  | 10 => if a < 193 then { p with mx := { p.mx with badNest := a :: p.mx.badNest } } else p
  | _ => p

/-- An uncorrectable error strikes place `a` of unit `u` (23 R460): below 8192 unit `u / 512` of pipeline `u % 512`
(`Pipe.strike`); from 8192 the scratchpad of gig `u − 8192` (8 bytes), from 9216 the post board of die `u − 9216` (a slot), from
9232 the livery tables of stack `u − 9232` (`Pool.bad`); 9240 HBM (32 bytes), 9241 a relay word and 9242 a link word on its
way; from 9248 entry `a` of the cached translations, where it lies in a TLB array of die `u − 9248`; from 10240 register `a` and from
14336 message `a` of the queue of thread `u % 4096` of a running context. -/
def State.strike (s : State) (u a : Nat) : State :=
  if u < 8192 then s.onPipe (u % 512) (fun p => p.strike (u / 512) a)
  else if u < 9216 then s.onGig (u - 8192) (fun g => { g with bad := a :: g.bad })
  else if u < 9232 then s.onDie (u - 9216) (fun x => { x with badPost := a :: x.badPost })
  else if u < 9240 then s.spoilLivery (u - 9232) a
  else if u = 9240 then { s with bad := a :: s.bad }
  else if u = 9241 then { s with words := s.words.zipIdx.map (fun e => if e.2 = a then { e.1 with bad := true } else e.1) }
  else if u = 9242 then { s with linkWords := s.linkWords.zipIdx.map (fun e => if e.2 = a then { e.1 with bad := true } else e.1) }
  else if 9248 ≤ u ∧ u < 9264 then
    { s with tlb := s.tlb.zipIdx.map (fun e => if e.2 = a ∧ e.1.place.die = u - 9248 then { e.1 with bad := true } else e.1) }
  else if 10240 ≤ u ∧ u < 14336 then
    s.onThread (u - 10240) (fun th => if 0 < a ∧ a < 32 then { th with odd := a :: th.odd } else th)
  else if 14336 ≤ u ∧ u < 18432 then
    s.onThread (u - 14336) (fun th => { th with inbox := th.inbox.zipIdx.map (fun e =>
      if e.2 = a then { e.1 with bad := true } else e.1) })
  else s

/-- The unit that a correction or an error at place `a` of unit `u` is counted for; a livery's tables and the TLB arrays are memories
of their die (01 R14), parity corrects nothing, and a flit is corrected by being sent again (23 R460, R461). -/
def eccSource (u a : Nat) : Option BoxSource :=
  if u < 3584 then some (.pipe (u % 512))
  else if u < 8192 then none
  else if u < 9216 then some (.gig (u - 8192))
  else if u < 9232 then some (.die (u - 9216))
  else if u < 9240 then some (.die (dieOfStack (u - 9232)))
  else if u = 9240 then some (.stack (stackOf (a * 32)))
  else if 9248 ≤ u ∧ u < 9264 then some (.die (u - 9248))
  else none

/-- Firmware may scrub unit `u` now: HBM always, tensor SRAM and the accumulator store while no timed launch of the partition
runs or while it is frozen (23 R462), and a complex must be active (24 R469). -/
def State.mayScrub (s : State) (u : Nat) : Bool :=
  s.fw.active && (decide (u = 9240) || (decide (u < 1024) && (match s.partOf (dieOfPipe (u % 512)) with
    | none => true
    | some k => (match (s.part k).run.phase with
      | .loading => false
      | .running => false
      | .restarting => false
      | _ => true))))

/-- SCRUB: at place `a` of unit `u` (`State.strike`) a correctable error, met by a read or by scrubbing, is corrected, or,
with `bad`, scrubbing finds an uncorrectable one (23 R460 to R463). -/
def execScrub (u a : Nat) (bad : Bool) (s : State) : Out :=
  match eccSource u a with
  | none => .next s
  | some b =>
    .next (if bad then (if s.mayScrub u then (s.strike u a).countUnc b else s) else s.countCor b)

/-! ### Relay words (05 R168, R169; 09 R276, R281) -/

/-- The skew σ = ta − tr as a signed number. -/
def skew (ta tr : Tick) : Int := (ta - tr).toInt

/-- How many cycles the die has held where its latest one was held by a brake or by a turnpike delay (09 R289). -/
def Die.inHold (x : Die) : Option Nat :=
  match x.delay with
  | some h => some h
  | none => if x.heldAt = x.atk + 1 ∧ x.held ≠ 0 then some x.held else none

/-- WORD_ARRIVAL: each relay word whose landing cycle die `d`, its sender, now runs arrives at its target's die; within
the window it is kept for its landing cycle, outside it is a LINK slip there (09 R281). -/
def execWordArrival (d : Nat) (s : State) : Out :=
  let now := s.now d
  let mine := fun (w : RelayWord) => decide (dieOfPipe w.src = d) && decide (w.ta = now) && !w.judged && !w.slipped
  let due := s.words.filter mine
  let sig := fun (w : RelayWord) => skew w.ta (s.now (dieOfPipe w.dst))
  let ok := fun (w : RelayWord) => decide (-6 ≤ sig w) && decide (sig w ≤ 6) && Tick.lt (s.now (dieOfPipe w.dst)) w.ta
  let s1 : State := { s with words := s.words.map (fun w =>
    if mine w then (if ok w then { w with judged := true } else { w with slipped := true }) else w) }
  .next ((due.filter (fun w => !(ok w))).foldl (fun s w =>
    let e := dieOfPipe w.dst
    let s2 := s.record w.dst [{ cause := causeLink, stream := 0, pc := 0, detail := 0, info := BitVec.ofInt 32 (sig w) }]
    -- a receiving die that stands at fe detects nothing; one whose cycle has not ended in the pipeline yet does so there;
    -- for any other the slip belongs to its latest cycle, which it ran or held
    if (s.part (s.partOfPipe w.dst)).run.frozenDies.contains e then s
    else if (s.die e).work.contains (.endPipe w.dst) then s2
    else match (s.die e).inHold with
      | some h => s2.conclude w.dst (s.now e + 1) (some (h + 31))
      | none => s2.conclude w.dst (s.now e) none) s1)

/-- A relay word lands now: it was judged, or its sender, not yet there, is at most 6 cycles behind (09 R281). -/
def State.landsNow (s : State) (w : RelayWord) (now : Tick) : Bool :=
  decide (w.ta = now) && !w.slipped && (w.judged || decide (skew now (s.now (dieOfPipe w.src)) ≤ 6))

/-- The uncorrectable error that a landing word holds (23 R463; 09 R487). -/
def landEcc (bad : Bool) (off : Nat) : List Det :=
  if bad then [{ cause := causeEcc, stream := 0, pc := 0, detail := 0, info := BitVec.ofNat 32 off }] else []

/-- A relay word lands in its target, or slips there (05 R150, R151; 23 R463). -/
def State.landWord (s : State) (w : RelayWord) : State :=
  let slips := s.bankSlips w.dst 0 0 w.off 256 ++ landEcc w.bad w.off
  if slips.isEmpty then s.onPipe w.dst (fun p => p.land 1 w.src w.off (toBytes 256 w.data.toNat)) else s.record w.dst slips

/-- RELAY_LANDING: the relay words for pipeline `g` due in this cycle land, that of the lowest sender last
(05 R150, R151, R168, R169; 23 R463). DESIGN CHOICE (log 87): of two words of one sender that reach the same bytes the one that
issued later prevails. -/
def execRelayLanding (g : Nat) (s : State) : Out :=
  let now := s.now (dieOfPipe g)
  let mine := fun (w : RelayWord) => decide (w.dst = g) && s.landsNow w now
  let due := sortBy (fun a b => decide (b.src ≤ a.src)) (s.words.filter mine)
  let s1 : State := { s with words := s.words.filter (fun w => !(mine w)) }
  .next (due.foldl State.landWord s1)

/-- The uses of one boundary direction in the four cycles that end at `now`, in the order in which they are counted. -/
def windowUses (us : List ChanUse) (dir : Nat) (now : Tick) : List ChanUse :=
  sortBy (fun a b => Tick.lt a.enter b.enter || (decide (a.enter = b.enter) && decide (a.g ≤ b.g)))
    (us.filter (fun u => decide (u.dir = dir) && decide ((now - u.enter).toNat < 4)))

/-- In the cycle `t`, the fourth of a window, the sender on die `d` of the first word beyond TCH in some direction records
the slip (09 R276): with the detections of the cycle that its die runs, or, where that die has already run `t`, apart from
them. -/
def State.windowSlips (s : State) (d : Nat) (us : List ChanUse) (t : Tick) : State :=
  ((us.map (fun u => u.dir)).eraseDups).foldl (fun s dir =>
    match (windowUses us dir t)[s.fw.tch.toNat]? with
    | some u =>
      if dieOfPipe u.g = d then
        let det : Det := { cause := causeToken, stream := 3, pc := u.pc, detail := 57, info := 0 }
        if t = s.now d then s.record u.g [det] else s.concludeApart u.g t [det]
      else s
    | none => s) s

/-- The last cycle for which every die of partition `k` has sent the words that may enter a boundary by then: a word
enters its first boundary 4 cycles after its issue (09 R276). -/
def State.sentUpTo (s : State) (k : Nat) (now : Tick) : Tick :=
  (s.part k).dies.foldl (fun t e => if Tick.lt (s.now e + 3) t then s.now e + 3 else t) now

/-- The windows that die `d` has not judged yet are judged, up to the one that ends in the cycle `last`. -/
def State.judgeWindows (s : State) (d : Nat) (last : Tick) : State :=
  let x := s.die d
  if Tick.lt x.chanDone last then
    let us := (s.part ((s.partOf d).getD 0)).dies.flatMap (fun e => (s.die e).chan)
    let s1 := if us.isEmpty then s else
      (List.range (last - x.chanDone).toNat).foldl (fun s i => s.windowSlips d us (x.chanDone + 1 + BitVec.ofNat 64 i)) s
    s1.onDie d (fun y => { y with chanDone := last })
  else s

/-- BOUNDARY_CHANNEL_OVERFLOW: the windows of four cycles that die `d` has not judged yet, up to the latest of which every
die has sent its words, are judged (09 R276; log 1). -/
def execBoundaryChannelOverflow (d : Nat) (s : State) : Out :=
  .next (s.judgeWindows d (s.sentUpTo ((s.partOf d).getD 0) (s.now d)))

/-- DRAWBAR_ARRIVAL: at the end of its cycle a word enters the receive buffer of pipeline `g`; a buffer that held four
words at the start of the cycle is a TOKEN slip and the word is lost (01 R24, R28; 07 R213, R214). -/
def execDrawbarArrival (g : Nat) (s : State) : Out :=
  let now := s.now (dieOfPipe g)
  .next (s.onPipe g (fun p =>
    let due := p.q.dbIn.filter (fun e => decide (e.1 = now))
    let p1 : Pipe := { p with q := { p.q with dbIn := p.q.dbIn.filter (fun e => !(decide (e.1 = now))),
                                              badIn := p.q.badIn.filter (fun e => !(decide (e.1 = now))) } }
    due.foldl (fun (q : Pipe) e =>
      let full := if e.2.1 then decide (4 ≤ p.q.east.length + p.cyc.popE) else decide (4 ≤ p.q.west.length + p.cyc.popW)
      if full then
        q.detect [{ cause := causeToken, stream := 2, pc := 0, detail := if e.2.1 then 28 else 29, info := 0 }]
      else
        let bad := if p.q.badIn.contains (e.1, e.2.1) then [(e.2.1, if e.2.1 then q.q.east.length else q.q.west.length)] else []
        if e.2.1 then { q with q := { q.q with east := q.q.east ++ [e.2.2], badDb := q.q.badDb ++ bad } }
        else { q with q := { q.q with west := q.q.west ++ [e.2.2], badDb := q.q.badDb ++ bad } }) p1))

/-! ### The link plan (22 R451, R452) -/

/-- The pipeline and offset of a timed global tensor address (01 R37): die [31:28], pipeline [27:23], offset [22:0]. -/
def globalPipe (a : Nat) : Nat := a / 2 ^ 28 % 16 * 32 + a / 2 ^ 23 % 32

/-- Entry `e` of a link plan has an occurrence at τ `t`. -/
def linkOcc (e : List Word) (t : Nat) : Bool :=
  let start := (wordAt e 0).toNat
  let per := bitsOf (wordAt e 3) 63 32
  let rep := bitsOf (wordAt e 3) 31 0
  decide (start ≤ t) && (if per = 0 then decide (t = start) else decide ((t - start) % per = 0) && decide ((t - start) / per < rep))

/-- LINK_PLAN_READ: entry `j` of partition `k`'s plan, where its link joins a member here, reads 256 bytes at its source in
this cycle and sends them to the package across its link (22 R452). -/
def execLinkPlanRead (k j : Nat) (s : State) : Out :=
  let run := (s.part k).run
  match run.links[j]? with
  | none => .next s
  | some e =>
    let src := bitsOf (wordAt e 1) 31 0
    let g := globalPipe src
    if linkOcc e (run.tau (s.now (dieOfPipe g))) && s.fw.lup.getLsbD (bitsOf (wordAt e 1) 34 32) then
      let slips := s.bankSlips g 0 0 (src % 2 ^ 23) 256 ++ s.eccSlips g 0 0 (src % 2 ^ 23) 256
      .next (if slips.isEmpty then s.onPipe g (fun p => p.charge 256) else s.record g slips)
    else .next s

/-- The words of partition `k`'s plan that the neighbours read in the cycle `t` of the shared axis set out for die `d`: each
neighbour runs the same plan. Data and skew at arrival, which is at the earliest now, are free (22 R449, R450, R452). -/
def State.linkSendsAt (s : State) (k d : Nat) (t : Tick) (go : Nat → Bool) : State :=
  let run := (s.part k).run
  run.links.foldl (fun s e =>
    let l := bitsOf (wordAt e 1) 34 32
    let dst := bitsOf (wordAt e 2) 31 0
    if dieOfPipe (globalPipe dst) = d ∧ s.fw.lup.getLsbD ((l + 3) % 6) = true ∧ linkOcc e (run.tau t) = true ∧ go l = true then
      { s with free := s.free + 2,
               linkWords := s.linkWords ++ [{ link := l, dst := dst, data := BitVec.ofNat 2048 s.freeVal, ta := t + 640,
                                              skew := 639 - ((Config.freeNat (s.free + 1) % 2 ^ 31 : Nat) : Int) }] }
    else s) s

/-- The words that the neighbours of die `d` read in this cycle set out, but for those that went to a siding at a freeze
(22 R452, R454). -/
def State.linkSends (s : State) (k d : Nat) : State :=
  let now := s.now d
  s.linkSendsAt k d now (fun l => match (s.part k).run.linkUpto.find? (fun e => e.1 == l) with
    | none => true
    | some e => Tick.le e.2 now)

/-- A link word arrives within its window (22 R450). -/
def LinkWord.inWindow (w : LinkWord) : Bool := decide (-32 ≤ w.skew) && decide (w.skew ≤ 32)

/-- The link words for die `d` of partition `k` that arrive in this cycle outside their window are LINK slips at their
pipelines (22 R450; 09 R281). -/
def State.linkSlips (s : State) (k d : Nat) : State :=
  let now := s.now d
  let hit := fun (w : LinkWord) => decide (dieOfPipe (globalPipe w.dst) = d) && !(w.inWindow) && !w.slipped &&
    decide (w.ta - BitVec.ofInt 64 w.skew = now) && (s.part k).hasDie d
  (s.linkWords.filter hit).foldl (fun s w =>
    s.record (globalPipe w.dst) [{ cause := causeLink, stream := 0, pc := 0, detail := 0, info := BitVec.ofInt 32 w.skew }])
    { s with linkWords := s.linkWords.map (fun w => if hit w then { w with slipped := true } else w) }

/-- LINK_PLAN_LANDING: word `j` among those that have come over the links lands in its pipeline of partition `k` in this
cycle (05 R150; 22 R452). -/
def execLinkPlanLanding (k j : Nat) (s : State) : Out :=
  match s.linkWords[j]? with
  | none => .next s
  | some w =>
    let g := globalPipe w.dst
    let now := s.now (dieOfPipe g)
    if w.ta = now ∧ w.inWindow = true ∧ (s.part k).hasDie (dieOfPipe g) = true then
      let s1 : State := { s with linkWords := s.linkWords.eraseIdx j }
      let off := w.dst % 2 ^ 23
      let slips := s.bankSlips g 0 0 off 256 ++ landEcc w.bad off
      .next (if slips.isEmpty then s1.onPipe g (fun p => p.land 2 w.link off (toBytes 256 w.data.toNat)) else s1.record g slips)
    else .next s

end Sys2Proof.Machine
end

