-- ==== Sys2Proof/Machine/Hold.lean ====
section
/-! DEFINITION. What holds a die's cycle back: freezes, brakes, alignments, turnpike delays and the pace of a domain; the
sideband, settle cycles and allowances (04 R123 to R126; 09 R280, R289; 10 R299 to R305; 22 R447, R450, R455;
25 R479, R480, R482). -/
namespace Sys2Proof.Machine

/-! ### The sideband (04 R123; 09 R280; 22 R447) -/

/-- The anchor die of a timed package link (22 Table 22-1). -/
def anchorDie (l : Nat) : Nat := [4, 0, 8, 7, 3, 11].getD l 0

/-- The links of this package that join a member of its domain and end at die `d`. -/
def State.linksAt (s : State) (d : Nat) : List Nat :=
  (List.range 6).filter (fun l => s.fw.lup.getLsbD l && decide (anchorDie l = d))

/-- The neighbours of die `d` in its partition. -/
def State.near (s : State) (d : Nat) : List Nat :=
  match s.partOf d with
  | none => []
  | some k => (neighbours d).filter (s.part k).hasDie

/-- SIDEBAND_ATK: die `d` receives the ATK that the die `n` beside it carried 12 cycles before the cycle that die `n` takes
next; from 16 up, `n` names a package link, whose value is free (01 R32; 09 R280; 22 R447). -/
def execSidebandAtk (d n : Nat) (s : State) : Out :=
  if n < 16 then
    match (s.die n).sent[11]? with
    | some a => .next (if (neighbours d).contains n then s.onDie d (fun x => { x with obs := x.obs.set n a }) else s)
    | none => .next s
  else if (s.linksAt d).contains (n - 16) then
    .next (s.drawn.onDie d (fun x => { x with obs := x.obs.set n (BitVec.ofNat 64 s.freeVal) }))
  else .next s

/-- No neighbour holds die `d` back from the cycle `n`: it does not exceed an observed ATK by more than its λ (04 R124). -/
def State.inStep (s : State) (d : Nat) (n : Tick) : Bool :=
  let x := s.die d
  (s.near d).all (fun e => Tick.le n (x.obs.get e 0 + 12)) &&
  (s.linksAt d).all (fun l => Tick.le n (x.obs.get (16 + l) 0 + 400))

/-! ### Allowances (25 R479, R480) -/

/-- A change applied. -/
def Die.allow (x : Die) (ta lb : Nat) : Die := { x with ta := ta, lb := lb }

/-- The changes that hold in the cycle `n`, or by held cycle `h`, are applied in order (25 R480). -/
def Die.applyChanges (x : Die) (due : Tick × Bool × Nat × Nat → Bool) : Die :=
  (x.changes.filter due).foldl (fun y c => y.allow c.2.2.1 c.2.2.2) { x with changes := x.changes.filter (fun c => !(due c)) }

/-- A change due at the start of the cycle `n`. -/
def dueAt (n : Tick) (c : Tick × Bool × Nat × Nat) : Bool := !c.2.1 && Tick.le c.1 n
/-- The changes of die `d` that hold in the cycle whose ATK it carries are applied (25 R480). -/
def State.allowanceDue (s : State) (d : Nat) : State := s.onDie d (fun x => x.applyChanges (dueAt x.atk))
/-- A change due at the start of held cycle `h`. -/
def dueHeld (h : Nat) (c : Tick × Bool × Nat × Nat) : Bool := c.2.1 && decide (c.1.toNat ≤ h)

/-- TA of a die at the start of the cycle `n`, and of its held cycle `h`. -/
def Die.taAt (x : Die) (n : Tick) (h : Nat) : Nat := (x.applyChanges (fun c => dueAt n c || dueHeld h c)).ta

/-- A stage of this launch exceeds an allowance of `ta` watts (25 R481). -/
def TimedRun.exceeds (r : TimedRun) (ta : Nat) : Bool := r.stages.any (fun e => decide (ta < 4 * e.pclass))

/-- An allowance below a stage's class asks for a freeze at the next STAGE in a domain of several packages (22 R450). -/
def State.turnpikeFreeze (s : State) (k ta : Nat) : State :=
  let r := (s.part k).run
  if s.fw.inDomain && r.exceeds ta && (decide (r.phase = .running) || decide (r.phase = .restarting)) &&
      !(r.ext.any (fun e => decide (e.who = 0xFFFFFFFE))) then
    s.onRun k (fun r => { r with ext := r.ext ++ [{ who := 0xFFFFFFFE, stg := true, arrived := true }] })
  else s

/-- A change is sent to partition `k`: carried with an ATK at least 64 ahead, or, in a turnpike delay, on the hold line
(25 R480). -/
def State.sendChange (s : State) (k ta lb : Nat) : State :=
  let ds := (s.part k).dies
  let x := s.die (ds.headD 0)
  let c : Tick × Bool × Nat × Nat := match x.delay with
    | some h => (BitVec.ofNat 64 (h + 31), true, ta, lb)
    | none => (x.atk + 64 + BitVec.ofNat 64 (s.freeVal % 2 ^ 62), false, ta, lb)
  ds.foldl (fun s d => s.onDie d (fun x => { x with changes := x.changes ++ [c] })) s.drawn

/-- ALLOWANCE_CHANGE: firmware, where a complex is active (24 R469), changes TA and LB of die `d` and of every die of its partition
(25 R480). A die of no partition takes the change at once. -/
def execAllowanceChange (d ta lb : Nat) (s : State) : Out :=
  .next (if s.fw.active then (match s.partOf d with
    | none => s.onDie d (fun x => x.allow ta lb)
    | some k => s.sendChange k ta lb)
  else s)

/-- POWER_CAP: the BMC sets a cap, and firmware, where a complex is active (24 R469), splits it; the split of a lower one is free
(25 R479). -/
def execPowerCap (watts : Nat) (s : State) : Out :=
  let s1 : State := { s with fw := { s.fw with capWatts := Nat.min watts 2800 } }
  .next ((if s.fw.active then List.range 16 else []).foldl (fun s d =>
    let ta := if 2800 ≤ watts then 60 else s.freeVal % 61
    let lb := if 2800 ≤ watts then 268435456 else Config.freeNat (s.free + 1) % 268435457
    let s2 : State := { s with free := s.free + 2 }
    match s2.partOf d with
    | none => s2.onDie d (fun x => x.allow ta lb)
    | some k => if (s2.part k).dies.headD 0 = d then s2.sendChange k ta lb else s2) s1)

/-! ### Turnpike delays (25 R482) -/

/-- The delay count of a die with allowance `ta`; none is unbounded. -/
def delayCount (need ta : Nat) : Option Nat :=
  if need ≤ ta then some 0 else if ta = 0 then none else some ((need + ta - 1) / ta - 1)

/-- The largest count over dies; none is unbounded. -/
def largestCount (l : List (Option Nat)) : Option Nat :=
  l.foldl (fun m n => match m, n with
    | some a, some b => some (Nat.max a b)
    | _, _ => none) (some 0)

/-- A STAGE issues in the cycle `n` on die `d`, which stands before it; one that starts then issues its first word (16 R366). -/
def State.stageDue (s : State) (d : Nat) (n : Tick) : Bool :=
  let r := (s.part ((s.partOf d).getD 0)).run
  let starts := !(r.started.contains d) && decide (n = r.atk0)
  Tick.lt (s.now d) n && (pipesOfDie d).any (fun g =>
    let q := if starts then { (s.pipe g).c with run := true, next := n } else (s.pipe g).c
    q.run && decide (q.issueAt = n) && decide (q.pc < 16384) && !(q.bad.contains (q.pc / 2)) && (match decode .c (q.imem.get q.pc 0) with
      | .ok (.stage _ _) => true
      | _ => false))

/-- The delay that partition `k` makes in the cycle `n` of an occurrence of its stage table, if a STAGE issues in it. -/
def State.stageNeed (s : State) (k : Nat) (n : Tick) : Option DelayRec :=
  let x := s.part k
  let r := x.run
  match stageAt r.stages (r.tau n) with
  | none => none
  | some e =>
    if s.fw.inDomain then none
    else
      let need := 4 * e.pclass
      let ls := stageLength r.stages e (r.tau n)
      match largestCount (x.dies.map (fun d => delayCount need ((s.die d).taAt n 0))) with
      | some 0 => none
      | c => some { at_ := n, ls := ls, need := need, total := c.map (fun m => m * ls) }

/-- The delay that partition `k` makes in the cycle `n`, where a STAGE issues in it. -/
def State.stageDelay (s : State) (k : Nat) (n : Tick) : Option DelayRec :=
  if (s.part k).dies.any (fun d => s.stageDue d n) then s.stageNeed k n else none

/-- An unbounded delay counted anew at the start of held cycle `h` (25 R482). -/
def State.recount (s : State) (k h : Nat) (r : DelayRec) : DelayRec :=
  match r.total with
  | some _ => r
  | none =>
    match largestCount ((s.part k).dies.map (fun d => delayCount r.need ((s.die d).taAt r.at_ h))) with
    | none => r
    | some m => { r with total := some ((Nat.max (m * r.ls) h + r.ls - 1) / r.ls * r.ls) }

/-! ### Brakes (10 R300 to R302, R305) -/

/-- The place on the axis at which the cycle `n` would run on the die if no brake held it back. -/
def Die.dueAxis (x : Die) (n : Tick) : Tick :=
  n + (if x.heldAt = n ∧ x.held ≠ 0 then x.stalled - BitVec.ofNat 64 x.held else x.stalled)

/-- The cycles for which a brake has held the cycle `n` back. -/
def Die.heldOf (x : Die) (n : Tick) : Nat := if x.heldAt = n then x.held else 0

/-- The cycles that the brake of partition `k` holds the cycle `n` of die `d` back: none where no brake starts there, none
within where it is not yet released (10 R300). -/
def State.brakeTotal (s : State) (k d : Nat) (n : Tick) : Option (Option Nat) :=
  ((s.brakeHolds k).find? (fun e => decide (e.closes + 32 = n))).map (fun e => e.release.map (fun t =>
    let due := (s.die d).dueAxis n
    if Tick.le due (t + 32) then (t + 32 - due).toNat else 0))

/-- A post of the opening was missing at the place `t` of the axis, and its close may hold the cycle `n` (10 R302). -/
def LayRec.missingAt (r : LayRec) (t n : Tick) : Bool :=
  r.judged && (r.braking || r.releaseAt.isSome) &&
  (match r.releaseAt with
    | none => true
    | some a => Tick.lt t a) &&
  (match r.closed with
    | none => false
    | some c => Tick.lt c n && Tick.le n (c + 32))

/-- The lowest-numbered layover whose brake passes its limit after `held` held cycles of `n`, as die `d` counts them
(10 R302). -/
def State.pastLimit (s : State) (k d held : Nat) (n : Tick) : Option Nat :=
  let t := (s.die d).axis
  ((s.lays k).find? (fun e => e.2.brake && decide (e.2.limit = held) &&
    (s.part k).dies.any (fun i => match (s.die i).layRec e.1 with
      | some r => r.missingAt t n
      | none => false))).map (fun e => e.1)

/-- Die `d` is the lowest-numbered in the DIES of layover `w` (10 R302). -/
def State.recordsLimit (s : State) (k d w : Nat) : Bool :=
  match layOf (s.lays k) w with
  | none => false
  | some l => decide ((List.range 16).find? (fun i => l.dies.getLsbD i) = some d)

/-! ### What the next cycle of a die is -/

/-- What becomes of a die's next cycle. -/
inductive CycleKind
  /-- no timed launch runs on the die -/
  | idle
  | frozen
  /-- the 32 TICKs after TRESUME -/
  | restart
  /-- held to the pace of the domain (22 R455) -/
  | paced
  /-- it carries fe -/
  | atFreeze
  | brakeStart | brake
  | brakeLimit (w : Nat)
  | align
  | delay
  | run
  deriving DecidableEq, Repr

/-- The freeze of a detection in a held cycle takes effect after `h` held cycles of `n`: true, or false while it is still
to come (09 R289). -/
def TimedRun.heldFreeze (r : TimedRun) (n : Tick) (h : Nat) : Option Bool :=
  match r.feHeld with
  | some m => if r.fe = some n then some (decide (m ≤ h)) else none
  | none => none

/-- What alignment or turnpike makes of the cycle `n` of die `d`, which no brake holds. -/
def State.kindFree (s : State) (k d : Nat) (n : Tick) : CycleKind :=
  let x := s.die d
  let r := (s.part k).run
  let held := match x.align with
    | some a => x.delay.isNone && !(s.inStep d n) && decide (a.held < a.limit)
    | none => false
  if held then .align
  else
    let h := x.delay.getD 0
    let go := match r.heldFreeze n h with
      | some true => CycleKind.atFreeze
      | some false => .delay
      | none => .run
    match r.delay with
    | some e =>
      if e.at_ = n then
        (match (s.recount k (h + 1) e).total with
         | some t => if h < t then (if r.heldFreeze n h = some true then .atFreeze else .delay) else go
         | none => if r.heldFreeze n h = some true then .atFreeze else .delay)
      else if (s.stageDelay k n).isSome then .delay else .run
    | none => if (s.stageDelay k n).isSome then .delay else .run

/-- What becomes of the next cycle of die `d`. -/
def State.nextKind (s : State) (d : Nat) : CycleKind :=
  match s.partOf d with
  | none => .idle
  | some k =>
    let x := s.die d
    let r := (s.part k).run
    let n := x.atk + 1
    if r.phase = .none ∨ r.phase = .complete then .idle
    else if r.started.contains d = false then (if n = r.atk0 then s.kindFree k d n else .idle)
    else if r.frozenDies.contains d then (if x.restart.isSome then .restart else .frozen)
    else if r.fe = some n ∧ r.feHeld = none then .atFreeze
    else if r.paced && !((s.part k).dies.all (fun e =>
        (s.linksAt e).all (fun l => Tick.le n ((s.die e).obs.get (16 + l) 0 + 400)))) then .paced
    else
      let h := x.heldOf n
      let at_ : CycleKind :=
        if r.heldFreeze n h = some true then .atFreeze
        else if h = 0 then .brakeStart
        else match s.pastLimit k d h n with
          | some w => if s.recordsLimit k d w then .brakeLimit w else .brake
          | none => .brake
      if x.heldAt = n ∧ x.holdDone = true then s.kindFree k d n
      else match s.brakeTotal k d n with
      | some none => at_
      | some (some t) =>
        if h < t ∨ (0 < h ∧ (r.heldFreeze n h).isSome = true) then at_ else s.kindFree k d n
      | none => s.kindFree k d n

/-! ### Cycles that do not run -/

/-- A cycle of the die's clock: TICK grows, and ABSORBED with it where no cycle runs (01 R30; 09 R280). -/
def Die.tickOn (x : Die) (held : Bool) : Die :=
  let y : Die := { x with tick := x.tick + 1, absorbed := if held then x.absorbed + 1 else x.absorbed }
  { y with sent := (y.atk :: y.sent).take 12, posted := [] }

/-- The observations of die `d` are brought up to date. -/
def State.observe (s : State) (d : Nat) : State :=
  (neighbours d).foldl (fun s n => match execSidebandAtk d n s with
    | .next t => t
    | _ => s) s

/-- A cycle of die `d` in which nothing issues. -/
def State.holdCycle (s : State) (d : Nat) : State := s.onDie d (fun x => x.tickOn true)

/-- A held cycle of a brake: the count of the hold grows (10 R300, R302). -/
def Die.brakeCycle (x : Die) : Die :=
  let n := x.atk + 1
  let y : Die := { x with stalled := x.stalled + 1 }
  if x.heldAt = n ∧ x.held ≠ 0 then { y with held := x.held + 1 }
  else { y with heldAt := n, held := 1, holdDone := false }

/-- BRAKE_HOLD_START: the first cycle that a brake holds (10 R300). -/
def execBrakeHoldStart (d : Nat) (s : State) : Out :=
  .next (if s.nextKind d = .brakeStart then (s.onDie d Die.brakeCycle).holdCycle d else s)

/-- BRAKE_LIMIT: held cycle LIMIT + 1 detects the fault (10 R302; 09 R289, R487). -/
def execBrakeLimit (d : Nat) (s : State) : Out :=
  .next (match s.nextKind d with
  | .brakeLimit w =>
    let k := (s.partOf d).getD 0
    let x := s.die d
    let l := (layOf (s.lays k) w).getD (LayDesc.ofWords [])
    let q := ((List.range 32).find? (fun i => l.pipes.getLsbD i)).getD 0
    let r := (x.layRec w).getD { opened := 0 }
    let s1 := (s.onDie d Die.brakeCycle).holdCycle d
    let s2 := s1.record (d * 32 + q)
      [{ cause := causeBrakeLimit, stream := 0, pc := r.closePc, detail := 0, info := BitVec.ofNat 32 w }]
    s2.conclude (d * 32 + q) (s1.now d + 1) (some (x.held + 32))
  | _ => s)

/-- BRAKE_RELEASE: the hold of the cycle that is next to run on die `d` has lasted its whole time, and the brake ends
(10 R300). -/
def execBrakeRelease (d : Nat) (s : State) : Out :=
  let x := s.die d
  let isOver := match s.brakeTotal ((s.partOf d).getD 0) d (x.atk + 1) with
    | some (some t) => decide (t ≤ x.held)
    | some none => false
    | none => true
  let r := (s.part ((s.partOf d).getD 0)).run
  .next (if x.heldAt = x.atk + 1 ∧ x.held ≠ 0 ∧ isOver = true ∧ r.frozenDies.contains d = false ∧
      (r.heldFreeze (x.atk + 1) x.held).isNone = true then
    s.onDie d (fun x => { x with holdDone := true })
  else s)

/-- ALIGN_RELEASE: no neighbour holds the die back any more, and its alignment ends (04 R124). -/
def execAlignRelease (d : Nat) (s : State) : Out :=
  let x := s.die d
  .next (if x.align.isSome && decide (s.nextKind d = .run) && s.inStep d (x.atk + 1) then
    s.onDie d (fun x => { x with align := none })
  else s)

/-- ALIGN_SLIP: the held count stands at the limit, and the cycle, which runs, detects the slip (04 R124, R125). It is
recorded with the detections of that cycle. -/
def execAlignSlip (d : Nat) (s : State) : Out :=
  let x := s.die d
  .next (match x.align with
  | some a =>
    if s.nextKind d = .run ∧ s.inStep d (x.atk + 1) = false ∧ a.held = a.limit then
      (s.onDie d (fun x => { x with align := none })).record a.pipe
        [{ cause := causeAlign, stream := 0, pc := a.pc, detail := 0, info := BitVec.ofNat 32 a.limit }]
    else s
  | none => s)

/-- A cycle that an alignment holds (04 R124). -/
def State.alignCycle (s : State) (d : Nat) : State :=
  (s.onDie d (fun x => { x with align := x.align.map (fun a => { a with held := a.held + 1 }) })).holdCycle d

/-- A cycle that the turnpike holds: the delay is fixed by the first die that reaches it, changes of its number are
applied, and an unbounded one is counted anew (25 R480, R482). -/
def State.delayCycle (s : State) (d : Nat) : State :=
  let k := (s.partOf d).getD 0
  let n := s.now d + 1
  let h := (s.die d).delay.getD 0 + 1
  let s1 := match (s.part k).run.delay with
    | some e => if e.at_ = n then s.onRun k (fun r => { r with delay := some (s.recount k h e) })
        else s.onRun k (fun r => { r with delay := s.stageDelay k n })
    | none => s.onRun k (fun r => { r with delay := s.stageDelay k n })
  let done := s1.inStep d n
  (s1.onDie d (fun x => { x.applyChanges (fun c => dueAt n c || dueHeld h c) with
    delay := some h, stalled := x.stalled + 1, align := if done then none else x.align })).holdCycle d

/-- TURNPIKE_DELAY_END: the delay has held its whole number of stage lengths, and the STAGE's cycle runs (25 R482).
Changes that the hold line still carries are applied. -/
def execTurnpikeDelayEnd (d : Nat) (s : State) : Out :=
  .next (if (s.die d).delay.isSome && decide (s.nextKind d = .run) then
    s.onDie d (fun x => { x.applyChanges (fun c => c.2.1) with delay := none })
  else s)

/-- A brake's record when die `x` restarts (10 R305): where its hold is under way and no post is missing, it is released 32
cycles later; another's release keeps its TICK, which the frozen time, `gone` places of the axis, has not moved along it. -/
def LayRec.restarted (r : LayRec) (x : Die) (gone : Tick) : LayRec :=
  if x.underHold r then { r with releaseAt := r.releaseAt.map (fun _ => x.axis + 1), waits := false, overAt := none }
  else if r.waits then
    { r with releaseAt := r.releaseAt.map (fun t => t - gone), waits := false, overAt := some (x.axis + 1) }
  else r

/-- RESTART: the cycle carrying fe is next to run on die `d`, whose ATK then is fe. A brake whose hold is under way goes on
with its count (19 R411; 10 R305). -/
def execRestart (d : Nat) (s : State) : Out :=
  let x := s.die d
  if x.restart = some 0 then
    let k := (s.partOf d).getD 0
    let y : Die := { x with restart := none, atFe := false, absorbed := if x.atFe then x.absorbed + 1 else x.absorbed }
    let gone : Tick := x.tick - x.feTick + (if x.atFe then 1 else 0)
    let z : Die := { y with lays := y.lays.map (fun e => (e.1, e.2.restarted y gone)) }
    let s1 := (s.setDie d z).onRun k (fun r =>
      let left := r.frozenDies.filter (fun e => !(e == d))
      { r with frozenDies := left, phase := if left.isEmpty && decide (r.phase = .restarting) then .running else r.phase })
    .next s1
  else .next s

/-- LAYOVER_SETTLE: the layovers of die `d` whose settle cycle this is are settled and signalled (10 R299, R303). -/
def execLayoverSettle (d : Nat) (s : State) : Out :=
  let x := s.die d
  let ls := s.lays ((s.partOf d).getD 0)
  .next (ls.foldl (fun s e =>
    match x.layRec e.1 with
    | some r =>
      if r.settled = false ∧ r.closed.isSome = true ∧ r.unsettled e.2 x.atk = false then
        let s1 := s.onDie d (fun y => { y with lays := y.lays.set e.1 { r with settled := true } })
        if e.2.nsen && e.2.dies.getLsbD d then
          { s1 with evs := s1.evs ++ [{ kind := .notice, coach := e.2.ncoach, line := e.2.nsettle, lid := 0, src := 0, srcBar := 0 }] }
        else s1
      else s
    | none => s) s)

end Sys2Proof.Machine
end

