-- ==== Sys2Proof/Machine/Engine.lean ====
section
/-! DEFINITION. A cycle of a die: what begins it, the issue of its words, and what ends it (03 R72, R74, R76; 05 R149,
R150, R154, R170; 09 R266, R276, R286; 16 R366; 19 R411). The order of the pieces within a cycle is the model's own
(log 1). -/
namespace Sys2Proof.Machine

/-- The state after a piece of a cycle that answers a next state. -/
def State.by (s : State) (f : State → Out) : State :=
  match f s with
  | .next t => t
  | _ => s

/-! ### GATH (05 R154) -/

/-- The address of row `r` of a GATH, none for a row of zeros. -/
def GathOp.rowAddr (o : GathOp) (r : Nat) : Option Int :=
  let i := o.idx.getD r (-1)
  if i = -1 then none else some (o.base + i * o.stride)

/-- An index of a GATH is negative but for −1, or its row lies outside tensor SRAM (05 R154). -/
def GathOp.bad (o : GathOp) : Bool :=
  (List.range 64).any (fun r => decide (o.idx.getD r (-1) < -1) || (match o.rowAddr r with
    | none => false
    | some a => !(inTensor a 64)))

/-- A detection by a GATH in flight. -/
def GathOp.det (o : GathOp) (cause : Nat) : Det := { cause := cause, stream := 1, pc := o.pc, detail := 0, info := 0 }

/-- Cycle issue + 1 + k of a GATH of pipeline `g`: its indices are judged, and its rows 8k to 8k + 7 are read. -/
def State.gathRows (s : State) (g : Nat) (o : GathOp) : State :=
  let now := s.now (dieOfPipe g)
  let k := (now - o.issue).toNat - 1
  let p := s.pipe g
  let drop := fun (p : Pipe) => { p with fly := { p.fly with gath := p.fly.gath.filter (fun q => !(decide (q.issue = o.issue))) } }
  let rs := (List.range 8).map (fun i => o.rowAddr (8 * k + i))
  let slips := (if k = 0 ∧ o.bad = true then [o.det causeIllOp] else []) ++ rs.flatMap (fun r => match r with
    | none => []
    | some a => if inTensor a 64 then s.bankSlips g 1 o.pc a.toNat 64 ++ s.eccSlips g 1 o.pc a.toNat 64 else [])
  if slips.isEmpty = false then s.setPipe g ((drop p).detect slips)
  else
    let rows := rs.map (fun r => match r with
      | none => (0 : BitVec 512)
      | some a => BitVec.ofNat 512 (p.mem.sram.readLE a.toNat 64))
    let o' : GathOp := { o with rows := o.rows ++ rows }
    let q : Pipe := { p.charge 512 with cyc := { (p.charge 512).cyc with rdPc := o.pc } }
    if k = 7 then s.setPipe g ((drop q).produce .l o.issue 12 (.latch o'.rows) 0)
    else s.setPipe g { q with fly := { q.fly with gath := q.fly.gath.map (fun e => if e.issue = o.issue then o' else e) } }

/-- The GATHs in flight of pipeline `g` do their part of this cycle. -/
def State.gathStep (s : State) (g : Nat) : State :=
  (s.pipe g).fly.gath.foldl (fun s o =>
    if s.now (dieOfPipe g) = o.issue + 1 + BitVec.ofNat 64 (o.rows.length / 8) then s.gathRows g o else s) s

/-! ### The start of a cycle -/

/-- Later cycles of a K-step charge the read port as its first does (06 R180). -/
def State.nestCharge (s : State) (g : Nat) : State :=
  let x := (s.pipe g).mx.nest
  if x.go && decide (0 < x.n) && Tick.lt (s.now (dieOfPipe g)) x.at_ then s.onPipe g (fun p => p.charge x.load) else s

/-- The link words that land in die `d` in this cycle land, that of the lowest link last (05 R150; 22 R452). -/
def State.linkLandings (s : State) (k d : Nat) : State :=
  [5, 4, 3, 2, 1, 0].foldl (fun s l =>
    (List.range s.linkWords.length).reverse.foldl (fun s j =>
      match s.linkWords[j]? with
      | some w => if w.link = l ∧ dieOfPipe (globalPipe w.dst) = d then s.by (execLinkPlanLanding k j) else s
      | none => s) s) s

/-- The link plan reads of die `d` in this cycle. -/
def State.linkReads (s : State) (k d : Nat) : State :=
  (List.range (s.part k).run.links.length).foldl (fun s j =>
    match (s.part k).run.links[j]? with
    | some e => if dieOfPipe (globalPipe (bitsOf (wordAt e 1) 31 0)) = d then s.by (execLinkPlanRead k j) else s
    | none => s) s

/-- A freeze request that has arrived is detected by the pipeline at position 0 in the first cycle that runs (19 R414;
20 R433). -/
def State.extDetect (s : State) (k d : Nat) : State :=
  let x := s.part k
  let hit := fun (e : ExtReq) => e.arrived && !e.stg
  if x.dies.headD 16 = d ∧ x.run.ext.any hit = true then
    let ds := (x.run.ext.filter hit).map (fun e =>
      ({ cause := causeExt, stream := 0, pc := 0, detail := 0, info := BitVec.ofNat 32 e.who } : Det))
    (s.onRun k (fun r => { r with ext := r.ext.filter (fun e => !(hit e)) })).record (d * 32) ds
  else s

/-- A stage-bound freeze request is detected in a cycle of die `d` in which a STAGE issues, by the pipeline at position 0
(19 R414; 20 R433). -/
def State.extAtStage (s : State) (k d : Nat) : State :=
  let x := s.part k
  let hit := fun (e : ExtReq) => e.arrived && e.stg
  if x.run.ext.any hit = true ∧ (pipesOfDie d).any (fun g => (s.pipe g).cyc.stage) = true then
    let ds := (x.run.ext.filter hit).map (fun e =>
      ({ cause := causeExt, stream := 0, pc := 0, detail := 0, info := BitVec.ofNat 32 e.who } : Det))
    (s.onRun k (fun r => { r with ext := r.ext.filter (fun e => !(hit e)) })).concludeApart (x.dies.headD 0 * 32) (s.now d) ds
  else s

/-- TIMED_GLOBAL_START: the dies of partition `k` that now run the cycle carrying ATK0 start every stream (16 R366;
03 R72; 10 R306). Cycles that a turnpike delay has held before it stay counted (25 R482). -/
def execTimedGlobalStart (k : Nat) (s : State) : Out :=
  let x := s.part k
  let r := x.run
  let ds := if r.phase = .loading ∨ r.phase = .running then
      x.dies.filter (fun d => decide (s.now d = r.atk0) && !(r.started.contains d)) else []
  .next (ds.foldl (fun s d =>
    let s1 := s.onRun k (fun r => { r with phase := .running, started := r.started ++ [d] })
    let s2 := s1.onDie d (fun y =>
      { y with lays := [], post := [], badPost := [], holders := [], align := none, aligns := [], delay := none, held := 0, chan := [],
               chanDone := r.atk0, atFe := false })
    let go := fun (q : Seq) => { q with run := true, next := r.atk0 }
    (pipesOfDie d).foldl (fun s g => s.onPipe g (fun p =>
      { p with c := go p.c, l := go p.l, x := go p.x, s := go p.s })) s2) s)

/-- Stream `k` of a pipeline issues a word in the cycle `now`. -/
def Pipe.issues (p : Pipe) (k : StreamKind) (now : Tick) : Bool := (p.seq k).run && decide ((p.seq k).issueAt = now)

/-- The layovers that open on die `d` in this cycle: its WOPEN words that are legal (10 R293). -/
def State.opensNow (s : State) (k d : Nat) : List Nat :=
  let now := s.now d
  (pipesOfDie d).filterMap (fun g =>
    let p := s.pipe g
    if p.issues .c now && !(p.c.bad.contains (p.c.pc / 2)) then
      match decode .c (p.c.imem.get p.c.pc 0) with
      | .ok (.wopen _ w) => if wopenBad (s.lays k) (s.die d) now w.toNat then none else some w.toNat
      | _ => none
    else none)

/-- The pieces of a cycle that issue words and end it. DESIGN CHOICE (log 67): C issues before X, so that an ACCWR or ACCZ in
the cycle of an MGO finds the go bit set and is illegal (06 R187). -/
def State.workOf (s : State) (d : Nat) : List Work :=
  let now := s.now d
  ([StreamKind.c, .l, .x, .s].flatMap (fun k =>
    ((pipesOfDie d).filter (fun g => (s.pipe g).issues k now)).map (fun g => Work.issue g k))) ++
  (pipesOfDie d).map Work.endPipe ++ [.endDie]

/-- The writes of the latest cycle are in the memory (05 R150). -/
def Pipe.settleWrites (p : Pipe) : Pipe :=
  { p with mem := p.fly.done.foldl (fun m w => m.put w.addr w.bytes) p.mem, fly := { p.fly with done := [] } }

/-- What pipeline `g` does at the start of a cycle: loops that are over, results, walks, and the nest. -/
def State.beginPipe (s : State) (g : Nat) : State :=
  let now := s.now (dieOfPipe g)
  let s0 := s.onPipe g (fun p => { p with c := p.c.popOver now, x := p.x.popOver now })
  let s1 := ((s0.by (execResultComplete g)).by (execScfgTakesEffect g)).by (execTlbpResult g)
  let s2 := (s1.by (execLdcmComplete g)).walksMove g
  (((s2.gathStep g).by (execNestDone g)).nestCharge g).by (execNestKStep g)

/-- The stores of partition `k` that complete in this cycle. -/
def State.storesDone (s : State) (k : Nat) : State :=
  (s.part k).pipes.foldl (fun s g =>
    if (s.pipe g).fly.hbm.any (s.completes g) then s.by (execHstCompletion g) else s) s

/-- The cycle `n` holds an occurrence of partition `k`'s stage table that no delay has been made for: its count, which is 0 by the
budget of every die at its start, is kept for the dies that have not reached it (25 R482). -/
def State.noteStage (s : State) (k : Nat) (n : Tick) : State :=
  s.onRun k (fun r =>
    match stageAt r.stages (r.tau n), (match r.delay with
      | some e => decide (e.at_ = n)
      | none => false) with
    | some e, false =>
      { r with delay := some { at_ := n, ls := stageLength r.stages e (r.tau n), need := 4 * e.pclass, total := some 0 } }
    | _, _ => r)

/-- Changes of die `d`'s allowance that hold from this cycle are applied; one that a stage's class exceeds asks a domain's
package for a freeze (22 R450; 25 R480). -/
def State.changesApply (s : State) (k d : Nat) : State :=
  let x := s.die d
  let s1 := s.allowanceDue d
  if x.changes.any (dueAt x.atk) then s1.turnpikeFreeze k (s1.die d).ta else s1

/-- The start of a cycle that runs on die `d` of partition `k`. -/
def State.beginCycle (s : State) (k d : Nat) : State :=
  let gs := pipesOfDie d
  let all := fun (s : State) (f : Nat → State → Out) => gs.foldl (fun s g => s.by (f g)) s
  let s0 := gs.foldl (fun s g => s.onPipe g (fun p => { p.settleWrites with cyc := {} })) s
  let s1 := ((((s0.by (execBrakeRelease d)).by (execAlignSlip d)).by (execAlignRelease d)).by (execTurnpikeDelayEnd d)).noteStage k
    (s.now d + 1)
  let s2 := s1.drawn.onDie d (fun x => x.tickOn false)
  let s4 := (s2.changesApply k d).by (execTimedGlobalStart k)
  let s5 := s4.onDie d (fun x => { x with opening := s4.opensNow k d })
  let s6 := (((all s5 execHbmSlotRefusal).by (execWordArrival d)).linkSlips k d)
  let s7 := all ((all s6 execHldLanding).linkLandings k d) execRelayLanding
  let s8 := (gs.foldl State.beginPipe (s7.storesDone k)).by (execLayoverSettle d)
  let s9 := (((s8.linkReads k d).linkSends k d).extDetect k d).by (execBoundaryChannelOverflow d)
  s9.onDie d (fun x => { x with work := s9.workOf d })

/-! ### The end of a cycle in a pipeline -/

/-- The instruction writes of class `c` of pipeline `g` whose charge cycle this is: they charge the port and will enter the
memory at its end, or slip in a reserved bank (05 R149 to R151). An STS has been judged at its issue (04 R111). DESIGN CHOICE
(log 68): such a slip drops the write alone; what its word did at issue stands (its pop, P, captures, clear and flags). -/
def State.writesDue (s : State) (g c : Nat) : State :=
  let now := s.now (dieOfPipe g)
  let mine := fun (w : TWrite) => decide (w.at_ = now) && decide (w.cls = c)
  let due := (s.pipe g).fly.writes.filter mine
  let s1 := s.onPipe g (fun p => { p with fly := { p.fly with writes := p.fly.writes.filter (fun w => !(mine w)) } })
  due.foldl (fun s w =>
    let slips := if c = 6 then [] else s.bankSlips g 3 w.pc w.addr w.bytes.length
    if slips.isEmpty then
      s.onPipe g (fun p => { p with fly := { p.fly with done := p.fly.done ++ [w] },
                                    cyc := { p.cyc with wr := p.cyc.wr + w.bytes.length,
                                                        wrPc := if c = 6 then p.cyc.wrPc else w.pc } })
    else s.record g slips) s1

/-- RMW_FINAL_WRITE: at the end of issue + 2 an RMW of pipeline `g` writes its new value, and the hold of its bank ends
(05 R150, R170, R171). -/
def execRmwFinalWrite (g : Nat) (s : State) : Out :=
  let now := s.now (dieOfPipe g)
  .next ((s.writesDue g 4).onPipe g (fun p =>
    { p with fly := { p.fly with rmwHold := p.fly.rmwHold.filter (fun e => !(Tick.le e.2 now)) } }))

/-- Each byte that the writes of the cycle leave is the one that prevails: the landings of the cycle come before them, and
among them the later of the list (05 R150). -/
def Pipe.prevail (p : Pipe) : Pipe :=
  let m := p.cyc.landed.foldl (fun m e => m.put e.2.2.1 e.2.2.2) (p.fly.done.foldl (fun m w => m.put w.addr w.bytes) p.mem)
  { p with fly := { p.fly with done := p.fly.done.map (fun w => { w with bytes := m.sram.readBytes w.addr w.bytes.length }) } }

/-- The element counter after the draws of the cycle (02 R59, R60). -/
def Pipe.countDraws (p : Pipe) : Pipe :=
  let e := (p.csr.cbase + p.csr.elem).toNat + p.cyc.draws
  let q : Pipe := { p with csr := { p.csr with elem := p.csr.elem + BitVec.ofNat 48 p.cyc.draws } }
  if 2 ^ 48 ≤ e then q.raise 0x20 else q

/-- A CSRW of value `v` to timed control register `c` takes effect: reserved and read-only fields keep their values
(00 R6; 04 R134, R139). -/
def Csrs.write (x : Csrs) (c : Nat) (v : Word) (raised : FlagSet) : Csrs :=
  match c with
  | 0 => { x with tpctl := v.extractLsb' 0 5 }
  | 1 => { x with seedLo := v.extractLsb' 0 32 }
  | 2 => { x with seedHi := v.extractLsb' 0 32 }
  | 3 => { x with seat := v.extractLsb' 48 10, cbase := v.extractLsb' 0 48, elem := 0 }
  | 4 => { x with histCtl := v.extractLsb' 0 8 }
  | 5 => { x with fflags := v.extractLsb' 0 7 ||| raised }
  | n => if 0x10 ≤ n ∧ n < 0x20 then { x with mcgroup := x.mcgroup.set (n - 0x10) (v.extractLsb' 0 48) } else x

/-- REGISTER_WRITE: the CSRW of this cycle in pipeline `g` stores its value (00 R6; 04 R134). -/
def execRegisterWrite (g : Nat) (s : State) : Out :=
  .next (s.onPipe g (fun p => match p.cyc.csrw with
    | some (c, v) => { p with csr := p.csr.write c v p.cyc.raised, cyc := { p.cyc with csrw := none } }
    | none => p))

/-- The token changes of the cycle (01 R24). -/
def Pipe.settleTokens (p : Pipe) : Pipe :=
  p.cyc.tokDelta.foldl (fun p e =>
    { p with q := { p.q with tok := p.q.tok.set e.1 (((p.tokens e.1 : Nat) : Int) + e.2).toNat } }) p

/-- The port overflows of the cycle (05 R149; 09 R487). -/
def Pipe.portSlips (p : Pipe) : List Det :=
  (if 512 < p.cyc.rd then [{ cause := causeToken, stream := 1, pc := p.cyc.rdPc, detail := 60, info := 0 }] else []) ++
  (if 256 < p.cyc.wr then [{ cause := causeToken, stream := 3, pc := p.cyc.wrPc, detail := 61, info := 0 }] else [])

/-- The iterations of stream `k` that overrun in the cycle `now`, their last word not yet issued (04 R117). DESIGN CHOICE (log 61):
the ILL_OP names the last word of the body, with DETAIL 0. -/
def Pipe.overdue (p : Pipe) (k : StreamKind) (now : Tick) : List Det :=
  let q := p.seq k
  if q.run then
    (q.loops.filter (fun v => !v.fixed && decide (v.t + BitVec.ofNat 64 v.span = now))).map (fun v =>
      { cause := causeIllOp, stream := k.num, pc := v.last, detail := 0, info := 0 })
  else []

/-- Those iterations are marked as detected. -/
def Seq.markOverdue (q : Seq) (now : Tick) : Seq :=
  { q with loops := q.loops.map (fun v => if q.run && decide (v.t + BitVec.ofNat 64 v.span = now) then { v with fixed := true } else v) }

/-- The detections of pipeline `g` that no word of this cycle makes: ports, overdue iterations, and those found
earlier for this cycle. -/
def Pipe.lateDets (p : Pipe) (now : Tick) : Pipe :=
  let due := (p.fly.late.filter (fun e => decide (e.at_ = now))).map (fun e => e.det)
  let q := p.detect (p.portSlips ++ due ++ p.overdue .c now ++ p.overdue .x now)
  { q with c := q.c.markOverdue now, x := q.x.markOverdue now,
           fly := { q.fly with late := q.fly.late.filter (fun e => !(decide (e.at_ = now))) } }

/-- A transfer is still in flight in the cycle `now` of its pipeline (05 R162): a store has completed there at
issue + 640. -/
def HbmOp.inFlight (o : HbmOp) (now : Tick) : Bool := o.isLoad || Tick.lt now (o.issue + 640)

/-- Nothing of pipeline `g` is in flight, to it or from it, nor on its way late from HBM (04 R138; 09 R279). -/
def State.landed (s : State) (g : Nat) : Bool :=
  let p := s.pipe g
  !(p.fly.late.any (fun e => decide (e.det.cause = causeLink))) &&
  p.fly.res.isEmpty && p.fly.writes.isEmpty && p.fly.done.isEmpty && !(p.fly.hbm.any (fun o => o.inFlight (s.now (dieOfPipe g)))) &&
  p.fly.gath.isEmpty && !p.mx.nest.go && p.q.dbIn.isEmpty &&
  !(s.words.any (fun w => decide (w.dst = g) || decide (w.src = g))) &&
  !(s.linkWords.any (fun w => decide (globalPipe w.dst = g)))

/-- The record of a packet's job is filled in by `f`. -/
def State.onJob (s : State) (j : Option Nat) (f : Job → Job) : State :=
  match j with
  | none => s
  | some j => { s with portal := { s.portal with jobs := s.portal.jobs.map (fun e => if e.1 = j then (j, f e.2) else e) } }

/-- An opening when its launch ends in the cycle `now`: one still open closes without judgement and signals nothing, and no
brake remains (10 R303, R306). -/
def LayRec.ended (r : LayRec) (now : Tick) : LayRec :=
  match r.closed with
  | none => { r with closed := some now, judged := true, settled := true, braking := false, releaseAt := none, waits := false }
  | some _ => { r with braking := false, releaseAt := none, waits := false }

/-- The timed launch of partition `k` ends: its layovers close without judgement, what an abort finds on its way is lost, changes on
the hold line take hold, and its packet gets its outcome (10 R306; 16 Table 16-4; 22 R455; 25 R480). -/
def State.endTimed (s : State) (k : Nat) (status : JobStatus) (reason : Nat) (detail : Word) : State :=
  let x := s.part k
  let fl := x.pipes.foldl (fun (f : BitVec 7) g => f ||| (s.pipe g).csr.fflags) 0
  let r := x.run
  let s1 := s.onJob r.job (fun j => { j with
    phase := .completed, status := status, reason := reason, lid := r.lid, flags := fl.toNat,
    span := BitVec.ofNat 64 r.span,
    detail := if status = .done then BitVec.ofNat 64 (r.overlap.getD 0) else detail, overlap := r.overlap.isSome })
  let s2 := x.dies.foldl (fun s d => s.onDie d (fun y => { y.applyChanges (fun c => c.2.1) with
    lays := y.lays.map (fun e => (e.1, e.2.ended y.atk)), align := none, aligns := [], delay := none, restart := none,
    work := [], held := 0, stalled := 0, atFe := false })) s1
  let s3 := x.pipes.foldl (fun s g => s.onPipe g (fun p =>
    let p := p.settleWrites
    { p with c := { p.c with run := false }, l := { p.l with run := false }, x := { p.x with run := false },
             s := { p.s with run := false } })) s2
  let mine := fun (g : Nat) => x.hasDie (dieOfPipe g)
  let s4 : State := { s3 with words := s3.words.filter (fun w => !(mine w.dst)),
                              linkWords := s3.linkWords.filter (fun w => !(mine (globalPipe w.dst))) }
  s4.onRun k (fun r => { r with phase := .complete, flags := fl, ext := [], frozenDies := [], td := none, fe := none,
                                feHeld := none, notice := false, first := none })

/-- Every pipeline of partition `k` is finished, and every store has reached HBM on every die (04 R138; 05 R163). -/
def State.allFinished (s : State) (k : Nat) : Bool :=
  (s.part k).pipes.all (fun h => (s.pipe h).finished && (s.pipe h).fly.hbm.isEmpty && s.landed h)

/-- PIPELINE_FINISHED: pipeline `g` has halted and its last result has completed; with every pipeline of the partition the
launch completes (04 R138). A word sent to a finished pipeline is awaited too. A freeze that is to come is taken first. -/
def execPipelineFinished (g : Nat) (s : State) : Out :=
  let k := s.partOfPipe g
  let x := s.part k
  let p := s.pipe g
  if x.run.phase = .running ∧ x.run.started.contains (dieOfPipe g) = true ∧ p.halted = true then
    if s.landed g then
      let t := x.run.tau (s.now (dieOfPipe g))
      let s1 := if p.finished then s else
        (s.setPipe g { p with finished := true }).onRun k (fun r => { r with span := Nat.max r.span t })
      .next (if x.run.td = none ∧ s1.allFinished k = true then s1.endTimed k .done 0 0 else s1)
    else .next (s.setPipe g { p with finished := false })
  else .next s

/-- The end of a cycle in pipeline `g`. -/
def State.endPipe (s : State) (g : Nat) : State :=
  let now := s.now (dieOfPipe g)
  let s1 := (((s.writesDue g 6).writesDue g 5).by (execRmwFinalWrite g)).onPipe g (fun p => p.prevail.settleTokens)
  let s2 := (s1.by (execDrawbarArrival g)).onPipe g (fun p => p.lateDets now)
  let base := match (s2.pipe g).cyc.csrw with
    | some (c, _) => decide (c = 3)
    | none => false
  let s3 := if base then s2 else s2.onPipe g Pipe.countDraws
  ((s3.by (execRegisterWrite g)).conclude g now none).by (execPipelineFinished g)

/-- The end of a cycle on die `d`: posts are judged, an alignment may begin, and a stage-bound request is detected. -/
def State.endDie (s : State) (d : Nat) : State :=
  let k := (s.partOf d).getD 0
  let s1 := s.onDie d (fun x =>
    let y := x.judge (s.lays k) d
    let best := y.aligns.foldl (fun (b : Option AlignRec) a => match b with
      | none => some a
      | some c => if a.limit < c.limit ∨ (a.limit = c.limit ∧ a.pipe < c.pipe) then some a else some c) none
    { y with align := if best.isSome then best else y.align, aligns := [], opening := [], work := [],
             chan := y.chan.filter (fun u => Tick.lt (y.atk - 64) u.enter) })
  s1.extAtStage k d

/-! ### Issue (03 R71 to R76) -/

/-- UNASSIGNED_TIMED_WORD: a word with an unassigned opcode or a non-zero reserved field issues without effect and is an
ILL_OP freeze (03 R74). -/
def execUnassignedTimedWord (_w : BitVec 32) (s : State) : Out := .next (s.illegal s.curStream 0)

/-- A stream that would issue past word 16,383 (03 R76). -/
def State.pastEnd (s : State) (g : Nat) (k : StreamKind) : State :=
  s.onPipe g (fun p =>
    (p.detect [{ cause := causeIllOp, stream := k.num, pc := 16383, detail := 0, info := 0x4000 }]).setSeq k
      { p.seq k with run := false })

/-- What a piece of work comes to: a state, or an instruction to execute. -/
inductive Act
  | state (s : State)
  | word (i : Instr) (s : State)
  /-- a word that is no instruction of its stream -/
  | junk (w : BitVec 32) (s : State)

/-- Stream `k` of pipeline `g` meets an uncorrectable error in the word at its PC, which has no effect (23 R463). -/
def State.damagedWord (s : State) (g : Nat) (k : StreamKind) : State :=
  s.onPipe g (fun p =>
    (p.detect [p.wordDet k causeEcc 0 (p.seq k).pc]).afterWord k (s.now (dieOfPipe g) + 1) false)

/-- Stream `k` of pipeline `g` issues the word at its PC. -/
def State.issueWord (s : State) (g : Nat) (k : StreamKind) : Act :=
  let s1 : State := { s with curPipe := g, curStream := k }
  let q := (s.pipe g).seq k
  if q.pc < 16384 ∧ q.bad.contains (q.pc / 2) = true then .state (s1.damagedWord g k)
  else if q.pc < 16384 then
    match decode k (q.imem.get q.pc 0) with
    | .ok i => .word i s1
    | .error _ => .junk (q.imem.get q.pc 0) s1
  else .state (s1.pastEnd g k)

end Sys2Proof.Machine
end

