-- ==== Sys2Proof/Machine/Frame.lean ====
section
/-! DEFINITION. The freeze frame: result latches, siding and the image of a pipeline's state in its save area, and the
state that a frame stands for (19 R405 to R411, R430; 22 R454). The places that Table 19-1 does not fix are the model's
own (log 60). -/
namespace Sys2Proof.Machine

/-! ### Words and blocks -/

/-- The little-endian bytes of 64-bit words. -/
def wordBytes (ws : List Word) : List Byte := ws.flatMap (fun w => toBytes 8 w.toNat)

/-- A list with zeros added up to `n` entries. -/
def padTo {α : Type} (n : Nat) (z : α) (l : List α) : List α := (l ++ List.replicate (n - l.length) z).take n

/-- A finite map with keys `a` up, from a list. -/
def smapFrom {α : Type} (a : Nat) (l : List α) : SMap α := l.zipIdx.map (fun e => (a + e.2, e.1))

/-- Cycles from fe to `t`, 0 where `t` lies before. -/
def remaining (fe t : Tick) : Nat := if Tick.le fe t then (t - fe).toNat else 0

/-! ### Sequencers (Table 19-1) -/

/-- Iterations of a loop level that have not begun at fe; the one that `left` does not count may start at fe or later. -/
def LoopLevel.toBegin (v : LoopLevel) (fe : Tick) : Nat := v.left + (if !v.ended && Tick.le fe v.t then 1 else 0)

/-- The four loop levels, outermost first, in five words each. -/
def Seq.loopWords (q : Seq) (fe : Tick) : List Word :=
  padTo 20 0 (q.loops.reverse.flatMap (fun v =>
    [BitVec.ofNat 64 v.count, BitVec.ofNat 64 (v.toBegin fe), BitVec.ofNat 64 v.start, BitVec.ofNat 64 v.last,
     BitVec.ofNat 64 v.span]))

/-- PC and wait countdown. -/
def Seq.flowWords (q : Seq) (fe : Tick) : List Word :=
  [BitVec.ofNat 64 (q.pc % 2 ^ 14), BitVec.ofNat 64 (remaining fe q.issueAt)]

/-- Words 0 to 22 of a C or X block. -/
def Seq.ctlWords (q : Seq) (fe : Tick) : List Word := q.flowWords fe ++ [BitVec.ofNat 64 q.span] ++ q.loopWords fe

/-- A sequencer with PC and countdown from a frame. -/
def Seq.loadFlow (q : Seq) (fe : Tick) (ws : List Word) : Seq :=
  if ws.take 2 = q.flowWords fe then q
  else
    let q1 : Seq := { q with pc := bitsOf (wordAt ws 0) 13 0 }
    { q1 with next := fe + wordAt ws 1 - BitVec.ofNat 64 q1.wait }

/-- A sequencer with span and loop stack from a frame; a level keeps the times of the level it stands for. -/
def Seq.loadCtl (q : Seq) (fe : Tick) (ws : List Word) (depth : Nat) : Seq :=
  let q1 := q.loadFlow fe ws
  if ws.take 23 = q.ctlWords fe ∧ depth = q.loops.length then q1
  else
    let w := fun i => wordAt ws i
    let old := q.loops.reverse
    let lv := (List.range (Nat.min depth 4)).map (fun i =>
      let o := old.getD i { count := 0, left := 0, start := 0, last := 0, span := 0, t := fe, stop := fe, fixed := false }
      { o with count := (w (3 + 5 * i)).toNat, left := (w (4 + 5 * i)).toNat - (o.toBegin fe - o.left),
               start := (w (5 + 5 * i)).toNat,
               last := (w (6 + 5 * i)).toNat, span := (w (7 + 5 * i)).toNat })
    { q1 with span := (w 2).toNat, loops := lv.reverse }

/-! ### Blocks of registers -/

/-- The eight words of a stream register. -/
def StreamReg.words (r : StreamReg) : List Word :=
  let b := fun (c : Bool) (n : Nat) => if c then 2 ^ n else 0
  [BitVec.ofNat 64 r.addr, BitVec.ofNat 64 r.p,
   BitVec.ofNat 64 (if r.cur.valid then r.cur.page else 0), BitVec.ofNat 64 (if r.cur.valid then r.cur.frame else 0),
   BitVec.ofNat 64 (if r.nxt.valid then r.nxt.page else 0), BitVec.ofNat 64 (if r.nxt.valid then r.nxt.frame else 0),
   BitVec.ofNat 64 (b r.cur.valid 0 + b (r.cur.valid && r.cur.faulted) 1 + b r.nxt.valid 2 + b (r.nxt.valid && r.nxt.faulted) 3 +
     b (r.cur.valid && r.cur.big) 4 + b (r.nxt.valid && r.nxt.big) 5), 0]

/-- A stream TLB entry from a frame. -/
def stlbOf (page frame bits : Word) (i : Nat) : STlb :=
  if bitOf bits (2 * i) then
    { valid := true, faulted := bitOf bits (2 * i + 1), page := page.toNat, frame := frame.toNat, big := bitOf bits (4 + i) }
  else {}

/-- A stream register from a frame; another descriptor address reads the descriptor there. -/
def StreamReg.load (r : StreamReg) (m : Memory) (n : Nat) (ws : List Word) : StreamReg :=
  if ws = r.words then r
  else
    let w := fun i => wordAt ws i
    let ds := m.words (w 0).toNat 8
    let desc := if (w 0).toNat = r.addr then r.desc else if Desc.valid ds n then some (Desc.ofWords ds) else none
    { desc := desc, addr := (w 0).toNat, p := (w 1).toNat, cur := stlbOf (w 2) (w 3) (w 6) 0, nxt := stlbOf (w 4) (w 5) (w 6) 1 }

/-- The C block. -/
def Pipe.cWords (p : Pipe) (fe : Tick) : List Word :=
  p.c.ctlWords fe ++ padTo 8 0 (p.c.rets.reverse.map (fun r => BitVec.ofNat 64 r)) ++
  [BitVec.ofNat 64 (p.c.loops.length + 256 * p.c.rets.length)] ++ (List.range 31).map (fun i => p.sreg (i + 1)) ++
  [BitVec.ofNat 64 (((List.range 7).map (fun i => if p.preg (i + 1) then 2 ^ (i + 1) else 0)).sum)]

/-- The X block. -/
def Pipe.xWords (p : Pipe) (fe : Tick) : List Word :=
  p.x.ctlWords fe ++ List.replicate 8 0 ++ [BitVec.ofNat 64 p.x.loops.length] ++ (List.range 8).map p.mreg ++
  (List.range 4).flatMap (fun i => (List.range 4).map (fun j => (p.cbreg i).extractLsb' (64 * j) 64))

/-- The L block, or with `k` = s the S block. -/
def Pipe.lsWords (p : Pipe) (fe : Tick) (k : StreamKind) : List Word :=
  let base := if k = .l then 0 else 8
  (p.seq k).flowWords fe ++ List.replicate 30 0 ++
  (List.range 16).map (fun i => if k = .l then p.areg i else p.breg i) ++
  (List.range 8).flatMap (fun i => (p.streg (base + i)).words)

/-- A queue entry with another value. -/
def QEntry.with {α β : Type} (e : QEntry α) (v : β) : QEntry β := { ready := e.ready, val := v, issue := e.issue, bad := e.bad }

/-- The queues in the order of Table 9-6: index and entries, as words of 2,048 bits. -/
def Pipe.queues (p : Pipe) : List (Nat × List (QEntry VWord)) :=
  let w := fun (l : List (QEntry Word)) => l.map (fun e => e.with (e.val.setWidth 2048))
  (List.range 6).map (fun i => (16 + i, p.dqueue i)) ++ [(24, w p.q.ql), (25, w p.q.qx), (26, w p.q.qs),
    (27, p.q.bq.map (fun e => e.with (if e.val then 1 else 0)))]

/-- The entries of the queue `n`. -/
def Pipe.setQueue (p : Pipe) (n : Nat) (l : List (QEntry VWord)) : Pipe :=
  let w := l.map (fun e => e.with (e.val.setWidth 64))
  if n < 22 then p.setDq (n - 16) l
  else match n with
    | 24 => { p with q := { p.q with ql := w } }
    | 25 => { p with q := { p.q with qx := w } }
    | 26 => { p with q := { p.q with qs := w } }
    | 27 => { p with q := { p.q with bq := l.map (fun e => e.with (e.val.getLsbD 0)) } }
    | _ => p

/-- Entries from slot 0 up: in the model a queue's head is slot 0 (log 60). -/
def entriesOf (ready : Tick) (l : List VWord) : List (QEntry VWord) := l.map (fun v => { ready := ready, val := v })

/-- Counts and control registers at 0x1100: 12 token counts; head and count of each queue and buffer, padded to 40
bytes; then one word for each register. -/
def Pipe.ctlBlock (p : Pipe) : List Byte :=
  let counts := p.queues.map (fun e => e.2.length) ++ [p.q.east.length, p.q.west.length]
  padTo 40 0 ((List.range 12).map (fun i => BitVec.ofNat 8 (p.tokens i)) ++ counts.flatMap (fun n => [0, BitVec.ofNat 8 n])) ++
  wordBytes ([p.csr.tpctl.setWidth 64, p.csr.seedLo.setWidth 64, p.csr.seedHi.setWidth 64,
    (p.csr.seat.setWidth 64 <<< 48) ||| p.csr.cbase.setWidth 64, p.csr.elem.setWidth 64, p.csr.histCtl.setWidth 64,
    p.csr.fflags.setWidth 64] ++ (List.range 16).map (fun i => (p.csr.mcgroup.get i 0).setWidth 64))

/-- The entries of a queue of 2,048-bit words, in `n` slots. -/
def slotBytes (n : Nat) (l : List VWord) : List Byte := padTo (256 * n) 0 (l.flatMap (fun v => toBytes 256 v.toNat))

/-- The scalar queues and bq at 0x1300. -/
def Pipe.scalarBlock (p : Pipe) : List Byte :=
  let q := fun (l : List (QEntry Word)) => padTo 64 0 (l.flatMap (fun e => toBytes 8 e.val.toNat))
  q p.q.ql ++ q p.q.qx ++ q p.q.qs ++
  toBytes 2 (packElems 1 16 (fun i => match p.q.bq[i]? with
    | some e => if e.val then 1 else 0
    | none => 0))

/-- A nest table in 384 bytes. -/
def tableBytes (t : SMap (BitVec 32)) : List Byte := (List.range 96).flatMap (fun i => toBytes 4 (t.get i 0).toNat)

/-- The descriptor fields that MGO copied, in two words. -/
def NestDesc.words (d : NestDesc) : List Word :=
  [BitVec.ofNat 64 (d.fmt + 16 * d.cbr + (if d.scl then 64 else 0) + 128 * d.blk + 2 ^ 32 * d.sbase), BitVec.ofInt 64 d.srow]

/-- The nest at 0xD000: shadow and active table, go, n, and the fields of A and B. -/
def Nest.block (x : Nest) : List Byte :=
  tableBytes x.shadow ++ tableBytes x.active ++
  wordBytes ([if x.go then 1 else 0, BitVec.ofNat 64 x.n] ++ x.a.words ++ x.b.words)

/-! ### Latches and siding (R405, R406, R409) -/

/-- Word 0 of a latch or siding entry. -/
def latchHead (kind tgt stream r len : Nat) : Word :=
  BitVec.ofNat 64 (kind * 2 ^ 56 + tgt % 2 ^ 16 * 2 ^ 40 + stream % 4 * 2 ^ 32 + r % 2 ^ 16 * 2 ^ 16 + len % 2 ^ 16)

/-- A latch with its header. -/
def mkLatch (kind tgt stream r : Nat) (issue : Tick) (addr : Nat) (data : List Byte) (h : Latched) : Latch :=
  { r := r, issue := issue, head := latchHead kind tgt stream r data.length, addr := BitVec.ofNat 64 addr, data := data,
    held := h }

/-- The order of latch entries (R409): completion cycle, then issue order, which in one cycle is that of the streams (log 60). -/
def Latch.notAfter (a b : Latch) : Bool :=
  decide (a.r < b.r) || (decide (a.r = b.r) && (Tick.lt a.issue b.issue ||
    (decide (a.issue = b.issue) && decide (bitsOf a.head 33 32 ≤ bitsOf b.head 33 32))))

/-- The words of an NXT entry in a latch: page, frame, and the bits valid, faulted and size in the places of a stream register's
entry bits for CUR (log 60). -/
def STlb.words (e : STlb) : List Word :=
  [BitVec.ofNat 64 e.page, BitVec.ofNat 64 e.frame,
   BitVec.ofNat 64 ((if e.valid then 1 else 0) + (if e.faulted then 2 else 0) + (if e.big then 16 else 0))]

/-- The latch of a register result; `p` is the pipeline with the earlier results written. -/
def Pipe.latchOf (p : Pipe) (fe : Tick) (f : Flight) : Option Latch :=
  let r := remaining fe f.due
  let q := p.writeResult f.res
  let mk := fun (kind tgt addr : Nat) (data : List Byte) => some (mkLatch kind tgt f.stream r f.issue addr data (.flight f))
  let reg := fun (file n len v : Nat) => mk 0 (file * 2 ^ 13 + n) 0 (toBytes len v)
  match f.res with
  | .sreg d v => reg 0 d 8 v.toNat
  | .preg d v => reg 1 d 8 (if v then 1 else 0)
  | .areg d v => reg 2 d 8 v.toNat
  | .breg d v => reg 3 d 8 v.toNat
  | .vreg d _ _ => reg 4 d 256 (q.vreg d).toNat
  | .mreg d _ _ => reg 5 d 8 (q.mreg d).toNat
  | .cb n v => reg 6 n 32 v.toNat
  | .coef t ws => mk 6 t 0 (ws.flatMap (fun w => toBytes 16 w.toNat))
  | .scfg st a ws _ => mk 5 st a (wordBytes (ws.take 8))
  | .nxt st va read => mk 5 (16 + st) 0 (wordBytes (walkResult va st read).words)
  | .tlb st e => mk 5 (16 + st) 0 (wordBytes e.words)
  | .acc rows => mk 4 0 ((rows.head?.map (fun e => e.1)).getD 0) (rows.flatMap (fun e => toBytes 192 e.2.toNat))
  | .latch _ => none
  | .flags => none

/-- The latches of register results in order of completion. -/
def Pipe.regLatches (p : Pipe) (fe : Tick) (fs : List Flight) : List Latch :=
  match fs with
  | [] => []
  | f :: t => (match p.latchOf fe f with
    | some l => [l]
    | none => []) ++ Pipe.regLatches (p.writeResult f.res) fe t

/-- The latch of a tensor SRAM write: it completes in the cycle after its charge, which for an STS is its issue and for the
words of S two cycles after it (05 R150). -/
def TWrite.latch (w : TWrite) (fe : Tick) : Latch :=
  mkLatch 2 0 (if w.cls = 6 then 0 else 3) (remaining fe (w.at_ + 1)) (if w.cls = 6 then w.at_ else w.at_ - 2) w.addr w.bytes
    (.write w)

/-- The latch of a transfer. -/
def HbmOp.latch (o : HbmOp) (fe : Tick) : Latch :=
  if o.isLoad then mkLatch 2 0 1 (remaining fe (o.issue + 640)) o.issue o.off o.bytes (.hbm o)
  else mkLatch 3 0 3 (remaining fe (o.issue + 640)) o.issue o.pa o.bytes (.hbm o)

/-- The latches of queue entries that are not yet there at fe. -/
def Pipe.queueLatches (p : Pipe) (fe : Tick) : List Latch :=
  p.queues.flatMap (fun q => (q.2.filter (fun e => Tick.le fe e.ready)).map (fun e =>
    mkLatch 1 0 (if q.1 < 20 then 1 else if q.1 < 22 then 2 else 0) (remaining fe e.ready) e.issue q.1
      (toBytes (if q.1 < 22 then 256 else 8) e.val.toNat) (.entry q.1 e)))

/-- The queues without those entries. -/
def Pipe.presentOnly (p : Pipe) (fe : Tick) : Pipe :=
  p.queues.foldl (fun x q => x.setQueue q.1 (q.2.filter (fun e => !(Tick.le fe e.ready)))) p

/-- A pipeline captures its results, writes, transfers and queue entries in latches (R405); a write charged in fe − 1 completes
at fe. -/
def Pipe.capture (p : Pipe) (fe : Tick) : Pipe :=
  let fs := sortBy (fun a b => Tick.le a.due b.due) p.fly.res
  let regs := p.regLatches fe fs
  let lat := sortBy Latch.notAfter (regs ++ p.queueLatches fe ++ (p.fly.done ++ p.fly.writes).map (fun w => w.latch fe) ++
    (p.fly.hbm.filter (fun o => !o.refused)).map (fun o => o.latch fe))
  let bare := fun (f : Flight) => match f.res with
    | .latch _ => true
    | .flags => true
    | _ => false
  let rest := (fs.filter bare).map (fun f => (remaining fe f.due, f))
  let q := p.presentOnly fe
  { q with fly := { q.fly with res := [], writes := [], done := [], hbm := [] },
           frz := { q.frz with lat := q.frz.lat ++ lat, rest := q.frz.rest ++ rest } }

/-- Freezes of neighbouring packages differ by at most 400 cycles: for each link, a free value says when the neighbour of
partition `k` freezes, up to which it goes on reading its plan, and what it still reads from fe on sets out (22 R453, R454). -/
def State.linkSiding (s : State) (k : Nat) (fe : Tick) : State :=
  if s.fw.inDomain then
    (List.range 6).foldl (fun s l =>
      let f := fe + BitVec.ofNat 64 (s.freeVal % 801) - 400
      let s1 := s.drawn.onRun k (fun r => { r with linkUpto := r.linkUpto.set l f })
      if Tick.lt fe f then
        (List.range (f - fe).toNat).foldl (fun s i =>
          (s.part k).dies.foldl (fun s d => s.linkSendsAt k d (fe + BitVec.ofNat 64 i) (fun m => decide (m = l))) s) s1
      else s1) s
  else s

/-- The words on their way to pipeline `g` of partition `k` enter its siding, in order of landing; beyond 64 a word is lost
(R405, R406). Of the words on the package links those go there that their sender has read before it froze, and slipped ones
(09 R281; 22 R454). -/
def State.captureWords (s : State) (k g : Nat) (fe : Tick) : State :=
  let p := s.pipe g
  let upto := (s.part k).run.linkUpto
  let mine := fun (w : LinkWord) => decide (globalPipe w.dst = g) &&
    (w.slipped || (match upto.find? (fun e => e.1 == w.link) with
      | none => true
      | some e => Tick.lt (w.ta - 640) e.2))
  let relay := (s.words.filter (fun w => decide (w.dst = g))).map (fun w =>
    ({ r := remaining fe w.ta, kind := 7, addr := w.off, src := w.src, data := w.data, bad := w.bad } : SidingEntry))
  let link := (s.linkWords.filter mine).map (fun w =>
    ({ r := remaining fe w.ta, kind := 7, addr := w.dst % 2 ^ 23, src := 512 + w.link, data := w.data, bad := w.bad } : SidingEntry))
  let db := p.q.dbIn.map (fun e =>
    ({ r := remaining fe e.1, kind := if e.2.1 then 8 else 9, addr := 0, src := 0, data := e.2.2,
       bad := p.q.badIn.contains (e.1, e.2.1) } : SidingEntry))
  let all := sortBy (fun a b => decide (a.r ≤ b.r)) (p.frz.siding ++ relay ++ link ++ db)
  let s1 : State := { s with words := s.words.filter (fun w => !(decide (w.dst = g))),
                             linkWords := s.linkWords.filter (fun w => !(mine w)) }
  s1.setPipe g { p with q := { p.q with dbIn := [], badIn := [] },
                        frz := { p.frz with siding := all.take 64, lost := p.frz.lost || decide (64 < all.length) } }

/-- The bytes of a latch entry, padded to words. -/
def Latch.bytes (l : Latch) : List Byte := wordBytes [l.head, l.addr] ++ padTo ((l.data.length + 7) / 8 * 8) 0 l.data

/-- The bytes of a siding entry; TGT holds the sender (log 60). -/
def SidingEntry.bytes (e : SidingEntry) : List Byte :=
  wordBytes [latchHead e.kind e.src 0 e.r 256, BitVec.ofNat 64 e.addr] ++ toBytes 256 e.data.toNat

/-! ### The frame (R408) -/

/-- STOP and TS of a frame header. -/
def Pipe.stops (p : Pipe) (fe : Tick) : Nat × Nat :=
  [StreamKind.c, .l, .x, .s].foldl (fun m k => match (p.seq k).stop with
    | some t => (m.1 + 2 ^ k.num, m.2 + (fe - t).toNat % 2 ^ 16 * 2 ^ (16 * k.num))
    | none => m) (0, 0)

/-- The frame header (Table 19-2). -/
def Pipe.header (p : Pipe) (fe : Tick) (tick : Word) (st : Nat) : List Word :=
  let (stop, ts) := p.stops fe
  [fe, tick, p.csr.faultInfo,
   BitVec.ofNat 64 ((if p.frz.lost then 2 ^ 48 else 0) + p.frz.lat.length % 2 ^ 16 * 2 ^ 32 + p.frz.siding.length * 2 ^ 16 +
     stop * 2 ^ 12 + st), BitVec.ofNat 64 ts, 0, 0, 0]

/-- The blocks of a frame with their offsets (Table 19-1). -/
def Pipe.frame (p : Pipe) (fe : Tick) (tick : Word) : List (Nat × List Byte) :=
  [(0x0, padTo 256 0 (wordBytes (p.header fe tick 1))), (0x100, padTo 1024 0 (wordBytes (p.cWords fe))),
   (0x500, padTo 1024 0 (wordBytes (p.lsWords fe .l))), (0x900, padTo 1024 0 (wordBytes (p.xWords fe))),
   (0xD00, padTo 1024 0 (wordBytes (p.lsWords fe .s))), (0x1100, padTo 512 0 p.ctlBlock), (0x1300, padTo 256 0 p.scalarBlock),
   (0x2000, (List.range 32).flatMap (fun i => toBytes 256 (p.vreg i).toNat)),
   (0x4000, (List.range 6).flatMap (fun i => slotBytes 16 ((p.dqueue i).map (fun e => e.val)))),
   (0xA000, slotBytes 4 p.q.east ++ slotBytes 4 p.q.west),
   (0xB000, (List.range 64).flatMap (fun i => toBytes 64 (p.mx.latchA.get i 0).toNat) ++ toBytes 1024 p.mx.staging.toNat),
   (0xD000, padTo 1024 0 p.mx.nest.block),
   (0xE000, (List.range 256).flatMap (fun i => toBytes 4 (p.mem.hist.get i 0).toNat)),
   (0x10000, padTo 17408 0 (p.frz.siding.flatMap SidingEntry.bytes)),
   (0x20000, padTo 65536 0 p.book.bytes),
   (0x30000, (List.range 4096).flatMap (fun i => toBytes 16 (p.mem.coef.get i 0).toNat)),
   (0x40000, padTo 262144 0 (p.frz.lat.flatMap Latch.bytes))]

/-- The physical address of `va` for a write of a controller of partition `k`: none where it may not be written. -/
def State.vaWrite (s : State) (k va : Nat) : Option Nat :=
  if windowBase ≤ va then none
  else match s.walk (s.part k).root va with
    | none => none
    | some (e3, big) =>
      let pa := leafAddr e3 big va
      match s.tier pa with
      | .nothing => none
      | .control _ _ => none
      | _ => if leafAllows e3 false true false true then some pa else none

/-- Bytes written from `va` up in pieces of at most 256 that lie in one aligned block of 256, or the first address that
cannot be written. -/
def State.vaStore (s : State) (k va fuel : Nat) (bs : List Byte) : Except Nat State :=
  match fuel with
  | 0 => .ok s
  | f + 1 =>
    if bs.isEmpty then .ok s
    else
      let n := 256 - va % 256
      match s.vaWrite k va with
      | none => .error va
      | some pa => State.vaStore (s.writePhys pa (bs.take n)) k (va + n) f (bs.drop n)

/-- The save area of the pipeline at position `pos`. -/
def TimedRun.area (r : TimedRun) (pos : Nat) : Nat := r.frame + 0x800000 * pos

/-- The frame of one pipeline is written, or the first address that cannot be. -/
def State.writeFrame (s : State) (k pos : Nat) (bl : List (Nat × List Byte)) : Except Nat State :=
  match bl with
  | [] => .ok s
  | (o, bs) :: t =>
    match s.vaStore k ((s.part k).run.area pos + o) (bs.length / 256 + 2) bs with
    | .error a => .error a
    | .ok s1 => State.writeFrame s1 k pos t

/-! ### The state that a frame stands for (R411) -/

/-- The C block of a frame. -/
def Pipe.loadC (p : Pipe) (fe : Tick) (ws : List Word) : Pipe :=
  let d := wordAt ws 31
  let c1 := p.c.loadCtl fe ws (bitsOf d 2 0)
  let c2 : Seq := { c1 with rets := (((ws.drop 23).take (bitsOf d 11 8)).map (fun w => w.toNat)).reverse }
  { p with c := c2, regs := { p.regs with
      sr := smapFrom 1 ((ws.drop 32).take 31),
      pr := smapFrom 1 ((List.range 7).map (fun i => bitOf (wordAt ws 63) (i + 1))) } }

/-- The X block of a frame. -/
def Pipe.loadX (p : Pipe) (fe : Tick) (ws : List Word) : Pipe :=
  { p with x := p.x.loadCtl fe ws (bitsOf (wordAt ws 31) 2 0),
           regs := { p.regs with
             mr := smapFrom 0 ((ws.drop 32).take 8),
             cb := smapFrom 0 ((List.range 4).map (fun i =>
               BitVec.ofNat 256 (ofBytes (wordBytes ((ws.drop (40 + 4 * i)).take 4))))) } }

/-- The L or S block of a frame. -/
def Pipe.loadLs (p : Pipe) (fe : Tick) (k : StreamKind) (ws : List Word) : Pipe :=
  let base := if k = .l then 0 else 8
  let rs := smapFrom 0 ((ws.drop 32).take 16)
  let p1 := p.setSeq k ((p.seq k).loadFlow fe ws)
  let p2 : Pipe := if k = .l then { p1 with regs := { p1.regs with ar := rs } } else { p1 with regs := { p1.regs with br := rs } }
  (List.range 8).foldl (fun q i =>
    q.setSt (base + i) ((p.streg (base + i)).load p.mem.sram (base + i) ((ws.drop (48 + 8 * i)).take 8))) p2

/-- The words of `n` bytes each that a block holds. -/
def groups (n : Nat) (cnt : Nat) (bs : List Byte) : List Nat := (List.range cnt).map (fun i => ofBytes ((bs.drop (n * i)).take n))

/-- The bytes at offset `o` of a frame that has been read. -/
def blockAt (bl : List (Nat × List Byte)) (o : Nat) : List Byte := ((bl.find? (fun e => e.1 == o)).map (fun e => e.2)).getD []

/-- Head and count of queue or buffer `i`. -/
def headCount (bs : List Byte) (i : Nat) : Nat × Nat := ((bs.getD (12 + 2 * i) 0).toNat, (bs.getD (13 + 2 * i) 0).toNat)

/-- The entries of a ring of `n` slots from its head. -/
def ringOf (n : Nat) (hc : Nat × Nat) (l : List Nat) : List VWord :=
  (List.range (Nat.min hc.2 n)).map (fun i => BitVec.ofNat 2048 (l.getD ((hc.1 + i) % n) 0))

/-- Counts, queues and control registers of a frame; entries are there before fe. -/
def Pipe.loadCtlBlock (p : Pipe) (fe : Tick) (bl : List (Nat × List Byte)) : Pipe :=
  let bs := blockAt bl 0x1100
  let w := fun i => BitVec.ofNat 64 ((groups 8 24 (bs.drop 40)).getD i 0)
  let csr : Csrs := { p.csr with
    tpctl := (w 0).extractLsb' 0 5, seedLo := (w 1).extractLsb' 0 32, seedHi := (w 2).extractLsb' 0 32,
    seat := (w 3).extractLsb' 48 10, cbase := (w 3).extractLsb' 0 48, elem := (w 4).extractLsb' 0 48,
    histCtl := (w 5).extractLsb' 0 8, fflags := (w 6).extractLsb' 0 7,
    mcgroup := smapFrom 0 ((List.range 16).map (fun i => (w (7 + i)).extractLsb' 0 48)) }
  let q1 : Pipe := { p with csr := csr, q := { p.q with
    tok := smapFrom 0 ((List.range 12).map (fun i => (bs.getD i 0).toNat)),
    east := ringOf 4 (headCount bs 10) (groups 256 4 (blockAt bl 0xA000)),
    west := ringOf 4 (headCount bs 11) (groups 256 4 ((blockAt bl 0xA000).drop 1024)) } }
  let past := fe - 1
  let q2 := (List.range 6).foldl (fun q i =>
    q.setQueue (16 + i) (entriesOf past (ringOf 16 (headCount bs i) (groups 256 16 ((blockAt bl 0x4000).drop (4096 * i)))))) q1
  let sc := blockAt bl 0x1300
  let q3 := (List.range 3).foldl (fun q i =>
    q.setQueue (24 + i) (entriesOf past (ringOf 8 (headCount bs (6 + i)) (groups 8 8 (sc.drop (64 * i)))))) q2
  let bits := ofBytes ((sc.drop 192).take 2)
  q3.setQueue 27 (entriesOf past (ringOf 16 (headCount bs 9) ((List.range 16).map (fun i => bits / 2 ^ i % 2))))

/-- A nest table from 384 bytes. -/
def tableOf (bs : List Byte) : SMap (BitVec 32) := smapFrom 0 ((groups 4 96 bs).map (fun v => BitVec.ofNat 32 v))

/-- The descriptor fields of a nest from two words. -/
def NestDesc.load (a b : Word) : NestDesc :=
  { fmt := bitsOf a 3 0, cbr := bitsOf a 5 4, scl := bitOf a 6, blk := bitsOf a 8 7, sbase := bitsOf a 63 32, srow := b.toInt }

/-- The nest of a frame. -/
def Nest.fromBlock (x : Nest) (bs : List Byte) : Nest :=
  if padTo 1024 0 x.block = bs then x
  else
    let w := fun i => BitVec.ofNat 64 ((groups 8 6 (bs.drop 768)).getD i 0)
    { x with shadow := tableOf bs, active := tableOf (bs.drop 384), go := bitOf (w 0) 0, n := (w 1).toNat,
             a := NestDesc.load (w 2) (w 3), b := NestDesc.load (w 4) (w 5) }

/-- Vectors, matrix unit, histograms and coefficients of a frame. -/
def Pipe.loadUnits (p : Pipe) (bl : List (Nat × List Byte)) : Pipe :=
  let mx := blockAt bl 0xB000
  { p with
    regs := { p.regs with vr := smapFrom 0 ((groups 256 32 (blockAt bl 0x2000)).map (fun v => BitVec.ofNat 2048 v)) },
    mx := { p.mx with latchA := smapFrom 0 ((groups 64 64 mx).map (fun v => BitVec.ofNat 512 v)),
                      staging := BitVec.ofNat 8192 (ofBytes ((mx.drop 4096).take 1024)),
                      nest := p.mx.nest.fromBlock (blockAt bl 0xD000) },
    mem := { p.mem with hist := smapFrom 0 ((groups 4 256 (blockAt bl 0xE000)).map (fun v => BitVec.ofNat 32 v)),
                        coef := smapFrom 0 ((groups 16 4096 (blockAt bl 0x30000)).map (fun v => BitVec.ofNat 128 v)) } }

/-- What an edited latch entry stands for. -/
def latchedOf (fe : Tick) (h addr : Word) (data : List Byte) : Option Latched :=
  let v := ofBytes data
  let r := BitVec.ofNat 64 (bitsOf h 31 16)
  let tgt := bitsOf h 55 40
  let n := tgt % 32
  let fl := fun (x : Result) => some (Latched.flight { due := fe + r, stream := bitsOf h 33 32, res := x, issue := fe })
  let ws := wordsOf data
  match bitsOf h 63 56 with
  | 0 => (match tgt / 2 ^ 13 with
    | 0 => fl (.sreg n (BitVec.ofNat 64 v))
    | 1 => fl (.preg n (decide (v % 2 = 1)))
    | 2 => fl (.areg n (BitVec.ofNat 64 v))
    | 3 => fl (.breg n (BitVec.ofNat 64 v))
    | 4 => fl (.vreg n (BitVec.ofNat 2048 v) (-1))
    | 5 => fl (.mreg n (BitVec.ofNat 64 v) (-1))
    | 6 => fl (.cb n (BitVec.ofNat 256 v))
    | _ => none)
  | 1 => some (.entry addr.toNat { ready := fe + r, val := BitVec.ofNat 2048 v, issue := fe })
  | 2 => some (.write { at_ := fe + r - 1, cls := 5, addr := addr.toNat, bytes := data, pc := 0 })
  | 3 => some (.hbm { isLoad := false, issue := fe + r - 640, pa := addr.toNat, off := 0, data := smapFrom 0 ws, pc := 0 })
  | 4 => fl (.acc ((groups 192 (data.length / 192) data).zipIdx.map (fun e => (addr.toNat + e.2, BitVec.ofNat 1536 e.1))))
  | 5 =>
    if tgt < 16 then fl (.scfg tgt addr.toNat ws 0)
    else fl (.tlb (tgt % 16) (stlbOf (wordAt ws 0) (wordAt ws 1) (wordAt ws 2) 0))
  | 6 => fl (.coef n ((groups 16 256 data).map (fun x => BitVec.ofNat 128 x)))
  | _ => none

/-- The latch that stands at place `i` of a frame: the one captured there where the entry is unchanged. -/
def latchFrom (fe : Tick) (old : List Latch) (i : Nat) (h addr : Word) (data : List Byte) : Option Latched :=
  match old[i]? with
  | some l => if l.head = h ∧ l.addr = addr ∧ l.data = data then some l.held else latchedOf fe h addr data
  | none => latchedOf fe h addr data

/-- The latches of a frame, `n` entries in `bs`. -/
def latchesFrom (fe : Tick) (old : List Latch) (n i : Nat) (bs : List Byte) : List (Nat × Latched) :=
  match n with
  | 0 => []
  | n + 1 =>
    let h := BitVec.ofNat 64 (ofBytes (bs.take 8))
    let len := bitsOf h 15 0
    let one := latchFrom fe old i h (BitVec.ofNat 64 (ofBytes ((bs.drop 8).take 8))) ((bs.drop 16).take len)
    (match one with
     | some x => [(bitsOf h 31 16, x)]
     | none => []) ++ latchesFrom fe old n (i + 1) (bs.drop (16 + (len + 7) / 8 * 8))

/-- A latch goes back into flight (R411): a write with R = 0 enters the memory in the cycle carrying fe. -/
def Pipe.reinject (p : Pipe) (fe : Tick) (e : Nat × Latched) : Pipe :=
  match e.2 with
  | .flight f => { p with fly := { p.fly with res := p.fly.res ++ [f] } }
  | .write w =>
    if e.1 = 0 then { p with fly := { p.fly with done := p.fly.done ++ [w] } }
    else { p with fly := { p.fly with writes := p.fly.writes ++ [w] } }
  | .hbm o => { p with fly := { p.fly with hbm := p.fly.hbm ++ [o] } }
  | .entry n v =>
    match p.queues.find? (fun q => q.1 == n) with
    | some q => p.setQueue n (q.2 ++ [{ v with ready := fe + BitVec.ofNat 64 e.1 }])
    | none => p

/-- The siding entries of a frame. -/
def sidingFrom (n : Nat) (bs : List Byte) : List SidingEntry :=
  (List.range (Nat.min n 64)).map (fun i =>
    let b := bs.drop (272 * i)
    let h := BitVec.ofNat 64 (ofBytes (b.take 8))
    { r := bitsOf h 31 16, kind := bitsOf h 63 56, addr := ofBytes ((b.drop 8).take 8) % 2 ^ 23, src := bitsOf h 55 40,
      data := BitVec.ofNat 2048 (ofBytes ((b.drop 16).take 256)) })

/-- A siding entry of pipeline `g` goes back on its way (R411). -/
def State.release (s : State) (g : Nat) (fe : Tick) (e : SidingEntry) : State :=
  let t := fe + BitVec.ofNat 64 e.r
  if e.kind = 7 then
    if e.src < 512 then
      { s with words := s.words ++ [{ src := e.src, dst := g, off := e.addr, data := e.data, ta := t, judged := true }] }
    else
      { s with linkWords := s.linkWords ++
          [{ link := e.src - 512, dst := g / 32 * 2 ^ 28 + g % 32 * 2 ^ 23 + e.addr, data := e.data, ta := t }] }
  else if e.kind = 8 ∨ e.kind = 9 then
    s.onPipe g (fun p => { p with q := { p.q with dbIn := p.q.dbIn ++ [(t, decide (e.kind = 8), e.data)] } })
  else s

/-- The blocks of a frame that are read at TRESUME, with their sizes. -/
def frameParts : List (Nat × Nat) :=
  [(0x0, 64), (0x100, 512), (0x500, 896), (0x900, 448), (0xD00, 896), (0x1100, 512), (0x1300, 256), (0x2000, 8192),
   (0x4000, 24576), (0xA000, 2048), (0xB000, 5120), (0xD000, 1024), (0xE000, 1024), (0x10000, 17408), (0x30000, 65536),
   (0x40000, 262144)]

/-- The blocks of the frame at position `pos`, or the first address that cannot be read. -/
def State.readFrame (s : State) (k pos : Nat) (l : List (Nat × Nat)) : Except Nat (List (Nat × List Byte)) :=
  match l with
  | [] => .ok []
  | (o, n) :: t =>
    match s.pagedBytes k ((s.part k).run.area pos + o) n with
    | .error a => .error a
    | .ok bs => match State.readFrame s k pos t with
      | .error a => .error a
      | .ok r => .ok ((o, bs) :: r)

/-- The cells of an image of `n` pages of 64 KiB at `va`, as a byte memory from 0 (R410). -/
def State.image (s : State) (k va n : Nat) : Memory :=
  (List.range n).flatMap (fun i =>
    match s.vaRead k (va + i * 0x10000) with
    | none => []
    | some pa => (s.mem.filter (fun c => decide (pa ≤ c.1) && decide (c.1 < pa + 0x10000))).map (fun c =>
        (c.1 - pa + i * 0x10000, c.2)))

/-- The lowest address of `n` pages of 64 KiB from `va` that cannot be read (23 R463). -/
def State.imageBad (s : State) (k va n : Nat) : Option Nat :=
  (List.range n).findSome? (fun i =>
    let a := va + i * 0x10000
    match s.vaRead k a with
    | none => some a
    | some pa => (leastOf (s.bad.filter (fun b => decide (pa ≤ b * 32) && decide (b * 32 < pa + 0x10000)))).map (fun b =>
        a + (b * 32 - pa)))

/-- The lowest address of the two images at position `pos` that cannot be read. -/
def State.imagesBad (s : State) (k pos : Nat) : Option Nat :=
  let va := (s.part k).run.area pos
  (s.imageBad k (va + 0x80000) 9).or (s.imageBad k (va + 0x200000) 96)

/-- Images are restored where OFF = 1 (R410, R411). -/
def State.restoreImages (s : State) (k pos g : Nat) : State :=
  let va := (s.part k).run.area pos
  let acc := s.image k (va + 0x80000) 9
  let ram := s.image k (va + 0x200000) 96
  s.onPipe g (fun p => { p with
    mx := { p.mx with acc := smapFrom 0 ((List.range 3072).map (fun r => BitVec.ofNat 1536 (acc.readLE (192 * r) 192))), badRows := [] },
    mem := { p.mem with sram := ram, bad := [] } })

/-- STOP and TS of a frame's header: L and S, the streams that R157 can stop, stand at their words of cycle ts, or go on
(R407, R411). -/
def Pipe.loadStops (p : Pipe) (fe : Tick) (w3 w4 : Word) : Pipe :=
  [StreamKind.l, .s].foldl (fun p k =>
    let q := p.seq k
    if bitOf w3 (12 + k.num) then
      let ts := fe - BitVec.ofNat 64 (bitsOf w4 (16 * k.num + 15) (16 * k.num))
      p.setSeq k { q with run := false, stop := some ts, next := ts - BitVec.ofNat 64 q.wait }
    else if q.stop.isSome then p.setSeq k { q with run := true, stop := none }
    else p) p

/-- The uncorrectable errors that a resume meets where a frame's stream registers name descriptors at other addresses, which are
read there (R411; 23 R463). The model names the register's stream and PC 0 (log 52). -/
def State.descSlips (s : State) (g : Nat) (bl : List (Nat × List Byte)) : List Det :=
  (List.range 16).flatMap (fun n =>
    let a := (wordAt ((wordsOf (blockAt bl (if n < 8 then 0x500 else 0xD00))).drop (48 + 8 * (n % 8))) 0).toNat
    if a = ((s.pipe g).streg n).addr then [] else s.eccSlips g (if n < 8 then 1 else 3) 0 a 64)

/-- Pipeline `g` takes the state of its frame as it stands: an edit becomes the resumed state (R411). -/
def State.loadFrame (s : State) (k pos g : Nat) (fe : Tick) (bl : List (Nat × List Byte)) : State :=
  let ws := fun o => wordsOf (blockAt bl o)
  let w3 := wordAt (ws 0) 3
  let s1 := if bitOf w3 8 then s.restoreImages k pos g else s
  let p := { s1.pipe g with cyc := { dets := s1.descSlips g bl } }
  let p1 := ((((p.loadC fe (ws 0x100)).loadLs fe .l (ws 0x500)).loadX fe (ws 0x900)).loadLs fe .s (ws 0xD00)).loadStops fe w3
    (wordAt (ws 0) 4)
  let p2 := (p1.loadCtlBlock fe bl).loadUnits bl
  let lat := latchesFrom fe p.frz.lat (bitsOf w3 47 32) 0 (blockAt bl 0x40000)
  let p3 := lat.foldl (fun q e => q.reinject fe e) p2
  let p4 : Pipe := { p3 with regs := { p3.regs with parity := [] }, mem := { p3.mem with badCoef := [] },
                             mx := { p3.mx with badLatch := [], badNest := [] }, q := { p3.q with badDb := [] },
                             fly := { p3.fly with res := p3.fly.res ++ p.frz.rest.map (fun e => e.2) }, frz := {} }
  (sidingFrom (bitsOf w3 23 16) (blockAt bl 0x10000)).foldl (fun s e => s.release g fe e) (s1.setPipe g p4)

end Sys2Proof.Machine
end

