-- ==== Sys2Proof/Machine/Freeze.lean ====
section
/-! DEFINITION. The freeze of a partition, its notice, TRESUME with its catch-up, and what a die does in its next cycle
(09 R286 to R289; 19 R405 to R414, R430; 22 R453 to R455). -/
namespace Sys2Proof.Machine

/-! ### The freeze takes effect (19 R405) -/

/-- Every die of partition `k` stands at fe. -/
def State.allFrozen (s : State) (k : Nat) : Bool :=
  let x := s.part k
  !x.dies.isEmpty && x.dies.all (fun d => x.run.frozenDies.contains d)

/-- FAULT_INFO of a pipeline that detected nothing (09 R288). -/
def Pipe.froze (p : Pipe) (cause : Nat) : Pipe :=
  if p.detected.isSome then p else { p with csr := { p.csr with faultInfo := BitVec.ofNat 64 cause } }

/-- Walks in flight are finished, and transfers read all that they still have to. -/
def State.finishReads (s : State) (k g : Nat) : State :=
  let root := (s.part k).root
  (s.countTable (s.restReads root g (fun _ => true))).onPipe g (fun p =>
    let res := p.fly.res.map (fun f => match f.res with
      | .nxt st va read => { f with res := .nxt st va (s.walkOn root va 3 read) }
      | _ => f)
    { p with fly := { p.fly with res := res, hbm := p.fly.hbm.map s.readAll } })

/-- STATE of every frame of partition `k` (Table 19-2). -/
def State.setStates (s : State) (k v : Nat) : State :=
  (List.range (s.part k).pipes.length).foldl (fun s pos =>
    match s.vaStore k ((s.part k).run.area pos + 24) 1 [BitVec.ofNat 8 v] with
    | .ok t => t
    | .error _ => s) s

/-- A launch ends aborted at its fe (19 R411, R413; 23 R463). -/
def State.abortTimed (s : State) (k reason : Nat) (detail : Word) : State :=
  (s.onRun k (fun r => { r with span := r.tau (r.fe.getD r.atk0) })).endTimed k .aborted reason detail

/-- The launch of partition `k` ends as for ABORT, on every member of its domain (R411, R413; 22 R455). -/
def State.endFrozen (s : State) (k reason : Nat) (detail : Word) : State :=
  ((s.setStates k 3).tellDomain k .abort s.fw.pkg.toNat ((s.part k).run.fe.getD 0)).abortTimed k reason detail

/-- FAULT_INFO of the first detecting pipeline (09 R288). -/
def State.firstInfo (s : State) (k : Nat) : Word :=
  let x := s.part k
  match x.run.first with
  | some (g, _) => (s.pipe g).csr.faultInfo
  | none => 0

/-- The place in a frame of the register with number `n` (19 Table 19-1; `Regs.parity`). -/
def framePlace (n : Nat) : Nat :=
  if n < 32 then 0x100 + 8 * (31 + n)
  else if n < 64 then 0x100 + 8 * 63
  else if n < 96 then 0x500 + 8 * (32 + (n - 64))
  else if n < 128 then 0xD00 + 8 * (32 + (n - 96))
  else if n < 160 then 0x2000 + 256 * (n - 128)
  else if n < 192 then 0x900 + 8 * (32 + (n - 160))
  else if n < 256 then 0x900 + 8 * (40 + 4 * (n - 192))
  else if n < 264 then 0x500 + 8 * (48 + 8 * (n - 256))
  else 0xD00 + 8 * (48 + 8 * (n - 264))

/-- The place in a frame of entry `i` of queue `n` (19 Table 19-1). -/
def queuePlace (n i : Nat) : Nat :=
  if n < 22 then 0x4000 + 4096 * (n - 16) + 256 * i else if n < 27 then 0x1300 + 64 * (n - 24) + 8 * i else 0x13C0

/-- The places of the damaged latches of a list whose first entry stands at `o`. -/
def badLatches (o : Nat) (ls : List Latch) : List Nat :=
  match ls with
  | [] => []
  | l :: t => (match l.held with
    | .entry _ e => if e.bad then [o] else []
    | _ => []) ++ badLatches (o + l.bytes.length) t

/-- The lowest place of a frame at which a register, coefficient, queue entry, operand row, nest, latch or siding entry is damaged
(23 R463). -/
def Pipe.damagedAt (p : Pipe) : Option Nat :=
  leastOf (p.regs.parity.map framePlace ++ p.mem.badCoef.map (fun n => 0x30000 + 8 * n) ++
    p.queues.flatMap (fun q => (q.2.zipIdx.filter (fun e => e.1.bad)).map (fun e => queuePlace q.1 e.2)) ++
    p.q.badDb.map (fun e => (if e.1 then 0xA000 else 0xA400) + 256 * e.2) ++ p.mx.badLatch.map (fun r => 0xB000 + 64 * r) ++
    p.mx.badNest.map (fun n => if n < 192 then 0xD000 + 4 * n else 0xC000) ++
    (p.frz.siding.zipIdx.filter (fun e => e.1.bad)).map (fun e => 0x10000 + 272 * e.2) ++ badLatches 0x40000 p.frz.lat)

/-- The frame of pipeline `g` at position `pos` is written, or the first address that cannot be (R407). -/
def State.writeFrameOf (s : State) (k : Nat) (fe : Tick) (pos g : Nat) : Except Nat State :=
  match (s.pipe g).damagedAt with
  | some o => .error ((s.part k).run.area pos + o)
  | none => s.writeFrame k pos ((s.pipe g).frame fe (s.die (dieOfPipe g)).feTick)

/-- What is done for the save areas of partition `k`, position by position, until one cannot be written: that pipeline and
address (23 R463). -/
def State.eachPlace (s : State) (f : State → Nat → Nat → Except Nat State) (gs : List (Nat × Nat)) : State × Option (Nat × Nat) :=
  match gs with
  | [] => (s, none)
  | (pos, g) :: t =>
    match f s pos g with
    | .error a => (s, some (g, a))
    | .ok s1 => State.eachPlace s1 f t

/-- The frames of partition `k` are written, position by position; damaged data stops them (23 R463). -/
def State.writeFrames (s : State) (k : Nat) (fe : Tick) (gs : List (Nat × Nat)) : State × Option (Nat × Nat) :=
  s.eachPlace (fun s pos g => s.writeFrameOf k fe pos g) gs

/-- The positions of a partition with their pipelines (01 R17). -/
def Partition.places (x : Partition) : List (Nat × Nat) := x.pipes.zipIdx.map (fun e => (e.2, e.1))

/-- FREEZE_NOTICE: the SUP coach's chain receives EXT_INT with FINFO, or the launch ends (19 R413; 23 R468). -/
def execFreezeNotice (k : Nat) (s : State) : Out :=
  let r := (s.part k).run
  if r.phase = .frozen ∧ r.notice = true then
    let info := s.firstInfo k
    match s.chainFrom r.sup 0 with
    | some (_, t) =>
      let s1 := s.onRun k (fun r => { r with notice := false })
      match s.homeOf t with
      | some x => .next (s1.onCtx (coachOf t) x (fun q => q.onThread (localOf t) (fun th => { th with ext := th.ext ++ [info] })))
      | none => .next s1
    | none => .next ((s.box (dieOfCoach r.sup) boxFreeze (.die (dieOfCoach r.sup)) info).endFrozen k 17 info)
  else .next s

/-- The pipeline that first detected, which a freeze's black-box entry names (23 R468). -/
def TimedRun.detector (r : TimedRun) : Nat :=
  match r.first with
  | some (g, _) => g
  | none => 0

/-- The black-box entry of the freeze of partition `k`: its FINFO, and the pipeline that first detected (23 R468). -/
def State.boxFrozen (s : State) (k : Nat) : State :=
  let x := s.part k
  s.box (x.dies.headD 0) boxFreeze (.pipe x.run.detector) (s.firstInfo k)

/-- With everything captured, the pipelines write their frames, and the notice goes out; a frame that cannot be written ends the
launch. The black box records the freeze in both cases (R405, R408, R413; 23 R463, R468). -/
def State.saveFrames (s : State) (k : Nat) : State :=
  let x := s.part k
  match s.writeFrames k (x.run.fe.getD 0) x.places with
  | (s1, some (g, a)) => ((s1.boxFrozen k).countUnc (.pipe g)).abortTimed k 12 (BitVec.ofNat 64 a)
  | (s1, none) =>
    ((s1.onRun k (fun r => { r with phase := .frozen, notice := true })).boxFrozen k).by (execFreezeNotice k)

/-- Every pipeline of partition `k` stops, captures what is in flight, and writes its frame (R405). -/
def State.freezeNow (s : State) (k : Nat) : State :=
  let x := s.part k
  let fe := x.run.fe.getD 0
  let cause := match x.run.first with
    | some (_, d) => d.cause
    | none => 0
  let s1 := x.pipes.foldl (fun s g =>
    ((s.onPipe g (fun p => p.froze cause)).finishReads k g)) s
  (x.pipes.foldl (fun s g => (s.onPipe g (fun p => p.capture fe)).captureWords k g fe) s1).saveFrames k

/-- FREEZE_TAKES_EFFECT: with every die of partition `k` at fe, its pipelines write their frames (19 R405). -/
def execFreezeTakesEffect (k : Nat) (s : State) : Out :=
  let r := (s.part k).run
  .next (if r.phase = .running ∧ s.allFrozen k = true then (s.linkSiding k (r.fe.getD 0)).freezeNow k else s)

/-! ### A frozen launch taken off its dies (19 R410; 06 R190) -/

/-- The images of a pipeline's accumulator store and tensor SRAM, with their offsets in its save area (Table 19-1). -/
def Pipe.images (p : Pipe) : List (Nat × List Byte) :=
  [(0x80000, (List.range 3072).flatMap (fun r => toBytes 192 (p.mx.acc.get r 0).toNat)),
   (0x200000, p.mem.sram.readBytes 0 tensorSize)]

/-- The offset in its save area of the first damaged granule of a pipeline's two images (19 R410; 23 R463). -/
def Pipe.damagedImage (p : Pipe) : Option Nat :=
  leastOf (p.mx.badRows.map (fun b => 0x80000 + 8 * b) ++ p.mem.bad.map (fun b => 0x200000 + 8 * b))

/-- A pipeline whose accumulator and tensor SRAM are cleared. -/
def Pipe.emptied (p : Pipe) : Pipe :=
  { p with mx := { p.mx with acc := [], badRows := [] }, mem := { p.mem with sram := [], bad := [] } }

/-- Firmware writes the images of pipeline `g` at position `pos` and sets OFF, bit 8 of the header's word 3 (Table 19-2); the reset
leaves both stores without contents. Where OFF is set already, the images stay as they were written. -/
def State.takeOffOne (s : State) (k pos g : Nat) : Except Nat State :=
  match s.pagedBytes k ((s.part k).run.area pos + 24) 2 with
  | .error a => .error a
  | .ok h =>
    let b := h.getD 1 0
    if b.getLsbD 0 then .ok s
    else match (s.pipe g).damagedImage with
      | some o => .error ((s.part k).run.area pos + o)
      | none => (s.writeFrame k pos ((s.pipe g).images ++ [(25, [b ||| 1])])).map (fun s1 => s1.onPipe g Pipe.emptied)

/-- Firmware resets the dies of partition `k` while its launch stays frozen. DESIGN CHOICE (log 69): of what the reset clears
the frames hold the rest, so the model clears the two stores whose images are written. -/
def State.takeOff (s : State) (k : Nat) : State :=
  if (s.part k).run.phase = .frozen then
    match s.eachPlace (fun s pos g => s.takeOffOne k pos g) (s.part k).places with
    | (s1, some (g, a)) => ((s1.setStates k 3).countUnc (.pipe g)).abortTimed k 12 (BitVec.ofNat 64 a)
    | (s1, none) => s1
  else s

/-! ### Catch-up (19 R411) -/

/-- The die's clocks show the cycle `n`. -/
def Die.showing (x : Die) (n : Tick) : Die := { x with absorbed := x.tick - n }

/-- The meanings of the L and S words, which alone a catch-up issues. -/
def execLs (i : Instr) (s : State) : Out :=
  match i with
  | .idle w n => execIdle w n s
  | .lScfg w st a i => execLScfg w st a i s
  | .lSadv w st i => execLSadv w st i s
  | .bout w st => execBout w st s
  | .aadd w d a b => execAadd w d a b s
  | .aaddi w d a i => execAaddi w d a i s
  | .ali w d i => execAli w d i s
  | .lSqr w d => execLSqr w d s
  | .lGive w q c => execLGive w q c s
  | .lTake w q c => execLTake w q c s
  | .ldq w q st => execLdq w q st s
  | .gath w st a i => execGath w st a i s
  | .ldcb w c a => execLdcb w c a s
  | .ldcm w t a => execLdcm w t a s
  | .hld w st a i => execHld w st a i s
  | .lTlbp w st => execLTlbp w st s
  | .sScfg w st b i => execSScfg w st b i s
  | .sSadv w st i => execSSadv w st i s
  | .badd w d a b => execBadd w d a b s
  | .baddi w d a i => execBaddi w d a i s
  | .bli w d i => execBli w d i s
  | .sSqr w d => execSSqr w d s
  | .sGive w q c => execSGive w q c s
  | .sTake w q c => execSTake w q c s
  | .stq w q st f r x h c => execStq w q st f r x h c s
  | .hclr w n => execHclr w n s
  | .hsnap w n b => execHsnap w n b s
  | .hst w st b i => execHst w st b i s
  | .send w q b => execSend w q b s
  | .mcast w q g b => execMcast w q g b s
  | .rmw w o t b v => execRmw w o t b v s
  | .sTlbp w st => execSTlbp w st s
  | _ => .next s

/-- The HBM access of a catch-up walks its page again: on success CUR takes it, and an NXT entry for that page becomes
invalid; a failure is a fault (R411). -/
def State.rewalk (s : State) (k g : Nat) (q : StreamKind) (st : Nat) : State :=
  let p := s.pipe g
  let r := p.streg st
  match r.desc with
  | none => s
  | some d =>
    let va := d.addr r.p
    if d.kind ≠ 1 ∨ inPaged va 256 = false then s
    else
      let e := walkResult va st (s.walkOn (s.part k).root va 3 [])
      let s := s.countTable (s.walkReads (s.part k).root va 3 [])
      if e.faulted then
        s.setPipe g (((p.detect [p.wordDet q causePage st (va.toNat % 2 ^ 32)])).stopStream q (s.now (dieOfPipe g)))
      else
        let nxt := if r.nxt.valid && decide (r.nxt.page = pageOf va.toNat r.nxt.big) then {} else r.nxt
        s.setPipe g (p.setSt st { r with cur := e, nxt := nxt })

/-- Stream `q` of pipeline `g` issues one word of the catch-up, at its own τ. -/
def State.catchWord (s : State) (k g : Nat) (q : StreamKind) : State :=
  match s.issueWord g q with
  | .state t => t
  | .junk w t => t.by (execUnassignedTimedWord w)
  | .word i t =>
    let t1 := match i with
      | .hld _ st _ _ => t.rewalk k g q st.toNat
      | .hst _ st _ _ => t.rewalk k g q st.toNat
      | _ => t
    if (t1.pipe g).cyc.dets.isEmpty then t1.by (execLs i) else t1

/-- No pipeline of partition `k` has met a fault in the catch-up. -/
def State.faultless (s : State) (k : Nat) : Bool := (s.part k).pipes.all (fun g => (s.pipe g).cyc.dets.isEmpty)

/-- The start of a cycle of the catch-up in pipeline `g`: what is due there is written. -/
def State.catchBegin (s : State) (g : Nat) : State :=
  let s1 := s.onPipe g (fun p => { p.settleWrites with cyc := { dets := p.cyc.dets } })
  (((s1.by (execResultComplete g)).by (execScfgTakesEffect g)).by (execTlbpResult g)).by (execLdcmComplete g)

/-- The words that the catch-up of the pipelines `gs` has sent and that land in the cycle `n` (05 R150). -/
def State.catchLand (s : State) (gs : List Nat) (n : Tick) : State :=
  let mine := fun (w : RelayWord) => gs.contains w.src && decide (w.ta = n)
  (sortBy (fun a b => decide (b.src ≤ a.src)) (s.words.filter mine)).foldl State.landWord
    { s with words := s.words.filter (fun w => !(mine w)) }

/-- The end of a cycle of the catch-up in pipeline `g`; E counts its draws on (log 52). -/
def State.catchEnd (s : State) (g : Nat) : State :=
  (((s.writesDue g 6).writesDue g 5).by (execRmwFinalWrite g)).onPipe g (fun p =>
    let q := p.prevail.settleTokens.countDraws
    q.detect q.portSlips)

/-- The cycle `n` of the catch-up of the stopped streams `l`: what is due is written, the words of this τ issue until one of them meets
a fault, and the cycle ends. -/
def State.catchCycle (s : State) (k : Nat) (l : List (Nat × StreamKind)) (n : Tick) : State :=
  let gs := (l.map (fun e => e.1)).eraseDups
  let s1 := (s.part k).dies.foldl (fun s d => s.onDie d (fun x => x.showing n)) s
  let s2 := gs.foldl State.gathStep ((gs.foldl State.catchBegin s1).catchLand gs n)
  let s3 := l.foldl (fun s e => if (s.pipe e.1).issues e.2 n && s.faultless k then s.catchWord k e.1 e.2 else s) s2
  gs.foldl State.catchEnd s3

/-- The earliest ts of the stopped streams `l`, and fe where none is stopped. -/
def State.firstStop (s : State) (fe : Tick) (l : List (Nat × StreamKind)) : Tick :=
  l.foldl (fun t e => match ((s.pipe e.1).seq e.2).stop with
    | some u => if Tick.lt u t then u else t
    | none => t) fe

/-- The catch-up of the stopped streams `l` (R411): the words from ts to fe − 1 issue in the state of the frames, at their own τ, and
the results due before fe are written in order of completion. DEDUCED (log 52): a word sees what earlier words of the catch-up have
completed by its τ, as R412 asks. Writes that the frames hold for the cycle carrying fe come after them all. A stream that a fault
stops has its ts there. -/
def State.catchUp (s : State) (k : Nat) (fe : Tick) (l : List (Nat × StreamKind)) : State :=
  let gs := (l.map (fun e => e.1)).eraseDups
  let t0 := s.firstStop fe l
  let ticks := (List.range (fe - t0).toNat).map (fun i => t0 + BitVec.ofNat 64 i)
  let kept := gs.map (fun g => (g, (s.pipe g).fly.done))
  let s1 := l.foldl (fun s e => s.onPipe e.1 (fun p => p.setSeq e.2 { p.seq e.2 with run := true, stop := none })) s
  let s2 := gs.foldl (fun s g => s.onPipe g (fun p => { p with fly := { p.fly with done := [] } })) s1
  let s3 := ticks.foldl (fun s t => s.catchCycle k l t) s2
  let s4 := kept.foldl (fun s e => s.onPipe e.1 (fun p => { p with fly := { p.fly with done := p.fly.done ++ e.2 } })) s3
  let s5 := l.foldl (fun s e => s.onPipe e.1 (fun p =>
    let x := p.seq e.2
    if x.run && Tick.lt x.issueAt fe then p.setSeq e.2 { x with run := false, stop := some x.issueAt } else p)) s4
  (s.part k).dies.foldl (fun u d => u.onDie d (fun x => { x with absorbed := (s.die d).absorbed })) s5

/-! ### TRESUME (19 R411) -/

/-- The results of `f` along a list, or its first error. -/
def mapOk {α β : Type} (f : α → Except Nat β) (l : List α) : Except Nat (List β) :=
  match l with
  | [] => .ok []
  | x :: t =>
    match f x with
    | .error a => .error a
    | .ok y => match mapOk f t with
      | .error a => .error a
      | .ok r => .ok (y :: r)

/-- The frame at position `pos`, or the first address that cannot be read. -/
def State.readFrameOf (s : State) (k pos : Nat) : Except Nat (List (Nat × List Byte)) := s.readFrame k pos frameParts

/-- The frames of every position, with the images where OFF = 1, or the first address that cannot be read. -/
def State.readFrames (s : State) (k : Nat) (gs : List (Nat × Nat)) : Except Nat (List (Nat × Nat × List (Nat × List Byte))) :=
  mapOk (fun x => match s.readFrameOf k x.1 with
    | .error a => .error a
    | .ok bl =>
      if bitOf (wordAt (wordsOf (blockAt bl 0)) 3) 8 then
        match s.imagesBad k x.1 with
        | some a => .error a
        | none => .ok (x.1, x.2, bl)
      else .ok (x.1, x.2, bl)) gs

/-- The stopped streams of a partition. -/
def State.stopped (s : State) (k : Nat) : List (Nat × StreamKind) :=
  (s.part k).pipes.flatMap (fun g =>
    ([StreamKind.c, .l, .x, .s].filter (fun q => ((s.pipe g).seq q).stop.isSome)).map (fun q => (g, q)))

/-- Steps 2 to 4 of a resume: the frames that have been read are loaded, and the stopped streams have caught up (R411). -/
def State.caughtUp (s : State) (k : Nat) (fr : List (Nat × Nat × List (Nat × List Byte))) : State :=
  let x := s.part k
  let fe := x.run.fe.getD 0
  let s1 := x.pipes.foldl (fun s g => s.onPipe g (fun p => { p with book := {}, detected := none, cyc := {} })) s
  let s2 := fr.foldl (fun s e => s.loadFrame k e.1 e.2.1 fe e.2.2) s1
  let s3 := s2.onRun k (fun r => { r with td := none, first := none })
  s3.catchUp k fe (s3.stopped k)

/-- Steps 2 to 5 of a resume, with the frames that have been read: where the catch-up meets a fault, the launch freezes again. -/
def State.restartFrom (s : State) (k : Nat) (fr : List (Nat × Nat × List (Nat × List Byte))) : State :=
  let x := s.part k
  let fe := x.run.fe.getD 0
  let s4 := s.caughtUp k fr
  let faulty := x.pipes.filter (fun g => !((s4.pipe g).cyc.dets.isEmpty))
  if faulty.isEmpty then
    let s5 := x.dies.foldl (fun s d => s.onDie d (fun y => { y with restart := some 31 })) (s4.setStates k 2)
    (s5.onRun k (fun r => { r with phase := .restarting, fe := none, feHeld := none, notice := false,
                                   paced := r.paced || s.fw.inDomain })).tellDomain k .restart s.fw.pkg.toNat fe
  else
    let s5 := (faulty.foldl (fun s g => s.conclude g fe none) s4).onRun k (fun r =>
      { r with td := some fe, fe := some fe, feHeld := none })
    (x.dies.foldl (fun s d => s.onDie d (fun y => { y with feTick := y.tick })) s5).freezeNow k



/-- Where the damage of an address that cannot be read is counted: the stack that holds it, or the host port (23 R463, R466). -/
def State.frameSource (s : State) (k a g : Nat) : BoxSource :=
  match s.vaRead k a with
  | some pa => physSource pa
  | none => .pipe g

/-- A frame of partition `k` cannot be read at the address `a` (R411; 23 R463). -/
def State.endDamaged (s : State) (k a : Nat) : State :=
  (s.countUnc (s.frameSource k a ((s.part k).dies.headD 0 * 32))).endFrozen k 12 (BitVec.ofNat 64 a)

/-- TRESUME on partition `k`: the state, and the code that it returns (08 R259; 19 R411). -/
def State.resume (s : State) (k : Nat) : State × Nat :=
  let x := s.part k
  if x.run.phase = .frozen then
    match s.readFrame k 0 [(0, 64)] with
    | .error a => (s.endDamaged k a, 0)
    | .ok bl =>
      let h := wordsOf (blockAt bl 0)
      let act := bitsOf (wordAt h 5) 1 0
      if 2 ≤ act then (s, 2)
      else if act = 1 then (s.endFrozen k 0 (wordAt h 6), 0)
      else match s.readFrames k x.places with
        | .error a => (s.endDamaged k a, 0)
        | .ok fr => (s.restartFrom k fr, 0)
  else (s, 1)

/-- TRESUME_PERFORM: a TRESUME of the supervising coach performs at partition `k` (19 R411). -/
def execTresumePerform (k : Nat) (s : State) : Out :=
  let ps := s.planeOps (s.part k).run.sup (fun o => match o with
    | .tresume => true
    | _ => false)
  match ps[s.freeVal % ps.length]? with
  | none => .next s
  | some (t, a) =>
    let (s1, v) := s.drawn.resume k
    .next (s1.onThread t (fun th => th.complete a (BitVec.ofNat 64 v)))

/-! ### A domain of packages (22 R453, R455) -/

/-- LINK_FREEZE_NOTICE: a freeze notice reaches partition `k`, which detects an EXT cause at position 0 in this cycle, or, in a
held one, in the first that runs (09 R289); the number of the package that first detected is free (22 R453). -/
def execLinkFreezeNotice (k : Nat) (s : State) : Out :=
  let x := s.part k
  let d := x.dies.headD 0
  let info := 0xFFFFF000 + s.freeVal % 64
  if x.run.phase = .running ∧ s.fw.inDomain = true ∧ x.run.frozenDies.isEmpty = true then
    if (s.die d).inHold.isSome then
      .next (s.drawn.onRun k (fun r => { r with ext := r.ext ++ [{ who := info, stg := false, arrived := true }] }))
    else
      let s1 := s.drawn.record (d * 32) [{ cause := causeExt, stream := 0, pc := 0, detail := 0, info := BitVec.ofNat 32 info }]
      .next (if (s.die d).work.contains (.endPipe (d * 32)) then s1 else s1.conclude (d * 32) (s.now d) none)
  else .next s

/-- LINK_RESTART_NOTICE: a notice reaches partition `k` that another member restarts, on which it restarts as by TRESUME, or
that its ACTION is ABORT, on which the launch ends; which, and the DETAIL of an end, is free (22 R455). -/
def execLinkRestartNotice (k : Nat) (s : State) : Out :=
  let r := (s.part k).run
  if s.fw.inDomain = true ∧ (r.phase = .frozen ∨ r.phase = .running) then
    let s1 : State := { s with free := s.free + 2 }
    .next (if s.freeVal % 2 = 0 then (s1.resume k).1
      else s1.endFrozen k 0 (BitVec.ofNat 64 (Config.freeNat (s.free + 1))))
  else .next s

/-! ### The next cycle of a die -/

/-- Die `d` reaches the cycle that carries fe: it stops, and the last die of the partition to do so lets the freeze take
effect, every window up to fe − 1 judged (09 R268, R286; 19 R405). ATK stands at fe, or before it where a brake or a turnpike
delay holds its cycle back (09 R289); a change of allowance with that ATK takes hold (25 R480). -/
def State.reachFe (s : State) (k d : Nat) : State :=
  let held := (s.part k).run.feHeld.isSome
  let s1 := (s.onDie d (fun x =>
    let y := x.tickOn held
    { y with feTick := y.tick, atFe := !held })).allowanceDue d
  let s2 := s1.onRun k (fun r => { r with frozenDies := r.frozenDies ++ [d] })
  let fe := (s.part k).run.fe.getD 0
  let s3 := if s2.allFrozen k then (s.part k).dies.foldl (fun s e => s.judgeWindows e (fe - 1)) s2 else s2
  s3.by (execFreezeTakesEffect k)

/-- A brake, a turnpike delay or an occurrence of the stage table that the turnpike delays may hold the cycle `n` of die `d`
back. -/
def State.mayHold (s : State) (k d : Nat) (n : Tick) : Bool :=
  (s.brakeTotal k d n).isSome || (match (s.part k).run.delay with
    | some e => if e.at_ = n then decide (e.total ≠ some 0) else (s.stageNeed k n).isSome
    | none => (s.stageNeed k n).isSome)

/-- The next cycle of die `d` waits for other dies of its partition (log 1): one that is 31 cycles ahead of another, one at a
cycle that its partition may hold back, until the others stand there too, and one that stands at fe, until all do. -/
def State.dieWaits (s : State) (d : Nat) : Bool :=
  match s.partOf d with
  | none => false
  | some k =>
    let x := s.part k
    let r := x.run
    let moving := fun (e : Nat) => !(r.frozenDies.contains e) || (s.die e).restart.isSome
    if r.phase = .none ∨ r.phase = .complete then false
    else if !(moving d) then !(s.allFrozen k)
    else
      let a := (s.die d).axis
      let special := s.mayHold k d (s.now d + 1)
      x.dies.any (fun e => decide (e ≠ d) && moving e &&
        (Tick.le ((s.die e).axis + 31) a ||
         (special && (Tick.lt (s.die e).axis a || (decide ((s.die e).axis = a) && !((s.die e).work.isEmpty))))))

/-- Die `d` takes its next cycle. -/
def State.nextCycle (s : State) (d : Nat) : State :=
  let s1 := (s.by (execRestart d)).observe d
  let k := (s1.partOf d).getD 0
  match s1.nextKind d with
  | .idle => ((s1.onDie d (fun x => x.tickOn false)).allowanceDue d).by (execLayoverSettle d)
  | .frozen => s1.holdCycle d
  | .restart => (s1.onDie d (fun x => { x with restart := x.restart.map (fun n => n - 1) })).holdCycle d
  | .paced => s1.holdCycle d
  | .atFreeze => s1.reachFe k d
  | .brakeStart => s1.by (execBrakeHoldStart d)
  | .brake => (s1.onDie d Die.brakeCycle).holdCycle d
  | .brakeLimit _ => s1.by (execBrakeLimit d)
  | .align => s1.alignCycle d
  | .delay => s1.delayCycle d
  | .run => s1.beginCycle k d

/-- The turn of die `d`: its next cycle, or the next piece of the one in progress (log 1). -/
def State.dieTurn (s : State) (d : Nat) : Act :=
  match (s.die d).work with
  | [] => .state (if 16 ≤ d ∨ s.dieWaits d = true then s else s.nextCycle d)
  | w :: rest =>
    let s1 := s.onDie d (fun x => { x with work := rest })
    match w with
    | .issue g k => s1.issueWord g k
    | .endPipe g => .state (s1.endPipe g)
    | .endDie => .state (s1.endDie d)

end Sys2Proof.Machine
end

