-- ==== Sys2Proof/Machine/Packets.lean ====
section
/-! DEFINITION. Packets of the host portal: their fields and checks, their queues, and exclusive operations (16 R356, R357,
R360, R362, R365; 24 R472). -/
namespace Sys2Proof.Machine

/-! ### Fields of a packet (16 Tables 16-2, 16-3) -/

/-- Word `n` of a packet. -/
def Job.w (x : Job) (n : Nat) : Word := wordAt x.words n
/-- KIND. -/
def Job.kind (x : Job) : Nat := bitsOf (x.w 0) 7 0
/-- PART. -/
def Job.part (x : Job) : Nat := bitsOf (x.w 0) 11 8
/-- Q. -/
def Job.q (x : Job) : Nat := bitsOf (x.w 0) 15 12
/-- TAG. -/
def Job.tag (x : Job) : Nat := bitsOf (x.w 0) 31 16
/-- CHAIN. -/
def Job.chain (x : Job) : Bool := bitOf (x.w 0) 32
/-- CREC, which is ignored for a packet of the BMC (24 R473). -/
def Job.crec (x : Job) : Nat := if x.port = 2 then 0 else (x.w 1).toNat
/-- FILL of a COPY. -/
def Job.fill (x : Job) : Bool := bitOf (x.w 4) 44
/-- Space of SRC of a COPY. -/
def Job.ssp (x : Job) : Nat := bitsOf (x.w 4) 41 40
/-- Space of DST of a COPY. -/
def Job.dsp (x : Job) : Nat := bitsOf (x.w 4) 43 42
/-- LEN of a COPY. -/
def Job.copyLen (x : Job) : Nat := bitsOf (x.w 4) 39 0

/-- The row of the opcode table that a packet's KIND and its OP, FILL or QTYPE select, as KIND × 16 + code; PARTITION
selects its row by the descriptor. None is an unassigned KIND, OP or QTYPE. -/
def Job.form (x : Job) : Option Nat :=
  match x.kind with
  | 1 => some 0x10
  | 2 => some 0x20
  | 3 => some (if x.fill then 0x31 else 0x30)
  | 4 => if bitsOf (x.w 2) 9 8 < 2 then some (0x40 + bitsOf (x.w 2) 9 8) else none
  | 5 => some 0x50
  | 6 => if bitsOf (x.w 4) 2 1 < 2 then some (0x60 + bitsOf (x.w 4) 2 1) else none
  | 7 => if bitsOf (x.w 2) 7 0 < 7 then some (0x70 + bitsOf (x.w 2) 7 0) else none
  | 8 => some 0x80
  | 9 => some 0x90
  | _ => none

/-- The bits that a kind gives fields to, in body words 2 to 7. -/
def bodyMask (kind n : Nat) : Word :=
  match kind, n with
  | 1, 2 => 0x1FFFFFFFFFFFF
  | 2, 2 => 0x1FFFFFFFFFFFF
  | 3, 2 => -1
  | 3, 3 => -1
  | 3, 4 => 0x1FFFFFFFFFFF
  | 3, 5 => -1
  | 4, 2 => 0x7FFFFF
  | 4, 3 => -1
  | 4, 4 => 0x1FFFF
  | 5, 2 => 0xFF
  | 5, 3 => -1
  | 6, 2 => -1
  | 6, 3 => 0xFFFFFFFF
  | 6, 4 => 0x7
  | 6, 5 => 0xFFFFFFFF
  | 7, 2 => 0xFFFFFFFF000000FF
  | 7, 3 => -1
  | 7, 4 => 0xFFFFFFFF
  | 8, 2 => -1
  | 8, 3 => 0xFFFFFFFF
  | 9, 2 => -1
  | 9, 3 => 1
  | _, _ => 0

/-- The limits of a packet's body (Table 16-3; R472). -/
def Job.limitsOk (x : Job) : Bool :=
  match x.kind with
  | 1 => decide ((x.w 2).toNat % 64 = 0)
  | 2 => decide ((x.w 2).toNat % 64 = 0)
  | 3 => decide (1 ≤ x.copyLen) && decide (x.ssp ≤ 1) && decide (x.dsp ≤ 1)
  | 6 => decide ((x.w 3).toNat % 8 = 0)
  | 7 => decide (bitsOf (x.w 2) 7 0 ≠ 4) || decide (bitsOf (x.w 2) 63 32 ≤ 2)
  | 8 => decide (4096 ≤ (x.w 3).toNat) && decide ((x.w 3).toNat ≤ 0x4000000) && decide (x.part = 0) && decide (x.q = 0)
  | 9 => decide ((x.w 2).toNat % 64 = 0)
  | _ => true

/-- A packet breaks R356 in a way that its words alone show. -/
def Job.badWords (x : Job) : Bool :=
  x.form.isNone || decide (bitsOf (x.w 0) 63 33 ≠ 0) || decide (x.crec % 32 ≠ 0) || !x.limitsOk ||
  [2, 3, 4, 5, 6, 7].any (fun n => decide (x.w n &&& ~~~(bodyMask x.kind n) ≠ 0))

/-- A packet is malformed (R356). A PARTITION is judged with its descriptor, since CREATE names a partition that is not
configured. -/
def State.malformed (s : State) (x : Job) : Bool :=
  x.badWords || (decide (x.kind ≠ 9) && !((s.part x.part).configured))

/-! ### Queues (R357, R360) -/

/-- Job `j`. -/
def State.job (s : State) (j : Nat) : Option Job := (s.portal.jobs.find? (fun e => e.1 == j)).map (fun e => e.2)

/-- Two packets are of the same port and queue. -/
def Job.sameQueue (x y : Job) : Bool := decide (x.port = y.port) && decide (x.part = y.part) && decide (x.q = y.q)

/-- The packet before job `j` in its queue. -/
def State.jobBefore (s : State) (j : Nat) (x : Job) : Option Job :=
  ((s.portal.jobs.filter (fun e => decide (e.1 < j) && e.2.sameQueue x)).getLast?).map (fun e => e.2)

/-- A packet has ended. -/
def Job.ended (x : Job) : Bool := decide (x.phase = .completed) || decide (x.phase = .recorded)

/-- A packet is owed a completion record: it names a place for it, or the BMC sent it (R360; 24 R473). -/
def Job.owed (x : Job) : Bool := decide (x.crec ≠ 0) || decide (x.port = 2)

/-- A packet has completed and its record, where one is owed, is written (R360). -/
def Job.settled (x : Job) : Bool :=
  decide (x.phase = .recorded) || (decide (x.phase = .completed) && !x.owed)

/-- The packets before job `j` in its queue let it start: with CHAIN the one before has its record, without it that one has
started, and a WAIT holds its queue until it completes (R357, R358, R360). -/
def State.queueLets (s : State) (j : Nat) (x : Job) : Bool :=
  match s.jobBefore j x with
  | none => true
  | some y => if x.chain then y.settled else if y.kind = 5 then y.ended else decide (y.phase ≠ .waiting)

/-! ### Exclusive operations (R362, R365; 24 R472) -/

/-- Bytes `a` to `a` + `n` − 1 touch the tensor SRAM window (01 R36). -/
def touchesWindow (a n : Nat) : Bool := decide (a < windowBase + 2 ^ 32) && decide (windowBase < a + n)

/-- Whether a packet is an exclusive operation: 0 no, 1 of its partition, 2 of the device. -/
def Job.scope (x : Job) : Nat :=
  match x.kind with
  | 1 => 1
  | 3 => if (!x.fill && decide (x.ssp = 1) && touchesWindow (x.w 2).toNat x.copyLen) ||
            (decide (x.dsp = 1) && touchesWindow (x.w 3).toNat x.copyLen) then 1 else 0
  | 6 => 1
  | 8 => 2
  | 9 => 2
  | _ => 0

/-- A timed launch of partition `k` runs: from its start until it completes or is aborted. -/
def State.timedRuns (s : State) (k : Nat) : Bool :=
  let p := (s.part k).run.phase
  !(decide (p = .none) || decide (p = .complete))

/-- An exclusive operation accepted before job `j` has not ended. With `past`, a timed launch that has started does not
count. -/
def State.exclusiveBefore (s : State) (j : Nat) (x : Job) (past : Bool) : Bool :=
  s.portal.jobs.any (fun e => decide (e.1 < j) && !(e.2.ended) && decide (e.2.scope ≠ 0) &&
    (decide (e.2.scope = 2) || decide (x.scope = 2) || decide (e.2.part = x.part)) &&
    !(past && decide (e.2.kind = 1) && decide (e.2.phase = .started)))

/-- Job `j`, an exclusive operation of its partition, must still wait (R365). -/
def State.excluded (s : State) (j : Nat) (x : Job) : Bool :=
  s.exclusiveBefore j x false || s.timedRuns x.part

end Sys2Proof.Machine
end

