-- ==== Sys2Proof/Machine/Object.lean ====
section
/-! DEFINITION. Fjocia objects and what a launch reads from one: header and CRC, .tprog, .ttab, .lay and .cmem, and the
checks of a timed launch (03 R98 to R103; 09 R271, R273; 10 R290, R291; 16 R366, R367; 22 R450 to R452). -/
namespace Sys2Proof.Machine

/-! ### CRC-32C -/

/-- One bit of CRC-32C, polynomial 0x1EDC6F41 reflected. -/
def crcBit (c : BitVec 32) : BitVec 32 := if c.getLsbD 0 then (c >>> 1) ^^^ 0x82F63B78 else c >>> 1

/-- One byte of CRC-32C. -/
def crcByte (c : BitVec 32) (b : Byte) : BitVec 32 :=
  crcBit (crcBit (crcBit (crcBit (crcBit (crcBit (crcBit (crcBit (c ^^^ b.setWidth 32))))))))

/-- CRC-32C of a byte list (the Castagnoli CRC, log 44). -/
def crc32c (bs : List Byte) : BitVec 32 := bs.foldl crcByte 0xFFFFFFFF ^^^ 0xFFFFFFFF

/-! ### The object (R98, R99) -/

/-- The little-endian number in bytes `o` to `o` + `n` − 1 of a byte list; bytes beyond its end are 0. -/
def leAt (bs : List Byte) (o n : Nat) : Nat := ofBytes ((bs.drop o).take n)

/-- Offset of section `i` (Table 3-23). -/
def secOff (im : List Byte) (i : Nat) : Nat := leAt im (16 + 8 * i) 4
/-- Size of section `i`. -/
def secSize (im : List Byte) (i : Nat) : Nat := leAt im (20 + 8 * i) 4
/-- The bytes of section `i`. -/
def secBytes (im : List Byte) (i : Nat) : List Byte := (im.drop (secOff im i)).take (secSize im i)
/-- Word `n` of section `i`. -/
def secWord (im : List Byte) (i o : Nat) : Word := BitVec.ofNat 64 (leAt (secBytes im i) o 8)

/-- The end of an object whose header is `hd`: that of its last section. -/
def objectEnd (hd : List Byte) : Nat :=
  (List.range 6).foldl (fun m i => if secSize hd i = 0 then m else Nat.max m (secOff hd i + secSize hd i)) 64

/-- The header of an object is right but for its CRC: MAGIC, VERSION, COUNT, FLAGS and section bounds (R99). DESIGN CHOICE
(log 75): a bound is wrong where a section's offset is below 64 or not 64-aligned; sections may overlap, and the object ends with
its last section. -/
def headerBytesOk (hd : List Byte) : Bool :=
  let full := (List.range 6).filter (fun i => decide (secSize hd i ≠ 0))
  decide (leAt hd 0 4 = 0x314F4A46) && decide (leAt hd 4 2 = 1) && decide (leAt hd 6 2 = full.length) &&
  !full.isEmpty && decide (leAt hd 8 4 = if secSize hd 0 = 0 then 0 else 1) &&
  full.all (fun i => decide (secOff hd i % 64 = 0) && decide (64 ≤ secOff hd i))

/-- CRC of the header. -/
def objectCrc (im : List Byte) : BitVec 32 := BitVec.ofNat 32 (leAt im 12 4)

/-- The CRC verifies: that of bytes 64 to the end (R99). -/
def crcOk (im : List Byte) : Bool := decide (crc32c (im.drop 64) = objectCrc im)

/-! ### .ttab (R101) -/

/-- The words of an entry of 32 bytes at offset `o` of .ttab. -/
def ttabEntry (im : List Byte) (o : Nat) : List Word := (List.range 4).map (fun i => secWord im 1 (o + 8 * i))

/-- NSTAGE, NLINK, STOFF, HOFF and LOFF. DESIGN CHOICE (log 93): a launch checks no other bit of the head, no multiple of 32 and no
limit of NLINK (R101); each counts as it stands. -/
def nStage (im : List Byte) : Nat := bitsOf (secWord im 1 0) 12 0
/-- NLINK (log 93). -/
def nLink (im : List Byte) : Nat := bitsOf (secWord im 1 0) 48 32
/-- STOFF (log 93). -/
def stOff (im : List Byte) : Nat := bitsOf (secWord im 1 8) 31 0
/-- HOFF. -/
def hOff (im : List Byte) : Nat := bitsOf (secWord im 1 16) 31 0
/-- LOFF. -/
def lOff (im : List Byte) : Nat := bitsOf (secWord im 1 24) 31 0

/-- The stage table of an object. -/
def stagesOf (im : List Byte) : List StageEntry :=
  (List.range (nStage im)).map (fun i => StageEntry.ofWords (ttabEntry im (stOff im + 32 * i)))

/-- The link plan of an object: NLINK entries from LOFF on, as they stand (log 93). -/
def linksOf (im : List Byte) : List (List Word) := (List.range (nLink im)).map (fun i => ttabEntry im (lOff im + 32 * i))

/-- The 24 words of the timed launch header. -/
def timedHeader (im : List Byte) : List Word := (List.range 24).map (fun i => secWord im 1 (hOff im + 8 * i))

/-- The object holds a timed launch header (R101). -/
def hasTimedHeader (im : List Byte) : Bool := decide (hOff im ≠ 0xFFFFFFFF) && decide (hOff im + 192 ≤ secSize im 1)

/-! ### .tprog (R100) -/

/-- A range entry of .tprog: seats, four streams as entry PC, length and offset, and its images. -/
structure SeatRange where
  first : Nat
  last : Nat
  streams : List (Nat × Nat × Nat)
  icnt : Nat
  ioff : Nat
  deriving DecidableEq, Repr

/-- Range `i` of an object. -/
def seatRange (im : List Byte) (i : Nat) : SeatRange :=
  let w := fun n => secWord im 0 (64 + 64 * i + 8 * n)
  { first := bitsOf (w 0) 9 0, last := bitsOf (w 0) 25 16,
    streams := [1, 2, 3, 4].map (fun n => (bitsOf (w n) 60 47, bitsOf (w n) 46 32, bitsOf (w n) 31 0)),
    icnt := bitsOf (w 5) 47 32, ioff := bitsOf (w 5) 31 0 }

/-- The .seat ranges of an object. DESIGN CHOICE (log 92): a launch checks no field of R100, so NRANGE counts as it stands and reserved
bits are ignored. -/
def seatRanges (im : List Byte) : List SeatRange :=
  if secSize im 0 = 0 then [] else (List.range (bitsOf (secWord im 0 0) 10 0)).map (seatRange im)

/-- The range that serves every seat from `a` to `b`. -/
def rangeOf (rs : List SeatRange) (a b : Nat) : Option SeatRange :=
  rs.find? (fun r => decide (r.first ≤ a) && decide (b ≤ r.last))

/-- The instruction memory of stream `n` of a range: words 0 to LEN − 1; the others are IDLE 0, which is the word 0. DESIGN
CHOICE (log 92): LEN counts to 16,384 at most, and the offset as it stands. -/
def SeatRange.imem (r : SeatRange) (im : List Byte) (n : Nat) : SMap (BitVec 32) :=
  let (_, len, off) := r.streams.getD n (0, 0, 0)
  let bs := ((secBytes im 0).drop off).take (4 * len)
  (List.range (Nat.min len 16384)).map (fun i => (i, BitVec.ofNat 32 (leAt bs (4 * i) 4)))

/-- Entry PC of stream `n`. -/
def SeatRange.entry (r : SeatRange) (n : Nat) : Nat := (r.streams.getD n (0, 0, 0)).1

/-- The descriptor and nest images of a range: tensor SRAM offset and 64 bytes. DESIGN CHOICE (log 92): bits [22:0] of an image's word
are its offset, whatever the others hold. -/
def SeatRange.images (r : SeatRange) (im : List Byte) : List (Nat × List Byte) :=
  let bs := ((secBytes im 0).drop r.ioff).take (72 * r.icnt)
  (List.range r.icnt).map (fun i => (leAt bs (72 * i) 8 % 2 ^ 23, (bs.drop (72 * i + 8)).take 64))

/-! ### .lay and .cmem (R102) -/

/-- The words of the descriptor of layover `w`, where the object holds one: no descriptor is longer than 99 words. -/
def layWords (im : List Byte) (w : Nat) : Option (List Word) :=
  if secSize im 2 = 0 ∨ secWord im 2 (8 * w) = 0 then none
  else some ((List.range 99).map (fun i => secWord im 2 (bitsOf (secWord im 2 (8 * w)) 31 0 + 8 * i)))

/-- The layovers of an object. -/
def laysOf (im : List Byte) : SMap LayDesc :=
  (List.range 64).filterMap (fun w => (layWords im w).map (fun e => (w, LayDesc.ofWords e)))

/-- The coefficient images of an object: 256 segments of 16 bytes each. -/
def cmemOf (im : List Byte) : SMap (List (BitVec 128)) :=
  (List.range (Nat.min (secSize im 3 / 4096) 16)).map (fun n =>
    let bs := ((secBytes im 3).drop (4096 * n)).take 4096
    (n, (List.range 256).map (fun i => BitVec.ofNat 128 (leAt bs (16 * i) 16))))

/-! ### Checks of a timed launch (R366) -/

/-- Number of seats that each pipeline of a partition carries (01 R17). -/
def Partition.seatsPer (x : Partition) : Nat := 1024 / x.pipes.length

/-- The reserved fields of a timed launch header are zero, FRAME is 4 KiB-aligned, DIES are the partition's dies, SUP lies
in the partition, and every pipeline's seats lie in one range (R366 step 2, Table 16-6). -/
def timedHeaderOk (x : Partition) (h : List Word) (rs : List SeatRange) : Bool :=
  let w := wordAt h
  decide (bitsOf (w 0) 63 24 = 0) && decide (bitsOf (w 3) 63 48 = 0) && decide (bitsOf (w 4) 63 48 = 0) &&
  decide (bitsOf (w 5) 63 8 = 0) && decide (bitsOf (w 6) 63 49 = 0) && decide (w 7 = 0) &&
  decide (bitsOf (w 6) 11 0 = 0) &&
  (List.range 16).all (fun d => decide ((w 0).getLsbD d = x.hasDie d)) && x.hasDie (dieOfCoach (bitsOf (w 0) 23 17)) &&
  (List.range x.pipes.length).all (fun k => (rangeOf rs (k * x.seatsPer) (k * x.seatsPer + x.seatsPer - 1)).isSome)

/-- Entry `i` of a stage table meets R273 item 1. -/
def StageEntry.ok (e : StageEntry) : Bool :=
  e.rsvOk && decide (e.hmax ≤ 6) && decide (1 ≤ e.repeats) && decide (e.period = 0 ↔ e.repeats = 1)

/-- The occurrences of entry `i` of table `es` keep their distances: none starts with another, and the next one of any
stage starts no sooner than items 3 and 4 allow (R273). -/
def occsApart (es : List StageEntry) (i : Nat) (e : StageEntry) : Bool :=
  (List.range e.repeats).all (fun k =>
    let t := e.start + k * e.period
    es.zipIdx.all (fun f => decide (f.2 = i) || (f.1.occAt t).isNone) &&
    (match leastOf (es.filterMap (fun f => f.following t)) with
     | none => true
     | some u => if e.rlen = 0 then decide (t < u) else decide (e.endOf t ≤ u)))

/-- The stage table of an object is acceptable (R101, R273). -/
def stagesOk (im : List Byte) : Bool :=
  let es := stagesOf im
  decide (1 ≤ nStage im) && decide (nStage im ≤ 4096) && decide (stOff im + 32 * nStage im ≤ secSize im 1) &&
  es.all StageEntry.ok && es.zipIdx.all (fun e => occsApart es e.2 e.1)

/-- Occurrences of a link plan entry as their read cycles τ. -/
def linkReadsOf (e : List Word) : List Nat :=
  (List.range (bitsOf (wordAt e 3) 31 0)).map (fun k => (wordAt e 0).toNat + k * bitsOf (wordAt e 3) 63 32)

/-- τ `t` lies in the cycles RS(k) to D(k) of a relay occurrence of the table (22 R452). -/
def inRelayDrain (es : List StageEntry) (t : Nat) : Bool :=
  es.any (fun e => decide (e.rlen ≠ 0) && decide (e.rstart ≤ t) && (match e.latest (t - e.rstart) with
    | none => false
    | some b => decide (t ≤ e.endOf b)))

/-- Link `l` joins a member, or, in a dimension of two packages, the opposite one does: each end there has one of the two
directions, and both hold the same plan (22 R446, R452; log 77). -/
def joinsLink (f : Firmware) (l : Nat) : Bool :=
  f.lup.getLsbD l || (decide (l < 6) && decide ([f.dx, f.dy, f.dz].getD (l % 3) 0 = 1) && f.lup.getLsbD ((l + 3) % 6))

/-- A link plan is acceptable for a package with the links and the domain of `f` (22 R452). -/
def linksOk (f : Firmware) (es : List StageEntry) (ls : List (List Word)) : Bool :=
  ls.all (fun e =>
    let w := wordAt e
    decide (bitsOf (w 1) 63 35 = 0) && decide (bitsOf (w 2) 63 32 = 0) && joinsLink f (bitsOf (w 1) 34 32) &&
    decide (bitsOf (w 1) 22 0 < tensorSize) && decide (bitsOf (w 2) 22 0 < tensorSize) &&
    (linkReadsOf e).all (fun t => inRelayDrain es (t + 640))) &&
  (List.range 6).all (fun l =>
    let ts := (ls.filter (fun e => decide (bitsOf (wordAt e 1) 34 32 = l))).flatMap linkReadsOf
    ts.zipIdx.all (fun a => ts.zipIdx.all (fun b => decide (a.2 = b.2) || decide (a.1 + 2 < b.1) || decide (b.1 + 2 < a.1))))

/-- Descriptor `d` filed under `w` is acceptable for partition `x` (10 Table 10-1, R291). -/
def layOk (x : Partition) (w : Nat) (d : LayDesc) : Bool :=
  d.rsvOk && decide (d.id = w) && decide (32 ≤ d.settle) && decide (d.settle ≤ 1048575) &&
  (if d.brake then decide (1 ≤ d.limit) else decide (d.limit = 0)) && decide (d.dies ≠ 0) && decide (d.pipes ≠ 0) &&
  (List.range 16).all (fun i => !(d.dies.getLsbD i) || x.hasDie i) &&
  (!(d.noen || d.nsen) || x.hasDie (dieOfCoach d.ncoach)) &&
  d.pubs.all (fun p =>
    let a := p.2.1 % 2 ^ 23
    decide (1 ≤ p.1) && decide (a + p.1 ≤ tensorSize) && d.dies.getLsbD (p.2.1 / 2 ^ 28 % 16) &&
    d.pipes.getLsbD (p.2.1 / 2 ^ 23 % 32) && (banksOf a p.1).all (fun b => d.banks.getLsbD b))

/-- The layovers of an object are acceptable; in a domain of several packages none may brake (10 R291; 22 R450). -/
def laysOk (x : Partition) (domain : Bool) (im : List Byte) : Bool :=
  (List.range 64).all (fun w => match layWords im w with
    | none => true
    | some ws => layOk x w (LayDesc.ofWords ws) && !(domain && (LayDesc.ofWords ws).brake))

end Sys2Proof.Machine
end

