-- ==== Sys2Proof/Machine/Start.lean ====
section
/-! DEFINITION. What a packet reads before it starts, when it may start, and how its outcome is noted (16 R356, R357, R362,
R365, R366; 24 R470). -/
namespace Sys2Proof.Machine

/-! ### Reading what a packet names -/

/-- A place that a packet reads or writes: a physical address, or an offset of a pipeline's tensor SRAM. -/
inductive Spot
  | phys (pa : Nat)
  | tensor (g off : Nat)
  deriving DecidableEq, Repr

/-- The spot `n` bytes on. -/
def Spot.plus (p : Spot) (n : Nat) : Spot :=
  match p with
  | .phys a => .phys (a + n)
  | .tensor g o => .tensor g (o + n)

/-- The unit in which an uncorrectable error at a spot lies (17 R389; 23 R463, R466). -/
def Spot.source (p : Spot) : BoxSource :=
  match p with
  | .phys a => physSource a
  | .tensor g _ => .pipe g

/-- A byte at a spot, none where it is damaged or its host access fails (17 R389; 23 R463). -/
def State.spotRead (s : State) (p : Spot) : Option Byte :=
  match p with
  | .phys a => if s.damaged a 1 then none else some (s.mem.read a)
  | .tensor g o => if (s.eccSlips g 0 0 o 1).isEmpty then some ((s.pipe g).mem.sram.read o) else none

/-- The spot of a window address: in the tensor SRAM of a die of partition `k` (01 R36, R38). -/
def State.windowSpot (s : State) (k a : Nat) : Option Spot :=
  let o := a - windowBase
  if o < 2 ^ 32 ∧ (s.part k).hasDie (o / 2 ^ 28) = true ∧ o % 2 ^ 23 < tensorSize then some (.tensor (globalPipe o) (o % 2 ^ 23))
  else none

/-- The spot of address `a` in space `sp` (0 host bus, 1 paged or window) that a packet of `port` and partition `k` reads a list
or a descriptor from (R356). -/
def State.readSpot (s : State) (port k sp a : Nat) : Option Spot :=
  if sp = 0 then some (.phys (hostAddr port a))
  else if windowBase ≤ a then s.windowSpot k a
  else (s.vaRead k a).map Spot.phys

/-- The `n` bytes at `a` in space `sp`, or the first address that cannot be read. -/
def State.readSpace (s : State) (port k sp a n : Nat) : Except Nat (List Byte) :=
  match n with
  | 0 => .ok []
  | n + 1 => match (s.readSpot port k sp a).bind s.spotRead with
    | none => .error a
    | some b => (State.readSpace s port k sp (a + 1) n).map (fun bs => b :: bs)

/-! ### What a timed launch loads (R364, R366, R371) -/

/-- The resident bank. -/
def Partition.resident (x : Partition) : Bank := if x.useB then x.bankB else x.bankA
/-- The shadow bank. -/
def Partition.shadow (x : Partition) : Bank := if x.useB then x.bankA else x.bankB
/-- The partition with its shadow bank replaced. -/
def Partition.setShadow (x : Partition) (b : Bank) : Partition := if x.useB then { x with bankA := b } else { x with bankB := b }
/-- The shadow becomes resident, with its layovers (10 R297); the bank that was resident keeps its image, where it holds one, as
the one before the swap. -/
def Partition.swapBanks (x : Partition) : Partition :=
  let old : Bank := { x.resident with intact := !x.resident.image.isEmpty }
  let y := if x.useB then { x with useB := false, bankB := old } else { x with useB := true, bankA := old }
  { y with run := { y.run with lays := laysOf y.resident.image } }

/-- Step 1 of R366: the object at `obj` stands in the shadow and becomes resident, or the reason and address of its
rejection. -/
def State.loadObject (s : State) (k obj : Nat) : State × Option (Nat × Word) :=
  let put := fun (im : List Byte) => s.onPart k (fun p => p.setShadow { image := im })
  match s.pagedBytes k obj 64 with
  | .error a => (s, some (10, BitVec.ofNat 64 a))
  | .ok hd =>
    if headerBytesOk hd then
      (match s.pagedBytes k obj (objectEnd hd) with
       | .error a => (put [], some (10, BitVec.ofNat 64 a))
       | .ok im => if crcOk im then ((put im).onPart k Partition.swapBanks, none) else (put im, some (2, 0)))
    else (put hd, some (2, 0))

/-- Step 1 for a packet: its object, or the resident bank where it holds an image (R362). -/
def State.chooseImage (s : State) (k obj : Nat) : State × Option (Nat × Word) :=
  if obj = 0 then (s, if (s.part k).resident.image.isEmpty then some (2, 0) else none) else s.loadObject k obj

/-- Step 2 of R366: the reason that the resident image is refused for. -/
def State.refuseImage (s : State) (k : Nat) : Option Nat :=
  let x := s.part k
  let im := x.resident.image
  if !(hasTimedHeader im && timedHeaderOk x (timedHeader im) (seatRanges im)) then some 5
  else if !(stagesOk im && linksOk s.fw (stagesOf im) (linksOf im) &&
      decide (lOff im + 32 * nLink im ≤ secSize im 1 ∨ nLink im = 0)) then some 3
  else if !(laysOk x s.fw.inDomain im) then some 4
  else none

/-- SEED, CBASE and SPAN of a timed launch header. -/
def seedOf (h : List Word) (lid : Nat) : SeedRec :=
  { seed := wordAt h 2, cbase := bitsOf (wordAt h 3) 47 0, span := bitsOf (wordAt h 4) 47 0, lid := lid }

/-- An earlier-accepted timed launch of another partition has not reached the seed table (R371; log 79). -/
def State.launchBefore (s : State) (j : Nat) : Bool :=
  s.portal.jobs.any (fun e => decide (e.1 < j) && decide (e.2.kind = 1) && decide (e.2.phase = .waiting))

/-! ### What a PARTITION packet names (R362) -/

/-- The pool that a descriptor sets in livery `j`, if any (Table 16-8). -/
def descPool (w : List Word) (j : Nat) : Option Pool :=
  if bitsOf (wordAt w (9 + 4 * j)) 22 0 = 0 then none
  else some { base := bitsOf (wordAt w (8 + 4 * j)) 51 16 * 2 ^ 16, nblk := bitsOf (wordAt w (9 + 4 * j)) 22 0,
              nseq := bitsOf (wordAt w (10 + 4 * j)) 28 0, novf := bitsOf (wordAt w (11 + 4 * j)) 16 0 }

/-- The pools of a descriptor, by livery. -/
def descPools (w : List Word) : SMap Pool := (List.range 8).filterMap (fun j => (descPool w j).map (fun p => (j, p)))

/-- The partition that a CREATE descriptor names, with its banks empty and its counters zero (R362). -/
def descPart (w : List Word) : Partition :=
  { configured := true, row0 := bitsOf (wordAt w 0) 9 8, col0 := bitsOf (wordAt w 0) 11 10,
    height := 2 ^ bitsOf (wordAt w 0) 13 12, width := 2 ^ bitsOf (wordAt w 0) 15 14,
    tsmask := BitVec.ofNat 16 (bitsOf (wordAt w 0) 31 16), root := bitsOf (wordAt w 1) 51 16 * 2 ^ 16,
    csbase := bitsOf (wordAt w 2) 51 15 * 2 ^ 15, sqbase := bitsOf (wordAt w 3) 51 16 * 2 ^ 16,
    sqcap := bitsOf (wordAt w 4) 31 0, pools := descPools w }

/-- A launch runs on one of the dies `ds`. -/
def State.diesBusy (s : State) (ds : List Nat) : Bool :=
  s.parts.any (fun p => s.timedRuns p.1 && p.2.dies.any ds.contains) ||
  s.launches.any (fun e => !(decide (e.2.phase = .complete)) && (hCoaches e.2.header).any (fun c => ds.contains (dieOfCoach c)))

/-! ### When a packet starts (R357; 24 R470) -/

/-- A LAUNCH_DYN waits for room: its header is right and its die's pool is full (R369; 11 R313). -/
def State.roomless (s : State) (x : Job) : Bool :=
  match s.pagedBytes x.part (x.w 2).toNat 64 with
  | .error _ => false
  | .ok bs =>
    let h := wordsOf bs
    headerOk (s.part x.part) h && (match s.pagedBytes x.part (hEvinit h) (64 * hNcoach h) with
      | .error _ => false
      | .ok es => evinitOk (evinitOf (hFcoach h) es) (hFcoach h) (hNcoach h) &&
          !(poolAdmits (s.die (dieOfCoach (hFcoach h))).pool.length true))

/-- The descriptor of a PARTITION packet, or the first address that cannot be read (R362; log 38). -/
def State.readDesc (s : State) (x : Job) : Except Nat (List Word) :=
  let sp := bitsOf (x.w 3) 0 0
  (if sp = 1 ∧ (s.part x.part).configured = false then .error (x.w 2).toNat
    else s.readSpace x.port x.part sp (x.w 2).toNat 320).map wordsOf

/-- The dies that a PARTITION packet with the descriptor `w` takes or frees (R362). -/
def State.descDies (s : State) (x : Job) (w : List Word) : List Nat :=
  (s.part x.part).dies ++ (if bitOf (wordAt w 0) 0 then [] else (descPart w).dies)

/-- A timed launch would be accepted and enter the seed table now (R366, R371). -/
def State.takesSeed (s : State) (x : Job) : Bool :=
  match s.chooseImage x.part (x.w 2).toNat with
  | (_, some _) => false
  | (s1, none) => (s1.refuseImage x.part).isNone &&
      decide ((seedOf (timedHeader (s1.part x.part).resident.image) s1.nextLid).span ≠ 0)

/-- Packet `j` waits for something before it starts: an exclusive operation, room in a pool, dies to fall idle, or the launches
before it in the seed table. A malformed one waits for nothing (R356, R362, R365, R369, R371; 24 R472). -/
def State.startWaits (s : State) (j : Nat) (x : Job) : Bool :=
  !(s.malformed x) && (match x.form with
    | some 0x10 => s.excluded j x || (s.launchBefore j && s.takesSeed x)
    | some 0x20 => s.roomless x
    | some 0x60 => s.exclusiveBefore j x true
    | some 0x80 => s.exclusiveBefore j x true
    | some 0x90 => s.exclusiveBefore j x false || (match s.readDesc x with
        | .error _ => false
        | .ok w => s.diesBusy (s.descDies x w))
    | _ => decide (x.scope = 1) && s.excluded j x)

/-- Packet `j` waits for nothing but its turn (R357; log 76). -/
def State.onlyTurn (s : State) (j : Nat) (x : Job) : Bool :=
  decide (x.phase = .waiting) && s.queueLets j x && !(s.startWaits j x)

/-- Packet `j` may start: its queue lets it, and no takeover is in progress. Those that were accepted before the latest takeover
start in acceptance order (R357; 24 R470; log 76). -/
def State.jobMayStart (s : State) (j : Nat) (x : Job) : Bool :=
  !s.fw.handover && s.queueLets j x &&
    (decide (s.portal.tookOver ≤ j) || s.portal.jobs.all (fun e => decide (j ≤ e.1) || !(s.onlyTurn e.1 e.2)))

/-! ### Outcomes (16 Tables 16-4, 16-5) -/

/-- Job `j` ends with an outcome. -/
def State.endJob (s : State) (j : Nat) (status : JobStatus) (reason : Nat) (detail : Word) : State :=
  s.onJob (some j) (fun x => { x with phase := .completed, status := status, reason := reason, detail := detail })

/-- Job `j` is rejected. -/
def State.rejectJob (s : State) (j reason : Nat) (detail : Word) : State := s.endJob j .rejected reason detail

/-- What event row `c` does with packet `j`: nothing while the packet cannot start or is not of that row; a malformed
packet is rejected, one without a row by any of them; `go` starts the others, and `on` goes on with one that has
started. -/
def State.packet (s : State) (j c : Nat) (go on : Job → State) : Out :=
  match s.job j with
  | none => .next s
  | some x =>
    if x.form = some c ∨ x.form = none then
      match x.phase with
      | .waiting =>
        if s.jobMayStart j x then (if s.malformed x then .next (s.rejectJob j 1 0) else .next (go x)) else .next s
      | .started => .next (on x)
      | _ => .next s
    else .next s

/-- Packet `j` is rejected for an address that cannot be read; an uncorrectable error, or a failing host access, there is counted
(Table 16-5; 17 R389; 23 R463, R466). -/
def State.rejectRead (s : State) (j : Nat) (x : Job) (sp a : Nat) : State :=
  (match s.readSpot x.port x.part sp a with
    | some p => if (s.spotRead p).isNone then s.countUnc p.source else s
    | none => s).rejectJob j 10 (BitVec.ofNat 64 a)

end Sys2Proof.Machine
end

