-- ==== Sys2Proof/Machine/Portal.lean ====
section
/-! DEFINITION. The portal, completion records, signals and waits, and ownership of the device (16 R354, R355, R358, R360; 22 R456;
24 R470, R473, R474). -/
namespace Sys2Proof.Machine

/-! ### The portal (R354, R355; 24 R470, R473) -/

/-- A packet is accepted into the acceptance order. -/
def State.accept (s : State) (port : Nat) (w : List Word) : State :=
  { s with portal := { s.portal with
      jobs := s.portal.jobs.set s.portal.nextJob { port := port, words := w }, nextJob := s.portal.nextJob + 1,
      answers := s.portal.answers ++ [(port, .accepted)] } }

/-- The portal answers without accepting. -/
def State.answer (s : State) (port : Nat) (a : PortalAnswer) : State :=
  { s with portal := { s.portal with answers := s.portal.answers ++ [(port, a)] } }

/-- Packets of a port that occupy its buffer: those that have not started. -/
def State.buffered (s : State) (port : Nat) : Nat :=
  (s.portal.jobs.filter (fun e => decide (e.2.port = port) && decide (e.2.phase = .waiting))).length

/-- The completion of Table 16-1 for a DMWr of `w` at portal offset `a`: a handover comes first (24 R470), then ownership,
length and alignment, then room (log 43). -/
def State.judgeWrite (s : State) (port a : Nat) (w : List Word) : PortalAnswer :=
  if s.fw.handover then .retry
  else if s.fw.own.owner.toNat ≠ port + 1 ∨ w.length ≠ 8 ∨ a % 64 ≠ 0 ∨ 4096 ≤ a then .unsupported
  else if 256 ≤ s.buffered port then .retry
  else .accepted

/-- A write of a packet by master `port`. -/
def State.submit (s : State) (port a : Nat) (w : List Word) : State :=
  match s.judgeWrite port a w with
  | .accepted => s.accept port w
  | r => s.answer port r

/-- PORTAL_DMWR: a DMWr of the words `w` at offset `a` of the portal of host port `port` (R354); nothing
comes through a retired port (25 R485). -/
def execPortalDmwr (port a : Nat) (w : List Word) (s : State) : Out :=
  .next (if port < 2 ∧ s.fw.hostOff.getLsbD port = false then s.submit port a w else s)

/-- PORTAL_POSTED_WRITE: a posted write to the portal is discarded and counted (R354). -/
def execPortalPostedWrite (port : Nat) (s : State) : Out :=
  .next (if port < 2 ∧ s.fw.hostOff.getLsbD port = false then
    { s with portal := { s.portal with discarded := s.portal.discarded.set port (s.portal.discarded.get port 0 + 1) } }
  else s)

/-- MCTP_PACKET: the BMC submits a packet (24 R473). -/
def execMctpPacket (w : List Word) (s : State) : Out := .next (s.submit 2 0 w)

/-! ### Completion records (R360) -/

/-- STATUS. -/
def JobStatus.code (c : JobStatus) : Nat :=
  match c with
  | .done => 0
  | .rejected => 1
  | .aborted => 2
  | .seedFault => 3

/-- The four words of a completion record (Table 16-4). -/
def Job.record (x : Job) : List Nat :=
  [x.lid % 2 ^ 32 * 2 ^ 32 + x.status.code * 2 ^ 24 + x.kind * 2 ^ 16 + x.tag,
   (if x.status = .rejected ∨ x.status = .aborted then x.reason else 0) * 2 ^ 48 + (if x.overlap then 2 ^ 47 else 0) +
     x.flags % 128,
   x.span.toNat, x.detail.toNat]

/-- The state after `bs` are written at bus address `a` behind `port`: bytes whose access fails do not land, and the failure is
counted (17 R389; 23 R466). -/
def State.hostWrite (s : State) (port a : Nat) (bs : List Byte) : State :=
  let pa := hostAddr port a
  if s.damaged pa bs.length then
    let land := fun (m : Memory) (e : Byte × Nat) => if s.damaged (pa + e.2) 1 then m else m.write (pa + e.2) e.1
    ({ s with mem := bs.zipIdx.foldl land s.mem } : State).countUnc (physSource pa)
  else { s with mem := s.mem.writeBytes pa bs }

/-- COMPLETION_RECORD_WRITE: the record of completed packet `j` is written once those that are owed to earlier packets of its
queue are; a packet of the BMC has its record returned over MCTP (R360; 24 R473). -/
def execCompletionRecordWrite (j : Nat) (s : State) : Out :=
  match s.job j with
  | none => .next s
  | some x =>
    if x.phase = .completed ∧ s.portal.jobs.all (fun e => decide (j ≤ e.1) || !(e.2.sameQueue x) || !(e.2.owed) ||
        decide (e.2.phase = .recorded)) = true then
      let s1 := s.onJob (some j) (fun y => { y with phase := .recorded })
      let bs := x.record.flatMap (toBytes 8)
      .next (if x.port = 2 then { s1 with portal := { s1.portal with toBmc := s1.portal.toBmc ++ [bs] } }
             else if x.crec = 0 then s1
             else s1.hostWrite x.port x.crec bs)
    else .next s

/-! ### Signals and waits (R358; 22 R456) -/

/-- The condition of a WAIT holds. -/
def State.waitHolds (s : State) (x : Job) : Bool :=
  decide ((x.w 3).toNat ≤ ((s.part x.part).ctrs.get (bitsOf (x.w 2) 7 0) 0).toNat)

/-- WAIT_COMPLETE: a started WAIT completes when its condition holds (R358). -/
def execWaitComplete (j : Nat) (s : State) : Out :=
  .next (match s.job j with
    | none => s
    | some x => if x.phase = .started ∧ x.form = some 0x50 ∧ s.waitHolds x = true then s.endJob j .done 0 0 else s)

/-- After a counter has changed, the started WAITs whose condition now holds complete: this is the first moment at which
it holds (R358). -/
def State.settleWaits (s : State) : State :=
  s.portal.jobs.foldl (fun s e => s.by (execWaitComplete e.1)) s

/-- WAIT (R358). -/
def execWait (j : Nat) (s : State) : Out :=
  s.packet j 0x50
    (fun x => if s.waitHolds x then s.endJob j .done 0 0 else s.onJob (some j) (fun y => { y with phase := .started }))
    (fun _ => s)

/-- Synchronisation counter `c` of partition `k` takes value `v`. -/
def State.setCounter (s : State) (k c : Nat) (v : Word) : State :=
  (s.onPart k (fun p => { p with ctrs := p.ctrs.set c v })).settleWaits

/-- A SIGNAL that gives its counter the value `f` of the old one and its operand; its line and vector follow (R358). A
packet of the BMC has no port to raise a vector on. -/
def State.signal (s : State) (j c : Nat) (f : Word → Word → Word) : Out :=
  s.packet j c (fun x =>
    let ctr := bitsOf (x.w 2) 7 0
    let s1 := (s.endJob j .done 0 0).setCounter x.part ctr (f ((s.part x.part).ctrs.get ctr 0) (x.w 3))
    let s2 := if bitOf (x.w 2) 10 then s1.setLineHeld (bitsOf (x.w 2) 17 11) (bitsOf (x.w 2) 22 18) else s1
    if bitOf (x.w 4) 16 && decide (x.port < 2) then
      { s2 with portal := { s2.portal with msix := s2.portal.msix ++ [(x.port, bitsOf (x.w 4) 15 0)] } }
    else s2) (fun _ => s)

/-- SIGNAL SET (R358). -/
def execSignalSet (j : Nat) (s : State) : Out := s.signal j 0x40 (fun _ v => v)
/-- SIGNAL ADD, modulo 2^64 (R358). -/
def execSignalAdd (j : Nat) (s : State) : Out := s.signal j 0x41 (fun o v => o + v)

/-- UET_COMPLETION: a completion of an Ethernet port sets counter `ctr` of partition `k` to `v`, and event line `line` mod
32 of coach `line` / 32 (22 R456); with every port retired there is none (25 R485). -/
def execUetCompletion (k ctr : Nat) (v : Word) (line : Option Nat) (s : State) : Out :=
  if ctr < 256 ∧ (s.part k).configured = true ∧ s.fw.ethOff ≠ -1 then
    let s1 := s.setCounter k ctr v
    .next (match line with
      | none => s1
      | some n => s1.setLineHeld (n / 32) (n % 32))
  else .next s

/-! ### Ownership (24 R473, R474) -/

/-- The state with OWN changed. -/
def State.setOwn (s : State) (o : Own) : State := { s with fw := { s.fw with own := o } }

/-- Master `m` (1 port A, 2 port B, 3 BMC) writes the status page: not through a retired port (25 R485). -/
def State.mayWritePage (s : State) (m : Nat) : Bool :=
  decide (0 < m) && decide (m ≤ 3) && !(s.fw.hostOff.getLsbD (m - 1))

/-- OWN_CLAIM: master `m` writes CLAIM (R474). With no active complex none is applied (R469). -/
def execOwnClaim (m : Nat) (s : State) : Out :=
  let o := s.fw.own
  if s.mayWritePage m = false ∨ s.fw.active = false then .next s
  else if o.succ = BitVec.ofNat 2 m then
    .next (s.setOwn { epoch := o.epoch + 1, succ := 0, owner := BitVec.ofNat 2 m })
  else if o.owner = 0 then .next (s.setOwn { o with epoch := o.epoch + 1, owner := BitVec.ofNat 2 m })
  else .next s

/-- OWN_SUCC: master `m` writes SUCC; the owner's own code, or 0, cancels (R474). -/
def execOwnSucc (m succ : Nat) (s : State) : Out :=
  let o := s.fw.own
  if s.mayWritePage m = false ∨ 3 < succ then .next s
  else if o.owner = BitVec.ofNat 2 m then
    .next (s.setOwn { o with succ := if succ = m then 0 else BitVec.ofNat 2 succ })
  else .next s

/-- SUCC_TIMEOUT: a named successor that has not claimed within 1 s is cleared (R474). -/
def execSuccTimeout (s : State) : Out := .next (s.setOwn { s.fw.own with succ := 0 })

/-- OWNER_LOSS: the owner's link is down, or the BMC silent, for 5 s (R474). -/
def execOwnerLoss (s : State) : Out :=
  let o := s.fw.own
  .next (if o.owner = 0 then s else s.setOwn { o with owner := 0, epoch := o.epoch + 1 })

end Sys2Proof.Machine
end

