-- ==== Sys2Proof/Machine/Host.lean ====
section
/-! DEFINITION. The packets that launch, copy, configure and partition (16 R359, R361 to R373; 22 R449; 25 R481). -/
namespace Sys2Proof.Machine

/-! ### Configuration banks (R364, R372, R373; 24 R476) -/

/-- A measurement register is extended: M := SHA-384(M || digest) (24 R476; log 40). -/
def State.measure (s : State) (n : Nat) (digest : BitVec 384) : State :=
  let m := Config.sha384 (toBytes 48 (s.fw.meas.get n 0).toNat ++ toBytes 48 digest.toNat)
  { s with fw := { s.fw with meas := s.fw.meas.set n m } }

/-- The swap of a difference or a rollback on partition `k`: measurement register 3 takes the new image (24 R476). -/
def State.swapMeasured (s : State) (k : Nat) : State :=
  let s1 := s.onPart k Partition.swapBanks
  s1.measure 3 (Config.sha384 (s1.part k).resident.image)

/-- An entry of a difference list: section, offset in it, data. -/
structure DiffEntry where
  sect : Nat
  off : Nat
  data : List Byte
  deriving DecidableEq, Repr

/-- The entries of a difference list (R372), at most `fuel`; none where an entry's header is malformed or its data is cut
off. -/
def diffEntries (fuel : Nat) (bs : List Byte) : Option (List DiffEntry) :=
  match fuel with
  | 0 => if bs.isEmpty then some [] else none
  | f + 1 =>
    if bs.isEmpty then some []
    else
      let h : Word := BitVec.ofNat 64 (leAt bs 0 8)
      let n := bitsOf h 23 8
      let room := (n + 7) / 8 * 8
      if bitsOf h 31 24 ≠ 0 ∨ bitsOf h 7 3 ≠ 0 ∨ n = 0 ∨ 3 < bitsOf h 2 0 ∨ bs.length < 8 + room then none
      else (diffEntries f (bs.drop (8 + room))).map (fun l =>
        ({ sect := bitsOf h 2 0, off := bitsOf h 63 32, data := (bs.drop 8).take n } : DiffEntry) :: l)

/-- A byte list with `d` laid over it from `o` on. -/
def overlay (bs : List Byte) (o : Nat) (d : List Byte) : List Byte := bs.take o ++ d ++ bs.drop (o + d.length)

/-- The image with an entry written, none where it lies outside its section (R372 step 3). -/
def DiffEntry.apply (im : List Byte) (e : DiffEntry) : Option (List Byte) :=
  if e.off + e.data.length ≤ secSize im e.sect then some (overlay im (secOff im e.sect + e.off) e.data) else none

/-- CONFIG_DIFF APPLY, steps 1 to 4: the resident image with the list applied stands in the shadow, and the swap remains
(R372). Earlier exclusive operations end first, but for a timed launch that has started. -/
def execConfigDiffApply (j : Nat) (s : State) : Out :=
  s.packet j 0x60 (fun x =>
    if s.exclusiveBefore j x true then s
    else
      let n := (x.w 3).toNat
      let crc : BitVec 32 := (x.w 5).setWidth 32
      let drop := fun (s : State) => s.onPart x.part (fun p => p.setShadow {})
      match s.readSpace x.port x.part (bitsOf (x.w 4) 0 0) (x.w 2).toNat n with
      | .error a => s.rejectRead j x (bitsOf (x.w 4) 0 0) a
      | .ok bs =>
        let im := (s.part x.part).resident.image
        match (diffEntries (n / 8 + 1) bs).bind (fun l => l.foldlM DiffEntry.apply im) with
        | none => (drop s).rejectJob j 9 0
        | some im1 =>
          if crc32c (im1.drop 64) = crc then
            (s.onPart x.part (fun p => p.setShadow
              { image := if im1.isEmpty then [] else overlay im1 12 (toBytes 4 crc.toNat) })).onJob (some j)
              (fun y => { y with phase := .started, ready := true })
          else (drop s).rejectJob j 7 0) (fun _ => s)

/-- CONFIG_SWAP: the shadow of partition `k`, made ready by a difference, becomes resident as an exclusive operation
(R372 step 5). -/
def execConfigSwap (k : Nat) (s : State) : Out :=
  match s.portal.jobs.find? (fun e => decide (e.2.kind = 6) && e.2.ready && decide (e.2.phase = .started) && decide (e.2.part = k)) with
  | none => .next s
  | some (j, x) => .next (if s.excluded j x then s else (s.swapMeasured k).endJob j .done 0 0)

/-- CONFIG_DIFF ROLLBACK (R373). -/
def execConfigDiffRollback (j : Nat) (s : State) : Out :=
  s.packet j 0x61 (fun x =>
    if s.excluded j x then s
    else
      let b := (s.part x.part).shadow
      if b.intact && crcOk b.image then (s.swapMeasured x.part).endJob j .done 0 0 else s.rejectJob j 8 0) (fun _ => s)

/-! ### Timed launches (R366, R371; 25 R481) -/

/-- Two seed records share a counter value, modulo 2^48 (R371). -/
def SeedRec.overlaps (a b : SeedRec) : Bool :=
  decide (a.seed = b.seed) && (decide ((b.cbase + 2 ^ 48 - a.cbase) % 2 ^ 48 < a.span) ||
    decide ((a.cbase + 2 ^ 48 - b.cbase) % 2 ^ 48 < b.span))

/-- The launch that a seed record names has not completed. -/
def State.seedLive (s : State) (r : SeedRec) : Bool :=
  s.parts.any (fun p => decide (p.2.run.lid = r.lid) && s.timedRuns p.1)

/-- The lowest launch whose seed record overlaps `r` (R371). -/
def State.seedClash (s : State) (r : SeedRec) : Option Nat :=
  if r.span = 0 then none else leastOf ((s.fw.seeds.filter (fun e => s.seedLive e && e.overlaps r)).map (fun e => e.lid))

/-- A seed record is entered: the 64 latest are kept, oldest first (R371). -/
def State.enterSeed (s : State) (r : SeedRec) : State :=
  if r.span = 0 then s
  else
    let l := s.fw.seeds ++ [r]
    { s with fw := { s.fw with seeds := l.drop (l.length - 64) } }

/-- The turnpikes of partition `x` approve every stage (25 R481). -/
def State.approves (s : State) (x : Partition) (es : List StageEntry) : Bool :=
  x.dies.all (fun d => es.all (fun e => decide (4 * e.pclass ≤ (s.die d).ta)))

/-- Pipeline `p` at position `n` of a partition that carries `q` seats a pipeline, loaded for a launch (01 R39; 04 R139;
03 R100; 05 R144). Tensor SRAM keeps its contents but for the images. -/
def Pipe.load (p : Pipe) (im : List Byte) (h : List Word) (n q : Nat) : Pipe :=
  match rangeOf (seatRanges im) (n * q) (n * q + q - 1) with
  | none => p
  | some r =>
    let seq := fun (i : Nat) => ({ pc := r.entry i, imem := r.imem im i } : Seq)
    let mem : Store := { p.mem with coef := [], badCoef := [], hist := [] }
    let csr : Csrs :=
      { tpctl := (wordAt h 1).setWidth 5, seedLo := (wordAt h 2).setWidth 32,
        seedHi := (wordAt h 2).extractLsb' 32 32, seat := BitVec.ofNat 10 (n * q), cbase := (wordAt h 3).setWidth 48,
        histCtl := (wordAt h 5).setWidth 8,
        mcgroup := (List.range 16).map (fun i => (i, (wordAt h (8 + i)).setWidth 48)) }
    { c := seq 0, l := seq 1, x := seq 2, s := seq 3, csr := csr, book := p.book,
      mem := (r.images im).foldl (fun m e => m.put e.1 e.2) mem }

/-- The least coordinate of a domain's members in the dimension `l` of link −`l`: with extent 2 the package across that link, where
it is the one that joins a member (22 R446, R447). -/
def Firmware.lowCoord (f : Firmware) (ext : BitVec 2) (l c : Nat) : Nat :=
  if ext = 2 then 0 else if ext = 1 ∧ f.lup.getLsbD l = true then c - 1 else c

/-- The lowest package number of the domain (22 R446). -/
def Firmware.chooser (f : Firmware) : Nat :=
  let p := f.pkg.toNat
  f.lowCoord f.dx 0 (p % 4) + 4 * f.lowCoord f.dy 1 (p / 4 % 4) + 16 * f.lowCoord f.dz 2 (p / 16)

/-- The ATK0 of a launch: the least multiple of 320 that lies at least 4,096 above the lowest die's ATK. In a domain the member of
lowest number chooses it and sends it: for the others, which may load later than it chose, it is a free multiple of 320 that no die
has reached yet (R366 step 5; 22 R449). -/
def State.chooseAtk0 (s : State) (x : Partition) : Tick × State :=
  let a := (s.now (x.dies.headD 0)).toNat
  if s.fw.inDomain && decide (s.fw.pkg.toNat ≠ s.fw.chooser) then
    let b := (x.dies.map (fun d => (s.now d).toNat)).foldl Nat.max 0
    (BitVec.ofNat 64 ((b / 320 + 1 + s.freeVal % 2 ^ 32) * 320), s.drawn)
  else (BitVec.ofNat 64 ((a + 4096 + 319) / 320 * 320), s)

/-- Step 5 of R366: the units of partition `k` are loaded for launch `lid` of job `j`, which starts at ATK0. -/
def State.loadUnits (s : State) (k lid j : Nat) (ovl : Option Nat) : State :=
  let x := s.part k
  let im := x.resident.image
  let h := timedHeader im
  let s1 := x.places.foldl (fun s e => s.onPipe e.2 (fun p => p.load im h e.1 x.seatsPer)) s
  let (a, s2) := s1.chooseAtk0 x
  (s2.onRun k (fun _ =>
    { phase := .loading, lid := lid, atk0 := a, header := h, stages := stagesOf im, lays := laysOf im, links := linksOf im,
      cmem := cmemOf im, overlap := ovl, job := some j })).onJob (some j) (fun y => { y with phase := .started, lid := lid })

/-- LAUNCH_TIMED: the steps of R366 (R365 to R367, R371; 25 R481). One with a seed record waits for those accepted earlier, so
that all enter the table in acceptance order. -/
def execLaunchTimed (j : Nat) (s : State) : Out :=
  s.packet j 0x10 (fun x =>
    let k := x.part
    if s.excluded j x then s
    else match s.chooseImage k (x.w 2).toNat with
    | (s1, some (r, a)) => if r = 10 then s1.rejectRead j x 1 a.toNat else s1.rejectJob j r a
    | (s1, none) =>
      match s1.refuseImage k with
      | some r => s1.rejectJob j r 0
      | none =>
        let h := timedHeader (s1.part k).resident.image
        let rec_ := seedOf h s1.nextLid
        let clash := s1.seedClash rec_
        if rec_.span ≠ 0 ∧ s.launchBefore j = true then s
        else if clash.isSome && bitOf (wordAt h 0) 16 then
          (s1.endJob j .seedFault 0 (BitVec.ofNat 64 (clash.getD 0))).onJob (some j) (fun y => { y with overlap := true })
        else
          let s2 : State := { s1.enterSeed rec_ with nextLid := s1.nextLid + 1 }
          if s2.approves (s2.part k) (stagesOf (s2.part k).resident.image) then s2.loadUnits k s1.nextLid j clash
          else (s2.rejectJob j 11 (BitVec.ofNat 64 (clash.getD 0))).onJob (some j)
            (fun y => { y with lid := s1.nextLid, overlap := clash.isSome })) (fun _ => s)

/-! ### Dynamic launches (R369) -/

/-- LAUNCH_DYN: the header enters the pool of FCOACH's die as a child marked PROGRESS; it never spills (R369; 11 R307,
R316). -/
def execLaunchDyn (j : Nat) (s : State) : Out :=
  s.packet j 0x20 (fun x =>
    let k := x.part
    match s.pagedBytes k (x.w 2).toNat 64 with
    | .error a => s.rejectRead j x 1 a
    | .ok bs =>
      let h := wordsOf bs
      if !(headerOk (s.part k) h) then s.rejectJob j 5 0
      else match s.pagedBytes k (hEvinit h) (64 * hNcoach h) with
        | .error a => s.rejectRead j x 1 a
        | .ok es =>
          let ev := evinitOf (hFcoach h) es
          let die := dieOfCoach (hFcoach h)
          if !(evinitOk ev (hFcoach h) (hNcoach h)) then s.rejectJob j 6 0
          else if poolAdmits (s.die die).pool.length true then
            ((s.newLaunch k die h ev true none (some j)).takeIn die s.nextLid).onJob (some j)
              (fun y => { y with phase := .started, lid := s.nextLid })
          else s) (fun _ => s)

/-! ### COPY (R359) -/

/-- The spot of the paged address `a` through the page table of partition `k`, to be written or read; none is a stop (R359; 17
R376, R381, R385). -/
def State.pagedSpot (s : State) (k a : Nat) (wr : Bool) : Option Spot × State :=
  match s.translate .copy k a with
  | (none, s1) => (none, s1)
  | (some (e3, big), s1) =>
    let pa := leafAddr e3 big a
    if leafAllows e3 (!wr) wr false true then
      (match s1.tier pa with
       | .nothing => (none, s1)
       | .control _ _ => (none, s1)
       | _ => (some (.phys pa), s1))
    else (none, s1)

/-- The spot of address `a` in space `sp` for a packet of `port` and partition `k`, to be written or read; none is a stop
(R359; 01 R38). -/
def State.spot (s : State) (port k sp a : Nat) (wr : Bool) : Option Spot × State :=
  if sp = 0 then (some (.phys (hostAddr port a)), s)
  else if windowBase ≤ a then (s.windowSpot k a, s)
  else s.pagedSpot k a wr

/-- Bytes written at a spot. -/
def State.spotWrite (s : State) (p : Spot) (bs : List Byte) : State :=
  match p with
  | .phys a => s.writePhys a bs
  | .tensor g o => s.onPipe g (fun q => { q with mem := q.mem.put o bs })

/-- A write of `n` bytes at a spot fails: it is a host access that ends in an error (17 R389). -/
def State.spotFails (s : State) (p : Spot) (n : Nat) : Bool :=
  match p with
  | .phys a => s.hostStoreFails (.phys a) n
  | .tensor .. => false

/-- Up to `n` bytes copied from address `a` to the spot `d`, if any, in increasing order: the state, the bytes, and the address
that stopped it. -/
def State.copyBytes (s : State) (port k sp a n : Nat) (d : Option Spot) : State × List Byte × Option Nat :=
  match n with
  | 0 => (s, [], none)
  | m + 1 =>
    match s.spot port k sp a false with
    | (none, s1) => (s1, [], some a)
    | (some p, s1) =>
      match s1.spotRead p with
      | none => (s1.countUnc p.source, [], some a)
      | some b =>
        let s2 := match d with
          | some d => s1.spotWrite d [b]
          | none => s1
        let (s3, bs, e) := State.copyBytes s2 port k sp (a + 1) m (d.map (fun d => d.plus 1))
        (s3, b :: bs, e)

/-- Bytes of the piece of a COPY that starts at DST + `n`: up to the next 32-byte boundary of DST. -/
def Job.piece (x : Job) (n : Nat) : Nat :=
  Nat.min (32 - ((x.w 3).toNat + n) % 32) (x.copyLen - n)

/-- One more piece of COPY `j`; a granule that the piece covers is sound again (23 R463). A piece whose host access fails does not
land, and is counted (17 R389). -/
def State.copyPiece (s : State) (j : Nat) (x : Job) : State :=
  let stop := fun (s : State) (a : Nat) => s.endJob j .aborted 10 (BitVec.ofNat 64 a)
  let n := x.piece x.moved
  let dst := (x.w 3).toNat + x.moved
  match s.spot x.port x.part x.dsp dst true with
  | (none, s1) => if x.fill then stop s1 dst else
      (match s1.spot x.port x.part x.ssp ((x.w 2).toNat + x.moved) false with
       | (none, s2) => stop s2 ((x.w 2).toNat + x.moved)
       | (some _, s2) => stop s2 dst)
  | (some d, s1) =>
    let (s2, bs, e) :=
      if x.fill then
        (s1, (List.range n).map (fun i => ((toBytes 8 (x.w 5).toNat).getD ((x.moved + i) % 8) 0)), none)
      else s1.copyBytes x.port x.part x.ssp ((x.w 2).toNat + x.moved) n (if s1.spotFails d n then none else some d)
    let s3 := if s1.spotFails d n then s2.countUnc d.source else s2.spotWrite d bs
    match e with
    | some a => stop s3 a
    | none =>
      let s4 := s3.onJob (some j) (fun y => { y with phase := .started, moved := x.moved + n })
      if x.copyLen ≤ x.moved + n then s4.endJob j .done 0 0 else s4

/-- A COPY starts, or moves one more piece. -/
def State.copyRow (s : State) (j c : Nat) : Out :=
  s.packet j c (fun x => if (decide (x.scope = 1) && s.excluded j x) then s else s.copyPiece j x) (fun x => s.copyPiece j x)

/-- COPY (R359). -/
def execCopy (j : Nat) (s : State) : Out := s.copyRow j 0x30
/-- COPY with FILL (R359). -/
def execCopyFill (j : Nat) (s : State) : Out := s.copyRow j 0x31

/-! ### Partitions (R361 to R363; 09 R277; 18 R392, R393) -/

/-- Die `d` is retired: since a package reset (23 R464, R465). -/
def Firmware.retired (f : Firmware) (d : Nat) : Bool := f.health.retired.getLsbD d && !(f.marked.getLsbD d)

/-- The bytes `a` to `a` + `n` − 1 lie in populated HBM (17 R375). A region that spans all eight stacks may hold those of one that
is off: else no partition could be configured beside it (23 R465, R467; log 70). -/
def State.populated (s : State) (a n : Nat) : Bool :=
  let units := (a + n + 0x3FFF) / 0x4000 - a / 0x4000
  decide (a + n ≤ 0x6000000000) && (decide (8 ≤ units) ||
    (List.range units).all (fun i => !(s.fw.health.stackoff.getLsbD ((a / 0x4000 + i) % 8))))

/-- The reserved fields of a CREATE descriptor are zero. -/
def descRsvOk (w : List Word) : Bool :=
  let z := fun (n hi lo : Nat) => decide (bitsOf (wordAt w n) hi lo = 0)
  z 0 63 32 && z 0 7 1 && z 1 63 52 && z 1 15 0 && z 2 63 52 && z 2 14 0 && z 3 63 52 && z 3 15 0 && z 4 63 32 &&
  decide (wordAt w 5 = 0) && decide (wordAt w 6 = 0) && decide (wordAt w 7 = 0) &&
  decide (bitsOf (wordAt w 0) 15 14 ≠ 3) && decide (bitsOf (wordAt w 0) 13 12 ≠ 3) &&
  (List.range 8).all (fun j => z (8 + 4 * j) 63 52 && z (8 + 4 * j) 15 0 && z (9 + 4 * j) 63 23 && z (10 + 4 * j) 63 29 &&
    z (11 + 4 * j) 63 17)

/-- The bits set in a slot mask. -/
def maskBits (m : BitVec 16) : Nat := ((List.range 16).filter (fun i => m.getLsbD i)).length

/-- The slots of every partition's mask. -/
def State.masks (s : State) : BitVec 16 :=
  s.parts.foldl (fun (m : BitVec 16) (p : Nat × Partition) => if p.2.configured then m ||| p.2.tsmask else m) 0

/-- A slot mask meets R277 beside those of the other partitions. -/
def State.maskOk (s : State) (m : BitVec 16) : Bool :=
  decide (1 ≤ maskBits m) && decide (maskBits m ≤ 14) && decide (m &&& s.masks = 0) && decide (maskBits (m ||| s.masks) ≤ 14)

/-- The pools of every partition of the package. -/
def State.allPools (s : State) : List Pool := s.parts.flatMap (fun p => p.2.pools.map (fun e => e.2))

/-- Two pools share a byte. -/
def Pool.shares (a b : Pool) : Bool :=
  decide (a.base < b.base + b.nblk * 0x10000) && decide (b.base < a.base + a.nblk * 0x10000)

/-- The pools `l` meet Table 18-1, lie in populated HBM, and overlap neither each other nor one of `before` (R362 item 4). -/
def State.poolsOk (s : State) (before : List Pool) (l : List Pool) : Bool :=
  match l with
  | [] => true
  | p :: t =>
    decide (8 ≤ p.nblk) && decide (p.nblk ≤ 4194304) && decide (1 ≤ p.nseq) && decide (p.nseq < 2 ^ 29) &&
    decide (p.novf ≤ 65536) && s.populated p.base (p.nblk * 0x10000) && before.all (fun q => !(p.shares q)) &&
    State.poolsOk s (p :: before) t

/-- CREATE is acceptable for partition `k` (R362 items 1 to 5). -/
def State.createOk (s : State) (k : Nat) (w : List Word) : Bool :=
  let x := descPart w
  descRsvOk w && !((s.part k).configured) && decide (x.row0 + x.height ≤ 4) && decide (x.col0 + x.width ≤ 4) &&
  x.dies.all (fun d => !(s.fw.retired d) && (s.partOf d).isNone) && !(s.fw.health.fatal) && s.maskOk x.tsmask &&
  s.populated x.root 0x10000 && s.populated x.csbase 0x6000000 &&
  s.populated x.sqbase (x.dies.length * x.sqcap * 64) && s.poolsOk s.allPools (x.pools.map (fun e => e.2)) &&
  x.pools.all (fun e => !(s.fw.health.stackoff.getLsbD e.1))

/-- The dies of the new partition are aligned: each carries the lowest die's ATK, within 6 cycles as a free value says
(R363). -/
def State.alignDies (s : State) (x : Partition) : State :=
  let a := s.now (x.dies.headD 0)
  (x.dies.drop 1).foldl (fun s d =>
    s.drawn.onDie d (fun y => { y with absorbed := y.tick - (a + BitVec.ofNat 64 (s.freeVal % 13) - 6) })) s

/-- The bytes that measurement register 4 takes at a configuration: partition map and pool parameters (24 R476; log 40). -/
def State.mapBytes (s : State) : List Byte :=
  s.parts.flatMap (fun p => toBytes 8 p.1 ++ toBytes 2 ((List.range 16).filter p.2.hasDie).length ++
    p.2.dies.flatMap (toBytes 1) ++ toBytes 2 p.2.tsmask.toNat ++
    p.2.pools.flatMap (fun e => toBytes 1 e.1 ++ toBytes 8 e.2.base ++ toBytes 4 e.2.nblk ++ toBytes 4 e.2.nseq ++ toBytes 4 e.2.novf))

/-- A PARTITION packet with the descriptor `w` is performed: the state, once nothing that it waits for is left. Its descriptor is
read after the exclusive operations before it have ended. -/
def State.partitionRow (s : State) (j : Nat) (destroy : Bool) (act : Job → List Word → State) : Out :=
  s.packet j 0x90 (fun x =>
    if s.exclusiveBefore j x false then s
    else match s.readDesc x with
      | .error a => s.rejectRead j x (bitsOf (x.w 3) 0 0) a
      | .ok w => if bitOf (wordAt w 0) 0 ≠ destroy ∨ s.diesBusy (s.descDies x w) = true then s else act x w) (fun _ => s)

/-- PARTITION CREATE (R362, R363; 24 R476). -/
def execPartitionCreate (j : Nat) (s : State) : Out :=
  s.partitionRow j false (fun x w =>
    if s.createOk x.part w then
      let s1 := (s.setPart x.part (descPart w)).alignDies (descPart w)
      (s1.measure 4 (Config.sha384 s1.mapBytes)).endJob j .done 0 0
    else s.rejectJob j 18 0)

/-- PARTITION DESTROY: pools, counters and banks are discarded and the dies freed (R362). -/
def execPartitionDestroy (j : Nat) (s : State) : Out :=
  s.partitionRow j true (fun x w =>
    if !((s.part x.part).configured) then s.rejectJob j 1 0
    else if w ≠ 1 :: List.replicate 39 0 then s.rejectJob j 18 0
    else
      let s1 : State := { s.setPart x.part {} with tlb := s.tlb.filter (fun e => !(decide (e.part = x.part))) }
      (s1.measure 4 (Config.sha384 s1.mapBytes)).endJob j .done 0 0)

/-! ### Domains of packages (22 R446 to R449) -/

/-- The dimension of a package link. -/
def linkDim (l : Nat) : Nat := l % 3

/-- Link `l` of a package at coordinate `c` of its dimension, of extent code `e`, leads to a package of a box: none in a dimension
of one package, and past the end of the torus only where the links wrap (R446, R447). -/
def linkMay (e c l : Nat) : Bool :=
  decide (e = 2) || (decide (e = 1) && (if l < 3 then decide (0 < c) else decide (c < 3)))

/-- The links `up` may join a box of extent code `e` in dimension `i`: of two packages, one is across exactly one of its two links
(R446). -/
def dimOk (up : BitVec 6) (e i : Nat) : Bool := decide (e < 3) && (decide (e ≠ 1) || (up.getLsbD i != up.getLsbD (i + 3)))

/-- DOMAIN_FORMATION: with no launch running, the package joins the domain that the link configuration word `n` names
(Table 22-2); its links up join packages of its box, and every die's ATK agrees with the domain's, a free value, within 6 cycles
(R446, R449). -/
def execDomainFormation (n : Nat) (s : State) : Out :=
  let w : Word := BitVec.ofNat 64 n
  let ext := fun (i : Nat) => bitsOf w (19 + 2 * i) (18 + 2 * i)
  let lup := (List.range 6).foldl (fun (m : BitVec 6) l =>
    if w.getLsbD (6 + l) && linkMay (ext (linkDim l)) (bitsOf w 17 12 / 4 ^ linkDim l % 4) l then m ||| BitVec.ofNat 6 (2 ^ l)
    else m) 0
  if (List.range 3).all (fun i => dimOk lup (ext i) i) = false ∨ s.diesBusy (List.range 16) = true then .next s
  else
    let s1 : State := { s with fw := { s.fw with
      dx := BitVec.ofNat 2 (ext 0), dy := BitVec.ofNat 2 (ext 1), dz := BitVec.ofNat 2 (ext 2),
      pkg := BitVec.ofNat 6 (bitsOf w 17 12), lup := lup } }
    let a : Tick := BitVec.ofNat 64 s1.freeVal
    .next ((List.range 16).foldl (fun s d =>
      s.drawn.onDie d (fun y => { y with absorbed := y.tick - (a + BitVec.ofNat 64 (s.freeVal % 7)) })) s1.drawn)

end Sys2Proof.Machine
end

