-- ==== Sys2Proof/Machine/Firmware.lean ====
section
/-! DEFINITION. Queries, firmware images and takeover, attestation, package reset and loss of power (16 R374; 22 R448;
23 R464 to R468; 24 R469 to R478; 25 R485). -/
namespace Sys2Proof.Machine

/-! ### Query replies (16 R374, Table 16-7; log 45) -/

/-- A byte list of exactly `n` bytes: cut off, or filled with zeros. -/
def sized (n : Nat) (bs : List Byte) : List Byte := bs.take n ++ List.replicate (n - bs.length) 0

/-- The link configuration word (22 Table 22-2). -/
def Firmware.linkWord (f : Firmware) : Nat :=
  f.dz.toNat * 2 ^ 22 + f.dy.toNat * 2 ^ 20 + f.dx.toNat * 2 ^ 18 + f.pkg.toNat * 2 ^ 12 + f.lup.toNat * 2 ^ 6 + f.tch.toNat

/-- A QUERY of row `c` writes as much of its reply as the buffer holds; a longer reply has its length in DETAIL. -/
def State.query (s : State) (j c : Nat) (reply : Job → List Byte) : Out :=
  s.packet j c (fun x =>
    let bs := reply x
    let n := bitsOf (x.w 4) 31 0
    (s.hostWrite x.port (x.w 3).toNat (bs.take n)).endJob j .done 0
      (if n < bs.length then BitVec.ofNat 64 bs.length else 0)) (fun _ => s)

/-- ARG of a QUERY. -/
def Job.arg (x : Job) : Nat := bitsOf (x.w 2) 63 32

/-- The identity, versions and portal statistics of a QUERY type 0 reply, in 64 bytes: the device's identity, VERSION and SVN of the
image that both complexes run, and the posted writes that each port has discarded (R354, R374; log 45). -/
def State.identity (s : State) : List Byte :=
  sized 32 (Config.identity s.freeVal) ++ toBytes 8 (Config.imageVersion s.fw.image) ++ toBytes 8 (Config.imageSvn s.fw.image) ++
    [0, 1].flatMap (fun p => toBytes 8 (s.portal.discarded.get p 0))

/-- QUERY type 0: identity, versions and portal statistics, then the link word (R374; 22 R448). -/
def execQueryIdentity (j : Nat) (s : State) : Out :=
  (s.drawn).query j 0x70 (fun _ => s.identity ++ toBytes 8 s.fw.linkWord)

/-- An entry of the partition map: DIES, TSMASK, the resident bank, and its CRC, in 16 bytes. -/
def Partition.mapEntry (x : Partition) : List Byte :=
  toBytes 2 ((List.range 16).foldl (fun n d => if x.hasDie d then n + 2 ^ d else n) 0) ++ toBytes 2 x.tsmask.toNat ++
  toBytes 4 (if x.useB then 1 else 0) ++ toBytes 8 (objectCrc x.resident.image).toNat

/-- QUERY type 1: the partition map (R374). -/
def execQueryPartitionMap (j : Nat) (s : State) : Out :=
  s.query j 0x71 (fun _ => (List.range 16).flatMap (fun k => (s.part k).mapEntry))

/-- State of launch `lid`: 0 unknown, 1 waiting, 2 running, 3 frozen, 4 complete (Table 16-7). -/
def State.launchState (s : State) (lid : Nat) : Nat :=
  if lid = 0 ∨ s.nextLid ≤ lid then 0
  else match s.parts.find? (fun p => decide (p.2.run.lid = lid) && s.timedRuns p.1) with
    | some (_, x) => (match x.run.phase with
      | .loading => 1
      | .frozen => 3
      | _ => 2)
    | none => match s.launch lid with
      | some l => (match l.phase with
        | .pooled => 1
        | .spilled => 1
        | .started => 2
        | .complete => 4)
      | none => 4

/-- QUERY type 2: the state of a launch (R374). -/
def execQueryLaunchState (j : Nat) (s : State) : Out := s.query j 0x72 (fun x => toBytes 8 (s.launchState x.arg))

/-- A seed record in 32 bytes. -/
def SeedRec.bytes (r : SeedRec) : List Byte := toBytes 8 r.seed.toNat ++ toBytes 8 r.cbase ++ toBytes 8 r.span ++ toBytes 8 r.lid

/-- QUERY type 3: the 64 seed records, oldest first (R374). -/
def execQuerySeedRecords (j : Nat) (s : State) : Out :=
  s.query j 0x73 (fun _ => sized 2048 (s.fw.seeds.flatMap SeedRec.bytes))

/-- The first word of the health record (23 Table 23-3). -/
def Health.word0 (h : Health) : Nat :=
  h.stackoff.toNat * 2 ^ 32 + h.retired.toNat * 2 ^ 16 + h.version.toNat * 2 ^ 8 + (if h.fatal then 2 else 0) +
    (if h.replace then 1 else 0)

/-- The health record (23 Table 23-3). -/
def Health.bytes (h : Health) : List Byte :=
  toBytes 8 h.word0 ++
  (List.range 16).flatMap (fun d => toBytes 8 ((h.sp1.get d 0x3F).toNat * 2 ^ 8 + (h.sp0.get d 0x3F).toNat)) ++
  (List.range 24).flatMap (fun k => toBytes 8 (h.unc.get k 0 * 2 ^ 32 + h.cor.get k 0)) ++ toBytes 8 h.hosterr.toNat

/-- A source in 8 bytes: which kind of unit, and its number (23 R468; log 3). -/
def BoxSource.bytes (b : BoxSource) : List Byte :=
  let (c, n) := match b with
    | .die d => (0, d)
    | .pipe g => (1, g)
    | .gig g => (2, g)
    | .stack j => (3, j)
    | .port p => (4, p)
  toBytes 4 c ++ toBytes 4 n

/-- A black-box entry in 448 bytes: sequence number, TICK, kind and source in 32, and 416 of payload (23 R468; log 3). -/
def BoxEntry.bytes (e : BoxEntry) : List Byte :=
  toBytes 8 e.num ++ toBytes 8 e.tick.toNat ++ toBytes 8 e.kind ++ e.source.bytes ++ sized 416 (toBytes 8 e.payload.toNat)

/-- QUERY type 4: the health record, or with ARG 1 or 2 the west or east ring, oldest entry first (23 R466, R468). -/
def execQueryHealth (j : Nat) (s : State) : Out :=
  s.query j 0x74 (fun x => if x.arg = 0 then s.fw.health.bytes else s.fw.rings.reverse.flatMap BoxEntry.bytes)

/-- QUERY type 5: the synchronisation counters from ARG to 255 (R374). -/
def execQueryCounters (j : Nat) (s : State) : Out :=
  s.query j 0x75 (fun x => (List.range (256 - x.arg)).flatMap (fun i =>
    toBytes 8 ((s.part x.part).ctrs.get (x.arg + i) 0).toNat))

/-! ### Attestation (24 R476 to R478; log 40) -/

/-- The leaf that signed the alias certificate: of the I/O die whose complex made it (R477; log 40). -/
def Firmware.certLeaf (f : Firmware) : Nat := if f.certWest then f.leafWest else f.leafEast

/-- The attestation report on a nonce: EPOCH and OWNER, VERSION and SVN of both complexes, registers 0 to 7, the alias
certificate, and the signature over all of it (R478). -/
def Firmware.report (f : Firmware) (nonce : List Byte) : List Byte :=
  let body := nonce ++ toBytes 4 (f.own.epoch.toNat * 256 + f.own.owner.toNat) ++
    [0, 1].flatMap (fun (_ : Nat) => toBytes 8 (Config.imageVersion f.image) ++ toBytes 8 (Config.imageSvn f.image)) ++
    (List.range 8).flatMap (fun n => toBytes 48 (f.meas.get n 0).toNat) ++ Config.aliasCert f.certWest f.certLeaf
  body ++ Config.sign f.certWest f.certLeaf body

/-- QUERY type 6: the report on the 48-byte nonce at RADDR (R478). A nonce that cannot be read rejects it (log 78). -/
def execQueryAttestation (j : Nat) (s : State) : Out :=
  match s.job j with
  | none => .next s
  | some x =>
    if s.damaged (hostAddr x.port (x.w 3).toNat) 48 then
      s.packet j 0x76 (fun x => match s.readSpace x.port x.part 0 (x.w 3).toNat 48 with
        | .error a => s.rejectRead j x 0 a
        | .ok _ => s) (fun _ => s)
    else s.query j 0x76 (fun x => s.fw.report (s.mem.readBytes (hostAddr x.port (x.w 3).toNat) 48))

/-- SPDM_GET_MEASUREMENTS: the BMC obtains the report on its own nonce (R478), where a complex is active (R469). -/
def execSpdmGetMeasurements (nonce : BitVec 384) (s : State) : Out :=
  .next (if s.fw.active then
    { s with portal := { s.portal with toBmc := s.portal.toBmc ++ [s.fw.report (toBytes 48 nonce.toNat)] } } else s)

/-! ### Firmware update and takeover (24 R470 to R472, R476) -/

/-- An image verifies: both signatures, and SVN (R471). -/
def imageOk (im : List Byte) : Bool :=
  Config.ecdsaOk im && Config.lmsOk im && decide (Config.fusedSvn ≤ Config.imageSvn im)

/-- The reason that the standby refuses an image for (R472). -/
def State.refuseFirmware (s : State) (im : List Byte) : Option Nat :=
  if !(Config.ecdsaOk im && Config.lmsOk im) then some 13
  else if Config.imageSvn im < Config.fusedSvn then some 15
  else if !(decide (Config.imageTmin im ≤ s.fw.tableVersion) && decide (s.fw.tableVersion ≤ Config.imageTmax im)) then some 14
  else if !(Config.imageBoots im) then some 16
  else none

/-- The takeover ends: the other complex is active with the image of NEXT, which becomes CUR, and starts what has been accepted in
acceptance order (R470, R472 steps 4, 5; R476). -/
def State.takeover (s : State) : State :=
  let f := s.fw
  let s1 : State := { s with fw := { f with west := !f.west, cur := f.next, next := f.cur, image := f.next, handover := false },
                             portal := { s.portal with tookOver := s.portal.nextJob } }
  ((s1.measure 1 (Config.sha384 f.next)).measure 2 (Config.sha384 (toBytes 8 f.tableVersion))).box 0 boxTakeover (.die 0)
    (if f.west then 1 else 0)

/-- FW_UPDATE: the image is copied and verified and the takeover begins, then the takeover ends (R470 to R472). A copy that fails
rejects the packet with the reason of an access fault (17 R389; log 78). -/
def execFwUpdate (j : Nat) (s : State) : Out :=
  s.packet j 0x80 (fun x =>
    if s.exclusiveBefore j x true then s
    else match s.readSpace x.port x.part 0 (x.w 2).toNat (x.w 3).toNat with
    | .error a => s.rejectRead j x 0 a
    | .ok im =>
      let s1 : State := { s with fw := { s.fw with next := im } }
      match s1.refuseFirmware im with
      | some r => s1.rejectJob j r 0
      | none => ({ s1 with fw := { s1.fw with handover := true } } : State).onJob (some j) (fun y => { y with phase := .started }))
    (fun _ => s.takeover.endJob j .done 0 0)

/-! ### Package reset and loss of power (23 R464, R465, R467, R468; 24 R469, R476, R477; 25 R485) -/

/-- The failed physical pipelines of die `d` among the failed parts `bad` (log 41). -/
def failedPipes (bad : List Nat) (d : Nat) : List Nat := (List.range 34).filter (fun p => bad.contains (64 + 34 * d + p))

/-- The spares of die `d` that work, in order, and the logical numbers of its failed pipelines: which number each spare takes
(23 R464). -/
def spareOf (bad : List Nat) (d : Nat) : List (Nat × Nat) :=
  let f := failedPipes bad d
  ([32, 33].filter (fun p => !(f.contains p))).zip (f.filter (fun p => decide (p < 32)))

/-- A test or a training step retires die `d`: the die failed, or more than 2 of its pipelines (23 R464; 25 R485). -/
def dieFails (bad : List Nat) (d : Nat) : Bool := bad.contains d || decide (2 < (failedPipes bad d).length)

/-- The health record after the tests of a package reset (23 R464 to R467). -/
def Health.tested (h : Health) (bad : List Nat) : Health :=
  let ds := (List.range 16).filter (fun d => dieFails bad d)
  let off := (List.range 8).filter (fun k => bad.contains (16 + k))
  let sp := fun (p : Nat) => (List.range 16).filterMap (fun d =>
    ((spareOf bad d).find? (fun e => e.1 == p)).map (fun e => (d, BitVec.ofNat 6 e.2)))
  let retired := ds.foldl (fun (m : BitVec 16) d => m ||| BitVec.ofNat 16 (2 ^ d)) h.retired
  let stackoff := off.foldl (fun (m : BitVec 8) k => m ||| BitVec.ofNat 8 (2 ^ k)) h.stackoff
  { h with retired := retired, stackoff := stackoff, sp0 := sp 32, sp1 := sp 33,
           fatal := h.fatal || bad.contains 24,
           replace := h.replace || decide (retired ≠ 0) || decide (stackoff ≠ 0) ||
             (List.range 16).any (fun d => decide ((spareOf bad d).length = 2)) }

/-- The ports among `bad`, from code `o` on (log 41). -/
def portsOff {n : Nat} (bad : List Nat) (o : Nat) : BitVec n :=
  (List.range n).foldl (fun m p => if bad.contains (o + p) then m ||| BitVec.ofNat n (2 ^ p) else m) 0

/-- Memory outside the package: CXL and host, which a reset leaves. -/
def outerMemory (m : Memory) : Memory := m.filter (fun c => decide (0x1000000000000 ≤ c.1))

/-- What a reset or a loss of power keeps: MRAM, the image store and the boot configuration, memory outside the package with the
accesses that fail there, and the model's own order of work (22 R443; 23 R467, R468; 24 R471, R477). -/
def State.cold (s : State) : State :=
  { State.reset with
    schedule := s.schedule, free := s.free, mem := outerMemory s.mem,
    bad := s.bad.filter (fun g => decide (0x1000000000000 ≤ g * 32)),
    fw := { State.reset.fw with
      cur := s.fw.cur, next := s.fw.next, leafWest := s.fw.leafWest, leafEast := s.fw.leafEast, rings := s.fw.rings, nextBox := s.fw.nextBox,
      health := s.fw.health, marked := s.fw.marked, tableVersion := s.fw.tableVersion, tch := s.fw.bootTch, bootTch := s.fw.bootTch } }

/-- PACKAGE_RESET: the package comes up, with the parts `bad` failing their tests and TCH as the boot configuration says (22 R443;
25 R485; log 41). Where no image verifies no complex is active (24 R469). A die that was marked is retired from now on (23 R465).
The alias certificate takes one of the 2^20 leaves of the active complex's identity key (24 R477). A port that fails training is
retired (25 R485). -/
def execPackageReset (bad : List Nat) (s : State) : Out :=
  let c := s.cold
  let f := c.fw
  let west := imageOk f.cur
  let run := if west then f.cur else f.next
  let h := f.health.tested bad
  let ok := west || imageOk f.next
  let lw := if west then f.leafWest + 1 else f.leafWest
  let le := if ok && !west then f.leafEast + 1 else f.leafEast
  let s1 : State := { c with fw := { f with
    west := west, active := ok, marked := 0, image := if ok then run else [], certWest := west, leafWest := lw, leafEast := le,
    ethOff := portsOff bad 32, hostOff := portsOff bad 40, cxlOff := portsOff bad 42,
    health := { h with fatal := h.fatal || !ok,
                       replace := h.replace || decide (2 ^ 20 < lw + 1024) || decide (2 ^ 20 < le + 1024) } } }
  let s2 := s1.box 0 boxReset (.die 0) 0
  let new := (List.range 16).filter (fun d => s.fw.marked.getLsbD d || (dieFails bad d && !(f.health.retired.getLsbD d)))
  let gone := (List.range 26).filter (fun p => bad.contains (32 + p))
  let s3 := gone.foldl (fun s p => s.box 0 boxRetire (.port (if p < 8 then p + 2 else if p < 10 then p - 8 else p)) 0)
    (new.foldl (fun s d => s.box d boxRetire (.die d) 0) s2)
  .next (if ok then (s3.measure 0 Config.bootDigest).measure 1 (Config.sha384 run) else s3)

/-- POWER_LOSS: everything but MRAM, the image store and outer memory is lost; the newest black-box entry is the last
durable one (23 R468). -/
def execPowerLoss (s : State) : Out :=
  let c := s.cold
  .next { c with fw := { c.fw with powered := false } }

end Sys2Proof.Machine
end

