-- ==== Sys2Proof/Machine/Dispatch.lean ====
section
/-! DEFINITION. One arm per constructor of Instr: each calls the meaning of its instruction or event. -/
namespace Sys2Proof.Machine

/-- What instruction or event `i` does to the state. -/
def exec (i : Instr) (s : State) : Host.Outcome State Fault Refusal :=
  match i with
  | .idle w n => Sys2Proof.Machine.execIdle w n s
  | .add w d a b => Sys2Proof.Machine.execAdd w d a b s
  | .sub w d a b => Sys2Proof.Machine.execSub w d a b s
  | .and w d a b => Sys2Proof.Machine.execAnd w d a b s
  | .or w d a b => Sys2Proof.Machine.execOr w d a b s
  | .xor w d a b => Sys2Proof.Machine.execXor w d a b s
  | .shl w d a b => Sys2Proof.Machine.execShl w d a b s
  | .shr w d a b => Sys2Proof.Machine.execShr w d a b s
  | .sra w d a b => Sys2Proof.Machine.execSra w d a b s
  | .mul w d a b => Sys2Proof.Machine.execMul w d a b s
  | .mulh w d a b => Sys2Proof.Machine.execMulh w d a b s
  | .mulhu w d a b => Sys2Proof.Machine.execMulhu w d a b s
  | .min w d a b => Sys2Proof.Machine.execMin w d a b s
  | .max w d a b => Sys2Proof.Machine.execMax w d a b s
  | .minu w d a b => Sys2Proof.Machine.execMinu w d a b s
  | .maxu w d a b => Sys2Proof.Machine.execMaxu w d a b s
  | .addi w d a im => Sys2Proof.Machine.execAddi w d a im s
  | .andi w d a im => Sys2Proof.Machine.execAndi w d a im s
  | .ori w d a im => Sys2Proof.Machine.execOri w d a im s
  | .xori w d a im => Sys2Proof.Machine.execXori w d a im s
  | .shli w d a im => Sys2Proof.Machine.execShli w d a im s
  | .shri w d a im => Sys2Proof.Machine.execShri w d a im s
  | .srai w d a im => Sys2Proof.Machine.execSrai w d a im s
  | .li w d im => Sys2Proof.Machine.execLi w d im s
  | .lui w d im => Sys2Proof.Machine.execLui w d im s
  | .cmp w p a b c => Sys2Proof.Machine.execCmp w p a b c s
  | .cmpi w p a c im => Sys2Proof.Machine.execCmpi w p a c im s
  | .sel w d a b p => Sys2Proof.Machine.execSel w d a b p s
  | .lds w d a im => Sys2Proof.Machine.execLds w d a im s
  | .sts w st a im => Sys2Proof.Machine.execSts w st a im s
  | .br w p n im => Sys2Proof.Machine.execBr w p n im s
  | .brp w p n im => Sys2Proof.Machine.execBrp w p n im s
  | .loop w a l m => Sys2Proof.Machine.execLoop w a l m s
  | .lspan w n => Sys2Proof.Machine.execLspan w n s
  | .call w im => Sys2Proof.Machine.execCall w im s
  | .ret w => Sys2Proof.Machine.execRet w s
  | .cGive w q c => Sys2Proof.Machine.execCGive w q c s
  | .cTake w q c => Sys2Proof.Machine.execCTake w q c s
  | .sqw w t a => Sys2Proof.Machine.execSqw w t a s
  | .bqw w p n => Sys2Proof.Machine.execBqw w p n s
  | .align w n => Sys2Proof.Machine.execAlign w n s
  | .stage w n => Sys2Proof.Machine.execStage w n s
  | .wopen w l => Sys2Proof.Machine.execWopen w l s
  | .wclose w l => Sys2Proof.Machine.execWclose w l s
  | .postrd w d st => Sys2Proof.Machine.execPostrd w d st s
  | .postv w p st => Sys2Proof.Machine.execPostv w p st s
  | .nest w l f a => Sys2Proof.Machine.execNest w l f a s
  | .mgo w => Sys2Proof.Machine.execMgo w s
  | .csrr w d c => Sys2Proof.Machine.execCsrr w d c s
  | .csrw w st c => Sys2Proof.Machine.execCsrw w st c s
  | .tick w d => Sys2Proof.Machine.execTick w d s
  | .mark w n => Sys2Proof.Machine.execMark w n s
  | .trapc w c => Sys2Proof.Machine.execTrapc w c s
  | .freeze w => Sys2Proof.Machine.execFreeze w s
  | .halt w => Sys2Proof.Machine.execHalt w s
  | .lScfg w st a im => Sys2Proof.Machine.execLScfg w st a im s
  | .lSadv w st im => Sys2Proof.Machine.execLSadv w st im s
  | .aadd w d a b => Sys2Proof.Machine.execAadd w d a b s
  | .aaddi w d a im => Sys2Proof.Machine.execAaddi w d a im s
  | .ali w d im => Sys2Proof.Machine.execAli w d im s
  | .lSqr w d => Sys2Proof.Machine.execLSqr w d s
  | .ldq w q st => Sys2Proof.Machine.execLdq w q st s
  | .gath w st a im => Sys2Proof.Machine.execGath w st a im s
  | .hld w st a im => Sys2Proof.Machine.execHld w st a im s
  | .lTlbp w st => Sys2Proof.Machine.execLTlbp w st s
  | .bout w st => Sys2Proof.Machine.execBout w st s
  | .ldcb w c a => Sys2Proof.Machine.execLdcb w c a s
  | .ldcm w t a => Sys2Proof.Machine.execLdcm w t a s
  | .lGive w q c => Sys2Proof.Machine.execLGive w q c s
  | .lTake w q c => Sys2Proof.Machine.execLTake w q c s
  | .sScfg w st b im => Sys2Proof.Machine.execSScfg w st b im s
  | .sSadv w st im => Sys2Proof.Machine.execSSadv w st im s
  | .badd w d a b => Sys2Proof.Machine.execBadd w d a b s
  | .baddi w d a im => Sys2Proof.Machine.execBaddi w d a im s
  | .bli w d im => Sys2Proof.Machine.execBli w d im s
  | .sSqr w d => Sys2Proof.Machine.execSSqr w d s
  | .stq w q st f r x h c => Sys2Proof.Machine.execStq w q st f r x h c s
  | .hst w st b im => Sys2Proof.Machine.execHst w st b im s
  | .send w q b => Sys2Proof.Machine.execSend w q b s
  | .mcast w q g b => Sys2Proof.Machine.execMcast w q g b s
  | .rmw w o t b v => Sys2Proof.Machine.execRmw w o t b v s
  | .hclr w st => Sys2Proof.Machine.execHclr w st s
  | .hsnap w st b => Sys2Proof.Machine.execHsnap w st b s
  | .sTlbp w st => Sys2Proof.Machine.execSTlbp w st s
  | .sGive w q c => Sys2Proof.Machine.execSGive w q c s
  | .sTake w q c => Sys2Proof.Machine.execSTake w q c s
  | .vadd w d a b f r x m => Sys2Proof.Machine.execVadd w d a b f r x m s
  | .vsub w d a b f r x m => Sys2Proof.Machine.execVsub w d a b f r x m s
  | .vmul w d a b f r x m => Sys2Proof.Machine.execVmul w d a b f r x m s
  | .vfma w d a b f r x m => Sys2Proof.Machine.execVfma w d a b f r x m s
  | .vfms w d a b f r x m => Sys2Proof.Machine.execVfms w d a b f r x m s
  | .vmax w d a b f m => Sys2Proof.Machine.execVmax w d a b f m s
  | .vmin w d a b f m => Sys2Proof.Machine.execVmin w d a b f m s
  | .vabs w d a f m => Sys2Proof.Machine.execVabs w d a f m s
  | .vneg w d a f m => Sys2Proof.Machine.execVneg w d a f m s
  | .vcvt w d a g f r x m => Sys2Proof.Machine.execVcvt w d a g f r x m s
  | .vcmp w k a b f c m => Sys2Proof.Machine.execVcmp w k a b f c m s
  | .vsel w d a b st m => Sys2Proof.Machine.execVsel w d a b st m s
  | .vand w d a b m => Sys2Proof.Machine.execVand w d a b m s
  | .vor w d a b m => Sys2Proof.Machine.execVor w d a b m s
  | .vxor w d a b m => Sys2Proof.Machine.execVxor w d a b m s
  | .vshl w d a b m => Sys2Proof.Machine.execVshl w d a b m s
  | .vshr w d a b m => Sys2Proof.Machine.execVshr w d a b m s
  | .viadd w d a b f x m => Sys2Proof.Machine.execViadd w d a b f x m s
  | .vimul w d a b f x m => Sys2Proof.Machine.execVimul w d a b f x m s
  | .vred w d a o f r m => Sys2Proof.Machine.execVred w d a o f r m s
  | .vperm w d a b m => Sys2Proof.Machine.execVperm w d a b m s
  | .vspl w d a l m => Sys2Proof.Machine.execVspl w d a l m s
  | .vsplQ w d m => Sys2Proof.Machine.execVsplQ w d m s
  | .vpop w d q => Sys2Proof.Machine.execVpop w d q s
  | .vpush w a q => Sys2Proof.Machine.execVpush w a q s
  | .vtab w d a t f r x m => Sys2Proof.Machine.execVtab w d a t f r x m s
  | .vrope w d a b f r m => Sys2Proof.Machine.execVrope w d a b f r m s
  | .vscl w d a f r x m => Sys2Proof.Machine.execVscl w d a f r x m s
  | .vrng w d m => Sys2Proof.Machine.execVrng w d m s
  | .vdrw w d st f => Sys2Proof.Machine.execVdrw w d st f s
  | .vdwr w a st => Sys2Proof.Machine.execVdwr w a st s
  | .vmsk w d a b f => Sys2Proof.Machine.execVmsk w d a b f s
  | .accrd w d r => Sys2Proof.Machine.execAccrd w d r s
  | .accwr w a r => Sys2Proof.Machine.execAccwr w a r s
  | .accz w st => Sys2Proof.Machine.execAccz w st s
  | .accst w q r f o x => Sys2Proof.Machine.execAccst w q r f o x s
  | .xbr w n im => Sys2Proof.Machine.execXbr w n im s
  | .xloop w l m => Sys2Proof.Machine.execXloop w l m s
  | .xlspan w n => Sys2Proof.Machine.execXlspan w n s
  | .xGive w q c => Sys2Proof.Machine.execXGive w q c s
  | .xTake w q c => Sys2Proof.Machine.execXTake w q c s
  | .vldi w d k im => Sys2Proof.Machine.execVldi w d k im s
  | .gigAdd d a b => Sys2Proof.Machine.execGigAdd d a b s
  | .gigSub d a b => Sys2Proof.Machine.execGigSub d a b s
  | .gigAnd d a b => Sys2Proof.Machine.execGigAnd d a b s
  | .gigOr d a b => Sys2Proof.Machine.execGigOr d a b s
  | .gigXor d a b => Sys2Proof.Machine.execGigXor d a b s
  | .gigShl d a b => Sys2Proof.Machine.execGigShl d a b s
  | .gigShr d a b => Sys2Proof.Machine.execGigShr d a b s
  | .gigSra d a b => Sys2Proof.Machine.execGigSra d a b s
  | .gigMul d a b => Sys2Proof.Machine.execGigMul d a b s
  | .gigMulh d a b => Sys2Proof.Machine.execGigMulh d a b s
  | .gigMulhu d a b => Sys2Proof.Machine.execGigMulhu d a b s
  | .gigDiv d a b => Sys2Proof.Machine.execGigDiv d a b s
  | .gigDivu d a b => Sys2Proof.Machine.execGigDivu d a b s
  | .gigRem d a b => Sys2Proof.Machine.execGigRem d a b s
  | .gigRemu d a b => Sys2Proof.Machine.execGigRemu d a b s
  | .gigSlt d a b => Sys2Proof.Machine.execGigSlt d a b s
  | .gigSltu d a b => Sys2Proof.Machine.execGigSltu d a b s
  | .gigMin d a b => Sys2Proof.Machine.execGigMin d a b s
  | .gigMax d a b => Sys2Proof.Machine.execGigMax d a b s
  | .gigMinu d a b => Sys2Proof.Machine.execGigMinu d a b s
  | .gigMaxu d a b => Sys2Proof.Machine.execGigMaxu d a b s
  | .gigClz d a => Sys2Proof.Machine.execGigClz d a s
  | .gigCtz d a => Sys2Proof.Machine.execGigCtz d a s
  | .gigPopc d a => Sys2Proof.Machine.execGigPopc d a s
  | .gigAddi d a im => Sys2Proof.Machine.execGigAddi d a im s
  | .gigAndi d a im => Sys2Proof.Machine.execGigAndi d a im s
  | .gigOri d a im => Sys2Proof.Machine.execGigOri d a im s
  | .gigXori d a im => Sys2Proof.Machine.execGigXori d a im s
  | .gigShli d a im => Sys2Proof.Machine.execGigShli d a im s
  | .gigShri d a im => Sys2Proof.Machine.execGigShri d a im s
  | .gigSrai d a im => Sys2Proof.Machine.execGigSrai d a im s
  | .slti d a im => Sys2Proof.Machine.execSlti d a im s
  | .sltiu d a im => Sys2Proof.Machine.execSltiu d a im s
  | .gigLui d im => Sys2Proof.Machine.execGigLui d im s
  | .beq a b im => Sys2Proof.Machine.execBeq a b im s
  | .bne a b im => Sys2Proof.Machine.execBne a b im s
  | .blt a b im => Sys2Proof.Machine.execBlt a b im s
  | .bge a b im => Sys2Proof.Machine.execBge a b im s
  | .bltu a b im => Sys2Proof.Machine.execBltu a b im s
  | .bgeu a b im => Sys2Proof.Machine.execBgeu a b im s
  | .jal im => Sys2Proof.Machine.execJal im s
  | .jalr d a im => Sys2Proof.Machine.execJalr d a im s
  | .ldb d a c im => Sys2Proof.Machine.execLdb d a c im s
  | .ldh d a c im => Sys2Proof.Machine.execLdh d a c im s
  | .ldw d a c im => Sys2Proof.Machine.execLdw d a c im s
  | .ldd d a c im => Sys2Proof.Machine.execLdd d a c im s
  | .ldbu d a c im => Sys2Proof.Machine.execLdbu d a c im s
  | .ldhu d a c im => Sys2Proof.Machine.execLdhu d a c im s
  | .ldwu d a c im => Sys2Proof.Machine.execLdwu d a c im s
  | .stb st a c im => Sys2Proof.Machine.execStb st a c im s
  | .sth st a c im => Sys2Proof.Machine.execSth st a c im s
  | .stw st a c im => Sys2Proof.Machine.execStw st a c im s
  | .std st a c im => Sys2Proof.Machine.execStd st a c im s
  | .amoadd d a b w c => Sys2Proof.Machine.execAmoadd d a b w c s
  | .amoswap d a b w c => Sys2Proof.Machine.execAmoswap d a b w c s
  | .amocas d a b w c => Sys2Proof.Machine.execAmocas d a b w c s
  | .amomin d a b w c => Sys2Proof.Machine.execAmomin d a b w c s
  | .amomax d a b w c => Sys2Proof.Machine.execAmomax d a b w c s
  | .amominu d a b w c => Sys2Proof.Machine.execAmominu d a b w c s
  | .amomaxu d a b w c => Sys2Proof.Machine.execAmomaxu d a b w c s
  | .amoand d a b w c => Sys2Proof.Machine.execAmoand d a b w c s
  | .amoor d a b w c => Sys2Proof.Machine.execAmoor d a b w c s
  | .amoxor d a b w c => Sys2Proof.Machine.execAmoxor d a b w c s
  | .fence st m => Sys2Proof.Machine.execFence st m s
  | .fadd d a b f r => Sys2Proof.Machine.execFadd d a b f r s
  | .fsub d a b f r => Sys2Proof.Machine.execFsub d a b f r s
  | .fmul d a b f r => Sys2Proof.Machine.execFmul d a b f r s
  | .fdiv d a b f r => Sys2Proof.Machine.execFdiv d a b f r s
  | .fsqrt d a f r => Sys2Proof.Machine.execFsqrt d a f r s
  | .fmin d a b f => Sys2Proof.Machine.execFmin d a b f s
  | .fmax d a b f => Sys2Proof.Machine.execFmax d a b f s
  | .feq d a b f => Sys2Proof.Machine.execFeq d a b f s
  | .flt d a b f => Sys2Proof.Machine.execFlt d a b f s
  | .fle d a b f => Sys2Proof.Machine.execFle d a b f s
  | .fcvt d a g f r => Sys2Proof.Machine.execFcvt d a g f r s
  | .fexp2 d a => Sys2Proof.Machine.execFexp2 d a s
  | .fma d a b c f r => Sys2Proof.Machine.execFma d a b c f r s
  | .fms d a b c f r => Sys2Proof.Machine.execFms d a b c f r s
  | .fnma d a b c f r => Sys2Proof.Machine.execFnma d a b c f r s
  | .arrive d n => Sys2Proof.Machine.execArrive d n s
  | .waitp d a b n => Sys2Proof.Machine.execWaitp d a b n s
  | .evsig n => Sys2Proof.Machine.execEvsig n s
  | .evmsg a n => Sys2Proof.Machine.execEvmsg a n s
  | .gigSend a b => Sys2Proof.Machine.execGigSend a b s
  | .recv d a n => Sys2Proof.Machine.execRecv d a n s
  | .spawn d a p => Sys2Proof.Machine.execSpawn d a p s
  | .wid d n => Sys2Proof.Machine.execWid d n s
  | .hsift d a b k => Sys2Proof.Machine.execHsift d a b k s
  | .cntadd a b => Sys2Proof.Machine.execCntadd a b s
  | .cntsnap a b n => Sys2Proof.Machine.execCntsnap a b n s
  | .balloc d a n => Sys2Proof.Machine.execBalloc d a n s
  | .bfree a b => Sys2Proof.Machine.execBfree a b s
  | .bfork d a b n => Sys2Proof.Machine.execBfork d a b n s
  | .bmap d a b => Sys2Proof.Machine.execBmap d a b s
  | .bappend d a b n => Sys2Proof.Machine.execBappend d a b n s
  | .wbill d a => Sys2Proof.Machine.execWbill d a s
  | .wbstat d a => Sys2Proof.Machine.execWbstat d a s
  | .post d a b st => Sys2Proof.Machine.execPost d a b st s
  | .tfreeze d st => Sys2Proof.Machine.execTfreeze d st s
  | .tresume d => Sys2Proof.Machine.execTresume d s
  | .tframe d a => Sys2Proof.Machine.execTframe d a s
  | .trap c => Sys2Proof.Machine.execTrap c s
  | .tret => Sys2Proof.Machine.execTret s
  | .gigCsrr d c => Sys2Proof.Machine.execGigCsrr d c s
  | .gigCsrw a c => Sys2Proof.Machine.execGigCsrw a c s
  | .yield => Sys2Proof.Machine.execYield s
  | .gigHalt => Sys2Proof.Machine.execGigHalt s
  | .trace a t => Sys2Proof.Machine.execTrace a t s
  | .rng d a b st => Sys2Proof.Machine.execRng d a b st s
  | .leave d a c => Sys2Proof.Machine.execLeave d a c s
  | .euBarrierArrive t j => Sys2Proof.Machine.execEuBarrierArrive t j s
  | .euMutexAcquire t j => Sys2Proof.Machine.execEuMutexAcquire t j s
  | .euMutexRelease t j => Sys2Proof.Machine.execEuMutexRelease t j s
  | .euEventWait t j => Sys2Proof.Machine.execEuEventWait t j s
  | .euEventSet t j => Sys2Proof.Machine.execEuEventSet t j s
  | .shoot t j => Sys2Proof.Machine.execShoot t j s
  | .done t j => Sys2Proof.Machine.execDone t j s
  | .registerWrite g => Sys2Proof.Machine.execRegisterWrite g s
  | .resultComplete g => Sys2Proof.Machine.execResultComplete g s
  | .scfgTakesEffect g => Sys2Proof.Machine.execScfgTakesEffect g s
  | .tlbpResult g => Sys2Proof.Machine.execTlbpResult g s
  | .ldcmComplete g => Sys2Proof.Machine.execLdcmComplete g s
  | .rmwFinalWrite g => Sys2Proof.Machine.execRmwFinalWrite g s
  | .hldLanding g => Sys2Proof.Machine.execHldLanding g s
  | .hstCompletion g => Sys2Proof.Machine.execHstCompletion g s
  | .hbmSlotTransfer j => Sys2Proof.Machine.execHbmSlotTransfer j s
  | .hbmUnitArrival g late => Sys2Proof.Machine.execHbmUnitArrival g late s
  | .hbmSlotRefusal g => Sys2Proof.Machine.execHbmSlotRefusal g s
  | .hbmRefresh j => Sys2Proof.Machine.execHbmRefresh j s
  | .scrub u a bad => Sys2Proof.Machine.execScrub u a bad s
  | .wordArrival d => Sys2Proof.Machine.execWordArrival d s
  | .relayLanding g => Sys2Proof.Machine.execRelayLanding g s
  | .boundaryChannelOverflow d => Sys2Proof.Machine.execBoundaryChannelOverflow d s
  | .drawbarArrival g => Sys2Proof.Machine.execDrawbarArrival g s
  | .linkPlanRead k j => Sys2Proof.Machine.execLinkPlanRead k j s
  | .linkPlanLanding k j => Sys2Proof.Machine.execLinkPlanLanding k j s
  | .nestKStep g => Sys2Proof.Machine.execNestKStep g s
  | .nestDone g => Sys2Proof.Machine.execNestDone g s
  | .sidebandAtk d n => Sys2Proof.Machine.execSidebandAtk d n s
  | .alignRelease d => Sys2Proof.Machine.execAlignRelease d s
  | .alignSlip d => Sys2Proof.Machine.execAlignSlip d s
  | .freezeTakesEffect k => Sys2Proof.Machine.execFreezeTakesEffect k s
  | .freezeNotice k => Sys2Proof.Machine.execFreezeNotice k s
  | .extIntTaken t => Sys2Proof.Machine.execExtIntTaken t s
  | .extRequestArrival k => Sys2Proof.Machine.execExtRequestArrival k s
  | .tresumePerform k => Sys2Proof.Machine.execTresumePerform k s
  | .restart d => Sys2Proof.Machine.execRestart d s
  | .pipelineFinished g => Sys2Proof.Machine.execPipelineFinished g s
  | .timedGlobalStart k => Sys2Proof.Machine.execTimedGlobalStart k s
  | .postArrival t => Sys2Proof.Machine.execPostArrival t s
  | .brakeHoldStart d => Sys2Proof.Machine.execBrakeHoldStart d s
  | .brakeRelease d => Sys2Proof.Machine.execBrakeRelease d s
  | .brakeLimit d => Sys2Proof.Machine.execBrakeLimit d s
  | .layoverSettle d => Sys2Proof.Machine.execLayoverSettle d s
  | .turnpikeDelayEnd d => Sys2Proof.Machine.execTurnpikeDelayEnd d s
  | .allowanceChange d ta lb => Sys2Proof.Machine.execAllowanceChange d ta lb s
  | .powerCap watts => Sys2Proof.Machine.execPowerCap watts s
  | .wake c => Sys2Proof.Machine.execWake c s
  | .groupExit c => Sys2Proof.Machine.execGroupExit c s
  | .dynLaunchComplete l => Sys2Proof.Machine.execDynLaunchComplete l s
  | .contextStart c => Sys2Proof.Machine.execContextStart c s
  | .childArrival c => Sys2Proof.Machine.execChildArrival c s
  | .barrierRelease c => Sys2Proof.Machine.execBarrierRelease c s
  | .evmsgArrival c => Sys2Proof.Machine.execEvmsgArrival c s
  | .layoverNotice c => Sys2Proof.Machine.execLayoverNotice c s
  | .childCompletion c => Sys2Proof.Machine.execChildCompletion c s
  | .waitpTimeout t => Sys2Proof.Machine.execWaitpTimeout t s
  | .sendAccept t => Sys2Proof.Machine.execSendAccept t s
  | .cardStart c j => Sys2Proof.Machine.execCardStart c j s
  | .rowLanded c j => Sys2Proof.Machine.execRowLanded c j s
  | .cardRetire c j => Sys2Proof.Machine.execCardRetire c j s
  | .cardFault c j => Sys2Proof.Machine.execCardFault c j s
  | .cardLeaveRetry c j => Sys2Proof.Machine.execCardLeaveRetry c j s
  | .grantExpiry d => Sys2Proof.Machine.execGrantExpiry d s
  | .sliceExpiry c => Sys2Proof.Machine.execSliceExpiry c s
  | .switchOut c => Sys2Proof.Machine.execSwitchOut c s
  | .contextRestore c => Sys2Proof.Machine.execContextRestore c s
  | .shootdownComplete k => Sys2Proof.Machine.execShootdownComplete k s
  | .portalDmwr port a w => Sys2Proof.Machine.execPortalDmwr port a w s
  | .portalPostedWrite port => Sys2Proof.Machine.execPortalPostedWrite port s
  | .mctpPacket w => Sys2Proof.Machine.execMctpPacket w s
  | .launchTimed j => Sys2Proof.Machine.execLaunchTimed j s
  | .launchDyn j => Sys2Proof.Machine.execLaunchDyn j s
  | .copy j => Sys2Proof.Machine.execCopy j s
  | .copyFill j => Sys2Proof.Machine.execCopyFill j s
  | .signalSet j => Sys2Proof.Machine.execSignalSet j s
  | .signalAdd j => Sys2Proof.Machine.execSignalAdd j s
  | .wait j => Sys2Proof.Machine.execWait j s
  | .waitComplete j => Sys2Proof.Machine.execWaitComplete j s
  | .configDiffApply j => Sys2Proof.Machine.execConfigDiffApply j s
  | .configDiffRollback j => Sys2Proof.Machine.execConfigDiffRollback j s
  | .configSwap k => Sys2Proof.Machine.execConfigSwap k s
  | .queryIdentity j => Sys2Proof.Machine.execQueryIdentity j s
  | .queryPartitionMap j => Sys2Proof.Machine.execQueryPartitionMap j s
  | .queryLaunchState j => Sys2Proof.Machine.execQueryLaunchState j s
  | .querySeedRecords j => Sys2Proof.Machine.execQuerySeedRecords j s
  | .queryHealth j => Sys2Proof.Machine.execQueryHealth j s
  | .queryCounters j => Sys2Proof.Machine.execQueryCounters j s
  | .queryAttestation j => Sys2Proof.Machine.execQueryAttestation j s
  | .fwUpdate j => Sys2Proof.Machine.execFwUpdate j s
  | .partitionCreate j => Sys2Proof.Machine.execPartitionCreate j s
  | .partitionDestroy j => Sys2Proof.Machine.execPartitionDestroy j s
  | .completionRecordWrite j => Sys2Proof.Machine.execCompletionRecordWrite j s
  | .ownClaim m => Sys2Proof.Machine.execOwnClaim m s
  | .ownSucc m succ => Sys2Proof.Machine.execOwnSucc m succ s
  | .succTimeout => Sys2Proof.Machine.execSuccTimeout s
  | .ownerLoss => Sys2Proof.Machine.execOwnerLoss s
  | .spdmGetMeasurements nonce => Sys2Proof.Machine.execSpdmGetMeasurements nonce s
  | .packageReset bad => Sys2Proof.Machine.execPackageReset bad s
  | .powerLoss => Sys2Proof.Machine.execPowerLoss s
  | .domainFormation n => Sys2Proof.Machine.execDomainFormation n s
  | .linkFreezeNotice k => Sys2Proof.Machine.execLinkFreezeNotice k s
  | .linkRestartNotice k => Sys2Proof.Machine.execLinkRestartNotice k s
  | .uetCompletion k ctr v line => Sys2Proof.Machine.execUetCompletion k ctr v line s
  | .accessReachesTarget t j => Sys2Proof.Machine.execAccessReachesTarget t j s
  | .completionTimeout t j => Sys2Proof.Machine.execCompletionTimeout t j s
  | .unassignedTimedWord x => Sys2Proof.Machine.execUnassignedTimedWord x s
  | .unassignedGigWord x => Sys2Proof.Machine.execUnassignedGigWord x s

end Sys2Proof.Machine
end

