-- ==== Sys2Proof/Machine/Turns.lean ====
section
/-! DEFINITION. What a turn of the machine does: the next turn, the turn of a gig thread with its fetch, and which rows are
events of their own (01 R35; 08 R225, R226, R232; 17 R381, R385; 19 R413, R419, R420; log 1). -/
namespace Sys2Proof.Machine

/-- The next turn: the head of the schedule, or a free one where it names none (log 1). -/
def State.takeTurn (s : State) : Turn × State :=
  match s.schedule with
  | t :: rest => (t, { s with schedule := rest })
  | [] => (Config.freeTurn s.free, s.drawn)

/-! ### The turn of a gig thread -/

/-- What a fetch comes to: a word, or a trap with its cause and SUB. -/
inductive Fetched
  | word (w : BitVec 32)
  | trap (cause sub : Nat)
  /-- a trap on an uncorrectable error, or a host access that fails, at its source (17 R389; 23 Table 23-2) -/
  | damaged (k : BoxSource)
  /-- an earlier access of the thread is ordered before the walk (17 R383) -/
  | wait
  deriving DecidableEq, Repr

/-- The word of the page that a leaf maps, fetched by a thread of coach `c` at privilege `level` (R381; R232). -/
def State.fetchLeaf (s : State) (e3 : Word) (big : Bool) (pc : Nat) (level : Bool) : Fetched :=
  let pa := leafAddr e3 big pc
  match s.tier pa with
  | .control _ _ => .trap trapAccess subUnsup
  | k =>
    if !(leafAllows e3 false false true level) then .trap trapAccess subPerm
    else if k = .nothing then .trap trapAccess subRange
    else if s.damaged pa 4 then .damaged (physSource pa)
    else .word (BitVec.ofNat 32 (s.mem.readLE pa 4))

/-- The fetch of thread `t` at its PC: alignment, windows, translation and permission, in this order (R232, R234; 03 R89;
log 24). Its walk follows what the thread has issued (17 R383). -/
def State.fetch (s : State) (t : Nat) : Fetched × State :=
  let th := s.thread t
  if th.pc % 4 ≠ 0 then (.trap trapMisalign 0, s)
  else if windowBase ≤ th.pc then (.trap trapAccess subWindow, s)
  else
    let w : Walker := .fetch (gigOf t)
    let k := s.partOfThread t
    if th.mayWalk t th.nextId ((s.toLookup w k th.pc).lookup w k th.pc).reads then
      match s.translate w k th.pc with
      | (none, s1) => (.trap trapPage 0, s1)
      | (some (e3, big), s1) => (s1.fetchLeaf e3 big th.pc th.level, s1.fillWay (gigOf t))
    else (.wait, s)

/-- The thread that acts executes the word at its PC, or the fetch traps or waits. -/
def State.fetchAct (s : State) (t : Nat) : Act :=
  let pc := (s.thread t).pc
  match s.fetch t with
  | (.trap cause sub, s1) => .state (s1.trapAt t cause sub (BitVec.ofNat 64 pc) pc)
  | (.damaged k, s1) => .state ((s1.trapAt t trapAccess subEcc (BitVec.ofNat 64 pc) pc).countUnc k)
  | (.wait, s1) => .state s1
  | (.word w, s1) => match decode .gig w with
    | .ok i => .word i s1
    | .error _ => .junk w s1

/-- The gig cycle of thread `t`'s next turn but `n`: it comes after its gig's latest issue, and its slot's place in the
rotation is its number (01 R35; 08 R225). -/
def State.turnAt (s : State) (t n : Nat) : Word :=
  let c := Nat.max (s.cycle (dieOf t)).toNat ((s.gig (gigOf t)).last.toNat + 1)
  BitVec.ofNat 64 (c + (t % 4 + 4 - c % 4) % 4 + 4 * n)

/-- The context of thread `t` may still issue in the gig cycle `c`: its slice has not run out, and no switch has begun
(19 R419, R420). -/
def State.inSlice (s : State) (t : Nat) (c : Word) : Bool :=
  match s.slotOf t with
  | none => false
  | some x =>
    let k := s.ctx (coachOf t) x
    !k.leaving && decide (c.toNat < (k.sliceLimit.getD k.sliceEnd).toNat)

/-- The state in the gig cycle of thread `t`'s next turn but `n`: time has passed, and it is the turn of `t`. -/
def State.atTurn (s : State) (t n : Nat) : State :=
  let c := s.turnAt t n
  (({ s with curThread := t } : State).gigTime (dieOf t) c).onGig (gigOf t) (fun g => { g with last := c })

/-- The turn of thread `t` after it has given up `n`: an EXT_INT that is pending is taken first (19 R413). A thread that
may not issue gives up its turn (01 R35). -/
def State.gigTurn (s : State) (t n : Nat) : Act :=
  if 4096 ≤ t then .state s
  else
    let s1 := s.atTurn t n
    let th := s1.thread t
    if !(th.free t) || !(s1.inSlice t (s.turnAt t n)) then .state s1
    else if !th.ext.isEmpty && th.trap.xie && !th.trap.inh then .state (s1.by (execExtIntTaken t))
    else s1.fetchAct t

/-! ### Events -/

/-- Rows that the timed plane takes as pieces of its own cycle: the turn of a die takes them, and no turn names them. -/
def Instr.inCycle (i : Instr) : Bool :=
  match i with
  | .registerWrite _ => true
  | .resultComplete _ => true
  | .scfgTakesEffect _ => true
  | .tlbpResult _ => true
  | .ldcmComplete _ => true
  | .rmwFinalWrite _ => true
  | .hldLanding _ => true
  | .hstCompletion _ => true
  | .hbmSlotRefusal _ => true
  | .wordArrival _ => true
  | .relayLanding _ => true
  | .boundaryChannelOverflow _ => true
  | .drawbarArrival _ => true
  | .linkPlanRead _ _ => true
  | .linkPlanLanding _ _ => true
  | .nestKStep _ => true
  | .nestDone _ => true
  | .alignRelease _ => true
  | .alignSlip _ => true
  | .freezeTakesEffect _ => true
  | .restart _ => true
  | .pipelineFinished _ => true
  | .timedGlobalStart _ => true
  | .brakeHoldStart _ => true
  | .brakeRelease _ => true
  | .brakeLimit _ => true
  | .layoverSettle _ => true
  | .turnpikeDelayEnd _ => true
  | .unassignedTimedWord _ => true
  | .unassignedGigWord _ => true
  | _ => false

/-- A row that happens as an event of its own: it has no word, and no cycle of the timed plane takes it. -/
def Instr.isEvent (i : Instr) : Bool := (encode i).isNone && !(Instr.inCycle i)

/-- A package without power does nothing until it is powered up, which is a package reset (25 R485). -/
def State.mayAct (s : State) (t : Turn) : Bool :=
  s.fw.powered || (match t with
    | .event (.packageReset _) => true
    | _ => false)

/-! ### What the outside does (16 R354; 17 R389; 22 R443, R456; 23 R467; 24 R473) -/

/-- Host accesses to the granule of bus address `a` behind port `p` begin to fail, or no longer fail (17 R389). -/
def State.hostFails (s : State) (p a : Nat) (on : Bool) : State :=
  let g := hostAddr p a / 32
  { s with bad := s.bad.filter (fun b => !(b == g)) ++ (if on then [g] else []) }

/-- The boot configuration gives the timed plane `n` channels, from the next package reset on (22 R443; 25 R485). -/
def State.bootChannels (s : State) (n : Nat) : State :=
  if 32 ≤ n ∧ n ≤ 44 then { s with fw := { s.fw with bootTch := BitVec.ofNat 6 n } } else s

/-- Firmware clears the health record after the failed hardware has been replaced (23 R467), where a complex is active (24 R469). -/
def State.clearHealth (s : State) : State :=
  if s.fw.active then { s with fw := { s.fw with health := {}, marked := 0 } } else s

/-- OWN as it is read (24 Table 24-1). -/
def Own.word (o : Own) : Nat := o.epoch.toNat * 256 + o.succ.toNat * 64 + o.owner.toNat * 4

/-- A read by master `m`: the status page's OWN, link configuration word and first health word, or zero from its portal (16 R354;
24 R473). -/
def State.hostRead (s : State) (m : Nat) (page : Bool) : State :=
  if m = 0 ∨ 3 < m ∨ (m = 3 ∧ page = false) ∨ (m < 3 ∧ s.fw.hostOff.getLsbD (m - 1) = true) then s
  else
    let ws : List Word := if page then [s.fw.own.word, s.fw.linkWord, s.fw.health.word0].map (BitVec.ofNat 64) else [0]
    { s with portal := { s.portal with reads := s.portal.reads ++ [(m, ws)] } }

/-- System software binds Ethernet port `p` to partition `k` (22 R456). -/
def State.bindPort (s : State) (p k : Nat) : State :=
  if p < 8 ∧ k < 16 then { s with portal := { s.portal with binds := s.portal.binds.set p k } } else s

/-- The configured partition that Ethernet port `p` is bound to; a retired port reaches none (25 R485). -/
def State.boundTo (s : State) (p : Nat) : Option Nat :=
  if s.fw.ethOff.getLsbD p then none else match s.portal.binds.find? (fun e => e.1 == p) with
  | some (_, k) => if (s.part k).configured then some k else none
  | none => none

/-- The spot that a port bound to partition `k` reaches at paged address `a`, as a waybill-class agent (17 R389; 22 R456). -/
def State.portSpot (s : State) (k a : Nat) (wr : Bool) : Option Spot × State :=
  if windowBase ≤ a then (none, s) else s.pagedSpot k a wr

/-- The `n` bytes that a port bound to partition `k` reads at `a`, none where an access fails (17 R389; 22 R456). -/
def State.portBytes (s : State) (k a n : Nat) : Option (List Byte) × State :=
  match n with
  | 0 => (some [], s)
  | n + 1 => match s.portSpot k a false with
    | (none, s1) => (none, s1)
    | (some p, s1) => match s1.spotRead p with
      | none => (none, s1.countUnc p.source)
      | some b =>
        let (r, s2) := State.portBytes s1 k (a + 1) n
        (r.map (fun bs => b :: bs), s2)

/-- Ethernet port `p` reads `n` bytes at virtual address `a` for the network (22 R456). -/
def State.portRead (s : State) (p a n : Nat) : State :=
  match s.boundTo p with
  | none => s
  | some k =>
    let (r, s1) := s.portBytes k a n
    { s1 with portal := { s1.portal with sent := s1.portal.sent ++ [(p, r)] } }

/-- Bytes that a port bound to partition `k` writes at `a`, in pieces of at most 32 bytes: the first that has no place ends the
write, and one whose host access fails is counted (17 R389; 22 R456). -/
def State.portPut (s : State) (fuel k a : Nat) (bs : List Byte) : State :=
  match fuel with
  | 0 => s
  | fuel + 1 =>
    if bs.isEmpty then s
    else
      let n := Nat.min (32 - a % 32) bs.length
      match s.portSpot k a true with
      | (none, s1) => s1
      | (some p, s1) =>
        let s2 := if s1.spotFails p n then s1.countUnc p.source else s1.spotWrite p (bs.take n)
        State.portPut s2 fuel k (a + n) (bs.drop n)

/-- Ethernet port `p` writes bytes from the network at virtual address `a` (22 R456). -/
def State.portWrite (s : State) (p a : Nat) (bs : List Byte) : State :=
  match s.boundTo p with
  | none => s
  | some k => s.portPut bs.length k a bs

/-! ### An instruction placed where the next step fetches it -/

/-- A package with die 0 in a partition, where it is in none. -/
def State.withPart (s : State) : State :=
  if (s.partOf 0).isSome then s else s.onPart 0 (fun x => { x with configured := true, row0 := 0, col0 := 0, height := 1, width := 1 })

/-- The word `w` at the PC of stream `k` of pipeline 0, whose issue is the next piece of die 0's cycle. -/
def State.placeTimed (s : State) (k : StreamKind) (w : BitVec 32) : State :=
  let s1 := s.withPart
  let s2 := s1.onPipe 0 (fun p =>
    let q := p.seq k
    let pc := if q.pc < 16384 then q.pc else 0
    p.setSeq k { q with pc := pc, run := true, next := s.now 0, imem := q.imem.set pc w, bad := [] })
  let s3 := s2.onRun ((s2.partOf 0).getD 0) (fun r =>
    { r with phase := .running, started := if r.started.contains 0 then r.started else r.started ++ [0] })
  let s4 := s3.onDie 0 (fun x => { x with work := .issue 0 k :: x.work })
  { s4 with schedule := .die 0 :: s4.schedule, fw := { s4.fw with powered := true } }

/-- The word `w` at address 0 of a paged address space whose one page holds it, as the next instruction of thread 0, which
runs at level 1 in a context of a launch of one thread. -/
def State.placeGig (s : State) (w : BitVec 32) : State :=
  let s1 := s.withPart
  let k := (s1.partOf 0).getD 0
  let m := (((s1.mem.writeLE 0x10000 8 0x20001).writeLE 0x20000 8 0x30001).writeLE 0x30000 8 0x4003D).writeLE 0x40000 4 w.toNat
  let h : List Word := [0, 0, 0, 0, 1, 0x1010000, 0x100000000000, 0]
  let l : Launch := { part := k, die := 0, header := h, evinit := [], progress := false, parent := none, phase := .started,
                      wakes := [], age := 0, kids := 0, flags := 0, began := none, job := none, killed := none }
  let th : Thread := { phase := .running, level := true }
  let x : Context := { lid := s1.nextLid, threads := [(0, th)], slice := 8192, sliceEnd := s1.cycle 0 + 8192 }
  let s2 := (s1.onPart k (fun p => { p with root := 0x10000 })).onCoach 0 (fun c => { c with run := some 0, ctxs := c.ctxs.set 0 x })
  { s2 with mem := m, bad := [], tlb := [], launches := s2.launches.set s2.nextLid l, nextLid := s2.nextLid + 1,
            schedule := .gig 0 0 :: s2.schedule, fw := { s2.fw with powered := true } }

end Sys2Proof.Machine
end

