-- ==== Sys2Proof/Machine/Step.lean ====
section
/-! DEFINITION. One step of the package: the next turn (log 1). -/
namespace Sys2Proof.Machine

/-- What a piece of work comes to: its state, its instruction executed, or its word, which is no instruction of its unit,
treated as `junk` says. -/
def Act.run (a : Act) (junk : BitVec 32 → State → Host.Outcome State Fault Refusal) : Host.Outcome State Fault Refusal :=
  match a with
  | .state s => .next s
  | .word i s => exec i s
  | .junk w s => junk w s

/-- The turn `t` in state `s`. -/
def State.turn (s : State) (t : Turn) : Host.Outcome State Fault Refusal :=
  if s.mayAct t then
    match t with
    | .die d => (s.dieTurn d).run execUnassignedTimedWord
    | .gig t n => (s.gigTurn t n).run execUnassignedGigWord
    | .strike u a => .next (s.strike u a)
    | .hostFails p a on => .next (s.hostFails p a on)
    | .takeOff k => .next (s.takeOff k)
    | .bootChannels n => .next (s.bootChannels n)
    | .hardwareReplaced => .next s.clearHealth
    | .hostRead m page => .next (s.hostRead m page)
    | .bindPort p k => .next (s.bindPort p k)
    | .portRead p a n => .next (s.portRead p a n)
    | .portWrite p a bs => .next (s.portWrite p a bs)
    | .event i => if Instr.isEvent i then exec i s else .fault .notAnEvent
  else .next s

/-- One step: the next turn is taken. -/
def step (s : State) : Host.Outcome State Fault Refusal :=
  match s.takeTurn with
  | (t, s1) => s1.turn t

/-- `s` with the instruction whose bits are `w` placed where the next step fetches it: a word of a timed stream at the PC of
that stream in pipeline 0, any other word as the next instruction of thread 0 (log 46). -/
def State.withFetchWord (s : State) (nbits w : Nat) : State :=
  let x : BitVec 32 := BitVec.ofNat 32 (w % 2 ^ nbits)
  match decodeFirst (tableOrder x) x with
  | some (.c, _) => s.placeTimed .c x
  | some (.l, _) => s.placeTimed .l x
  | some (.x, _) => s.placeTimed .x x
  | some (.s, _) => s.placeTimed .s x
  | _ => s.placeGig x

end Sys2Proof.Machine
end

