-- ==== Sys2Proof/Safety.lean ====
section
/-! DEFINITION. What counts as a safe run, and the conditions in which claims speak of an instruction: a timed word that
reads no register early, a gig instruction that may issue with its operands at hand, and the invariant of every step. -/
namespace Sys2Proof.Machine

/-- The word that stream `k` issues reads none of `srcs` while a producer of it is in flight, or checking is off
(04 R104), and no register with a parity error (23 R463). -/
def State.timely (s : State) (srcs : List RegRef) : Bool :=
  !(s.me.parityIn srcs) && (!s.me.check || srcs.all (fun q => !(s.me.busy q)))

/-- The acting thread may issue, its operands `srcs` are present and sound, and before a release every earlier access has
performed (08 R225, R226, R227; 12 R335; 23 R460). -/
def State.gigReady (s : State) (srcs : List Nat) (release : Bool) : Bool :=
  s.th.free s.curThread && srcs.all (s.th.present (s.cycle (dieOf s.curThread)).toNat) && (!release || s.th.accs.isEmpty) &&
    (s.th.marked srcs).isNone && !(srcs.any s.th.odd.contains)

/-- OWN as the spec lets it stand: no successor is the owner itself, or SUCC is 0 (24 Table 24-1, R474). -/
def Own.ok (o : Own) : Bool := decide (o.succ = 0) || decide (o.succ ≠ o.owner)

/-- The firmware's fields within the bounds that the spec gives them: OWN (R474), the power cap (25 R485), at most 64 seed
records (16 R371), at most 8,192 black-box entries (23 R468), and the health record's version (23 Table 23-3). -/
def Firmware.ok (f : Firmware) : Bool :=
  f.own.ok && decide (f.capWatts ≤ 2800) && decide (f.seeds.length ≤ 64) && decide (f.rings.length ≤ 8192) &&
    decide (f.health.version = 1)

/-- The invariant of every step: physical memory keeps its canonical form and the firmware's fields stay in bounds. -/
def State.Inv (s : State) : Prop := s.mem.wf = true ∧ s.fw.ok = true

/-- A run of `n` steps from `s` meets no fault and no refusal. -/
def State.safeRun (s : State) (n : Nat) : Prop := ∃ t : State, Sys2Proof.core.run n s = .next t

end Sys2Proof.Machine
end

