-- ==== Sys2Proof/Certificates/Slice0/Obligations.lean ====
section
/-! DEFINITION. The statements for the provers. Each formalises rules of the spec, named in its docstring; a statement that
rests on a choice of the model says so and names the entry of the assumption log. -/
open Sys2Proof Sys2Proof.Machine

/-! ### Encodings (03) -/

/-- O1. Every well-formed instruction with a word decodes, in its own stream, from that word to itself (03 R71 to R91). -/
def Obligations.DecodeOfEncode : Prop :=
  ∀ (i : Instr) (x : BitVec 32), i.wellFormed = true → encode i = some x → decode i.stream x = .ok i

/-- O2. Every word that a stream decodes is the word of the instruction it decodes to, and that instruction is well formed: no bit
of a legal word is ignored (03 R75, R89). -/
def Obligations.EncodeOfDecode : Prop :=
  ∀ (k : StreamKind) (x : BitVec 32) (i : Instr), decode k x = .ok i → i.wellFormed = true ∧ encode i = some x

/-- O3. Words written out from the encoding tables and the worked examples of the spec decode to what they stand for (03 Tables 3-2
to 3-24). -/
def Obligations.SampleWordsDecode : Prop :=
  decode .c 0x0C082000#32 = .ok (.cGive 0 1 1) ∧
  decode .c 0x1190C000#32 = .ok (.postv 0 1 3) ∧
  decode .c 0x100A0000#32 = .ok (.wopen 0 5) ∧
  decode .s 0x23C91060#32 = .ok (.stq 1 4 9 1 0 0 1 1) ∧
  decode .s 0x04C30000#32 = .ok (.send 0 4 3) ∧
  decode .x 0x020C2200#32 = .ok (.vfma 0 3 1 2 0 0 0 0) ∧
  decode .x 0x14084000#32 = .ok (.xTake 0 1 2) ∧
  decode .gig 0x60A23402#32 = .ok (.ldw 5 2 3 2) ∧
  decode .gig 0x84221900#32 = .ok (.fma 1 2 3 4 0 0) ∧
  decode .gig 0xB8432005#32 = .ok (.post 2 3 4 5) ∧
  decode .gig 0xC0000040#32 = .ok .tret

/-- The words of a stream that its map assigns to no instruction: the unassigned opcodes of 03 Tables 3-4, 3-9, 3-11 and
3-14. -/
def Claims.unassignedOpcode (k : StreamKind) (o : Nat) : Bool :=
  match k with
  | .c => [0x16, 0x17, 0x1E, 0x1F, 0x26, 0x27].contains o || (decide (0x2B ≤ o) && decide (o ≤ 0x2F)) || decide (0x34 ≤ o)
  | .l => decide (0x10 ≤ o)
  | .s => decide (0x11 ≤ o)
  | .x => decide (0x2A ≤ o)
  | .gig => false

/-- A timed word whose opcode its stream does not assign is no instruction of that stream, by name (03 R74, R75). -/
def Claims.UnassignedOpcodeRejected : Prop :=
  ∀ (k : StreamKind) (x : BitVec 32), k ≠ .gig → Claims.unassignedOpcode k ((x >>> 23).toNat % 64) = true →
    decode k x = .error .unassignedOpcode

/-! ### A step runs what the next turn names (01 R35; 03 R72) -/

/-- A gig thread whose turn comes, that may issue in its slice at the gig cycle of the turn, and that no external interrupt
precedes, executes the instruction whose word its fetch reads: the step is `exec` of it in the state after the fetch (08 R225;
11; 19 R413; the schedule of turns is the model's, log 1). -/
def Claims.StepRunsGigInstruction : Prop :=
  ∀ (s s1 s2 : State) (t n : Nat) (rest : List Turn) (w : BitVec 32) (i : Instr),
    s.schedule = .gig t n :: rest → s.fw.powered = true → t < 4096 →
    s1 = ({ s with schedule := rest } : State).atTurn t n →
    (s1.thread t).free t = true → s1.inSlice t (s.turnAt t n) = true →
    ((s1.thread t).ext = [] ∨ (s1.thread t).trap.xie = false ∨ (s1.thread t).trap.inh = true) →
    s1.fetch t = (.word w, s2) → decode .gig w = .ok i →
    step s = exec i s2

/-- When the next piece of a die's cycle is the issue of stream `k` of pipeline `g` at a PC below 16,384 whose word is sound, the
step is `exec` of the instruction that the word there decodes to in that stream (03 R71, R72). -/
def Claims.StepRunsTimedInstruction : Prop :=
  ∀ (s : State) (d g : Nat) (k : StreamKind) (rest : List Turn) (more : List Work) (i : Instr),
    s.schedule = .die d :: rest → s.fw.powered = true → (s.die d).work = .issue g k :: more →
    ((s.pipe g).seq k).pc < 16384 → ((s.pipe g).seq k).bad.contains (((s.pipe g).seq k).pc / 2) = false →
    decode k (((s.pipe g).seq k).imem.get ((s.pipe g).seq k).pc 0) = .ok i →
    step s = exec i
      { (({ s with schedule := rest } : State).onDie d (fun x => { x with work := more })) with curPipe := g, curStream := k }

/-- A row that happens as an event of its own is executed when the schedule names it (log 1), and a row that has a word, or that a
die takes within its own cycle, is refused there by name. -/
def Claims.StepRunsEvent : Prop :=
  ∀ (s : State) (i : Instr) (rest : List Turn), s.schedule = .event i :: rest → s.fw.powered = true →
    step s = (if (encode i).isNone && !(Instr.inCycle i) then exec i { s with schedule := rest } else .fault .notAnEvent)

/-- O4. A step is exec of the instruction whose turn it is (the order of turns is the model's, log 1): all of
Claims.StepRunsGigInstruction, Claims.StepRunsTimedInstruction, Claims.StepRunsEvent. -/
def Obligations.StepRunsTheNextInstruction : Prop :=
  Claims.StepRunsGigInstruction ∧ Claims.StepRunsTimedInstruction ∧ Claims.StepRunsEvent

/-! ### C: scalar words (04) -/

/-- What a scalar word of C leaves in flight: the registers that it reads, the cycles after which its result is readable,
and the result (04 R106 to R111, R134, R135). -/
def Claims.cResult (s : State) (i : Instr) : Option (List RegRef × Nat × Result) :=
  let v := fun (n : BitVec 5) => s.me.sreg n.toNat
  let two := fun (d a b : BitVec 5) (lat : Nat) (x : Word) => some ([RegRef.s a.toNat, .s b.toNat], lat, Result.sreg d.toNat x)
  let one := fun (d a : BitVec 5) (x : Word) => some ([RegRef.s a.toNat], 1, Result.sreg d.toNat x)
  match i with
  | .add _ d a b => two d a b 1 (v a + v b)
  | .sub _ d a b => two d a b 1 (v a - v b)
  | .and _ d a b => two d a b 1 (v a &&& v b)
  | .or _ d a b => two d a b 1 (v a ||| v b)
  | .xor _ d a b => two d a b 1 (v a ^^^ v b)
  | .shl _ d a b => two d a b 1 (v a <<< ((v b).toNat % 64))
  | .shr _ d a b => two d a b 1 (v a >>> ((v b).toNat % 64))
  | .sra _ d a b => two d a b 1 ((v a).sshiftRight ((v b).toNat % 64))
  | .mul _ d a b => two d a b 3 (v a * v b)
  | .mulh _ d a b => two d a b 3 (BitVec.ofInt 64 ((v a).toInt * (v b).toInt / 2 ^ 64))
  | .mulhu _ d a b => two d a b 3 (BitVec.ofNat 64 ((v a).toNat * (v b).toNat / 2 ^ 64))
  | .min _ d a b => two d a b 1 (if (v a).toInt < (v b).toInt then v a else v b)
  | .max _ d a b => two d a b 1 (if (v a).toInt < (v b).toInt then v b else v a)
  | .minu _ d a b => two d a b 1 (if (v a).toNat < (v b).toNat then v a else v b)
  | .maxu _ d a b => two d a b 1 (if (v a).toNat < (v b).toNat then v b else v a)
  | .addi _ d a k => one d a (v a + k.signExtend 64)
  | .andi _ d a k => one d a (v a &&& k.setWidth 64)
  | .ori _ d a k => one d a (v a ||| k.setWidth 64)
  | .xori _ d a k => one d a (v a ^^^ k.setWidth 64)
  | .shli _ d a k => one d a (v a <<< k.toNat)
  | .shri _ d a k => one d a (v a >>> k.toNat)
  | .srai _ d a k => one d a ((v a).sshiftRight k.toNat)
  | .li _ d k => some ([], 1, .sreg d.toNat (k.signExtend 64))
  | .lui _ d k => some ([.s d.toNat], 1, .sreg d.toNat ((v d <<< 18) ||| k.setWidth 64))
  | .cmp _ p a b c => some ([.s a.toNat, .s b.toNat], 1, .preg p.toNat (condHolds c.toNat (v a) (v b)))
  | .cmpi _ p a c k => some ([.s a.toNat], 1, .preg p.toNat (condHolds c.toNat (v a) (k.signExtend 64)))
  | .sel _ d a b p => some ([.s a.toNat, .s b.toNat, .p p.toNat], 1, .sreg d.toNat (if s.me.preg p.toNat then v a else v b))
  | .csrr _ d c => some ([], 2, .sreg d.toNat (csrValue (s.die (dieOfPipe s.curPipe)) s.me c.toNat))
  | .tick _ d => some ([], 2, .sreg d.toNat (s.die (dieOfPipe s.curPipe)).tick)
  | _ => none

/-- A legal scalar word of C that reads no register early puts its result in flight, readable after its latency, moves C one word
on, and changes nothing else: no register, flag, queue or memory in its own pipeline, and no other unit (04 R104, R106 to R111,
R134, R135; 00 R11). A result for s0 is put in flight too; landing it changes nothing (ResultsLand). -/
def Claims.ScalarWordsComplete : Prop :=
  ∀ (s : State) (i : Instr) (srcs : List RegRef) (lat : Nat) (r : Result),
    Claims.cResult s i = some (srcs, lat, r) → i.wellFormed = true → s.timely srcs = true →
    exec i s = .next (s.setPipe s.curPipe ((s.me.produce .c s.atk lat r 0).afterWord .c (s.atk + 1) false))

/-- O6. LDS reads the 8 bytes at sa + 8 × imm13 for sd, readable after 6 cycles, and charges them to the read port; STS puts the 8
bytes of sd in flight for the end of its cycle. Both do so at a multiple of 8 below 0x60_0000 whose bytes lie in no reserved
bank, LDS also where they hold no uncorrectable error (04 R111, R112; 05 R149, R151; 23 R463). -/
def Obligations.ScalarMemoryCompletes : Prop :=
  ∀ (s : State) (w : BitVec 3) (d a : BitVec 5) (k : BitVec 13) (o : Nat),
    o = (s.me.sreg a.toNat + k.signExtend 64 * 8).toNat → o % 8 = 0 → o < 0x600000 →
    s.bankSlips s.curPipe 0 s.me.c.pc o 8 = [] →
    (s.eccSlips s.curPipe 0 s.me.c.pc o 8 = [] → s.timely [.s a.toNat] = true →
      exec (.lds w d a k) s = .next (s.setPipe s.curPipe
        (((s.me.produce .c s.atk 6 (.sreg d.toNat (s.me.mem.sram.word o)) 0).charge 8).afterWord .c (s.atk + 1) false))) ∧
    (s.timely [.s d.toNat, .s a.toNat] = true →
      exec (.sts w d a k) s = .next (s.setPipe s.curPipe
        (({ s.me with fly := { s.me.fly with writes := s.me.fly.writes ++
                                             [{ at_ := s.atk, cls := 6, addr := o, bytes := toBytes 8 (s.me.sreg d.toNat).toNat, pc := s.me.c.pc }] } } : Pipe).afterWord
          .c (s.atk + 1) false)))

/-! ### C: control flow (04 R114 to R119) -/

/-- BR, taken if and only if p ^ N = 1, goes to PC + offset two cycles on, and falls through otherwise; BRP also appends its outcome
to a bq that is not full; CALL pushes PC + 1 on a return stack of at most 7 entries, and RET pops its target. Targets lie within
the 16,384 words, and a taken BR or BRP in a loop body stays in it (03 R72, R76; 04 R114, R115, R118). -/
def Claims.BranchesComplete : Prop :=
  ∀ (s : State) (w p : BitVec 3) (n : BitVec 1) (off : BitVec 19),
    (∀ (eff : Pipe → Pipe) (i : Instr) (taken : Bool), taken = (s.me.preg p.toNat != decide (n = 1)) →
      s.timely [.p p.toNat] = true →
      (taken = true → s.me.c.badTarget (branchTarget s.me.c.pc off) = false) →
      ((i = .br w p n off ∧ eff = id) ∨
        (i = .brp w p n off ∧ s.me.q.bq.length < 16 ∧
          eff = fun q => { q with q := { q.q with bq := q.q.bq ++ [{ ready := s.atk + 1, val := taken, issue := s.atk }] } })) →
      exec i s = .next (s.setPipe s.curPipe
        (if taken then (eff s.me).jump .c s.atk (branchTarget s.me.c.pc off).toNat
          else (eff s.me).afterWord .c (s.atk + 1) false))) ∧
    (0 ≤ branchTarget s.me.c.pc off → branchTarget s.me.c.pc off ≤ 16383 → s.me.c.rets.length < 8 →
      exec (.call w off) s = .next (s.setPipe s.curPipe
        (({ s.me with c := { s.me.c with rets := (s.me.c.pc + 1) :: s.me.c.rets } } : Pipe).jump .c s.atk
          (branchTarget s.me.c.pc off).toNat))) ∧
    (∀ (t : Nat) (rest : List Nat), s.me.c.rets = t :: rest → t ≤ 16383 →
      exec (.ret w) s = .next (s.setPipe s.curPipe
        (({ s.me with c := { s.me.c with rets := rest } } : Pipe).jump .c s.atk t)))

/-- LSPAN loads the span register and is remembered as the last word; a legal LOOP, which directly follows one, starts a loop of
min(sa, max) iterations of its body, or passes on to the word after the body at the loop's end time, when the level that it
pushed is popped, where the count is 0 (04 R116, R117). XLSPAN does the same for X (07 R222). -/
def Claims.LoopWordsComplete : Prop :=
  ∀ (s : State) (w : BitVec 3) (n : BitVec 23) (a : BitVec 5) (l m : BitVec 9),
    ((Instr.lspan w n).wellFormed = true →
      ∃ t : State, exec (.lspan w n) s = .next t ∧ t.me.c.span = n.toNat ∧ t.me.c.fresh = true ∧
        t.me.regs = s.me.regs ∧ t.me.cyc.dets = s.me.cyc.dets) ∧
    ((Instr.xlspan w n).wellFormed = true →
      ∃ t : State, exec (.xlspan w n) s = .next t ∧ t.me.x.span = n.toNat ∧ t.me.x.fresh = true ∧
        t.me.regs = s.me.regs ∧ t.me.cyc.dets = s.me.cyc.dets) ∧
    (∀ (k : Nat) (stop : Tick), (Instr.loop w a l m).wellFormed = true → s.me.c.badLoop l.toNat = false →
      s.timely [.s a.toNat] = true → k = Nat.min (s.me.sreg a.toNat).toNat m.toNat →
      stop = s.atk + 1 + BitVec.ofNat 64 (m.toNat * s.me.c.span) →
      ∃ t : State, exec (.loop w a l m) s = .next t ∧ t.me.regs = s.me.regs ∧ t.me.cyc.dets = s.me.cyc.dets ∧
        t.me.c.pc = (if k = 0 then s.me.c.pc + l.toNat + 1 else s.me.c.pc + 1) ∧
        t.me.c.next = (if k = 0 then stop else s.atk + 1) ∧
        t.me.c.loops = { count := k, left := k - 1, start := s.me.c.pc + 1, last := s.me.c.pc + l.toNat, span := s.me.c.span,
                         t := s.atk + 1, stop := stop, fixed := decide (k = 0), ended := decide (k = 0) } :: s.me.c.loops)

/-- O7. Branches, calls, returns and loops of the timed streams go where the rules say: all of Claims.BranchesComplete,
Claims.LoopWordsComplete. -/
def Obligations.ControlFlowCompletes : Prop :=
  Claims.BranchesComplete ∧ Claims.LoopWordsComplete

/-! ### Tokens and scalar queues (01 R22 to R24; 04 R120 to R122; 05 R147, R148; 07 R224) -/

/-- The GIVE and TAKE words with their stream, queue, count and sign. -/
def Claims.tokenWord (i : Instr) : Option (StreamKind × Bool × BitVec 4 × BitVec 6) :=
  match i with
  | .cGive _ q c => some (.c, true, q, c)
  | .lGive _ q c => some (.l, true, q, c)
  | .sGive _ q c => some (.s, true, q, c)
  | .xGive _ q c => some (.x, true, q, c)
  | .cTake _ q c => some (.c, false, q, c)
  | .lTake _ q c => some (.l, false, q, c)
  | .sTake _ q c => some (.s, false, q, c)
  | .xTake _ q c => some (.x, false, q, c)
  | _ => none

/-- A GIVE that does not raise a count above 63, and a TAKE of no more tokens than the count holds, change the count at the end of
the cycle by their number; otherwise they are TOKEN slips that name the queue and change no count (01 R23, R24; 04 R120; 05
R148; 07 R224). -/
def Claims.TokenWords : Prop :=
  ∀ (s : State) (i : Instr) (k : StreamKind) (give : Bool) (q : BitVec 4) (c : BitVec 6),
    Claims.tokenWord i = some (k, give, q, c) → i.wellFormed = true →
    exec i s = .next (s.setPipe s.curPipe
      (if (if give then decide (63 < s.me.tokens q.toNat + c.toNat) else decide (s.me.tokens q.toNat < c.toNat))
        then (s.me.detect [s.me.wordDet k 3 q.toNat 0]).afterWord k (s.atk + 1) false
        else (s.me.giveTokens q.toNat (if give then (c.toNat : Int) else -(c.toNat : Int))).afterWord k (s.atk + 1) false))

/-- SQW appends sa to the scalar queue that it names and BQW appends p ^ N to bq, readable from the next cycle; a full queue (8 and
16 entries) is a TOKEN slip and nothing is appended. SQR pops the sound head of ql or qs into an a or b register,
readable after 1 cycle (01 R22 to R24; 04 R121, R122; 05 R147). -/
def Claims.ScalarQueues : Prop :=
  ∀ (s : State) (w p : BitVec 3) (t : BitVec 2) (a : BitVec 5) (n : BitVec 1) (d : BitVec 4) (v : Word),
    ((Instr.sqw w t a).wellFormed = true → s.timely [.s a.toNat] = true →
      exec (.sqw w t a) s = .next (s.setPipe s.curPipe
        (if 8 ≤ (s.me.squeue t.toNat).length then (s.me.detect [s.me.wordDet .c 3 (24 + t.toNat) 0]).afterWord .c (s.atk + 1) false
         else (s.me.setSq t.toNat (s.me.squeue t.toNat ++ [{ ready := s.atk + 1, val := s.me.sreg a.toNat, issue := s.atk }])).afterWord .c (s.atk + 1) false))) ∧
    (s.timely [.p p.toNat] = true →
      exec (.bqw w p n) s = .next (s.setPipe s.curPipe
        (if 16 ≤ s.me.q.bq.length then (s.me.detect [s.me.wordDet .c 3 27 0]).afterWord .c (s.atk + 1) false
         else ({ s.me with q := { s.me.q with bq := s.me.q.bq ++
                                              [{ ready := s.atk + 1, val := s.me.preg p.toNat != decide (n = 1), issue := s.atk }] } } : Pipe).afterWord .c (s.atk + 1) false))) ∧
    (qHead s.me.q.ql s.atk = some v → qBad s.me.q.ql s.atk = false →
      exec (.lSqr w d) s = .next (s.setPipe s.curPipe
        ((({ s.me with q := { s.me.q with ql := s.me.q.ql.tail } } : Pipe).produce .l s.atk 1 (.areg d.toNat v) 0).afterWord .l (s.atk + 1) false))) ∧
    (qHead s.me.q.qs s.atk = some v → qBad s.me.q.qs s.atk = false →
      exec (.sSqr w d) s = .next (s.setPipe s.curPipe
        ((({ s.me with q := { s.me.q with qs := s.me.q.qs.tail } } : Pipe).produce .s s.atk 1 (.breg d.toNat v) 0).afterWord .s (s.atk + 1) false)))

/-- O8. GIVE, TAKE and the scalar queue words change their count or queue, or slip: all of Claims.TokenWords, Claims.ScalarQueues. -/
def Obligations.TokensAndQueuesComplete : Prop :=
  Claims.TokenWords ∧ Claims.ScalarQueues

/-! ### C: alignment, stages, layovers, posts, control registers and the end (04 R123 to R139; 06 R173 to R176) -/

/-- CSRW keeps its register's number and value for the end of its cycle, where REGISTER_WRITE stores them; MARK adds a road-book
entry of its tag, and triggers the book where bit 22 of the tag is set; HALT stops every stream of its pipeline from the next
cycle on (04 R134, R136, R138; 19 R428, R429). -/
def Claims.SystemEffects : Prop :=
  ∀ (s : State) (w : BitVec 3) (r : BitVec 5) (c : BitVec 12) (n : BitVec 23),
    ((Instr.csrw w r c).wellFormed = true → s.timely [.s r.toNat] = true →
      exec (.csrw w r c) s = .next (s.setPipe s.curPipe
        (({ s.me with cyc := { s.me.cyc with csrw := some (c.toNat, s.me.sreg r.toNat) } } : Pipe).afterWord .c (s.atk + 1) false))) ∧
    (exec (.mark w n) s = .next (s.setPipe s.curPipe
      (({ s.me with book :=
                    (if n.getLsbD 22 then (s.me.book.add s.atk 1 s.me.c.pc n.toNat).trigger
                    else s.me.book.add s.atk 1 s.me.c.pc n.toNat) } : Pipe).afterWord .c (s.atk + 1) false))) ∧
    (∃ t : State, exec (.halt w) s = .next t ∧ t.me.halted = true ∧ t.me.c.run = false ∧ t.me.l.run = false ∧
      t.me.x.run = false ∧ t.me.s.run = false ∧ t.me.regs = s.me.regs ∧ t.me.mem = s.me.mem ∧ t.me.fly.res = s.me.fly.res)

/-- TRAPC and FREEZE are detected in their issue cycle as cause TRAPC, with the code and INFO[8] = 0, or with INFO[8] = 1, and have
no other effect (04 R137). -/
def Claims.TrapWordsDetected : Prop :=
  ∀ (s : State) (w : BitVec 3) (c : BitVec 8),
    exec (.trapc w c) s = .next (s.setPipe s.curPipe
      ((s.me.detect [{ cause := 0xD, stream := 0, pc := s.me.c.pc, detail := 0, info := c.setWidth 32 }]).afterWord .c (s.atk + 1) false)) ∧
    exec (.freeze w) s = .next (s.setPipe s.curPipe
      ((s.me.detect [{ cause := 0xD, stream := 0, pc := s.me.c.pc, detail := 0, info := 0x100 }]).afterWord .c (s.atk + 1) false))

/-- O10. CSRW, MARK, HALT, TRAPC and FREEZE have their effects: all of Claims.SystemEffects, Claims.TrapWordsDetected. -/
def Obligations.SystemWordsComplete : Prop :=
  Claims.SystemEffects ∧ Claims.TrapWordsDetected

/-- The acting pipeline after a word of stream `k` that issues without effect and is detected as ILL_OP at its PC. -/
def Claims.illegalWord (s : State) (k : StreamKind) : Pipe :=
  (s.me.detect [{ cause := 1, stream := k.num, pc := (s.me.seq k).pc, detail := 0, info := 0 }]).afterWord k (s.atk + 1) false

/-- A word with an opcode or a field that its stream does not give it, and every well-typed instruction of a timed stream with an
operand that its form forbids, issues without effect and is detected as ILL_OP at its PC (03 R74). -/
def Claims.IllegalWordsDetected : Prop :=
  ∀ (s : State),
    (∀ x : BitVec 32, exec (.unassignedTimedWord x) s = .next (s.setPipe s.curPipe (Claims.illegalWord s s.curStream))) ∧
    (∀ i : Instr, i.stream ≠ .gig → i.wellFormed = false →
      exec i s = .next (s.setPipe s.curPipe (Claims.illegalWord s i.stream)))

/-- O9. The word of opcode 0x00 with n in bits [22:0] is IDLE n in every timed stream. IDLE n delays its stream's next word by n
cycles beyond the next one, advances the sequencer like any other word, also as the last word of a loop body, makes no
detection, and changes nothing else (03 R73). -/
def Obligations.IdleDelays : Prop :=
  ∀ (s : State) (w : BitVec 3) (n : BitVec 23),
    (∀ k : StreamKind, k ≠ .gig → decode k (w ++ (0x00#6 ++ n)) = .ok (.idle w n)) ∧
    exec (.idle w n) s = .next (s.setPipe s.curPipe
      (s.me.afterWord s.curStream (s.atk + 1 + BitVec.ofNat 64 n.toNat) false))

/-- ALIGN asks its die for an alignment of its limit at the end of the cycle; STAGE at the occurrence that the stage table gives its
cycle, with its name and in its turn, counts it and adds a road-book entry; at any other cycle, with another name or out of its turn
it is detected as ILL_OP with its name in INFO, and, since it issues nonetheless, is counted (03 R74; 04 R123 to R127; 09 R274;
19 R428). -/
def Claims.AlignAndStageComplete : Prop :=
  ∀ (s : State) (w : BitVec 3) (n : BitVec 23) (e : StageEntry) (run : TimedRun),
    ((Instr.align w n).wellFormed = true →
      ∃ t : State, exec (.align w n) s = .next t ∧
        (t.die (dieOfPipe s.curPipe)).aligns = (s.die (dieOfPipe s.curPipe)).aligns ++
          [{ limit := n.toNat, held := 0, pipe := s.curPipe, pc := s.me.c.pc }] ∧
        t.me.regs = s.me.regs ∧ t.me.cyc.dets = s.me.cyc.dets) ∧
    (run = (s.part s.curPart).run → stageAt run.stages (run.tau s.atk) = some e → e.n = n.toNat →
      stagesBefore run.stages (run.tau s.atk) = s.me.stages → (Instr.stage w n).wellFormed = true →
      exec (.stage w n) s = .next (s.setPipe s.curPipe
        (({ s.me with book := s.me.book.add s.atk 0 s.me.c.pc n.toNat, stages := s.me.stages + 1,
                      cyc := { s.me.cyc with stage := true } } : Pipe).afterWord .c (s.atk + 1) false))) ∧
    (run = (s.part s.curPart).run →
      (∀ f : StageEntry, stageAt run.stages (run.tau s.atk) = some f → f.n = n.toNat →
        stagesBefore run.stages (run.tau s.atk) ≠ s.me.stages) →
      exec (.stage w n) s = .next (s.setPipe s.curPipe
        ({ s.me.detect [{ cause := 1, stream := 0, pc := s.me.c.pc, detail := 0, info := n.setWidth 32 }] with
            stages := s.me.stages + 1 }.afterWord .c (s.atk + 1) false)))

/-- A legal WOPEN opens its layover in this cycle on its die; a legal WCLOSE records its close cycle; POSTRD and POSTV read a slot's
VALUE, where it is sound, and V, readable after 2 cycles and 1, where no layover that is open or braking uses the slot (04 R128
to R131; 10 R293; 23 R463). -/
def Claims.LayoverWordsComplete : Prop :=
  ∀ (s : State) (w p : BitVec 3) (l i : BitVec 6) (d : BitVec 5) (ld : LayDesc) (x : Die),
    x = s.die (dieOfPipe s.curPipe) →
    (layOf (s.lays s.curPart) l.toNat = some ld → wopenBad (s.lays s.curPart) x x.atk l.toNat = false →
      ∃ t : State, exec (.wopen w l) s = .next t ∧
        (t.die (dieOfPipe s.curPipe)).isOpen x.atk l.toNat = true ∧ t.me.regs = s.me.regs ∧
        t.me.cyc.dets = s.me.cyc.dets) ∧
    (∀ r : LayRec, layOf (s.lays s.curPart) l.toNat = some ld → x.isOpen x.atk l.toNat = true → x.layRec l.toNat = some r →
      ∃ (t : State) (r' : LayRec), exec (.wclose w l) s = .next t ∧
        (t.die (dieOfPipe s.curPipe)).layRec l.toNat = some r' ∧ r'.closed = some x.atk ∧ r'.closeAt = x.axis ∧
        (t.die (dieOfPipe s.curPipe)).post = x.post ∧ t.me.regs = s.me.regs ∧ t.me.cyc.dets = s.me.cyc.dets) ∧
    (x.slotClosed (s.lays s.curPart) i.toNat = false →
      (x.badPost.contains i.toNat = false → exec (.postrd w d i) s = .next (s.setPipe s.curPipe
        ((s.me.produce .c s.atk 2 (.sreg d.toNat (x.post.get i.toNat {}).value) 0).afterWord .c (s.atk + 1) false))) ∧
      exec (.postv w p i) s = .next (s.setPipe s.curPipe
        ((s.me.produce .c s.atk 1 (.preg p.toNat (x.post.get i.toNat {}).v) 0).afterWord .c (s.atk + 1) false)))

/-- O12. ALIGN, STAGE, WOPEN, WCLOSE, POSTRD and POSTV complete: all of Claims.AlignAndStageComplete, Claims.LayoverWordsComplete. -/
def Obligations.StagesAndLayoversComplete : Prop :=
  Claims.AlignAndStageComplete ∧ Claims.LayoverWordsComplete

/-- O13. NEST writes the low bits of sa, as wide as its field, to the shadow table, where a damaged entry becomes sound; MGO with no
nest running and a valid and sound table starts the nest: the shadow table becomes the active one and K-step 0 runs four cycles
on (04 R132, R133; 06 R173 to R177; 23 R460). -/
def Obligations.NestWordsComplete : Prop :=
  ∀ (s : State) (w l : BitVec 3) (f : BitVec 4) (a : BitVec 5),
    (∀ (sh : SMap (BitVec 32)) (odd : List Nat), (Instr.nest w l f a).wellFormed = true → s.timely [.s a.toNat] = true →
      sh = s.me.mx.nest.shadow.set (l.toNat * 16 + f.toNat)
        (BitVec.ofNat 32 ((s.me.sreg a.toNat).toNat % 2 ^ nestWidth f.toNat)) →
      odd = s.me.mx.badNest.filter (fun m => !(m == l.toNat * 16 + f.toNat)) →
      exec (.nest w l f a) s = .next (s.setPipe s.curPipe
        (({ s.me with mx := { s.me.mx with nest := { s.me.mx.nest with shadow := sh }, badNest := odd } } : Pipe).afterWord
          .c (s.atk + 1) false))) ∧
    (s.me.mx.nest.go = false → nestInvalid s.me s.me.mx.nest.shadow = none → (∀ n ∈ s.me.mx.badNest, 96 ≤ n) →
      s.timely [.st (nestAst s.me.mx.nest.shadow), .st (nestBst s.me.mx.nest.shadow)] = true →
      ∃ t : State, exec (.mgo w) s = .next t ∧ t.me.mx.nest.go = true ∧
        t.me.mx.nest.active = s.me.mx.nest.shadow ∧ t.me.mx.nest.n = 0 ∧ t.me.mx.nest.at_ = s.atk + 4 ∧
        t.me.mx.acc = s.me.mx.acc ∧ t.me.regs = s.me.regs ∧ t.me.cyc.dets = s.me.cyc.dets)

/-! ### L and S: addresses, stream registers and loads (05) -/

/-- What an address word of L or S leaves in flight (05 R147). -/
def Claims.addressResult (s : State) (i : Instr) : Option (StreamKind × List RegRef × Result) :=
  match i with
  | .aadd _ d a b => some (.l, [.a a.toNat, .a b.toNat], .areg d.toNat (s.me.areg a.toNat + s.me.areg b.toNat))
  | .aaddi _ d a k => some (.l, [.a a.toNat], .areg d.toNat (s.me.areg a.toNat + k.signExtend 64))
  | .ali _ d k => some (.l, [], .areg d.toNat (k.signExtend 64))
  | .badd _ d a b => some (.s, [.b a.toNat, .b b.toNat], .breg d.toNat (s.me.breg a.toNat + s.me.breg b.toNat))
  | .baddi _ d a k => some (.s, [.b a.toNat], .breg d.toNat (s.me.breg a.toNat + k.signExtend 64))
  | .bli _ d k => some (.s, [], .breg d.toNat (k.signExtend 64))
  | _ => none

/-- The address words of L and S write their a or b register after 1 cycle and change nothing else (05 R147). -/
def Claims.AddressWordsComplete : Prop :=
  ∀ (s : State) (i : Instr) (k : StreamKind) (srcs : List RegRef) (r : Result),
    Claims.addressResult s i = some (k, srcs, r) → s.timely srcs = true →
    exec i s = .next (s.setPipe s.curPipe ((s.me.produce k s.atk 1 r 0).afterWord k (s.atk + 1) false))

/-- O5. Scalar words of C and address words of L and S put their result in flight and change nothing else: all of
Claims.ScalarWordsComplete, Claims.AddressWordsComplete. -/
def Obligations.ScalarAndAddressWordsComplete : Prop :=
  Claims.ScalarWordsComplete ∧ Claims.AddressWordsComplete

/-- O14. SCFG takes the 64 bytes at its offset for its stream register, 8 cycles on; SADV moves a position by its offset modulo TOT
and BOUT to the start of the next level-0 run; TLBP starts a walk of the address at LOOK beyond its position, which takes 48
cycles and replaces any walk in progress for that register (05 R142, R145, R146, R158). -/
def Obligations.StreamRegisterWordsComplete : Prop :=
  ∀ (s : State) (w : BitVec 3) (st a : BitVec 4) (k : BitVec 15) (d : Desc),
    (∀ (i : Instr) (kd : StreamKind) (src : RegRef) (o : Nat),
      ((i = .lScfg w st a k ∧ kd = .l ∧ src = .a a.toNat ∧ o = (s.me.areg a.toNat + k.signExtend 64 * 64).toNat) ∨
        (i = .sScfg w st a k ∧ kd = .s ∧ src = .b a.toNat ∧ o = (s.me.breg a.toNat + k.signExtend 64 * 64).toNat)) →
      i.wellFormed = true → o % 64 = 0 → o < 0x600000 → s.bankSlips s.curPipe kd.num (s.me.seq kd).pc o 64 = [] →
      s.eccSlips s.curPipe kd.num (s.me.seq kd).pc o 64 = [] → s.timely [src] = true →
      ∃ t : State, exec i s = .next t ∧ t.me.regs = s.me.regs ∧ t.me.cyc.dets = s.me.cyc.dets ∧
        t.me.fly.res = s.me.fly.res ++ [{ due := s.atk + 8, stream := kd.num,
                                          res := .scfg st.toNat o (s.me.mem.sram.words o 8) (s.me.seq kd).pc, issue := s.atk }]) ∧
    (∀ (i : Instr) (kd : StreamKind) (f : Nat → Nat),
      ((i = .lSadv w st k ∧ kd = .l ∧ f = fun (p : Nat) => (((p : Int) + k.toInt) % (d.tot : Int)).toNat) ∨
        (i = .sSadv w st k ∧ kd = .s ∧ f = fun (p : Nat) => (((p : Int) + k.toInt) % (d.tot : Int)).toNat) ∨
        (i = .bout w st ∧ kd = .l ∧ f = fun (p : Nat) => if p % d.cnt 0 = 0 then p else (p / d.cnt 0 + 1) * d.cnt 0 % d.tot)) →
      i.wellFormed = true → (s.me.streg st.toNat).desc = some d → s.timely [.st st.toNat] = true →
      exec i s = .next (s.setPipe s.curPipe
        ((s.me.setSt st.toNat { s.me.streg st.toNat with p := f (s.me.streg st.toNat).p }).afterWord kd (s.atk + 1) false))) ∧
    (∀ (i : Instr) (kd : StreamKind), ((i = .lTlbp w st ∧ kd = .l) ∨ (i = .sTlbp w st ∧ kd = .s)) →
      i.wellFormed = true → (s.me.streg st.toNat).desc = some d → d.kind ≠ 0 → s.timely [.st st.toNat] = true →
      ∃ (t : State) (old : List Flight), exec i s = .next t ∧ t.me.regs = s.me.regs ∧ t.me.cyc.dets = s.me.cyc.dets ∧
        old = s.me.fly.res.filter (fun f => !(f.res.prefetches st.toNat)) ∧
        t.me.fly.res = old ++ [{ due := s.atk + 48, stream := kd.num,
                                 res := .nxt st.toNat (d.addr (s.me.streg st.toNat).p + d.look) [], issue := s.atk }])

/-- O15. A legal LDQ with room in its queue, no reserved bank, no damaged byte and no invalid scale word appends one entry, poppable
6 cycles on, whose element e is the element at its position converted to QFMT (or the KV16 token's), raises the conversions'
flags with it, charges its bytes, and moves the position on by one (05 R152, R153). -/
def Obligations.LdqCompletes : Prop :=
  ∀ (s : State) (w q : BitVec 3) (st : BitVec 4) (d : Desc) (r : StreamReg) (f : Nat → FRes),
    r = s.me.streg st.toNat → r.desc = some d → (Instr.ldq w q st).wellFormed = true →
    ldqBad s.me d r.p = false → (s.me.dqueue q.toNat).length < 16 →
    (∀ e ∈ ldqRanges s.me d r.p, s.bankSlips s.curPipe 1 s.me.l.pc e.1 e.2 = [] ∧ s.eccSlips s.curPipe 1 s.me.l.pc e.1 e.2 = []) →
    (∀ o ∈ d.scaleOffs r.p, scaleValid (BitVec.ofNat 32 (s.me.mem.sram.readLE o.toNat 4)) = true) →
    s.timely (if d.fmt = 8 then [.st st.toNat, .cb d.cbr] else [.st st.toNat]) = true →
    f = (fun e => if d.kv = 0 then ldqElem s.me d (d.addr r.p).toNat r.p e
      else kvLane s.me.mem.sram d.kv (d.kvBase r.p) (d.index r.p).1 (d.index r.p).2.1 e) →
    ∃ t : State, exec (.ldq w q st) s = .next t ∧
      t.me.dqueue q.toNat = s.me.dqueue q.toNat ++
        [{ ready := s.atk + 6, val := vecPack (fmtOf d.qfmt).bits d.lanes (fun e => (f e).bits), issue := s.atk }] ∧
      t.me.fly.res = s.me.fly.res ++ [{ due := s.atk + 6, stream := 1, res := .flags,
                                        flags := flagsOf d.lanes (fun e => (f e).flags), issue := s.atk }] ∧
      t.me.streg st.toNat = r.advance d ∧ t.me.cyc.dets = s.me.cyc.dets ∧ t.me.mem = s.me.mem ∧
      t.me.cyc.rd = s.me.cyc.rd + ((ldqRanges s.me d r.p).map (fun e => e.2)).sum

/-- O16. GATH reads its 64 indices and begins its eight cycles of row reads; LDCB loads 32 bytes into a codebook after 6 cycles;
LDCM loads a coefficient table with an image of the resident bank, held from 256 cycles on (05 R154 to R156). -/
def Obligations.TableLoadsComplete : Prop :=
  ∀ (s : State) (w : BitVec 3) (st a t4 : BitVec 4) (c : BitVec 2) (k : BitVec 15) (d : Desc) (o : Nat) (img : List (BitVec 128)),
    (o = (s.me.areg a.toNat + k.signExtend 64 * 256).toNat → (Instr.gath w st a k).wellFormed = true →
      (s.me.streg st.toNat).desc = some d → d.kind ≠ 1 →
      d.addr (s.me.streg st.toNat).p % (fmtAlign (fmtOf d.fmt) : Int) = 0 → o % 256 = 0 → o < 0x600000 →
      s.bankSlips s.curPipe 1 s.me.l.pc o 256 = [] → s.eccSlips s.curPipe 1 s.me.l.pc o 256 = [] →
      s.timely [.st st.toNat, .a a.toNat] = true →
      ∃ t : State, exec (.gath w st a k) s = .next t ∧ t.me.cyc.dets = s.me.cyc.dets ∧
        t.me.streg st.toNat = (s.me.streg st.toNat).advance d ∧ t.me.cyc.rd = s.me.cyc.rd + 256 ∧
        t.me.fly.gath = s.me.fly.gath ++ [{ issue := s.atk, base := d.addr (s.me.streg st.toNat).p, stride := d.str 1,
                                            idx := (List.range 64).map (fun n => signedOf 32 (s.me.mem.sram.readLE (o + 4 * n) 4)), rows := [],
                                            pc := s.me.l.pc }]) ∧
    (o = (s.me.areg a.toNat).toNat → (Instr.ldcb w c a).wellFormed = true → o % 32 = 0 → o < 0x600000 →
      s.bankSlips s.curPipe 1 s.me.l.pc o 32 = [] → s.eccSlips s.curPipe 1 s.me.l.pc o 32 = [] → s.timely [.a a.toNat] = true →
      exec (.ldcb w c a) s = .next (s.setPipe s.curPipe
        (((s.me.produce .l s.atk 6 (.cb c.toNat (BitVec.ofNat 256 (s.me.mem.sram.readLE o 32))) 0).chargeL 32).afterWord .l (s.atk + 1) false))) ∧
    ((s.part s.curPart).run.cmem.find? (fun e => e.1 == (s.me.areg a.toNat).toNat) = some ((s.me.areg a.toNat).toNat, img) →
      (s.me.areg a.toNat).toNat ≤ 15 → s.timely [.a a.toNat] = true →
      exec (.ldcm w t4 a) s = .next (s.setPipe s.curPipe
        ((s.me.produce .l s.atk 256 (.coef t4.toNat img) 0).afterWord .l (s.atk + 1) false)))

/-- O17. HLD and HST with a legal stream and offset, a slot of their partition, and a stream TLB entry that covers their address
start a transfer of 256 bytes between that physical address and tensor SRAM, and move the position on by one; HST holds the
bytes read in its issue cycle (05 R157, R161, R162; 19 R428). -/
def Obligations.HbmTransfersStart : Prop :=
  ∀ (s : State) (w : BitVec 3) (st a : BitVec 4) (k : BitVec 15) (d : Desc) (r r' : StreamReg) (e : STlb) (i : Instr)
    (kd : StreamKind) (src : RegRef) (o : Nat) (load : Bool),
    ((i = .hld w st a k ∧ kd = .l ∧ src = .a a.toNat ∧ o = (s.me.areg a.toNat + k.signExtend 64 * 256).toNat ∧ load = true) ∨
      (i = .hst w st a k ∧ kd = .s ∧ src = .b a.toNat ∧ o = (s.me.breg a.toNat + k.signExtend 64 * 256).toNat ∧ load = false ∧
        s.bankSlips s.curPipe 3 s.me.s.pc o 256 = [] ∧ s.eccSlips s.curPipe 3 s.me.s.pc o 256 = [])) →
    i.wellFormed = true → r = s.me.streg st.toNat → r.desc = some d → d.kind = 1 → o % 256 = 0 → o < 0x600000 →
    d.addr r.p % 256 = 0 → inPaged (d.addr r.p) 256 = true → (s.part s.curPart).tsmask.getLsbD (slotOf s.atk) = true →
    r.lookup (d.addr r.p).toNat = .hit e r' → s.timely [.st st.toNat, src] = true →
    ∃ t : State, exec i s = .next t ∧ t.me.cyc.dets = s.me.cyc.dets ∧ t.me.streg st.toNat = r'.advance d ∧
      t.me.mem = s.me.mem ∧
      t.me.fly.hbm = s.me.fly.hbm ++ [{ isLoad := load, issue := s.atk, pa := e.frame + ((d.addr r.p).toNat - e.page), off := o,
                                        data := if load then [] else (List.range 32).map (fun n => (n, s.me.mem.sram.word (o + 8 * n))),
                                        pc := (s.me.seq kd).pc }]

/-! ### S: stores, relays and read-modify-write (05 R164 to R171) -/

/-- A legal STQ pops the sound head of its queue, puts its elements, converted to fmt, in flight for the end of issue + 2, raises
their flags 3 cycles on, moves the position on and, under SR, draws once for each element; where hcap and its set's EN bit are
both 1, it counts each element in the bin of its pattern before or, with the set's POST bit, after the conversion, and otherwise
no set changes (05 R164, R165; 02 R59, R67). HCLR clears the 64 bins of its set, and HSNAP writes them and clears the set as one
action (05 R166; 02 R68). -/
def Claims.StoresAndHistograms : Prop :=
  ∀ (s : State) (w q : BitVec 3) (st f b : BitVec 4) (rm : BitVec 3) (x c : BitVec 1) (h n : BitVec 2) (d : Desc) (r : StreamReg)
    (m : RMode) (v : VWord) (out : Nat → FRes),
    (r = s.me.streg st.toNat → r.desc = some d → s.me.mode rm.toNat = some m → (Instr.stq w q st f rm x h c).wellFormed = true →
      d.kind ≠ 1 → d.lanes * (fmtOf f.toNat).bits / 8 ≤ 256 → inTensor (d.addr r.p) (d.lanes * (fmtOf f.toNat).bits / 8) = true →
      d.addr r.p % (fmtAlign (fmtOf f.toNat) : Int) = 0 → qHead (s.me.dqueue q.toNat) s.atk = some v →
      qBad (s.me.dqueue q.toNat) s.atk = false → s.timely [.st st.toNat] = true →
      out = (fun e => stqElem s.me (fmtOf d.qfmt) (fmtOf f.toNat) (decide (x = 1)) m v e) →
      ∃ t : State, exec (.stq w q st f rm x h c) s = .next t ∧ t.me.cyc.dets = s.me.cyc.dets ∧
        t.me.dqueue q.toNat = (s.me.dqueue q.toNat).tail ∧ t.me.streg st.toNat = r.advance d ∧
        t.me.fly.writes = s.me.fly.writes ++ [{ at_ := s.atk + 2, cls := 5, addr := (d.addr r.p).toNat,
                                                bytes := elemBytes (fmtOf f.toNat).bits d.lanes (fun e => (out e).bits),
                                                pc := s.me.s.pc }] ∧
        t.me.fly.res = s.me.fly.res ++ [{ due := s.atk + 3, stream := 3, res := .flags,
                                          flags := flagsOf d.lanes (fun e => (out e).flags), issue := s.atk }] ∧
        t.me.cyc.draws = Nat.max s.me.cyc.draws (if m = .sr then d.lanes else 0) ∧
        t.me.mem.sram = s.me.mem.sram ∧ t.me.regs.vr = s.me.regs.vr ∧ t.me.regs.sr = s.me.regs.sr ∧
        ((c = 0 ∨ s.me.csr.histCtl.getLsbD h.toNat = false) → t.me.mem.hist = s.me.mem.hist) ∧
        (c = 1 → s.me.csr.histCtl.getLsbD h.toNat = true →
          t.me.mem.hist = ((List.range d.lanes).filterMap (fun e => if s.me.csr.histCtl.getLsbD (4 + h.toNat)
            then captureBin (fmtOf f.toNat) (out e).bits
            else captureBin (fmtOf d.qfmt) (elemOf v (fmtOf d.qfmt).bits e))).foldl (fun a j => addCount a h.toNat j) s.me.mem.hist)) ∧
    (exec (.hclr w n) s = .next (s.setPipe s.curPipe
      (({ s.me with mem := { s.me.mem with hist := clearSet s.me.mem.hist n.toNat } } : Pipe).afterWord .s (s.atk + 1) false))) ∧
    ((s.me.breg b.toNat).toNat % 256 = 0 → (s.me.breg b.toNat).toNat < 0x600000 → s.timely [.b b.toNat] = true →
      ∃ t : State, exec (.hsnap w n b) s = .next t ∧ t.me.cyc.dets = s.me.cyc.dets ∧
        t.me.mem.hist = clearSet s.me.mem.hist n.toNat ∧ t.me.mem.sram = s.me.mem.sram ∧
        t.me.fly.writes = s.me.fly.writes ++ [{ at_ := s.atk + 2, cls := 5, addr := (s.me.breg b.toNat).toNat,
                                                bytes := elemBytes 32 64 (fun j => (s.me.mem.hist.get (n.toNat * 64 + j) 0).toNat),
                                                pc := s.me.s.pc }])

/-- O19. A SEND within a relay of the stage table that reaches its hops, to a pipeline of the partition at a 256-byte multiple below
0x60_0000, pops its queue and sends the word to land 18 + 14 × hops cycles on; an MCAST sends one word for each pipeline of its
group, all landing 22 + 14 × the greatest hops cycles on (05 R167 to R169; 09 R275). -/
def Obligations.RelayWordsComplete : Prop :=
  ∀ (s : State) (w q : BitVec 3) (g b : BitVec 4) (v : Word) (head : VWord) (e : StageEntry) (re tau die : Nat),
    v = s.me.breg b.toNat → die = dieOfPipe s.curPipe → tau = (s.part s.curPart).run.tau s.atk →
    bitsOf v 22 0 % 256 = 0 → bitsOf v 22 0 < 0x600000 → qHead (s.me.dqueue q.toNat) s.atk = some head →
    qBad (s.me.dqueue q.toNat) s.atk = false → relayAt (s.part s.curPart).run.stages tau = some (e, re) → s.timely [.b b.toNat] = true →
    (bitsOf v 63 32 = 0 → (s.part s.curPart).hasDie (bitsOf v 31 28) = true → hops die (bitsOf v 31 28) ≤ e.hmax →
      (Instr.send w q b).wellFormed = true →
      ∃ t : State, exec (.send w q b) s = .next t ∧ t.me.cyc.dets = s.me.cyc.dets ∧
        t.me.dqueue q.toNat = (s.me.dqueue q.toNat).tail ∧ t.me.regs = s.me.regs ∧
        t.words = s.words ++ [{ src := s.curPipe, dst := bitsOf v 31 28 * 32 + bitsOf v 27 23, off := bitsOf v 22 0, data := head,
                                ta := s.atk + BitVec.ofNat 64 (18 + 14 * hops die (bitsOf v 31 28)),
                                judged := decide (bitsOf v 31 28 = die) }]) ∧
    (∀ (dies pipes : List Nat) (far : Nat),
      dies = (List.range 16).filter (fun i => (s.me.csr.mcgroup.get g.toNat 0).getLsbD (32 + i)) →
      pipes = (List.range 32).filter (fun i => (s.me.csr.mcgroup.get g.toNat 0).getLsbD i) →
      far = (dies.map (hops die)).foldl Nat.max 0 → bitsOf v 63 23 = 0 → dies ≠ [] → pipes ≠ [] →
      (∀ i ∈ dies, (s.part s.curPart).hasDie i = true) → far ≤ e.hmax → tau + 4 ≤ re →
      (Instr.mcast w q g b).wellFormed = true →
      ∃ t : State, exec (.mcast w q g b) s = .next t ∧ t.me.cyc.dets = s.me.cyc.dets ∧
        t.me.dqueue q.toNat = (s.me.dqueue q.toNat).tail ∧ t.me.regs = s.me.regs ∧
        t.words = s.words ++ dies.flatMap (fun i => pipes.map (fun n =>
          { src := s.curPipe, dst := i * 32 + n, off := bitsOf v 22 0, data := head,
            ta := s.atk + BitVec.ofNat 64 (22 + 14 * far), judged := decide (i = die) })))

/-- An RMW on an aligned element below 0x60_0000, in a bank that no earlier RMW holds, puts the combined value in flight for the end
of issue + 2, holds its bank until then, raises its flags 3 cycles on, and changes no memory in its issue cycle (05 R170,
R171). -/
def Claims.RmwCompletes : Prop :=
  ∀ (s : State) (w o : BitVec 3) (ty : BitVec 2) (b v : BitVec 4) (f : Fmt) (a : Nat) (r : FRes),
    f = (if ty = 0 then .fp32 else if ty = 1 then .bf16 else .int32) → a = (s.me.breg b.toNat).toNat →
    (Instr.rmw w o ty b v).wellFormed = true → a % (f.bits / 8) = 0 → a < 0x600000 →
    s.me.fly.rmwHold.any (fun e => decide (e.1 = tensorBank a) && Tick.le s.atk e.2) = false →
    s.eccSlips s.curPipe 3 s.me.s.pc a (f.bits / 8) = [] → s.timely [.b b.toNat, .b v.toNat] = true →
    r = rmwValue o.toNat f (s.me.mem.sram.readLE a (f.bits / 8)) ((s.me.breg v.toNat).toNat % 2 ^ f.bits) →
    ∃ t : State, exec (.rmw w o ty b v) s = .next t ∧ t.me.cyc.dets = s.me.cyc.dets ∧ t.me.mem = s.me.mem ∧ t.me.regs = s.me.regs ∧
      t.me.fly.writes = s.me.fly.writes ++ [{ at_ := s.atk + 2, cls := 4, addr := a, bytes := toBytes (f.bits / 8) r.bits,
                                              pc := s.me.s.pc }] ∧
      t.me.fly.res = s.me.fly.res ++ [{ due := s.atk + 3, stream := 3, res := .flags, flags := r.flags, issue := s.atk }] ∧
      (tensorBank a, s.atk + 2) ∈ t.me.fly.rmwHold

/-- O18. STQ, HCLR, HSNAP and the RMW words store what they say: all of Claims.StoresAndHistograms, Claims.RmwCompletes. -/
def Obligations.StoresComplete : Prop :=
  Claims.StoresAndHistograms ∧ Claims.RmwCompletes

/-! ### Results land (04 R104; 01 R19) -/

/-- What pipeline `p` reads in register `r` of the files that results write whole. -/
def Claims.reads (p : Pipe) (r : RegRef) : Nat :=
  match r with
  | .s n => (p.sreg n).toNat
  | .p n => (p.preg n).toNat
  | .a n => (p.areg n).toNat
  | .b n => (p.breg n).toNat
  | .v n => (p.vreg n).toNat
  | .m n => (p.mreg n).toNat
  | .cb n => (p.cbreg n).toNat
  | _ => 0

/-- What a result leaves in register `r`, where it writes it, which read `old` before: vector and mask results keep the bits
outside their mask. -/
def Claims.landed (x : Result) (r : RegRef) (old : Nat) : Nat :=
  match x, r with
  | .sreg _ v, .s _ => v.toNat
  | .preg _ v, .p _ => v.toNat
  | .areg _ v, .a _ => v.toNat
  | .breg _ v, .b _ => v.toNat
  | .vreg _ v m, .v _ => (masked (BitVec.ofNat 2048 old) v m).toNat
  | .mreg _ v m, .m _ => (masked (BitVec.ofNat 64 old) v m).toNat
  | .cb _ v, .cb _ => v.toNat
  | _, _ => old

/-- In each cycle of its die a pipeline completes its results for registers, operand latch A, accumulator rows and flags that are
due, whatever they are: they leave the flight and all others stay; each register reads as the due results that write it leave
it, in their order, so that one which none of them writes reads as before, and s0 and p0 keep their constants; so does each row of
the accumulator store, and operand latch A holds the rows of the last that writes it; FFLAGS takes their flags; queues, memories
and what else is in flight are unchanged (04 R104; 01 R19, R25, R26; 02 R53; 05 R154; 06 R177, R184, R185; 07 R192). -/
def Claims.RegisterResultsLand : Prop :=
  ∀ (s : State) (g : Nat) (due : List Flight) (now : Tick), now = s.now (dieOfPipe g) →
    due = (s.pipe g).fly.res.filter (fun f => decide (f.due = now) && f.res.plain) →
    ∃ t : State, exec (.resultComplete g) s = .next t ∧
      (t.pipe g).fly = { (s.pipe g).fly with
                         res := (s.pipe g).fly.res.filter (fun f => !(decide (f.due = now) && f.res.plain)) } ∧
      (∀ r : RegRef, Claims.reads (t.pipe g) r =
        (due.filter (fun f => f.res.writes r)).foldl (fun old f => Claims.landed f.res r old) (Claims.reads (s.pipe g) r)) ∧
      (∀ n : Nat, (t.pipe g).mx.acc.get n 0 = due.foldl (fun old f => match f.res with
        | .acc rows => rows.foldl (fun v e => if e.1 = n then e.2 else v) old
        | _ => old) ((s.pipe g).mx.acc.get n 0)) ∧
      (∀ n : Nat, (t.pipe g).mx.latchA.get n 0 = due.foldl (fun old f => match f.res with
        | .latch rows => rows.getD n 0
        | _ => old) ((s.pipe g).mx.latchA.get n 0)) ∧
      (t.pipe g).csr.fflags = due.foldl (fun a f => a ||| f.flags) (s.pipe g).csr.fflags ∧
      (t.pipe g).mem = (s.pipe g).mem ∧ (t.pipe g).q = (s.pipe g).q ∧ t.mem = s.mem ∧ t.dies = s.dies

/-! ### X: vector words (07) -/

/-- A vector word that rounds: the registers that it reads besides m0, its mode field, its elements, its latency, its
destination, its mask bit, the width of an element, and element e of its result under a mode (07 R195, R198, R202, R216). -/
structure Claims.Rounding where
  srcs : List RegRef
  rm : Nat
  n : Nat
  lat : Nat
  d : Nat
  m : BitVec 1
  w : Nat
  elem : RMode → Nat → FRes

/-- A sum, product or fused product of elements, rounded once, with NV for a signalling operand or an invalid operation
(07 R198; 02 R46, R48). -/
def Claims.arith (s : State) (d a b : BitVec 5) (f r : BitVec 3) (x m : BitVec 1) (three : Bool)
    (op : XVal → XVal → XVal → Bool → XRes) : Claims.Rounding :=
  let fm := Fmt.ofVec f.toNat
  let e := fun (n : BitVec 5) (k : Nat) => elemOf (s.me.vreg n.toNat) fm.bits k
  { srcs := [.v a.toNat, .v b.toNat] ++ (if three then [.v d.toNat] else []), rm := r.toNat, n := 2048 / fm.bits,
    lat := if f = 0 then 4 else 3, d := d.toNat, m := m, w := fm.bits,
    elem := fun rm k =>
      let y := op (fm.decode (e a k)) (fm.decode (e b k)) (fm.decode (e d k)) (decide (rm = .rdn))
      let q := roundSat y.val fm (decide (x = 1)) rm (srDraw s.me rm (2048 / fm.bits) k)
      ⟨q.bits, q.flags ||| snanFlag fm (e a k) ||| snanFlag fm (e b k) ||| (if three then snanFlag fm (e d k) else 0) |||
        flagIf y.nv flagNV⟩ }

/-- The rounding words of X. -/
def Claims.roundingWord (s : State) (i : Instr) : Option Claims.Rounding :=
  match i with
  | .vadd _ d a b f r x m => some (Claims.arith s d a b f r x m false (fun u v _ dn => xadd u v dn))
  | .vsub _ d a b f r x m => some (Claims.arith s d a b f r x m false (fun u v _ dn => xadd u v.negate dn))
  | .vmul _ d a b f r x m => some (Claims.arith s d a b f r x m false (fun u v _ _ => xmul u v))
  | .vfma _ d a b f r x m => some (Claims.arith s d a b f r x m true xfma)
  | .vfms _ d a b f r x m => some (Claims.arith s d a b f r x m true (fun u v z dn => xfma u v z.negate dn))
  | .vcvt _ d a g f r x m =>
    let sf := Fmt.ofVec g.toNat
    let fm := Fmt.ofVec f.toNat
    let n := 2048 / Nat.max sf.bits fm.bits
    some { srcs := [.v a.toNat], rm := r.toNat, n := n, lat := 3, d := d.toNat, m := m, w := fm.bits,
           elem := fun rm k => convert sf fm (decide (x = 1)) rm (srDraw s.me rm n k) (elemOf (s.me.vreg a.toNat) sf.bits k) }
  | .vtab _ d a t f r x m =>
    some { srcs := [.v a.toNat, .coef t.toNat], rm := r.toNat, n := 64, lat := 8, d := d.toNat, m := m, w := 32,
           elem := fun rm k => vtabLane s.me.mem.coef t.toNat (Fmt.ofVec f.toNat) (decide (x = 1)) rm (srDraw s.me rm 64 k)
             (lane (s.me.vreg a.toNat) k).toNat }
  | _ => none

/-- O21. A legal rounding word under a mode that is not reserved, and under SR with at most two elements in a lane, puts its
elements in flight for the lanes that its mask lets through, with their flags, draws 64 times under SR, and changes nothing else
(07 R192 to R195, R198, R202, R216; 02 R59). -/
def Obligations.RoundingWordsComplete : Prop :=
  ∀ (s : State) (i : Instr) (a : Claims.Rounding) (rm : RMode), Claims.roundingWord s i = some a → i.wellFormed = true →
    s.me.mode a.rm = some rm → (rm = .sr → a.n ≤ 128) → s.timely (a.srcs ++ (if a.m = 1 then [.m 0] else [])) = true →
    (∀ n ∈ s.me.mem.badCoef, RegRef.coef (n / 512) ∉ a.srcs) →
    exec i s = .next (s.setPipe s.curPipe
      (((s.me.writeElems s.atk a.lat a.d (s.me.execMask a.m) a.w a.n (a.elem rm) 0).drawn (if rm = .sr then 64 else 0)).afterWord
        .x (s.atk + 1) false))

/-- A vector word without rounding: registers read besides m0, destination, mask bit, width and number of elements, and
element e of its result (07 R199, R200, R204, R206, R207, R209 to R211). -/
structure Claims.Plain where
  srcs : List RegRef
  d : Nat
  m : BitVec 1
  w : Nat
  n : Nat
  elem : Nat → FRes

/-- The vector words of X without rounding, readable after 2 cycles. -/
def Claims.plainWord (s : State) (i : Instr) : Option Claims.Plain :=
  let ln := fun (n : BitVec 5) (k : Nat) => lane (s.me.vreg n.toNat) k
  let lanes := fun (d a b : BitVec 5) (m : BitVec 1) (g : BitVec 32 → BitVec 32 → BitVec 32) =>
    some ({ srcs := [.v a.toNat, .v b.toNat], d := d.toNat, m := m, w := 32, n := 64,
            elem := fun k => ⟨(g (ln a k) (ln b k)).toNat, 0⟩ } : Claims.Plain)
  let elems := fun (d a b : BitVec 5) (m : BitVec 1) (f : BitVec 3) (g : Nat → Nat → FRes) =>
    let w := (Fmt.ofVec f.toNat).bits
    some ({ srcs := [.v a.toNat, .v b.toNat], d := d.toNat, m := m, w := w, n := 2048 / w,
            elem := fun k => g (elemOf (s.me.vreg a.toNat) w k) (elemOf (s.me.vreg b.toNat) w k) } : Claims.Plain)
  let unary := fun (d a : BitVec 5) (m : BitVec 1) (f : BitVec 3) (g : Nat → FRes) =>
    let w := (Fmt.ofVec f.toNat).bits
    some ({ srcs := [.v a.toNat], d := d.toNat, m := m, w := w, n := 2048 / w,
            elem := fun k => g (elemOf (s.me.vreg a.toNat) w k) } : Claims.Plain)
  let exact := fun (f : BitVec 3) (x : BitVec 1) (z : Int) =>
    if x = 1 then roundSat (.ofInt z) (Fmt.ofVec f.toNat) true .rne 0 else ⟨wrapInt (Fmt.ofVec f.toNat).bits z, 0⟩
  match i with
  | .vand _ d a b m => lanes d a b m (· &&& ·)
  | .vor _ d a b m => lanes d a b m (· ||| ·)
  | .vxor _ d a b m => lanes d a b m (· ^^^ ·)
  | .vshl _ d a b m => lanes d a b m (fun x y => if 32 ≤ y.toNat % 64 then 0 else x <<< (y.toNat % 64))
  | .vshr _ d a b m => lanes d a b m (fun x y => if 32 ≤ y.toNat % 64 then 0 else x >>> (y.toNat % 64))
  | .vmax _ d a b f m => elems d a b m f (vecMinMax (Fmt.ofVec f.toNat) true)
  | .vmin _ d a b f m => elems d a b m f (vecMinMax (Fmt.ofVec f.toNat) false)
  | .vabs _ d a f m => unary d a m f (signOp (Fmt.ofVec f.toNat) true)
  | .vneg _ d a f m => unary d a m f (signOp (Fmt.ofVec f.toNat) false)
  | .viadd _ d a b f x m => elems d a b m f (fun u v =>
      exact f x (intOf ((Fmt.ofVec f.toNat).decode u) + intOf ((Fmt.ofVec f.toNat).decode v)))
  | .vimul _ d a b f x m => elems d a b m f (fun u v =>
      exact f x (intOf ((Fmt.ofVec f.toNat).decode u) * intOf ((Fmt.ofVec f.toNat).decode v)))
  | .vsel _ d a b k m => some { srcs := [.v a.toNat, .v b.toNat, .m k.toNat], d := d.toNat, m := m, w := 32, n := 64,
                                elem := fun e => ⟨(if (s.me.mreg k.toNat).getLsbD e then ln a e else ln b e).toNat, 0⟩ }
  | .vperm _ d a b m => some { srcs := [.v a.toNat, .v b.toNat], d := d.toNat, m := m, w := 32, n := 64,
                               elem := fun e => ⟨(if (ln b e).toNat < 64 then ln a (ln b e).toNat else 0).toNat, 0⟩ }
  | .vspl _ d a l m => some { srcs := [.v a.toNat], d := d.toNat, m := m, w := 32, n := 64, elem := fun _ => ⟨(ln a l.toNat).toNat, 0⟩ }
  | .vldi _ d k v => some { srcs := [], d := d.toNat, m := 0, w := 32, n := 64,
                            elem := fun _ => ⟨(if k = 0 then v.signExtend 32 else if k = 1 then v.setWidth 32 <<< 16 else v ++ v).toNat, 0⟩ }
  | _ => none

/-- O22. A legal vector word without rounding puts its elements in flight for the lanes that its mask lets through, readable after 2
cycles, with the flags of those elements, and changes nothing else (07 R192, R193, R199, R200, R204, R206, R207, R209 to R211). -/
def Obligations.PlainVectorWordsComplete : Prop :=
  ∀ (s : State) (i : Instr) (a : Claims.Plain), Claims.plainWord s i = some a → i.wellFormed = true →
    s.timely (a.srcs ++ (if a.m = 1 then [.m 0] else [])) = true →
    exec i s = .next (s.setPipe s.curPipe
      ((s.me.writeElems s.atk 2 a.d (s.me.execMask a.m) a.w a.n a.elem 0).afterWord .x (s.atk + 1) false))

/-- Writing elements under a mask changes exactly the elements whose lane the mask selects: after the result has landed in v
register d, element e reads as the result's where its lane is on, and as before where it is off (07 R192, R193). -/
def Claims.MaskedElementsLand : Prop :=
  ∀ (p : Pipe) (now : Tick) (lat d n w : Nat) (m : Word) (f : Nat → FRes) (e : Nat), w * n = 2048 → 0 < w → n % 64 = 0 → e < n →
    ∀ r : Flight, (p.writeElems now lat d m w n f 0).fly.res = p.fly.res ++ [r] →
      elemOf ((p.writeResult r.res).vreg d) w e =
        if m.getLsbD (e / (n / 64)) then (f e).bits % 2 ^ w else elemOf (p.vreg d) w e

/-- The writes of class `c` (6 STS, 5 STQ and HSNAP, 4 RMW) of pipeline `g` whose charge cycle this is and that enter the memory; an
STS has been judged at its issue (04 R111; 05 R149 to R151). -/
def Claims.entering (s : State) (g c : Nat) : List TWrite :=
  (s.pipe g).fly.writes.filter (fun w => decide (w.at_ = s.now (dieOfPipe g)) && decide (w.cls = c) &&
    (decide (c = 6) || (s.bankSlips g 3 w.pc w.addr w.bytes.length).isEmpty))

/-- At the end of a cycle of a pipeline: every GIVE and TAKE of the cycle has been added to its token queue; the instruction writes
whose charge cycle it is enter tensor SRAM in the order STS, STQ and HSNAP, RMW, and under the landings of the cycle, which it holds
already, so that of two that reach a byte the earlier of R150's list prevails, and no other byte changes; and a port charged beyond
its width is among the cycle's detections, a TOKEN slip with DETAIL 60 beyond 512 bytes read and 61 beyond 256 bytes written, and
else none is (01 R24; 05 R149, R150; 09 R487). -/
def Claims.CycleEnds : Prop :=
  ∀ (s : State) (g : Nat) (p : Pipe) (now : Tick) (put : List TWrite → Memory → Memory), p = s.pipe g → now = s.now (dieOfPipe g) →
    (∀ ws m, put ws m = ws.foldl (fun m w => m.writeBytes w.addr w.bytes) m) → p.fly.done = [] →
    (∀ n : Nat, ((s.endPipe g).pipe g).tokens n =
      (p.cyc.tokDelta.filter (fun e => decide (e.1 = n))).foldl (fun (c : Nat) e => ((c : Int) + e.2).toNat) (p.tokens n)) ∧
    ((∀ a : Nat, (p.cyc.landed.foldl (fun m e => m.writeBytes e.2.2.1 e.2.2.2) p.mem.sram).read a = p.mem.sram.read a) →
      ∀ a : Nat, ((s.endPipe g).pipe g).settleWrites.mem.sram.read a =
      (p.cyc.landed.foldl (fun m e => m.writeBytes e.2.2.1 e.2.2.2)
        (put (Claims.entering s g 4) (put (Claims.entering s g 5) (put (Claims.entering s g 6) p.mem.sram)))).read a) ∧
    (∃ u : State, s.endPipe g = (u.conclude g now none).by (execPipelineFinished g) ∧
      (∀ wr : Nat, wr = ([6, 5, 4].flatMap (Claims.entering s g)).foldl (fun n w => n + w.bytes.length) p.cyc.wr →
        (512 < p.cyc.rd → ({ cause := 3, stream := 1, pc := p.cyc.rdPc, detail := 60, info := 0 } : Det) ∈ (u.pipe g).cyc.dets) ∧
        (256 < wr → ∃ pc : Nat, ({ cause := 3, stream := 3, pc := pc, detail := 61, info := 0 } : Det) ∈ (u.pipe g).cyc.dets) ∧
        (∀ e ∈ (u.pipe g).cyc.dets, e ∈ p.cyc.dets ∨ (∃ l ∈ p.fly.late, l.det = e) ∨
          ((e.detail = 60 → 512 < p.cyc.rd) ∧ (e.detail = 61 → 256 < wr))) ∧
        (∀ e ∈ p.cyc.dets, e ∈ (u.pipe g).cyc.dets)))

/-- What a pipeline detects in a cycle: where it has gathered detections it records in FAULT_INFO, with LOCAL = 1, one with the lowest
cause and of that cause the lowest stream; the partition's first detection fixes fe 32 cycles on, or, in a held cycle, at that cycle;
without one nothing changes (04 R138 Table 4-12; 09 R286 to R289). -/
def Claims.FaultsRecorded : Prop :=
  ∀ (s : State) (g k : Nat) (p : Pipe) (td : Tick) (held : Option Nat), p = s.pipe g → k = s.partOfPipe g →
    (p.cyc.dets = [] → s.conclude g td held = s) ∧
    (∀ t : State, t = s.conclude g td held → p.cyc.dets ≠ [] →
      (p.detected = none ∨ ∃ (u : Tick) (e : Det), p.detected = some (u, e) ∧ Tick.lt td u = false ∧ td ≠ u) →
      ∃ d ∈ p.cyc.dets, (∀ e ∈ p.cyc.dets, d.cause < e.cause ∨ (d.cause = e.cause ∧ d.stream ≤ e.stream)) ∧
        (t.pipe g).detected = some (td, d) ∧ (t.pipe g).cyc.dets = [] ∧ (t.pipe g).regs = p.regs ∧ (t.pipe g).mem = p.mem ∧
        (∀ v : Nat, v = (t.pipe g).csr.faultInfo.toNat →
          v % 2 ^ 8 = d.cause % 2 ^ 8 ∧ v / 2 ^ 8 % 4 = 2 ∧ v / 2 ^ 10 % 4 = d.stream % 4 ∧ v / 2 ^ 12 % 2 ^ 14 = d.pc % 2 ^ 14 ∧
          v / 2 ^ 26 % 2 ^ 6 = d.detail % 2 ^ 6 ∧ v / 2 ^ 32 = d.info.toNat) ∧
        ((s.part k).run.td = none → (t.part k).run.td = some td ∧ (t.part k).run.first = some (g, d) ∧
          (t.part k).run.fe = some (if held = none then td + 32 else td)))

/-- O20. A result lands in its register, and in a vector register only in its masked-in elements, a pipeline's cycle ends, and what it
detects is recorded: all of Claims.RegisterResultsLand, Claims.MaskedElementsLand, Claims.CycleEnds, Claims.FaultsRecorded. -/
def Obligations.ResultsLand : Prop :=
  Claims.RegisterResultsLand ∧ Claims.MaskedElementsLand ∧ Claims.CycleEnds ∧ Claims.FaultsRecorded

/-- O23. VCMP writes the mask of its relation, VMSK its function of masks (or of the head of qx, which it pops), VRED one lane of
the combined lanes, VRNG a random word for each lane, VROPE the turned pairs, raising POS_OVF for a position at or above 2^24,
VSCL the scaled elements, and VSPL.Q the head of qx in every lane; VSCL and VSPL.Q pop qx, whose head is sound (07 R201, R203,
R205, R208, R210, R217 to R220). -/
def Obligations.OtherVectorWordsComplete : Prop :=
  ∀ (s : State) (w k kd ka kb : BitVec 3) (d a b o : BitVec 5) (f r c : BitVec 3) (x m : BitVec 1) (fn : BitVec 4) (rm : RMode) (v : Word)
    (fm : Fmt) (on : Word),
    fm = Fmt.ofVec f.toNat → on = s.me.execMask m →
    ((Instr.vcmp w k a b f c m).wellFormed = true → s.timely ([.v a.toNat, .v b.toNat] ++ maskSrc m) = true →
      exec (.vcmp w k a b f c m) s = .next (s.setPipe s.curPipe
        ((s.me.writeMask s.atk k.toNat
          (maskOf (fun i => vcmpHolds c.toNat fm (lane (s.me.vreg a.toNat) i).toNat (lane (s.me.vreg b.toNat) i).toNat)) on
          (flagsOf 64 (fun i => if on.getLsbD i then
            snanFlag fm (lane (s.me.vreg a.toNat) i).toNat ||| snanFlag fm (lane (s.me.vreg b.toNat) i).toNat else 0))).afterWord
          .x (s.atk + 1) false))) ∧
    ((Instr.vmsk w kd ka kb fn).wellFormed = true → fn.toNat ≤ 3 → s.timely [.m ka.toNat, .m kb.toNat] = true →
      exec (.vmsk w kd ka kb fn) s = .next (s.setPipe s.curPipe
        ((s.me.writeMask s.atk kd.toNat
          (if fn = 0 then s.me.mreg ka.toNat &&& s.me.mreg kb.toNat else if fn = 1 then s.me.mreg ka.toNat ||| s.me.mreg kb.toNat
           else if fn = 2 then s.me.mreg ka.toNat ^^^ s.me.mreg kb.toNat else s.me.mreg ka.toNat &&& ~~~(s.me.mreg kb.toNat)) (-1) 0).afterWord
          .x (s.atk + 1) false))) ∧
    ((Instr.vmsk w kd ka kb 7).wellFormed = true → s.timely [.m ka.toNat] = true →
      exec (.vmsk w kd ka kb 7) s = .next (s.setPipe s.curPipe
        ((s.me.writeMask s.atk kd.toNat (s.me.mreg ka.toNat) (-1) 0).afterWord .x (s.atk + 1) false))) ∧
    ((Instr.vmsk w kd ka kb 4).wellFormed = true → s.timely [.m ka.toNat] = true →
      exec (.vmsk w kd ka kb 4) s = .next (s.setPipe s.curPipe
        ((s.me.writeMask s.atk kd.toNat (~~~(s.me.mreg ka.toNat)) (-1) 0).afterWord .x (s.atk + 1) false))) ∧
    ((Instr.vmsk w kd ka kb 5).wellFormed = true →
      exec (.vmsk w kd ka kb 5) s = .next (s.setPipe s.curPipe
        ((s.me.writeMask s.atk kd.toNat (-1) (-1) 0).afterWord .x (s.atk + 1) false))) ∧
    ((Instr.vmsk w kd ka kb 6).wellFormed = true → qHead s.me.q.qx s.atk = some v → qBad s.me.q.qx s.atk = false →
      exec (.vmsk w kd ka kb 6) s = .next (s.setPipe s.curPipe
        ((s.me.popQx.writeMask s.atk kd.toNat (maskOf (fun i => decide (i < v.toNat))) (-1) 0).afterWord .x (s.atk + 1) false))) ∧
    ((Instr.vred w d a o f r m).wellFormed = true → s.me.mode r.toNat = some rm → rm ≠ .sr →
      s.timely ([.v a.toNat] ++ maskSrc m) = true →
      ∃ (t : State) (y : FRes), exec (.vred w d a o f r m) s = .next t ∧ t.me.regs = s.me.regs ∧ t.me.cyc.dets = s.me.cyc.dets ∧
        [y] = redTree (redOp o.toNat fm rm) 6 ((List.range 64).map (fun i =>
          ⟨if on.getLsbD i then (lane (s.me.vreg a.toNat) i).toNat else redIdentity o.toNat fm, 0⟩)) ∧
        t.me.fly.res = s.me.fly.res ++ [{ due := s.atk + 7, stream := 2, res := .vreg d.toNat (BitVec.ofNat 2048 (y.bits % 2 ^ 32)) (-1),
                                          flags := y.flags, issue := s.atk }]) ∧
    ((Instr.vrng w d m).wellFormed = true → s.timely (maskSrc m) = true →
      exec (.vrng w d m) s = .next (s.setPipe s.curPipe
        (((s.me.writeElems s.atk 4 d.toNat on 32 64 (fun i =>
          ⟨(srWord s.me.csr.seedLo s.me.csr.seedHi s.me.csr.seat 4 (s.me.csr.cbase + s.me.csr.elem + BitVec.ofNat 48 i)).toNat, 0⟩) 0).drawn
            64).afterWord .x (s.atk + 1) false))) ∧
    (∀ far : Bool, (Instr.vrope w d a b f r m).wellFormed = true → s.me.mode r.toNat = some rm →
      s.timely ([.v a.toNat, .v b.toNat] ++ maskSrc m) = true →
      far = (List.range 32).any (fun j => (on.getLsbD (2 * j) || on.getLsbD (2 * j + 1)) &&
        decide (2 ^ 24 ≤ (lane (s.me.vreg b.toNat) (2 * j)).toNat)) →
      (far = true → s.me.posflt = false) →
      exec (.vrope w d a b f r m) s = .next (s.setPipe s.curPipe
        (((s.me.writeElems s.atk 6 d.toNat on 32 64
          (fun i => vropeLane (s.me.vreg a.toNat) (s.me.vreg b.toNat) fm rm (srDraw s.me rm 64 i) i) (flagIf far flagPOSOVF)).drawn (if rm = .sr then 64 else 0)).afterWord
          .x (s.atk + 1) false))) ∧
    ((Instr.vscl w d a f r x m).wellFormed = true → s.me.mode r.toNat = some rm → (rm = .sr → 2048 / fm.bits ≤ 128) →
      qHead s.me.q.qx s.atk = some v → qBad s.me.q.qx s.atk = false → scaleValid (v.setWidth 32) = true →
      s.timely ([.v a.toNat] ++ maskSrc m) = true →
      exec (.vscl w d a f r x m) s = .next (s.setPipe s.curPipe
        (((s.me.popQx.writeElems s.atk (if f = 0 then 4 else 3) d.toNat on fm.bits (2048 / fm.bits) (fun e =>
          let y := xmul (fm.decode (elemOf (s.me.vreg a.toNat) fm.bits e)) (Fmt.fp32.decode (v.setWidth 32).toNat)
          let q := roundSat y.val fm (decide (x = 1)) rm (srDraw s.me rm (2048 / fm.bits) e)
          ⟨q.bits, q.flags ||| snanFlag fm (elemOf (s.me.vreg a.toNat) fm.bits e) ||| flagIf y.nv flagNV⟩) 0).drawn
            (if rm = .sr then 64 else 0)).afterWord .x (s.atk + 1) false))) ∧
    ((Instr.vsplQ w d m).wellFormed = true → qHead s.me.q.qx s.atk = some v → qBad s.me.q.qx s.atk = false →
      s.timely (maskSrc m) = true →
      exec (.vsplQ w d m) s = .next (s.setPipe s.curPipe
        ((s.me.popQx.writeElems s.atk 2 d.toNat on 32 64 (fun _ => ⟨v.toNat % 2 ^ 32, 0⟩) 0).afterWord .x (s.atk + 1) false)))

/-- O24. VPOP pops the sound head of a data queue into a vector register after 2 cycles, and VPUSH appends a register to one,
poppable after 2; VDWR sends a register out of a side, to arrive at the neighbour in the same die at the end of the next cycle, and
at an edge is discarded; VDRW pops the buffer of a side into a register after 2 cycles, and with F = 1 also forwards the word (01
R28; 07 R212 to R214). -/
def Obligations.QueueAndDrawbarWordsComplete : Prop :=
  ∀ (s : State) (w q : BitVec 3) (d a : BitVec 5) (side f : BitVec 1) (v : VWord) (rest : List VWord) (g : Nat) (p : Pipe),
    g = s.curPipe → p = s.me →
    ((Instr.vpop w d q).wellFormed = true → qHead (p.dqueue q.toNat) s.atk = some v → qBad (p.dqueue q.toNat) s.atk = false →
      exec (.vpop w d q) s = .next (s.setPipe g
        (((p.setDq q.toNat (p.dqueue q.toNat).tail).produce .x s.atk 2 (.vreg d.toNat v (-1)) 0).afterWord .x (s.atk + 1) false))) ∧
    ((Instr.vpush w a q).wellFormed = true → (p.dqueue q.toNat).length < 16 → s.timely [.v a.toNat] = true →
      exec (.vpush w a q) s = .next (s.setPipe g
        ((p.setDq q.toNat (p.dqueue q.toNat ++ [{ ready := s.atk + 2, val := p.vreg a.toNat, issue := s.atk }])).afterWord .x (s.atk + 1) false))) ∧
    ((if side = 0 then p.cyc.sentE else p.cyc.sentW) = false → s.timely [.v a.toNat] = true →
      ∃ t : State, exec (.vdwr w a side) s = .next t ∧ t.me.cyc.dets = p.cyc.dets ∧ t.me.regs = p.regs ∧
        (side = 0 → g % 8 ≠ 7 → (t.pipe (g + 1)).q.dbIn = (s.pipe (g + 1)).q.dbIn ++ [(s.atk + 1, false, p.vreg a.toNat)]) ∧
        (side = 1 → g % 8 ≠ 0 → (t.pipe (g - 1)).q.dbIn = (s.pipe (g - 1)).q.dbIn ++ [(s.atk + 1, true, p.vreg a.toNat)]) ∧
        ((side = 0 ∧ g % 8 = 7 ∨ side = 1 ∧ g % 8 = 0) → ∀ h, (t.pipe h).q.dbIn = (s.pipe h).q.dbIn)) ∧
    ((if side = 0 then p.q.east else p.q.west) = v :: rest → (if side = 0 then p.cyc.popE else p.cyc.popW) = 0 →
      p.drawbarBad (decide (side = 0)) = false →
      ∃ t : State, exec (.vdrw w d side f) s = .next t ∧ t.me.cyc.dets = p.cyc.dets ∧ t.me.regs = p.regs ∧
        (if side = 0 then t.me.q.east else t.me.q.west) = rest ∧
        t.me.fly.res = p.fly.res ++ [{ due := s.atk + 2, stream := 2, res := .vreg d.toNat v (-1), flags := 0, issue := s.atk }] ∧
        (f = 1 → side = 0 → g % 8 ≠ 0 → (t.pipe (g - 1)).q.dbIn = (s.pipe (g - 1)).q.dbIn ++ [(s.atk + 1, true, v)]) ∧
        (f = 1 → side = 1 → g % 8 ≠ 7 → (t.pipe (g + 1)).q.dbIn = (s.pipe (g + 1)).q.dbIn ++ [(s.atk + 1, false, v)]) ∧
        (f = 0 → ∀ h, h ≠ g → t.pipe h = s.pipe h))

/-- ACCRD takes a row of 48 cells into lanes 0 to 47 after 5 cycles, the other lanes being 0; ACCWR writes lanes 0 to 47 to a row
and ACCZ zeroes the 64 rows of a slot, readable from the next cycle, where no running nest writes the slot; ACCST appends the 48
converted cells to dq4 or dq5 (06 R184 to R187). -/
def Claims.AccumulatorWordsComplete : Prop :=
  ∀ (s : State) (w : BitVec 3) (d : BitVec 5) (row : BitVec 12) (n : BitVec 6) (q : BitVec 1) (f o : BitVec 3) (x : BitVec 1) (rm : RMode)
    (out : Nat → FRes),
    ((Instr.accrd w d row).wellFormed = true → (∀ b ∈ s.me.mx.badRows, b / 24 ≠ row.toNat) →
      exec (.accrd w d row) s = .next (s.setPipe s.curPipe
        ((s.me.produce .x s.atk 5 (.vreg d.toNat ((s.me.mx.acc.get row.toNat 0).setWidth 2048) (-1)) 0).afterWord .x (s.atk + 1) false))) ∧
    ((Instr.accwr w d row).wellFormed = true → s.me.mx.nest.owns (row.toNat / 64) = false → s.timely [.v d.toNat] = true →
      exec (.accwr w d row) s = .next (s.setPipe s.curPipe
        ((s.me.produce .x s.atk 1 (.acc [(row.toNat, (s.me.vreg d.toNat).setWidth 1536)]) 0).afterWord .x (s.atk + 1) false))) ∧
    ((Instr.accz w n).wellFormed = true → s.me.mx.nest.owns n.toNat = false →
      exec (.accz w n) s = .next (s.setPipe s.curPipe
        ((s.me.produce .x s.atk 1 (.acc ((List.range 64).map (fun i => (64 * n.toNat + i, 0)))) 0).afterWord .x (s.atk + 1) false))) ∧
    ((Instr.accst w q row f o x).wellFormed = true → s.me.mode o.toNat = some rm → (s.me.dqueue (4 + q.toNat)).length < 16 →
      (∀ b ∈ s.me.mx.badRows, b / 24 ≠ row.toNat) →
      out = (fun e => accCell f.toNat (decide (x = 1)) rm (if rm = .sr then s.me.draw 2 e else 0)
        ((s.me.mx.acc.get row.toNat 0).toNat / 2 ^ (32 * e) % 2 ^ 32)) →
      ∃ t : State, exec (.accst w q row f o x) s = .next t ∧ t.me.cyc.dets = s.me.cyc.dets ∧ t.me.regs = s.me.regs ∧ t.me.mx = s.me.mx ∧
        t.me.dqueue (4 + q.toNat) = s.me.dqueue (4 + q.toNat) ++
          [{ ready := s.atk + 6, val := vecPack (Fmt.ofVec f.toNat).bits 48 (fun e => (out e).bits), issue := s.atk }] ∧
        t.me.fly.res = s.me.fly.res ++
          [{ due := s.atk + 6, stream := 2, res := .flags, flags := flagsOf 48 (fun e => (out e).flags), issue := s.atk }])

/-- XBR pops bq and is taken if and only if the bit ^ N = 1; a legal XLOOP pops its count from qx and starts a loop of min(count,
max) iterations, or passes on where the count is 0; with an empty qx it is a TOKEN slip and the count is 0 (07 R221, R223). -/
def Claims.VectorControlCompletes : Prop :=
  ∀ (s : State) (w : BitVec 3) (n : BitVec 1) (off : BitVec 19) (l m : BitVec 9) (b : Bool) (v : Word),
    (qHead s.me.q.bq s.atk = some b → qBad s.me.q.bq s.atk = false →
      ((b != decide (n = 1)) = true → s.me.x.badTarget (branchTarget s.me.x.pc off) = false) →
      exec (.xbr w n off) s = .next (s.setPipe s.curPipe
        (if b != decide (n = 1)
         then ({ s.me with q := { s.me.q with bq := s.me.q.bq.tail } } : Pipe).jump .x s.atk (branchTarget s.me.x.pc off).toNat
         else ({ s.me with q := { s.me.q with bq := s.me.q.bq.tail } } : Pipe).afterWord .x (s.atk + 1) false))) ∧
    ((Instr.xloop w l m).wellFormed = true → s.me.x.badLoop l.toNat = false →
      (qHead s.me.q.qx s.atk = some v → qBad s.me.q.qx s.atk = false →
        ∃ t : State, exec (.xloop w l m) s = .next t ∧ t.me.cyc.dets = s.me.cyc.dets ∧ t.me.q.qx = s.me.q.qx.tail ∧
          t.me.x = s.me.x.enter s.atk (Nat.min v.toNat m.toNat) l.toNat m.toNat ∧ t.me.regs = s.me.regs) ∧
      (qHead s.me.q.qx s.atk = none →
        ∃ t : State, exec (.xloop w l m) s = .next t ∧ t.me.q.qx = s.me.q.qx ∧
          t.me.cyc.dets = s.me.cyc.dets ++ [{ cause := 3, stream := 2, pc := s.me.x.pc, detail := 25, info := 0 }] ∧
          t.me.x = s.me.x.enter s.atk 0 l.toNat m.toNat ∧ t.me.regs = s.me.regs))

/-- O25. The accumulator words and the branch and loop of X complete: all of Claims.AccumulatorWordsComplete,
Claims.VectorControlCompletes. -/
def Obligations.AccumulatorAndControlWords : Prop :=
  Claims.AccumulatorWordsComplete ∧ Claims.VectorControlCompletes

/-! ### Every timed word (03 R72; 00 R11) -/

/-- O26. No timed word touches the dynamic plane or the host side: physical memory, gigs, coaches, launches, translations,
partitions, portal and firmware stand as before; of its own pipeline no s, p, a, b, v, m or codebook register, control register,
tensor SRAM byte, coefficient, accumulator row or A latch changes as it issues, and of the other pipelines at most the drawbar
input of a neighbour (00 R11; 04 R104). -/
def Obligations.TimedWordsFrame : Prop :=
  ∀ (s t : State) (i : Instr), i.stream ≠ .gig → exec i s = .next t →
    (t.mem = s.mem ∧ t.bad = s.bad ∧ t.gigs = s.gigs ∧ t.coaches = s.coaches ∧ t.launches = s.launches ∧ t.nextLid = s.nextLid ∧
      t.kidWaits = s.kidWaits ∧ t.held = s.held ∧ t.tlb = s.tlb ∧ t.parts = s.parts ∧ t.portal = s.portal ∧ t.fw = s.fw ∧
      t.linkWords = s.linkWords ∧ t.notices = s.notices) ∧
    (t.me.regs.sr = s.me.regs.sr ∧ t.me.regs.pr = s.me.regs.pr ∧ t.me.regs.ar = s.me.regs.ar ∧ t.me.regs.br = s.me.regs.br ∧
      t.me.regs.vr = s.me.regs.vr ∧ t.me.regs.mr = s.me.regs.mr ∧ t.me.regs.cb = s.me.regs.cb ∧ t.me.csr = s.me.csr ∧
      t.me.mem.sram = s.me.mem.sram ∧ t.me.mem.coef = s.me.mem.coef ∧ t.me.mx.acc = s.me.mx.acc ∧ t.me.mx.latchA = s.me.mx.latchA) ∧
    (∀ g, g ≠ s.curPipe → { t.pipe g with q := { (t.pipe g).q with dbIn := [] } } = { s.pipe g with q := { (s.pipe g).q with dbIn := [] } })

/-! ### Gig integer instructions (08 R229 to R232) -/

/-- The destination, the operands and the result of an integer instruction, from the acting thread's registers (08 R229, R230;
03 R88). -/
def Claims.gigResult (s : State) (i : Instr) : Option (Nat × List Nat × Word) :=
  let v := fun (n : BitVec 5) => s.th.d n.toNat
  let two := fun (d a b : BitVec 5) (x : Word) => some (d.toNat, [a.toNat, b.toNat], x)
  let one := fun (d a : BitVec 5) (x : Word) => some (d.toNat, [a.toNat], x)
  let flag := fun (c : Bool) => if c then (1 : Word) else 0
  match i with
  | .gigAdd d a b => two d a b (v a + v b)
  | .gigSub d a b => two d a b (v a - v b)
  | .gigAnd d a b => two d a b (v a &&& v b)
  | .gigOr d a b => two d a b (v a ||| v b)
  | .gigXor d a b => two d a b (v a ^^^ v b)
  | .gigShl d a b => two d a b (v a <<< ((v b).toNat % 64))
  | .gigShr d a b => two d a b (v a >>> ((v b).toNat % 64))
  | .gigSra d a b => two d a b ((v a).sshiftRight ((v b).toNat % 64))
  | .gigMul d a b => two d a b (v a * v b)
  | .gigMulh d a b => two d a b (BitVec.ofInt 64 ((v a).toInt * (v b).toInt / 2 ^ 64))
  | .gigMulhu d a b => two d a b (BitVec.ofNat 64 ((v a).toNat * (v b).toNat / 2 ^ 64))
  | .gigDiv d a b => two d a b (if v b = 0 then -1 else BitVec.ofInt 64 ((v a).toInt.tdiv (v b).toInt))
  | .gigDivu d a b => two d a b (if v b = 0 then -1 else BitVec.ofNat 64 ((v a).toNat / (v b).toNat))
  | .gigRem d a b => two d a b (if v b = 0 then v a else BitVec.ofInt 64 ((v a).toInt.tmod (v b).toInt))
  | .gigRemu d a b => two d a b (if v b = 0 then v a else BitVec.ofNat 64 ((v a).toNat % (v b).toNat))
  | .gigSlt d a b => two d a b (flag (decide ((v a).toInt < (v b).toInt)))
  | .gigSltu d a b => two d a b (flag (decide ((v a).toNat < (v b).toNat)))
  | .gigMin d a b => two d a b (if (v a).toInt < (v b).toInt then v a else v b)
  | .gigMax d a b => two d a b (if (v a).toInt < (v b).toInt then v b else v a)
  | .gigMinu d a b => two d a b (if (v a).toNat < (v b).toNat then v a else v b)
  | .gigMaxu d a b => two d a b (if (v a).toNat < (v b).toNat then v b else v a)
  | .gigClz d a => one d a (leadingZeros (v a))
  | .gigCtz d a => one d a (BitVec.ofNat 64 (trailingZerosIn 64 (v a).toNat))
  | .gigPopc d a => one d a (BitVec.ofNat 64 (onesIn 64 (v a).toNat))
  | .gigAddi d a k => one d a (v a + k.signExtend 64)
  | .gigAndi d a k => one d a (v a &&& k.setWidth 64)
  | .gigOri d a k => one d a (v a ||| k.setWidth 64)
  | .gigXori d a k => one d a (v a ^^^ k.setWidth 64)
  | .gigShli d a k => one d a (v a <<< k.toNat)
  | .gigShri d a k => one d a (v a >>> k.toNat)
  | .gigSrai d a k => one d a ((v a).sshiftRight k.toNat)
  | .slti d a k => one d a (flag (decide ((v a).toInt < k.toInt)))
  | .sltiu d a k => one d a (flag (decide ((v a).toNat < (k.signExtend 64).toNat)))
  | .gigLui d k => some (d.toNat, [], (k ++ (0 : BitVec 16)).signExtend 64)
  | .wid d n => some (d.toNat, [], BitVec.ofNat 64 (widField (s.header (s.launchOn (coachOf s.curThread))) s.th.item n.toNat))
  | _ => none

/-- The gig cycles for which the result of an integer instruction is not yet at hand: 36 for the divisions, and else none that an
instruction can see (08 R225, R229). -/
def Claims.gigLatency (i : Instr) : Nat :=
  match i with
  | .gigDiv .. => 36
  | .gigDivu .. => 36
  | .gigRem .. => 36
  | .gigRemu .. => 36
  | _ => 0

/-- An integer instruction of a thread that may issue with its operands at hand, and WID, write their result to dd (a write to d0 is
discarded), that of a division to be read after 36 gig cycles, move the PC on by 4, and change nothing else of the thread but
what awaits dd: no other register, flag or trap register (08 R225, R229, R230, R252; 01 R33; 00 R11). -/
def Claims.GigIntegers : Prop :=
  ∀ (s : State) (i : Instr) (d : Nat) (srcs : List Nat) (v : Word), Claims.gigResult s i = some (d, srcs, v) →
    i.wellFormed = true → s.gigReady srcs false = true →
    ∃ t : State, exec i s = .next t ∧ t = s.onMe (fun th =>
        (if Claims.gigLatency i = 0 then th.setD d v
          else th.setLate d v (s.cycle (dieOf s.curThread)).toNat (Claims.gigLatency i) 0).next) ∧
      (∀ n, t.th.d n = if n = d ∧ n ≠ 0 then v else s.th.d n) ∧ t.th.pc = s.th.pc + 4 ∧ t.th.fflags = s.th.fflags ∧
      t.th.trap = s.th.trap ∧ t.th.level = s.th.level

/-- What changes the acting thread alone changes no other thread, no gig, no pipeline, no die, no partition, no byte of memory and
nothing of the host side (00 R11; 01 R33). -/
def Claims.ThreadChangeFrame : Prop :=
  ∀ (s : State) (f : Thread → Thread),
    (∀ t, t ≠ s.curThread → (s.onMe f).thread t = s.thread t) ∧ (s.onMe f).gigs = s.gigs ∧ (s.onMe f).pipes = s.pipes ∧
    (s.onMe f).dies = s.dies ∧ (s.onMe f).parts = s.parts ∧ (s.onMe f).launches = s.launches ∧ (s.onMe f).portal = s.portal ∧
    (s.onMe f).fw = s.fw ∧ (∀ a, (s.onMe f).mem.read a = s.mem.read a)

/-- O27. Gig integer instructions write their register and change nothing else: all of Claims.GigIntegers,
Claims.ThreadChangeFrame. -/
def Obligations.GigIntegerCompletes : Prop :=
  Claims.GigIntegers ∧ Claims.ThreadChangeFrame

/-- A taken or fallen-through branch: its target from its own address, whether it is taken, and its link register (08 R231;
03 R88). -/
def Claims.gigBranch (s : State) (i : Instr) : Option (List Nat × Bool × Word × Option Nat) :=
  let v := fun (n : BitVec 5) => s.th.d n.toNat
  let rel := fun (k : Word) => BitVec.ofNat 64 s.th.pc + 4 * k
  let two := fun (a b : BitVec 5) (k : BitVec 16) (c : Bool) => some ([a.toNat, b.toNat], c, rel (k.signExtend 64), none)
  match i with
  | .beq a b k => two a b k (decide (v a = v b))
  | .bne a b k => two a b k (decide (v a ≠ v b))
  | .blt a b k => two a b k (decide ((v a).toInt < (v b).toInt))
  | .bge a b k => two a b k (decide (¬ (v a).toInt < (v b).toInt))
  | .bltu a b k => two a b k (decide ((v a).toNat < (v b).toNat))
  | .bgeu a b k => two a b k (decide (¬ (v a).toNat < (v b).toNat))
  | .jal k => some ([], true, rel (k.signExtend 64), some 31)
  | .jalr d a k => some ([a.toNat], true, v a + k.signExtend 64, some d.toNat)
  | _ => none

/-- O28. A branch or jump that is not taken moves the PC on by 4; one that is taken to a multiple of 4 below 2^49 makes it the PC
and writes the address of the next instruction to its link register; one to a target at or above 2^49 traps ACCESS with SUB =
RANGE, and one to another target that is no multiple of 4 traps MISALIGN, both with the target in TVALUE and without a link (08
R231, R232). -/
def Obligations.GigBranchesComplete : Prop :=
  ∀ (s : State) (i : Instr) (srcs : List Nat) (taken : Bool) (target : Word) (link : Option Nat),
    Claims.gigBranch s i = some (srcs, taken, target, link) → i.wellFormed = true → s.gigReady srcs false = true →
    (taken = false → exec i s = .next (s.onMe Thread.next)) ∧
    (taken = true → target.toNat < 2 ^ 49 → target.toNat % 4 = 0 →
      ∃ t : State, exec i s = .next t ∧ t.th.pc = target.toNat ∧
        (∀ n, t.th.d n = if link = some n ∧ n ≠ 0 then BitVec.ofNat 64 (s.th.pc + 4) else s.th.d n) ∧
        t.th.fflags = s.th.fflags ∧ t.th.trap = s.th.trap ∧ t.th.level = s.th.level) ∧
    (taken = true → 2 ^ 49 ≤ target.toNat → exec i s = .next (s.trapMe 0x04 5 target)) ∧
    (taken = true → target.toNat < 2 ^ 49 → target.toNat % 4 ≠ 0 → exec i s = .next (s.trapMe 0x02 0 target))

/-! ### Gig memory (08 R233 to R240, R253 to R255, R258) -/

/-- A load, store or atomic: the registers that it reads, its class, address, size, operation, destination, and whether it is an
atomic (08 R233, R237; 19 R428). -/
structure Claims.AccessForm where
  srcs : List Nat
  cls : Nat
  va : Nat
  size : Nat
  op : AccOp
  dest : Option Nat
  amo : Bool

/-- The loads, stores and atomics of the gig plane. -/
def Claims.gigAccess (s : State) (i : Instr) : Option Claims.AccessForm :=
  let v := fun (n : BitVec 5) => s.th.d n.toNat
  let adr := fun (a : BitVec 5) (k : BitVec 9) (n : Nat) => (v a + k.signExtend 64 * BitVec.ofNat 64 n).toNat
  let ld := fun (d a : BitVec 5) (c : BitVec 4) (k : BitVec 9) (n : Nat) (sg : Bool) =>
    some ({ srcs := [a.toNat], cls := c.toNat, va := adr a k n, size := n, op := .load n sg, dest := some d.toNat, amo := false } : Claims.AccessForm)
  let st := fun (d a : BitVec 5) (c : BitVec 4) (k : BitVec 9) (n : Nat) =>
    some ({ srcs := [d.toNat, a.toNat], cls := c.toNat, va := adr a k n, size := n, op := .store n ((v d).toNat % 2 ^ (8 * n)),
            dest := none, amo := false } : Claims.AccessForm)
  let am := fun (d a b : BitVec 5) (w : BitVec 1) (c : BitVec 4) (o : Nat) (cas : Bool) =>
    some ({ srcs := [a.toNat, b.toNat] ++ (if cas then [d.toNat] else []), cls := c.toNat, va := (v a).toNat,
            size := if w = 1 then 8 else 4, op := .amo o (decide (w = 1)) (v b) (v d), dest := some d.toNat, amo := true } : Claims.AccessForm)
  match i with
  | .ldb d a c k => ld d a c k 1 true
  | .ldh d a c k => ld d a c k 2 true
  | .ldw d a c k => ld d a c k 4 true
  | .ldd d a c k => ld d a c k 8 false
  | .ldbu d a c k => ld d a c k 1 false
  | .ldhu d a c k => ld d a c k 2 false
  | .ldwu d a c k => ld d a c k 4 false
  | .stb d a c k => st d a c k 1
  | .sth d a c k => st d a c k 2
  | .stw d a c k => st d a c k 4
  | .std d a c k => st d a c k 8
  | .amoadd d a b w c => am d a b w c 0 false
  | .amoswap d a b w c => am d a b w c 1 false
  | .amocas d a b w c => am d a b w c 2 true
  | .amomin d a b w c => am d a b w c 3 false
  | .amomax d a b w c => am d a b w c 4 false
  | .amominu d a b w c => am d a b w c 5 false
  | .amomaxu d a b w c => am d a b w c 6 false
  | .amoand d a b w c => am d a b w c 7 false
  | .amoor d a b w c => am d a b w c 8 false
  | .amoxor d a b w c => am d a b w c 9 false
  | _ => none

/-- A load, store or atomic at a multiple of its size below the windows, or in the near window, becomes the youngest access in
flight, with its class, bytes and destination, and its thread goes on at the next instruction; no register, no scratchpad and no
byte of memory changes at the issue but for a stopped road book that is written out (08 R233, R234, R237; 01 R36, R37; 19 R429).
An earlier access that shares its destination keeps it until this one has performed (08 R226). -/
def Claims.GigAccessIssue : Prop :=
  ∀ (s : State) (i : Instr) (a : Claims.AccessForm), Claims.gigAccess s i = some a → i.wellFormed = true →
    s.gigReady a.srcs false = true → a.va % a.size = 0 →
    (a.va < 0x1FFFE00000000 → exec i s = .next
      ((if a.amo then s.noteGig s.curThread 4 s.th.pc a.va else s).onMe (fun th => th.push a.cls a.va a.op a.dest .paged))) ∧
    (0x1FFFFFFC00000 ≤ a.va → a.va < 2 ^ 49 →
      exec i s = .next ((s.noteGig s.curThread 4 s.th.pc a.va).onMe (fun th => th.push a.cls a.va a.op a.dest
        (.near (s.curThread / 32 * 8 + (a.va - 0x1FFFFFFC00000) / 2 ^ 19) ((a.va - 0x1FFFFFFC00000) % 2 ^ 19)))))

/-- The checks of an access come in this order: an address at or above 2^49 traps ACCESS with SUB = RANGE, then one that is no
multiple of the size traps MISALIGN, each with the address in TVALUE and the PC of the instruction in TPC; an atomic on the
tensor SRAM window traps ACCESS with SUB = UNSUP, also where the address has no byte, which is the model's order of the two checks
(log 73) (08 R234, R238; 01 R38). -/
def Claims.GigAccessChecks : Prop :=
  ∀ (s : State) (i : Instr) (a : Claims.AccessForm), Claims.gigAccess s i = some a → i.wellFormed = true →
    s.gigReady a.srcs false = true →
    (2 ^ 49 ≤ a.va → exec i s = .next (s.trapMe 0x04 5 (BitVec.ofNat 64 a.va))) ∧
    (a.va < 2 ^ 49 → a.va % a.size ≠ 0 → exec i s = .next (s.trapMe 0x02 0 (BitVec.ofNat 64 a.va))) ∧
    (a.amo = true → a.va % a.size = 0 → 0x1FFFE00000000 ≤ a.va → a.va < 0x1FFFF00000000 →
      exec i s = .next (s.trapMe 0x04 6 (BitVec.ofNat 64 a.va)))

/-- O29. Loads, stores and atomics enter flight, or trap in the order of their checks: all of Claims.GigAccessIssue,
Claims.GigAccessChecks. -/
def Obligations.GigAccessesIssue : Prop :=
  Claims.GigAccessIssue ∧ Claims.GigAccessChecks

/-- O30. An access to physical memory that nothing orders back, neither by class, byte or fence nor by a livery block, performs
there: a load from sound bytes writes them, extended as it says, to its destination and to no other register, and changes no
memory; a store whose host access does not fail writes its bytes and no other byte of memory; an atomic does both, with the old
value, sign-extended, for its register and the new value of its operation for memory. Each is then no longer outstanding (08
R233, R235, R237; 12 R331 to R333; 17 R389). -/
def Obligations.PhysicalAccessesPerform : Prop :=
  ∀ (s : State) (t j pa : Nat) (a : Access), s.access t j = some a → a.target = .phys pa → (s.thread t).mayPerform t a = true →
    s.blocksClear t a = true →
    (∀ (n : Nat) (sg : Bool) (v : Word), a.op = .load n sg → s.damaged pa n = false →
      v = (if sg then BitVec.ofInt 64 (signedOf (8 * n) (s.mem.readLE pa n)) else BitVec.ofNat 64 (s.mem.readLE pa n)) →
      ∃ u : State, exec (.accessReachesTarget t j) s = .next u ∧
        (∀ k, (u.thread t).d k = if a.dest = some k ∧ k ≠ 0 then v else (s.thread t).d k) ∧
        u.mem = s.mem ∧ u.gigs = s.gigs ∧ u.pipes = s.pipes ∧ u.access t j = none) ∧
    (∀ n v : Nat, a.op = .store n v → s.hostStoreFails (.phys pa) n = false →
      ∃ u : State, exec (.accessReachesTarget t j) s = .next u ∧ u.mem.readLE pa n = v % 256 ^ n ∧
        (∀ b, b < pa ∨ pa + n ≤ b → u.mem.read b = s.mem.read b) ∧ u.gigs = s.gigs ∧ u.pipes = s.pipes ∧
        u.access t j = none) ∧
    (∀ (o : Nat) (w : Bool) (v c : Word) (n : Nat), a.op = .amo o w v c → n = (if w then 8 else 4) → s.damaged pa n = false →
      ∃ u : State, exec (.accessReachesTarget t j) s = .next u ∧
        u.mem.readLE pa n = amoNew o (8 * n) (s.mem.readLE pa n) v.toNat c.toNat % 256 ^ n ∧
        (∀ b, b < pa ∨ pa + n ≤ b → u.mem.read b = s.mem.read b) ∧
        u = (s.writePhys pa (toBytes n (amoNew o (8 * n) (s.mem.readLE pa n) v.toNat c.toNat))).onThread t (fun th =>
          th.complete a (BitVec.ofInt 64 (signedOf (8 * n) (s.mem.readLE pa n)))))

/-- The `n` bytes at the virtual address `va`, a multiple of 8, lie within the scratchpad of the gig of thread `t` (01 R37; 08
R238). -/
abbrev Claims.ownBytes (t n va : Nat) : Prop :=
  va % 8 = 0 ∧ 0x1FFFFFFC00000 ≤ va ∧ va < 2 ^ 49 ∧ (va - 0x1FFFFFFC00000) / 2 ^ 19 = gigOf t % 8 ∧
    (va - 0x1FFFFFFC00000) % 2 ^ 19 + n ≤ 2 ^ 19

/-- The instructions that become accesses of a unit beyond the gig, with their operands, class, address, operation, destination
and target (08 R253 to R255; 12 R338; 18 R401). -/
def Claims.unitAccess (s : State) (i : Instr) : Option (List Nat × Nat × Nat × AccOp × Option Nat × Target) :=
  let v := fun (n : BitVec 5) => s.th.d n.toNat
  let home := fun (a : BitVec 5) => Target.livery ((v a).toNat % 8)
  let own := fun (va : Nat) => Target.near (gigOf s.curThread) ((va - 0x1FFFFFFC00000) % 2 ^ 19)
  match i with
  | .balloc d a n => some ([a.toNat], 15, (v a).toNat, .livery 0 (v a) 0 (decide (n = 1)), some d.toNat, home a)
  | .bfree a b => some ([a.toNat, b.toNat], 15, (v a).toNat, .livery 1 (v a) (v b) false, none, home a)
  | .bfork d a b n => some ([a.toNat, b.toNat], 15, (v a).toNat, .livery 2 (v a) (v b) (decide (n = 1)), some d.toNat, home a)
  | .bmap d a b => some ([a.toNat, b.toNat], 15, (v a).toNat, .livery 3 (v a) (v b) false, some d.toNat, home a)
  | .bappend d a b n => some ([a.toNat, b.toNat], 15, (v a).toNat, .livery 4 (v a) (v b) (decide (n = 1)), some d.toNat, home a)
  | .cntadd a b => if (v a).toNat ≤ 255 then some ([a.toNat, b.toNat], 14, 0, .cntadd (v a).toNat (v b), none, .counters) else none
  | .cntsnap a b n =>
    if (v a).toNat + n.toNat + 1 ≤ 256 ∧ Claims.ownBytes s.curThread (8 * (n.toNat + 1)) (v b).toNat
    then some ([a.toNat, b.toNat], 14, (v b).toNat, .cntsnap (v a).toNat (n.toNat + 1), none, own (v b).toNat) else none
  | .hsift d a b k =>
    if Claims.ownBytes s.curThread (8 * k.toNat) (v a).toNat
    then some ([a.toNat, b.toNat], 14, (v a).toNat, .hsift k.toNat (v b), some d.toNat, own (v a).toNat) else none
  | _ => none

/-- O31. The livery, counter and heap instructions with operands in range, and POST to a die of the partition, become accesses of
their unit in flight, of class 15 and 14 and of no class, and their thread goes on; a FENCE stands behind what is in flight (08
R240, R253 to R255, R258; 12 R334). -/
def Obligations.UnitAccessesIssue : Prop :=
  ∀ (s : State) (d a b : BitVec 5) (slot : BitVec 6) (sc : BitVec 5) (m : BitVec 16),
    (∀ (i : Instr) (srcs : List Nat) (cls va : Nat) (op : AccOp) (dest : Option Nat) (k : Target),
      Claims.unitAccess s i = some (srcs, cls, va, op, dest, k) → i.wellFormed = true → s.gigReady srcs false = true →
      exec i s = .next (s.onMe (fun th => th.push cls va op dest k))) ∧
    (∀ v : Word, v = s.th.d a.toNat → s.gigReady [a.toNat, b.toNat] false = true → bitsOf v 63 12 = 0 → bitsOf v 7 6 = 0 →
      (s.part (s.partOfThread s.curThread)).hasDie (bitsOf v 11 8) = true →
      exec (.post d a b slot) s = .next (s.onMe (fun th => th.push (16 + th.nextId) 0
        (.post (bitsOf v 11 8) (bitsOf v 5 0) slot.toNat (s.th.d b.toNat)) (some d.toNat) .plane))) ∧
    ((Instr.fence sc m).wellFormed = true → s.gigReady [] false = true →
      ∃ t : State, exec (.fence sc m) s = .next t ∧ t.th.pc = s.th.pc + 4 ∧ t.th.regs = s.th.regs ∧
        t.th.pend = (if s.th.pend = [] then [] else s.th.pend ++ [.fence sc.toNat m]))

/-! ### Gig floating point (08 R241 to R244; 02) -/

/-- A floating-point instruction: its operands, its mode field (none: it does not round), its destination, the gig cycles that its
result takes (08 Table 8-1), and its result word and flags under a mode. -/
structure Claims.Fpu where
  srcs : List Nat
  mode : Option (BitVec 3)
  d : Nat
  lat : Nat
  res : RMode → Word × FlagSet

/-- The floating-point instructions (08 Table 8-7, R242 to R244). -/
def Claims.fpuResult (s : State) (i : Instr) : Option Claims.Fpu :=
  let bits := fun (fm : Fmt) (n : BitVec 5) => (s.th.d n.toNat).toNat % 2 ^ fm.bits
  let two := fun (d a b : BitVec 5) (f r : BitVec 3) (lat : Nat) (op : XVal → XVal → Bool → XRes × FlagSet) =>
    let fm : Fmt := if f = 3 then .fp64 else .fp32
    some ({ srcs := [a.toNat, b.toNat], mode := some r, d := d.toNat, lat := lat,
            res := fun rm =>
              let z := op (fm.decode (bits fm a)) (fm.decode (bits fm b)) (decide (rm = .rdn))
              let q := roundX z.1.val fm rm 0
              (BitVec.ofNat 64 q.bits, q.flags ||| z.2 ||| snanFlag fm (bits fm a) ||| snanFlag fm (bits fm b) ||| flagIf z.1.nv flagNV) } : Claims.Fpu)
  let plain := fun (d a b : BitVec 5) (f : BitVec 3) (op : Fmt → Nat → Nat → FRes) =>
    let fm : Fmt := if f = 3 then .fp64 else .fp32
    some ({ srcs := [a.toNat, b.toNat], mode := none, d := d.toNat, lat := if f = 3 then 8 else 4,
            res := fun _ => (BitVec.ofNat 64 (op fm (bits fm a) (bits fm b)).bits, (op fm (bits fm a) (bits fm b)).flags) } : Claims.Fpu)
  let fused := fun (d a b c : BitVec 5) (f : BitVec 1) (r : BitVec 3) (np nc : Bool) =>
    let fm : Fmt := if f = 1 then .fp64 else .fp32
    some ({ srcs := [a.toNat, b.toNat, c.toNat], mode := some r, d := d.toNat, lat := if f = 1 then 8 else 4,
            res := fun rm =>
              let p := xmul (fm.decode (bits fm a)) (fm.decode (bits fm b))
              let z := fm.decode (bits fm c)
              let y := xadd (if np then p.val.negate else p.val) (if nc then z.negate else z) (decide (rm = .rdn))
              let q := roundX y.val fm rm 0
              (BitVec.ofNat 64 q.bits, q.flags ||| snanFlag fm (bits fm a) ||| snanFlag fm (bits fm b) ||| snanFlag fm (bits fm c) |||
                flagIf (p.nv || y.nv) flagNV) } : Claims.Fpu)
  match i with
  | .fadd d a b f r => two d a b f r (if f = 3 then 8 else 4) (fun x y dn => (xadd x y dn, 0))
  | .fsub d a b f r => two d a b f r (if f = 3 then 8 else 4) (fun x y dn => (xadd x y.negate dn, 0))
  | .fmul d a b f r => two d a b f r (if f = 3 then 8 else 4) (fun x y _ => (xmul x y, 0))
  | .fdiv d a b f r => two d a b f r (if f = 3 then 40 else 20) (fun x y _ => (xdiv x y, flagIf (divByZero x y) flagDZ))
  | .fsqrt d a f r =>
    let fm : Fmt := if f = 3 then .fp64 else .fp32
    some { srcs := [a.toNat], mode := some r, d := d.toNat, lat := if f = 3 then 40 else 20,
           res := fun rm =>
             let z := xsqrt (fm.decode (bits fm a))
             let q := roundX z.val fm rm 0
             (BitVec.ofNat 64 q.bits, q.flags ||| snanFlag fm (bits fm a) ||| flagIf z.nv flagNV) }
  | .fmin d a b f => plain d a b f (fun fm => fmtMinMax fm false)
  | .fmax d a b f => plain d a b f (fun fm => fmtMinMax fm true)
  | .feq d a b f => plain d a b f (fpuCompare true xeq)
  | .flt d a b f => plain d a b f (fpuCompare false xlt)
  | .fle d a b f => plain d a b f (fpuCompare false (fun x y => !(xlt y x)))
  | .fcvt d a g f r =>
    some { srcs := [a.toNat], mode := some r, d := d.toNat, lat := if f = 3 ∨ g = 3 then 8 else 4,
           res := fun rm =>
             let x := cvtValue g.toNat (s.th.d a.toNat)
             ((cvtResult f.toNat x.1 rm).1, (cvtResult f.toNat x.1 rm).2 ||| x.2) }
  | .fexp2 d a =>
    some { srcs := [a.toNat], mode := none, d := d.toNat, lat := 16,
           res := fun _ =>
             let r := roundX (xexp2 (Fmt.fp32.decode (bits .fp32 a))) .fp32 .rne 0
             (BitVec.ofNat 64 r.bits, r.flags ||| snanFlag .fp32 (bits .fp32 a)) }
  | .fma d a b c f r => fused d a b c f r false false
  | .fms d a b c f r => fused d a b c f r false true
  | .fnma d a b c f r => fused d a b c f r true false
  | _ => none

/-- O32. A floating-point instruction under a mode that the gig plane has writes its result to dd, to be read after the cycles that
it takes, when its flags enter FFLAGS, which they do not before, and moves the PC on by 4; under mode 5, 6 or a DYN that reads
such an FRM it traps ILL with its word, writing nothing (08 R225, R241 to R244; 02 R49, R50, R53). -/
def Obligations.FloatingPointCompletes : Prop :=
  ∀ (s : State) (i : Instr) (a : Claims.Fpu), Claims.fpuResult s i = some a → i.wellFormed = true → s.gigReady a.srcs false = true →
    (∀ rm : RMode, (∀ r : BitVec 3, a.mode = some r → s.th.mode r = some rm) →
      ∃ t : State, exec i s = .next t ∧ (∀ n, t.th.d n = if n = a.d ∧ n ≠ 0 then (a.res rm).1 else s.th.d n) ∧
        t.th.late = s.th.late ++
          [{ dest := a.d, due := (s.cycle (dieOf s.curThread)).toNat + a.lat, flags := ((a.res rm).2).setWidth 5 }] ∧
        t.th.fflags = s.th.fflags ∧ t.th.allFlags = s.th.allFlags ||| ((a.res rm).2).setWidth 5 ∧
        t.th.pc = s.th.pc + 4 ∧ t.th.frm = s.th.frm ∧ t.th.trap = s.th.trap) ∧
    (∀ r : BitVec 3, a.mode = some r → 5 ≤ (if r = 7 then s.th.frm.toNat else r.toNat) →
      exec i s = .next (s.trapMe 0x01 0 (((encode i).getD 0).setWidth 64)))

/-! ### Barriers, events and messages (08 R246 to R250) -/

/-- ARRIVE at a used barrier, chained or not, never waits: its thread goes on, and its arrival stands among those of its context
until the gig cycle ends; no barrier, no register and nothing else changes before. At a barrier whose expected count is 0 it
traps ACCESS with SUB = WINDOW (08 R246; 11 R317). -/
def Claims.ArriveCompletes : Prop :=
  ∀ (s : State) (d : BitVec 5) (n : BitVec 4) (x : Nat) (b : Barrier), s.slotOf s.curThread = some x →
    b = (s.ctx (coachOf s.curThread) x).bars.get n.toNat {} → (Instr.arrive d n).wellFormed = true →
    s.gigReady [] true = true →
    (b.expect = 0 → exec (.arrive d n) s = .next (s.trapMe 0x04 4 (n.setWidth 64))) ∧
    (b.expect ≠ 0 → exec (.arrive d n) s = .next ((s.onMe Thread.next).onCtx (coachOf s.curThread) x (fun k =>
      { k with arrivals := k.arrivals ++ [{ bar := n.toNat, who := .thread (localOf s.curThread) d.toNat }] })))

/-- When the gig cycle ends, the arrival of thread `l` of context `x` at barrier `n` takes effect: register d gets the token, which
is the phase, or, while the barrier waits for the release of its parent, the phase that its place among the held arrivals comes
to; a waiting barrier holds the arrival; else the count grows, and the arrival that brings it to the expected one moves an
unchained barrier's phase on, returns its count to 0 and releases each thread that waits for that phase with the new one, while
a chained barrier sends its child arrival and waits. No other barrier changes (08 R246; 11 R317 to R319). -/
def Claims.ArrivalsApply : Prop :=
  ∀ (s u : State) (c x n l d : Nat) (k k' : Context) (b : Barrier), k = s.ctx c x → b = k.bars.get n {} →
    (k.threads.get l {}).wait = .none → u = s.applyArrival c x { bar := n, who := .thread l d } → k' = u.ctx c x →
    (k'.threads.get l {}).d d = (if d = 0 then 0 else BitVec.ofNat 64
      (if b.sent then (b.phase.toNat + 1 + b.held / b.expect) % 65536 else b.phase.toNat)) ∧
    (∀ m, m ≠ n → k'.bars.get m {} = k.bars.get m {}) ∧
    (b.sent = true → k'.bars.get n {} = { b with held := b.held + 1 }) ∧
    (b.sent = false → b.count + 1 ≠ b.expect → k'.bars.get n {} = { b with count := b.count + 1 }) ∧
    (b.sent = false → b.count + 1 = b.expect → b.linked = false →
      k'.bars.get n {} = { b with phase := b.phase + 1, count := 0 } ∧
      (∀ (m e : Nat), m ≠ l → (k.threads.get m {}).wait = .barrier n b.phase.toNat e →
        (k'.threads.get m {}).wait = .none ∧ (e ≠ 0 → (k'.threads.get m {}).d e = (b.phase + 1).setWidth 64))) ∧
    (b.sent = false → b.count + 1 = b.expect → b.linked = true →
      k'.bars.get n {} = { b with count := b.count + 1, sent := true } ∧
      u.evs = s.evs ++ [{ kind := .childArrival, coach := b.lcoach, line := b.lbar, lid := k.lid, src := c, srcBar := n }])

/-- WAITP of a token from another phase returns at once with the phase, the distance and the status; of the current phase it waits,
with the CYCLE up to which it does where db is not 0 (08 R247). -/
def Claims.WaitpCompletes : Prop :=
  ∀ (s : State) (d a b : BitVec 5) (n : BitVec 4) (x ph tok dist : Nat), s.slotOf s.curThread = some x →
    ph = ((s.ctx (coachOf s.curThread) x).bars.get n.toNat {}).phase.toNat → tok = (s.th.d a.toNat).toNat % 65536 →
    dist = (ph + 65536 - tok) % 65536 → (Instr.waitp d a b n).wellFormed = true →
    s.gigReady [a.toNat, b.toNat] false = true → s.th.fenced s.curThread = false →
    (dist ≠ 0 → exec (.waitp d a b n) s = .next (s.onMe (fun th => (th.setD d.toNat (BitVec.ofNat 64
      (if 32768 ≤ dist then ph * 65536 + 3
        else if dist = 1 then ph * 65536 + 256
        else ph * 65536 + Nat.min dist 255 * 256 + 1))).next))) ∧
    (dist = 0 → exec (.waitp d a b n) s = .next (s.onMe (fun th => { th.next with
      wait := .phase n.toNat tok d.toNat
        (if s.th.d b.toNat = 0 then none
          else some ((s.die (dieOf s.curThread)).gigCycle.toNat + (s.th.d b.toNat).toNat)) })))

/-- EVSIG sets a line of the own coach: the lowest-numbered thread that waits on it is released with 0 in its register, and else the
line stays set, merging with a signal that it holds. EVMSG to a coach of the partition sends the line off, and to any other
coach traps ACCESS with SUB = RANGE (08 R248). -/
def Claims.EventWordsComplete : Prop :=
  ∀ (s : State) (a n : BitVec 5) (x : Nat) (k : Context), s.slotOf s.curThread = some x → k = s.ctx (coachOf s.curThread) x →
    (Instr.evsig n).wellFormed = true →
    (s.gigReady [] true = true → k.threads.all (fun e => match e.2.wait with
        | .line m _ => !(decide (m = n.toNat))
        | _ => true) = true →
      exec (.evsig n) s = .next ((s.onMe Thread.next).onCtx (coachOf s.curThread) x (fun k =>
        { k with lines := k.lines ||| BitVec.ofNat 32 (2 ^ n.toNat) }))) ∧
    (∀ (l e : Nat) (th : Thread) (pre post : List (Nat × Thread)), s.gigReady [] true = true → k.threads = pre ++ (l, th) :: post →
      SMap.wf k.threads = true → th.wait = .line n.toNat e → pre.all (fun e => match e.2.wait with
        | .line m _ => !(decide (m = n.toNat))
        | _ => true) = true →
      ∃ t : State, exec (.evsig n) s = .next t ∧ t.th.pc = s.th.pc + 4 ∧
        ((t.ctx (coachOf s.curThread) x).threads.get l {}).wait = .none ∧
        (e ≠ 0 → ((t.ctx (coachOf s.curThread) x).threads.get l {}).d e = 0) ∧
        (∀ m, m ≠ l → m ≠ localOf s.curThread → (t.ctx (coachOf s.curThread) x).threads.get m {} = k.threads.get m {}) ∧
        (t.ctx (coachOf s.curThread) x).lines = k.lines ∧ t.mem = s.mem ∧ t.gigs = s.gigs) ∧
    (s.gigReady [a.toNat] true = true →
      ((s.th.d a.toNat).toNat < 128 →
        (s.part (s.partOfThread s.curThread)).hasDie ((s.th.d a.toNat).toNat / 8) = true →
        ∃ t : State, exec (.evmsg a n) s = .next t ∧
          t = { s.onMe Thread.next with evs := (s.onMe Thread.next).evs ++
            [{ kind := .evmsg, coach := (s.th.d a.toNat).toNat, line := n.toNat, lid := k.lid, src := coachOf s.curThread,
               srcBar := 0 }] }) ∧
      ((s.part (s.partOfThread s.curThread)).hasDie ((s.th.d a.toNat).toNat / 8) = false →
        exec (.evmsg a n) s = .next (s.trapMe 0x04 5 (s.th.d a.toNat))))

/-- O33. ARRIVE, WAITP, EVSIG and EVMSG complete: all of Claims.ArriveCompletes, Claims.ArrivalsApply, Claims.WaitpCompletes,
Claims.EventWordsComplete. -/
def Obligations.SynchronisationCompletes : Prop :=
  Claims.ArriveCompletes ∧ Claims.ArrivalsApply ∧ Claims.WaitpCompletes ∧ Claims.EventWordsComplete

/-- O34. SEND of 64 sound bytes of the own scratchpad to a thread with room, for which no SEND of a thread that runs is held, delivers
them and goes on; to one without room, or for which such a SEND is held, it holds its thread, in its place among the held SENDs;
either enters its gig's road book. RECV takes the oldest message, writes its 64 bytes to the own scratchpad, and gives the
sender's number, and what is held then has its turn; a damaged message traps ACCESS with SUB = ECC and stays, which is the
model's reading (log 91); RECV.NB with none gives all ones and leaves the scratchpad alone, and RECV with none waits (08 R249,
R250; 19 R428; 23 R463). -/
def Obligations.MessagesComplete : Prop :=
  ∀ (s : State) (d a b : BitVec 5) (o : Nat),
    (ownOffset s.curThread 64 64 (s.th.d b.toNat).toNat = .ok o → (Instr.gigSend a b).wellFormed = true →
      s.gigReady [a.toNat, b.toNat] true = true → (s.th.d a.toNat).toNat < 4096 →
      (s.part (s.partOfThread s.curThread)).hasDie ((s.th.d a.toNat).toNat / 256) = true →
      s.ownBad o 64 = false →
      (s.roomFor (s.th.d a.toNat).toNat = true → (∀ e ∈ s.held, e.dst = (s.th.d a.toNat).toNat → s.sends e = false) →
        exec (.gigSend a b) s = .next (((s.noteGig s.curThread 4 s.th.pc (s.th.d b.toNat).toNat).deliver (s.th.d a.toNat).toNat
          { src := s.curThread, body := (s.gig (gigOf s.curThread)).sp.readBytes o 64 }).onMe Thread.next)) ∧
      ((s.homeOf (s.th.d a.toNat).toNat).isSome = true →
        (s.roomFor (s.th.d a.toNat).toNat = false ∨ ∃ e ∈ s.held, e.dst = (s.th.d a.toNat).toNat ∧ s.sends e = true) →
        ∃ t : State, exec (.gigSend a b) s = .next t ∧ t.th.pc = s.th.pc ∧
          t.th.wait = .send (s.th.d a.toNat).toNat ((s.gig (gigOf s.curThread)).sp.readBytes o 64) ∧
          t.held = putHeld { src := s.curThread, lid := s.launchOn (coachOf s.curThread), dst := (s.th.d a.toNat).toNat,
                             cycle := s.cycle (dieOf s.curThread) } s.held ∧
          (∀ m, m ≠ s.curThread → t.thread m = s.thread m))) ∧
    (∀ (nb : BitVec 1) (m : Msg) (rest : List Msg), ownOffset s.curThread 64 64 (s.th.d a.toNat).toNat = .ok o →
      s.gigReady [a.toNat] false = true → s.th.fenced s.curThread = false → (Instr.recv d a nb).wellFormed = true →
      (s.th.inbox = m :: rest → m.bad = true →
        ∃ t : State, exec (.recv d a nb) s = .next t ∧ (s.th.trap.inh = false → (s.slotOf s.curThread).isSome = true →
          t.th.trap.tcause = 0x04 ∧ t.th.trap.sub = 1 ∧ t.th.inbox = s.th.inbox ∧ t.gigs = s.gigs)) ∧
      (s.th.inbox = m :: rest → m.bad = false →
        ∃ t : State, exec (.recv d a nb) s = .next t ∧
          t = ((s.spWrite (gigOf s.curThread) o m.body).onMe (fun th =>
            ({ th with inbox := rest }.setD d.toNat (BitVec.ofNat 64 m.src)).next)).acceptHeld ∧
          (s.held = [] → (t.gig (gigOf s.curThread)).sp = (s.gig (gigOf s.curThread)).sp.writeBytes o m.body ∧
            t.th.inbox = rest ∧ (∀ n, t.th.d n = if n = d.toNat ∧ n ≠ 0 then BitVec.ofNat 64 m.src else s.th.d n))) ∧
      (s.th.inbox = [] → nb = 1 → exec (.recv d a nb) s = .next (s.onMe (fun th => (th.setD d.toNat (-1)).next))) ∧
      (s.th.inbox = [] → nb = 0 → exec (.recv d a nb) s = .next (s.onMe (fun th => { th.next with wait := .recv o d.toNat }))))

/-! ### Launches, cards and the timed plane (08 R251, R256 to R259) -/

/-- SPAWN of a readable, valid header with valid event records makes a launch and returns its number: of status 0 where its die's
pool takes it, of status 1 where the spill queue does; with neither there is no launch and the status is 2. `u` is the state after
its header has been read (08 R251; 11 R313, R314). -/
def Claims.SpawnCompletes : Prop :=
  ∀ (s u : State) (d a : BitVec 5) (p : BitVec 1) (bs es : List Byte) (h : List Word) (k : Nat),
    k = s.partOfThread s.curThread → (Instr.spawn d a p).wellFormed = true → s.gigReady [a.toNat] true = true →
    s.headerBytes (s.th.d a.toNat).toNat = (.ok bs, u) → h = wordsOf bs → headerOk (s.part k) h = true →
    u.pagedBytes k (hEvinit h) (64 * hNcoach h) = .ok es → evinitOk (evinitOf (hFcoach h) es) (hFcoach h) (hNcoach h) = true →
    ((s.die (dieOf s.curThread)).pool.length < (if p = 1 then 256 else 224) →
      ∃ t : State, exec (.spawn d a p) s = .next t ∧ t.nextLid = s.nextLid + 1 ∧ (t.launch s.nextLid).isSome = true ∧
        (t.die (dieOf s.curThread)).pool = (s.die (dieOf s.curThread)).pool ++ [s.nextLid] ∧ t.th.pc = s.th.pc + 4 ∧
        (d ≠ 0 → t.th.d d.toNat = BitVec.ofNat 64 (s.nextLid % 2 ^ 32)) ∧ t.mem = s.mem) ∧
    ((if p = 1 then 256 else 224) ≤ (s.die (dieOf s.curThread)).pool.length →
      (s.die (dieOf s.curThread)).spill.length < (s.part k).sqcap →
      ∃ t : State, exec (.spawn d a p) s = .next t ∧ t.nextLid = s.nextLid + 1 ∧
        (t.die (dieOf s.curThread)).spill = (s.die (dieOf s.curThread)).spill ++ [s.nextLid] ∧
        (d ≠ 0 → t.th.d d.toNat = BitVec.ofNat 64 (2 ^ 62 + s.nextLid % 2 ^ 32))) ∧
    ((if p = 1 then 256 else 224) ≤ (s.die (dieOf s.curThread)).pool.length →
      (s.part k).sqcap ≤ (s.die (dieOf s.curThread)).spill.length →
      ∃ t : State, exec (.spawn d a p) s = .next t ∧ t.nextLid = s.nextLid ∧ t.launches = s.launches ∧
        (d ≠ 0 → (t.th.d d.toNat).toNat / 2 ^ 62 = 2))

/-- WBILL of a well-formed card with room for it enters it waiting, with an edge from each card of its launch whose footprint it
meets and with a grant of its thread where it is large, and gives 0, but in a DET launch traps OVERLAP with the number of the
first card of another thread that it meets and that no path of predecessors joins to it; with 32 waiting cards it gives 1; a
malformed card traps ILL. WBSTAT gives the state and cause of the latest card with the number in da, or 0 (08 R256, R257; 11
R323 to R328). That 32 waiting cards fill the queue and running ones do not count, that TVALUE names the first submitted of
several, and that WBSTAT answers for the latest card of a number are the model's reading (log 83). -/
def Claims.CardsComplete : Prop :=
  ∀ (s : State) (d a : BitVec 5) (o x c : Nat) (k : Context) (w : List Word) (cs : List Card),
    c = coachOf s.curThread → s.slotOf s.curThread = some x → k = s.ctx c x →
    w = wordsOf ((s.gig (gigOf s.curThread)).sp.readBytes o 64) → cs = s.engineCards c k.lid →
    (ownOffset s.curThread 64 64 (s.th.d a.toNat).toNat = .ok o → (Instr.wbill d a).wellFormed = true →
      s.gigReady [a.toNat] true = true → s.ownBad o 64 = false →
      (cardBad (fun n => decide ((k.bars.get n {}).expect ≠ 0)) w = true →
        exec (.wbill d a) s = .next (s.trapMe 0x01 0 (s.th.d a.toNat))) ∧
      (cardBad (fun n => decide ((k.bars.get n {}).expect ≠ 0)) w = false →
        32 ≤ (cs.filter (fun e => decide (e.state = .waiting))).length →
        exec (.wbill d a) s = .next (s.onMe (fun th => (th.setD d.toNat 1).next))) ∧
      (cardBad (fun n => decide ((k.bars.get n {}).expect ≠ 0)) w = false →
        (cs.filter (fun e => decide (e.state = .waiting))).length < 32 →
        ∀ (free : List Card) (grant : Option Held),
          free = (cs.filter (fun e => cardEdge e.words w)).filter (fun e => decide (e.thread ≠ localOf s.curThread) &&
            !(predReach cs (cs.length + 1) (wPreds w) (wSeq e.words)) &&
            !(predReach cs (cs.length + 1) (wPreds e.words) (wSeq w))) →
          grant = (if 0x400000 ≤ wSize w then s.th.grantFor (s.cycle (dieOf s.curThread)) (wSize w) else none) →
          ((hDet (s.header k.lid) = false ∨ free = []) →
            exec (.wbill d a) s = .next ((s.onCoach c (fun q => { q with
              cards := q.cards ++ [{ num := q.nextCard, lid := k.lid, thread := localOf s.curThread, level := s.th.level, words := w,
                                     state := .waiting, granted := grant.isSome, retry := 0, rows := [], cause := 0,
                                     edges := (cs.filter (fun e => cardEdge e.words w)).map (fun e => e.num) }],
              nextCard := q.nextCard + 1 })).onMe (fun th =>
                (({ th with grants := match grant with
                            | none => th.grants
                            | some g => th.grants.erase g } : Thread).setD d.toNat 0).next))) ∧
          (∀ (e : Card) (es : List Card), hDet (s.header k.lid) = true → free = e :: es →
            exec (.wbill d a) s = .next (s.trapMe 0x07 0 (BitVec.ofNat 64 (wSeq e.words)))))) ∧
    ((Instr.wbstat d a).wellFormed = true → s.gigReady [a.toNat] false = true →
      (∀ e : Card, ((s.coach c).cards.filter (fun e => decide (e.lid = k.lid) &&
            decide (wSeq e.words = (s.th.d a.toNat).toNat))).getLast? = some e →
        exec (.wbstat d a) s = .next (s.onMe (fun th => (th.setD d.toNat (BitVec.ofNat 64 (e.cause * 256 + e.state.code))).next))) ∧
      ((∀ e ∈ (s.coach c).cards, e.lid = k.lid → wSeq e.words ≠ (s.th.d a.toNat).toNat) →
        exec (.wbstat d a) s = .next (s.onMe (fun th => (th.setD d.toNat 0).next))))

/-- O35. SPAWN, WBILL and WBSTAT complete: all of Claims.SpawnCompletes, Claims.CardsComplete. -/
def Obligations.LaunchesAndCardsComplete : Prop :=
  Claims.SpawnCompletes ∧ Claims.CardsComplete

/-- O36. On the coach that supervises a running, frozen or restarting timed launch, at level 1, TFREEZE and TRESUME go on their way
to the timed plane, and TFRAME gives the frame of a pipeline of a frozen launch, all ones otherwise (08 R259; 19 R408, R414). -/
def Obligations.SupervisorWordsComplete : Prop :=
  ∀ (s : State) (d a : BitVec 5) (g : BitVec 1) (x : Partition), x = s.part (s.partOfThread s.curThread) → s.th.level = true →
    (x.run.phase = .running ∨ x.run.phase = .frozen ∨ x.run.phase = .restarting) →
    bitsOf (wordAt x.run.header 0) 23 17 = coachOf s.curThread →
    ((Instr.tfreeze d g).wellFormed = true → s.gigReady [] false = true →
      exec (.tfreeze d g) s = .next (s.onMe (fun th => th.push (16 + th.nextId) 0 (.tfreeze (decide (g = 1))) (some d.toNat) .plane))) ∧
    ((Instr.tresume d).wellFormed = true → s.gigReady [] false = true →
      exec (.tresume d) s = .next (s.onMe (fun th => th.push (16 + th.nextId) 0 .tresume (some d.toNat) .plane))) ∧
    ((Instr.tframe d a).wellFormed = true → s.gigReady [a.toNat] false = true →
      (x.run.phase ≠ .frozen ∨ (s.th.d a.toNat).toNat ∉ x.pipes →
        exec (.tframe d a) s = .next (s.onMe (fun th => (th.setD d.toNat (-1)).next))) ∧
      (∀ j : Nat, x.run.phase = .frozen → x.pipes[j]? = some (s.th.d a.toNat).toNat →
        (s.th.d a.toNat).toNat ∉ x.pipes.take j →
        exec (.tframe d a) s = .next (s.onMe (fun th =>
          (th.setD d.toNat (BitVec.ofNat 64 (bitsOf (wordAt x.run.header 6) 48 0 + j * 0x800000))).next))))

/-! ### Privilege, traps and system words (08 R226, R228, R260 to R263) -/

/-- O37. At level 0 the privileged instructions TRET, TFREEZE, TRESUME and TFRAME, a CSRR of a register that is not open to reading
and a CSRW of one that is not open to writing trap ACCESS with SUB = PRIV and their own word in TVALUE, and have no effect of
their own (08 R228). -/
def Obligations.PrivilegeChecked : Prop :=
  ∀ (s : State) (i : Instr) (d a : BitVec 5) (g : BitVec 1) (c : BitVec 6) (srcs : List Nat), s.th.level = false →
    ((i = .tret ∧ srcs = []) ∨ (i = .tfreeze d g ∧ srcs = []) ∨ (i = .tresume d ∧ srcs = []) ∨ (i = .tframe d a ∧ srcs = [a.toNat]) ∨
      (i = .gigCsrr d c ∧ srcs = [] ∧ c.toNat ∉ [7, 9, 0xA, 0xB, 0xC, 0xD]) ∨
      (i = .gigCsrw a c ∧ srcs = [a.toNat] ∧ c.toNat ∉ [0xB, 0xC])) →
    i.wellFormed = true → s.gigReady srcs false = true →
    exec i s = .next (s.trapMe 0x04 3 (((encode i).getD 0).setWidth 64))

/-- O38. A trap of a thread whose INH is 0 saves its cause, SUB, TVALUE and the address of the trapping instruction in TPC, copies
its level into PPRIV, sets INH and level 1, and goes on at TVEC; no d register, mark, message or other trap bit of the thread
changes (08 R226). -/
def Obligations.TrapEntry : Prop :=
  ∀ (s : State) (cause sub : Nat) (v : Word) (r : TrapRegs), r = s.th.trap → (s.slotOf s.curThread).isSome = true → r.inh = false →
    (s.trapMe cause sub v).th = { s.th with
      pc := r.tvec.toNat * 4, level := true
      trap := { r with tcause := BitVec.ofNat 8 cause, sub := BitVec.ofNat 4 sub, tvalue := v, tpc := BitVec.ofNat 64 s.th.pc,
                       hops := 0, pprv := s.th.level, inh := true } }

/-- A gig word without a meaning, and every well-typed gig instruction whose fields its form forbids, trap ILL with the word in TVALUE,
whatever its registers hold (03 R89). -/
def Claims.GigIllegalWordTraps : Prop :=
  ∀ (s : State), s.th.free s.curThread = true →
    (∀ w : BitVec 32, exec (.unassignedGigWord w) s = .next (s.trapMe 0x01 0 (w.setWidth 64))) ∧
    (∀ i : Instr, i.stream = .gig → i.wellFormed = false →
      exec i s = .next (s.trapMe 0x01 0 (((encode i).getD 0).setWidth 64)))

/-- O11. Words without a meaning issue without effect and are detected, or trap, as illegal: all of Claims.UnassignedOpcodeRejected,
Claims.IllegalWordsDetected, Claims.GigIllegalWordTraps. -/
def Obligations.IllegalWordsRejected : Prop :=
  Claims.UnassignedOpcodeRejected ∧ Claims.IllegalWordsDetected ∧ Claims.GigIllegalWordTraps

/-- The system words that write one register of their thread and go on: dd, their operands and the value. -/
def Claims.systemRead (s : State) (i : Instr) : Option (Nat × List Nat × Word) :=
  match i with
  | .gigCsrr d c => if s.th.level || [7, 9, 0xA, 0xB, 0xC, 0xD].contains c.toNat then some (d.toNat, [], s.gigCsr c.toNat) else none
  | .rng d a b x =>
    let k := s.th.d a.toNat
    let c := s.th.d b.toNat
    let y := philox (k.setWidth 32) (k.extractLsb' 32 32) (c.setWidth 32)
      (BitVec.ofNat 32 (bitsOf c 57 48 * 2 ^ 22 + x.toNat * 2 ^ 16 + bitsOf c 47 32)) 0 0
    some (d.toNat, [a.toNat, b.toNat], BitVec.ofNat 64 (y.2.1.toNat * 2 ^ 32 + y.1.toNat))
  | _ => none

/-- The gig cycles for which such a value is not yet at hand: 12 for RNG (25 R486). -/
def Claims.systemLatency (i : Instr) : Nat :=
  match i with
  | .rng .. => 12
  | _ => 0

/-- TRAP traps with its code; TRET at level 1 goes back to TPC with the level of PPRIV and INH 0; CSRR and RNG write their value to
dd; CSRW writes what its register takes; YIELD goes on where nothing waits; HALT takes the thread to its next item with its
registers zero, or out of the launch; TRACE adds two entries to its gig's road book (08 R260 to R262; 11 R310; 19 R419, R428). -/
def Claims.SystemInstructions : Prop :=
  ∀ (s : State) (a : BitVec 5) (c g : BitVec 6),
    (s.gigReady [] false = true → (Instr.trap c).wellFormed = true →
      exec (.trap c) s = .next (s.trapMe 0x10 0 (c.setWidth 64))) ∧
    (∀ x : Nat, s.slotOf s.curThread = some x → s.gigReady [] false = true → s.th.level = true →
      (s.ctx (coachOf s.curThread) x).sliceLimit = none →
      exec .tret s = .next (s.onMe (fun th => { th with
        pc := th.trap.tpc.toNat, level := th.trap.pprv, trap := { th.trap with inh := false } }))) ∧
    (∀ (i : Instr) (d : Nat) (srcs : List Nat) (v : Word), Claims.systemRead s i = some (d, srcs, v) → i.wellFormed = true →
      s.gigReady srcs false = true → exec i s = .next (s.onMe (fun th =>
        (if Claims.systemLatency i = 0 then th.setD d v
          else th.setLate d v (s.cycle (dieOf s.curThread)).toNat (Claims.systemLatency i) 0).next))) ∧
    (s.gigReady [a.toNat] false = true → (Instr.gigCsrw a c).wellFormed = true → (s.th.level = true ∨ c = 0xB ∨ c = 0xC) →
      exec (.gigCsrw a c) s = .next ((s.setGigCsr c.toNat (s.th.d a.toNat)).onMe Thread.next)) ∧
    (∀ x : Nat, s.slotOf s.curThread = some x → s.gigReady [] false = true →
      (s.ctx (coachOf s.curThread) x).sliceLimit = none →
      ((s.onMe Thread.next).waits (coachOf s.curThread) true = false → exec .yield s = .next (s.onMe Thread.next)) ∧
      (∀ h : List Word, h = s.header (s.ctx (coachOf s.curThread) x).lid →
        (s.th.item + hThreads h < hItems h →
          ∃ t : State, exec .gigHalt s = .next t ∧ t.th.item = s.th.item + hThreads h ∧ t.th.pc = hEntry h ∧
            (∀ n, t.th.d n = 0) ∧ t.th.frm = 0 ∧ t.th.level = false ∧ t.th.trap.inh = false ∧ t.th.fflags = s.th.fflags) ∧
        (hItems h ≤ s.th.item + hThreads h →
          exec .gigHalt s = .next (s.leave (coachOf s.curThread) x (localOf s.curThread))))) ∧
    (s.gigReady [a.toNat] false = true → (Instr.trace a g).wellFormed = true → g ≠ 63 →
      (s.gig (gigOf s.curThread)).book.left = none →
      ∃ t : State, exec (.trace a g) s = .next t ∧ t.th = s.th.next ∧ t.mem = s.mem ∧
        (t.gig (gigOf s.curThread)).book = ((s.gig (gigOf s.curThread)).book.add ((s.die (dieOf s.curThread)).gigCycle) 1 s.th.pc
          g.toNat).add ((s.die (dieOf s.curThread)).gigCycle) 1 s.th.pc ((s.th.d a.toNat).toNat % 2 ^ 32))

/-- LEAVE sends its request to the turnpike, where it stands among those of its gig cycle until that ends; its thread goes on (08
R263; 25 R484). -/
def Claims.LeaveCompletes : Prop :=
  ∀ (s : State) (d a : BitVec 5) (c : BitVec 1) (x : Nat), s.slotOf s.curThread = some x →
    (Instr.leave d a c).wellFormed = true → s.gigReady [a.toNat] false = true →
    exec (.leave d a c) s = .next ((s.onMe Thread.next).onCtx (coachOf s.curThread) x (fun k => { k with asks := k.asks ++
      [{ thread := localOf s.curThread, dest := d.toNat, cxl := decide (c = 1), bytes := (s.th.d a.toNat).toNat }] }))

/-- When the gig cycle ends, the turnpike judges the requests of its die's threads in rising thread number. One for 0 bytes, for bytes
that fit the bucket beside the charges that have not expired, or for more than LB where nothing is charged, is granted: 0 in its
register, a grant for its thread and, but for 0 bytes, a charge, both for 65,536 gig cycles. Any other gives a wait of at least
1 and charges nothing (08 R263; 25 R484). -/
def Claims.LeavesJudged : Prop :=
  (∀ (s : State) (d : Nat),
    (s.asksOf d).Pairwise (fun e f => e.1 * 32 + e.2.2.thread ≤ f.1 * 32 + f.2.2.thread) ∧
    (∀ e : Nat × Nat × LeaveAsk, e ∈ s.asksOf d ↔ dieOfCoach e.1 = d ∧ ∃ q : Coach, (e.1, q) ∈ s.coaches ∧
      ∃ k : Context, (e.2.1, k) ∈ q.ctxs ∧ e.2.2 ∈ k.asks) ∧
    s.judgeAsks d = (s.asksOf d).foldl (fun t e => t.judgeAsk e.1 e.2.1 e.2.2) s) ∧
  ∀ (s : State) (c x : Nat) (a : LeaveAsk) (y : Die) (cs : List Grant) (th : Thread), y = s.die (dieOfCoach c) →
    cs = y.grants.filter (fun g => (g.cxl == a.cxl) && decide (y.gigCycle.toNat < g.expiry.toNat)) →
    th = ((s.judgeAsk c x a).ctx c x).threads.get a.thread {} →
    ((a.bytes = 0 ∨ (a.bytes ≤ y.lb ∧ (cs.map (fun g => g.bytes)).sum + a.bytes ≤ y.lb) ∨ (y.lb < a.bytes ∧ cs = [])) →
      (a.dest ≠ 0 → th.d a.dest = 0) ∧
      th.grants = ((s.ctx c x).threads.get a.thread {}).grants ++
        [{ cxl := a.cxl, bytes := a.bytes, expiry := y.gigCycle + 65536 }] ∧
      ((s.judgeAsk c x a).die (dieOfCoach c)).grants = y.grants ++ (if a.bytes = 0 then [] else
        [{ bytes := a.bytes, cxl := a.cxl, expiry := y.gigCycle + 65536 }])) ∧
    (a.bytes ≠ 0 → ((a.bytes ≤ y.lb ∧ y.lb < (cs.map (fun g => g.bytes)).sum + a.bytes) ∨ (y.lb < a.bytes ∧ cs ≠ [])) →
      ∃ w : Nat, 1 ≤ w ∧ (a.dest ≠ 0 → th.d a.dest = BitVec.ofNat 64 w) ∧ (s.judgeAsk c x a).dies = s.dies ∧
        th.grants = ((s.ctx c x).threads.get a.thread {}).grants)

/-- O39. TRAP, TRET, CSRR, CSRW, RNG, YIELD, HALT, TRACE and LEAVE complete, and the turnpike judges its requests: all of
Claims.SystemInstructions, Claims.LeaveCompletes, Claims.LeavesJudged. -/
def Obligations.SystemInstructionsComplete : Prop :=
  Claims.SystemInstructions ∧ Claims.LeaveCompletes ∧ Claims.LeavesJudged

/-! ### What a cycle of a pipeline completes (04 R104, R134, R138; 05 R145, R156, R158, R170; 06 R177, R182; 07 R214) -/

/-- The timed control registers after a CSRW of value `v` to register `c`: reserved and read-only fields keep their values (00 R6;
04 R134, R139). A CSRW of SR_BASE sets the element counter to 0 (02 R59); flags raised in its cycle stay set in FFLAGS (02 R53). -/
def Claims.csrWritten (x : Csrs) (c : Nat) (v : Word) (raised : FlagSet) : Csrs :=
  match c with
  | 0 => { x with tpctl := v.setWidth 5 }
  | 1 => { x with seedLo := v.setWidth 32 }
  | 2 => { x with seedHi := v.setWidth 32 }
  | 3 => { x with seat := v.extractLsb' 48 10, cbase := v.setWidth 48, elem := 0 }
  | 4 => { x with histCtl := v.setWidth 8 }
  | 5 => { x with fflags := v.setWidth 7 ||| raised }
  | n => if n < 16 ∨ 32 ≤ n then x else { x with mcgroup := x.mcgroup.set (n - 16) (v.setWidth 48) }

/-- The CSRW of a cycle stores its value, for every register and every state (00 R6; 04 R134). -/
def Claims.RegisterWrites : Prop :=
  ∀ (s : State) (g : Nat) (p : Pipe), p = s.pipe g →
    (p.cyc.csrw = none → exec (.registerWrite g) s = .next (s.setPipe g p)) ∧
    (∀ (c : Nat) (v : Word), p.cyc.csrw = some (c, v) → exec (.registerWrite g) s = .next (s.setPipe g
      { p with csr := Claims.csrWritten p.csr c v p.cyc.raised, cyc := { p.cyc with csrw := none } }))

/-- The descriptors, walks and coefficient tables of pipeline `g` that are due in this cycle. -/
def Claims.due (s : State) (g : Nat) (pick : Result → Bool) : List Flight :=
  (s.pipe g).fly.res.filter (fun f => decide (f.due = s.now (dieOfPipe g)) && pick f.res)

/-- In each cycle of its die, and whatever is in flight: every descriptor due now that is valid replaces its stream register, with
position 0, no translation and no prefetch under way, and one that is not valid is an ILL_OP at its word; the walk of every TLBP
due now becomes NXT of its stream register; every coefficient table due now has its new segments. What is due leaves the flight
and all else stays; other stream registers, queues, control registers and memories are unchanged (05 R145, R154, R156, R158). -/
def Claims.LateResultsTakeEffect : Prop :=
  ∀ (s : State) (g : Nat) (p : Pipe) (now : Tick), p = s.pipe g → now = s.now (dieOfPipe g) →
    (∀ due : List Flight, due = Claims.due s g (fun r => match r with | .scfg .. => true | _ => false) →
      ∃ t : State, exec (.scfgTakesEffect g) s = .next t ∧ (t.pipe g).mem = p.mem ∧ (t.pipe g).q = p.q ∧ (t.pipe g).csr = p.csr ∧
        (∀ n : Nat, (t.pipe g).streg n = due.foldl (fun old f => match f.res with
          | .scfg st a ws _ => if st = n ∧ Desc.valid ws st = true then
              { desc := some (Desc.ofWords ws), addr := a, p := 0, cur := {}, nxt := {} } else old
          | _ => old) (p.streg n)) ∧
        (∀ f : Flight, f ∈ (t.pipe g).fly.res ↔ f ∈ p.fly.res ∧ f ∉ due ∧
          ∀ e ∈ due, ∀ (st a pc : Nat) (ws : List Word), e.res = .scfg st a ws pc → Desc.valid ws st = true →
            f.res.prefetches st = false) ∧
        (t.pipe g).cyc.dets = p.cyc.dets ++ due.flatMap (fun f => match f.res with
          | .scfg st _ ws pc => if Desc.valid ws st = true then [] else
              [{ cause := 1, stream := f.stream, pc := pc, detail := 0, info := 0 }]
          | _ => [])) ∧
    (∀ due : List Flight, due = Claims.due s g Result.isPrefetch →
      ∃ t : State, exec (.tlbpResult g) s = .next t ∧ (t.pipe g).mem = p.mem ∧ (t.pipe g).q = p.q ∧ (t.pipe g).csr = p.csr ∧
        (t.pipe g).cyc = p.cyc ∧ (∀ f : Flight, f ∈ (t.pipe g).fly.res ↔ f ∈ p.fly.res ∧ f ∉ due) ∧
        (∀ n : Nat, (t.pipe g).streg n = due.foldl (fun old f => match f.res with
          | .nxt st va read => if st = n then
              { old with nxt := walkResult va st (s.walkOn (s.part (s.partOfPipe g)).root va 3 read) } else old
          | .tlb st e => if st = n then { old with nxt := e } else old
          | _ => old) (p.streg n))) ∧
    (∀ due : List Flight, due = Claims.due s g (fun r => match r with | .coef .. => true | _ => false) →
      ∃ t : State, exec (.ldcmComplete g) s = .next t ∧ (t.pipe g).mem.sram = p.mem.sram ∧ (t.pipe g).regs = p.regs ∧
        (t.pipe g).q = p.q ∧ (t.pipe g).csr = p.csr ∧ (t.pipe g).cyc = p.cyc ∧
        (∀ f : Flight, f ∈ (t.pipe g).fly.res ↔ f ∈ p.fly.res ∧ f ∉ due) ∧
        (∀ n : Nat, (t.pipe g).mem.coef.get n 0 = due.foldl (fun old f => match f.res with
          | .coef k ws => if k * 256 ≤ n ∧ n < k * 256 + ws.length then ws.getD (n - k * 256) 0 else old
          | _ => old) (p.mem.coef.get n 0)))

/-- In each cycle of its die, and whatever is in flight: every final write of an RMW charged now is done, to enter the memory at the
end of the cycle, or, where a layover reserves its bank, is a LAYOVER_BANK slip of its word; the holds of its banks that end now
are gone; and every drawbar word that arrives now enters the buffer of its side, or, where that held four words at the start of
the cycle, is lost with a TOKEN slip (01 R24, R28; 05 R150, R151, R170, R171; 07 R213, R214). -/
def Claims.WritesAndDrawbarsLand : Prop :=
  ∀ (s : State) (g : Nat) (p : Pipe) (now : Tick), p = s.pipe g → now = s.now (dieOfPipe g) →
    (∀ due : List TWrite, due = p.fly.writes.filter (fun w => decide (w.at_ = now) && decide (w.cls = 4)) →
      ∃ t : State, exec (.rmwFinalWrite g) s = .next t ∧ (t.pipe g).mem = p.mem ∧ (t.pipe g).regs = p.regs ∧ (t.pipe g).q = p.q ∧
        (t.pipe g).fly.res = p.fly.res ∧
        (t.pipe g).fly.writes = p.fly.writes.filter (fun w => !(decide (w.at_ = now) && decide (w.cls = 4))) ∧
        (t.pipe g).fly.done = p.fly.done ++ due.filter (fun w => (s.bankSlips g 3 w.pc w.addr w.bytes.length).isEmpty) ∧
        (t.pipe g).cyc.dets = p.cyc.dets ++ due.flatMap (fun w => s.bankSlips g 3 w.pc w.addr w.bytes.length) ∧
        (t.pipe g).fly.rmwHold = p.fly.rmwHold.filter (fun e => !(Tick.le e.2 now))) ∧
    (∀ (fullE fullW : Bool) (due : List (Tick × Bool × VWord)), fullE = decide (4 ≤ p.q.east.length + p.cyc.popE) →
      fullW = decide (4 ≤ p.q.west.length + p.cyc.popW) → due = p.q.dbIn.filter (fun e => decide (e.1 = now)) →
      ∃ t : State, exec (.drawbarArrival g) s = .next t ∧ (t.pipe g).mem = p.mem ∧ (t.pipe g).regs = p.regs ∧ (t.pipe g).fly = p.fly ∧
        (t.pipe g).q.dbIn = p.q.dbIn.filter (fun e => !(decide (e.1 = now))) ∧
        (t.pipe g).q.east = p.q.east ++ (if fullE then [] else (due.filter (fun e => e.2.1)).map (fun e => e.2.2)) ∧
        (t.pipe g).q.west = p.q.west ++ (if fullW then [] else (due.filter (fun e => !e.2.1)).map (fun e => e.2.2)) ∧
        (t.pipe g).cyc.dets = p.cyc.dets ++ due.flatMap (fun e => if (if e.2.1 then fullE else fullW) then
          [{ cause := 3, stream := 2, pc := 0, detail := if e.2.1 then 28 else 29, info := 0 }] else []))

/-- Cell (i, j) of the tile after K-step `k` of pipeline `p`'s nest, which pops `d` where it takes B from a drawbar: one group of R64
applied to zero, where the nest zeroes, or to the cell's current value, with A and B decoded from where R178 has them, a row of
zeros under the index −1, the scales of R179, and under SR draw 48·i + j of the nest's (02 R56, R64; 06 R177 to R179, R181; the
NV of a sum that meets both infinities, log 62). -/
def Claims.cell (p : Pipe) (k : KStep) (d : VWord) (i j : Nat) : FRes :=
  let x := p.mx.nest
  let g := nestGroup x.cls
  let nc := nestCols x.cls
  let w := x.af.bits
  let fb := fmtOf x.b.fmt
  let rm := (RMode.ofCode x.rm).getD .rne
  let acc := if k.first = true ∧ nestZero x.active = true then 0
    else (p.mx.current (64 * k.slot + i)).toNat / 2 ^ (w * j) % 2 ^ w
  let as := (List.range g).map (fun e =>
    if k.zeroRow i = true then (XVal.fin false 0 0 false, (0 : FlagSet))
    else valueOf (fmtOf x.a.fmt) (p.cbreg x.a.cbr) (p.aElem k i e))
  let bs := (List.range g).map (fun e =>
    valueOf fb (p.cbreg x.b.cbr) (p.bBlock k d / 2 ^ (fb.bits * (e * nc + j)) % 2 ^ fb.bits))
  let one : XVal := .fin false 1 0 false
  let sa := if x.a.scl = true ∧ k.zeroRow i = false then p.scaleVal (x.a.scaleAt (k.scaleRow i) (k.kt * g)) else one
  let sb := if x.b.scl = true then p.scaleVal (x.b.scaleAt ((k.nt * nc + j : Nat) : Int) (k.kt * g)) else one
  let t := groupSum as bs (decide (rm = .rdn))
  if x.af = .int32 then ⟨intCell (nestSat x.active) acc (intOf t.1.val), 0⟩
  else fpCell x.af rm (if rm = .sr then p.draw 1 (i * nc + j) else 0) acc t.1 t.2
    (if x.a.scl = true ∨ x.b.scl = true then some (sa, sb) else none)

/-- A K-step in its first cycle makes the next one due. Where it meets no fault, and no empty drawbar that it must pop, it puts its 64
rows in flight, readable 9 cycles after its last cycle, which hold the new value of every cell, with the flags that the cells
raise; later K-steps of the nest find those values current; it pops its drawbar and forwards the word under FWD. Else it writes no
row, pops and forwards nothing, and is detected. In either case it makes its draws. Where no K-step begins nothing changes. At F
the nest ends (02 R59, R64; 06 R177, R178, R182). -/
def Claims.NestGoesOn : Prop :=
  ∀ (s : State) (g : Nat) (p : Pipe) (x : Nest) (now : Tick) (east : Bool), p = s.pipe g → x = p.mx.nest → now = s.now (dieOfPipe g) →
    east = decide (nestFrom x.active = 1) →
    (x.go = true → x.at_ = now → x.n < nestSteps x.active →
      ∃ t : State, exec (.nestKStep g) s = .next t ∧
        (t.pipe g).mx.nest.n = x.n + 1 ∧ (t.pipe g).mx.nest.at_ = x.at_ + BitVec.ofNat 64 (nestCpk x.cls) ∧
        (t.pipe g).mx.acc = p.mx.acc ∧ (t.pipe g).mem = p.mem ∧ (t.pipe g).regs = p.regs ∧
        (t.pipe g).cyc.draws = Nat.max p.cyc.draws x.draws ∧
        (s.kstepFaults g (p.kstep x.n) = [] → (nestFrom x.active ≠ 0 → p.drawbar east ≠ []) →
          (∃ (rows : List (Nat × BitVec 1536)) (fl : FlagSet),
            (t.pipe g).fly.res = p.fly.res ++ [{ due := now + BitVec.ofNat 64 (nestCpk x.cls + 8), issue := now, stream := 0,
                                                 res := .acc rows, flags := fl }] ∧
            rows.map (fun r => r.1) = (List.range 64).map (fun i => 64 * (p.kstep x.n).slot + i) ∧
            (∀ (i : Nat) (r : Nat × BitVec 1536), rows[i]? = some r → (t.pipe g).mx.current r.1 = r.2 ∧
              ∀ j : Nat, j < nestCols x.cls → r.2.toNat / 2 ^ (x.af.bits * j) % 2 ^ x.af.bits =
                (Claims.cell p (p.kstep x.n) ((p.drawbar east).headD 0) i j).bits % 2 ^ x.af.bits) ∧
            fl = ((List.range 64).flatMap (fun i => (List.range (nestCols x.cls)).map (fun j =>
              (Claims.cell p (p.kstep x.n) ((p.drawbar east).headD 0) i j).flags))).foldl (fun a b => a ||| b) 0) ∧
          (t.pipe g).cyc.dets = p.cyc.dets ++ p.kstepScores ∧
          (t.pipe g).q.east = (if nestFrom x.active ≠ 0 ∧ east = true then p.q.east.tail else p.q.east) ∧
          (t.pipe g).q.west = (if nestFrom x.active ≠ 0 ∧ east = false then p.q.west.tail else p.q.west) ∧
          (∀ h : Nat, nestFrom x.active ≠ 0 → nestFwd x.active = true → drawbarTo g (!east) = some h →
            (t.pipe h).q.dbIn = (s.pipe h).q.dbIn ++ [(now + 1, east, (p.drawbar east).headD 0)])) ∧
        (s.kstepFaults g (p.kstep x.n) ≠ [] ∨ (nestFrom x.active ≠ 0 ∧ p.drawbar east = []) →
          (t.pipe g).fly = p.fly ∧ (t.pipe g).q = p.q ∧
          (t.pipe g).cyc.dets = p.cyc.dets ++ p.kstepScores ++ s.kstepFaults g (p.kstep x.n) ++
            (if nestFrom x.active ≠ 0 ∧ p.drawbar east = [] then
              [{ cause := 3, stream := 1, pc := 0, detail := if east then 28 else 29, info := 0 }] else []))) ∧
    (x.go = false ∨ x.at_ ≠ now ∨ nestSteps x.active ≤ x.n → exec (.nestKStep g) s = .next s) ∧
    (x.go = true → x.fin = now →
      exec (.nestDone g) s = .next (s.setPipe g { p with mx := { p.mx with nest := { x with go := false, seen := [], load := 0 } } })) ∧
    (x.go = false ∨ x.fin ≠ now → exec (.nestDone g) s = .next s)

/-- A pipeline of a running launch that has halted is finished once nothing of it is in flight, and is not, or no longer, while
something is; the launch completes when every pipeline of the partition is finished, with nothing in flight and no transfer
under way, unless a freeze is to come (04 R138). -/
def Claims.PipelinesFinish : Prop :=
  ∀ (s : State) (g k : Nat) (p : Pipe) (r : TimedRun) (now : Tick), p = s.pipe g → k = s.partOfPipe g → r = (s.part k).run →
    now = s.now (dieOfPipe g) →
    (r.phase ≠ .running ∨ r.started.contains (dieOfPipe g) = false ∨ p.halted = false → exec (.pipelineFinished g) s = .next s) ∧
    (r.phase = .running → r.started.contains (dieOfPipe g) = true → p.halted = true →
      (s.landed g = false → exec (.pipelineFinished g) s = .next (s.setPipe g { p with finished := false })) ∧
      (s.landed g = true → ∀ all : Prop, (all ↔ r.td = none ∧ ∀ h ∈ (s.part k).pipes,
          (h = g ∨ (s.pipe h).finished = true) ∧ (s.pipe h).fly.hbm = [] ∧ s.landed h = true) →
        ∃ t : State, exec (.pipelineFinished g) s = .next t ∧ (t.pipe g).finished = true ∧ (t.part k).run.lid = r.lid ∧
          (t.part k).run.span = (if p.finished then r.span else Nat.max r.span (r.tau now)) ∧ t.mem = s.mem ∧
          (all → (t.part k).run.phase = .complete) ∧ (¬ all → (t.part k).run.phase = .running)))

/-- O40. What a pipeline does without a word takes effect when it is due: all of Claims.RegisterWrites,
Claims.LateResultsTakeEffect, Claims.WritesAndDrawbarsLand, Claims.NestGoesOn, Claims.PipelinesFinish. -/
def Obligations.PipelineEvents : Prop :=
  Claims.RegisterWrites ∧ Claims.LateResultsTakeEffect ∧ Claims.WritesAndDrawbarsLand ∧ Claims.NestGoesOn ∧ Claims.PipelinesFinish

/-! ### HBM transfers and scrubbing (05 R161 to R163; 09 R278, R279; 23 R460 to R463) -/

/-- Transfer `b` of pipeline `h` uses the pseudo-channel and slot of transfer `o` of pipeline `g` before it: it issued earlier, or in
the same cycle in a lower pipeline, or (the model's choice, log 65) as the HLD beside an HST of one pipeline (05 R161). -/
def Claims.usesBefore (b : HbmOp) (h : Nat) (o : HbmOp) (g : Nat) : Prop :=
  b.pa / 256 % 512 = o.pa / 256 % 512 ∧ b.issue.toNat / 20 = o.issue.toNat / 20 ∧
  (Tick.lt b.issue o.issue = true ∨ (b.issue = o.issue ∧ (h < g ∨ (h = g ∧ b.isLoad = true ∧ o.isLoad = false))))

/-- On every state: refresh changes nothing; a controller of a stack for which no load waits changes nothing, and else takes one
pipeline with such a load and, where one of its loads may be read now, reads one aligned 8-byte piece of one, as HBM holds it, unless
it has read that piece before, and changes nothing else; a unit is marked as arriving late; of the transfers that issued 40 cycles
ago exactly those whose pseudo-channel and slot another of the partition uses first are refused, each with TOKEN, detail 63 (05 R161;
09 R277 to R279). -/
def Claims.ChannelsServe : Prop :=
  ∀ (s : State) (g : Nat) (p : Pipe) (now : Tick), p = s.pipe g → now = s.now (dieOfPipe g) →
    (∀ j : Nat, exec (.hbmRefresh j) s = .next s) ∧
    (∀ j : Nat, (s.hbmWaiters j = [] → exec (.hbmSlotTransfer j) s = .next s) ∧
      (s.hbmWaiters j ≠ [] → ∃ (t : State) (h : Nat), h ∈ s.hbmWaiters j ∧ exec (.hbmSlotTransfer j) s = .next t ∧
        t.mem = s.mem ∧ t.bad = s.bad ∧ t.dies = s.dies ∧ (∀ f : Nat, f ≠ h → t.pipe f = s.pipe f) ∧
        t.pipe h = { s.pipe h with fly := { (s.pipe h).fly with hbm := (t.pipe h).fly.hbm } } ∧
        (s.hbmReady j h = [] → t.pipe h = s.pipe h) ∧
        (s.hbmReady j h ≠ [] → ∃ m ∈ s.hbmReady j h, ∃ i < 32, (t.pipe h).fly.hbm.length = (s.pipe h).fly.hbm.length ∧
          (∀ (n : Nat) (o : HbmOp), (s.pipe h).fly.hbm[n]? = some o → (t.pipe h).fly.hbm[n]? = some (if n = m then
            { o with data := if o.data.any (fun e => e.1 == i) then o.data else o.data.set i (s.mem.word (o.pa + 8 * i)),
                     bad := o.bad || s.damaged (o.pa + 8 * i) 8 } else o))))) ∧
    (∀ late : Nat, ∃ (t : State) (n : Nat), exec (.hbmUnitArrival g late) s = .next t ∧ t.mem = s.mem ∧
      (t.pipe g).mem = p.mem ∧ (t.pipe g).fly.hbm.length = p.fly.hbm.length ∧
      (p.fly.hbm ≠ [] → n < p.fly.hbm.length) ∧
      (∀ (i : Nat) (o : HbmOp), p.fly.hbm[i]? = some o → (t.pipe g).fly.hbm[i]? =
        some (if i = n ∧ o.isLoad = true ∧ o.refused = false then { o with late := late } else o))) ∧
    (∃ t : State, exec (.hbmSlotRefusal g) s = .next t ∧ t.mem = s.mem ∧ (t.pipe g).mem = p.mem ∧ (t.pipe g).regs = p.regs ∧
      (t.pipe g).fly.hbm.length = p.fly.hbm.length ∧
      (∀ (i : Nat) (o : HbmOp), p.fly.hbm[i]? = some o → ∀ late : Prop,
        (late ↔ o.issue + 40 = now ∧ ∃ h ∈ (s.part (s.partOfPipe g)).pipes, ∃ b ∈ (s.pipe h).fly.hbm, Claims.usesBefore b h o g) →
        (late → (t.pipe g).fly.hbm[i]? = some { o with refused := true } ∧
          ({ cause := 3, stream := if o.isLoad then 1 else 3, pc := o.pc, detail := 63, info := 0 } : Det) ∈ (t.pipe g).cyc.dets) ∧
        (¬ late → (t.pipe g).fly.hbm[i]? = some o)) ∧
      (∀ x ∈ (t.pipe g).cyc.dets, x ∈ p.cyc.dets ∨ x.detail = 63))

/-- Whatever is in flight: 640 cycles after its issue a load leaves the flight, and its 256 bytes enter tensor SRAM, unless it was
refused, is late, meets a reserved bank or holds an uncorrectable error; and 640 cycles after its issue, on every die of the
partition, a store that was not refused and is sound reaches HBM, after every load that issued before and shares a byte with it
has read its 256 bytes. Among several of one cycle the later in the list of transfers prevails. That a landing's slip in a reserved
bank names stream 1 and the PC of its HLD is the model's choice (log 66), and that a store's damaged source is detected as it
completes, with its HBM address, is too (log 27) (05 R150, R151, R162, R163; 09 R279; 23 R463). -/
def Claims.TransfersLand : Prop :=
  ∀ (s : State) (g : Nat) (p : Pipe) (now : Tick), p = s.pipe g → now = s.now (dieOfPipe g) →
    (∀ due : List HbmOp, due = p.fly.hbm.filter (fun o => o.isLoad && decide (o.issue + 640 = now)) →
      ∃ t : State, exec (.hldLanding g) s = .next t ∧ t.mem = s.mem ∧ (t.pipe g).regs = p.regs ∧ (t.pipe g).fly.res = p.fly.res ∧
        (t.pipe g).fly.hbm = p.fly.hbm.filter (fun o => !(o.isLoad && decide (o.issue + 640 = now))) ∧
        (t.pipe g).mem.sram = due.foldl (fun m o =>
          if o.refused = false ∧ o.late = 0 ∧ s.bankSlips g 1 o.pc o.off 256 = [] ∧ (s.readAll o).bad = false then
            m.writeBytes o.off (s.readAll o).bytes else m) p.mem.sram ∧
        (t.pipe g).cyc.dets = p.cyc.dets ++ due.flatMap (fun o => if o.refused = true ∨ o.late ≠ 0 then [] else
          s.bankSlips g 1 o.pc o.off 256 ++ (if (s.readAll o).bad then
            [{ cause := 12, stream := 1, pc := o.pc, detail := 0, info := BitVec.ofNat 32 o.pa, stack := some (stackOf o.pa) }] else [])) ∧
        (t.pipe g).fly.late = p.fly.late ++ (due.filter (fun o => !o.refused && decide (o.late ≠ 0))).map (fun o =>
          { at_ := now + BitVec.ofNat 64 o.late,
            det := { cause := 5, stream := 0, pc := 0, detail := 0, info := BitVec.ofInt 32 (-(o.late : Int)) } })) ∧
    (∀ (done : HbmOp → Bool) (due : List HbmOp),
      (∀ o : HbmOp, done o = true ↔ o.isLoad = false ∧
        (if o.refused = true ∨ o.bad = true then o.issue + 640 = now
         else ∀ d ∈ (s.part (s.partOfPipe g)).dies, Tick.le (o.issue + 640) (s.now d) = true)) →
      due = p.fly.hbm.filter done →
      ∃ t : State, exec (.hstCompletion g) s = .next t ∧ (t.pipe g).mem = p.mem ∧ (t.pipe g).regs = p.regs ∧
        t.mem = due.foldl (fun m o => if o.refused = true ∨ o.bad = true then m else m.writeBytes o.pa o.bytes) s.mem ∧
        (t.pipe g).fly.hbm.length = (p.fly.hbm.filter (fun o => !(done o))).length ∧
        (t.pipe g).cyc.dets = p.cyc.dets ++ (due.filter (fun o => !o.refused && o.bad)).map (fun o =>
          { cause := 12, stream := 3, pc := o.pc, detail := 0, info := BitVec.ofNat 32 o.pa }) ∧
        (∀ o ∈ due, o.refused = false → o.bad = false → ∀ h ∈ (s.part (s.partOfPipe g)).pipes, ∀ a ∈ (t.pipe h).fly.hbm,
          a.isLoad = true → a.pa < o.pa + 256 → o.pa < a.pa + 256 → Tick.lt a.issue (o.issue + 640) = true → 32 ≤ a.data.length))

/-- A correctable error adds one to the count of its unit, up to all ones, and changes no data, register, memory or cycle; an
uncorrectable one that scrubbing finds adds one to the other count, up to all ones, is entered in the black box, and leaves the place
damaged, where an active complex may scrub the unit now: HBM at any time, tensor SRAM and the accumulator store while no launch of
the partition runs or while it is frozen; where it may not, nothing changes (23 R461 to R463, R468; 24 R469). -/
def Claims.ErrorsCounted : Prop :=
  ∀ (s : State) (u a : Nat),
    (eccSource u a = none → ∀ bad : Bool, exec (.scrub u a bad) s = .next s) ∧
    (∀ b : BoxSource, eccSource u a = some b →
      (∃ t : State, exec (.scrub u a false) s = .next t ∧ t.mem = s.mem ∧ t.bad = s.bad ∧ t.gigs = s.gigs ∧ t.pipes = s.pipes ∧
        t.dies = s.dies ∧ t.fw.health.unc = s.fw.health.unc ∧
        t.fw.health.cor.get b.unit 0 = Nat.min (s.fw.health.cor.get b.unit 0 + 1) 0xFFFFFFFF ∧
        (∀ n : Nat, n ≠ b.unit → t.fw.health.cor.get n 0 = s.fw.health.cor.get n 0)) ∧
      (s.mayScrub u = false → exec (.scrub u a true) s = .next s) ∧
      (s.mayScrub u = true →
        ∃ t : State, exec (.scrub u a true) s = .next t ∧ t.mem = s.mem ∧ t.dies = s.dies ∧ t.gigs = s.gigs ∧
          t.fw.health.cor = s.fw.health.cor ∧
          t.fw.health.unc.get b.unit 0 = Nat.min (s.fw.health.unc.get b.unit 0 + 1) 0xFFFFFFFF ∧
          (∀ n : Nat, n ≠ b.unit → t.fw.health.unc.get n 0 = s.fw.health.unc.get n 0) ∧
          (∃ e : BoxEntry, t.fw.rings = (e :: s.fw.rings).take 8192 ∧ e.num = s.fw.nextBox ∧ e.kind = boxEcc ∧ e.source = b) ∧
          (u = 9240 → t.bad = a :: s.bad ∧ t.pipes = s.pipes) ∧ (u ≠ 9240 → t.bad = s.bad) ∧
          (u < 1024 → ∀ g : Nat, t.pipe g = if g ≠ u % 512 then s.pipe g
            else if u < 512 then { s.pipe g with mem := { (s.pipe g).mem with bad := a :: (s.pipe g).mem.bad } }
            else { s.pipe g with mx := { (s.pipe g).mx with badRows := a :: (s.pipe g).mx.badRows } })))

/-- O41. HBM transfers are served, refused and landed, and errors are counted: all of Claims.ChannelsServe, Claims.TransfersLand,
Claims.ErrorsCounted. -/
def Obligations.HbmEventsPerform : Prop :=
  Claims.ChannelsServe ∧ Claims.TransfersLand ∧ Claims.ErrorsCounted

/-! ### Words between dies and packages (05 R168, R169; 09 R276, R280, R281; 22 R451, R452) -/

/-- A relay word that its sender's die now reaches is due at its receiver's die: within 6 cycles of skew, and before the receiver's own
cycle of landing, it is kept; else it has slipped, and its target detects LINK, in its running cycle or in its latest one, unless
it stands frozen. Words that are not due stay as they are. That the skew is judged as the sender begins the cycle of landing is the
model's reading (log 11) (09 R281). -/
def Claims.RelayWordsArrive : Prop :=
  ∀ (s : State) (d : Nat) (mine kept : RelayWord → Bool),
    (∀ w : RelayWord, mine w = true ↔ dieOfPipe w.src = d ∧ w.ta = s.now d ∧ w.judged = false ∧ w.slipped = false) →
    (∀ w : RelayWord, kept w = true ↔ -6 ≤ skew w.ta (s.now (dieOfPipe w.dst)) ∧ skew w.ta (s.now (dieOfPipe w.dst)) ≤ 6 ∧
      Tick.lt (s.now (dieOfPipe w.dst)) w.ta = true) →
    ∃ t : State, exec (.wordArrival d) s = .next t ∧ t.mem = s.mem ∧ t.dies = s.dies ∧
      t.words = s.words.map (fun w => if mine w then (if kept w then { w with judged := true } else { w with slipped := true }) else w) ∧
      ((∀ w ∈ s.words, mine w = true → kept w = true) → t.pipes = s.pipes ∧ t.parts = s.parts) ∧
      (∀ w ∈ s.words, mine w = true → kept w = false →
        (s.part (s.partOfPipe w.dst)).run.frozenDies.contains (dieOfPipe w.dst) = false →
        ((s.die (dieOfPipe w.dst)).work.contains (.endPipe w.dst) = true →
          ({ cause := 5, stream := 0, pc := 0, detail := 0,
             info := BitVec.ofInt 32 (skew w.ta (s.now (dieOfPipe w.dst))) } : Det) ∈ (t.pipe w.dst).cyc.dets) ∧
        ((s.die (dieOfPipe w.dst)).work.contains (.endPipe w.dst) = false → (t.pipe w.dst).detected.isSome = true))

/-- Whatever is on its way: every relay word for a pipeline whose landing cycle this is leaves the way, and enters tensor SRAM whole,
that of the lowest sender last, unless it meets a reserved bank or holds an uncorrectable error; a word that has slipped stays. That
such a LAYOVER_BANK slip names stream 0 and PC 0 is the model's choice (log 11) (05 R150, R151, R168, R169; 09 R281; 23 R463). -/
def Claims.RelayWordsLand : Prop :=
  ∀ (s : State) (g : Nat) (p : Pipe) (due : List RelayWord) (slips : RelayWord → List Det), p = s.pipe g →
    due = sortBy (fun a b => decide (b.src ≤ a.src))
      (s.words.filter (fun w => decide (w.dst = g) && s.landsNow w (s.now (dieOfPipe g)))) →
    (∀ w : RelayWord, slips w = s.bankSlips g 0 0 w.off 256 ++
      (if w.bad then [{ cause := 12, stream := 0, pc := 0, detail := 0, info := BitVec.ofNat 32 w.off }] else [])) →
    ∃ t : State, exec (.relayLanding g) s = .next t ∧ t.mem = s.mem ∧ t.dies = s.dies ∧
      t.words = s.words.filter (fun w => !(decide (w.dst = g) && s.landsNow w (s.now (dieOfPipe g)))) ∧
      (t.pipe g).mem.sram = (due.filter (fun w => (slips w).isEmpty)).foldl (fun m w => m.writeBytes w.off (toBytes 256 w.data.toNat))
        p.mem.sram ∧
      (t.pipe g).cyc.wr = p.cyc.wr + 256 * (due.filter (fun w => (slips w).isEmpty)).length ∧
      (t.pipe g).cyc.dets = p.cyc.dets ++ due.flatMap slips ∧ (t.pipe g).regs = p.regs ∧ (t.pipe g).q = p.q

/-- Where no boundary direction of the partition carries more words than TCH, no word overflows; where a window that ends now holds
more, the sender of the first beyond TCH detects TOKEN with detail 57 at its word (09 R276; 22 R443, R444). -/
def Claims.BoundariesJudged : Prop :=
  ∀ (s : State) (d k : Nat) (us : List ChanUse), k = (s.partOf d).getD 0 → us = (s.part k).dies.flatMap (fun e => (s.die e).chan) →
    ((∀ dir : Nat, (us.filter (fun u => decide (u.dir = dir))).length ≤ s.fw.tch.toNat) →
      ∃ t : State, exec (.boundaryChannelOverflow d) s = .next t ∧ t.pipes = s.pipes ∧ t.words = s.words ∧ t.mem = s.mem ∧
        t.parts = s.parts) ∧
    (∀ (u : ChanUse) (dir : Nat), (s.die d).chanDone + 1 = s.now d → s.sentUpTo k (s.now d) = s.now d →
      (windowUses us dir (s.now d))[s.fw.tch.toNat]? = some u → dieOfPipe u.g = d →
      ∃ t : State, exec (.boundaryChannelOverflow d) s = .next t ∧ t.words = s.words ∧ t.mem = s.mem ∧
        ({ cause := 3, stream := 3, pc := u.pc, detail := 57, info := 0 } : Det) ∈ (t.pipe u.g).cyc.dets)

/-- A link plan entry whose link joins a member reads in its cycles: it charges 256 bytes to its source's read port, or is a slip
where a bank is reserved or an uncorrectable error is met; any other cycle, entry or link reads nothing. A word that has come
over a link within its window lands in its cycle in its pipeline, or is such a slip; any other stays. That these slips name stream 0
and PC 0 is the model's choice (log 30) (22 R450 to R452). -/
def Claims.LinkPlanRuns : Prop :=
  ∀ (s : State) (k j g off : Nat),
    ((s.part k).run.links[j]? = none → exec (.linkPlanRead k j) s = .next s) ∧
    (∀ (e : List Word) (slips : List Det), (s.part k).run.links[j]? = some e → g = globalPipe (bitsOf (wordAt e 1) 31 0) →
      off = bitsOf (wordAt e 1) 31 0 % 2 ^ 23 → slips = s.bankSlips g 0 0 off 256 ++ s.eccSlips g 0 0 off 256 →
      (linkOcc e ((s.part k).run.tau (s.now (dieOfPipe g))) = false ∨ s.fw.lup.getLsbD (bitsOf (wordAt e 1) 34 32) = false →
        exec (.linkPlanRead k j) s = .next s) ∧
      (linkOcc e ((s.part k).run.tau (s.now (dieOfPipe g))) = true → s.fw.lup.getLsbD (bitsOf (wordAt e 1) 34 32) = true →
        exec (.linkPlanRead k j) s = .next (s.setPipe g
          (if slips = [] then (s.pipe g).charge 256 else (s.pipe g).detect slips)))) ∧
    (s.linkWords[j]? = none → exec (.linkPlanLanding k j) s = .next s) ∧
    (∀ (l : LinkWord) (slips : List Det), s.linkWords[j]? = some l → g = globalPipe l.dst → off = l.dst % 2 ^ 23 →
      slips = s.bankSlips g 0 0 off 256 ++
        (if l.bad then [{ cause := 12, stream := 0, pc := 0, detail := 0, info := BitVec.ofNat 32 off }] else []) →
      (l.ta ≠ s.now (dieOfPipe g) ∨ l.skew < -32 ∨ 32 < l.skew ∨ (s.part k).hasDie (dieOfPipe g) = false →
        exec (.linkPlanLanding k j) s = .next s) ∧
      (l.ta = s.now (dieOfPipe g) → -32 ≤ l.skew → l.skew ≤ 32 → (s.part k).hasDie (dieOfPipe g) = true →
        ∃ t : State, exec (.linkPlanLanding k j) s = .next t ∧ t.linkWords = s.linkWords.eraseIdx j ∧ t.mem = s.mem ∧
          (t.pipe g).regs = (s.pipe g).regs ∧ (t.pipe g).cyc.dets = (s.pipe g).cyc.dets ++ slips ∧
          (t.pipe g).mem.sram = if slips = [] then (s.pipe g).mem.sram.writeBytes off (toBytes 256 l.data.toNat)
            else (s.pipe g).mem.sram))

/-- A die receives the ATK that a die beside it carried 12 cycles ago, once there is one, and nothing else changes; from another die it
receives none; over a link that joins a member here it receives the other end's, a free value (log 30) (01 R32; 09 R280; 22 R447). -/
def Claims.SidebandArrives : Prop :=
  ∀ (s : State) (d n : Nat),
    (n < 16 → (s.die n).sent[11]? = none ∨ (neighbours d).contains n = false → exec (.sidebandAtk d n) s = .next s) ∧
    (∀ a : Tick, n < 16 → (neighbours d).contains n = true → (s.die n).sent[11]? = some a →
      exec (.sidebandAtk d n) s = .next (s.setDie d { s.die d with obs := (s.die d).obs.set n a })) ∧
    (16 ≤ n → (s.linksAt d).contains (n - 16) = false → exec (.sidebandAtk d n) s = .next s) ∧
    (16 ≤ n → (s.linksAt d).contains (n - 16) = true → ∃ (t : State) (a : Tick), exec (.sidebandAtk d n) s = .next t ∧
      (t.die d) = { s.die d with obs := (s.die d).obs.set n a } ∧ t.pipes = s.pipes ∧ t.mem = s.mem)

/-- O42. Words reach the dies and packages they are sent to: all of Claims.RelayWordsArrive, Claims.RelayWordsLand,
Claims.BoundariesJudged, Claims.LinkPlanRuns, Claims.SidebandArrives. -/
def Obligations.WordsArrive : Prop :=
  Claims.RelayWordsArrive ∧ Claims.RelayWordsLand ∧ Claims.BoundariesJudged ∧ Claims.LinkPlanRuns ∧ Claims.SidebandArrives

/-! ### What holds a die's cycle back (04 R124, R125; 10 R299 to R303; 25 R479 to R482) -/

/-- An alignment ends where no neighbour holds the die back, and slips at its limit, recorded by the pipeline of its ALIGN with the
limit; in any other state it goes on as it stands (04 R123 to R125; 09 R487). -/
def Claims.AlignmentsEnd : Prop :=
  ∀ (s : State) (d : Nat) (x : Die), x = s.die d →
    (x.align.isSome = true → s.nextKind d = .run → s.inStep d (x.atk + 1) = true →
      exec (.alignRelease d) s = .next (s.setDie d { x with align := none })) ∧
    (x.align = none ∨ s.nextKind d ≠ .run ∨ s.inStep d (x.atk + 1) = false → exec (.alignRelease d) s = .next s) ∧
    (x.align = none → exec (.alignSlip d) s = .next s) ∧
    (∀ a : AlignRec, x.align = some a →
      (s.nextKind d = .run → s.inStep d (x.atk + 1) = false → a.held = a.limit →
        ∃ t : State, exec (.alignSlip d) s = .next t ∧ t.die d = { x with align := none } ∧ t.mem = s.mem ∧
          (t.pipe a.pipe).regs = (s.pipe a.pipe).regs ∧ (t.pipe a.pipe).mem = (s.pipe a.pipe).mem ∧
          (t.pipe a.pipe).cyc.dets = (s.pipe a.pipe).cyc.dets ++
            [{ cause := 4, stream := 0, pc := a.pc, detail := 0, info := BitVec.ofNat 32 a.limit }]) ∧
      (s.nextKind d ≠ .run ∨ s.inStep d (x.atk + 1) = true ∨ a.held ≠ a.limit → exec (.alignSlip d) s = .next s))

/-- The first cycle that a brake holds, and the one past its limit, grow TICK and ABSORBED by one and the count of the hold; the one
past the limit is detected as BRAKE_LIMIT by the lowest pipeline of the layover that is past it; a hold that has lasted its time
is over. In any other state nothing changes (10 R300, R302; 09 R289, R487). -/
def Claims.BrakesHold : Prop :=
  ∀ (s : State) (d k : Nat) (x : Die) (n : Tick), x = s.die d → n = x.atk + 1 → k = (s.partOf d).getD 0 →
    (s.nextKind d = .brakeStart →
      ∃ t : State, exec (.brakeHoldStart d) s = .next t ∧ (t.die d).tick = x.tick + 1 ∧ (t.die d).absorbed = x.absorbed + 1 ∧
        (t.die d).atk = x.atk ∧ (t.die d).held = x.heldOf n + 1 ∧ (t.die d).heldAt = n ∧ t.pipes = s.pipes ∧ t.parts = s.parts) ∧
    (s.nextKind d ≠ .brakeStart → exec (.brakeHoldStart d) s = .next s) ∧
    (∀ isOver : Prop, (isOver ↔ x.heldAt = n ∧ x.held ≠ 0 ∧ s.brakeTotal k d n ≠ some none ∧
        (∀ m : Nat, s.brakeTotal k d n = some (some m) → m ≤ x.held) ∧
        (s.part k).run.frozenDies.contains d = false ∧ (s.part k).run.heldFreeze n x.held = none) →
      (isOver → exec (.brakeRelease d) s = .next (s.setDie d { x with holdDone := true })) ∧
      (¬ isOver → exec (.brakeRelease d) s = .next s)) ∧
    (∀ (w q : Nat) (l : LayDesc) (r : LayRec), s.nextKind d = .brakeLimit w → layOf (s.lays k) w = some l → x.layRec w = some r →
      (List.range 32).find? (fun i => l.pipes.getLsbD i) = some q →
      ∃ t : State, exec (.brakeLimit d) s = .next t ∧ (t.die d).tick = x.tick + 1 ∧ (t.die d).absorbed = x.absorbed + 1 ∧
        (t.die d).atk = x.atk ∧ (t.die d).heldAt = n ∧ (t.pipe (d * 32 + q)).detected.isSome = true ∧
        (t.pipe (d * 32 + q)).regs = (s.pipe (d * 32 + q)).regs ∧
        ((s.pipe (d * 32 + q)).cyc.dets = [] → (s.pipe (d * 32 + q)).detected = none →
          (t.pipe (d * 32 + q)).detected =
            some (n, { cause := 0xA, stream := 0, pc := r.closePc, detail := 0, info := BitVec.ofNat 32 w }))) ∧
    ((∀ w : Nat, s.nextKind d ≠ .brakeLimit w) → exec (.brakeLimit d) s = .next s)

/-- Every layover that has closed on the die and whose settle cycle is reached is settled and, with NSEN, its notice is sent to its
coach; every other stays as it is, and the post board is unchanged (10 R294, R295, R299, R303). A turnpike delay ends where the
STAGE's cycle runs; changes still on the hold line are then applied, the model's choice (log 31), so that TA and LB are those of the
last (25 R480, R482). -/
def Claims.SettlesAndDelaysEnd : Prop :=
  ∀ (s : State) (d : Nat) (x : Die) (ls : SMap LayDesc) (now : LayRec → LayDesc → Prop), x = s.die d →
    ls = s.lays ((s.partOf d).getD 0) →
    (∀ (r : LayRec) (e : LayDesc), now r e ↔ r.settled = false ∧ r.closed.isSome = true ∧ r.unsettled e x.atk = false) →
    (∃ t : State, exec (.layoverSettle d) s = .next t ∧ t.pipes = s.pipes ∧ t.mem = s.mem ∧ (t.die d).post = x.post ∧
      (∀ w : Nat, (∀ e ∈ ls, e.1 = w → ∀ r : LayRec, x.layRec w = some r → ¬ now r e.2) → (t.die d).layRec w = x.layRec w) ∧
      (∀ (w : Nat) (e : LayDesc) (r : LayRec), (w, e) ∈ ls → x.layRec w = some r → now r e →
        (t.die d).layRec w = some { r with settled := true } ∧
        (e.nsen = true → e.dies.getLsbD d = true →
          ({ kind := .notice, coach := e.ncoach, line := e.nsettle, lid := 0, src := 0, srcBar := 0 } : EvMsg) ∈ t.evs))) ∧
    (x.delay.isSome = true → s.nextKind d = .run →
      ∃ t : State, exec (.turnpikeDelayEnd d) s = .next t ∧ (t.die d).delay = none ∧ (t.die d).tick = x.tick ∧
        (t.die d).absorbed = x.absorbed ∧ (t.die d).changes = x.changes.filter (fun c => !c.2.1) ∧ t.pipes = s.pipes ∧ t.mem = s.mem ∧
        ((t.die d).ta, (t.die d).lb) = (((x.changes.filter (fun c => c.2.1)).map (fun c => c.2.2)).getLast?).getD (x.ta, x.lb)) ∧
    (x.delay = none ∨ s.nextKind d ≠ .run → exec (.turnpikeDelayEnd d) s = .next s)

/-- Where a complex is active firmware's change of the allowances takes effect at once on a die of no partition, and is sent once to
every die of a partition, with an effective ATK at least 64 cycles ahead of the ATK of its first die, or, in a turnpike delay, for
held cycle h + 31; the cap is at most 2,800 W, and at 2,800 W every die of no partition has 60 W and 256 MiB. Without an active
complex no allowance changes (24 R469; 25 R479, R480). -/
def Claims.AllowancesChange : Prop :=
  ∀ (s : State) (d ta lb watts : Nat),
    (s.fw.active = false → exec (.allowanceChange d ta lb) s = .next s ∧
      exec (.powerCap watts) s = .next { s with fw := { s.fw with capWatts := Nat.min watts 2800 } }) ∧
    (s.fw.active = true → s.partOf d = none →
      exec (.allowanceChange d ta lb) s = .next (s.setDie d { s.die d with ta := ta, lb := lb })) ∧
    (∀ (k : Nat) (x : Die), s.fw.active = true → s.partOf d = some k → x = s.die ((s.part k).dies.headD 0) →
      ∃ (t : State) (c : Tick × Bool × Nat × Nat), exec (.allowanceChange d ta lb) s = .next t ∧ c.2.2 = (ta, lb) ∧
        (x.delay = none → c.2.1 = false ∧ ∃ n : Nat, n < 2 ^ 62 ∧ c.1 = x.atk + 64 + BitVec.ofNat 64 n) ∧
        (∀ h : Nat, x.delay = some h → c.2.1 = true ∧ c.1 = BitVec.ofNat 64 (h + 31)) ∧
        (∀ e : Nat, (t.die e).changes = (s.die e).changes ++ List.replicate ((s.part k).dies.count e) c ∧
          (t.die e).ta = (s.die e).ta ∧ (t.die e).lb = (s.die e).lb) ∧ t.pipes = s.pipes ∧ t.mem = s.mem) ∧
    (∃ t : State, exec (.powerCap watts) s = .next t ∧ t.fw.capWatts = Nat.min watts 2800 ∧ t.mem = s.mem ∧ t.pipes = s.pipes ∧
      (s.fw.active = true → 2800 ≤ watts → ∀ e, e < 16 → s.partOf e = none → (t.die e).ta = 60 ∧ (t.die e).lb = 268435456))

/-- O43. Alignments, brakes, settles and turnpike delays end, and allowances change: all of Claims.AlignmentsEnd,
Claims.BrakesHold, Claims.SettlesAndDelaysEnd, Claims.AllowancesChange. -/
def Obligations.HoldsEnd : Prop :=
  Claims.AlignmentsEnd ∧ Claims.BrakesHold ∧ Claims.SettlesAndDelaysEnd ∧ Claims.AllowancesChange

/-! ### The launch of the timed plane, its freeze and its restart (16 R366; 19 R405, R411, R413, R414; 22 R449, R453, R455) -/

/-- A die of a loading or running launch that runs the cycle carrying ATK0 starts every stream of its pipelines, with its boards and
layovers empty; where no die reaches that cycle nothing changes (03 R72; 10 R306; 16 R366). -/
def Claims.DiesStart : Prop :=
  ∀ (s : State) (k : Nat) (x : Partition) (r : TimedRun), x = s.part k → r = x.run →
    (∀ d : Nat, (r.phase = .loading ∨ r.phase = .running) → d ∈ x.dies → s.now d = r.atk0 → r.started.contains d = false →
      ∃ t : State, exec (.timedGlobalStart k) s = .next t ∧ (t.part k).run.phase = .running ∧ d ∈ (t.part k).run.started ∧
        t.mem = s.mem ∧ (t.die d).post = [] ∧ (t.die d).lays = [] ∧ (t.die d).holders = [] ∧ (t.die d).tick = (s.die d).tick ∧
        (∀ g ∈ pipesOfDie d, (t.pipe g).c.run = true ∧ (t.pipe g).l.run = true ∧ (t.pipe g).x.run = true ∧ (t.pipe g).s.run = true ∧
          (t.pipe g).c.next = r.atk0 ∧ (t.pipe g).l.next = r.atk0 ∧ (t.pipe g).x.next = r.atk0 ∧ (t.pipe g).s.next = r.atk0 ∧
          (t.pipe g).c.pc = (s.pipe g).c.pc ∧ (t.pipe g).mem = (s.pipe g).mem ∧ (t.pipe g).regs = (s.pipe g).regs)) ∧
    ((r.phase ≠ .loading ∧ r.phase ≠ .running) ∨ (∀ d ∈ x.dies, s.now d ≠ r.atk0 ∨ r.started.contains d = true) →
      exec (.timedGlobalStart k) s = .next s)

/-- A freeze that every die of a running launch has reached stops the launch, with FAULT_INFO in every pipeline and nothing left in
flight; the notice of a frozen launch goes to the supervising chain, or ends the launch; in any other state nothing changes (09
R288; 19 R405, R413). -/
def Claims.FreezesTakeEffect : Prop :=
  ∀ (s : State) (k : Nat) (x : Partition) (r : TimedRun), x = s.part k → r = x.run →
    (r.phase = .running → s.allFrozen k = true →
      ∃ t : State, exec (.freezeTakesEffect k) s = .next t ∧
        ((t.part k).run.phase = .frozen ∨ (t.part k).run.phase = .complete) ∧
        (∀ g ∈ x.pipes, (t.pipe g).fly.res = [] ∧ (t.pipe g).fly.writes = [] ∧ (t.pipe g).fly.hbm = [] ∧
          ((s.pipe g).detected.isSome = true → (t.pipe g).csr.faultInfo = (s.pipe g).csr.faultInfo) ∧
          (∀ q e, r.first = some (q, e) → (s.pipe g).detected = none → (t.pipe g).csr.faultInfo = BitVec.ofNat 64 e.cause))) ∧
    (r.phase ≠ .running ∨ s.allFrozen k = false → exec (.freezeTakesEffect k) s = .next s) ∧
    (r.phase = .frozen → r.notice = true →
      (∀ (i t0 c y : Nat), s.chainFrom r.sup 0 = some (i, t0) → c = coachOf t0 → s.homeOf t0 = some y →
        ∃ t : State, exec (.freezeNotice k) s = .next t ∧ (t.part k).run = { r with notice := false } ∧ t.mem = s.mem ∧
          ((t.ctx c y).threads.get (localOf t0) {}).ext = ((s.ctx c y).threads.get (localOf t0) {}).ext ++ [s.firstInfo k]) ∧
      (s.chainFrom r.sup 0 = none →
        ∃ t : State, exec (.freezeNotice k) s = .next t ∧ (t.part k).run.phase = .complete)) ∧
    (r.phase ≠ .frozen ∨ r.notice = false → exec (.freezeNotice k) s = .next s)

/-- A TFREEZE that waits at the supervising coach reaches its partition: it is taken up by a running or restarting launch and gives 0;
it gives 1 at a frozen one and 0 at any other, which it leaves as it is; where none waits nothing changes (08 R259; 19 R414). -/
def Claims.FreezeRequestsArrive : Prop :=
  ∀ (s : State) (k : Nat) (r : TimedRun) (ps : List (Nat × Access)), r = (s.part k).run →
    ps = s.planeOps r.sup (fun o => match o with | .tfreeze _ => true | _ => false) →
    (ps = [] → exec (.extRequestArrival k) s = .next s) ∧
    (ps ≠ [] → ∃ (t : State) (t0 : Nat) (a : Access) (g : Bool), (t0, a) ∈ ps ∧ a.op = .tfreeze g ∧
      exec (.extRequestArrival k) s = .next t ∧ t.pipes = s.pipes ∧ t.mem = s.mem ∧
      t.thread t0 = (s.thread t0).complete a (if r.phase = .frozen then 1 else 0) ∧
      (r.phase = .running ∨ r.phase = .restarting →
        (t.part k).run = { r with ext := r.ext ++ [{ who := t0, stg := g, arrived := true }] }) ∧
      (r.phase ≠ .running → r.phase ≠ .restarting → t.parts = s.parts))

/-- A freeze notice that reaches a running member of a domain, none of whose dies is frozen, is an EXT cause of position 0 with the
number of a package: in this cycle, or, where a hold delays the next one, in the first that runs; any other notice changes
nothing. The domain forms only with no launch running and extents that its links allow: then every die agrees with one ATK
within 6 cycles, and nothing else changes (09 R289; 22 R446, R449, R453). -/
def Claims.DomainsFormAndFreeze : Prop :=
  ∀ (s : State) (k n d : Nat) (x : Partition) (w : Word) (ext : Nat → Nat) (up : BitVec 6), x = s.part k → d = x.dies.headD 0 →
    w = BitVec.ofNat 64 n → (∀ i : Nat, ext i = bitsOf w (19 + 2 * i) (18 + 2 * i)) →
    (∀ l : Nat, l < 6 → up.getLsbD l = (w.getLsbD (6 + l) && linkMay (ext (l % 3)) (bitsOf w 17 12 / 4 ^ (l % 3) % 4) l)) →
    (x.run.phase = .running → s.fw.inDomain = true → x.run.frozenDies = [] →
      ∃ (t : State) (m : Nat), exec (.linkFreezeNotice k) s = .next t ∧ m < 64 ∧ t.mem = s.mem ∧
        ((s.die d).inHold.isSome = true → t.pipes = s.pipes ∧ (t.part k).run =
          { x.run with ext := x.run.ext ++ [{ who := 0xFFFFF000 + m, stg := false, arrived := true }] }) ∧
        ((s.die d).inHold = none → (s.die d).work.contains (.endPipe (d * 32)) = true →
          (t.pipe (d * 32)).cyc.dets = (s.pipe (d * 32)).cyc.dets ++
            [{ cause := 0xE, stream := 0, pc := 0, detail := 0, info := BitVec.ofNat 32 (0xFFFFF000 + m) }]) ∧
        ((s.die d).inHold = none → (s.die d).work.contains (.endPipe (d * 32)) = false →
          (t.pipe (d * 32)).detected.isSome = true)) ∧
    (x.run.phase ≠ .running ∨ s.fw.inDomain = false ∨ x.run.frozenDies ≠ [] → exec (.linkFreezeNotice k) s = .next s) ∧
    (s.diesBusy (List.range 16) = true ∨ (∃ i : Nat, i < 3 ∧ dimOk up (ext i) i = false) → exec (.domainFormation n) s = .next s) ∧
    (s.diesBusy (List.range 16) = false → (∀ i : Nat, i < 3 → dimOk up (ext i) i = true) →
      ∃ (t : State) (a : Tick), exec (.domainFormation n) s = .next t ∧ t.fw.dx.toNat = ext 0 ∧ t.fw.dy.toNat = ext 1 ∧
        t.fw.dz.toNat = ext 2 ∧ t.fw.pkg.toNat = bitsOf w 17 12 ∧ t.fw.lup = up ∧ t.pipes = s.pipes ∧ t.mem = s.mem ∧
        (∀ e : Nat, (t.die e).tick = (s.die e).tick) ∧
        (∀ e : Nat, e < 16 → ∃ j : Nat, j ≤ 6 ∧ (t.die e).absorbed = (s.die e).tick - (a + BitVec.ofNat 64 j)))

/-- The cycle carrying fe ends the restart of its die: the die leaves the frozen ones, and with the last of them the launch runs; the
cycle in which it came to stand there was one that does not run. A brake whose hold is under way and of which no post is missing is
released 32 cycles later; a post taken in the freeze before the hold began releases its brake as if the frozen time had not passed;
every other brake stays as it is. Elsewhere nothing changes (09 R268; 10 R300, R305; 19 R411). -/
def Claims.DiesRestart : Prop :=
  ∀ (s : State) (d k : Nat) (x : Die) (r : TimedRun), x = s.die d → k = (s.partOf d).getD 0 → r = (s.part k).run →
    (x.restart ≠ some 0 → exec (.restart d) s = .next s) ∧
    (x.restart = some 0 →
      ∃ t : State, exec (.restart d) s = .next t ∧ t.pipes = s.pipes ∧ t.mem = s.mem ∧
        t.die d = { x with restart := none, atFe := false, absorbed := if x.atFe then x.absorbed + 1 else x.absorbed,
                           lays := (t.die d).lays } ∧
        (∀ (w : Nat) (l : LayRec) (y : Die), x.layRec w = some l →
          y = { x with restart := none, atFe := false, absorbed := if x.atFe then x.absorbed + 1 else x.absorbed } →
          (t.die d).layRec w = some
            (if y.underHold l = true then
              { l with releaseAt := l.releaseAt.map (fun _ => y.axis + 1), waits := false, overAt := none }
            else if l.waits = true then
              { l with releaseAt := l.releaseAt.map (fun a => a - (x.tick - x.feTick) - (if x.atFe then 1 else 0)), waits := false,
                       overAt := some (y.axis + 1) }
            else l)) ∧
        (t.part k).run = { r with frozenDies := r.frozenDies.filter (fun e => !(e == d)), phase := (t.part k).run.phase } ∧
        ((t.part k).run.phase =
          if (t.part k).run.frozenDies = [] ∧ r.phase = .restarting then .running else r.phase))

/-- O44. Dies start, freeze and restart, and domains form: all of Claims.DiesStart, Claims.FreezesTakeEffect,
Claims.FreezeRequestsArrive, Claims.DomainsFormAndFreeze, Claims.DiesRestart. -/
def Obligations.TimedLaunchEvents : Prop :=
  Claims.DiesStart ∧ Claims.FreezesTakeEffect ∧ Claims.FreezeRequestsArrive ∧ Claims.DomainsFormAndFreeze ∧ Claims.DiesRestart

/-- What comes of a resume of partition `k` whose catch-up leaves the state `c`: with no fault a restart, with one a new freeze, or the
end (19 R411, R413). -/
def Claims.restarted (c t : State) (k : Nat) (x : Partition) : Prop :=
  ((∀ g ∈ x.pipes, (c.pipe g).cyc.dets = []) → (t.part k).run.phase = .restarting ∧ (t.part k).run.fe = none ∧
    (∀ d ∈ x.dies, (t.die d).restart = some 31) ∧ ∀ g : Nat, t.pipe g = c.pipe g) ∧
  ((∃ g ∈ x.pipes, (c.pipe g).cyc.dets ≠ []) → ((t.part k).run.phase = .frozen ∨ (t.part k).run.phase = .complete) ∧
    ∀ g ∈ x.pipes, (c.pipe g).cyc.dets ≠ [] → (t.pipe g).csr.faultInfo.getLsbD 9 = true)

/-- A TRESUME that waits at the supervising coach performs: at a partition that is not frozen it gives 1 and changes nothing there; of
a frozen launch whose first frame can be read it gives 2 where the frame's action is reserved, ends the launch where it is ABORT,
and else loads the frames and lets the stopped streams catch up: where no pipeline then has a fault every die restarts 32 TICKs on,
with the pipelines as the catch-up leaves them and no freeze left; where one has, it records it with LOCAL = 1 and the launch is
frozen again, or ends where its frames cannot be written or no chain supervises it. Frames that cannot be read end it (19 R411,
R413; 23 R463). -/
def Claims.Resumes : Prop :=
  ∀ (s : State) (k : Nat) (x : Partition) (ps : List (Nat × Access)), x = s.part k →
    ps = s.planeOps x.run.sup (fun o => match o with | .tresume => true | _ => false) →
    (ps = [] → exec (.tresumePerform k) s = .next s) ∧
    (ps ≠ [] → ∃ (t : State) (t0 : Nat) (a : Access), (t0, a) ∈ ps ∧ exec (.tresumePerform k) s = .next t ∧
      (x.run.phase ≠ .frozen → t.parts = s.parts ∧ t.pipes = s.pipes ∧ t.mem = s.mem ∧ t.thread t0 = (s.thread t0).complete a 1) ∧
      (∀ va : Nat, x.run.phase = .frozen → s.readFrame k 0 [(0, 64)] = .error va → (t.part k).run.phase = .complete) ∧
      (∀ (bl : List (Nat × List Byte)) (act : Nat), x.run.phase = .frozen → s.readFrame k 0 [(0, 64)] = .ok bl →
        act = bitsOf (wordAt (wordsOf (blockAt bl 0)) 5) 1 0 →
        (2 ≤ act → t.parts = s.parts ∧ t.pipes = s.pipes ∧ t.mem = s.mem ∧ t.thread t0 = (s.thread t0).complete a 2) ∧
        (act = 1 → (t.part k).run.phase = .complete) ∧
        (act = 0 → ∀ va : Nat, s.readFrames k x.places = .error va → (t.part k).run.phase = .complete) ∧
        (act = 0 → ∀ (fr : List (Nat × Nat × List (Nat × List Byte))) (c : State), s.readFrames k x.places = .ok fr →
          c = s.drawn.caughtUp k fr → Claims.restarted c t k x)))

/-- A notice that another member of the domain restarts, or aborts, reaches a frozen or running launch; which of the two is a free
value (log 30). One of an abort ends it; one of a restart leaves a running launch as it is, and a frozen one does what TRESUME does
there: it ends, or stays frozen, as its first frame says, or loads its frames and catches up, and then restarts or freezes again.
Outside a domain, and for any other launch, nothing changes (19 R411; 22 R455). -/
def Claims.RestartNotices : Prop :=
  ∀ (s : State) (k : Nat) (r : TimedRun), r = (s.part k).run →
    (s.fw.inDomain = false ∨ (r.phase ≠ .frozen ∧ r.phase ≠ .running) → exec (.linkRestartNotice k) s = .next s) ∧
    (∀ abort : Prop, (abort ↔ s.freeVal % 2 ≠ 0) → s.fw.inDomain = true → (r.phase = .frozen ∨ r.phase = .running) →
      ∃ t : State, exec (.linkRestartNotice k) s = .next t ∧
      (abort → (t.part k).run.phase = .complete) ∧
      (¬ abort → r.phase = .running → t.parts = s.parts ∧ t.pipes = s.pipes ∧ t.dies = s.dies ∧ t.mem = s.mem) ∧
      (¬ abort → r.phase = .frozen →
        (∀ va : Nat, s.readFrame k 0 [(0, 64)] = .error va → (t.part k).run.phase = .complete) ∧
        (∀ (bl : List (Nat × List Byte)) (act : Nat), s.readFrame k 0 [(0, 64)] = .ok bl →
          act = bitsOf (wordAt (wordsOf (blockAt bl 0)) 5) 1 0 →
          (2 ≤ act → t.parts = s.parts ∧ t.pipes = s.pipes ∧ t.dies = s.dies ∧ t.mem = s.mem) ∧
          (act = 1 → (t.part k).run.phase = .complete) ∧
          (act = 0 → ∀ va : Nat, s.readFrames k (s.part k).places = .error va → (t.part k).run.phase = .complete) ∧
          (act = 0 → ∀ (fr : List (Nat × Nat × List (Nat × List Byte))) (c : State), s.readFrames k (s.part k).places = .ok fr →
            c = State.caughtUp { s with free := s.free + 2 } k fr → Claims.restarted c t k (s.part k)))))

/-! ### Posts and interrupts (10 R297, R298; 19 R413) -/

/-- What a post of `v` for layover `w` and slot `i` does on die `d`, and the code it gives: 0 on time, 1 pending, 2 late, 3 refused (08
R258; 10 R297). -/
def Claims.posted (x y : Die) (ls : SMap LayDesc) (d w i : Nat) (v : Word) (code : Nat) : Prop :=
  (∀ n : Nat, n ≠ i → y.post.get n {} = x.post.get n {}) ∧
  ((∀ l : LayDesc, layOf ls w = some l → l.dies.getLsbD d = false ∨ l.slots.getLsbD i = false) → code = 3 ∧ y = x) ∧
  (∀ l : LayDesc, layOf ls w = some l → l.dies.getLsbD d = true → l.slots.getLsbD i = true →
    ∀ (open_ brakes late : Prop),
      (open_ ↔ ∃ r : LayRec, x.layRec w = some r ∧ x.isOpen x.atk w = true ∧ r.judged = false) →
      (brakes ↔ ¬ open_ ∧ ∃ r : LayRec, x.layRec w = some r ∧ r.braking = true ∧ (x.post.get i {}).v = false) →
      (late ↔ ¬ open_ ∧ ¬ brakes ∧ ∃ r : LayRec, x.layRec w = some r ∧ r.unsettled l x.atk = true) →
      (open_ → (x.post.get i {}).v = true → (x.post.get i {}).lid = w → code = 3 ∧ y = x) ∧
      (open_ → ((x.post.get i {}).v = false ∨ (x.post.get i {}).lid ≠ w) → code = 0 ∧
        y.post.get i {} = { x.post.get i {} with value := v, v := true, lid := w } ∧ y.holders = x.holders) ∧
      (brakes → code = 2 ∧ y.holders = x.holders ∧
        y.post.get i {} = { x.post.get i {} with value := v, v := true, late := true, lid := w }) ∧
      (late → code = 2 ∧ y = x) ∧
      (¬ open_ → ¬ brakes → ¬ late → y.post = x.post ∧
        ((x.holders.find? (fun e => e.1 == i)).isSome = true → code = 3 ∧ y = x) ∧
        ((x.holders.find? (fun e => e.1 == i)) = none → code = 1 ∧ y.holders = x.holders.set i (v, w))))

/-- A post of a thread that may go on its way, one of them if there are several, reaches its board: it does what R297 says and its
thread gets the code; but it waits while the C words of the cycle have not all issued, or where a thread of a higher number has
posted to the slot in the cycle; without such a post nothing changes (10 R297, R298). -/
def Claims.PostsArrive : Prop :=
  ∀ (s : State) (t0 : Nat) (ps : List Access),
    ps = (s.thread t0).accs.filter (fun a => (match a.op with | .post .. => true | _ => false) && (s.thread t0).postable a) →
    (ps = [] → exec (.postArrival t0) s = .next s) ∧
    (ps ≠ [] → ∃ (t : State) (a : Access) (die w i : Nat) (v : Word), a ∈ ps ∧ a.op = .post die w i v ∧
      exec (.postArrival t0) s = .next t ∧ t.mem = s.mem ∧ t.pipes = s.pipes ∧
      ((s.die die).mayPost t0 i = false → t.dies = s.dies ∧ t.thread t0 = s.thread t0) ∧
      ((s.die die).mayPost t0 i = true → ∃ (y : Die) (code : Nat),
        Claims.posted (s.die die) y (s.lays (s.partOfThread t0)) die w i v code ∧
        (t.die die).post = y.post ∧ (t.die die).holders = y.holders ∧
        t.thread t0 = (s.thread t0).complete a (BitVec.ofNat 64 code)))

/-- A pending EXT_INT is taken at an instruction boundary with XIE = 1 and INH = 0: it traps with its word in TVALUE; elsewhere it
waits (08 R226; 19 R413). -/
def Claims.InterruptsTaken : Prop :=
  ∀ (s : State) (t0 : Nat) (th : Thread), th = s.thread t0 →
    (th.ext = [] ∨ th.free t0 = false ∨ th.trap.xie = false ∨ th.trap.inh = true → exec (.extIntTaken t0) s = .next s) ∧
    (∀ (v : Word) (rest : List Word), th.ext = v :: rest → th.free t0 = true → th.trap.xie = true → th.trap.inh = false →
      ∃ t : State, exec (.extIntTaken t0) s = .next t ∧ t.thread t0 = { th with
        ext := rest, pc := th.trap.tvec.toNat * 4, level := true,
        trap := { th.trap with tcause := 0x12, tvalue := v, tpc := BitVec.ofNat 64 th.pc, sub := 0, hops := 0, pprv := th.level,
                               inh := true } })

/-- O45. TRESUME restarts a frozen launch, posts reach a layover, interrupts are taken: all of Claims.Resumes,
Claims.RestartNotices, Claims.PostsArrive, Claims.InterruptsTaken. -/
def Obligations.ResumePerforms : Prop :=
  Claims.Resumes ∧ Claims.RestartNotices ∧ Claims.PostsArrive ∧ Claims.InterruptsTaken

/-! ### Launches and contexts (11 R309 to R315; 16 R370; 19 R416 to R423) -/

/-- One of the wakes on their way to a coach reaches it: the launch's time starts with its first, and the launch waits at the coach,
or, where nothing runs and the scheduler prefers it, its context runs. Where no context runs and the scheduler prefers a waiting
launch that may start, its context starts in the lowest slot: threads at ENTRY with registers zero, no message, arrival, mutex or
line, and every region that an exited group has left reads zero; else nothing changes (11 R307, R309, R312; 16 R370; 19 R416, R417).
-/
def Claims.ContextsStart : Prop :=
  ∀ (s : State) (c : Nat),
    (s.wakesFor c = [] → exec (.wake c) s = .next s) ∧
    (s.wakesFor c ≠ [] → ∃ (t : State) (lid : Nat), lid ∈ s.wakesFor c ∧ exec (.wake c) s = .next t ∧ t.pipes = s.pipes ∧
      (∀ x : Nat, (s.coach c).run = some x → (t.coach c).run = some x ∧ (t.coach c).waiting = (s.coach c).waiting ++ [lid] ∧
        ∀ l : Launch, s.launch lid = some l → ∃ ev : SMap (BitVec 32), t.launch lid = some { l with
          wakes := l.wakes.filter (fun w => !(w == c)), evinit := ev
          began := some (l.began.getD ((s.die (dieOfCoach (hFcoach l.header))).gigCycle)) }) ∧
      ((t.coach c).waiting.contains lid = true ∨ ∃ x : Nat, (t.coach c).run = some x ∧ (t.ctx c x).lid = lid)) ∧
    (s.best (s.ready c) = none → exec (.contextStart c) s = .next s) ∧
    (∀ lid : Nat, s.best (s.ready c) = some lid →
      ((s.coach c).waiting.contains lid = false ∨ (s.coach c).run.isSome = true ∨ s.mayStart c lid = false →
        exec (.contextStart c) s = .next s) ∧
      (∀ (x : Nat) (h : List Word), h = s.header lid → (s.coach c).waiting.contains lid = true → (s.coach c).run = none →
        s.mayStart c lid = true → (s.coach c).freeSlot = some x →
        ∃ t : State, exec (.contextStart c) s = .next t ∧ (t.coach c).run = some x ∧ (t.ctx c x).lid = lid ∧
          (t.ctx c x).state = .running ∧ (t.coach c).waiting.contains lid = false ∧ (t.ctx c x).mutex = [] ∧
          (t.ctx c x).lines = 0 ∧ (t.ctx c x).arrivals = [] ∧ (t.ctx c x).exited = 0 ∧
          (∀ e ∈ (t.ctx c x).threads, e.2.pc = hEntry h ∧ e.2.regs = [] ∧ e.2.level = false ∧ e.2.inbox = [] ∧ e.2.pend = [] ∧
            e.2.trap.tvec.toNat = hTrapvec h / 4 % 2 ^ 47) ∧
          (∀ r : Nat, r < 8 → (t.gig (c * 8 + r)).stale = [] ∧ ∀ e ∈ (s.gig (c * 8 + r)).stale, ∀ o : Nat,
            e.1 ≤ o → o < e.1 + e.2 → (t.gig (c * 8 + r)).sp.read o = 0)))

/-- Where a group of a coach has nothing left to do the gig cycle ends, and the group exits: it is marked so, or its context has left
the coach, and its region is to be zeroed, or reads zero; no byte of a scratchpad changes but to zero. Else nothing changes. A
started launch of which nothing is left completes: its parent has one child less, its line is told to its coach, and its packet
gets its outcome; any other goes on (11 R310 to R312, R315; 16 R360; 19 R423). -/
def Claims.GroupsAndLaunchesEnd : Prop :=
  ∀ (s : State) (c : Nat),
    ((∀ e ∈ (s.coach c).ctxs, ∀ r : Nat, r < 8 → e.2.groupDone (s.coach c).cards r = false) → exec (.groupExit c) s = .next s) ∧
    (∀ (x r : Nat) (h : List Word), SMap.wf s.coaches = true → SMap.wf (s.coach c).ctxs = true → r < 8 →
      (x, s.ctx c x) ∈ (s.coach c).ctxs → (s.ctx c x).groupDone (s.coach c).cards r = true → h = s.header (s.ctx c x).lid →
      s.cycle (dieOfCoach c) ≠ BitVec.allOnes 64 →
      ∃ t : State, exec (.groupExit c) s = .next t ∧ (t.die (dieOfCoach c)).gigCycle = s.cycle (dieOfCoach c) + 1 ∧
        t.pipes = s.pipes ∧ ((t.ctx c x).exited.getLsbD r = true ∨ (t.coach c).run ≠ some x) ∧
        ((hSpbase h, hSplen h) ∈ (t.gig (c * 8 + r)).stale ∨
          ∀ o : Nat, hSpbase h ≤ o → o < hSpbase h + hSplen h → (t.gig (c * 8 + r)).sp.read o = 0) ∧
        (∀ g o : Nat, (t.gig g).sp.read o = (s.gig g).sp.read o ∨ (t.gig g).sp.read o = 0)) ∧
    (∀ lid : Nat,
      (s.launch lid = none → exec (.dynLaunchComplete lid) s = .next s) ∧
      (∀ l : Launch, s.launch lid = some l →
        (l.phase ≠ .started ∨ s.launchLeft lid l = false → exec (.dynLaunchComplete lid) s = .next s) ∧
        (l.phase = .started → s.launchLeft lid l = true →
          ∃ t : State, exec (.dynLaunchComplete lid) s = .next t ∧ (t.launch lid).map (fun q => q.phase) = some .complete ∧
            t.mem = s.mem ∧ t.coaches = s.coaches ∧
            (∀ (p : Nat) (q : Launch), l.parent = some p → p ≠ lid → s.launch p = some q →
              t.launch p = some { q with kids := q.kids - 1 }) ∧
            t.evs = s.evs ++ (if hCdv l.header then
              [{ kind := .completion, coach := hCdcoach l.header, line := hCdline l.header, lid := lid, src := hFcoach l.header,
                 srcBar := 0 }] else []) ∧
            (∀ (j : Nat) (q : Job), l.job = some j → s.job j = some q →
              t.job j = some { q with phase := .completed, status := if l.killed.isSome then .aborted else .done, reason := 0,
                                      detail := l.killed.getD 0, lid := lid, flags := l.flags.toNat,
                                      span := (s.die (dieOfCoach (hFcoach l.header))).gigCycle - l.began.getD 0 }))))

/-- At the end of the slice of a running context that is not leaving (`u` in its gig cycle, `v` with an error in KILL's place counted,
log 90): with KILL set the context ends; where its threads have had their time after the SLICE trap, or another of at least its
priority waits and no thread asks for the trap, it begins to leave; where threads do, they trap first, with one more slice; else a
new slice begins. Any other goes on (19 R418, R419, R423). -/
def Claims.SlicesEnd : Prop :=
  ∀ (s : State) (c : Nat),
    ((s.coach c).run = none → exec (.sliceExpiry c) s = .next s) ∧
    (∀ x : Nat, (s.coach c).run = some x → ((s.ctx c x).leaving = true ∨ (s.ctx c x).state ≠ .running) →
      exec (.sliceExpiry c) s = .next s) ∧
    (∀ (x : Nat) (at_ : Word) (u : State), (s.coach c).run = some x → (s.ctx c x).leaving = false → (s.ctx c x).state = .running →
      at_ = (s.ctx c x).sliceLimit.getD (s.ctx c x).sliceEnd →
      u = (if (s.cycle (dieOfCoach c)).toNat < at_.toNat then s.gigTime (dieOfCoach c) at_ else s) →
      (∀ code : Word, u.killWord c x = some code →
        ∃ t : State, exec (.sliceExpiry c) s = .next t ∧ (t.ctx c x).state = .ended ∧ t.pipes = s.pipes) ∧
      (∀ v : State, u.killWord c x = none → v = u.countTable [u.ctxBase c x + 8] →
        ((s.ctx c x).sliceLimit.isSome = true ∨ (v.waits c true = true ∧ (v.ctx c x).sliceTrapped c = []) →
          exec (.sliceExpiry c) s = .next (match (v.coach c).run with
            | some y => v.onCtx c y (fun k => { k with leaving := true })
            | none => v)) ∧
        ((s.ctx c x).sliceLimit = none → v.waits c true = false →
          ∃ t : State, exec (.sliceExpiry c) s = .next t ∧ (t.coach c).run = (v.coach c).run ∧
            (t.ctx c x).leaving = (v.ctx c x).leaving ∧ (t.ctx c x).sliceLimit = none ∧
            (t.ctx c x).sliceEnd = (t.die (dieOfCoach c)).gigCycle + BitVec.ofNat 64 (t.ctx c x).slice) ∧
        ((s.ctx c x).sliceLimit = none → v.waits c true = true → (v.coach c).run = some x → (v.ctx c x).sliceTrapped c ≠ [] →
          ((v.ctx c x).sliceTrapped c).Nodup → (∀ n ∈ (v.ctx c x).sliceTrapped c, n < 32 ∧ (v.thread (c * 32 + n)).trap.inh = false) →
          ∃ t : State, exec (.sliceExpiry c) s = .next t ∧ (t.ctx c x).sliced = (v.ctx c x).sliceTrapped c ∧
            (t.ctx c x).sliceLimit = some (at_ + BitVec.ofNat 64 (s.ctx c x).slice) ∧
            (∀ n ∈ (v.ctx c x).sliceTrapped c, (t.thread (c * 32 + n)).trap.tcause = 0x11 ∧
              (t.thread (c * 32 + n)).trap.tpc = BitVec.ofNat 64 (v.thread (c * 32 + n)).pc ∧
              (t.thread (c * 32 + n)).trap.inh = true ∧ (t.thread (c * 32 + n)).level = true))))

/-- A context of lower priority than one that waits begins to leave; once drained it is switched out, its queued messages in its inbox.
Where no context runs and the scheduler prefers one that is switched out, it runs again with the event lines and the rounding
mode and TSCRATCH of its threads as its save area holds them (the lines at offset 0x1C0, the model's choice, log 51), or ends where
KILL is set. One with a parity error, or a damaged save area, ends, the model's choice (log 90). Else nothing changes (19 R417, R419
to R423; 23 R463). -/
def Claims.ContextsSwitch : Prop :=
  ∀ (s : State) (c : Nat),
    ((s.coach c).run = none → exec (.switchOut c) s = .next s) ∧
    (∀ (x : Nat) (leaves : Bool), (s.coach c).run = some x → leaves = ((s.ctx c x).leaving || s.waits c false) →
      (leaves = false → exec (.switchOut c) s = .next s) ∧
      (leaves = true → (s.ctx c x).state ≠ .running ∨ s.drained c x = false →
        ∃ t : State, exec (.switchOut c) s = .next t ∧ (t.coach c).run = some x ∧ (t.ctx c x).leaving = true ∧ t.mem = s.mem) ∧
      (leaves = true → (s.ctx c x).state = .running → s.drained c x = true → (s.ctx c x).damaged = true →
        ∃ t : State, exec (.switchOut c) s = .next t ∧ (t.ctx c x).state = .ended ∧ t.pipes = s.pipes) ∧
      (leaves = true → (s.ctx c x).state = .running → s.drained c x = true → (s.ctx c x).damaged = false →
        ∃ t : State, exec (.switchOut c) s = .next t ∧ (t.coach c).run = none ∧ (t.ctx c x).state = .out ∧
          (t.ctx c x).leaving = false ∧ (t.ctx c x).lid = (s.ctx c x).lid ∧ t.pipes = s.pipes ∧
          (∀ e ∈ (t.ctx c x).threads, e.2.inbox = []))) ∧
    ((s.coach c).run.isSome = true ∨ s.best (s.ready c) = none → exec (.contextRestore c) s = .next s) ∧
    (∀ lid : Nat, (s.coach c).run = none → s.best (s.ready c) = some lid →
      ((s.coach c).ctxOf lid = none → exec (.contextRestore c) s = .next s) ∧
      (∀ x : Nat, (s.coach c).ctxOf lid = some x →
        (∀ code : Word, s.killWord c x = some code →
          ∃ t : State, exec (.contextRestore c) s = .next t ∧ (t.ctx c x).state = .ended) ∧
        (∀ a : Nat, s.killWord c x = none → s.savedBad c x = some a →
          ∃ t : State, exec (.contextRestore c) s = .next t ∧ (t.ctx c x).state = .ended) ∧
        (∀ b : Nat, s.killWord c x = none → s.savedBad c x = none → b = s.ctxBase c x →
          ∃ t : State, exec (.contextRestore c) s = .next t ∧ (t.coach c).run = some x ∧ (t.ctx c x).state = .running ∧
            (t.ctx c x).lid = (s.ctx c x).lid ∧ (t.ctx c x).inbox = [] ∧ t.pipes = s.pipes ∧
            (t.ctx c x).lines = BitVec.ofNat 32 (s.mem.readLE (b + 0x1C0) 4) ∧
            (∀ e ∈ (t.ctx c x).threads, e.2.frm = BitVec.ofNat 3 (s.mem.readLE (b + 0x2000 + 384 * e.1 + 264) 8) ∧
              e.2.trap.tscratch = BitVec.ofNat 64 (s.mem.readLE (b + 0x2000 + 384 * e.1 + 312) 8)))))

/-- O46. Contexts and launches start, switch and end: all of Claims.ContextsStart, Claims.GroupsAndLaunchesEnd, Claims.SlicesEnd,
Claims.ContextsSwitch. -/
def Obligations.ContextEventsPerform : Prop :=
  Claims.ContextsStart ∧ Claims.GroupsAndLaunchesEnd ∧ Claims.SlicesEnd ∧ Claims.ContextsSwitch

/-! ### The event unit (08 R236, R246 to R249; 11 R317 to R321; 19 R421) -/

/-- Setting line `n` takes context `k` to `k'`: it releases the lowest-numbered thread that waits on it, with 0 in its register, or
stays set where none waits; nothing else of the context changes (08 R248; 11 R321). -/
def Claims.lineSet (k k' : Context) (n : Nat) : Prop :=
  (k.threads.all (fun e => match e.2.wait with
      | .line m _ => !(decide (m = n))
      | _ => true) = true → k' = { k with lines := k.lines ||| BitVec.ofNat 32 (2 ^ n) }) ∧
  (∀ (l d : Nat) (th : Thread) (pre post : List (Nat × Thread)), k.threads = pre ++ (l, th) :: post → SMap.wf k.threads = true →
    th.wait = .line n d → pre.all (fun e => match e.2.wait with
      | .line m _ => !(decide (m = n))
      | _ => true) = true →
    k' = { k with threads := k'.threads } ∧ (k'.threads.get l {}).wait = .none ∧ (k'.threads.get l {}).pc = th.pc ∧
      (d ≠ 0 → (k'.threads.get l {}).d d = 0) ∧ (∀ m : Nat, m ≠ l → k'.threads.get m {} = k.threads.get m {}))

/-- The events of kind `kind` that may reach coach `c` now; a child arrival waits for its launch's context (11 R319). -/
def Claims.coming (s : State) (c : Nat) (kind : EvKind) : List EvMsg :=
  s.evs.filter (fun e => decide (e.kind = kind) && decide (e.coach = c) &&
    (decide (kind ≠ .childArrival) || ((s.coach c).ctxOf e.lid).isSome ||
      !((s.coach c).waiting.contains e.lid || (s.wakesFor c).contains e.lid)))

/-- An event that comes to an event unit reaches it, and is gone. A child arrival joins the arrivals of the gig cycle at its barrier;
a release completes the phase of a chained barrier that waits for it, and counts the arrivals held meanwhile towards the next, which
may fill it; an EVMSG sets its line in its launch's context, or else in the running one, and is
lost where none runs, the model's choice (log 26); a notice or a completion sets its line in every context that the coach holds.
Where none comes nothing changes (08 R246, R248; 10 R303; 11 R315, R317, R319, R321; 19 R421). -/
def Claims.EventUnitArrivals : Prop :=
  ∀ (s : State) (c : Nat),
    (Claims.coming s c .childArrival = [] → exec (.childArrival c) s = .next s) ∧
    (Claims.coming s c .childArrival ≠ [] → ∃ (t : State) (e : EvMsg), e ∈ Claims.coming s c .childArrival ∧
      exec (.childArrival c) s = .next t ∧ t.evs = s.evs.erase e ∧ t.mem = s.mem ∧
      ((s.coach c).ctxOf e.lid = none → t.coaches = s.coaches) ∧
      (∀ x : Nat, (s.coach c).ctxOf e.lid = some x →
        (((s.ctx c x).bars.get e.line {}).expect = 0 → t.coaches = s.coaches) ∧
        (((s.ctx c x).bars.get e.line {}).expect ≠ 0 →
          t.ctx c x = { s.ctx c x with arrivals := (s.ctx c x).arrivals ++ [{ bar := e.line, who := .child e.src e.srcBar }] }))) ∧
    (Claims.coming s c .release = [] → exec (.barrierRelease c) s = .next s) ∧
    (Claims.coming s c .release ≠ [] → ∃ (t : State) (e : EvMsg), e ∈ Claims.coming s c .release ∧
      exec (.barrierRelease c) s = .next t ∧
      ((s.coach c).ctxOf e.lid = none → t.coaches = s.coaches ∧ t.evs = s.evs.erase e) ∧
      (∀ (x m : Nat) (b : Barrier), (s.coach c).ctxOf e.lid = some x → b = (s.ctx c x).bars.get e.line {} →
        m = Nat.min b.held b.expect →
        (∀ n : Nat, n ≠ e.line → (t.ctx c x).bars.get n {} = (s.ctx c x).bars.get n {}) ∧
        (b.sent = false → (t.ctx c x).bars.get e.line {} = b) ∧
        (b.sent = true → m ≠ b.expect ∨ b.expect = 0 →
          (t.ctx c x).bars.get e.line {} = { b with phase := b.phase + 1, count := m, sent := false, held := b.held - m }) ∧
        (b.sent = true → m = b.expect → b.expect ≠ 0 → b.linked = true → (t.ctx c x).bars.get e.line {} =
          { b with phase := b.phase + 1, count := m, sent := true, held := b.held - m }) ∧
        (b.sent = true → m = b.expect → b.expect ≠ 0 → b.linked = false → (t.ctx c x).bars.get e.line {} =
          { b with phase := b.phase + 2, count := 0, sent := false, held := b.held - m }))) ∧
    (Claims.coming s c .evmsg = [] → exec (.evmsgArrival c) s = .next s) ∧
    (Claims.coming s c .evmsg ≠ [] → ∃ (t : State) (e : EvMsg), e ∈ Claims.coming s c .evmsg ∧
      exec (.evmsgArrival c) s = .next t ∧ t.evs = s.evs.erase e ∧
      (∀ x : Nat, ((s.coach c).ctxOf e.lid = some x ∨ ((s.coach c).ctxOf e.lid = none ∧ (s.coach c).run = some x)) →
        Claims.lineSet (s.ctx c x) (t.ctx c x) e.line ∧ (∀ y : Nat, y ≠ x → t.ctx c y = s.ctx c y)) ∧
      ((s.coach c).ctxOf e.lid = none → (s.coach c).run = none → t.coaches = s.coaches)) ∧
    (∀ (i : Instr) (kind : EvKind), (i = .layoverNotice c ∧ kind = .notice) ∨ (i = .childCompletion c ∧ kind = .completion) →
      (Claims.coming s c kind = [] → exec i s = .next s) ∧
      (Claims.coming s c kind ≠ [] → ∃ (t : State) (e : EvMsg), e ∈ Claims.coming s c kind ∧ exec i s = .next t ∧
        t.evs = s.evs.erase e ∧ (SMap.wf (s.coach c).ctxs = true →
          (∀ x ∈ (s.coach c).holds, Claims.lineSet (s.ctx c x) (t.ctx c x) e.line) ∧
          (∀ x : Nat, x ∉ (s.coach c).holds → t.ctx c x = s.ctx c x))))

/-- Where a thread of the coach waits with a limit that has not passed, gig cycles go on to the first beyond it; a WAITP whose limit
lies before it returns TIMEOUT with its barrier's phase. Without such a wait nothing changes (08 R247). -/
def Claims.WaitsExpire : Prop :=
  ∀ (s : State) (t0 : Nat) (limits : List Nat), limits = (s.coach (coachOf t0)).ctxs.filterMap (fun e =>
      match (e.2.threads.get (localOf t0) {}).wait with
      | .phase _ _ _ (some lim) => some lim
      | _ => none) →
    (limits = [] → exec (.waitpTimeout t0) s = .next s) ∧
    (∀ (lim : Nat) (rest : List Nat), limits = lim :: rest →
      ((s.cycle (dieOf t0)).toNat > lim ∨ 2 ^ 64 ≤ lim + 1 → exec (.waitpTimeout t0) s = .next s) ∧
      ((s.cycle (dieOf t0)).toNat ≤ lim → lim + 1 < 2 ^ 64 →
        ∃ t : State, exec (.waitpTimeout t0) s = .next t ∧ (t.die (dieOf t0)).gigCycle = BitVec.ofNat 64 (lim + 1) ∧
          t.pipes = s.pipes)) ∧
    (∀ (th : Thread) (bars : SMap Barrier) (n : Word) (m tok d lim : Nat), th.wait = .phase m tok d (some lim) →
      (lim < n.toNat → (th.expire bars n).wait = .none ∧
        (d ≠ 0 → ((th.expire bars n).d d).toNat % 256 = 2 ∧ ((th.expire bars n).d d).toNat / 65536 % 65536 =
          (bars.get m {}).phase.toNat)) ∧
      (n.toNat ≤ lim → th.expire bars n = th))

/-- The first held SEND for the receiver of a thread's is accepted once the receiver has room: its message is delivered, and its thread
goes on; without room, or with none held whose thread still runs and waits to send, nothing changes. Where the receiver is gone, a
running sender traps PEER_GONE with the receiver's number and TPC at its SEND, the model's reading (log 82) (08 R249; 19 R420). -/
def Claims.SendsAccepted : Prop :=
  ∀ (s : State) (t0 : Nat),
    ((∀ (r : Nat) (body : List Byte), (s.thread t0).wait ≠ .send r body) → exec (.sendAccept t0) s = .next s) ∧
    (∀ (r : Nat) (body : List Byte), (s.thread t0).wait = .send r body →
      (s.homeOf r = none → (s.thread t0).phase = .running → (s.thread t0).trap.inh = false →
        ∃ t : State, exec (.sendAccept t0) s = .next t ∧
          t.held = s.held.filter (fun e => !(e.src == t0 && e.lid == s.launchOn (coachOf t0))) ∧
          (t.thread t0).wait = .none ∧ (t.thread t0).trap.tcause = 0x06 ∧ (t.thread t0).trap.tvalue = BitVec.ofNat 64 r ∧
          (t.thread t0).trap.tpc = BitVec.ofNat 64 (s.thread t0).pc ∧ t.mem = s.mem) ∧
      (∀ mine : HeldSend → Bool, (∀ e : HeldSend, mine e = true ↔ e.dst = r ∧ e.lid = s.launchOn (coachOf e.src) ∧
          ∃ q b, (s.thread e.src).wait = .send q b) →
        (s.homeOf r).isSome = true →
        (s.roomFor r = false ∨ s.held.find? mine = none → exec (.sendAccept t0) s = .next s) ∧
        (∀ (e : HeldSend) (q y : Nat) (b : List Byte), s.held.find? mine = some e → (s.thread e.src).wait = .send q b → e.src ≠ r →
          s.roomFor r = true → s.slotOf r = some y → s.homeOf r = some y → (s.ctx (coachOf r) y).state = .running →
          ∃ t : State, exec (.sendAccept t0) s = .next t ∧ t.held = s.held.filter (fun x => !(x == e)) ∧
            (t.thread e.src).wait = .none ∧
            (t.thread e.src).pc = (if (s.thread e.src).phase = .running then (s.thread e.src).pc + 4 else (s.thread e.src).pc) ∧
            ((∀ o d, (s.thread r).wait ≠ .recv o d) → ∃ m : Msg, (t.thread r).inbox = (s.thread r).inbox ++ [m] ∧ m.src = e.src ∧
              m.body = b))))

/-- The accesses of the event-unit window: a barrier load, once every earlier access has performed, joins the arrivals of the gig cycle
and its thread waits; a mutex load waits for the end of the gig cycle; an event load clears a set line with result 0 and waits for
a clear one; an event store sets its line; a mutex store by the holder lets it pass to the lowest waiting thread, with 0 in its
register, or go free, and traps ACCESS by any other, as a load of an unused barrier does. What an earlier access holds back waits
(08 R236; 11 R317, R320, R321). -/
def Claims.EventWindowPerforms : Prop :=
  ∀ (s : State) (t0 j o x n : Nat) (a : Access) (k : Context), k = s.ctx (coachOf t0) x → s.slotOf t0 = some x →
    (s.eventAcc t0 j true = some (a, o, x) →
      (o < 0x80 → n = o / 8 →
        ((s.thread t0).mayRelease a = false → exec (.euBarrierArrive t0 j) s = .next s) ∧
        ((s.thread t0).mayRelease a = true → (k.bars.get n {}).expect ≠ 0 →
          ∃ t : State, exec (.euBarrierArrive t0 j) s = .next t ∧
            t.thread t0 = { (s.thread t0).retireAcc a.id with wait := .arriving n (a.dest.getD 0) } ∧
            (t.ctx (coachOf t0) x).arrivals = k.arrivals ++ [{ bar := n, who := .window (localOf t0) (a.dest.getD 0) }] ∧
            (t.ctx (coachOf t0) x).bars = k.bars) ∧
        ((s.thread t0).mayRelease a = true → (k.bars.get n {}).expect = 0 → (s.thread t0).phase = .running →
          (s.thread t0).trap.inh = false →
          ∃ t : State, exec (.euBarrierArrive t0 j) s = .next t ∧ (t.thread t0).trap.tcause = 0x04 ∧ (t.thread t0).trap.sub = 4 ∧
            (t.thread t0).trap.tvalue = BitVec.ofNat 64 a.va)) ∧
      (0x100 ≤ o → o < 0x180 → n = (o - 0x100) / 8 →
        ((s.thread t0).mayPerform t0 a = false → exec (.euMutexAcquire t0 j) s = .next s) ∧
        ((s.thread t0).mayPerform t0 a = true → exec (.euMutexAcquire t0 j) s = .next (s.onThread t0 (fun th =>
          { th.retireAcc a.id with wait := .asking n (a.dest.getD 0) })))) ∧
      (0x200 ≤ o → o < 0x300 → n = (o - 0x200) / 8 →
        ((s.thread t0).mayPerform t0 a = false → exec (.euEventWait t0 j) s = .next s) ∧
        ((s.thread t0).mayPerform t0 a = true → k.lines.getLsbD n = true →
          ∃ t : State, exec (.euEventWait t0 j) s = .next t ∧ t.thread t0 = (s.thread t0).complete a 0 ∧
            (t.ctx (coachOf t0) x).lines = k.lines &&& ~~~(BitVec.ofNat 32 (2 ^ n))) ∧
        ((s.thread t0).mayPerform t0 a = true → k.lines.getLsbD n = false →
          exec (.euEventWait t0 j) s = .next (s.onThread t0 (fun th =>
            { th.retireAcc a.id with wait := .line n (a.dest.getD 0) }))))) ∧
    (s.eventAcc t0 j false = some (a, o, x) →
      (0x100 ≤ o → o < 0x180 → n = (o - 0x100) / 8 →
        ((s.thread t0).mayRelease a = false → exec (.euMutexRelease t0 j) s = .next s) ∧
        ((s.thread t0).mayRelease a = true → k.mutex.find? (fun e => e.1 == n) = some (n, localOf t0) →
          ∃ t : State, exec (.euMutexRelease t0 j) s = .next t ∧ (t.ctx (coachOf t0) x).lines = k.lines ∧
            ((∀ q ∈ k.threads, ∀ d, q.2.wait ≠ .mutex n d) → t.thread t0 = (s.thread t0).retireAcc a.id ∧
              (t.ctx (coachOf t0) x).mutex = SMap.erase k.mutex n) ∧
            (∀ (l d : Nat) (th : Thread) (pre post : List (Nat × Thread)), k.threads = pre ++ (l, th) :: post →
              SMap.wf k.threads = true → l ≠ localOf t0 → th.wait = .mutex n d → (∀ q ∈ pre, ∀ d, q.2.wait ≠ .mutex n d) →
              (s.thread t0).wait = .none →
              (t.ctx (coachOf t0) x).mutex = k.mutex.set n l ∧ ((t.ctx (coachOf t0) x).threads.get l {}).wait = .none ∧
                (d ≠ 0 → ((t.ctx (coachOf t0) x).threads.get l {}).d d = 0))) ∧
        ((s.thread t0).mayRelease a = true → k.mutex.find? (fun e => e.1 == n) ≠ some (n, localOf t0) →
          (s.thread t0).phase = .running → (s.thread t0).trap.inh = false →
          ∃ t : State, exec (.euMutexRelease t0 j) s = .next t ∧ (t.thread t0).trap.tcause = 0x04 ∧ (t.thread t0).trap.sub = 4 ∧
            (t.thread t0).trap.tvalue = BitVec.ofNat 64 a.va ∧ (t.ctx (coachOf t0) x).mutex = k.mutex)) ∧
      (0x200 ≤ o → o < 0x300 → n = (o - 0x200) / 8 →
        ((s.thread t0).mayRelease a = false → exec (.euEventSet t0 j) s = .next s) ∧
        ((s.thread t0).mayRelease a = true →
          ∃ t : State, exec (.euEventSet t0 j) s = .next t ∧ Claims.lineSet ((s.onThread t0 (fun th =>
            th.retireAcc a.id)).ctx (coachOf t0) x) (t.ctx (coachOf t0) x) n ∧ t.mem = s.mem)))

/-- At the end of the gig cycle the acquires that the cycle has gathered take their mutexes in thread order: a free one goes to the
lowest asking thread, with 0 in its register, and all others wait (11 R320). -/
def Claims.MutexesTaken : Prop :=
  ∀ (k : Context) (l n d : Nat) (th : Thread) (pre post : List (Nat × Thread)), k.threads = pre ++ (l, th) :: post →
    SMap.wf k.threads = true → th.wait = .asking n d →
    ((k.mutex.find? (fun e => e.1 == n)).isSome = true →
      (k.takeAsked.threads.get l {}).wait = .mutex n d ∧ k.takeAsked.mutex.get n 32 = k.mutex.get n 32) ∧
    ((k.mutex.find? (fun e => e.1 == n)) = none →
      ((∀ q ∈ pre, ∀ e, q.2.wait ≠ .asking n e) → k.takeAsked.mutex.get n 32 = l ∧ (k.takeAsked.threads.get l {}).wait = .none ∧
        (d ≠ 0 → (k.takeAsked.threads.get l {}).d d = 0)) ∧
      ((∃ q ∈ pre, ∃ e, q.2.wait = .asking n e) → (k.takeAsked.threads.get l {}).wait = .mutex n d))

/-- O47. What reaches an event unit, the accesses of its window, and the waits that end: all of Claims.EventUnitArrivals,
Claims.WaitsExpire, Claims.SendsAccepted, Claims.EventWindowPerforms, Claims.MutexesTaken. -/
def Obligations.EventUnitPerforms : Prop :=
  Claims.EventUnitArrivals ∧ Claims.WaitsExpire ∧ Claims.SendsAccepted ∧ Claims.EventWindowPerforms ∧ Claims.MutexesTaken

/-- O48. A store to SHOOT, once every earlier access has performed, requests a shoot-down of its range; a load of DONE returns the
count where none is outstanding, and else waits for those requested; the oldest shoot-down, once no access or row that used its
translations is outstanding, leaves no such translation and is counted; a host access that fails adds one to HOSTERR and marks its
register. Before that, nothing changes (17 R386, R387, R389; 23 R466). -/
def Obligations.ShootdownsPerform : Prop :=
  ∀ (s : State) (k : Nat) (x : Partition), x = s.part k →
    (∀ (t0 j : Nat) (a : Access), s.access t0 j = some a → k = s.partOfThread t0 →
      (∀ (n v : Nat), a.target = .control 8 → a.op = .store n v →
        ((s.thread t0).mayRelease a = false → exec (.shoot t0 j) s = .next s) ∧
        ((s.thread t0).mayRelease a = true →
          ∃ t : State, exec (.shoot t0 j) s = .next t ∧ (t.part k).nextShoot = x.nextShoot + 1 ∧ (t.part k).done = x.done ∧
            (t.part k).shoots = x.shoots ++ [{ num := x.nextShoot, kind := v / 2 ^ 62, va := v % 2 ^ 49 / 2 ^ 16 * 2 ^ 16 }] ∧
            t.tlb = s.tlb ∧ t.thread t0 = (s.thread t0).retireAcc a.id)) ∧
      (∀ (n : Nat) (g : Bool), a.target = .control 16 → a.op = .load n g →
        ((s.thread t0).mayPerform t0 a = false → exec (.done t0 j) s = .next s) ∧
        ((s.thread t0).mayPerform t0 a = true → x.shoots = [] →
          exec (.done t0 j) s = .next (s.onThread t0 (fun th => th.complete a x.done))) ∧
        ((s.thread t0).mayPerform t0 a = true → x.shoots ≠ [] →
          exec (.done t0 j) s = .next (s.onThread t0 (fun th =>
            { th.retireAcc a.id with wait := .done (a.dest.getD 0) x.nextShoot })))) ∧
      (∀ pa : Nat, a.target = .phys pa →
        (s.tier pa ≠ .host ∨ (s.thread t0).mayPerform t0 a = false → exec (.completionTimeout t0 j) s = .next s) ∧
        (s.tier pa = .host → (s.thread t0).mayPerform t0 a = true →
          ∃ t : State, exec (.completionTimeout t0 j) s = .next t ∧ t.fw.health.hosterr = s.fw.health.hosterr + 1 ∧ t.mem = s.mem ∧
            t.thread t0 = (s.thread t0).spoil a))) ∧
    (x.shoots = [] → exec (.shootdownComplete k) s = .next s) ∧
    (∀ (h : Shoot) (rest : List Shoot), x.shoots = h :: rest →
      (s.shootBusy k h = true → exec (.shootdownComplete k) s = .next s) ∧
      (s.shootBusy k h = false →
        ∃ t : State, exec (.shootdownComplete k) s = .next t ∧ (t.part k).shoots = rest ∧ (t.part k).done = x.done + 1 ∧
          (∀ e : Cached, e ∈ t.tlb ↔ e ∈ s.tlb ∧ (e.part = k → h.hits { base := e.base, size := e.size } = false)) ∧ t.mem = s.mem))

/-! ### Waybill cards and the turnpike (11 R325 to R329; 08 R263) -/

/-- Where the context of its launch has the engine, fewer than four cards run, and it is the first that may start and does not wait for
leave, a card starts: a small one or one with its grant at once, a large one with the charge where its bytes fit beside those in
force, and else it waits to ask again; no other starts. A large card asks again in its cycle, and is granted or waits (11 R325,
R329; 25 R484). -/
def Claims.CardsStart : Prop :=
  ∀ (s : State) (c j d : Nat), d = dieOfCoach c →
    (s.card c j = none → exec (.cardStart c j) s = .next s ∧ exec (.cardLeaveRetry c j) s = .next s) ∧
    (∀ e : Card, s.card c j = some e →
      (∀ first : Prop, (first ↔ s.engineLid c = some e.lid ∧
          ((s.engineCards c e.lid).find? (fun q => s.startable c q && decide (q.retry.toNat ≤ (s.cycle d).toNat))).map
            (fun q => q.num) = some j ∧
          ((s.engineCards c e.lid).filter (fun q => decide (q.state = .running))).length < 4) →
        (¬ first → exec (.cardStart c j) s = .next s) ∧
        (first → wSize e.words < 0x400000 ∨ e.granted = true →
          exec (.cardStart c j) s = .next (s.onCard c j (fun q => { q with state := .running }))) ∧
        (first → 0x400000 ≤ wSize e.words → e.granted = false → ∀ fits : Prop,
          (fits ↔ (s.die d).charges false = [] ∨ wSize e.words + chargedBytes ((s.die d).charges false) ≤ (s.die d).lb) →
          (fits → ∃ t : State, exec (.cardStart c j) s = .next t ∧ t.card c j = some { e with granted := true, state := .running } ∧
              t.mem = s.mem ∧ (t.die d).grants = (s.die d).grants ++
                [{ bytes := wSize e.words, cxl := false, expiry := (s.die d).gigCycle + 65536 }]) ∧
          (¬ fits → ∃ (t : State) (r : Word), exec (.cardStart c j) s = .next t ∧ t.card c j = some { e with retry := r } ∧
              t.dies = s.dies ∧ t.mem = s.mem))) ∧
      (∀ asks : Prop, (asks ↔ s.startable c e = true ∧ 0x400000 ≤ wSize e.words ∧ e.granted = false ∧
          s.engineLid c = some e.lid) →
        (¬ asks → exec (.cardLeaveRetry c j) s = .next s) ∧
        (asks → ∀ (u : State) (fits : Prop), u = (if (s.cycle d).toNat < e.retry.toNat then s.gigTime d e.retry else s) →
          (fits ↔ (u.die d).charges false = [] ∨ wSize e.words + chargedBytes ((u.die d).charges false) ≤ (u.die d).lb) →
          (fits → ∃ t : State, exec (.cardLeaveRetry c j) s = .next t ∧
              t.card c j = (u.card c j).map (fun q => { q with granted := true }) ∧
              (t.die d).grants = (u.die d).grants ++
                [{ bytes := wSize e.words, cxl := false, expiry := (u.die d).gigCycle + 65536 }]) ∧
          (¬ fits → ∃ (t : State) (r : Word), exec (.cardLeaveRetry c j) s = .next t ∧
              t.card c j = (u.card c j).map (fun q => { q with retry := r }) ∧ t.dies = u.dies))))

/-- A row access of a running card that passes its checks is entered in its row (`u` is the state after it), and a row that becomes
whole makes an arrival of the engine under AV with AUNIT; one that fails faults the card with its cause, takes the cards that
depend on it out of the engine, and tells the submitting thread; a card whose rows have all landed retires, with its arrival
under AV without AUNIT. Any other card is left as it is (11 R317, R325, R326, R328). -/
def Claims.CardsMove : Prop :=
  ∀ (s : State) (c j : Nat),
    ((∀ d : Card, s.card c j = some d → d.state ≠ .running) → exec (.rowLanded c j) s = .next s ∧
      exec (.cardRetire c j) s = .next s ∧ exec (.cardFault c j) s = .next s) ∧
    (∀ d : Card, s.card c j = some d → d.state = .running →
      (∀ (r : CardRow) (u : State) (whole : Bool), s.rowStep c d = (.ok r, u) →
        whole = (r.full && !(d.rows.any (fun q => decide (q.row = r.row) && q.full)) && wAv d.words && wAunit d.words) →
        exec (.cardFault c j) s = .next s ∧
        (whole = false → exec (.rowLanded c j) s = .next (u.onCard c j (fun d => { d with rows := putRow d.rows r }))) ∧
        (whole = true → ∃ t : State, exec (.rowLanded c j) s = .next t ∧ t.card c j = some { d with rows := putRow d.rows r } ∧
          t.mem = u.mem ∧ t.gigs = u.gigs ∧ (∀ x : Nat, (u.coach c).ctxOf d.lid = some x →
            (t.ctx c x).arrivals = (u.ctx c x).arrivals ++ [{ bar := wAbar d.words, who := .engine }]))) ∧
      (∀ (cause : Nat) (u : State), s.rowStep c d = (.error cause, u) →
        exec (.rowLanded c j) s = .next s ∧
        ∃ t : State, exec (.cardFault c j) s = .next t ∧ t.mem = u.mem ∧
          (∃ e : Card, t.card c j = some e ∧ e.state = .faulted ∧ e.cause = cause ∧ e.words = d.words) ∧
          (∀ e ∈ s.engineCards c d.lid, e.edges.contains d.num = true ∨ (wPreds e.words).contains (wSeq d.words) = true →
            ∃ q : Card, t.card c e.num = some q ∧ q.inEngine = false) ∧
          (∀ x : Nat, (s.coach c).ctxOf d.lid = some x → ((t.ctx c x).threads.get d.thread {}).ext =
            ((s.ctx c x).threads.get d.thread {}).ext ++ [BitVec.ofNat 64 (wSeq d.words * 2 ^ 32 + cause)])) ∧
      ((d.rows.filter (fun r => r.full)).length ≠ wRows d.words → exec (.cardRetire c j) s = .next s) ∧
      ((d.rows.filter (fun r => r.full)).length = wRows d.words →
        (wAv d.words = false ∨ wAunit d.words = true →
          exec (.cardRetire c j) s = .next (s.onCard c j (fun d => { d with state := .retired, rows := [] }))) ∧
        (wAv d.words = true → wAunit d.words = false →
          ∃ t : State, exec (.cardRetire c j) s = .next t ∧ t.card c j = some { d with state := .retired, rows := [] } ∧
            t.mem = s.mem ∧ (∀ x : Nat, (s.coach c).ctxOf d.lid = some x →
              (t.ctx c x).arrivals = (s.ctx c x).arrivals ++ [{ bar := wAbar d.words, who := .engine }]))))

/-- The oldest charge of a die's turnpike expires in its gig cycle, with every other whose cycle has come (08 R263; 25 R484). -/
def Claims.GrantsExpire : Prop :=
  ∀ (s : State) (n : Nat),
    ((s.die n).grants = [] → exec (.grantExpiry n) s = .next s) ∧
    (∀ (g : Grant) (rest : List Grant), (s.die n).grants = g :: rest →
      ∃ t : State, exec (.grantExpiry n) s = .next t ∧ t.pipes = s.pipes ∧ (t.die n).tick = (s.die n).tick ∧
        (t.die n).gigCycle = (if (s.die n).gigCycle.toNat < g.expiry.toNat then g.expiry else (s.die n).gigCycle) ∧
        (t.die n).grants = rest.filter (fun e => decide ((t.die n).gigCycle.toNat < e.expiry.toNat)))

/-- O49. Cards start, move their rows, retire and fault, and grants expire: all of Claims.CardsStart, Claims.CardsMove,
Claims.GrantsExpire. -/
def Obligations.CardEventsPerform : Prop :=
  Claims.CardsStart ∧ Claims.CardsMove ∧ Claims.GrantsExpire

/-! ### The host portal (16 R354 to R360, R366, R369, R371; 22 R456; 24 R473) -/

/-- A DMWr of 64 bytes, aligned, by the owner with a buffer entry free is accepted as the next packet; in a handover or with the
buffer full it gets retry status, and of another master, length or alignment Unsupported Request, with nothing accepted; a BMC
packet is judged alike, with a buffer of its own; a posted write is discarded and counted; nothing comes through a port that failed
its training. That a handover is judged first, then ownership, length and alignment, then room is the model's reading (log 43) (16
R354, R355; 24 R470, R473; 25 R485). -/
def Claims.WritesAnswered : Prop :=
  ∀ (s : State) (port a : Nat) (w : List Word),
    (∀ (i : Instr) (own : Bool), ((i = .portalDmwr port a w ∧ port < 2 ∧ s.fw.hostOff.getLsbD port = false) ∨
        (i = .mctpPacket w ∧ port = 2 ∧ a = 0)) →
      own = decide (s.fw.own.owner.toNat = port + 1 ∧ w.length = 8 ∧ a % 64 = 0 ∧ a < 4096) →
      (s.fw.handover = false → own = true → s.buffered port < 256 →
        ∃ t : State, exec i s = .next t ∧ t.job s.portal.nextJob = some { port := port, words := w } ∧
          t.portal.nextJob = s.portal.nextJob + 1 ∧ t.portal.answers = s.portal.answers ++ [(port, .accepted)] ∧ t.mem = s.mem) ∧
      (s.fw.handover = true ∨ (own = true ∧ 256 ≤ s.buffered port) →
        exec i s = .next { s with portal := { s.portal with answers := s.portal.answers ++ [(port, .retry)] } }) ∧
      (s.fw.handover = false → own = false →
        exec i s = .next { s with portal := { s.portal with answers := s.portal.answers ++ [(port, .unsupported)] } })) ∧
    (port < 2 → s.fw.hostOff.getLsbD port = false →
      ∃ t : State, exec (.portalPostedWrite port) s = .next t ∧ t.portal.jobs = s.portal.jobs ∧
        t.portal.discarded.get port 0 = s.portal.discarded.get port 0 + 1 ∧ t.mem = s.mem) ∧
    (2 ≤ port ∨ s.fw.hostOff.getLsbD port = true →
      exec (.portalDmwr port a w) s = .next s ∧ exec (.portalPostedWrite port) s = .next s)

/-- The record of a completed packet is written once every earlier packet of its queue that is owed one has its own: at its bus
address where it names one, every byte that can be written, or to the BMC; any other packet waits (16 R360; 17 R389; 24 R473). -/
def Claims.RecordsWritten : Prop :=
  ∀ (s : State) (j : Nat),
    (s.job j = none → exec (.completionRecordWrite j) s = .next s) ∧
    (∀ (x : Job) (turn : Bool), s.job j = some x → turn = (decide (x.phase = .completed) &&
        s.portal.jobs.all (fun e => decide (j ≤ e.1) || !(e.2.sameQueue x) || !(decide (e.2.crec ≠ 0) || decide (e.2.port = 2)) ||
          decide (e.2.phase = .recorded))) →
      (turn = false → exec (.completionRecordWrite j) s = .next s) ∧
      (turn = true → ∃ (t : State) (bs : List Byte), exec (.completionRecordWrite j) s = .next t ∧
        t.job j = some { x with phase := .recorded } ∧ bs.length = 32 ∧ t.pipes = s.pipes ∧ t.parts = s.parts ∧
        ofBytes (bs.take 8) = x.lid % 2 ^ 32 * 2 ^ 32 + x.status.code * 2 ^ 24 + x.kind * 2 ^ 16 + x.tag ∧
        ofBytes ((bs.drop 16).take 8) = x.span.toNat ∧ ofBytes ((bs.drop 24).take 8) = x.detail.toNat ∧
        (x.port ≠ 2 → x.crec ≠ 0 → s.damaged (hostAddr x.port x.crec) 32 = false →
          t.mem = s.mem.writeBytes (hostAddr x.port x.crec) bs) ∧
        (x.port ≠ 2 → x.crec = 0 → t.mem = s.mem) ∧
        (x.port = 2 → t.portal.toBmc = s.portal.toBmc ++ [bs] ∧ t.mem = s.mem)))

/-- The rows of the packets, as the events that perform packet `j`, with their codes. -/
def Claims.packetRow (i : Instr) (j c : Nat) : Prop :=
  (i = .launchTimed j ∧ c = 0x10) ∨ (i = .launchDyn j ∧ c = 0x20) ∨ (i = .copy j ∧ c = 0x30) ∨ (i = .copyFill j ∧ c = 0x31) ∨
  (i = .signalSet j ∧ c = 0x40) ∨ (i = .signalAdd j ∧ c = 0x41) ∨ (i = .wait j ∧ c = 0x50) ∨
  (i = .configDiffApply j ∧ c = 0x60) ∨ (i = .configDiffRollback j ∧ c = 0x61) ∨ (i = .queryIdentity j ∧ c = 0x70) ∨
  (i = .queryPartitionMap j ∧ c = 0x71) ∨ (i = .queryLaunchState j ∧ c = 0x72) ∨ (i = .querySeedRecords j ∧ c = 0x73) ∨
  (i = .queryHealth j ∧ c = 0x74) ∨ (i = .queryCounters j ∧ c = 0x75) ∨ (i = .queryAttestation j ∧ c = 0x76) ∨
  (i = .fwUpdate j ∧ c = 0x80) ∨ (i = .partitionCreate j ∧ c = 0x90) ∨ (i = .partitionDestroy j ∧ c = 0x90)

/-- The event of a row leaves a packet alone that is none, is of another row, may not start yet or has ended; a malformed packet whose
turn it is it rejects with reason 1 (16 R356, R357). -/
def Claims.PacketsTakeTheirTurn : Prop :=
  ∀ (s : State) (j c : Nat) (i : Instr), Claims.packetRow i j c →
    (∃ t : State, exec i s = .next t ∧
      ((s.job j = none ∨ ∃ x : Job, s.job j = some x ∧ ((∃ r : Nat, x.form = some r ∧ r ≠ c) ∨
          (x.phase = .waiting ∧ s.jobMayStart j x = false) ∨ x.phase = .completed ∨ x.phase = .recorded)) →
        t.portal = s.portal ∧ t.parts = s.parts ∧ t.pipes = s.pipes ∧ t.mem = s.mem ∧ t.launches = s.launches ∧ t.fw = s.fw)) ∧
    (∀ x : Job, s.job j = some x → (x.form = some c ∨ x.form = none) → x.phase = .waiting → s.jobMayStart j x = true →
      s.malformed x = true → (i = .queryAttestation j → s.damaged (hostAddr x.port (x.w 3).toNat) 48 = false) →
      ∃ t : State, exec i s = .next t ∧ t.job j = some { x with phase := .completed, status := .rejected, reason := 1, detail := 0 } ∧
        t.parts = s.parts ∧ t.pipes = s.pipes ∧ t.mem = s.mem)

/-- O50. The portal answers its masters, takes packets in turn and writes their records: all of Claims.WritesAnswered,
Claims.RecordsWritten, Claims.PacketsTakeTheirTurn. -/
def Obligations.PortalAnswers : Prop :=
  Claims.WritesAnswered ∧ Claims.RecordsWritten ∧ Claims.PacketsTakeTheirTurn

/-- Packet `j` is `x`, of row `c`, and the packets before it let it start. -/
def Claims.starts (s : State) (j c : Nat) (x : Job) : Prop :=
  s.job j = some x ∧ x.form = some c ∧ x.phase = .waiting ∧ s.jobMayStart j x = true ∧ s.malformed x = false

/-- The packet with its outcome. -/
def Claims.ends (x : Job) (status : JobStatus) (reason : Nat) (detail : Word) : Job :=
  { x with phase := .completed, status := status, reason := reason, detail := detail }

/-- O51. SIGNAL gives its counter its value, or adds it modulo 2^64, then completes and sets its line, if it names one, in every
context that the coach holds; every started WAIT whose condition now holds completes with it; a WAIT completes at once where its
condition holds, and else holds its queue until it does; an Ethernet completion sets its counter and its line, where a port is left
that passed its training (16 R358; 19 R421; 22 R456; 25 R485). -/
def Obligations.SignalsAndWaits : Prop :=
  ∀ (s : State) (j n : Nat) (x : Job), s.job j = some x → n = bitsOf (x.w 2) 7 0 →
    (∀ (i : Instr) (v : Word), ((i = .signalSet j ∧ Claims.starts s j 0x40 x ∧ v = x.w 3) ∨
        (i = .signalAdd j ∧ Claims.starts s j 0x41 x ∧ v = (s.part x.part).ctrs.get n 0 + x.w 3)) →
      ∃ t : State, exec i s = .next t ∧ (t.part x.part).ctrs.get n 0 = v ∧ t.job j = some (Claims.ends x .done 0 0) ∧
        (∀ m, m ≠ n → (t.part x.part).ctrs.get m 0 = (s.part x.part).ctrs.get m 0) ∧
        (bitOf (x.w 2) 10 = false → t.coaches = s.coaches ∧ t.mem = s.mem) ∧
        (bitOf (x.w 2) 10 = true → SMap.wf (s.coach (bitsOf (x.w 2) 17 11)).ctxs = true →
          ∀ y ∈ (s.coach (bitsOf (x.w 2) 17 11)).holds,
            Claims.lineSet (s.ctx (bitsOf (x.w 2) 17 11) y) (t.ctx (bitsOf (x.w 2) 17 11) y) (bitsOf (x.w 2) 22 18)) ∧
        t.portal.msix = s.portal.msix ++ (if bitOf (x.w 4) 16 && decide (x.port < 2) then [(x.port, bitsOf (x.w 4) 15 0)] else []) ∧
        (∀ (k : Nat) (y : Job), k ≠ j → s.job k = some y → y.phase = .started → y.form = some 0x50 → y.part = x.part →
          bitsOf (y.w 2) 7 0 = n → (y.w 3).toNat ≤ v.toNat → t.job k = some (Claims.ends y .done 0 0))) ∧
    (Claims.starts s j 0x50 x →
      ((x.w 3).toNat ≤ ((s.part x.part).ctrs.get n 0).toNat →
        ∃ t : State, exec (.wait j) s = .next t ∧ t.job j = some (Claims.ends x .done 0 0) ∧ t.parts = s.parts) ∧
      (((s.part x.part).ctrs.get n 0).toNat < (x.w 3).toNat →
        ∃ t : State, exec (.wait j) s = .next t ∧ t.job j = some { x with phase := .started } ∧ t.parts = s.parts)) ∧
    (x.phase = .started → x.form = some 0x50 → (x.w 3).toNat ≤ ((s.part x.part).ctrs.get n 0).toNat →
      ∃ t : State, exec (.waitComplete j) s = .next t ∧ t.job j = some (Claims.ends x .done 0 0) ∧ t.parts = s.parts) ∧
    (x.phase ≠ .started ∨ x.form ≠ some 0x50 ∨ ((s.part x.part).ctrs.get n 0).toNat < (x.w 3).toNat →
      exec (.waitComplete j) s = .next s) ∧
    (∀ (k ctr : Nat) (v : Word) (line : Option Nat),
      (256 ≤ ctr ∨ (s.part k).configured = false ∨ s.fw.ethOff = -1 → exec (.uetCompletion k ctr v line) s = .next s) ∧
      (ctr < 256 → (s.part k).configured = true → s.fw.ethOff ≠ -1 →
        ∃ t : State, exec (.uetCompletion k ctr v line) s = .next t ∧ (t.part k).ctrs.get ctr 0 = v ∧
          (∀ m, m ≠ ctr → (t.part k).ctrs.get m 0 = (s.part k).ctrs.get m 0) ∧ (line = none → t.mem = s.mem ∧ t.coaches = s.coaches) ∧
          (∀ l : Nat, line = some l → SMap.wf (s.coach (l / 32)).ctxs = true →
            ∀ y ∈ (s.coach (l / 32)).holds, Claims.lineSet (s.ctx (l / 32) y) (t.ctx (l / 32) y) (l % 32))))

/-- LAUNCH_TIMED waits for what excludes it; of the object that it names (`u` is the state with it resident), refused, it is rejected
with that reason; with a seed record it waits for the timed launches accepted before it, and with SEEDFLT and an overlap ends as
a seed fault with the overlapping launch; a class beyond an allowance rejects it with reason 11; else its launch is loaded with
the next launch id and ATK0 (16 R364 to R367, R371; 25 R481). The wait for the launches of other partitions is the model's reading
of R371 (log 79), and that a launch refused with reason 11 carries the id that it took is too (log 36). -/
def Claims.TimedLaunchesLoad : Prop :=
  ∀ (s : State) (j : Nat) (x : Job) (k : Nat), Claims.starts s j 0x10 x → k = x.part →
    (s.excluded j x = true → exec (.launchTimed j) s = .next s) ∧
    (s.excluded j x = false → ∀ (u : State) (why : Option (Nat × Word)), s.chooseImage k (x.w 2).toNat = (u, why) →
      (∀ (r : Nat) (a : Word), why = some (r, a) →
        ∃ t : State, exec (.launchTimed j) s = .next t ∧ (t.job j).map (fun q => (q.phase, q.status)) = some (.completed, .rejected) ∧
          (r ≠ 10 → (t.job j).map (fun q => q.reason) = some r)) ∧
      (why = none → ∀ r : Nat, u.refuseImage k = some r →
        ∃ t : State, exec (.launchTimed j) s = .next t ∧ (t.job j).map (fun q => (q.phase, q.status, q.reason)) =
          some (.completed, .rejected, r)) ∧
      (why = none → u.refuseImage k = none → ∀ (h : List Word) (r : SeedRec), h = timedHeader (u.part k).resident.image →
        r = seedOf h u.nextLid →
        (r.span ≠ 0 → s.launchBefore j = true → exec (.launchTimed j) s = .next s) ∧
        (r.span = 0 ∨ s.launchBefore j = false →
          (∀ l : Nat, u.seedClash r = some l → bitOf (wordAt h 0) 16 = true →
            ∃ t : State, exec (.launchTimed j) s = .next t ∧ t.nextLid = u.nextLid ∧ (t.job j).map (fun q =>
              (q.phase, q.status, q.detail, q.overlap)) = some (.completed, .seedFault, BitVec.ofNat 64 l, true)) ∧
          (u.seedClash r = none ∨ bitOf (wordAt h 0) 16 = false →
            (u.approves (u.part k) (stagesOf (u.part k).resident.image) = false →
              ∃ t : State, exec (.launchTimed j) s = .next t ∧ (t.job j).map (fun q => (q.phase, q.status, q.reason, q.lid)) =
                some (.completed, .rejected, 11, u.nextLid)) ∧
            (u.approves (u.part k) (stagesOf (u.part k).resident.image) = true →
              ∃ t : State, exec (.launchTimed j) s = .next t ∧ (t.part k).run.phase = .loading ∧ (t.part k).run.lid = u.nextLid ∧
                (t.part k).run.overlap = u.seedClash r ∧ t.nextLid = u.nextLid + 1 ∧ t.mem = u.mem ∧
                (t.job j).map (fun q => (q.phase, q.lid)) = some (.started, u.nextLid)))))) ∧
    (∀ o : Nat, o = 0 → s.chooseImage k o = (s, if (s.part k).resident.image = [] then some (2, 0) else none))

/-- LAUNCH_DYN: a header or record that cannot be read rejects it with reason 10 and the address, a bad header with 5, a bad record
with 6; a full pool holds it; else the launch enters the pool of its first coach's die with the next launch id, marked PROGRESS
(11 R307, R313, R316; 16 R369). -/
def Claims.DynamicLaunchesEnter : Prop :=
  ∀ (s : State) (j : Nat) (x : Job) (k : Nat), Claims.starts s j 0x20 x → k = x.part →
    (∀ a : Nat, s.pagedBytes k (x.w 2).toNat 64 = .error a →
      ∃ t : State, exec (.launchDyn j) s = .next t ∧ t.job j = some (Claims.ends x .rejected 10 (BitVec.ofNat 64 a)) ∧ t.mem = s.mem) ∧
    (∀ (bs : List Byte) (h : List Word), s.pagedBytes k (x.w 2).toNat 64 = .ok bs → h = wordsOf bs →
      (headerOk (s.part k) h = false →
        ∃ t : State, exec (.launchDyn j) s = .next t ∧ t.job j = some (Claims.ends x .rejected 5 0) ∧ t.launches = s.launches) ∧
      (headerOk (s.part k) h = true →
        (∀ a : Nat, s.pagedBytes k (hEvinit h) (64 * hNcoach h) = .error a →
          ∃ t : State, exec (.launchDyn j) s = .next t ∧ t.job j = some (Claims.ends x .rejected 10 (BitVec.ofNat 64 a)) ∧
            t.launches = s.launches) ∧
        (∀ es : List Byte, s.pagedBytes k (hEvinit h) (64 * hNcoach h) = .ok es →
          (evinitOk (evinitOf (hFcoach h) es) (hFcoach h) (hNcoach h) = false →
            ∃ t : State, exec (.launchDyn j) s = .next t ∧ t.job j = some (Claims.ends x .rejected 6 0) ∧ t.launches = s.launches) ∧
          (evinitOk (evinitOf (hFcoach h) es) (hFcoach h) (hNcoach h) = true →
            (256 ≤ (s.die (dieOfCoach (hFcoach h))).pool.length → exec (.launchDyn j) s = .next s) ∧
            ((s.die (dieOfCoach (hFcoach h))).pool.length < 256 →
              ∃ (t : State) (l : Launch), exec (.launchDyn j) s = .next t ∧ t.nextLid = s.nextLid + 1 ∧
                t.launch s.nextLid = some l ∧ l.header = h ∧ l.part = k ∧ l.progress = true ∧ l.wakes = hCoaches h ∧
                l.phase = .pooled ∧
                (t.die (dieOfCoach (hFcoach h))).pool = (s.die (dieOfCoach (hFcoach h))).pool ++ [s.nextLid] ∧ t.mem = s.mem ∧
                t.job j = some { x with phase := .started, lid := s.nextLid })))))

/-- A COPY, or a fill, moves its next piece, up to the next 32-byte boundary of DST, the model's choice of a piece (log 39), and
completes with its last (`u` is the state in which the place of DST is known): a fill writes its pattern, a COPY the bytes that it
reads one by one, in increasing order; one whose place, source or destination, cannot be reached ends ABORTED with reason 10 and the
address, and bytes already written stay; a piece whose host access fails does not land. Between host addresses behind ports that work
and that do not overlap the bytes of SRC come to stand at DST, and no other byte changes (16 R359; 17 R389). -/
def Claims.CopiesMove : Prop :=
  ∀ (s : State) (j c n dst src : Nat) (i : Instr) (x : Job), ((i = .copy j ∧ c = 0x30) ∨ (i = .copyFill j ∧ c = 0x31)) →
    s.job j = some x → x.form = some c →
    n = Nat.min (32 - ((x.w 3).toNat + x.moved) % 32) (x.copyLen - x.moved) → dst = (x.w 3).toNat + x.moved →
    src = (x.w 2).toNat + x.moved →
    (Claims.starts s j c x → x.scope = 1 → s.excluded j x = true → exec i s = .next s) ∧
    ((x.phase = .started ∨ (Claims.starts s j c x ∧ (x.scope ≠ 1 ∨ s.excluded j x = false))) →
      ∀ (u : State) (place : Option Spot) (after : Job), s.spot x.port x.part x.dsp dst true = (place, u) →
      after = (if x.copyLen ≤ x.moved + n then Claims.ends { x with moved := x.moved + n } .done 0 0
        else { x with phase := .started, moved := x.moved + n }) →
      (place = none → ∃ (t : State) (a : Nat), exec i s = .next t ∧ t.job j = some (Claims.ends x .aborted 10 (BitVec.ofNat 64 a)) ∧
        t.mem = s.mem ∧ (a = dst ∨ (x.fill = false ∧ a = src))) ∧
      (∀ d : Spot, place = some d → x.fill = true → ∀ bs : List Byte,
        bs = (List.range n).map (fun i => (toBytes 8 (x.w 5).toNat).getD ((x.moved + i) % 8) 0) →
        ∃ t : State, exec i s = .next t ∧ t.job j = some after ∧
          (u.spotFails d n = false → t.mem = (u.spotWrite d bs).mem ∧ t.pipes = (u.spotWrite d bs).pipes) ∧
          (u.spotFails d n = true → t.mem = s.mem ∧ t.pipes = s.pipes)) ∧
      (∀ (d : Spot) (v : State) (bs : List Byte) (stop : Option Nat), place = some d → x.fill = false →
        u.copyBytes x.port x.part x.ssp src n (if u.spotFails d n then none else some d) = (v, bs, stop) →
        ∃ t : State, exec i s = .next t ∧
          t.job j = some (match stop with
            | none => after
            | some a => Claims.ends x .aborted 10 (BitVec.ofNat 64 a)) ∧
          (u.spotFails d n = false → t.mem = (v.spotWrite d bs).mem ∧ t.pipes = (v.spotWrite d bs).pipes) ∧
          (u.spotFails d n = true → t.mem = v.mem ∧ t.pipes = v.pipes)) ∧
      (x.dsp = 0 → x.ssp = 0 → x.fill = false → s.bad = [] → s.fw.hostOff = 0 →
        (∀ m q, m < n → q < n → hostAddr x.port (src + m) ≠ hostAddr x.port dst + q) →
        ∃ t : State, exec i s = .next t ∧ t.job j = some after ∧
          (∀ m, m < n → t.mem.read (hostAddr x.port dst + m) = s.mem.read (hostAddr x.port (src + m))) ∧
          (∀ b, b < hostAddr x.port dst ∨ hostAddr x.port dst + n ≤ b → t.mem.read b = s.mem.read b)))

/-- O52. Launches load and copies move: all of Claims.TimedLaunchesLoad, Claims.DynamicLaunchesEnter, Claims.CopiesMove. -/
def Obligations.LaunchAndCopyPackets : Prop :=
  Claims.TimedLaunchesLoad ∧ Claims.DynamicLaunchesEnter ∧ Claims.CopiesMove

/-! ### Configuration, queries, partitions and firmware (16 R361 to R363, R372 to R374; 24 R470 to R478; 25 R485) -/

/-- A difference, once the exclusive operations before it have ended: a list that cannot be read rejects it with reason 10, one with a
malformed entry or one outside its section with reason 9 and with a wrong CRC with 7, the shadow discarded; else its image, with
its CRC in its header, is the shadow, to be swapped. A rollback, once nothing excludes it, swaps with an intact shadow whose CRC
verifies, and else is rejected with reason 8. The swap of a difference waits for what excludes it; then the shadow is resident,
and the image that was stays intact for a rollback. The waits of its first steps (log 37) and the reasons of a malformed entry and of
a list that cannot be read (log 35) are the model's reading (16 R372, R373). -/
def Claims.DifferencesApply : Prop :=
  ∀ (s : State) (j : Nat) (x : Job) (k : Nat), s.job j = some x → k = x.part →
    (Claims.starts s j 0x60 x → s.exclusiveBefore j x true = true → exec (.configDiffApply j) s = .next s) ∧
    (Claims.starts s j 0x60 x → s.exclusiveBefore j x true = false →
      (∀ a : Nat, s.readSpace x.port k (bitsOf (x.w 4) 0 0) (x.w 2).toNat (x.w 3).toNat = .error a →
        ∃ t : State, exec (.configDiffApply j) s = .next t ∧ t.job j = some (Claims.ends x .rejected 10 (BitVec.ofNat 64 a)) ∧
          t.parts = s.parts) ∧
      (∀ (bs : List Byte) (new : Option (List Byte)),
        s.readSpace x.port k (bitsOf (x.w 4) 0 0) (x.w 2).toNat (x.w 3).toNat = .ok bs →
        new = (diffEntries ((x.w 3).toNat / 8 + 1) bs).bind (fun l => l.foldlM DiffEntry.apply (s.part k).resident.image) →
        (new = none → ∃ t : State, exec (.configDiffApply j) s = .next t ∧ t.job j = some (Claims.ends x .rejected 9 0) ∧
          (t.part k).resident = (s.part k).resident ∧ (t.part k).shadow = {}) ∧
        (∀ im : List Byte, new = some im →
          (crc32c (im.drop 64) = (x.w 5).setWidth 32 →
            ∃ t : State, exec (.configDiffApply j) s = .next t ∧ (t.part k).resident = (s.part k).resident ∧
              (t.part k).shadow.image = (if im = [] then [] else overlay im 12 (toBytes 4 ((x.w 5).toNat % 2 ^ 32))) ∧
              t.job j = some { x with phase := .started, ready := true }) ∧
          (crc32c (im.drop 64) ≠ (x.w 5).setWidth 32 →
            ∃ t : State, exec (.configDiffApply j) s = .next t ∧ (t.part k).resident = (s.part k).resident ∧
              (t.part k).shadow = {} ∧ t.job j = some (Claims.ends x .rejected 7 0))))) ∧
    (Claims.starts s j 0x61 x →
      (s.excluded j x = true → exec (.configDiffRollback j) s = .next s) ∧
      (s.excluded j x = false → (s.part k).shadow.intact = true → crcOk (s.part k).shadow.image = true →
        ∃ t : State, exec (.configDiffRollback j) s = .next t ∧ (t.part k).resident.image = (s.part k).shadow.image ∧
          (t.part k).shadow = { (s.part k).resident with intact := !(s.part k).resident.image.isEmpty } ∧
          (t.part k).useB = !(s.part k).useB ∧ t.job j = some (Claims.ends x .done 0 0)) ∧
      (s.excluded j x = false → (s.part k).shadow.intact = false ∨ crcOk (s.part k).shadow.image = false →
        ∃ t : State, exec (.configDiffRollback j) s = .next t ∧ t.parts = s.parts ∧ t.job j = some (Claims.ends x .rejected 8 0))) ∧
    (∀ found : Option (Nat × Job), found = s.portal.jobs.find? (fun e => decide (e.2.kind = 6) && e.2.ready &&
        decide (e.2.phase = .started) && decide (e.2.part = k)) →
      (found = none → exec (.configSwap k) s = .next s) ∧
      (found = some (j, x) →
        (s.excluded j x = true → exec (.configSwap k) s = .next s) ∧
        (s.excluded j x = false →
          ∃ t : State, exec (.configSwap k) s = .next t ∧ (t.part k).resident.image = (s.part k).shadow.image ∧
            (t.part k).shadow = { (s.part k).resident with intact := !(s.part k).resident.image.isEmpty } ∧
            (t.part k).useB = !(s.part k).useB ∧ t.job j = some (Claims.ends x .done 0 0))))

/-- PARTITION, once the exclusive operations before it have ended: a descriptor that cannot be read rejects it with reason 10, and so
does a paged one of a partition that is not configured; it waits while a launch runs on a die that it names or frees. CREATE
makes the partition that an acceptable descriptor describes, and else is rejected with 18; DESTROY of a partition that is not
configured is rejected with 1 and with another descriptor than its own with 18, and else leaves an unconfigured partition with
no cached translation. Reason 10 for a paged descriptor of no partition, and 18 for the fields of a DESTROY, are the model's reading
(log 38) (16 R362, R363; 17 R382). -/
def Claims.PartitionsChange : Prop :=
  ∀ (s : State) (j : Nat) (x : Job) (k sp : Nat) (got : Except Nat (List Byte)), Claims.starts s j 0x90 x → k = x.part →
    sp = bitsOf (x.w 3) 0 0 → got = (if sp = 1 ∧ (s.part k).configured = false then .error (x.w 2).toNat
      else s.readSpace x.port k sp (x.w 2).toNat 320) →
    (s.exclusiveBefore j x false = true → exec (.partitionCreate j) s = .next s ∧ exec (.partitionDestroy j) s = .next s) ∧
    (s.exclusiveBefore j x false = false →
      (∀ (a : Nat) (i : Instr), got = .error a → (i = .partitionCreate j ∨ i = .partitionDestroy j) →
        ∃ t : State, exec i s = .next t ∧ t.job j = some (Claims.ends x .rejected 10 (BitVec.ofNat 64 a)) ∧ t.parts = s.parts) ∧
      (∀ (bs : List Byte) (w : List Word), got = .ok bs → w = wordsOf bs →
        (bitOf (wordAt w 0) 0 = true ∨ s.diesBusy ((s.part k).dies ++ (descPart w).dies) = true →
          exec (.partitionCreate j) s = .next s) ∧
        (bitOf (wordAt w 0) 0 = false → s.diesBusy ((s.part k).dies ++ (descPart w).dies) = false →
          (s.createOk k w = true → ∃ t : State, exec (.partitionCreate j) s = .next t ∧ t.part k = descPart w ∧
            t.job j = some (Claims.ends x .done 0 0) ∧ (∀ i, i ≠ k → t.part i = s.part i) ∧ t.mem = s.mem) ∧
          (s.createOk k w = false → ∃ t : State, exec (.partitionCreate j) s = .next t ∧ t.parts = s.parts ∧
            t.job j = some (Claims.ends x .rejected 18 0))) ∧
        (bitOf (wordAt w 0) 0 = false ∨ s.diesBusy (s.part k).dies = true → exec (.partitionDestroy j) s = .next s) ∧
        (bitOf (wordAt w 0) 0 = true → s.diesBusy (s.part k).dies = false →
          ((s.part k).configured = false → ∃ t : State, exec (.partitionDestroy j) s = .next t ∧ t.parts = s.parts ∧
            t.job j = some (Claims.ends x .rejected 1 0)) ∧
          ((s.part k).configured = true → w ≠ 1 :: List.replicate 39 0 →
            ∃ t : State, exec (.partitionDestroy j) s = .next t ∧ t.parts = s.parts ∧ t.job j = some (Claims.ends x .rejected 18 0)) ∧
          ((s.part k).configured = true → w = 1 :: List.replicate 39 0 →
            ∃ t : State, exec (.partitionDestroy j) s = .next t ∧ t.part k = {} ∧ t.job j = some (Claims.ends x .done 0 0) ∧
              (∀ i, i ≠ k → t.part i = s.part i) ∧ (∀ e ∈ t.tlb, e.part ≠ k) ∧ t.mem = s.mem))))

/-- O53. Banks and partitions change: all of Claims.DifferencesApply, Claims.PartitionsChange. -/
def Obligations.ConfigurationPackets : Prop :=
  Claims.DifferencesApply ∧ Claims.PartitionsChange

/-- The rows of QUERY with the code of each and the length of its reply, where it is fixed. -/
def Claims.queryRow (i : Instr) (j : Nat) : Option (Nat × Option Nat) :=
  match i with
  | .queryIdentity n => if n = j then some (0x70, some 72) else none
  | .queryPartitionMap n => if n = j then some (0x71, some 256) else none
  | .queryLaunchState n => if n = j then some (0x72, some 8) else none
  | .querySeedRecords n => if n = j then some (0x73, some 2048) else none
  | .queryHealth n => if n = j then some (0x74, none) else none
  | .queryCounters n => if n = j then some (0x75, none) else none
  | .queryAttestation n => if n = j then some (0x76, none) else none
  | _ => none

/-- O54. A QUERY writes as much of its reply as its buffer holds, reports a longer reply's length in DETAIL, and completes, whatever
becomes of a host access that fails; the identity reply ends with the writes that each port has discarded and the link word (the
place of the former is the model's choice, log 45), the reply on a launch is its state, on health the health record, on counters
their values from ARG on, and the report is on the nonce at RADDR, one that cannot be read rejecting it (the model's choice, log
78); the BMC obtains its report likewise, where a complex is active (16 R354, R374; 17 R389; 22 R448; 23 R466; 24 R469, R478). -/
def Obligations.QueriesAnswer : Prop :=
  ∀ (s : State) (j : Nat) (x : Job),
    (∀ (i : Instr) (c : Nat) (len : Option Nat), Claims.queryRow i j = some (c, len) → Claims.starts s j c x →
      (c = 0x76 → s.damaged (hostAddr x.port (x.w 3).toNat) 48 = false) →
      ∃ (t : State) (reply : List Byte), exec i s = .next t ∧ (∀ n, len = some n → reply.length = n) ∧
        (s.damaged (hostAddr x.port (x.w 3).toNat) (reply.take (bitsOf (x.w 4) 31 0)).length = false →
          t.mem = s.mem.writeBytes (hostAddr x.port (x.w 3).toNat) (reply.take (bitsOf (x.w 4) 31 0))) ∧
        t.job j = some (Claims.ends x .done 0 (if bitsOf (x.w 4) 31 0 < reply.length then BitVec.ofNat 64 reply.length else 0)) ∧
        t.parts = s.parts ∧ t.pipes = s.pipes ∧
        (c = 0x70 → (reply.drop 48).take 8 = toBytes 8 (s.portal.discarded.get 0 0) ∧
          (reply.drop 56).take 8 = toBytes 8 (s.portal.discarded.get 1 0) ∧ reply.drop 64 = toBytes 8 s.fw.linkWord) ∧
        (c = 0x72 → reply = toBytes 8 (s.launchState (bitsOf (x.w 2) 63 32))) ∧
        (c = 0x74 → bitsOf (x.w 2) 63 32 = 0 → reply = s.fw.health.bytes) ∧
        (c = 0x75 → ∀ n : Nat, bitsOf (x.w 2) 63 32 + n < 256 →
          (reply.drop (8 * n)).take 8 = toBytes 8 ((s.part x.part).ctrs.get (bitsOf (x.w 2) 63 32 + n) 0).toNat) ∧
        (c = 0x76 → reply = s.fw.report (s.mem.readBytes (hostAddr x.port (x.w 3).toNat) 48))) ∧
    (Claims.starts s j 0x76 x → s.damaged (hostAddr x.port (x.w 3).toNat) 48 = true →
      ∃ t : State, exec (.queryAttestation j) s = .next t ∧ t.mem = s.mem ∧ t.parts = s.parts) ∧
    (∀ nonce : BitVec 384, (s.fw.active = false → exec (.spdmGetMeasurements nonce) s = .next s) ∧
      (s.fw.active = true → ∃ (t : State) (r : List Byte), exec (.spdmGetMeasurements nonce) s = .next t ∧
        t.portal.toBmc = s.portal.toBmc ++ [r] ∧ r.take 48 = toBytes 48 nonce.toNat ∧ t.fw = s.fw ∧ t.mem = s.mem))

/-- FW_UPDATE waits for the exclusive operations before it; an image that cannot be read rejects it with reason 10 (the model's choice,
log 78), and one that the standby refuses with its reason, NEXT holding it; else the handover begins, and ends with the other
complex active and the image of NEXT in CUR (24 R470 to R472). -/
def Claims.FirmwareUpdates : Prop :=
  ∀ (s : State) (j : Nat) (x : Job), s.job j = some x →
    (Claims.starts s j 0x80 x →
      (s.exclusiveBefore j x true = true → exec (.fwUpdate j) s = .next s) ∧
      (s.exclusiveBefore j x true = false →
        (∀ a : Nat, s.readSpace x.port x.part 0 (x.w 2).toNat (x.w 3).toNat = .error a →
          ∃ t : State, exec (.fwUpdate j) s = .next t ∧ t.job j = some (Claims.ends x .rejected 10 (BitVec.ofNat 64 a)) ∧
            t.fw.cur = s.fw.cur ∧ t.fw.next = s.fw.next ∧ t.fw.handover = s.fw.handover) ∧
        (∀ im : List Byte, s.readSpace x.port x.part 0 (x.w 2).toNat (x.w 3).toNat = .ok im →
          (∀ r : Nat, s.refuseFirmware im = some r →
            ∃ t : State, exec (.fwUpdate j) s = .next t ∧ t.job j = some (Claims.ends x .rejected r 0) ∧ t.fw.cur = s.fw.cur ∧
              t.fw.next = im ∧ t.fw.handover = s.fw.handover) ∧
          (s.refuseFirmware im = none →
            ∃ t : State, exec (.fwUpdate j) s = .next t ∧ t.job j = some { x with phase := .started } ∧ t.fw.handover = true ∧
              t.fw.next = im ∧ t.fw.cur = s.fw.cur)))) ∧
    (x.form = some 0x80 → x.phase = .started →
      ∃ t : State, exec (.fwUpdate j) s = .next t ∧ t.job j = some (Claims.ends x .done 0 0) ∧ t.fw.west = !s.fw.west ∧
        t.fw.cur = s.fw.next ∧ t.fw.next = s.fw.cur ∧ t.fw.handover = false ∧ t.fw.own = s.fw.own ∧ t.pipes = s.pipes ∧
        t.mem = s.mem)

/-- A package reset clears both planes and the portal, gives TCH its boot value, retires the dies that fail or are marked, and keeps
the memory outside the package, while HBM reads 0 (the model's choice, logs 4 and 47); a complex is active where an image verifies,
and else FATAL is set; a loss of power clears all but what is durable (22 R443; 23 R464, R465, R468; 24 R469, R471; 25 R485). -/
def Claims.PackageResets : Prop :=
  ∀ s : State,
    (∀ bad : List Nat, ∃ t : State, exec (.packageReset bad) s = .next t ∧ t.pipes = [] ∧ t.dies = [] ∧ t.parts = [] ∧ t.gigs = [] ∧
      t.coaches = [] ∧ t.launches = [] ∧ t.portal = State.reset.portal ∧ t.fw.own = {} ∧ t.fw.powered = true ∧
      t.fw.tch = s.fw.bootTch ∧ t.fw.cur = s.fw.cur ∧ t.fw.next = s.fw.next ∧
      (imageOk s.fw.cur = true → t.fw.active = true ∧ t.fw.west = true ∧ t.fw.image = s.fw.cur) ∧
      (imageOk s.fw.cur = false → imageOk s.fw.next = true → t.fw.active = true ∧ t.fw.west = false ∧ t.fw.image = s.fw.next) ∧
      (imageOk s.fw.cur = false → imageOk s.fw.next = false → t.fw.active = false ∧ t.fw.health.fatal = true) ∧
      (∀ d, d < 16 → d ∈ bad ∨ s.fw.health.retired.getLsbD d = true → t.fw.health.retired.getLsbD d = true) ∧
      (∀ a, t.mem.read a = if 0x1000000000000 ≤ a then s.mem.read a else 0)) ∧
    (∃ t : State, exec .powerLoss s = .next t ∧ t.fw.powered = false ∧ t.pipes = [] ∧ t.gigs = [] ∧ t.fw.cur = s.fw.cur ∧
      t.fw.health = s.fw.health ∧ t.fw.rings = s.fw.rings ∧
      (∀ a, t.mem.read a = if 0x1000000000000 ≤ a then s.mem.read a else 0))

/-- O55. Firmware updates and package resets: all of Claims.FirmwareUpdates, Claims.PackageResets. -/
def Obligations.FirmwareEvents : Prop :=
  Claims.FirmwareUpdates ∧ Claims.PackageResets

/-- O56. The ownership writes of R474: with a complex active, a CLAIM with no owner makes the writer the owner, one by the named
successor does so and clears SUCC, each with EPOCH + 1, and any other is ignored, as every one is with none active; SUCC by the
owner names the successor, its own code or 0 cancels, and by another is ignored; no write comes through a port that failed its
training; a successor that does not claim leaves SUCC at 0, and an owner that is lost leaves OWNER at 0 with EPOCH + 1 (24 R469,
R474; 25 R485). -/
def Obligations.OwnershipWrites : Prop :=
  ∀ (s : State) (m : BitVec 2) (o : Own), o = s.fw.own →
    (s.fw.hostOff.getLsbD (m.toNat - 1) = true → ∀ n : Nat, exec (.ownClaim m.toNat) s = .next s ∧ exec (.ownSucc m.toNat n) s = .next s) ∧
    (m ≠ 0 → s.fw.hostOff.getLsbD (m.toNat - 1) = false →
      (s.fw.active = true → o.owner = 0 → o.succ ≠ m → exec (.ownClaim m.toNat) s =
        .next { s with fw := { s.fw with own := { o with owner := m, epoch := o.epoch + 1 } } }) ∧
      (s.fw.active = true → o.succ = m → exec (.ownClaim m.toNat) s =
        .next { s with fw := { s.fw with own := { owner := m, succ := 0, epoch := o.epoch + 1 } } }) ∧
      (s.fw.active = false ∨ (o.owner ≠ 0 ∧ o.succ ≠ m) → exec (.ownClaim m.toNat) s = .next s) ∧
      (∀ n : BitVec 2, (o.owner = m → exec (.ownSucc m.toNat n.toNat) s =
          .next { s with fw := { s.fw with own := { o with succ := if n = m then 0 else n } } }) ∧
        (o.owner ≠ m → exec (.ownSucc m.toNat n.toNat) s = .next s))) ∧
    (∀ k n : Nat, k = 0 ∨ 3 < k → exec (.ownClaim k) s = .next s ∧ exec (.ownSucc k n) s = .next s) ∧
    exec .succTimeout s = .next { s with fw := { s.fw with own := { o with succ := 0 } } } ∧
    (o.owner ≠ 0 → exec .ownerLoss s = .next { s with fw := { s.fw with own := { o with owner := 0, epoch := o.epoch + 1 } } }) ∧
    (o.owner = 0 → exec .ownerLoss s = .next s)

/-! ### Reset and the invariant of every step -/

/-- O57. After reset no stream runs, every token count and control register of a pipeline reads 0, its data queues, scalar queues,
branch queue and drawbar buffers are empty and no drawbar word is on its way, each die has an allowance of 60 W and a bucket of 2^28
bytes, TCH is 40, no partition is configured, nobody owns the device, and no context runs. Where R39 gives a value at the start of a
launch only, that it holds from reset is the model's choice (logs 3, 5, 6 and 7) (01 R19, R22, R39; 04 Tables 4-6 to 4-11; 22 Table
22-2; 24 Table 24-1; 25 R479, R484). -/
def Obligations.ResetState : Prop :=
  (∀ g, (State.reset.pipe g).c.run = false ∧ (State.reset.pipe g).l.run = false ∧ (State.reset.pipe g).x.run = false ∧
    (State.reset.pipe g).s.run = false ∧ (State.reset.pipe g).csr = {} ∧ (∀ n, (State.reset.pipe g).tokens n = 0) ∧
    (∀ n, (State.reset.pipe g).dqueue n = []) ∧ (State.reset.pipe g).q.ql = [] ∧ (State.reset.pipe g).q.qx = [] ∧
    (State.reset.pipe g).q.qs = [] ∧ (State.reset.pipe g).q.bq = [] ∧ (State.reset.pipe g).q.east = [] ∧
    (State.reset.pipe g).q.west = [] ∧ (State.reset.pipe g).q.dbIn = []) ∧
  (∀ d, (State.reset.die d).ta = 60 ∧ (State.reset.die d).lb = 2 ^ 28 ∧ (State.reset.die d).gigCycle = 0) ∧
  State.reset.fw.tch = 40 ∧ State.reset.fw.own = {} ∧ (∀ k, (State.reset.part k).configured = false) ∧
  (∀ c, (State.reset.coach c).run = none)

/-- O58. The invariant holds after reset (12 R330; 24 R474; 25 R479; 16 R371; 23 R466, R468). -/
def Obligations.InvariantAtReset : Prop := State.reset.Inv

/-- O59. Every step keeps the invariant: physical memory stays in its canonical form, no owner is its own successor, the power cap
stays within 2,800 W, at most 64 seed records and 8,192 black-box entries are kept, and the health record's version stays 1 (12
R330; 24 R474; 25 R479; 16 R371; 23 R466, R468). -/
def Obligations.EveryStepKeepsTheInvariant : Prop :=
  ∀ s t : State, s.Inv → step s = .next t → t.Inv

/-- O60. LI sd, imm writes imm18, sign-extended, to sd; LUI sd, imm writes (sd << 18) | imm18 with imm18 unsigned, reads sd as a
source, so that reading it early is a SCORE slip while checking is on, and LI s7, 1 followed by LUI s7, 0 gives 0x4_0000 (04
R108). -/
def Obligations.LiAndLuiComplete : Prop :=
  ∀ (s : State) (w : BitVec 3) (d : BitVec 5) (k : BitVec 18),
    decode .c (w ++ (0x09#6 ++ (d ++ k))) = .ok (.li w d k) ∧ decode .c (w ++ (0x0A#6 ++ (d ++ k))) = .ok (.lui w d k) ∧
    exec (.li w d k) s = .next (s.setPipe s.curPipe
      ((s.me.produce .c s.atk 1 (.sreg d.toNat (k.signExtend 64)) 0).afterWord .c (s.atk + 1) false)) ∧
    (s.timely [.s d.toNat] = true → exec (.lui w d k) s = .next (s.setPipe s.curPipe
      ((s.me.produce .c s.atk 1 (.sreg d.toNat ((s.me.sreg d.toNat <<< 18) ||| k.setWidth 64)) 0).afterWord .c (s.atk + 1) false))) ∧
    (s.me.check = true → s.me.busy (.s d.toNat) = true → s.me.parityIn [.s d.toNat] = false → ∃ (t : State) (e : Det), exec (.lui w d k) s = .next t ∧ e.cause = 2 ∧
      t.me.cyc.dets = s.me.cyc.dets ++ [e]) ∧
    ((1 : BitVec 18).signExtend 64 <<< 18 ||| (0 : BitVec 18).setWidth 64 : Word) = 0x40000
end

