-- ==== Sys2Proof/Laws/Encoding.lean ====
section
/-! SUPPORT. Fields of encoded words: what `fld` reads from a word built with `cat`. -/
namespace Sys2Proof

theorem fld_ofNat (y lo n : Nat) (h : lo + n ≤ 32) : fld (BitVec.ofNat 32 y) lo n = BitVec.ofNat n (y >>> lo) := by
  apply BitVec.eq_of_toNat_eq
  simp only [fld, BitVec.toNat_ofNat, Nat.shiftRight_eq_div_pow]
  have h1 : (2 : Nat) ^ 32 = 2 ^ lo * 2 ^ (32 - lo) := by rw [← Nat.pow_add]; congr 1; omega
  rw [h1, Nat.mod_mul_right_div_self]
  exact Nat.mod_mod_of_dvd _ (Nat.pow_dvd_pow 2 (by omega))

theorem cat_div_hi {m : Nat} (h : Nat) (v : BitVec m) (lo : Nat) (hm : m ≤ lo) : (cat h v) >>> lo = h >>> (lo - m) := by
  have h1 : (2 : Nat) ^ lo = 2 ^ m * 2 ^ (lo - m) := by rw [← Nat.pow_add]; congr 1; omega
  simp only [cat, Nat.shiftRight_eq_div_pow, h1, ← Nat.div_div_eq_div_mul]
  congr 1
  rw [Nat.add_comm, Nat.add_mul_div_right _ _ (Nat.two_pow_pos m), Nat.div_eq_of_lt v.isLt, Nat.zero_add]

theorem ofNat_cat {m : Nat} (h : Nat) (v : BitVec m) : BitVec.ofNat m (cat h v) = v := by
  apply BitVec.eq_of_toNat_eq
  simp [cat, Nat.mod_eq_of_lt v.isLt]

theorem ofNat_cat_part {m : Nat} (h : Nat) (v : BitVec m) (lo n : Nat) (hl : lo + n ≤ m) :
    BitVec.ofNat n ((cat h v) >>> lo) = BitVec.ofNat n (v.toNat >>> lo) := by
  apply BitVec.eq_of_toNat_eq
  simp only [cat, BitVec.toNat_ofNat, Nat.shiftRight_eq_div_pow]
  have h1 : (2 : Nat) ^ m = 2 ^ lo * 2 ^ (m - lo) := by rw [← Nat.pow_add]; congr 1; omega
  rw [h1, show h * (2 ^ lo * 2 ^ (m - lo)) = (h * 2 ^ (m - lo)) * 2 ^ lo by
    rw [Nat.mul_comm (2 ^ lo), Nat.mul_assoc], Nat.add_comm, Nat.add_mul_div_right _ _ (Nat.two_pow_pos lo)]
  rw [show (2 : Nat) ^ (m - lo) = 2 ^ n * 2 ^ (m - lo - n) by rw [← Nat.pow_add]; congr 1; omega,
    show h * (2 ^ n * 2 ^ (m - lo - n)) = (h * 2 ^ (m - lo - n)) * 2 ^ n by
      rw [Nat.mul_comm (2 ^ n), Nat.mul_assoc], Nat.add_mul_mod_self_right]

theorem ofNat_cat_low {m : Nat} (h : Nat) (v : BitVec m) (n : Nat) (hl : n ≤ m) :
    BitVec.ofNat n (cat h v) = BitVec.ofNat n v.toNat := by
  simpa using ofNat_cat_part h v 0 n (by omega)

end Sys2Proof
end

