-- ==== Sys2Proof/Laws/SMap.lean ====
section
/-! SUPPORT. Finite maps: what is read after an entry is set or erased, and that the canonical form is kept. -/
namespace Sys2Proof.Machine

theorem SMap.get_set {α : Type} (m : SMap α) (k j : Nat) (v d : α) :
    (m.set k v).get j d = if j = k then v else m.get j d := by
  induction m with
  | nil => simp [SMap.set, SMap.get, eq_comm]
  | cons a t ih =>
    obtain ⟨i, x⟩ := a
    simp only [SMap.set]
    split
    · subst_vars
      by_cases h : i = j
      · simp [SMap.get, h]
      · simp [SMap.get, h, Ne.symm h]
    · split
      · by_cases h : k = j
        · simp [SMap.get, h]
        · simp [SMap.get, h, Ne.symm h, eq_comm]
      · by_cases h : i = j
        · have : j ≠ k := by omega
          simp [SMap.get, h, this]
        · simp [SMap.get, h, ih]

@[simp] theorem SMap.set_set {α : Type} (m : SMap α) (k : Nat) (v w : α) : SMap.set (SMap.set m k v) k w = SMap.set m k w := by
  induction m with
  | nil => simp [SMap.set]
  | cons a t ih =>
    obtain ⟨i, x⟩ := a
    by_cases h : i = k
    · simp [SMap.set, h]
    · by_cases h' : k < i <;> simp [SMap.set, h, h', ih]

/-- Setting a key in a map in rising order leaves it in rising order. -/
theorem SMap.wf_set {α : Type} (m : SMap α) (k : Nat) (v : α) (h : m.wf = true) : (m.set k v).wf = true := by
  induction m with
  | nil => rfl
  | cons a t ih =>
    obtain ⟨i, x⟩ := a
    cases t with
    | nil =>
      simp only [SMap.set]
      split
      · rfl
      · split <;> simp [SMap.wf] <;> omega
    | cons b t =>
      obtain ⟨j, y⟩ := b
      simp only [SMap.wf, Bool.and_eq_true, decide_eq_true_eq] at h
      have ih := ih h.2
      simp only [SMap.set] at ih ⊢
      split
      · simp_all [SMap.wf]
      · split
        · simp_all [SMap.wf]
        · split at ih
          · simp_all [SMap.wf]
          · split at ih
            · simp_all [SMap.wf]
              omega
            · rename_i h1 h2 h3 h4
              simp only [h3, h4, if_false, SMap.wf, Bool.and_eq_true, decide_eq_true_eq]
              exact ⟨h.1, ih⟩

end Sys2Proof.Machine
end

