-- ==== Sys2Proof/Laws/State.lean ====
section
/-! SUPPORT. What each update of the state, of a pipeline and of a thread leaves in each field. -/
namespace Sys2Proof.Machine

/-! ### State.setPipe -/

@[simp] theorem State.setPipe_schedule (s : State) (g : Nat) (p : Pipe) : (s.setPipe g p).schedule = s.schedule := rfl
@[simp] theorem State.setPipe_free (s : State) (g : Nat) (p : Pipe) : (s.setPipe g p).free = s.free := rfl
@[simp] theorem State.setPipe_curPipe (s : State) (g : Nat) (p : Pipe) : (s.setPipe g p).curPipe = s.curPipe := rfl
@[simp] theorem State.setPipe_curStream (s : State) (g : Nat) (p : Pipe) : (s.setPipe g p).curStream = s.curStream := rfl
@[simp] theorem State.setPipe_curThread (s : State) (g : Nat) (p : Pipe) : (s.setPipe g p).curThread = s.curThread := rfl
@[simp] theorem State.setPipe_pipes (s : State) (g : Nat) (p : Pipe) : (s.setPipe g p).pipes = s.pipes.set g p := rfl
@[simp] theorem State.setPipe_dies (s : State) (g : Nat) (p : Pipe) : (s.setPipe g p).dies = s.dies := rfl
@[simp] theorem State.setPipe_parts (s : State) (g : Nat) (p : Pipe) : (s.setPipe g p).parts = s.parts := rfl
@[simp] theorem State.setPipe_words (s : State) (g : Nat) (p : Pipe) : (s.setPipe g p).words = s.words := rfl
@[simp] theorem State.setPipe_mem (s : State) (g : Nat) (p : Pipe) : (s.setPipe g p).mem = s.mem := rfl
@[simp] theorem State.setPipe_bad (s : State) (g : Nat) (p : Pipe) : (s.setPipe g p).bad = s.bad := rfl
@[simp] theorem State.setPipe_gigs (s : State) (g : Nat) (p : Pipe) : (s.setPipe g p).gigs = s.gigs := rfl
@[simp] theorem State.setPipe_coaches (s : State) (g : Nat) (p : Pipe) : (s.setPipe g p).coaches = s.coaches := rfl
@[simp] theorem State.setPipe_evs (s : State) (g : Nat) (p : Pipe) : (s.setPipe g p).evs = s.evs := rfl
@[simp] theorem State.setPipe_kidWaits (s : State) (g : Nat) (p : Pipe) : (s.setPipe g p).kidWaits = s.kidWaits := rfl
@[simp] theorem State.setPipe_held (s : State) (g : Nat) (p : Pipe) : (s.setPipe g p).held = s.held := rfl
@[simp] theorem State.setPipe_launches (s : State) (g : Nat) (p : Pipe) : (s.setPipe g p).launches = s.launches := rfl
@[simp] theorem State.setPipe_nextLid (s : State) (g : Nat) (p : Pipe) : (s.setPipe g p).nextLid = s.nextLid := rfl
@[simp] theorem State.setPipe_tlb (s : State) (g : Nat) (p : Pipe) : (s.setPipe g p).tlb = s.tlb := rfl
@[simp] theorem State.setPipe_portal (s : State) (g : Nat) (p : Pipe) : (s.setPipe g p).portal = s.portal := rfl
@[simp] theorem State.setPipe_fw (s : State) (g : Nat) (p : Pipe) : (s.setPipe g p).fw = s.fw := rfl
@[simp] theorem State.setPipe_linkWords (s : State) (g : Nat) (p : Pipe) : (s.setPipe g p).linkWords = s.linkWords := rfl
@[simp] theorem State.setPipe_notices (s : State) (g : Nat) (p : Pipe) : (s.setPipe g p).notices = s.notices := rfl

/-! ### State.onPipe -/

@[simp] theorem State.onPipe_schedule (s : State) (g : Nat) (f : Pipe → Pipe) : (s.onPipe g f).schedule = s.schedule := rfl
@[simp] theorem State.onPipe_free (s : State) (g : Nat) (f : Pipe → Pipe) : (s.onPipe g f).free = s.free := rfl
@[simp] theorem State.onPipe_curPipe (s : State) (g : Nat) (f : Pipe → Pipe) : (s.onPipe g f).curPipe = s.curPipe := rfl
@[simp] theorem State.onPipe_curStream (s : State) (g : Nat) (f : Pipe → Pipe) : (s.onPipe g f).curStream = s.curStream := rfl
@[simp] theorem State.onPipe_curThread (s : State) (g : Nat) (f : Pipe → Pipe) : (s.onPipe g f).curThread = s.curThread := rfl
@[simp] theorem State.onPipe_pipes (s : State) (g : Nat) (f : Pipe → Pipe) : (s.onPipe g f).pipes = s.pipes.set g (f (s.pipe g)) := rfl
@[simp] theorem State.onPipe_dies (s : State) (g : Nat) (f : Pipe → Pipe) : (s.onPipe g f).dies = s.dies := rfl
@[simp] theorem State.onPipe_parts (s : State) (g : Nat) (f : Pipe → Pipe) : (s.onPipe g f).parts = s.parts := rfl
@[simp] theorem State.onPipe_words (s : State) (g : Nat) (f : Pipe → Pipe) : (s.onPipe g f).words = s.words := rfl
@[simp] theorem State.onPipe_mem (s : State) (g : Nat) (f : Pipe → Pipe) : (s.onPipe g f).mem = s.mem := rfl
@[simp] theorem State.onPipe_bad (s : State) (g : Nat) (f : Pipe → Pipe) : (s.onPipe g f).bad = s.bad := rfl
@[simp] theorem State.onPipe_gigs (s : State) (g : Nat) (f : Pipe → Pipe) : (s.onPipe g f).gigs = s.gigs := rfl
@[simp] theorem State.onPipe_coaches (s : State) (g : Nat) (f : Pipe → Pipe) : (s.onPipe g f).coaches = s.coaches := rfl
@[simp] theorem State.onPipe_evs (s : State) (g : Nat) (f : Pipe → Pipe) : (s.onPipe g f).evs = s.evs := rfl
@[simp] theorem State.onPipe_kidWaits (s : State) (g : Nat) (f : Pipe → Pipe) : (s.onPipe g f).kidWaits = s.kidWaits := rfl
@[simp] theorem State.onPipe_held (s : State) (g : Nat) (f : Pipe → Pipe) : (s.onPipe g f).held = s.held := rfl
@[simp] theorem State.onPipe_launches (s : State) (g : Nat) (f : Pipe → Pipe) : (s.onPipe g f).launches = s.launches := rfl
@[simp] theorem State.onPipe_nextLid (s : State) (g : Nat) (f : Pipe → Pipe) : (s.onPipe g f).nextLid = s.nextLid := rfl
@[simp] theorem State.onPipe_tlb (s : State) (g : Nat) (f : Pipe → Pipe) : (s.onPipe g f).tlb = s.tlb := rfl
@[simp] theorem State.onPipe_portal (s : State) (g : Nat) (f : Pipe → Pipe) : (s.onPipe g f).portal = s.portal := rfl
@[simp] theorem State.onPipe_fw (s : State) (g : Nat) (f : Pipe → Pipe) : (s.onPipe g f).fw = s.fw := rfl
@[simp] theorem State.onPipe_linkWords (s : State) (g : Nat) (f : Pipe → Pipe) : (s.onPipe g f).linkWords = s.linkWords := rfl
@[simp] theorem State.onPipe_notices (s : State) (g : Nat) (f : Pipe → Pipe) : (s.onPipe g f).notices = s.notices := rfl

/-! ### State.setDie -/

@[simp] theorem State.setDie_schedule (s : State) (d : Nat) (x : Die) : (s.setDie d x).schedule = s.schedule := rfl
@[simp] theorem State.setDie_free (s : State) (d : Nat) (x : Die) : (s.setDie d x).free = s.free := rfl
@[simp] theorem State.setDie_curPipe (s : State) (d : Nat) (x : Die) : (s.setDie d x).curPipe = s.curPipe := rfl
@[simp] theorem State.setDie_curStream (s : State) (d : Nat) (x : Die) : (s.setDie d x).curStream = s.curStream := rfl
@[simp] theorem State.setDie_curThread (s : State) (d : Nat) (x : Die) : (s.setDie d x).curThread = s.curThread := rfl
@[simp] theorem State.setDie_pipes (s : State) (d : Nat) (x : Die) : (s.setDie d x).pipes = s.pipes := rfl
@[simp] theorem State.setDie_dies (s : State) (d : Nat) (x : Die) : (s.setDie d x).dies = s.dies.set d x := rfl
@[simp] theorem State.setDie_parts (s : State) (d : Nat) (x : Die) : (s.setDie d x).parts = s.parts := rfl
@[simp] theorem State.setDie_words (s : State) (d : Nat) (x : Die) : (s.setDie d x).words = s.words := rfl
@[simp] theorem State.setDie_mem (s : State) (d : Nat) (x : Die) : (s.setDie d x).mem = s.mem := rfl
@[simp] theorem State.setDie_bad (s : State) (d : Nat) (x : Die) : (s.setDie d x).bad = s.bad := rfl
@[simp] theorem State.setDie_gigs (s : State) (d : Nat) (x : Die) : (s.setDie d x).gigs = s.gigs := rfl
@[simp] theorem State.setDie_coaches (s : State) (d : Nat) (x : Die) : (s.setDie d x).coaches = s.coaches := rfl
@[simp] theorem State.setDie_evs (s : State) (d : Nat) (x : Die) : (s.setDie d x).evs = s.evs := rfl
@[simp] theorem State.setDie_kidWaits (s : State) (d : Nat) (x : Die) : (s.setDie d x).kidWaits = s.kidWaits := rfl
@[simp] theorem State.setDie_held (s : State) (d : Nat) (x : Die) : (s.setDie d x).held = s.held := rfl
@[simp] theorem State.setDie_launches (s : State) (d : Nat) (x : Die) : (s.setDie d x).launches = s.launches := rfl
@[simp] theorem State.setDie_nextLid (s : State) (d : Nat) (x : Die) : (s.setDie d x).nextLid = s.nextLid := rfl
@[simp] theorem State.setDie_tlb (s : State) (d : Nat) (x : Die) : (s.setDie d x).tlb = s.tlb := rfl
@[simp] theorem State.setDie_portal (s : State) (d : Nat) (x : Die) : (s.setDie d x).portal = s.portal := rfl
@[simp] theorem State.setDie_fw (s : State) (d : Nat) (x : Die) : (s.setDie d x).fw = s.fw := rfl
@[simp] theorem State.setDie_linkWords (s : State) (d : Nat) (x : Die) : (s.setDie d x).linkWords = s.linkWords := rfl
@[simp] theorem State.setDie_notices (s : State) (d : Nat) (x : Die) : (s.setDie d x).notices = s.notices := rfl

/-! ### State.onDie -/

@[simp] theorem State.onDie_schedule (s : State) (d : Nat) (f : Die → Die) : (s.onDie d f).schedule = s.schedule := rfl
@[simp] theorem State.onDie_free (s : State) (d : Nat) (f : Die → Die) : (s.onDie d f).free = s.free := rfl
@[simp] theorem State.onDie_curPipe (s : State) (d : Nat) (f : Die → Die) : (s.onDie d f).curPipe = s.curPipe := rfl
@[simp] theorem State.onDie_curStream (s : State) (d : Nat) (f : Die → Die) : (s.onDie d f).curStream = s.curStream := rfl
@[simp] theorem State.onDie_curThread (s : State) (d : Nat) (f : Die → Die) : (s.onDie d f).curThread = s.curThread := rfl
@[simp] theorem State.onDie_pipes (s : State) (d : Nat) (f : Die → Die) : (s.onDie d f).pipes = s.pipes := rfl
@[simp] theorem State.onDie_dies (s : State) (d : Nat) (f : Die → Die) : (s.onDie d f).dies = s.dies.set d (f (s.die d)) := rfl
@[simp] theorem State.onDie_parts (s : State) (d : Nat) (f : Die → Die) : (s.onDie d f).parts = s.parts := rfl
@[simp] theorem State.onDie_words (s : State) (d : Nat) (f : Die → Die) : (s.onDie d f).words = s.words := rfl
@[simp] theorem State.onDie_mem (s : State) (d : Nat) (f : Die → Die) : (s.onDie d f).mem = s.mem := rfl
@[simp] theorem State.onDie_bad (s : State) (d : Nat) (f : Die → Die) : (s.onDie d f).bad = s.bad := rfl
@[simp] theorem State.onDie_gigs (s : State) (d : Nat) (f : Die → Die) : (s.onDie d f).gigs = s.gigs := rfl
@[simp] theorem State.onDie_coaches (s : State) (d : Nat) (f : Die → Die) : (s.onDie d f).coaches = s.coaches := rfl
@[simp] theorem State.onDie_evs (s : State) (d : Nat) (f : Die → Die) : (s.onDie d f).evs = s.evs := rfl
@[simp] theorem State.onDie_kidWaits (s : State) (d : Nat) (f : Die → Die) : (s.onDie d f).kidWaits = s.kidWaits := rfl
@[simp] theorem State.onDie_held (s : State) (d : Nat) (f : Die → Die) : (s.onDie d f).held = s.held := rfl
@[simp] theorem State.onDie_launches (s : State) (d : Nat) (f : Die → Die) : (s.onDie d f).launches = s.launches := rfl
@[simp] theorem State.onDie_nextLid (s : State) (d : Nat) (f : Die → Die) : (s.onDie d f).nextLid = s.nextLid := rfl
@[simp] theorem State.onDie_tlb (s : State) (d : Nat) (f : Die → Die) : (s.onDie d f).tlb = s.tlb := rfl
@[simp] theorem State.onDie_portal (s : State) (d : Nat) (f : Die → Die) : (s.onDie d f).portal = s.portal := rfl
@[simp] theorem State.onDie_fw (s : State) (d : Nat) (f : Die → Die) : (s.onDie d f).fw = s.fw := rfl
@[simp] theorem State.onDie_linkWords (s : State) (d : Nat) (f : Die → Die) : (s.onDie d f).linkWords = s.linkWords := rfl
@[simp] theorem State.onDie_notices (s : State) (d : Nat) (f : Die → Die) : (s.onDie d f).notices = s.notices := rfl

/-! ### State.setPart -/

@[simp] theorem State.setPart_schedule (s : State) (k : Nat) (x : Partition) : (s.setPart k x).schedule = s.schedule := rfl
@[simp] theorem State.setPart_free (s : State) (k : Nat) (x : Partition) : (s.setPart k x).free = s.free := rfl
@[simp] theorem State.setPart_curPipe (s : State) (k : Nat) (x : Partition) : (s.setPart k x).curPipe = s.curPipe := rfl
@[simp] theorem State.setPart_curStream (s : State) (k : Nat) (x : Partition) : (s.setPart k x).curStream = s.curStream := rfl
@[simp] theorem State.setPart_curThread (s : State) (k : Nat) (x : Partition) : (s.setPart k x).curThread = s.curThread := rfl
@[simp] theorem State.setPart_pipes (s : State) (k : Nat) (x : Partition) : (s.setPart k x).pipes = s.pipes := rfl
@[simp] theorem State.setPart_dies (s : State) (k : Nat) (x : Partition) : (s.setPart k x).dies = s.dies := rfl
@[simp] theorem State.setPart_parts (s : State) (k : Nat) (x : Partition) : (s.setPart k x).parts = s.parts.set k x := rfl
@[simp] theorem State.setPart_words (s : State) (k : Nat) (x : Partition) : (s.setPart k x).words = s.words := rfl
@[simp] theorem State.setPart_mem (s : State) (k : Nat) (x : Partition) : (s.setPart k x).mem = s.mem := rfl
@[simp] theorem State.setPart_bad (s : State) (k : Nat) (x : Partition) : (s.setPart k x).bad = s.bad := rfl
@[simp] theorem State.setPart_gigs (s : State) (k : Nat) (x : Partition) : (s.setPart k x).gigs = s.gigs := rfl
@[simp] theorem State.setPart_coaches (s : State) (k : Nat) (x : Partition) : (s.setPart k x).coaches = s.coaches := rfl
@[simp] theorem State.setPart_evs (s : State) (k : Nat) (x : Partition) : (s.setPart k x).evs = s.evs := rfl
@[simp] theorem State.setPart_kidWaits (s : State) (k : Nat) (x : Partition) : (s.setPart k x).kidWaits = s.kidWaits := rfl
@[simp] theorem State.setPart_held (s : State) (k : Nat) (x : Partition) : (s.setPart k x).held = s.held := rfl
@[simp] theorem State.setPart_launches (s : State) (k : Nat) (x : Partition) : (s.setPart k x).launches = s.launches := rfl
@[simp] theorem State.setPart_nextLid (s : State) (k : Nat) (x : Partition) : (s.setPart k x).nextLid = s.nextLid := rfl
@[simp] theorem State.setPart_tlb (s : State) (k : Nat) (x : Partition) : (s.setPart k x).tlb = s.tlb := rfl
@[simp] theorem State.setPart_portal (s : State) (k : Nat) (x : Partition) : (s.setPart k x).portal = s.portal := rfl
@[simp] theorem State.setPart_fw (s : State) (k : Nat) (x : Partition) : (s.setPart k x).fw = s.fw := rfl
@[simp] theorem State.setPart_linkWords (s : State) (k : Nat) (x : Partition) : (s.setPart k x).linkWords = s.linkWords := rfl
@[simp] theorem State.setPart_notices (s : State) (k : Nat) (x : Partition) : (s.setPart k x).notices = s.notices := rfl

/-! ### State.onPart -/

@[simp] theorem State.onPart_schedule (s : State) (k : Nat) (f : Partition → Partition) : (s.onPart k f).schedule = s.schedule := rfl
@[simp] theorem State.onPart_free (s : State) (k : Nat) (f : Partition → Partition) : (s.onPart k f).free = s.free := rfl
@[simp] theorem State.onPart_curPipe (s : State) (k : Nat) (f : Partition → Partition) : (s.onPart k f).curPipe = s.curPipe := rfl
@[simp] theorem State.onPart_curStream (s : State) (k : Nat) (f : Partition → Partition) : (s.onPart k f).curStream = s.curStream := rfl
@[simp] theorem State.onPart_curThread (s : State) (k : Nat) (f : Partition → Partition) : (s.onPart k f).curThread = s.curThread := rfl
@[simp] theorem State.onPart_pipes (s : State) (k : Nat) (f : Partition → Partition) : (s.onPart k f).pipes = s.pipes := rfl
@[simp] theorem State.onPart_dies (s : State) (k : Nat) (f : Partition → Partition) : (s.onPart k f).dies = s.dies := rfl
@[simp] theorem State.onPart_parts (s : State) (k : Nat) (f : Partition → Partition) : (s.onPart k f).parts = s.parts.set k (f (s.part k)) := rfl
@[simp] theorem State.onPart_words (s : State) (k : Nat) (f : Partition → Partition) : (s.onPart k f).words = s.words := rfl
@[simp] theorem State.onPart_mem (s : State) (k : Nat) (f : Partition → Partition) : (s.onPart k f).mem = s.mem := rfl
@[simp] theorem State.onPart_bad (s : State) (k : Nat) (f : Partition → Partition) : (s.onPart k f).bad = s.bad := rfl
@[simp] theorem State.onPart_gigs (s : State) (k : Nat) (f : Partition → Partition) : (s.onPart k f).gigs = s.gigs := rfl
@[simp] theorem State.onPart_coaches (s : State) (k : Nat) (f : Partition → Partition) : (s.onPart k f).coaches = s.coaches := rfl
@[simp] theorem State.onPart_evs (s : State) (k : Nat) (f : Partition → Partition) : (s.onPart k f).evs = s.evs := rfl
@[simp] theorem State.onPart_kidWaits (s : State) (k : Nat) (f : Partition → Partition) : (s.onPart k f).kidWaits = s.kidWaits := rfl
@[simp] theorem State.onPart_held (s : State) (k : Nat) (f : Partition → Partition) : (s.onPart k f).held = s.held := rfl
@[simp] theorem State.onPart_launches (s : State) (k : Nat) (f : Partition → Partition) : (s.onPart k f).launches = s.launches := rfl
@[simp] theorem State.onPart_nextLid (s : State) (k : Nat) (f : Partition → Partition) : (s.onPart k f).nextLid = s.nextLid := rfl
@[simp] theorem State.onPart_tlb (s : State) (k : Nat) (f : Partition → Partition) : (s.onPart k f).tlb = s.tlb := rfl
@[simp] theorem State.onPart_portal (s : State) (k : Nat) (f : Partition → Partition) : (s.onPart k f).portal = s.portal := rfl
@[simp] theorem State.onPart_fw (s : State) (k : Nat) (f : Partition → Partition) : (s.onPart k f).fw = s.fw := rfl
@[simp] theorem State.onPart_linkWords (s : State) (k : Nat) (f : Partition → Partition) : (s.onPart k f).linkWords = s.linkWords := rfl
@[simp] theorem State.onPart_notices (s : State) (k : Nat) (f : Partition → Partition) : (s.onPart k f).notices = s.notices := rfl

/-! ### State.onRun -/

@[simp] theorem State.onRun_schedule (s : State) (k : Nat) (f : TimedRun → TimedRun) : (s.onRun k f).schedule = s.schedule := rfl
@[simp] theorem State.onRun_free (s : State) (k : Nat) (f : TimedRun → TimedRun) : (s.onRun k f).free = s.free := rfl
@[simp] theorem State.onRun_curPipe (s : State) (k : Nat) (f : TimedRun → TimedRun) : (s.onRun k f).curPipe = s.curPipe := rfl
@[simp] theorem State.onRun_curStream (s : State) (k : Nat) (f : TimedRun → TimedRun) : (s.onRun k f).curStream = s.curStream := rfl
@[simp] theorem State.onRun_curThread (s : State) (k : Nat) (f : TimedRun → TimedRun) : (s.onRun k f).curThread = s.curThread := rfl
@[simp] theorem State.onRun_pipes (s : State) (k : Nat) (f : TimedRun → TimedRun) : (s.onRun k f).pipes = s.pipes := rfl
@[simp] theorem State.onRun_dies (s : State) (k : Nat) (f : TimedRun → TimedRun) : (s.onRun k f).dies = s.dies := rfl
@[simp] theorem State.onRun_parts (s : State) (k : Nat) (f : TimedRun → TimedRun) : (s.onRun k f).parts = s.parts.set k { s.part k with run := f (s.part k).run } := rfl
@[simp] theorem State.onRun_words (s : State) (k : Nat) (f : TimedRun → TimedRun) : (s.onRun k f).words = s.words := rfl
@[simp] theorem State.onRun_mem (s : State) (k : Nat) (f : TimedRun → TimedRun) : (s.onRun k f).mem = s.mem := rfl
@[simp] theorem State.onRun_bad (s : State) (k : Nat) (f : TimedRun → TimedRun) : (s.onRun k f).bad = s.bad := rfl
@[simp] theorem State.onRun_gigs (s : State) (k : Nat) (f : TimedRun → TimedRun) : (s.onRun k f).gigs = s.gigs := rfl
@[simp] theorem State.onRun_coaches (s : State) (k : Nat) (f : TimedRun → TimedRun) : (s.onRun k f).coaches = s.coaches := rfl
@[simp] theorem State.onRun_evs (s : State) (k : Nat) (f : TimedRun → TimedRun) : (s.onRun k f).evs = s.evs := rfl
@[simp] theorem State.onRun_kidWaits (s : State) (k : Nat) (f : TimedRun → TimedRun) : (s.onRun k f).kidWaits = s.kidWaits := rfl
@[simp] theorem State.onRun_held (s : State) (k : Nat) (f : TimedRun → TimedRun) : (s.onRun k f).held = s.held := rfl
@[simp] theorem State.onRun_launches (s : State) (k : Nat) (f : TimedRun → TimedRun) : (s.onRun k f).launches = s.launches := rfl
@[simp] theorem State.onRun_nextLid (s : State) (k : Nat) (f : TimedRun → TimedRun) : (s.onRun k f).nextLid = s.nextLid := rfl
@[simp] theorem State.onRun_tlb (s : State) (k : Nat) (f : TimedRun → TimedRun) : (s.onRun k f).tlb = s.tlb := rfl
@[simp] theorem State.onRun_portal (s : State) (k : Nat) (f : TimedRun → TimedRun) : (s.onRun k f).portal = s.portal := rfl
@[simp] theorem State.onRun_fw (s : State) (k : Nat) (f : TimedRun → TimedRun) : (s.onRun k f).fw = s.fw := rfl
@[simp] theorem State.onRun_linkWords (s : State) (k : Nat) (f : TimedRun → TimedRun) : (s.onRun k f).linkWords = s.linkWords := rfl
@[simp] theorem State.onRun_notices (s : State) (k : Nat) (f : TimedRun → TimedRun) : (s.onRun k f).notices = s.notices := rfl

/-! ### State.onGig -/

@[simp] theorem State.onGig_schedule (s : State) (g : Nat) (f : Gig → Gig) : (s.onGig g f).schedule = s.schedule := rfl
@[simp] theorem State.onGig_free (s : State) (g : Nat) (f : Gig → Gig) : (s.onGig g f).free = s.free := rfl
@[simp] theorem State.onGig_curPipe (s : State) (g : Nat) (f : Gig → Gig) : (s.onGig g f).curPipe = s.curPipe := rfl
@[simp] theorem State.onGig_curStream (s : State) (g : Nat) (f : Gig → Gig) : (s.onGig g f).curStream = s.curStream := rfl
@[simp] theorem State.onGig_curThread (s : State) (g : Nat) (f : Gig → Gig) : (s.onGig g f).curThread = s.curThread := rfl
@[simp] theorem State.onGig_pipes (s : State) (g : Nat) (f : Gig → Gig) : (s.onGig g f).pipes = s.pipes := rfl
@[simp] theorem State.onGig_dies (s : State) (g : Nat) (f : Gig → Gig) : (s.onGig g f).dies = s.dies := rfl
@[simp] theorem State.onGig_parts (s : State) (g : Nat) (f : Gig → Gig) : (s.onGig g f).parts = s.parts := rfl
@[simp] theorem State.onGig_words (s : State) (g : Nat) (f : Gig → Gig) : (s.onGig g f).words = s.words := rfl
@[simp] theorem State.onGig_mem (s : State) (g : Nat) (f : Gig → Gig) : (s.onGig g f).mem = s.mem := rfl
@[simp] theorem State.onGig_bad (s : State) (g : Nat) (f : Gig → Gig) : (s.onGig g f).bad = s.bad := rfl
@[simp] theorem State.onGig_gigs (s : State) (g : Nat) (f : Gig → Gig) : (s.onGig g f).gigs = s.gigs.set g (f (s.gig g)) := rfl
@[simp] theorem State.onGig_coaches (s : State) (g : Nat) (f : Gig → Gig) : (s.onGig g f).coaches = s.coaches := rfl
@[simp] theorem State.onGig_evs (s : State) (g : Nat) (f : Gig → Gig) : (s.onGig g f).evs = s.evs := rfl
@[simp] theorem State.onGig_kidWaits (s : State) (g : Nat) (f : Gig → Gig) : (s.onGig g f).kidWaits = s.kidWaits := rfl
@[simp] theorem State.onGig_held (s : State) (g : Nat) (f : Gig → Gig) : (s.onGig g f).held = s.held := rfl
@[simp] theorem State.onGig_launches (s : State) (g : Nat) (f : Gig → Gig) : (s.onGig g f).launches = s.launches := rfl
@[simp] theorem State.onGig_nextLid (s : State) (g : Nat) (f : Gig → Gig) : (s.onGig g f).nextLid = s.nextLid := rfl
@[simp] theorem State.onGig_tlb (s : State) (g : Nat) (f : Gig → Gig) : (s.onGig g f).tlb = s.tlb := rfl
@[simp] theorem State.onGig_portal (s : State) (g : Nat) (f : Gig → Gig) : (s.onGig g f).portal = s.portal := rfl
@[simp] theorem State.onGig_fw (s : State) (g : Nat) (f : Gig → Gig) : (s.onGig g f).fw = s.fw := rfl
@[simp] theorem State.onGig_linkWords (s : State) (g : Nat) (f : Gig → Gig) : (s.onGig g f).linkWords = s.linkWords := rfl
@[simp] theorem State.onGig_notices (s : State) (g : Nat) (f : Gig → Gig) : (s.onGig g f).notices = s.notices := rfl

/-! ### State.onCoach -/

@[simp] theorem State.onCoach_schedule (s : State) (c : Nat) (f : Coach → Coach) : (s.onCoach c f).schedule = s.schedule := rfl
@[simp] theorem State.onCoach_free (s : State) (c : Nat) (f : Coach → Coach) : (s.onCoach c f).free = s.free := rfl
@[simp] theorem State.onCoach_curPipe (s : State) (c : Nat) (f : Coach → Coach) : (s.onCoach c f).curPipe = s.curPipe := rfl
@[simp] theorem State.onCoach_curStream (s : State) (c : Nat) (f : Coach → Coach) : (s.onCoach c f).curStream = s.curStream := rfl
@[simp] theorem State.onCoach_curThread (s : State) (c : Nat) (f : Coach → Coach) : (s.onCoach c f).curThread = s.curThread := rfl
@[simp] theorem State.onCoach_pipes (s : State) (c : Nat) (f : Coach → Coach) : (s.onCoach c f).pipes = s.pipes := rfl
@[simp] theorem State.onCoach_dies (s : State) (c : Nat) (f : Coach → Coach) : (s.onCoach c f).dies = s.dies := rfl
@[simp] theorem State.onCoach_parts (s : State) (c : Nat) (f : Coach → Coach) : (s.onCoach c f).parts = s.parts := rfl
@[simp] theorem State.onCoach_words (s : State) (c : Nat) (f : Coach → Coach) : (s.onCoach c f).words = s.words := rfl
@[simp] theorem State.onCoach_mem (s : State) (c : Nat) (f : Coach → Coach) : (s.onCoach c f).mem = s.mem := rfl
@[simp] theorem State.onCoach_bad (s : State) (c : Nat) (f : Coach → Coach) : (s.onCoach c f).bad = s.bad := rfl
@[simp] theorem State.onCoach_gigs (s : State) (c : Nat) (f : Coach → Coach) : (s.onCoach c f).gigs = s.gigs := rfl
@[simp] theorem State.onCoach_coaches (s : State) (c : Nat) (f : Coach → Coach) : (s.onCoach c f).coaches = s.coaches.set c (f (s.coach c)) := rfl
@[simp] theorem State.onCoach_evs (s : State) (c : Nat) (f : Coach → Coach) : (s.onCoach c f).evs = s.evs := rfl
@[simp] theorem State.onCoach_kidWaits (s : State) (c : Nat) (f : Coach → Coach) : (s.onCoach c f).kidWaits = s.kidWaits := rfl
@[simp] theorem State.onCoach_held (s : State) (c : Nat) (f : Coach → Coach) : (s.onCoach c f).held = s.held := rfl
@[simp] theorem State.onCoach_launches (s : State) (c : Nat) (f : Coach → Coach) : (s.onCoach c f).launches = s.launches := rfl
@[simp] theorem State.onCoach_nextLid (s : State) (c : Nat) (f : Coach → Coach) : (s.onCoach c f).nextLid = s.nextLid := rfl
@[simp] theorem State.onCoach_tlb (s : State) (c : Nat) (f : Coach → Coach) : (s.onCoach c f).tlb = s.tlb := rfl
@[simp] theorem State.onCoach_portal (s : State) (c : Nat) (f : Coach → Coach) : (s.onCoach c f).portal = s.portal := rfl
@[simp] theorem State.onCoach_fw (s : State) (c : Nat) (f : Coach → Coach) : (s.onCoach c f).fw = s.fw := rfl
@[simp] theorem State.onCoach_linkWords (s : State) (c : Nat) (f : Coach → Coach) : (s.onCoach c f).linkWords = s.linkWords := rfl
@[simp] theorem State.onCoach_notices (s : State) (c : Nat) (f : Coach → Coach) : (s.onCoach c f).notices = s.notices := rfl

/-! ### State.drawn -/

@[simp] theorem State.drawn_schedule (s : State) : (s.drawn).schedule = s.schedule := rfl
@[simp] theorem State.drawn_free (s : State) : (s.drawn).free = s.free + 1 := rfl
@[simp] theorem State.drawn_curPipe (s : State) : (s.drawn).curPipe = s.curPipe := rfl
@[simp] theorem State.drawn_curStream (s : State) : (s.drawn).curStream = s.curStream := rfl
@[simp] theorem State.drawn_curThread (s : State) : (s.drawn).curThread = s.curThread := rfl
@[simp] theorem State.drawn_pipes (s : State) : (s.drawn).pipes = s.pipes := rfl
@[simp] theorem State.drawn_dies (s : State) : (s.drawn).dies = s.dies := rfl
@[simp] theorem State.drawn_parts (s : State) : (s.drawn).parts = s.parts := rfl
@[simp] theorem State.drawn_words (s : State) : (s.drawn).words = s.words := rfl
@[simp] theorem State.drawn_mem (s : State) : (s.drawn).mem = s.mem := rfl
@[simp] theorem State.drawn_bad (s : State) : (s.drawn).bad = s.bad := rfl
@[simp] theorem State.drawn_gigs (s : State) : (s.drawn).gigs = s.gigs := rfl
@[simp] theorem State.drawn_coaches (s : State) : (s.drawn).coaches = s.coaches := rfl
@[simp] theorem State.drawn_evs (s : State) : (s.drawn).evs = s.evs := rfl
@[simp] theorem State.drawn_kidWaits (s : State) : (s.drawn).kidWaits = s.kidWaits := rfl
@[simp] theorem State.drawn_held (s : State) : (s.drawn).held = s.held := rfl
@[simp] theorem State.drawn_launches (s : State) : (s.drawn).launches = s.launches := rfl
@[simp] theorem State.drawn_nextLid (s : State) : (s.drawn).nextLid = s.nextLid := rfl
@[simp] theorem State.drawn_tlb (s : State) : (s.drawn).tlb = s.tlb := rfl
@[simp] theorem State.drawn_portal (s : State) : (s.drawn).portal = s.portal := rfl
@[simp] theorem State.drawn_fw (s : State) : (s.drawn).fw = s.fw := rfl
@[simp] theorem State.drawn_linkWords (s : State) : (s.drawn).linkWords = s.linkWords := rfl
@[simp] theorem State.drawn_notices (s : State) : (s.drawn).notices = s.notices := rfl

/-! ### State.onThread -/

@[simp] theorem State.onThread_schedule (s : State) (t : Nat) (f : Thread → Thread) : (s.onThread t f).schedule = s.schedule := by
  unfold State.onThread; split <;> rfl
@[simp] theorem State.onThread_free (s : State) (t : Nat) (f : Thread → Thread) : (s.onThread t f).free = s.free := by
  unfold State.onThread; split <;> rfl
@[simp] theorem State.onThread_curPipe (s : State) (t : Nat) (f : Thread → Thread) : (s.onThread t f).curPipe = s.curPipe := by
  unfold State.onThread; split <;> rfl
@[simp] theorem State.onThread_curStream (s : State) (t : Nat) (f : Thread → Thread) : (s.onThread t f).curStream = s.curStream := by
  unfold State.onThread; split <;> rfl
@[simp] theorem State.onThread_curThread (s : State) (t : Nat) (f : Thread → Thread) : (s.onThread t f).curThread = s.curThread := by
  unfold State.onThread; split <;> rfl
@[simp] theorem State.onThread_pipes (s : State) (t : Nat) (f : Thread → Thread) : (s.onThread t f).pipes = s.pipes := by
  unfold State.onThread; split <;> rfl
@[simp] theorem State.onThread_dies (s : State) (t : Nat) (f : Thread → Thread) : (s.onThread t f).dies = s.dies := by
  unfold State.onThread; split <;> rfl
@[simp] theorem State.onThread_parts (s : State) (t : Nat) (f : Thread → Thread) : (s.onThread t f).parts = s.parts := by
  unfold State.onThread; split <;> rfl
@[simp] theorem State.onThread_words (s : State) (t : Nat) (f : Thread → Thread) : (s.onThread t f).words = s.words := by
  unfold State.onThread; split <;> rfl
@[simp] theorem State.onThread_mem (s : State) (t : Nat) (f : Thread → Thread) : (s.onThread t f).mem = s.mem := by
  unfold State.onThread; split <;> rfl
@[simp] theorem State.onThread_bad (s : State) (t : Nat) (f : Thread → Thread) : (s.onThread t f).bad = s.bad := by
  unfold State.onThread; split <;> rfl
@[simp] theorem State.onThread_gigs (s : State) (t : Nat) (f : Thread → Thread) : (s.onThread t f).gigs = s.gigs := by
  unfold State.onThread; split <;> rfl
@[simp] theorem State.onThread_evs (s : State) (t : Nat) (f : Thread → Thread) : (s.onThread t f).evs = s.evs := by
  unfold State.onThread; split <;> rfl
@[simp] theorem State.onThread_kidWaits (s : State) (t : Nat) (f : Thread → Thread) : (s.onThread t f).kidWaits = s.kidWaits := by
  unfold State.onThread; split <;> rfl
@[simp] theorem State.onThread_held (s : State) (t : Nat) (f : Thread → Thread) : (s.onThread t f).held = s.held := by
  unfold State.onThread; split <;> rfl
@[simp] theorem State.onThread_launches (s : State) (t : Nat) (f : Thread → Thread) : (s.onThread t f).launches = s.launches := by
  unfold State.onThread; split <;> rfl
@[simp] theorem State.onThread_nextLid (s : State) (t : Nat) (f : Thread → Thread) : (s.onThread t f).nextLid = s.nextLid := by
  unfold State.onThread; split <;> rfl
@[simp] theorem State.onThread_tlb (s : State) (t : Nat) (f : Thread → Thread) : (s.onThread t f).tlb = s.tlb := by
  unfold State.onThread; split <;> rfl
@[simp] theorem State.onThread_portal (s : State) (t : Nat) (f : Thread → Thread) : (s.onThread t f).portal = s.portal := by
  unfold State.onThread; split <;> rfl
@[simp] theorem State.onThread_fw (s : State) (t : Nat) (f : Thread → Thread) : (s.onThread t f).fw = s.fw := by
  unfold State.onThread; split <;> rfl
@[simp] theorem State.onThread_linkWords (s : State) (t : Nat) (f : Thread → Thread) : (s.onThread t f).linkWords = s.linkWords := by
  unfold State.onThread; split <;> rfl
@[simp] theorem State.onThread_notices (s : State) (t : Nat) (f : Thread → Thread) : (s.onThread t f).notices = s.notices := by
  unfold State.onThread; split <;> rfl

/-! ### Pipe.detect -/

@[simp] theorem Pipe.detect_c (p : Pipe) (ds : List Det) : (p.detect ds).c = p.c := rfl
@[simp] theorem Pipe.detect_l (p : Pipe) (ds : List Det) : (p.detect ds).l = p.l := rfl
@[simp] theorem Pipe.detect_x (p : Pipe) (ds : List Det) : (p.detect ds).x = p.x := rfl
@[simp] theorem Pipe.detect_s (p : Pipe) (ds : List Det) : (p.detect ds).s = p.s := rfl
@[simp] theorem Pipe.detect_regs (p : Pipe) (ds : List Det) : (p.detect ds).regs = p.regs := rfl
@[simp] theorem Pipe.detect_q (p : Pipe) (ds : List Det) : (p.detect ds).q = p.q := rfl
@[simp] theorem Pipe.detect_mx (p : Pipe) (ds : List Det) : (p.detect ds).mx = p.mx := rfl
@[simp] theorem Pipe.detect_mem (p : Pipe) (ds : List Det) : (p.detect ds).mem = p.mem := rfl
@[simp] theorem Pipe.detect_csr (p : Pipe) (ds : List Det) : (p.detect ds).csr = p.csr := rfl
@[simp] theorem Pipe.detect_fly (p : Pipe) (ds : List Det) : (p.detect ds).fly = p.fly := rfl
@[simp] theorem Pipe.detect_cyc (p : Pipe) (ds : List Det) : (p.detect ds).cyc = { p.cyc with dets := p.cyc.dets ++ ds } := rfl
@[simp] theorem Pipe.detect_frz (p : Pipe) (ds : List Det) : (p.detect ds).frz = p.frz := rfl
@[simp] theorem Pipe.detect_detected (p : Pipe) (ds : List Det) : (p.detect ds).detected = p.detected := rfl
@[simp] theorem Pipe.detect_stages (p : Pipe) (ds : List Det) : (p.detect ds).stages = p.stages := rfl
@[simp] theorem Pipe.detect_halted (p : Pipe) (ds : List Det) : (p.detect ds).halted = p.halted := rfl
@[simp] theorem Pipe.detect_finished (p : Pipe) (ds : List Det) : (p.detect ds).finished = p.finished := rfl
@[simp] theorem Pipe.detect_book (p : Pipe) (ds : List Det) : (p.detect ds).book = p.book := rfl

/-! ### Pipe.drawn -/

@[simp] theorem Pipe.drawn_c (p : Pipe) (n : Nat) : (p.drawn n).c = p.c := rfl
@[simp] theorem Pipe.drawn_l (p : Pipe) (n : Nat) : (p.drawn n).l = p.l := rfl
@[simp] theorem Pipe.drawn_x (p : Pipe) (n : Nat) : (p.drawn n).x = p.x := rfl
@[simp] theorem Pipe.drawn_s (p : Pipe) (n : Nat) : (p.drawn n).s = p.s := rfl
@[simp] theorem Pipe.drawn_regs (p : Pipe) (n : Nat) : (p.drawn n).regs = p.regs := rfl
@[simp] theorem Pipe.drawn_q (p : Pipe) (n : Nat) : (p.drawn n).q = p.q := rfl
@[simp] theorem Pipe.drawn_mx (p : Pipe) (n : Nat) : (p.drawn n).mx = p.mx := rfl
@[simp] theorem Pipe.drawn_mem (p : Pipe) (n : Nat) : (p.drawn n).mem = p.mem := rfl
@[simp] theorem Pipe.drawn_csr (p : Pipe) (n : Nat) : (p.drawn n).csr = p.csr := rfl
@[simp] theorem Pipe.drawn_fly (p : Pipe) (n : Nat) : (p.drawn n).fly = p.fly := rfl
@[simp] theorem Pipe.drawn_cyc (p : Pipe) (n : Nat) : (p.drawn n).cyc = { p.cyc with draws := if p.cyc.draws < n then n else p.cyc.draws } := rfl
@[simp] theorem Pipe.drawn_frz (p : Pipe) (n : Nat) : (p.drawn n).frz = p.frz := rfl
@[simp] theorem Pipe.drawn_detected (p : Pipe) (n : Nat) : (p.drawn n).detected = p.detected := rfl
@[simp] theorem Pipe.drawn_stages (p : Pipe) (n : Nat) : (p.drawn n).stages = p.stages := rfl
@[simp] theorem Pipe.drawn_halted (p : Pipe) (n : Nat) : (p.drawn n).halted = p.halted := rfl
@[simp] theorem Pipe.drawn_finished (p : Pipe) (n : Nat) : (p.drawn n).finished = p.finished := rfl
@[simp] theorem Pipe.drawn_book (p : Pipe) (n : Nat) : (p.drawn n).book = p.book := rfl

/-! ### Pipe.produce -/

@[simp] theorem Pipe.produce_c (p : Pipe) (k : StreamKind) (now : Tick) (lat : Nat) (r : Result) (f : FlagSet) : (p.produce k now lat r f).c = p.c := rfl
@[simp] theorem Pipe.produce_l (p : Pipe) (k : StreamKind) (now : Tick) (lat : Nat) (r : Result) (f : FlagSet) : (p.produce k now lat r f).l = p.l := rfl
@[simp] theorem Pipe.produce_x (p : Pipe) (k : StreamKind) (now : Tick) (lat : Nat) (r : Result) (f : FlagSet) : (p.produce k now lat r f).x = p.x := rfl
@[simp] theorem Pipe.produce_s (p : Pipe) (k : StreamKind) (now : Tick) (lat : Nat) (r : Result) (f : FlagSet) : (p.produce k now lat r f).s = p.s := rfl
@[simp] theorem Pipe.produce_regs (p : Pipe) (k : StreamKind) (now : Tick) (lat : Nat) (r : Result) (f : FlagSet) : (p.produce k now lat r f).regs = p.regs := rfl
@[simp] theorem Pipe.produce_q (p : Pipe) (k : StreamKind) (now : Tick) (lat : Nat) (r : Result) (f : FlagSet) : (p.produce k now lat r f).q = p.q := rfl
@[simp] theorem Pipe.produce_mx (p : Pipe) (k : StreamKind) (now : Tick) (lat : Nat) (r : Result) (f : FlagSet) : (p.produce k now lat r f).mx = p.mx := rfl
@[simp] theorem Pipe.produce_mem (p : Pipe) (k : StreamKind) (now : Tick) (lat : Nat) (r : Result) (f : FlagSet) : (p.produce k now lat r f).mem = p.mem := rfl
@[simp] theorem Pipe.produce_csr (p : Pipe) (k : StreamKind) (now : Tick) (lat : Nat) (r : Result) (f : FlagSet) : (p.produce k now lat r f).csr = p.csr := rfl
@[simp] theorem Pipe.produce_fly (p : Pipe) (k : StreamKind) (now : Tick) (lat : Nat) (r : Result) (f : FlagSet) : (p.produce k now lat r f).fly = { p.fly with res := p.fly.res ++ [{ due := now + BitVec.ofNat 64 lat, stream := k.num, res := r, flags := f, issue := now }] } := rfl
@[simp] theorem Pipe.produce_cyc (p : Pipe) (k : StreamKind) (now : Tick) (lat : Nat) (r : Result) (f : FlagSet) : (p.produce k now lat r f).cyc = p.cyc := rfl
@[simp] theorem Pipe.produce_frz (p : Pipe) (k : StreamKind) (now : Tick) (lat : Nat) (r : Result) (f : FlagSet) : (p.produce k now lat r f).frz = p.frz := rfl
@[simp] theorem Pipe.produce_detected (p : Pipe) (k : StreamKind) (now : Tick) (lat : Nat) (r : Result) (f : FlagSet) : (p.produce k now lat r f).detected = p.detected := rfl
@[simp] theorem Pipe.produce_stages (p : Pipe) (k : StreamKind) (now : Tick) (lat : Nat) (r : Result) (f : FlagSet) : (p.produce k now lat r f).stages = p.stages := rfl
@[simp] theorem Pipe.produce_halted (p : Pipe) (k : StreamKind) (now : Tick) (lat : Nat) (r : Result) (f : FlagSet) : (p.produce k now lat r f).halted = p.halted := rfl
@[simp] theorem Pipe.produce_finished (p : Pipe) (k : StreamKind) (now : Tick) (lat : Nat) (r : Result) (f : FlagSet) : (p.produce k now lat r f).finished = p.finished := rfl
@[simp] theorem Pipe.produce_book (p : Pipe) (k : StreamKind) (now : Tick) (lat : Nat) (r : Result) (f : FlagSet) : (p.produce k now lat r f).book = p.book := rfl

/-! ### Pipe.note -/

@[simp] theorem Pipe.note_c (p : Pipe) (now : Tick) (kind : Nat) (k : StreamKind) (data : Nat) : (p.note now kind k data).c = p.c := rfl
@[simp] theorem Pipe.note_l (p : Pipe) (now : Tick) (kind : Nat) (k : StreamKind) (data : Nat) : (p.note now kind k data).l = p.l := rfl
@[simp] theorem Pipe.note_x (p : Pipe) (now : Tick) (kind : Nat) (k : StreamKind) (data : Nat) : (p.note now kind k data).x = p.x := rfl
@[simp] theorem Pipe.note_s (p : Pipe) (now : Tick) (kind : Nat) (k : StreamKind) (data : Nat) : (p.note now kind k data).s = p.s := rfl
@[simp] theorem Pipe.note_regs (p : Pipe) (now : Tick) (kind : Nat) (k : StreamKind) (data : Nat) : (p.note now kind k data).regs = p.regs := rfl
@[simp] theorem Pipe.note_q (p : Pipe) (now : Tick) (kind : Nat) (k : StreamKind) (data : Nat) : (p.note now kind k data).q = p.q := rfl
@[simp] theorem Pipe.note_mx (p : Pipe) (now : Tick) (kind : Nat) (k : StreamKind) (data : Nat) : (p.note now kind k data).mx = p.mx := rfl
@[simp] theorem Pipe.note_mem (p : Pipe) (now : Tick) (kind : Nat) (k : StreamKind) (data : Nat) : (p.note now kind k data).mem = p.mem := rfl
@[simp] theorem Pipe.note_csr (p : Pipe) (now : Tick) (kind : Nat) (k : StreamKind) (data : Nat) : (p.note now kind k data).csr = p.csr := rfl
@[simp] theorem Pipe.note_fly (p : Pipe) (now : Tick) (kind : Nat) (k : StreamKind) (data : Nat) : (p.note now kind k data).fly = p.fly := rfl
@[simp] theorem Pipe.note_cyc (p : Pipe) (now : Tick) (kind : Nat) (k : StreamKind) (data : Nat) : (p.note now kind k data).cyc = p.cyc := rfl
@[simp] theorem Pipe.note_frz (p : Pipe) (now : Tick) (kind : Nat) (k : StreamKind) (data : Nat) : (p.note now kind k data).frz = p.frz := rfl
@[simp] theorem Pipe.note_detected (p : Pipe) (now : Tick) (kind : Nat) (k : StreamKind) (data : Nat) : (p.note now kind k data).detected = p.detected := rfl
@[simp] theorem Pipe.note_stages (p : Pipe) (now : Tick) (kind : Nat) (k : StreamKind) (data : Nat) : (p.note now kind k data).stages = p.stages := rfl
@[simp] theorem Pipe.note_halted (p : Pipe) (now : Tick) (kind : Nat) (k : StreamKind) (data : Nat) : (p.note now kind k data).halted = p.halted := rfl
@[simp] theorem Pipe.note_finished (p : Pipe) (now : Tick) (kind : Nat) (k : StreamKind) (data : Nat) : (p.note now kind k data).finished = p.finished := rfl
@[simp] theorem Pipe.note_book (p : Pipe) (now : Tick) (kind : Nat) (k : StreamKind) (data : Nat) : (p.note now kind k data).book = p.book.add now kind (p.seq k).pc data := rfl

/-! ### Pipe.setSt -/

@[simp] theorem Pipe.setSt_c (p : Pipe) (n : Nat) (r : StreamReg) : (p.setSt n r).c = p.c := rfl
@[simp] theorem Pipe.setSt_l (p : Pipe) (n : Nat) (r : StreamReg) : (p.setSt n r).l = p.l := rfl
@[simp] theorem Pipe.setSt_x (p : Pipe) (n : Nat) (r : StreamReg) : (p.setSt n r).x = p.x := rfl
@[simp] theorem Pipe.setSt_s (p : Pipe) (n : Nat) (r : StreamReg) : (p.setSt n r).s = p.s := rfl
@[simp] theorem Pipe.setSt_regs (p : Pipe) (n : Nat) (r : StreamReg) : (p.setSt n r).regs = { p.regs with st := p.regs.st.set n r } := rfl
@[simp] theorem Pipe.setSt_q (p : Pipe) (n : Nat) (r : StreamReg) : (p.setSt n r).q = p.q := rfl
@[simp] theorem Pipe.setSt_mx (p : Pipe) (n : Nat) (r : StreamReg) : (p.setSt n r).mx = p.mx := rfl
@[simp] theorem Pipe.setSt_mem (p : Pipe) (n : Nat) (r : StreamReg) : (p.setSt n r).mem = p.mem := rfl
@[simp] theorem Pipe.setSt_csr (p : Pipe) (n : Nat) (r : StreamReg) : (p.setSt n r).csr = p.csr := rfl
@[simp] theorem Pipe.setSt_fly (p : Pipe) (n : Nat) (r : StreamReg) : (p.setSt n r).fly = p.fly := rfl
@[simp] theorem Pipe.setSt_cyc (p : Pipe) (n : Nat) (r : StreamReg) : (p.setSt n r).cyc = p.cyc := rfl
@[simp] theorem Pipe.setSt_frz (p : Pipe) (n : Nat) (r : StreamReg) : (p.setSt n r).frz = p.frz := rfl
@[simp] theorem Pipe.setSt_detected (p : Pipe) (n : Nat) (r : StreamReg) : (p.setSt n r).detected = p.detected := rfl
@[simp] theorem Pipe.setSt_stages (p : Pipe) (n : Nat) (r : StreamReg) : (p.setSt n r).stages = p.stages := rfl
@[simp] theorem Pipe.setSt_halted (p : Pipe) (n : Nat) (r : StreamReg) : (p.setSt n r).halted = p.halted := rfl
@[simp] theorem Pipe.setSt_finished (p : Pipe) (n : Nat) (r : StreamReg) : (p.setSt n r).finished = p.finished := rfl
@[simp] theorem Pipe.setSt_book (p : Pipe) (n : Nat) (r : StreamReg) : (p.setSt n r).book = p.book := rfl

/-! ### Pipe.setDq -/

@[simp] theorem Pipe.setDq_c (p : Pipe) (n : Nat) (q : List (QEntry VWord)) : (p.setDq n q).c = p.c := rfl
@[simp] theorem Pipe.setDq_l (p : Pipe) (n : Nat) (q : List (QEntry VWord)) : (p.setDq n q).l = p.l := rfl
@[simp] theorem Pipe.setDq_x (p : Pipe) (n : Nat) (q : List (QEntry VWord)) : (p.setDq n q).x = p.x := rfl
@[simp] theorem Pipe.setDq_s (p : Pipe) (n : Nat) (q : List (QEntry VWord)) : (p.setDq n q).s = p.s := rfl
@[simp] theorem Pipe.setDq_regs (p : Pipe) (n : Nat) (q : List (QEntry VWord)) : (p.setDq n q).regs = p.regs := rfl
@[simp] theorem Pipe.setDq_q (p : Pipe) (n : Nat) (q : List (QEntry VWord)) : (p.setDq n q).q = { p.q with dq := p.q.dq.set n q } := rfl
@[simp] theorem Pipe.setDq_mx (p : Pipe) (n : Nat) (q : List (QEntry VWord)) : (p.setDq n q).mx = p.mx := rfl
@[simp] theorem Pipe.setDq_mem (p : Pipe) (n : Nat) (q : List (QEntry VWord)) : (p.setDq n q).mem = p.mem := rfl
@[simp] theorem Pipe.setDq_csr (p : Pipe) (n : Nat) (q : List (QEntry VWord)) : (p.setDq n q).csr = p.csr := rfl
@[simp] theorem Pipe.setDq_fly (p : Pipe) (n : Nat) (q : List (QEntry VWord)) : (p.setDq n q).fly = p.fly := rfl
@[simp] theorem Pipe.setDq_cyc (p : Pipe) (n : Nat) (q : List (QEntry VWord)) : (p.setDq n q).cyc = p.cyc := rfl
@[simp] theorem Pipe.setDq_frz (p : Pipe) (n : Nat) (q : List (QEntry VWord)) : (p.setDq n q).frz = p.frz := rfl
@[simp] theorem Pipe.setDq_detected (p : Pipe) (n : Nat) (q : List (QEntry VWord)) : (p.setDq n q).detected = p.detected := rfl
@[simp] theorem Pipe.setDq_stages (p : Pipe) (n : Nat) (q : List (QEntry VWord)) : (p.setDq n q).stages = p.stages := rfl
@[simp] theorem Pipe.setDq_halted (p : Pipe) (n : Nat) (q : List (QEntry VWord)) : (p.setDq n q).halted = p.halted := rfl
@[simp] theorem Pipe.setDq_finished (p : Pipe) (n : Nat) (q : List (QEntry VWord)) : (p.setDq n q).finished = p.finished := rfl
@[simp] theorem Pipe.setDq_book (p : Pipe) (n : Nat) (q : List (QEntry VWord)) : (p.setDq n q).book = p.book := rfl

/-! ### Pipe.giveTokens -/

@[simp] theorem Pipe.giveTokens_c (p : Pipe) (n : Nat) (d : Int) : (p.giveTokens n d).c = p.c := rfl
@[simp] theorem Pipe.giveTokens_l (p : Pipe) (n : Nat) (d : Int) : (p.giveTokens n d).l = p.l := rfl
@[simp] theorem Pipe.giveTokens_x (p : Pipe) (n : Nat) (d : Int) : (p.giveTokens n d).x = p.x := rfl
@[simp] theorem Pipe.giveTokens_s (p : Pipe) (n : Nat) (d : Int) : (p.giveTokens n d).s = p.s := rfl
@[simp] theorem Pipe.giveTokens_regs (p : Pipe) (n : Nat) (d : Int) : (p.giveTokens n d).regs = p.regs := rfl
@[simp] theorem Pipe.giveTokens_q (p : Pipe) (n : Nat) (d : Int) : (p.giveTokens n d).q = p.q := rfl
@[simp] theorem Pipe.giveTokens_mx (p : Pipe) (n : Nat) (d : Int) : (p.giveTokens n d).mx = p.mx := rfl
@[simp] theorem Pipe.giveTokens_mem (p : Pipe) (n : Nat) (d : Int) : (p.giveTokens n d).mem = p.mem := rfl
@[simp] theorem Pipe.giveTokens_csr (p : Pipe) (n : Nat) (d : Int) : (p.giveTokens n d).csr = p.csr := rfl
@[simp] theorem Pipe.giveTokens_fly (p : Pipe) (n : Nat) (d : Int) : (p.giveTokens n d).fly = p.fly := rfl
@[simp] theorem Pipe.giveTokens_cyc (p : Pipe) (n : Nat) (d : Int) : (p.giveTokens n d).cyc = { p.cyc with tokDelta := p.cyc.tokDelta ++ [(n, d)] } := rfl
@[simp] theorem Pipe.giveTokens_frz (p : Pipe) (n : Nat) (d : Int) : (p.giveTokens n d).frz = p.frz := rfl
@[simp] theorem Pipe.giveTokens_detected (p : Pipe) (n : Nat) (d : Int) : (p.giveTokens n d).detected = p.detected := rfl
@[simp] theorem Pipe.giveTokens_stages (p : Pipe) (n : Nat) (d : Int) : (p.giveTokens n d).stages = p.stages := rfl
@[simp] theorem Pipe.giveTokens_halted (p : Pipe) (n : Nat) (d : Int) : (p.giveTokens n d).halted = p.halted := rfl
@[simp] theorem Pipe.giveTokens_finished (p : Pipe) (n : Nat) (d : Int) : (p.giveTokens n d).finished = p.finished := rfl
@[simp] theorem Pipe.giveTokens_book (p : Pipe) (n : Nat) (d : Int) : (p.giveTokens n d).book = p.book := rfl

/-! ### Pipe.charge -/

@[simp] theorem Pipe.charge_c (p : Pipe) (n : Nat) : (p.charge n).c = p.c := rfl
@[simp] theorem Pipe.charge_l (p : Pipe) (n : Nat) : (p.charge n).l = p.l := rfl
@[simp] theorem Pipe.charge_x (p : Pipe) (n : Nat) : (p.charge n).x = p.x := rfl
@[simp] theorem Pipe.charge_s (p : Pipe) (n : Nat) : (p.charge n).s = p.s := rfl
@[simp] theorem Pipe.charge_regs (p : Pipe) (n : Nat) : (p.charge n).regs = p.regs := rfl
@[simp] theorem Pipe.charge_q (p : Pipe) (n : Nat) : (p.charge n).q = p.q := rfl
@[simp] theorem Pipe.charge_mx (p : Pipe) (n : Nat) : (p.charge n).mx = p.mx := rfl
@[simp] theorem Pipe.charge_mem (p : Pipe) (n : Nat) : (p.charge n).mem = p.mem := rfl
@[simp] theorem Pipe.charge_csr (p : Pipe) (n : Nat) : (p.charge n).csr = p.csr := rfl
@[simp] theorem Pipe.charge_fly (p : Pipe) (n : Nat) : (p.charge n).fly = p.fly := rfl
@[simp] theorem Pipe.charge_cyc (p : Pipe) (n : Nat) : (p.charge n).cyc = { p.cyc with rd := p.cyc.rd + n } := rfl
@[simp] theorem Pipe.charge_frz (p : Pipe) (n : Nat) : (p.charge n).frz = p.frz := rfl
@[simp] theorem Pipe.charge_detected (p : Pipe) (n : Nat) : (p.charge n).detected = p.detected := rfl
@[simp] theorem Pipe.charge_stages (p : Pipe) (n : Nat) : (p.charge n).stages = p.stages := rfl
@[simp] theorem Pipe.charge_halted (p : Pipe) (n : Nat) : (p.charge n).halted = p.halted := rfl
@[simp] theorem Pipe.charge_finished (p : Pipe) (n : Nat) : (p.charge n).finished = p.finished := rfl
@[simp] theorem Pipe.charge_book (p : Pipe) (n : Nat) : (p.charge n).book = p.book := rfl

/-! ### Pipe.chargeL -/

@[simp] theorem Pipe.chargeL_c (p : Pipe) (n : Nat) : (p.chargeL n).c = p.c := rfl
@[simp] theorem Pipe.chargeL_l (p : Pipe) (n : Nat) : (p.chargeL n).l = p.l := rfl
@[simp] theorem Pipe.chargeL_x (p : Pipe) (n : Nat) : (p.chargeL n).x = p.x := rfl
@[simp] theorem Pipe.chargeL_s (p : Pipe) (n : Nat) : (p.chargeL n).s = p.s := rfl
@[simp] theorem Pipe.chargeL_regs (p : Pipe) (n : Nat) : (p.chargeL n).regs = p.regs := rfl
@[simp] theorem Pipe.chargeL_q (p : Pipe) (n : Nat) : (p.chargeL n).q = p.q := rfl
@[simp] theorem Pipe.chargeL_mx (p : Pipe) (n : Nat) : (p.chargeL n).mx = p.mx := rfl
@[simp] theorem Pipe.chargeL_mem (p : Pipe) (n : Nat) : (p.chargeL n).mem = p.mem := rfl
@[simp] theorem Pipe.chargeL_csr (p : Pipe) (n : Nat) : (p.chargeL n).csr = p.csr := rfl
@[simp] theorem Pipe.chargeL_fly (p : Pipe) (n : Nat) : (p.chargeL n).fly = p.fly := rfl
@[simp] theorem Pipe.chargeL_cyc (p : Pipe) (n : Nat) : (p.chargeL n).cyc = { p.cyc with rd := p.cyc.rd + n, rdPc := p.l.pc } := rfl
@[simp] theorem Pipe.chargeL_frz (p : Pipe) (n : Nat) : (p.chargeL n).frz = p.frz := rfl
@[simp] theorem Pipe.chargeL_detected (p : Pipe) (n : Nat) : (p.chargeL n).detected = p.detected := rfl
@[simp] theorem Pipe.chargeL_stages (p : Pipe) (n : Nat) : (p.chargeL n).stages = p.stages := rfl
@[simp] theorem Pipe.chargeL_halted (p : Pipe) (n : Nat) : (p.chargeL n).halted = p.halted := rfl
@[simp] theorem Pipe.chargeL_finished (p : Pipe) (n : Nat) : (p.chargeL n).finished = p.finished := rfl
@[simp] theorem Pipe.chargeL_book (p : Pipe) (n : Nat) : (p.chargeL n).book = p.book := rfl

/-! ### Pipe.setSeq and Pipe.afterWord: no field but the sequencer and what a loop overrun detects -/

@[simp] theorem Pipe.setSeq_regs (p : Pipe) (k : StreamKind) (q : Seq) : (p.setSeq k q).regs = p.regs := by
  cases k <;> rfl
@[simp] theorem Pipe.setSeq_q (p : Pipe) (k : StreamKind) (q : Seq) : (p.setSeq k q).q = p.q := by
  cases k <;> rfl
@[simp] theorem Pipe.setSeq_mx (p : Pipe) (k : StreamKind) (q : Seq) : (p.setSeq k q).mx = p.mx := by
  cases k <;> rfl
@[simp] theorem Pipe.setSeq_mem (p : Pipe) (k : StreamKind) (q : Seq) : (p.setSeq k q).mem = p.mem := by
  cases k <;> rfl
@[simp] theorem Pipe.setSeq_csr (p : Pipe) (k : StreamKind) (q : Seq) : (p.setSeq k q).csr = p.csr := by
  cases k <;> rfl
@[simp] theorem Pipe.setSeq_fly (p : Pipe) (k : StreamKind) (q : Seq) : (p.setSeq k q).fly = p.fly := by
  cases k <;> rfl
@[simp] theorem Pipe.setSeq_cyc (p : Pipe) (k : StreamKind) (q : Seq) : (p.setSeq k q).cyc = p.cyc := by
  cases k <;> rfl
@[simp] theorem Pipe.setSeq_frz (p : Pipe) (k : StreamKind) (q : Seq) : (p.setSeq k q).frz = p.frz := by
  cases k <;> rfl
@[simp] theorem Pipe.setSeq_detected (p : Pipe) (k : StreamKind) (q : Seq) : (p.setSeq k q).detected = p.detected := by
  cases k <;> rfl
@[simp] theorem Pipe.setSeq_stages (p : Pipe) (k : StreamKind) (q : Seq) : (p.setSeq k q).stages = p.stages := by
  cases k <;> rfl
@[simp] theorem Pipe.setSeq_halted (p : Pipe) (k : StreamKind) (q : Seq) : (p.setSeq k q).halted = p.halted := by
  cases k <;> rfl
@[simp] theorem Pipe.setSeq_finished (p : Pipe) (k : StreamKind) (q : Seq) : (p.setSeq k q).finished = p.finished := by
  cases k <;> rfl
@[simp] theorem Pipe.setSeq_book (p : Pipe) (k : StreamKind) (q : Seq) : (p.setSeq k q).book = p.book := by
  cases k <;> rfl
@[simp] theorem Pipe.afterWord_regs (p : Pipe) (k : StreamKind) (nf : Tick) (span : Bool) :
    (p.afterWord k nf span).regs = p.regs := by
  unfold Pipe.afterWord; dsimp only; split <;> (try split) <;> simp
@[simp] theorem Pipe.afterWord_q (p : Pipe) (k : StreamKind) (nf : Tick) (span : Bool) :
    (p.afterWord k nf span).q = p.q := by
  unfold Pipe.afterWord; dsimp only; split <;> (try split) <;> simp
@[simp] theorem Pipe.afterWord_mx (p : Pipe) (k : StreamKind) (nf : Tick) (span : Bool) :
    (p.afterWord k nf span).mx = p.mx := by
  unfold Pipe.afterWord; dsimp only; split <;> (try split) <;> simp
@[simp] theorem Pipe.afterWord_mem (p : Pipe) (k : StreamKind) (nf : Tick) (span : Bool) :
    (p.afterWord k nf span).mem = p.mem := by
  unfold Pipe.afterWord; dsimp only; split <;> (try split) <;> simp
@[simp] theorem Pipe.afterWord_csr (p : Pipe) (k : StreamKind) (nf : Tick) (span : Bool) :
    (p.afterWord k nf span).csr = p.csr := by
  unfold Pipe.afterWord; dsimp only; split <;> (try split) <;> simp
@[simp] theorem Pipe.afterWord_cyc (p : Pipe) (k : StreamKind) (nf : Tick) (span : Bool) :
    (p.afterWord k nf span).cyc = p.cyc := by
  unfold Pipe.afterWord; dsimp only; split <;> (try split) <;> simp
@[simp] theorem Pipe.afterWord_frz (p : Pipe) (k : StreamKind) (nf : Tick) (span : Bool) :
    (p.afterWord k nf span).frz = p.frz := by
  unfold Pipe.afterWord; dsimp only; split <;> (try split) <;> simp
@[simp] theorem Pipe.afterWord_detected (p : Pipe) (k : StreamKind) (nf : Tick) (span : Bool) :
    (p.afterWord k nf span).detected = p.detected := by
  unfold Pipe.afterWord; dsimp only; split <;> (try split) <;> simp
@[simp] theorem Pipe.afterWord_stages (p : Pipe) (k : StreamKind) (nf : Tick) (span : Bool) :
    (p.afterWord k nf span).stages = p.stages := by
  unfold Pipe.afterWord; dsimp only; split <;> (try split) <;> simp
@[simp] theorem Pipe.afterWord_halted (p : Pipe) (k : StreamKind) (nf : Tick) (span : Bool) :
    (p.afterWord k nf span).halted = p.halted := by
  unfold Pipe.afterWord; dsimp only; split <;> (try split) <;> simp
@[simp] theorem Pipe.afterWord_finished (p : Pipe) (k : StreamKind) (nf : Tick) (span : Bool) :
    (p.afterWord k nf span).finished = p.finished := by
  unfold Pipe.afterWord; dsimp only; split <;> (try split) <;> simp
@[simp] theorem Pipe.afterWord_book (p : Pipe) (k : StreamKind) (nf : Tick) (span : Bool) :
    (p.afterWord k nf span).book = p.book := by
  unfold Pipe.afterWord; dsimp only; split <;> (try split) <;> simp

/-! ### Thread.setD and Thread.next -/

@[simp] theorem Thread.setD_phase (t : Thread) (n : Nat) (v : Word) : (t.setD n v).phase = t.phase := by
  unfold Thread.setD; split <;> rfl
@[simp] theorem Thread.setD_wait (t : Thread) (n : Nat) (v : Word) : (t.setD n v).wait = t.wait := by
  unfold Thread.setD; split <;> rfl
@[simp] theorem Thread.setD_pc (t : Thread) (n : Nat) (v : Word) : (t.setD n v).pc = t.pc := by
  unfold Thread.setD; split <;> rfl
@[simp] theorem Thread.setD_fflags (t : Thread) (n : Nat) (v : Word) : (t.setD n v).fflags = t.fflags := by
  unfold Thread.setD; split <;> rfl
@[simp] theorem Thread.setD_frm (t : Thread) (n : Nat) (v : Word) : (t.setD n v).frm = t.frm := by
  unfold Thread.setD; split <;> rfl
@[simp] theorem Thread.setD_trap (t : Thread) (n : Nat) (v : Word) : (t.setD n v).trap = t.trap := by
  unfold Thread.setD; split <;> rfl
@[simp] theorem Thread.setD_level (t : Thread) (n : Nat) (v : Word) : (t.setD n v).level = t.level := by
  unfold Thread.setD; split <;> rfl
@[simp] theorem Thread.setD_k (t : Thread) (n : Nat) (v : Word) : (t.setD n v).k = t.k := by
  unfold Thread.setD; split <;> rfl
@[simp] theorem Thread.setD_item (t : Thread) (n : Nat) (v : Word) : (t.setD n v).item = t.item := by
  unfold Thread.setD; split <;> rfl
@[simp] theorem Thread.setD_nextId (t : Thread) (n : Nat) (v : Word) : (t.setD n v).nextId = t.nextId := by
  unfold Thread.setD; split <;> rfl
@[simp] theorem Thread.setD_ext (t : Thread) (n : Nat) (v : Word) : (t.setD n v).ext = t.ext := by
  unfold Thread.setD; split <;> rfl
@[simp] theorem Thread.setD_inbox (t : Thread) (n : Nat) (v : Word) : (t.setD n v).inbox = t.inbox := by
  unfold Thread.setD; split <;> rfl
@[simp] theorem Thread.setD_grants (t : Thread) (n : Nat) (v : Word) : (t.setD n v).grants = t.grants := by
  unfold Thread.setD; split <;> rfl
@[simp] theorem Thread.setD_late (t : Thread) (n : Nat) (v : Word) : (t.setD n v).late = t.late := by
  unfold Thread.setD; split <;> rfl
@[simp] theorem Thread.setD_woke (t : Thread) (n : Nat) (v : Word) : (t.setD n v).woke = t.woke := by
  unfold Thread.setD; split <;> rfl
@[simp] theorem Thread.next_phase (t : Thread) : t.next.phase = t.phase := rfl
@[simp] theorem Thread.next_wait (t : Thread) : t.next.wait = t.wait := rfl
@[simp] theorem Thread.next_regs (t : Thread) : t.next.regs = t.regs := rfl
@[simp] theorem Thread.next_marks (t : Thread) : t.next.marks = t.marks := rfl
@[simp] theorem Thread.next_pc (t : Thread) : t.next.pc = t.pc + 4 := rfl
@[simp] theorem Thread.next_fflags (t : Thread) : t.next.fflags = t.fflags := rfl
@[simp] theorem Thread.next_frm (t : Thread) : t.next.frm = t.frm := rfl
@[simp] theorem Thread.next_trap (t : Thread) : t.next.trap = t.trap := rfl
@[simp] theorem Thread.next_level (t : Thread) : t.next.level = t.level := rfl
@[simp] theorem Thread.next_k (t : Thread) : t.next.k = t.k := rfl
@[simp] theorem Thread.next_item (t : Thread) : t.next.item = t.item := rfl
@[simp] theorem Thread.next_pend (t : Thread) : t.next.pend = t.pend := rfl
@[simp] theorem Thread.next_nextId (t : Thread) : t.next.nextId = t.nextId := rfl
@[simp] theorem Thread.next_ext (t : Thread) : t.next.ext = t.ext := rfl
@[simp] theorem Thread.next_inbox (t : Thread) : t.next.inbox = t.inbox := rfl
@[simp] theorem Thread.next_grants (t : Thread) : t.next.grants = t.grants := rfl
@[simp] theorem Thread.next_late (t : Thread) : t.next.late = t.late := rfl
@[simp] theorem Thread.next_woke (t : Thread) : t.next.woke = t.woke := rfl
@[simp] theorem Thread.next_odd (t : Thread) : t.next.odd = t.odd := rfl
/-! ### Thread.setLate -/

@[simp] theorem Thread.setLate_phase (t : Thread) (d : Nat) (v : Word) (now lat : Nat) (g : BitVec 5) :
    (t.setLate d v now lat g).phase = t.phase := by
  simp [Thread.setLate]
@[simp] theorem Thread.setLate_wait (t : Thread) (d : Nat) (v : Word) (now lat : Nat) (g : BitVec 5) :
    (t.setLate d v now lat g).wait = t.wait := by
  simp [Thread.setLate]
@[simp] theorem Thread.setLate_pc (t : Thread) (d : Nat) (v : Word) (now lat : Nat) (g : BitVec 5) :
    (t.setLate d v now lat g).pc = t.pc := by
  simp [Thread.setLate]
@[simp] theorem Thread.setLate_fflags (t : Thread) (d : Nat) (v : Word) (now lat : Nat) (g : BitVec 5) :
    (t.setLate d v now lat g).fflags = t.fflags := by
  simp [Thread.setLate]
@[simp] theorem Thread.setLate_frm (t : Thread) (d : Nat) (v : Word) (now lat : Nat) (g : BitVec 5) :
    (t.setLate d v now lat g).frm = t.frm := by
  simp [Thread.setLate]
@[simp] theorem Thread.setLate_trap (t : Thread) (d : Nat) (v : Word) (now lat : Nat) (g : BitVec 5) :
    (t.setLate d v now lat g).trap = t.trap := by
  simp [Thread.setLate]
@[simp] theorem Thread.setLate_level (t : Thread) (d : Nat) (v : Word) (now lat : Nat) (g : BitVec 5) :
    (t.setLate d v now lat g).level = t.level := by
  simp [Thread.setLate]
@[simp] theorem Thread.setLate_k (t : Thread) (d : Nat) (v : Word) (now lat : Nat) (g : BitVec 5) :
    (t.setLate d v now lat g).k = t.k := by
  simp [Thread.setLate]
@[simp] theorem Thread.setLate_item (t : Thread) (d : Nat) (v : Word) (now lat : Nat) (g : BitVec 5) :
    (t.setLate d v now lat g).item = t.item := by
  simp [Thread.setLate]
@[simp] theorem Thread.setLate_nextId (t : Thread) (d : Nat) (v : Word) (now lat : Nat) (g : BitVec 5) :
    (t.setLate d v now lat g).nextId = t.nextId := by
  simp [Thread.setLate]
@[simp] theorem Thread.setLate_ext (t : Thread) (d : Nat) (v : Word) (now lat : Nat) (g : BitVec 5) :
    (t.setLate d v now lat g).ext = t.ext := by
  simp [Thread.setLate]
@[simp] theorem Thread.setLate_inbox (t : Thread) (d : Nat) (v : Word) (now lat : Nat) (g : BitVec 5) :
    (t.setLate d v now lat g).inbox = t.inbox := by
  simp [Thread.setLate]
@[simp] theorem Thread.setLate_grants (t : Thread) (d : Nat) (v : Word) (now lat : Nat) (g : BitVec 5) :
    (t.setLate d v now lat g).grants = t.grants := by
  simp [Thread.setLate]
@[simp] theorem Thread.setLate_woke (t : Thread) (d : Nat) (v : Word) (now lat : Nat) (g : BitVec 5) :
    (t.setLate d v now lat g).woke = t.woke := by
  simp [Thread.setLate]
@[simp] theorem Thread.setLate_late (t : Thread) (d : Nat) (v : Word) (now lat : Nat) (g : BitVec 5) :
    (t.setLate d v now lat g).late = t.late ++ [{ dest := d, due := now + lat, flags := g }] := by
  simp [Thread.setLate]
/-- A late result stands in its register, as one written at once does; only its presence is later (08 R225). -/
@[simp] theorem Thread.d_setLate (t : Thread) (d n : Nat) (v : Word) (now lat : Nat) (g : BitVec 5) :
    (t.setLate d v now lat g).d n = (t.setD d v).d n := rfl
/-- A late result that raises no flag leaves FFLAGS as it will stand (02 R53). -/
@[simp] theorem Thread.setLate_allFlags (t : Thread) (d : Nat) (v : Word) (now lat : Nat) (g : BitVec 5) :
    (t.setLate d v now lat g).allFlags = t.allFlags ||| g := by
  simp [Thread.setLate, Thread.allFlags, List.foldl_append]


/-! ### Reading back what was set -/

@[simp] theorem State.pipe_setPipe (s : State) (g h : Nat) (p : Pipe) :
    (s.setPipe g p).pipe h = if h = g then p else s.pipe h := SMap.get_set ..
@[simp] theorem State.die_setDie (s : State) (d e : Nat) (x : Die) :
    (s.setDie d x).die e = if e = d then x else s.die e := SMap.get_set ..
@[simp] theorem State.part_setPart (s : State) (k j : Nat) (x : Partition) :
    (s.setPart k x).part j = if j = k then x else s.part j := SMap.get_set ..
@[simp] theorem State.gig_onGig (s : State) (g h : Nat) (f : Gig → Gig) :
    (s.onGig g f).gig h = if h = g then f (s.gig g) else s.gig h := SMap.get_set ..
@[simp] theorem State.coach_onCoach (s : State) (c d : Nat) (f : Coach → Coach) :
    (s.onCoach c f).coach d = if d = c then f (s.coach c) else s.coach d := SMap.get_set ..
/-- Setting one pipeline twice leaves the later. -/
@[simp] theorem State.setPipe_setPipe (s : State) (g : Nat) (p q : Pipe) : (s.setPipe g p).setPipe g q = s.setPipe g q := by
  simp [State.setPipe]
/-- Every register but d0 reads what was last written to it; d0 reads 0. -/
theorem Thread.d_setD (t : Thread) (n m : Nat) (v : Word) :
    (t.setD n v).d m = if m = n ∧ n ≠ 0 then v else t.d m := by
  unfold Thread.d Thread.setD
  by_cases hn : n = 0 <;> by_cases hm : m = 0 <;> simp_all [SMap.get_set]
  omega

/-- A new result leaves no parity error in its register, and those of the others as they are (23 R460). -/
theorem Thread.setD_odd (t : Thread) (n : Nat) (v : Word) :
    (t.setD n v).odd = if n = 0 then t.odd else t.odd.filter (fun m => !(m == n)) := by
  unfold Thread.setD; split <;> rfl

/-- The acting thread after a change of it. -/
theorem State.th_onMe (s : State) (f : Thread → Thread) (h : (s.slotOf s.curThread).isSome) : (s.onMe f).th = f s.th := by
  obtain ⟨x, hx⟩ := Option.isSome_iff_exists.mp h
  simp only [State.onMe, State.th, State.onThread, State.thread, hx]
  have : (s.onCtx (coachOf s.curThread) x (fun c => c.onThread (localOf s.curThread) f)).slotOf s.curThread = some x := by
    simpa [State.slotOf, State.onCtx] using hx
  simp [State.onCtx, State.slotOf] at this ⊢
  simp [this, State.ctx, Context.onThread, SMap.get_set]

/-- A thread that may issue belongs to a running context. -/
theorem State.slotOf_of_free (s : State) (t n : Nat) (h : (s.thread t).free n = true) : (s.slotOf t).isSome := by
  unfold State.thread at h
  split at h
  · simp [Thread.free] at h
  · simp_all

end Sys2Proof.Machine
end

