-- ==== Sys2Proof/Laws/Gig.lean ====
section
/-! SUPPORT. The frame of every gig instruction: when it has its effect, when its thread gives up the turn, and when it
traps. -/
namespace Sys2Proof.Machine

/-- A thread that may issue with its operands at hand executes a well-formed instruction. -/
theorem State.gigInstr_ready (s : State) (i : Instr) (srcs : List Nat) (release : Bool) (eff : State → State)
    (hw : i.wellFormed = true) (hr : s.gigReady srcs release = true) : s.gigInstr i srcs release eff = eff s := by
  simp only [State.gigReady, Bool.and_eq_true, List.all_eq_true, Bool.or_eq_true, Bool.not_eq_true',
    Option.isNone_iff_eq_none] at hr
  obtain ⟨⟨⟨⟨h1, h2⟩, h3⟩, h4⟩, h5⟩ := hr
  have ha : srcs.any (fun n => !(s.th.present (s.cycle (dieOf s.curThread)).toNat n)) = false := by
    simp only [List.any_eq_false, Bool.not_eq_true', Bool.not_eq_false]
    exact h2
  have hb : (release && !(s.th.accs.isEmpty)) = false := by
    rcases h3 with h | h <;> simp [h]
  simp only [State.gigInstr, State.gigWord, h1, ha, hb, hw, h4, h5, Bool.not_true, Bool.or_self, Bool.false_eq_true, if_false]

/-- A thread that is ready belongs to a running context. -/
theorem State.slotOf_of_ready (s : State) (srcs : List Nat) (release : Bool) (h : s.gigReady srcs release = true) :
    (s.slotOf s.curThread).isSome := by
  simp only [State.gigReady, Bool.and_eq_true] at h
  exact s.slotOf_of_free _ _ h.1.1.1.1

/-- A privileged instruction at level 1 has its effect. -/
theorem State.privileged_ready (s : State) (i : Instr) (srcs : List Nat) (eff : State → State)
    (hw : i.wellFormed = true) (hr : s.gigReady srcs false = true) (hl : s.th.level = true) :
    s.privileged i srcs eff = eff s := by
  rw [State.privileged, State.gigInstr_ready _ _ _ _ _ hw hr]
  simp [hl]

/-- A privileged instruction at level 0 traps ACCESS with SUB = PRIV and its own word (08 R228). -/
theorem State.privileged_user (s : State) (i : Instr) (srcs : List Nat) (eff : State → State)
    (hw : i.wellFormed = true) (hr : s.gigReady srcs false = true) (hl : s.th.level = false) :
    s.privileged i srcs eff = s.trapMe trapAccess subPriv (wordOf i) := by
  rw [State.privileged, State.gigInstr_ready _ _ _ _ _ hw hr]
  simp [hl]

end Sys2Proof.Machine
end

