-- ==== Sys2Proof/Laws/Memory.lean ====
section
/-! SUPPORT. Byte memories: a read after a write, and that every memory operation keeps the canonical form. -/
namespace Sys2Proof.Machine

theorem Memory.read_clear (m : Memory) (a b : Nat) :
    (m.clear a).read b = if b = a then Memory.blank else m.read b := by
  induction m with
  | nil => simp [Memory.clear, Memory.read]
  | cons c t ih =>
    obtain ⟨k, x⟩ := c
    by_cases h : k = a
    · simp only [Memory.clear] at ih
      by_cases h' : b = a
      · subst h'; simpa [Memory.clear, h] using ih
      · have : a ≠ b := Ne.symm h'
        simp [Memory.clear, h, h', ih, Memory.read, this]
    · simp only [Memory.clear] at ih
      by_cases h' : b = a
      · subst h'; simp [Memory.clear, h, ih, Memory.read]
      · by_cases h'' : k = b <;> simp [Memory.clear, h, h', h'', ih, Memory.read]

theorem Memory.read_enter (m : Memory) (a b : Nat) (v : Byte) :
    (m.enter a v).read b = if b = a then v else m.read b := by
  induction m with
  | nil => by_cases h : a = b <;> simp [Memory.enter, Memory.read, h, eq_comm]
  | cons c t ih =>
    obtain ⟨k, x⟩ := c
    simp only [Memory.enter]
    split
    · subst_vars
      by_cases h : k = b
      · simp [Memory.read, h]
      · simp [Memory.read, h, Ne.symm h]
    · split
      · by_cases h : a = b
        · simp [Memory.read, h]
        · simp [Memory.read, h, Ne.symm h]
      · by_cases h : k = b
        · have : b ≠ a := by omega
          simp [Memory.read, h, this]
        · simp [Memory.read, h, ih]

/-- A write changes the byte at its own address alone. -/
theorem Memory.read_write (m : Memory) (a b : Nat) (v : Byte) :
    (m.write a v).read b = if b = a then v else m.read b := by
  unfold Memory.write
  split
  · subst_vars; exact Memory.read_clear m a b
  · exact Memory.read_enter m a b v

/-- Every byte outside a written range reads as before. -/
theorem Memory.read_writeBytes_outside (m : Memory) (a b : Nat) (bs : List Byte) (h : b < a ∨ a + bs.length ≤ b) :
    (m.writeBytes a bs).read b = m.read b := by
  induction bs generalizing m a with
  | nil => rfl
  | cons v t ih =>
    simp only [List.length_cons] at h
    rw [Memory.writeBytes, ih _ _ (by omega), Memory.read_write, if_neg (by omega)]

/-- A byte of a written range reads as the byte written there. -/
theorem Memory.read_writeBytes_inside (m : Memory) (a i : Nat) (bs : List Byte) (h : i < bs.length) :
    (m.writeBytes a bs).read (a + i) = bs[i] := by
  induction bs generalizing m a i with
  | nil => exact absurd h (by simp)
  | cons v t ih =>
    rw [Memory.writeBytes]
    cases i with
    | zero =>
      rw [Memory.read_writeBytes_outside _ _ _ _ (by omega), Nat.add_zero, Memory.read_write, if_pos rfl]
      rfl
    | succ j =>
      rw [show a + (j + 1) = a + 1 + j by omega, ih _ _ _ (by simpa using h)]
      rfl

/-- The bytes of a written range read back as written. -/
theorem Memory.readBytes_writeBytes (m : Memory) (a : Nat) (bs : List Byte) :
    (m.writeBytes a bs).readBytes a bs.length = bs := by
  apply List.ext_getElem
  · simp [Memory.readBytes]
  · intro i h1 h2
    simp [Memory.readBytes, Memory.read_writeBytes_inside _ _ _ _ h2]

@[simp] theorem toBytes_length (n v : Nat) : (toBytes n v).length = n := by
  induction n generalizing v with
  | zero => rfl
  | succ n ih => simp [toBytes, ih]

/-- The little-endian number of the little-endian bytes of `v` is `v`, as far as they hold it. -/
theorem ofBytes_toBytes (n v : Nat) : ofBytes (toBytes n v) = v % 256 ^ n := by
  induction n generalizing v with
  | zero => simp [toBytes, ofBytes, Nat.mod_one]
  | succ n ih =>
    rw [toBytes, ofBytes, ih, BitVec.toNat_ofNat, Nat.pow_succ (n := 256), Nat.mul_comm (256 ^ n) 256, Nat.mod_mul]

/-- A little-endian number reads back as it was written. -/
theorem Memory.readLE_writeLE (m : Memory) (a n v : Nat) : (m.writeLE a n v).readLE a n = v % 256 ^ n := by
  have h := Memory.readBytes_writeBytes m a (toBytes n v)
  rw [toBytes_length] at h
  rw [Memory.readLE, Memory.writeLE, h, ofBytes_toBytes]

/-! ### The canonical form -/

theorem SMap.wf_filter {α : Type} (m : SMap α) (p : Nat × α → Bool) (h : m.wf = true) : SMap.wf (m.filter p) = true := by
  have rise : ∀ (m : SMap α), m.wf = true ↔ m.Pairwise (fun a b => a.1 < b.1) := by
    intro m
    induction m with
    | nil => simp [SMap.wf]
    | cons a t ih =>
      cases t with
      | nil => simp [SMap.wf]
      | cons b t =>
        obtain ⟨i, x⟩ := a
        obtain ⟨j, y⟩ := b
        simp only [SMap.wf, Bool.and_eq_true, decide_eq_true_eq, ih]
        constructor
        · rintro ⟨h1, h2⟩
          refine List.pairwise_cons.mpr ⟨fun c hc => ?_, h2⟩
          rcases List.mem_cons.mp hc with rfl | hc
          · exact h1
          · exact Nat.lt_trans h1 ((List.pairwise_cons.mp h2).1 c hc)
        · intro h
          exact ⟨(List.pairwise_cons.mp h).1 (j, y) (by simp), (List.pairwise_cons.mp h).2⟩
  rw [rise] at h ⊢
  exact h.filter p

theorem Memory.enter_eq_set (m : Memory) (a : Nat) (b : Byte) : m.enter a b = SMap.set m a b := by
  induction m with
  | nil => rfl
  | cons c t ih => obtain ⟨k, x⟩ := c; simp [Memory.enter, SMap.set, ih]

theorem Memory.all_enter (m : Memory) (a : Nat) (b : Byte) (hb : b ≠ Memory.blank)
    (h : m.all (fun c => !(c.2 == Memory.blank)) = true) : (m.enter a b).all (fun c => !(c.2 == Memory.blank)) = true := by
  induction m with
  | nil => simp [Memory.enter, hb]
  | cons c t ih =>
    obtain ⟨k, x⟩ := c
    simp only [List.all_cons, Bool.and_eq_true] at h
    simp only [Memory.enter]
    split
    · simp only [List.all_cons, Bool.and_eq_true]
      exact ⟨by simpa using hb, h.2⟩
    · split
      · simp only [List.all_cons, Bool.and_eq_true]
        exact ⟨by simpa using hb, h⟩
      · simp only [List.all_cons, Bool.and_eq_true]
        exact ⟨h.1, ih h.2⟩

/-- A write keeps the canonical form. -/
theorem Memory.wf_write (m : Memory) (a : Nat) (b : Byte) (h : m.wf = true) : (m.write a b).wf = true := by
  simp only [Memory.wf, Bool.and_eq_true] at h ⊢
  unfold Memory.write
  split
  · refine ⟨SMap.wf_filter _ _ h.1, ?_⟩
    have := h.2
    simp only [List.all_eq_true, Memory.clear, List.mem_filter] at this ⊢
    exact fun c hc => this c hc.1
  · rename_i hb
    exact ⟨by rw [Memory.enter_eq_set]; exact SMap.wf_set _ _ _ h.1, Memory.all_enter m a b hb h.2⟩

/-- A write of bytes keeps the canonical form. -/
theorem Memory.wf_writeBytes (m : Memory) (a : Nat) (bs : List Byte) (h : m.wf = true) : (m.writeBytes a bs).wf = true := by
  induction bs generalizing m a with
  | nil => exact h
  | cons b t ih => exact ih _ _ (Memory.wf_write m a b h)

/-- A write of a number keeps the canonical form. -/
theorem Memory.wf_writeLE (m : Memory) (a n v : Nat) (h : m.wf = true) : (m.writeLE a n v).wf = true :=
  Memory.wf_writeBytes m a _ h

/-- What a filter leaves of a memory keeps the canonical form. -/
theorem Memory.wf_filter (m : Memory) (p : Host.Cell → Bool) (h : m.wf = true) : Memory.wf (m.filter p) = true := by
  simp only [Memory.wf, Bool.and_eq_true] at h ⊢
  refine ⟨SMap.wf_filter _ _ h.1, ?_⟩
  have := h.2
  simp only [List.all_eq_true, List.mem_filter] at this ⊢
  exact fun c hc => this c hc.1

end Sys2Proof.Machine
end

