-- ==== Sys2Proof/Laws/Inv.lean ====
section
/-! SUPPORT. What each shared operation of the model keeps of the invariant: memory in canonical form and the firmware's fields
within their bounds. One lemma for each operation; none unfolds another. -/
namespace Sys2Proof.Machine
set_option linter.unusedVariables false

/-- An answer of exec whose next state, if there is one, meets the invariant. -/
def outInv (o : Host.Outcome State Fault Refusal) : Prop := ∀ u, o = .next u → u.Inv
/-- A result whose state, if there is one, meets the invariant. -/
def okInv {ε : Type} (o : Except ε State) : Prop := ∀ u, o = .ok u → u.Inv
/-- An optional result whose state meets the invariant. -/
def someInv {α : Type} (o : Option (α × State)) : Prop := ∀ x u, o = some (x, u) → u.Inv
/-- What a turn comes to, with a state that meets the invariant. -/
def actInv (a : Act) : Prop := match a with
  | .state s => s.Inv
  | .word _ s => s.Inv
  | .junk _ s => s.Inv
theorem out_next {s : State} (h : s.Inv) : outInv (.next s) := fun _ e => by cases e; exact h
theorem out_fault (f : Fault) : outInv (.fault f) := fun _ e => by cases e
theorem ok_ok {ε : Type} {s : State} (h : s.Inv) : okInv (.ok s : Except ε State) := fun _ e => by cases e; exact h
theorem ok_error {ε : Type} (x : ε) : okInv (.error x : Except ε State) := fun _ e => by cases e
theorem ok_map {ε : Type} {r : Except ε State} {f : State → State} (h : okInv r) (hf : ∀ t, t.Inv → (f t).Inv) : okInv (r.map f) := by
  cases r with
  | error a => exact ok_error a
  | ok t => exact ok_ok (hf t (h t rfl))
theorem some_some {α : Type} {a : α} {s : State} (h : s.Inv) : someInv (some (a, s)) := fun _ _ e => by cases e; exact h
theorem some_none {α : Type} : someInv (none : Option (α × State)) := fun _ _ e => by cases e
theorem act_state {s : State} (h : s.Inv) : actInv (.state s) := h
theorem act_word {i : Instr} {s : State} (h : s.Inv) : actInv (.word i s) := h
theorem act_junk {w : BitVec 32} {s : State} (h : s.Inv) : actInv (.junk w s) := h
theorem inv_ite {c : Prop} [Decidable c] {a b : State} (ha : a.Inv) (hb : b.Inv) : (if c then a else b).Inv := by split <;> assumption
theorem inv_id {s : State} (h : s.Inv) : (id s).Inv := h
theorem inv_mem {s : State} (h : s.Inv) : s.mem.wf = true := h.1
theorem inv_fw {s : State} (h : s.Inv) : s.fw.ok = true := h.2
/-- The invariant speaks of memory and of the firmware alone. -/
theorem inv_upd (s : State) (x1 : List Turn) (x2 x3 : Nat) (x4 : StreamKind) (x5 : Nat) (x6 : SMap Pipe) (x7 : SMap Die)
    (x8 : SMap Partition) (x9 : List RelayWord) (x11 : List Nat) (x12 : SMap Gig) (x13 : SMap Coach) (x14 : List EvMsg)
    (x15 : List ChildWait) (x16 : List HeldSend) (x17 : SMap Launch) (x18 : Nat) (x19 : List Cached) (x20 : Portal)
    (x22 : List LinkWord) (x23 : List LinkNotice) :
    (State.mk x1 x2 x3 x4 x5 x6 x7 x8 x9 s.mem x11 x12 x13 x14 x15 x16 x17 x18 x19 x20 s.fw x22 x23).Inv ↔ s.Inv := Iff.rfl
theorem inv_mk (x1 : List Turn) (x2 x3 : Nat) (x4 : StreamKind) (x5 : Nat) (x6 : SMap Pipe) (x7 : SMap Die)
    (x8 : SMap Partition) (x9 : List RelayWord) (x10 : Memory) (x11 : List Nat) (x12 : SMap Gig) (x13 : SMap Coach) (x14 : List EvMsg)
    (x15 : List ChildWait) (x16 : List HeldSend) (x17 : SMap Launch) (x18 : Nat) (x19 : List Cached) (x20 : Portal)
    (x21 : Firmware) (x22 : List LinkWord) (x23 : List LinkNotice) :
    (State.mk x1 x2 x3 x4 x5 x6 x7 x8 x9 x10 x11 x12 x13 x14 x15 x16 x17 x18 x19 x20 x21 x22 x23).Inv ↔
      x10.wf = true ∧ x21.ok = true := Iff.rfl
theorem inv_snd {α : Type} {p : α × State} {a : α} {t : State} (e : p = (a, t)) (h : p.2.Inv) : t.Inv := by subst e; exact h
theorem inv_fst {α : Type} {p : State × α} {a : α} {t : State} (e : p = (t, a)) (h : p.1.Inv) : t.Inv := by subst e; exact h
theorem inv_ok {ε : Type} {p : Except ε State} {t : State} (e : p = .ok t) (h : okInv p) : t.Inv := h t e
theorem inv_next {p : Host.Outcome State Fault Refusal} {t : State} (e : p = .next t) (h : outInv p) : t.Inv := h t e
theorem inv_some {α : Type} {p : Option (α × State)} {a : α} {t : State} (e : p = some (a, t)) (h : someInv p) : t.Inv := h a t e
theorem inv_acts {p : Act} {t : State} (e : p = .state t) (h : actInv p) : t.Inv := by subst e; exact h
theorem inv_actw {p : Act} {t : State} {i : Instr} (e : p = .word i t) (h : actInv p) : t.Inv := by subst e; exact h
theorem inv_actj {p : Act} {t : State} {w : BitVec 32} (e : p = .junk w t) (h : actInv p) : t.Inv := by subst e; exact h
/-- A fold keeps the invariant where each of its steps does. -/
theorem foldl_inv {α : Type} (l : List α) (f : State → α → State) (s : State) (h : s.Inv)
    (hf : ∀ t a, t.Inv → (f t a).Inv) : (l.foldl f s).Inv := by
  induction l generalizing s with
  | nil => exact h
  | cons a l ih => exact ih _ (hf s a h)
theorem foldl_fst {α β : Type} (l : List α) (f : State × β → α → State × β) (s : State × β) (h : s.1.Inv)
    (hf : ∀ t a, t.1.Inv → (f t a).1.Inv) : (l.foldl f s).1.Inv := by
  induction l generalizing s with
  | nil => exact h
  | cons a l ih => exact ih _ (hf s a h)
theorem foldl_mem {α : Type} (l : List α) (f : Memory → α → Memory) (m : Memory) (h : m.wf = true)
    (hf : ∀ m a, m.wf = true → (f m a).wf = true) : (l.foldl f m).wf = true := by
  induction l generalizing m with
  | nil => exact h
  | cons a l ih => exact ih _ (hf m a h)
theorem copyPartial_wf (m : Memory) (src dst r : Nat) (h : m.wf = true) : (copyPartial m src dst r).wf = true := by
  unfold copyPartial copyPhys
  repeat' (first
    | with_reducible assumption
    | with_reducible apply Memory.wf_writeBytes
    | with_reducible apply Memory.wf_write
    | with_reducible apply foldl_mem
    | intro _)
theorem outerMemory_wf (m : Memory) (h : m.wf = true) : (outerMemory m).wf = true := Memory.wf_filter _ _ h
theorem tested_version {h : Health} {bad : List Nat} (e : h.version = 1) : (h.tested bad).version = 1 := e
/-- The bounds of the firmware, field by field. -/
theorem fw_ok_iff (f : Firmware) : f.ok = true ↔ f.own.ok = true ∧ f.capWatts ≤ 2800 ∧ f.seeds.length ≤ 64 ∧ f.rings.length ≤ 8192 ∧
    f.health.version = 1 := by
  simp [Firmware.ok, and_assoc]
theorem fw_mk (o : Own) (ac w : Bool) (cu im nx : List Byte) (tv : Nat) (ms : SMap (BitVec 384)) (lw le : Nat) (ce : Bool)
    (r : List BoxEntry) (nb : Nat) (h : Health) (mk : BitVec 16) (ho : Bool) (sd : List SeedRec) (dx dy dz : BitVec 2)
    (pk lu tc bt : BitVec 6) (cw : Nat) (eo : BitVec 8) (hf : BitVec 2) (cx : BitVec 16) (pw : Bool) :
    (Firmware.mk o ac w cu im nx tv ms lw le ce r nb h mk ho sd dx dy dz pk lu tc bt cw eo hf cx pw).ok = true ↔
      o.ok = true ∧ cw ≤ 2800 ∧ sd.length ≤ 64 ∧ r.length ≤ 8192 ∧ h.version = 1 := fw_ok_iff _
theorem fw_own {f : Firmware} (h : f.ok = true) : f.own.ok = true := ((fw_ok_iff f).1 h).1
theorem fw_cap {f : Firmware} (h : f.ok = true) : f.capWatts ≤ 2800 := ((fw_ok_iff f).1 h).2.1
theorem fw_seeds {f : Firmware} (h : f.ok = true) : f.seeds.length ≤ 64 := ((fw_ok_iff f).1 h).2.2.1
theorem fw_rings {f : Firmware} (h : f.ok = true) : f.rings.length ≤ 8192 := ((fw_ok_iff f).1 h).2.2.2.1
theorem fw_version {f : Firmware} (h : f.ok = true) : f.health.version = 1 := ((fw_ok_iff f).1 h).2.2.2.2
theorem take_le {α : Type} (n : Nat) (l : List α) : (l.take n).length ≤ n := by rw [List.length_take]; exact Nat.min_le_left _ _
theorem drop_le {α : Type} (n : Nat) (l : List α) : (l.drop (l.length - n)).length ≤ n := by rw [List.length_drop]; omega
theorem reset_inv : State.reset.Inv := ⟨by decide, by decide⟩

theorem State.setPipe_inv (s : State) (g : Nat) (p : Pipe) (inv : s.Inv) :
    (s.setPipe g p).Inv := by
  unfold State.setPipe
  repeat' (first | with_reducible assumption | simp only [inv_upd])

theorem State.onPipe_inv (s : State) (g : Nat) (f : Pipe → Pipe) (inv : s.Inv) :
    (s.onPipe g f).Inv := by
  unfold State.onPipe
  repeat' (first | with_reducible assumption | with_reducible apply State.setPipe_inv)

theorem State.illegal_inv (s : State) (k : StreamKind) (info : Nat) (inv : s.Inv) :
    (s.illegal k info).Inv := by
  unfold State.illegal
  repeat' (first | with_reducible assumption | with_reducible apply State.onPipe_inv)

theorem State.timedTo_inv (s : State) (i : Instr) (k : StreamKind) (srcs : List RegRef) (chk : List Det) (draws : Nat)
    (nf : Tick) (span : Bool) (eff : State → State) (inv : s.Inv) (heff : ∀ t, t.Inv → (eff t).Inv) :
    (s.timedTo i k srcs chk draws nf span eff).Inv := by
  unfold State.timedTo
  repeat' (first
    | with_reducible assumption | with_reducible apply State.setPipe_inv | with_reducible apply State.onPipe_inv
    | with_reducible apply State.illegal_inv | with_reducible apply heff | split)

theorem State.timed_inv (s : State) (i : Instr) (k : StreamKind) (srcs : List RegRef) (chk : List Det)
    (eff : State → State) (inv : s.Inv) (heff : ∀ t, t.Inv → (eff t).Inv) :
    (s.timed i k srcs chk eff).Inv := by
  unfold State.timed
  repeat' (first | with_reducible assumption | with_reducible apply State.timedTo_inv)

theorem State.timedPipe_inv (s : State) (i : Instr) (k : StreamKind) (srcs : List RegRef) (chk : List Det)
    (eff : Tick → Pipe → Pipe) (inv : s.Inv) :
    (s.timedPipe i k srcs chk eff).Inv := by
  unfold State.timedPipe
  repeat' (first
    | with_reducible assumption | with_reducible apply State.timed_inv | with_reducible apply State.onPipe_inv
    | with_reducible intro _)

theorem State.toS_inv (s : State) (i : Instr) (srcs : List RegRef) (d lat : Nat) (v : Word) (inv : s.Inv) :
    (s.toS i srcs d lat v).Inv := by
  unfold State.toS
  repeat' (first | with_reducible assumption | with_reducible apply State.timedPipe_inv)

theorem State.alu_inv (s : State) (i : Instr) (d a b : BitVec 5) (lat : Nat) (f : Word → Word → Word) (inv : s.Inv) :
    (s.alu i d a b lat f).Inv := by
  unfold State.alu
  repeat' (first | with_reducible assumption | with_reducible apply State.toS_inv)

theorem State.aluImm_inv (s : State) (i : Instr) (d a : BitVec 5) (v : Word) (inv : s.Inv) :
    (s.aluImm i d a v).Inv := by
  unfold State.aluImm
  repeat' (first | with_reducible assumption | with_reducible apply State.toS_inv)

theorem State.branchWord_inv (s : State) (i : Instr) (k : StreamKind) (srcs : List RegRef) (slips : List Det)
    (taken : Bool) (off : BitVec 19) (eff : Pipe → Pipe) (inv : s.Inv) :
    (s.branchWord i k srcs slips taken off eff).Inv := by
  unfold State.branchWord
  repeat' (first
    | with_reducible assumption | with_reducible apply State.setPipe_inv | with_reducible apply State.illegal_inv
    | dsimp only | split)

theorem State.give_inv (s : State) (i : Instr) (k : StreamKind) (q : BitVec 4) (c : BitVec 6) (inv : s.Inv) :
    (s.give i k q c).Inv := by
  unfold State.give
  repeat' (first | with_reducible assumption | with_reducible apply State.timedPipe_inv)

theorem State.loopWord_inv (s : State) (i : Instr) (k : StreamKind) (srcs : List RegRef) (slips : List Det)
    (len most trips : Nat) (eff : Pipe → Pipe) (inv : s.Inv) :
    (s.loopWord i k srcs slips len most trips eff).Inv := by
  unfold State.loopWord
  repeat' (first
    | with_reducible assumption | with_reducible apply State.setPipe_inv | with_reducible apply State.illegal_inv
    | dsimp only | split)

theorem State.take_inv (s : State) (i : Instr) (k : StreamKind) (q : BitVec 4) (c : BitVec 6) (inv : s.Inv) :
    (s.take i k q c).Inv := by
  unfold State.take
  repeat' (first | with_reducible assumption | with_reducible apply State.timedPipe_inv)

theorem State.toP_inv (s : State) (i : Instr) (srcs : List RegRef) (chk : List Det) (d : BitVec 3) (v : Bool)
    (inv : s.Inv) :
    (s.toP i srcs chk d v).Inv := by
  unfold State.toP
  repeat' (first | with_reducible assumption | with_reducible apply State.timedPipe_inv)

theorem State.setDie_inv (s : State) (d : Nat) (x : Die) (inv : s.Inv) :
    (s.setDie d x).Inv := by
  unfold State.setDie
  repeat' (first | with_reducible assumption | simp only [inv_upd])

theorem State.onDie_inv (s : State) (d : Nat) (f : Die → Die) (inv : s.Inv) :
    (s.onDie d f).Inv := by
  unfold State.onDie
  repeat' (first | with_reducible assumption | with_reducible apply State.setDie_inv)

theorem execIdle_inv (w : BitVec 3) (n : BitVec 23) (s : State) (inv : s.Inv) :
    outInv (execIdle w n s) := by
  unfold execIdle
  repeat' (first
    | with_reducible assumption | with_reducible apply State.timedTo_inv | with_reducible apply out_next
    | with_reducible apply inv_id)

theorem State.openLay_inv (s : State) (d w : Nat) (l : LayDesc) (inv : s.Inv) :
    (s.openLay d w l).Inv := by
  unfold State.openLay
  repeat' (first | with_reducible assumption | with_reducible apply State.onDie_inv | simp only [inv_upd] | split)

theorem State.onCoach_inv (s : State) (c : Nat) (f : Coach → Coach) (inv : s.Inv) :
    (s.onCoach c f).Inv := by
  unfold State.onCoach
  repeat' (first | with_reducible assumption | simp only [inv_upd])

theorem State.onCtx_inv (s : State) (c x : Nat) (f : Context → Context) (inv : s.Inv) :
    (s.onCtx c x f).Inv := by
  unfold State.onCtx
  repeat' (first | with_reducible assumption | with_reducible apply State.onCoach_inv)

theorem State.onCard_inv (s : State) (c j : Nat) (f : Card → Card) (inv : s.Inv) :
    (s.onCard c j f).Inv := by
  unfold State.onCard
  repeat' (first | with_reducible assumption | with_reducible apply State.onCoach_inv)

theorem State.loadContext_inv (s : State) (c x : Nat) (inv : s.Inv) :
    (s.loadContext c x).Inv := by
  unfold State.loadContext
  repeat' (first
    | with_reducible assumption | with_reducible apply State.onCtx_inv | with_reducible apply State.onCard_inv
    | with_reducible apply foldl_inv | with_reducible intro _)

theorem State.onLaunch_inv (s : State) (lid : Nat) (f : Launch → Launch) (inv : s.Inv) :
    (s.onLaunch lid f).Inv := by
  unfold State.onLaunch
  repeat' (first | with_reducible assumption | simp only [inv_upd] | split)

theorem State.loadRecord_inv (s : State) (c lid : Nat) (inv : s.Inv) :
    (s.loadRecord c lid).Inv := by
  unfold State.loadRecord
  repeat' (first | with_reducible assumption | with_reducible apply State.onLaunch_inv)

theorem State.writePhys_inv (s : State) (pa : Nat) (bs : List Byte) (inv : s.Inv) :
    (s.writePhys pa bs).Inv := by
  unfold State.writePhys
  repeat' (first
    | with_reducible assumption | simp only [inv_mk] | with_reducible apply And.intro
    | with_reducible apply Memory.wf_writeBytes | with_reducible apply inv_mem | with_reducible apply inv_fw)

theorem State.putHeader_inv (s : State) (c x : Nat) (inv : s.Inv) :
    (s.putHeader c x).Inv := by
  unfold State.putHeader
  repeat' (first
    | with_reducible assumption | simp only [inv_mk] | with_reducible apply And.intro
    | with_reducible apply Memory.wf_writeLE | with_reducible apply inv_mem | with_reducible apply inv_fw)

theorem State.saveUnit_inv (s : State) (c x : Nat) (inv : s.Inv) :
    (s.saveUnit c x).Inv := by
  unfold State.saveUnit
  repeat' (first
    | with_reducible assumption | with_reducible apply State.writePhys_inv
    | with_reducible apply State.putHeader_inv)

theorem State.saveContext_inv (s : State) (c x : Nat) (inv : s.Inv) :
    (s.saveContext c x).Inv := by
  unfold State.saveContext
  repeat' (first
    | with_reducible assumption | with_reducible apply State.writePhys_inv | with_reducible apply State.saveUnit_inv
    | with_reducible apply foldl_inv | simp only [inv_upd] | with_reducible intro _)

theorem State.setLineAll_inv (s : State) (c n : Nat) (inv : s.Inv) :
    (s.setLineAll c n).Inv := by
  unfold State.setLineAll
  repeat' (first
    | with_reducible assumption | with_reducible apply State.onCtx_inv | with_reducible apply foldl_inv
    | with_reducible intro _)

theorem State.resave_inv (s : State) (c x : Nat) (inv : s.Inv) :
    (s.resave c x).Inv := by
  unfold State.resave
  repeat' (first | with_reducible assumption | with_reducible apply State.saveUnit_inv | split)

theorem State.setLineHeld_inv (s : State) (c n : Nat) (inv : s.Inv) :
    (s.setLineHeld c n).Inv := by
  unfold State.setLineHeld
  repeat' (first
    | with_reducible assumption | with_reducible apply State.setLineAll_inv | with_reducible apply State.resave_inv
    | with_reducible apply foldl_inv | with_reducible intro _)

theorem State.drawn_inv (s : State) (inv : s.Inv) :
    (s.drawn).Inv := by
  unfold State.drawn
  repeat' (first | with_reducible assumption | simp only [inv_upd])

theorem State.takeEv_inv (s : State) (c : Nat) (k : EvKind) (inv : s.Inv) :
    someInv (s.takeEv c k) := by
  unfold State.takeEv
  dsimp only
  split
  · exact some_none
  · exact some_some ((inv_upd ..).2 (State.drawn_inv s inv))

theorem State.sendReleases_inv (s : State) (lid c n token : Nat) (inv : s.Inv) :
    (s.sendReleases lid c n token).Inv := by
  unfold State.sendReleases
  repeat' (first | with_reducible assumption | simp only [inv_upd])

theorem State.reached_inv (s : State) (c x n : Nat) (inv : s.Inv) :
    (s.reached c x n).Inv := by
  unfold State.reached
  repeat' (first
    | with_reducible assumption | with_reducible apply State.onCtx_inv | with_reducible apply State.sendReleases_inv
    | simp only [inv_upd] | split)

theorem State.releaseAt_inv (s : State) (c x n : Nat) (inv : s.Inv) :
    (s.releaseAt c x n).Inv := by
  unfold State.releaseAt
  repeat' (first
    | with_reducible assumption | with_reducible apply State.sendReleases_inv | with_reducible apply State.onCtx_inv
    | with_reducible apply State.reached_inv | dsimp only | split)

theorem State.arrive_inv (s : State) (c x : Nat) (a : Arrival) (inv : s.Inv) :
    (s.arrive c x a).Inv := by
  unfold State.arrive
  repeat' (first | with_reducible assumption | with_reducible apply State.onCtx_inv)

theorem State.ask_inv (s : State) (c x : Nat) (a : LeaveAsk) (inv : s.Inv) :
    (s.ask c x a).Inv := by
  unfold State.ask
  repeat' (first | with_reducible assumption | with_reducible apply State.onCtx_inv)

theorem State.leave_inv (s : State) (c x n : Nat) (inv : s.Inv) :
    (s.leave c x n).Inv := by
  unfold State.leave
  repeat' (first
    | with_reducible assumption | with_reducible apply State.onLaunch_inv | with_reducible apply State.onCtx_inv
    | simp only [inv_upd])

theorem State.endContext_inv (s : State) (c x : Nat) (code : Word) (inv : s.Inv) :
    (s.endContext c x code).Inv := by
  unfold State.endContext
  repeat' (first
    | with_reducible assumption | with_reducible apply State.leave_inv | with_reducible apply State.onCtx_inv
    | with_reducible apply State.onCoach_inv | with_reducible apply State.onLaunch_inv
    | with_reducible apply foldl_inv | with_reducible intro _)

theorem State.reclaim_inv (s : State) (c : Nat) (inv : s.Inv) :
    (s.reclaim c).Inv := by
  unfold State.reclaim
  repeat' (first | with_reducible assumption | simp only [inv_upd])

theorem State.onGig_inv (s : State) (g : Nat) (f : Gig → Gig) (inv : s.Inv) :
    (s.onGig g f).Inv := by
  unfold State.onGig
  repeat' (first | with_reducible assumption | simp only [inv_upd])

theorem State.keyGigs_inv (s : State) (c : Nat) (h : List Word) (inv : s.Inv) :
    (s.keyGigs c h).Inv := by
  unfold State.keyGigs
  repeat' (first
    | with_reducible assumption | with_reducible apply State.onGig_inv | with_reducible apply State.drawn_inv
    | with_reducible apply foldl_inv | with_reducible intro _)

theorem State.startSlice_inv (s : State) (c x : Nat) (inv : s.Inv) :
    (s.startSlice c x).Inv := by
  unfold State.startSlice
  repeat' (first | with_reducible assumption | with_reducible apply State.onCtx_inv)

theorem State.onThread_inv (s : State) (t : Nat) (f : Thread → Thread) (inv : s.Inv) :
    (s.onThread t f).Inv := by
  unfold State.onThread
  repeat' (first | with_reducible assumption | with_reducible apply State.onCtx_inv | split)

theorem State.spWrite_inv (s : State) (g o : Nat) (bs : List Byte) (inv : s.Inv) :
    (s.spWrite g o bs).Inv := by
  unfold State.spWrite
  repeat' (first | with_reducible assumption | with_reducible apply State.onGig_inv | simp only [inv_upd])

theorem State.deliver_inv (s : State) (t : Nat) (m : Msg) (inv : s.Inv) :
    (s.deliver t m).Inv := by
  unfold State.deliver
  repeat' (first
    | with_reducible assumption | with_reducible apply State.onCtx_inv | with_reducible apply State.spWrite_inv
    | with_reducible apply State.saveUnit_inv | dsimp only | split)

theorem State.acceptOne_inv (s : State) (r : Nat) (inv : s.Inv) :
    (s.acceptOne r).Inv := by
  unfold State.acceptOne
  repeat' (first
    | with_reducible assumption | with_reducible apply State.onThread_inv | with_reducible apply State.deliver_inv
    | simp only [inv_upd] | split)

theorem State.acceptHeld_inv (s : State) (inv : s.Inv) :
    (s.acceptHeld).Inv := by
  unfold State.acceptHeld
  repeat' (first
    | with_reducible assumption | with_reducible apply State.acceptOne_inv | with_reducible apply foldl_inv
    | with_reducible intro _)

theorem State.cleanGigs_inv (s : State) (c : Nat) (inv : s.Inv) :
    (s.cleanGigs c).Inv := by
  unfold State.cleanGigs
  repeat' (first
    | with_reducible assumption | with_reducible apply State.onGig_inv | with_reducible apply foldl_inv
    | with_reducible intro _ | split)

theorem State.takeIn_inv (s : State) (d lid : Nat) (inv : s.Inv) :
    (s.takeIn d lid).Inv := by
  unfold State.takeIn
  repeat' (first
    | with_reducible assumption | with_reducible apply State.onLaunch_inv | with_reducible apply State.onDie_inv)

theorem State.admitSpill_inv (s : State) (d : Nat) (inv : s.Inv) :
    (s.admitSpill d).Inv := by
  unfold State.admitSpill
  repeat' (first
    | with_reducible assumption | with_reducible apply State.takeIn_inv | with_reducible apply State.onDie_inv
    | dsimp only | split)

theorem State.startContext_inv (s : State) (c x lid : Nat) (inv : s.Inv) :
    (s.startContext c x lid).Inv := by
  unfold State.startContext
  repeat' (first
    | with_reducible assumption | with_reducible apply State.reclaim_inv | with_reducible apply State.onCoach_inv
    | with_reducible apply State.cleanGigs_inv | with_reducible apply State.keyGigs_inv
    | with_reducible apply State.startSlice_inv | with_reducible apply State.putHeader_inv
    | with_reducible apply State.writePhys_inv | with_reducible apply State.admitSpill_inv
    | with_reducible apply State.onDie_inv | with_reducible apply State.onLaunch_inv | dsimp only | split)

theorem State.tryStart_inv (s : State) (c lid : Nat) (inv : s.Inv) :
    (s.tryStart c lid).Inv := by
  unfold State.tryStart
  repeat' (first | with_reducible assumption | with_reducible apply State.startContext_inv | split)

theorem State.dropContext_inv (s : State) (c x : Nat) (inv : s.Inv) :
    (s.dropContext c x).Inv := by
  unfold State.dropContext
  repeat' (first
    | with_reducible assumption | with_reducible apply State.onCoach_inv | simp only [inv_mk]
    | with_reducible apply And.intro | with_reducible apply Memory.wf_writeLE | with_reducible apply inv_mem
    | with_reducible apply inv_fw)

theorem State.exitGroup_inv (s : State) (c x r : Nat) (inv : s.Inv) :
    (s.exitGroup c x r).Inv := by
  unfold State.exitGroup
  repeat' (first
    | with_reducible assumption | with_reducible apply State.onGig_inv | with_reducible apply State.onCtx_inv
    | with_reducible apply State.cleanGigs_inv | with_reducible apply State.dropContext_inv | dsimp only
    | split)

theorem State.exitGroups_inv (s : State) (c : Nat) (inv : s.Inv) :
    (s.exitGroups c).Inv := by
  unfold State.exitGroups
  repeat' (first
    | with_reducible assumption | with_reducible apply State.exitGroup_inv | with_reducible apply foldl_inv
    | with_reducible intro _)

theorem State.arriveAt_inv (s : State) (c x n : Nat) (inv : s.Inv) :
    (s.arriveAt c x n).Inv := by
  unfold State.arriveAt
  repeat' (first
    | with_reducible assumption | with_reducible apply State.onCtx_inv | with_reducible apply State.reached_inv
    | dsimp only | split)

theorem State.applyArrival_inv (s : State) (c x : Nat) (a : Arrival) (inv : s.Inv) :
    (s.applyArrival c x a).Inv := by
  unfold State.applyArrival
  repeat' (first
    | with_reducible assumption | with_reducible apply State.onCtx_inv | with_reducible apply State.arriveAt_inv
    | simp only [inv_upd] | split)

theorem State.endCycleCtx_inv (s : State) (c x : Nat) (inv : s.Inv) :
    (s.endCycleCtx c x).Inv := by
  unfold State.endCycleCtx
  repeat' (first
    | with_reducible assumption | with_reducible apply State.onCtx_inv | with_reducible apply State.applyArrival_inv
    | with_reducible apply State.resave_inv | with_reducible apply foldl_inv | dsimp only
    | with_reducible intro _ | split)

theorem State.endCycleCoach_inv (s : State) (c : Nat) (inv : s.Inv) :
    (s.endCycleCoach c).Inv := by
  unfold State.endCycleCoach
  repeat' (first
    | with_reducible assumption | with_reducible apply State.exitGroups_inv
    | with_reducible apply State.endCycleCtx_inv | with_reducible apply State.onCoach_inv
    | with_reducible apply foldl_inv | with_reducible intro _)

theorem State.askLeave_inv (s : State) (d : Nat) (cxl : Bool) (n : Nat) (inv : s.Inv) :
    (s.askLeave d cxl n).2.Inv := by
  unfold State.askLeave
  repeat' (first | with_reducible assumption | with_reducible apply State.onDie_inv | dsimp only | split)

theorem State.judgeAsk_inv (s : State) (c x : Nat) (a : LeaveAsk) (inv : s.Inv) :
    (s.judgeAsk c x a).Inv := by
  unfold State.judgeAsk
  repeat' (first
    | with_reducible assumption | with_reducible apply State.onCtx_inv | with_reducible apply State.askLeave_inv)

theorem State.judgeAsks_inv (s : State) (d : Nat) (inv : s.Inv) :
    (s.judgeAsks d).Inv := by
  unfold State.judgeAsks
  repeat' (first
    | with_reducible assumption | with_reducible apply State.judgeAsk_inv | with_reducible apply foldl_inv
    | with_reducible intro _)

theorem State.endCycle_inv (s : State) (d : Nat) (inv : s.Inv) :
    (s.endCycle d).Inv := by
  unfold State.endCycle
  repeat' (first
    | with_reducible assumption | with_reducible apply State.endCycleCoach_inv
    | with_reducible apply State.judgeAsks_inv | with_reducible apply foldl_inv
    | with_reducible intro _ | split)

theorem State.gigTime_inv (s : State) (d : Nat) (n : Word) (inv : s.Inv) :
    (s.gigTime d n).Inv := by
  unfold State.gigTime
  repeat' (first
    | with_reducible assumption | with_reducible apply State.endCycle_inv | with_reducible apply State.onDie_inv
    | simp only [inv_upd] | split)

theorem State.beginLeave_inv (s : State) (c : Nat) (inv : s.Inv) :
    (s.beginLeave c).Inv := by
  unfold State.beginLeave
  repeat' (first | with_reducible assumption | with_reducible apply State.onCtx_inv | split)

theorem State.flushBook_inv (s : State) (g : Nat) (inv : s.Inv) :
    (s.flushBook g).Inv := by
  unfold State.flushBook
  repeat' (first
    | with_reducible assumption | with_reducible apply State.onGig_inv | with_reducible apply State.writePhys_inv
    | dsimp only | split)

theorem State.noteGig_inv (s : State) (t kind addr data : Nat) (inv : s.Inv) :
    (s.noteGig t kind addr data).Inv := by
  unfold State.noteGig
  repeat' (first
    | with_reducible assumption | with_reducible apply State.flushBook_inv | with_reducible apply State.onGig_inv)

theorem State.box_inv (s : State) (d kind : Nat) (source : BoxSource) (payload : Word) (inv : s.Inv) :
    (s.box d kind source payload).Inv := by
  unfold State.box
  repeat' (first
    | with_reducible assumption | simp only [inv_mk] | simp only [fw_mk] | with_reducible apply And.intro
    | with_reducible apply take_le | with_reducible apply fw_own | with_reducible apply fw_cap
    | with_reducible apply fw_seeds | with_reducible apply fw_version | with_reducible apply inv_mem
    | with_reducible apply inv_fw)

theorem State.haltCoach_inv (s : State) (t cause : Nat) (inv : s.Inv) :
    (s.haltCoach t cause).Inv := by
  unfold State.haltCoach
  repeat' (first
    | with_reducible assumption | with_reducible apply State.box_inv | with_reducible apply State.endContext_inv
    | with_reducible apply foldl_inv | with_reducible intro _)

theorem State.sendMsg_inv (s : State) (t r : Nat) (body : List Byte) (inv : s.Inv) :
    (s.sendMsg t r body).Inv := by
  unfold State.sendMsg
  repeat' (first
    | with_reducible assumption | with_reducible apply State.deliver_inv | with_reducible apply State.onThread_inv
    | simp only [inv_upd] | split)

theorem State.chainTrap_inv (s : State) (t cause : Nat) (tvalue : Word) (pc : Nat) (inv : s.Inv) :
    (s.chainTrap t cause tvalue pc).Inv := by
  unfold State.chainTrap
  repeat' (first
    | with_reducible assumption | with_reducible apply State.onGig_inv | with_reducible apply State.onThread_inv
    | with_reducible apply State.haltCoach_inv | with_reducible apply State.sendMsg_inv | dsimp only
    | split)

theorem State.trapAt_inv (s : State) (t cause sub : Nat) (tvalue : Word) (pc : Nat) (inv : s.Inv) :
    (s.trapAt t cause sub tvalue pc).Inv := by
  unfold State.trapAt
  repeat' (first
    | with_reducible assumption | with_reducible apply State.noteGig_inv | with_reducible apply State.chainTrap_inv
    | with_reducible apply State.onThread_inv | split)

theorem State.setPart_inv (s : State) (k : Nat) (x : Partition) (inv : s.Inv) :
    (s.setPart k x).Inv := by
  unfold State.setPart
  repeat' (first | with_reducible assumption | simp only [inv_upd])

theorem State.onPart_inv (s : State) (k : Nat) (f : Partition → Partition) (inv : s.Inv) :
    (s.onPart k f).Inv := by
  unfold State.onPart
  repeat' (first | with_reducible assumption | with_reducible apply State.setPart_inv)

theorem State.onRun_inv (s : State) (k : Nat) (f : TimedRun → TimedRun) (inv : s.Inv) :
    (s.onRun k f).Inv := by
  unfold State.onRun
  repeat' (first | with_reducible assumption | with_reducible apply State.onPart_inv)

theorem State.tellDomain_inv (s : State) (k : Nat) (kind : NoticeKind) (pkg : Nat) (atk : Tick) (inv : s.Inv) :
    (s.tellDomain k kind pkg atk).Inv := by
  unfold State.tellDomain
  repeat' (first | with_reducible assumption | simp only [inv_upd] | split)

theorem State.countHost_inv (s : State) (inv : s.Inv) :
    (s.countHost).Inv := by
  unfold State.countHost
  repeat' (first
    | with_reducible assumption | simp only [inv_mk] | simp only [fw_mk] | with_reducible apply And.intro
    | with_reducible apply fw_own | with_reducible apply fw_cap | with_reducible apply fw_seeds
    | with_reducible apply fw_rings | with_reducible apply fw_version | with_reducible apply inv_mem
    | with_reducible apply inv_fw)

theorem State.countUnit_inv (s : State) (b : BoxSource) (inv : s.Inv) :
    (s.countUnit b).Inv := by
  unfold State.countUnit
  repeat' (first
    | with_reducible assumption | simp only [inv_mk] | simp only [fw_mk] | with_reducible apply And.intro
    | with_reducible apply fw_own | with_reducible apply fw_cap | with_reducible apply fw_seeds
    | with_reducible apply fw_rings | with_reducible apply fw_version | with_reducible apply inv_mem
    | with_reducible apply inv_fw)

theorem State.countUnc_inv (s : State) (b : BoxSource) (inv : s.Inv) :
    (s.countUnc b).Inv := by
  unfold State.countUnc
  repeat' (first
    | with_reducible assumption | with_reducible apply State.box_inv | with_reducible apply State.countHost_inv
    | with_reducible apply State.countUnit_inv | split)

theorem State.untell_inv (s : State) (k : Nat) (inv : s.Inv) :
    (s.untell k).Inv := by
  unfold State.untell
  repeat' (first
    | with_reducible assumption | with_reducible apply foldl_inv | simp only [inv_upd])

theorem State.tellFirst_inv (s : State) (k : Nat) (old : TimedRun) (inv : s.Inv) :
    (s.tellFirst k old).Inv := by
  unfold State.tellFirst
  repeat' (first
    | with_reducible assumption | with_reducible apply State.tellDomain_inv | with_reducible apply State.untell_inv
    | dsimp only | with_reducible intro _ | split)

theorem State.conclude_inv (s : State) (g : Nat) (td : Tick) (held : Option Nat) (inv : s.Inv) :
    (s.conclude g td held).Inv := by
  unfold State.conclude
  repeat' (first
    | with_reducible assumption | with_reducible apply State.setPipe_inv | with_reducible apply State.onRun_inv
    | with_reducible apply State.countUnc_inv | with_reducible apply State.tellFirst_inv
    | with_reducible apply foldl_inv | dsimp only | with_reducible intro _ | split)

theorem State.hbmPiece_inv (s : State) (g m i : Nat) (inv : s.Inv) :
    (s.hbmPiece g m i).Inv := by
  unfold State.hbmPiece
  repeat' (first | with_reducible assumption | with_reducible apply State.onPipe_inv)

theorem State.record_inv (s : State) (g : Nat) (ds : List Det) (inv : s.Inv) :
    (s.record g ds).Inv := by
  unfold State.record
  repeat' (first | with_reducible assumption | with_reducible apply State.onPipe_inv)

theorem State.concludeApart_inv (s : State) (g : Nat) (td : Tick) (ds : List Det) (inv : s.Inv) :
    (s.concludeApart g td ds).Inv := by
  unfold State.concludeApart
  repeat' (first
    | with_reducible assumption | with_reducible apply State.onPipe_inv | with_reducible apply State.conclude_inv)

theorem State.windowSlips_inv (s : State) (d : Nat) (us : List ChanUse) (t : Tick) (inv : s.Inv) :
    (s.windowSlips d us t).Inv := by
  unfold State.windowSlips
  repeat' (first
    | with_reducible assumption | with_reducible apply State.concludeApart_inv
    | with_reducible apply State.record_inv | with_reducible apply foldl_inv | dsimp only
    | with_reducible intro _ | split)

theorem State.judgeWindows_inv (s : State) (d : Nat) (last : Tick) (inv : s.Inv) :
    (s.judgeWindows d last).Inv := by
  unfold State.judgeWindows
  repeat' (first
    | with_reducible assumption | with_reducible apply State.windowSlips_inv | with_reducible apply State.onDie_inv
    | with_reducible apply foldl_inv | dsimp only | with_reducible intro _ | split)

theorem State.linkSendsAt_inv (s : State) (k d : Nat) (t : Tick) (go : Nat → Bool) (inv : s.Inv) :
    (s.linkSendsAt k d t go).Inv := by
  unfold State.linkSendsAt
  repeat' (first
    | with_reducible assumption | with_reducible apply foldl_inv | simp only [inv_upd] | with_reducible intro _
    | split)

theorem State.linkSends_inv (s : State) (k d : Nat) (inv : s.Inv) :
    (s.linkSends k d).Inv := by
  unfold State.linkSends
  repeat' (first | with_reducible assumption | with_reducible apply State.linkSendsAt_inv)

theorem State.linkSlips_inv (s : State) (k d : Nat) (inv : s.Inv) :
    (s.linkSlips k d).Inv := by
  unfold State.linkSlips
  repeat' (first
    | with_reducible assumption | with_reducible apply State.record_inv | with_reducible apply foldl_inv
    | simp only [inv_upd] | with_reducible intro _)

theorem State.readBefore_inv (s : State) (k : Nat) (o : HbmOp) (t : Tick) (inv : s.Inv) :
    (s.readBefore k o t).Inv := by
  unfold State.readBefore
  repeat' (first
    | with_reducible assumption | with_reducible apply State.onPipe_inv | with_reducible apply foldl_inv
    | with_reducible intro _ | split)

theorem State.spoilLivery_inv (s : State) (j a : Nat) (inv : s.Inv) :
    (s.spoilLivery j a).Inv := by
  unfold State.spoilLivery
  repeat' (first | with_reducible assumption | with_reducible apply State.onPart_inv)

theorem State.strike_inv (s : State) (u a : Nat) (inv : s.Inv) :
    (s.strike u a).Inv := by
  unfold State.strike
  repeat' (first
    | with_reducible assumption | with_reducible apply State.spoilLivery_inv | with_reducible apply State.onPipe_inv
    | with_reducible apply State.onDie_inv | with_reducible apply State.onGig_inv
    | with_reducible apply State.onThread_inv | simp only [inv_upd] | dsimp only | with_reducible intro _
    | with_reducible apply inv_ite)

theorem State.tlbp_inv (s : State) (i : Instr) (k : StreamKind) (st : Nat) (inv : s.Inv) :
    (s.tlbp i k st).Inv := by
  unfold State.tlbp
  repeat' (first | with_reducible assumption | with_reducible apply State.timedPipe_inv)

theorem State.countTable_inv (s : State) (reads : List Nat) (inv : s.Inv) :
    (s.countTable reads).Inv := by
  unfold State.countTable
  repeat' (first
    | with_reducible assumption | with_reducible apply State.countUnc_inv | with_reducible apply foldl_inv
    | dsimp only | with_reducible intro _)

theorem State.walksMove_inv (s : State) (g : Nat) (inv : s.Inv) :
    (s.walksMove g).Inv := by
  unfold State.walksMove
  repeat' (first
    | with_reducible assumption | with_reducible apply State.setPipe_inv | with_reducible apply State.countTable_inv
    | simp only [inv_upd] | dsimp only | with_reducible intro _ | split)

theorem execBoundaryChannelOverflow_inv (d : Nat) (s : State) (inv : s.Inv) :
    outInv (execBoundaryChannelOverflow d s) := by
  unfold execBoundaryChannelOverflow
  repeat' (first
    | with_reducible assumption | with_reducible apply State.judgeWindows_inv | with_reducible apply out_next)

theorem execDrawbarArrival_inv (g : Nat) (s : State) (inv : s.Inv) :
    outInv (execDrawbarArrival g s) := by
  unfold execDrawbarArrival
  repeat' (first | with_reducible assumption | with_reducible apply State.onPipe_inv | with_reducible apply out_next)

theorem execHbmSlotRefusal_inv (g : Nat) (s : State) (inv : s.Inv) :
    outInv (execHbmSlotRefusal g s) := by
  unfold execHbmSlotRefusal
  repeat' (first | with_reducible assumption | with_reducible apply State.setPipe_inv | with_reducible apply out_next)

theorem execHldLanding_inv (g : Nat) (s : State) (inv : s.Inv) :
    outInv (execHldLanding g s) := by
  unfold execHldLanding
  repeat' (first
    | with_reducible assumption | with_reducible apply State.onPipe_inv | with_reducible apply State.record_inv
    | with_reducible apply foldl_inv | with_reducible apply out_next | dsimp only | with_reducible intro _
    | split)

theorem execHstCompletion_inv (g : Nat) (s : State) (inv : s.Inv) :
    outInv (execHstCompletion g s) := by
  unfold execHstCompletion
  repeat' (first
    | with_reducible assumption | with_reducible apply State.onPipe_inv | with_reducible apply State.record_inv
    | with_reducible apply State.writePhys_inv | with_reducible apply State.readBefore_inv
    | with_reducible apply foldl_inv | with_reducible apply out_next | with_reducible intro _ | split)

theorem execLTlbp_inv (w : BitVec 3) (st : BitVec 4) (s : State) (inv : s.Inv) :
    outInv (execLTlbp w st s) := by
  unfold execLTlbp
  repeat' (first | with_reducible assumption | with_reducible apply State.tlbp_inv | with_reducible apply out_next)

theorem execLdcmComplete_inv (g : Nat) (s : State) (inv : s.Inv) :
    outInv (execLdcmComplete g s) := by
  unfold execLdcmComplete
  repeat' (first | with_reducible assumption | with_reducible apply State.onPipe_inv | with_reducible apply out_next)

theorem execLinkPlanLanding_inv (k j : Nat) (s : State) (inv : s.Inv) :
    outInv (execLinkPlanLanding k j s) := by
  unfold execLinkPlanLanding
  repeat' (first
    | with_reducible assumption | with_reducible apply State.onPipe_inv | with_reducible apply State.record_inv
    | with_reducible apply out_next | simp only [inv_upd] | split)

theorem execLinkPlanRead_inv (k j : Nat) (s : State) (inv : s.Inv) :
    outInv (execLinkPlanRead k j s) := by
  unfold execLinkPlanRead
  repeat' (first
    | with_reducible assumption | with_reducible apply State.onPipe_inv | with_reducible apply State.record_inv
    | with_reducible apply out_next | dsimp only | split)

theorem State.landWord_inv (s : State) (w : RelayWord) (inv : s.Inv) :
    (s.landWord w).Inv := by
  unfold State.landWord
  repeat' (first
    | with_reducible assumption | with_reducible apply State.onPipe_inv | with_reducible apply State.record_inv
    | dsimp only | with_reducible intro _ | split)

theorem execRelayLanding_inv (g : Nat) (s : State) (inv : s.Inv) :
    outInv (execRelayLanding g s) := by
  unfold execRelayLanding
  repeat' (first
    | with_reducible assumption | with_reducible apply out_next | with_reducible apply State.landWord_inv
    | with_reducible apply foldl_inv | simp only [inv_upd])

theorem execResultComplete_inv (g : Nat) (s : State) (inv : s.Inv) :
    outInv (execResultComplete g s) := by
  unfold execResultComplete
  repeat' (first | with_reducible assumption | with_reducible apply State.onPipe_inv | with_reducible apply out_next)

theorem execSTlbp_inv (w : BitVec 3) (st : BitVec 4) (s : State) (inv : s.Inv) :
    outInv (execSTlbp w st s) := by
  unfold execSTlbp
  repeat' (first | with_reducible assumption | with_reducible apply State.tlbp_inv | with_reducible apply out_next)

theorem execScfgTakesEffect_inv (g : Nat) (s : State) (inv : s.Inv) :
    outInv (execScfgTakesEffect g s) := by
  unfold execScfgTakesEffect
  repeat' (first | with_reducible assumption | with_reducible apply State.onPipe_inv | with_reducible apply out_next)

theorem State.countCor_inv (s : State) (b : BoxSource) (inv : s.Inv) :
    (s.countCor b).Inv := by
  unfold State.countCor
  repeat' (first
    | with_reducible assumption | simp only [inv_mk] | simp only [fw_mk] | with_reducible apply And.intro
    | with_reducible apply fw_own | with_reducible apply fw_cap | with_reducible apply fw_seeds
    | with_reducible apply fw_rings | with_reducible apply fw_version | with_reducible apply inv_mem
    | with_reducible apply inv_fw)

theorem execTlbpResult_inv (g : Nat) (s : State) (inv : s.Inv) :
    outInv (execTlbpResult g s) := by
  unfold execTlbpResult
  repeat' (first
    | with_reducible assumption | with_reducible apply out_next | with_reducible apply State.onPipe_inv
    | with_reducible apply State.countTable_inv)

theorem execWordArrival_inv (d : Nat) (s : State) (inv : s.Inv) :
    outInv (execWordArrival d s) := by
  unfold execWordArrival
  repeat' (first
    | with_reducible assumption | with_reducible apply State.record_inv | with_reducible apply State.conclude_inv
    | with_reducible apply foldl_inv | with_reducible apply out_next | simp only [inv_upd] | with_reducible intro _
    | split)

theorem State.scfg_inv (s : State) (i : Instr) (k : StreamKind) (src : RegRef) (st : Nat) (base : Word)
    (imm : BitVec 15) (inv : s.Inv) :
    (s.scfg i k src st base imm).Inv := by
  unfold State.scfg
  repeat' (first | with_reducible assumption | with_reducible apply State.timedPipe_inv)

theorem execLScfg_inv (w : BitVec 3) (st a : BitVec 4) (i : BitVec 15) (s : State) (inv : s.Inv) :
    outInv (execLScfg w st a i s) := by
  unfold execLScfg
  repeat' (first | with_reducible assumption | with_reducible apply State.scfg_inv | with_reducible apply out_next)

theorem State.movePos_inv (s : State) (i : Instr) (k : StreamKind) (st : Nat) (f : Desc → Nat → Nat) (inv : s.Inv) :
    (s.movePos i k st f).Inv := by
  unfold State.movePos
  repeat' (first | with_reducible assumption | with_reducible apply State.timedPipe_inv)

theorem execLSadv_inv (w : BitVec 3) (st : BitVec 4) (i : BitVec 15) (s : State) (inv : s.Inv) :
    outInv (execLSadv w st i s) := by
  unfold execLSadv
  repeat' (first | with_reducible assumption | with_reducible apply State.movePos_inv | with_reducible apply out_next)

theorem State.toA_inv (s : State) (i : Instr) (srcs : List RegRef) (d : BitVec 4) (v : Word) (inv : s.Inv) :
    (s.toA i srcs d v).Inv := by
  unfold State.toA
  repeat' (first | with_reducible assumption | with_reducible apply State.timedPipe_inv)

theorem execAadd_inv (w : BitVec 3) (d a b : BitVec 4) (s : State) (inv : s.Inv) :
    outInv (execAadd w d a b s) := by
  unfold execAadd
  repeat' (first | with_reducible assumption | with_reducible apply State.toA_inv | with_reducible apply out_next)

theorem execAaddi_inv (w : BitVec 3) (d a : BitVec 4) (i : BitVec 15) (s : State) (inv : s.Inv) :
    outInv (execAaddi w d a i s) := by
  unfold execAaddi
  repeat' (first | with_reducible assumption | with_reducible apply State.toA_inv | with_reducible apply out_next)

theorem execAli_inv (w : BitVec 3) (d : BitVec 4) (i : BitVec 19) (s : State) (inv : s.Inv) :
    outInv (execAli w d i s) := by
  unfold execAli
  repeat' (first | with_reducible assumption | with_reducible apply State.toA_inv | with_reducible apply out_next)

theorem State.sqr_inv (s : State) (i : Instr) (k : StreamKind) (t : Nat) (r : Word → Result) (inv : s.Inv) :
    (s.sqr i k t r).Inv := by
  unfold State.sqr
  repeat' (first | with_reducible assumption | with_reducible apply State.timedPipe_inv)

theorem execLSqr_inv (w : BitVec 3) (d : BitVec 4) (s : State) (inv : s.Inv) :
    outInv (execLSqr w d s) := by
  unfold execLSqr
  repeat' (first | with_reducible assumption | with_reducible apply State.sqr_inv | with_reducible apply out_next)

theorem execLdq_inv (w q : BitVec 3) (st : BitVec 4) (s : State) (inv : s.Inv) :
    outInv (execLdq w q st s) := by
  unfold execLdq
  repeat' (first
    | with_reducible assumption | with_reducible apply State.timed_inv | with_reducible apply State.timedPipe_inv
    | with_reducible apply out_next | with_reducible apply inv_id | dsimp only | split)

theorem execGath_inv (w : BitVec 3) (st a : BitVec 4) (i : BitVec 15) (s : State) (inv : s.Inv) :
    outInv (execGath w st a i s) := by
  unfold execGath
  repeat' (first
    | with_reducible assumption | with_reducible apply State.timed_inv | with_reducible apply State.timedPipe_inv
    | with_reducible apply out_next | with_reducible apply inv_id | dsimp only | split)

theorem State.hbmWord_inv (s : State) (i : Instr) (k : StreamKind) (src : RegRef) (st o : Nat) (load : Bool)
    (extra : List Det) (inv : s.Inv) :
    (s.hbmWord i k src st o load extra).Inv := by
  unfold State.hbmWord
  repeat' (first
    | with_reducible assumption | with_reducible apply State.timed_inv | with_reducible apply State.timedPipe_inv
    | with_reducible apply State.onPipe_inv | with_reducible apply inv_id | dsimp only | split)

theorem execHld_inv (w : BitVec 3) (st a : BitVec 4) (i : BitVec 15) (s : State) (inv : s.Inv) :
    outInv (execHld w st a i s) := by
  unfold execHld
  repeat' (first | with_reducible assumption | with_reducible apply State.hbmWord_inv | with_reducible apply out_next)

theorem execBout_inv (w : BitVec 3) (st : BitVec 4) (s : State) (inv : s.Inv) :
    outInv (execBout w st s) := by
  unfold execBout
  repeat' (first | with_reducible assumption | with_reducible apply State.movePos_inv | with_reducible apply out_next)

theorem execLdcb_inv (w : BitVec 3) (c : BitVec 2) (a : BitVec 4) (s : State) (inv : s.Inv) :
    outInv (execLdcb w c a s) := by
  unfold execLdcb
  repeat' (first
    | with_reducible assumption | with_reducible apply State.timedPipe_inv | with_reducible apply out_next)

theorem execLdcm_inv (w : BitVec 3) (t a : BitVec 4) (s : State) (inv : s.Inv) :
    outInv (execLdcm w t a s) := by
  unfold execLdcm
  repeat' (first
    | with_reducible assumption | with_reducible apply State.timedPipe_inv | with_reducible apply out_next)

theorem execLGive_inv (w : BitVec 3) (q : BitVec 4) (c : BitVec 6) (s : State) (inv : s.Inv) :
    outInv (execLGive w q c s) := by
  unfold execLGive
  repeat' (first | with_reducible assumption | with_reducible apply State.give_inv | with_reducible apply out_next)

theorem execLTake_inv (w : BitVec 3) (q : BitVec 4) (c : BitVec 6) (s : State) (inv : s.Inv) :
    outInv (execLTake w q c s) := by
  unfold execLTake
  repeat' (first | with_reducible assumption | with_reducible apply State.take_inv | with_reducible apply out_next)

theorem execSScfg_inv (w : BitVec 3) (st b : BitVec 4) (i : BitVec 15) (s : State) (inv : s.Inv) :
    outInv (execSScfg w st b i s) := by
  unfold execSScfg
  repeat' (first | with_reducible assumption | with_reducible apply State.scfg_inv | with_reducible apply out_next)

theorem execSSadv_inv (w : BitVec 3) (st : BitVec 4) (i : BitVec 15) (s : State) (inv : s.Inv) :
    outInv (execSSadv w st i s) := by
  unfold execSSadv
  repeat' (first | with_reducible assumption | with_reducible apply State.movePos_inv | with_reducible apply out_next)

theorem State.toB_inv (s : State) (i : Instr) (srcs : List RegRef) (d : BitVec 4) (v : Word) (inv : s.Inv) :
    (s.toB i srcs d v).Inv := by
  unfold State.toB
  repeat' (first | with_reducible assumption | with_reducible apply State.timedPipe_inv)

theorem execBadd_inv (w : BitVec 3) (d a b : BitVec 4) (s : State) (inv : s.Inv) :
    outInv (execBadd w d a b s) := by
  unfold execBadd
  repeat' (first | with_reducible assumption | with_reducible apply State.toB_inv | with_reducible apply out_next)

theorem execBaddi_inv (w : BitVec 3) (d a : BitVec 4) (i : BitVec 15) (s : State) (inv : s.Inv) :
    outInv (execBaddi w d a i s) := by
  unfold execBaddi
  repeat' (first | with_reducible assumption | with_reducible apply State.toB_inv | with_reducible apply out_next)

theorem execBli_inv (w : BitVec 3) (d : BitVec 4) (i : BitVec 19) (s : State) (inv : s.Inv) :
    outInv (execBli w d i s) := by
  unfold execBli
  repeat' (first | with_reducible assumption | with_reducible apply State.toB_inv | with_reducible apply out_next)

theorem execSSqr_inv (w : BitVec 3) (d : BitVec 4) (s : State) (inv : s.Inv) :
    outInv (execSSqr w d s) := by
  unfold execSSqr
  repeat' (first | with_reducible assumption | with_reducible apply State.sqr_inv | with_reducible apply out_next)

theorem execStq_inv (w q : BitVec 3) (st f : BitVec 4) (r : BitVec 3) (x : BitVec 1) (h : BitVec 2) (c : BitVec 1)
    (s : State) (inv : s.Inv) :
    outInv (execStq w q st f r x h c s) := by
  unfold execStq
  repeat' (first
    | with_reducible assumption | with_reducible apply State.timedTo_inv | with_reducible apply State.onPipe_inv
    | with_reducible apply State.timed_inv | with_reducible apply out_next | with_reducible apply inv_id
    | dsimp only | with_reducible intro _ | split)

theorem execHst_inv (w : BitVec 3) (st b : BitVec 4) (i : BitVec 15) (s : State) (inv : s.Inv) :
    outInv (execHst w st b i s) := by
  unfold execHst
  repeat' (first | with_reducible assumption | with_reducible apply State.hbmWord_inv | with_reducible apply out_next)

theorem execSend_inv (w q : BitVec 3) (b : BitVec 4) (s : State) (inv : s.Inv) :
    outInv (execSend w q b s) := by
  unfold execSend
  repeat' (first
    | with_reducible assumption | with_reducible apply State.timed_inv | with_reducible apply State.onPipe_inv
    | with_reducible apply State.onDie_inv | with_reducible apply out_next | simp only [inv_upd]
    | with_reducible intro _)

theorem execMcast_inv (w q : BitVec 3) (g b : BitVec 4) (s : State) (inv : s.Inv) :
    outInv (execMcast w q g b s) := by
  unfold execMcast
  repeat' (first
    | with_reducible assumption | with_reducible apply State.timed_inv | with_reducible apply State.onPipe_inv
    | with_reducible apply State.onDie_inv | with_reducible apply out_next | simp only [inv_upd]
    | with_reducible intro _)

theorem execRmw_inv (w o : BitVec 3) (t : BitVec 2) (b v : BitVec 4) (s : State) (inv : s.Inv) :
    outInv (execRmw w o t b v s) := by
  unfold execRmw
  repeat' (first
    | with_reducible assumption | with_reducible apply State.timedPipe_inv | with_reducible apply out_next)

theorem execHclr_inv (w : BitVec 3) (n : BitVec 2) (s : State) (inv : s.Inv) :
    outInv (execHclr w n s) := by
  unfold execHclr
  repeat' (first
    | with_reducible assumption | with_reducible apply State.timedPipe_inv | with_reducible apply out_next)

theorem execHsnap_inv (w : BitVec 3) (n : BitVec 2) (b : BitVec 4) (s : State) (inv : s.Inv) :
    outInv (execHsnap w n b s) := by
  unfold execHsnap
  repeat' (first
    | with_reducible assumption | with_reducible apply State.timedPipe_inv | with_reducible apply out_next)

theorem execSGive_inv (w : BitVec 3) (q : BitVec 4) (c : BitVec 6) (s : State) (inv : s.Inv) :
    outInv (execSGive w q c s) := by
  unfold execSGive
  repeat' (first | with_reducible assumption | with_reducible apply State.give_inv | with_reducible apply out_next)

theorem execSTake_inv (w : BitVec 3) (q : BitVec 4) (c : BitVec 6) (s : State) (inv : s.Inv) :
    outInv (execSTake w q c s) := by
  unfold execSTake
  repeat' (first | with_reducible assumption | with_reducible apply State.take_inv | with_reducible apply out_next)

theorem State.xMode_inv (s : State) (i : Instr) (srcs : List RegRef) (chk : List Det) (rm n : Nat)
    (eff : RMode → Tick → Pipe → Pipe) (inv : s.Inv) :
    (s.xMode i srcs chk rm n eff).Inv := by
  unfold State.xMode
  repeat' (first
    | with_reducible assumption | with_reducible apply State.timed_inv | with_reducible apply State.timedTo_inv
    | with_reducible apply State.onPipe_inv | with_reducible apply inv_id | with_reducible intro _ | split)

theorem State.vArith_inv (s : State) (i : Instr) (d a b : BitVec 5) (f r : BitVec 3) (x m : BitVec 1) (useD : Bool)
    (op : XVal → XVal → XVal → Bool → XRes) (inv : s.Inv) :
    (s.vArith i d a b f r x m useD op).Inv := by
  unfold State.vArith
  repeat' (first | with_reducible assumption | with_reducible apply State.xMode_inv)

theorem State.vMap_inv (s : State) (i : Instr) (d a b : BitVec 5) (m : BitVec 1) (two : Bool) (w : Nat)
    (f : Nat → Nat → FRes) (inv : s.Inv) :
    (s.vMap i d a b m two w f).Inv := by
  unfold State.vMap
  repeat' (first | with_reducible assumption | with_reducible apply State.timedPipe_inv)

theorem State.vLanes_inv (s : State) (i : Instr) (srcs : List RegRef) (chk : List Det) (d : BitVec 5) (m : BitVec 1)
    (f : Pipe → Nat → BitVec 32) (inv : s.Inv) :
    (s.vLanes i srcs chk d m f).Inv := by
  unfold State.vLanes
  repeat' (first | with_reducible assumption | with_reducible apply State.timedPipe_inv)

theorem State.vLogic_inv (s : State) (i : Instr) (d a b : BitVec 5) (m : BitVec 1)
    (f : BitVec 32 → BitVec 32 → BitVec 32) (inv : s.Inv) :
    (s.vLogic i d a b m f).Inv := by
  unfold State.vLogic
  repeat' (first | with_reducible assumption | with_reducible apply State.vLanes_inv)

theorem State.sendDrawbar_inv (s : State) (g : Nat) (east : Bool) (now : Tick) (v : VWord) (inv : s.Inv) :
    (s.sendDrawbar g east now v).Inv := by
  unfold State.sendDrawbar
  repeat' (first | with_reducible assumption | with_reducible apply State.onPipe_inv | split)

theorem State.trapMe_inv (s : State) (cause sub : Nat) (tvalue : Word) (inv : s.Inv) :
    (s.trapMe cause sub tvalue).Inv := by
  unfold State.trapMe
  repeat' (first | with_reducible assumption | with_reducible apply State.trapAt_inv)

theorem State.gigWord_inv (s : State) (wf : Bool) (w : Word) (srcs : List Nat) (release : Bool) (eff : State → State) (inv : s.Inv)
    (heff : ∀ t, t.Inv → (eff t).Inv) : (s.gigWord wf w srcs release eff).Inv := by
  unfold State.gigWord
  repeat' (first
    | with_reducible assumption | with_reducible apply State.drawn_inv | with_reducible apply State.countUnc_inv
    | with_reducible apply State.trapMe_inv | with_reducible apply heff | dsimp only | split)

theorem State.gigInstr_inv (s : State) (i : Instr) (srcs : List Nat) (release : Bool) (eff : State → State)
    (inv : s.Inv) (heff : ∀ t, t.Inv → (eff t).Inv) :
    (s.gigInstr i srcs release eff).Inv := by
  unfold State.gigInstr
  repeat' (first | with_reducible assumption | with_reducible apply State.gigWord_inv)

theorem State.onMe_inv (s : State) (f : Thread → Thread) (inv : s.Inv) :
    (s.onMe f).Inv := by
  unfold State.onMe
  repeat' (first | with_reducible assumption | with_reducible apply State.onThread_inv)

theorem State.toD_inv (s : State) (i : Instr) (srcs : List Nat) (d : Nat) (v : Thread → Word) (inv : s.Inv) :
    (s.toD i srcs d v).Inv := by
  unfold State.toD
  repeat' (first
    | with_reducible assumption | with_reducible apply State.gigInstr_inv | with_reducible apply State.onMe_inv
    | with_reducible intro _)

theorem State.gigAlu_inv (s : State) (i : Instr) (d a b : BitVec 5) (f : Word → Word → Word) (inv : s.Inv) :
    (s.gigAlu i d a b f).Inv := by
  unfold State.gigAlu
  repeat' (first | with_reducible assumption | with_reducible apply State.toD_inv)

theorem State.lateD_inv (s : State) (d lat : Nat) (v : Thread → Word × BitVec 5) (inv : s.Inv) :
    (s.lateD d lat v).Inv := by
  unfold State.lateD
  repeat' (first | with_reducible assumption | with_reducible apply State.onMe_inv)

theorem State.toLateD_inv (s : State) (i : Instr) (srcs : List Nat) (d lat : Nat) (v : Thread → Word) (inv : s.Inv) :
    (s.toLateD i srcs d lat v).Inv := by
  unfold State.toLateD
  repeat' (first
    | with_reducible assumption | with_reducible apply State.gigInstr_inv | with_reducible apply State.lateD_inv
    | with_reducible intro _)

theorem State.gigDivide_inv (s : State) (i : Instr) (d a b : BitVec 5) (f : Word → Word → Word) (inv : s.Inv) :
    (s.gigDivide i d a b f).Inv := by
  unfold State.gigDivide
  repeat' (first | with_reducible assumption | with_reducible apply State.toLateD_inv)

theorem State.gigOne_inv (s : State) (i : Instr) (d a : BitVec 5) (f : Word → Word) (inv : s.Inv) :
    (s.gigOne i d a f).Inv := by
  unfold State.gigOne
  repeat' (first | with_reducible assumption | with_reducible apply State.toD_inv)

theorem State.gigJump_inv (s : State) (target : Word) (link : Option Nat) (inv : s.Inv) :
    (s.gigJump target link).Inv := by
  unfold State.gigJump
  repeat' (first
    | with_reducible assumption | with_reducible apply State.trapMe_inv | with_reducible apply State.onMe_inv
    | with_reducible apply State.noteGig_inv | split)

theorem State.gigBranch_inv (s : State) (i : Instr) (a b : BitVec 5) (off : BitVec 16) (c : Word → Word → Bool)
    (inv : s.Inv) :
    (s.gigBranch i a b off c).Inv := by
  unfold State.gigBranch
  repeat' (first
    | with_reducible assumption | with_reducible apply State.gigInstr_inv | with_reducible apply State.gigJump_inv
    | with_reducible apply State.onMe_inv | with_reducible intro _ | split)

theorem State.issueAcc_inv (s : State) (cls va size : Nat) (op : AccOp) (dest : Option Nat) (inv : s.Inv) :
    (s.issueAcc cls va size op dest).Inv := by
  unfold State.issueAcc
  repeat' (first
    | with_reducible assumption | with_reducible apply State.trapMe_inv | with_reducible apply State.onMe_inv
    | with_reducible apply State.noteGig_inv | dsimp only | split)

theorem State.gigLoad_inv (s : State) (ins : Instr) (d a : BitVec 5) (c : BitVec 4) (i : BitVec 9) (size : Nat)
    (sg : Bool) (inv : s.Inv) :
    (s.gigLoad ins d a c i size sg).Inv := by
  unfold State.gigLoad
  repeat' (first
    | with_reducible assumption | with_reducible apply State.gigInstr_inv | with_reducible apply State.issueAcc_inv
    | simp only [inv_upd] | with_reducible intro _)

theorem State.gigStore_inv (s : State) (ins : Instr) (d a : BitVec 5) (c : BitVec 4) (i : BitVec 9) (size : Nat)
    (inv : s.Inv) :
    (s.gigStore ins d a c i size).Inv := by
  unfold State.gigStore
  repeat' (first
    | with_reducible assumption | with_reducible apply State.gigInstr_inv | with_reducible apply State.issueAcc_inv
    | simp only [inv_upd] | with_reducible intro _)

theorem State.gigAmo_inv (s : State) (ins : Instr) (d a b : BitVec 5) (w : BitVec 1) (c : BitVec 4) (op : Nat)
    (inv : s.Inv) :
    (s.gigAmo ins d a b w c op).Inv := by
  unfold State.gigAmo
  repeat' (first
    | with_reducible assumption | with_reducible apply State.gigInstr_inv | with_reducible apply State.issueAcc_inv
    | dsimp only | with_reducible intro _)

theorem State.fpuD_inv (s : State) (d lat : Nat) (v : Thread → Word × FlagSet) (inv : s.Inv) :
    (s.fpuD d lat v).Inv := by
  unfold State.fpuD
  repeat' (first | with_reducible assumption | with_reducible apply State.lateD_inv)

theorem State.fpu_inv (s : State) (i : Instr) (srcs : List Nat) (d lat : Nat) (r : BitVec 3)
    (f : RMode → Thread → Word × FlagSet) (inv : s.Inv) :
    (s.fpu i srcs d lat r f).Inv := by
  unfold State.fpu
  repeat' (first
    | with_reducible assumption | with_reducible apply State.gigInstr_inv | with_reducible apply State.trapMe_inv
    | with_reducible apply State.fpuD_inv | with_reducible intro _ | split)

theorem State.fpuTwo_inv (s : State) (i : Instr) (d a b : BitVec 5) (f r : BitVec 3) (lat : Nat)
    (op : XVal → XVal → Bool → XRes × FlagSet) (inv : s.Inv) :
    (s.fpuTwo i d a b f r lat op).Inv := by
  unfold State.fpuTwo
  repeat' (first | with_reducible assumption | with_reducible apply State.fpu_inv)

theorem State.fpuPlain_inv (s : State) (i : Instr) (d a b : BitVec 5) (f : BitVec 3) (op : Fmt → Nat → Nat → FRes)
    (inv : s.Inv) :
    (s.fpuPlain i d a b f op).Inv := by
  unfold State.fpuPlain
  repeat' (first
    | with_reducible assumption | with_reducible apply State.gigInstr_inv | with_reducible apply State.fpuD_inv
    | with_reducible intro _)

theorem State.fused_inv (s : State) (i : Instr) (d a b c : BitVec 5) (f : BitVec 1) (r : BitVec 3) (np nc : Bool)
    (inv : s.Inv) :
    (s.fused i d a b c f r np nc).Inv := by
  unfold State.fused
  repeat' (first | with_reducible assumption | with_reducible apply State.fpu_inv)

theorem State.acquire_inv (s : State) (i : Instr) (srcs : List Nat) (eff : State → State) (inv : s.Inv)
    (heff : ∀ t, t.Inv → (eff t).Inv) :
    (s.acquire i srcs eff).Inv := by
  unfold State.acquire
  repeat' (first
    | with_reducible assumption | with_reducible apply State.gigInstr_inv | with_reducible apply heff
    | with_reducible intro _ | split)

theorem State.withOwn_inv (s : State) (al n : Nat) (va : Word) (f : Nat → State) (inv : s.Inv) (hf : ∀ x0, (f x0).Inv) :
    (s.withOwn al n va f).Inv := by
  unfold State.withOwn
  repeat' (first | with_reducible assumption | with_reducible apply State.trapMe_inv | with_reducible apply hf | split)

theorem State.newLaunch_inv (s : State) (k d : Nat) (h : List Word) (ev : SMap (BitVec 32)) (progress : Bool)
    (parent job : Option Nat) (inv : s.Inv) :
    (s.newLaunch k d h ev progress parent job).Inv := by
  unfold State.newLaunch
  repeat' (first | with_reducible assumption | with_reducible apply State.onLaunch_inv | simp only [inv_upd] | split)

theorem State.liveryInstr_inv (s : State) (i : Instr) (srcs : List Nat) (op : Nat) (d : Option Nat) (a b : Nat)
    (nf : Bool) (inv : s.Inv) :
    (s.liveryInstr i srcs op d a b nf).Inv := by
  unfold State.liveryInstr
  repeat' (first
    | with_reducible assumption | with_reducible apply State.gigInstr_inv | with_reducible apply State.onMe_inv
    | with_reducible intro _)

theorem State.toPlane_inv (s : State) (op : AccOp) (d : BitVec 5) (inv : s.Inv) :
    (s.toPlane op d).Inv := by
  unfold State.toPlane
  repeat' (first | with_reducible assumption | with_reducible apply State.onMe_inv)

theorem State.privileged_inv (s : State) (i : Instr) (srcs : List Nat) (eff : State → State) (inv : s.Inv)
    (heff : ∀ t, t.Inv → (eff t).Inv) :
    (s.privileged i srcs eff).Inv := by
  unfold State.privileged
  repeat' (first
    | with_reducible assumption | with_reducible apply State.gigInstr_inv | with_reducible apply State.trapMe_inv
    | with_reducible apply heff | with_reducible intro _ | split)

theorem State.supervisor_inv (s : State) (i : Instr) (srcs : List Nat) (eff : State → State) (inv : s.Inv)
    (heff : ∀ t, t.Inv → (eff t).Inv) :
    (s.supervisor i srcs eff).Inv := by
  unfold State.supervisor
  repeat' (first
    | with_reducible assumption | with_reducible apply State.privileged_inv | with_reducible apply State.trapMe_inv
    | with_reducible apply heff | with_reducible intro _ | split)

theorem State.unslice_inv (s : State) (t : Nat) (inv : s.Inv) :
    (s.unslice t).Inv := by
  unfold State.unslice
  repeat' (first
    | with_reducible assumption | with_reducible apply State.onCtx_inv | with_reducible apply State.beginLeave_inv
    | dsimp only | split)

theorem State.setGigCsr_inv (s : State) (c : Nat) (v : Word) (inv : s.Inv) :
    (s.setGigCsr c v).Inv := by
  unfold State.setGigCsr
  repeat' (first
    | with_reducible assumption | with_reducible apply State.onMe_inv | with_reducible apply State.onGig_inv
    | with_reducible apply State.onCoach_inv | with_reducible apply State.reclaim_inv | split)

theorem State.accTrap_inv (s : State) (t : Nat) (a : Access) (cause sub : Nat) (v : Word) (inv : s.Inv) :
    (s.accTrap t a cause sub v).Inv := by
  unfold State.accTrap
  repeat' (first
    | with_reducible assumption | with_reducible apply State.onThread_inv | with_reducible apply State.trapAt_inv
    | split)

theorem execRegisterWrite_inv (g : Nat) (s : State) (inv : s.Inv) :
    outInv (execRegisterWrite g s) := by
  unfold execRegisterWrite
  repeat' (first | with_reducible assumption | with_reducible apply State.onPipe_inv | with_reducible apply out_next)

theorem State.writesDue_inv (s : State) (g c : Nat) (inv : s.Inv) :
    (s.writesDue g c).Inv := by
  unfold State.writesDue
  repeat' (first
    | with_reducible assumption | with_reducible apply State.onPipe_inv | with_reducible apply State.record_inv
    | with_reducible apply foldl_inv | dsimp only | with_reducible intro _ | split)

theorem execRmwFinalWrite_inv (g : Nat) (s : State) (inv : s.Inv) :
    outInv (execRmwFinalWrite g s) := by
  unfold execRmwFinalWrite
  repeat' (first
    | with_reducible assumption | with_reducible apply State.onPipe_inv | with_reducible apply State.writesDue_inv
    | with_reducible apply out_next)

theorem State.runKstep_inv (s : State) (g : Nat) (inv : s.Inv) :
    (s.runKstep g).Inv := by
  unfold State.runKstep
  repeat' (first
    | with_reducible assumption | with_reducible apply State.setPipe_inv
    | with_reducible apply State.sendDrawbar_inv | dsimp only | split)

theorem execNestKStep_inv (g : Nat) (s : State) (inv : s.Inv) :
    outInv (execNestKStep g s) := by
  unfold execNestKStep
  repeat' (first
    | with_reducible assumption | with_reducible apply State.runKstep_inv | with_reducible apply out_next
    | dsimp only | split)

theorem execNestDone_inv (g : Nat) (s : State) (inv : s.Inv) :
    outInv (execNestDone g s) := by
  unfold execNestDone
  repeat' (first
    | with_reducible assumption | with_reducible apply State.onPipe_inv | with_reducible apply out_next
    | dsimp only | split)

theorem execSidebandAtk_inv (d n : Nat) (s : State) (inv : s.Inv) :
    outInv (execSidebandAtk d n s) := by
  unfold execSidebandAtk
  repeat' (first
    | with_reducible assumption | with_reducible apply State.onDie_inv | with_reducible apply State.drawn_inv
    | with_reducible apply out_next | split)

theorem execAlignRelease_inv (d : Nat) (s : State) (inv : s.Inv) :
    outInv (execAlignRelease d s) := by
  unfold execAlignRelease
  repeat' (first
    | with_reducible assumption | with_reducible apply State.onDie_inv | with_reducible apply out_next | split)

theorem execAlignSlip_inv (d : Nat) (s : State) (inv : s.Inv) :
    outInv (execAlignSlip d s) := by
  unfold execAlignSlip
  repeat' (first
    | with_reducible assumption | with_reducible apply State.record_inv | with_reducible apply State.onDie_inv
    | with_reducible apply out_next | split)

theorem State.finishReads_inv (s : State) (k g : Nat) (inv : s.Inv) :
    (s.finishReads k g).Inv := by
  unfold State.finishReads
  repeat' (first
    | with_reducible assumption | with_reducible apply State.onPipe_inv | with_reducible apply State.countTable_inv)

theorem State.eachPlace_inv (s : State) (f : State → Nat → Nat → Except Nat State) (gs : List (Nat × Nat))
    (inv : s.Inv) (hf : ∀ x0 x1 x2, x0.Inv → okInv (f x0 x1 x2)) :
    (s.eachPlace f gs).1.Inv := by
  induction gs generalizing s with
  | nil => exact inv
  | cons e t ih =>
    obtain ⟨pos, g⟩ := e
    simp only [State.eachPlace]
    split
    · exact inv
    · rename_i heq
      exact ih _ (inv_ok heq (hf _ _ _ inv))

theorem State.vaStore_inv (s : State) (k va fuel : Nat) (bs : List Byte) (inv : s.Inv) :
    okInv (s.vaStore k va fuel bs) := by
  induction fuel generalizing s va bs with
  | zero => exact ok_ok inv
  | succ f ih =>
    simp only [State.vaStore]
    split
    · exact ok_ok inv
    · split
      · exact ok_error _
      · exact ih _ _ _ (State.writePhys_inv s _ _ inv)

theorem State.writeFrame_inv (s : State) (k pos : Nat) (bl : List (Nat × List Byte)) (inv : s.Inv) :
    okInv (s.writeFrame k pos bl) := by
  induction bl generalizing s with
  | nil => exact ok_ok inv
  | cons e t ih =>
    simp only [State.writeFrame]
    split
    · exact ok_error _
    · rename_i heq
      exact ih _ (inv_ok heq (State.vaStore_inv s _ _ _ _ inv))

theorem State.writeFrameOf_inv (s : State) (k : Nat) (fe : Tick) (pos g : Nat) (inv : s.Inv) :
    okInv (s.writeFrameOf k fe pos g) := by
  unfold State.writeFrameOf
  repeat' (first
    | with_reducible assumption | with_reducible apply State.writeFrame_inv | with_reducible apply ok_error | split)

theorem State.writeFrames_inv (s : State) (k : Nat) (fe : Tick) (gs : List (Nat × Nat)) (inv : s.Inv) :
    (s.writeFrames k fe gs).1.Inv := by
  unfold State.writeFrames
  repeat' (first
    | with_reducible assumption | with_reducible apply State.eachPlace_inv
    | with_reducible apply State.writeFrameOf_inv | with_reducible intro _)

theorem State.onJob_inv (s : State) (j : Option Nat) (f : Job → Job) (inv : s.Inv) :
    (s.onJob j f).Inv := by
  unfold State.onJob
  repeat' (first | with_reducible assumption | simp only [inv_upd] | split)

theorem State.endTimed_inv (s : State) (k : Nat) (status : JobStatus) (reason : Nat) (detail : Word) (inv : s.Inv) :
    (s.endTimed k status reason detail).Inv := by
  unfold State.endTimed
  repeat' (first
    | with_reducible assumption | with_reducible apply State.onPipe_inv | with_reducible apply State.onDie_inv
    | with_reducible apply State.onRun_inv | with_reducible apply State.onJob_inv | with_reducible apply foldl_inv
    | simp only [inv_upd] | dsimp only | with_reducible intro _)

theorem State.abortTimed_inv (s : State) (k reason : Nat) (detail : Word) (inv : s.Inv) :
    (s.abortTimed k reason detail).Inv := by
  unfold State.abortTimed
  repeat' (first
    | with_reducible assumption | with_reducible apply State.endTimed_inv | with_reducible apply State.onRun_inv)

theorem State.by_inv (s : State) (f : State → Out) (inv : s.Inv) (hf : ∀ t, t.Inv → outInv (f t)) :
    (s.by f).Inv := by
  unfold State.by
  repeat' (first
    | with_reducible assumption | with_reducible apply hf
    | with_reducible refine inv_next (by with_reducible assumption) ?_ | split)

theorem State.setStates_inv (s : State) (k v : Nat) (inv : s.Inv) :
    (s.setStates k v).Inv := by
  unfold State.setStates
  repeat' (first
    | with_reducible assumption | with_reducible apply State.vaStore_inv | with_reducible apply foldl_inv
    | with_reducible refine inv_ok (by with_reducible assumption) ?_ | with_reducible intro _ | split)

theorem State.endFrozen_inv (s : State) (k reason : Nat) (detail : Word) (inv : s.Inv) :
    (s.endFrozen k reason detail).Inv := by
  unfold State.endFrozen
  repeat' (first
    | with_reducible assumption | with_reducible apply State.abortTimed_inv
    | with_reducible apply State.tellDomain_inv | with_reducible apply State.setStates_inv)

theorem execFreezeNotice_inv (k : Nat) (s : State) (inv : s.Inv) :
    outInv (execFreezeNotice k s) := by
  unfold execFreezeNotice
  repeat' (first
    | with_reducible assumption | with_reducible apply out_next | with_reducible apply State.endFrozen_inv
    | with_reducible apply State.onRun_inv | with_reducible apply State.onCtx_inv
    | with_reducible apply State.onThread_inv | with_reducible apply State.box_inv | dsimp only
    | with_reducible intro _ | with_reducible apply inv_ite | split)

theorem State.boxFrozen_inv (s : State) (k : Nat) (inv : s.Inv) :
    (s.boxFrozen k).Inv := by
  unfold State.boxFrozen
  repeat' (first
    | with_reducible assumption | with_reducible apply State.box_inv)

theorem State.saveFrames_inv (s : State) (k : Nat) (inv : s.Inv) :
    (s.saveFrames k).Inv := by
  unfold State.saveFrames
  repeat' (first
    | with_reducible assumption | with_reducible apply State.abortTimed_inv
    | with_reducible apply State.writeFrames_inv | with_reducible apply execFreezeNotice_inv
    | with_reducible apply State.boxFrozen_inv | with_reducible apply State.onRun_inv
    | with_reducible apply State.countUnc_inv | with_reducible apply State.by_inv
    | with_reducible refine inv_fst (by with_reducible assumption) ?_
    | with_reducible refine inv_next (by with_reducible assumption) ?_ | dsimp only | with_reducible intro _ | split)

theorem State.captureWords_inv (s : State) (k g : Nat) (fe : Tick) (inv : s.Inv) :
    (s.captureWords k g fe).Inv := by
  unfold State.captureWords
  repeat' (first | with_reducible assumption | with_reducible apply State.setPipe_inv | simp only [inv_upd])

theorem State.freezeNow_inv (s : State) (k : Nat) (inv : s.Inv) :
    (s.freezeNow k).Inv := by
  unfold State.freezeNow
  repeat' (first
    | with_reducible assumption | with_reducible apply State.finishReads_inv | with_reducible apply State.onPipe_inv
    | with_reducible apply State.saveFrames_inv | with_reducible apply State.captureWords_inv
    | with_reducible apply foldl_inv | with_reducible intro _)

theorem State.linkSiding_inv (s : State) (k : Nat) (fe : Tick) (inv : s.Inv) :
    (s.linkSiding k fe).Inv := by
  unfold State.linkSiding
  repeat' (first
    | with_reducible assumption | with_reducible apply State.onRun_inv | with_reducible apply State.drawn_inv
    | with_reducible apply State.linkSendsAt_inv | with_reducible apply foldl_inv | dsimp only
    | with_reducible intro _ | split)

theorem execFreezeTakesEffect_inv (k : Nat) (s : State) (inv : s.Inv) :
    outInv (execFreezeTakesEffect k s) := by
  unfold execFreezeTakesEffect
  repeat' (first
    | with_reducible assumption | with_reducible apply State.freezeNow_inv
    | with_reducible apply State.linkSiding_inv | with_reducible apply out_next | split)

theorem execExtIntTaken_inv (t : Nat) (s : State) (inv : s.Inv) :
    outInv (execExtIntTaken t s) := by
  unfold execExtIntTaken
  repeat' (first
    | with_reducible assumption | with_reducible apply State.trapAt_inv | with_reducible apply State.onThread_inv
    | with_reducible apply out_next | dsimp only | split)

theorem State.endDamaged_inv (s : State) (k a : Nat) (inv : s.Inv) :
    (s.endDamaged k a).Inv := by
  unfold State.endDamaged
  repeat' (first
    | with_reducible assumption | with_reducible apply State.endFrozen_inv | with_reducible apply State.countUnc_inv)

theorem State.restoreImages_inv (s : State) (k pos g : Nat) (inv : s.Inv) :
    (s.restoreImages k pos g).Inv := by
  unfold State.restoreImages
  repeat' (first | with_reducible assumption | with_reducible apply State.onPipe_inv)

theorem State.release_inv (s : State) (g : Nat) (fe : Tick) (e : SidingEntry) (inv : s.Inv) :
    (s.release g fe e).Inv := by
  unfold State.release
  repeat' (first | with_reducible assumption | with_reducible apply State.onPipe_inv | simp only [inv_upd] | split)

theorem State.loadFrame_inv (s : State) (k pos g : Nat) (fe : Tick) (bl : List (Nat × List Byte)) (inv : s.Inv) :
    (s.loadFrame k pos g fe bl).Inv := by
  unfold State.loadFrame
  repeat' (first
    | with_reducible assumption | with_reducible apply State.restoreImages_inv
    | with_reducible apply State.release_inv | with_reducible apply State.setPipe_inv
    | with_reducible apply foldl_inv | with_reducible intro _ | split)

theorem State.damagedWord_inv (s : State) (g : Nat) (k : StreamKind) (inv : s.Inv) :
    (s.damagedWord g k).Inv := by
  unfold State.damagedWord
  repeat' (first | with_reducible assumption | with_reducible apply State.onPipe_inv)

theorem State.pastEnd_inv (s : State) (g : Nat) (k : StreamKind) (inv : s.Inv) :
    (s.pastEnd g k).Inv := by
  unfold State.pastEnd
  repeat' (first | with_reducible assumption | with_reducible apply State.onPipe_inv)

theorem State.issueWord_inv (s : State) (g : Nat) (k : StreamKind) (inv : s.Inv) :
    actInv (s.issueWord g k) := by
  unfold State.issueWord
  repeat' (first
    | with_reducible assumption | with_reducible apply State.damagedWord_inv
    | with_reducible apply State.pastEnd_inv | with_reducible apply act_state | with_reducible apply act_word
    | with_reducible apply act_junk | simp only [inv_upd] | split)

theorem execUnassignedTimedWord_inv (_w : BitVec 32) (s : State) (inv : s.Inv) :
    outInv (execUnassignedTimedWord _w s) := by
  unfold execUnassignedTimedWord
  repeat' (first | with_reducible assumption | with_reducible apply State.illegal_inv | with_reducible apply out_next)

theorem State.rewalk_inv (s : State) (k g : Nat) (q : StreamKind) (st : Nat) (inv : s.Inv) :
    (s.rewalk k g q st).Inv := by
  unfold State.rewalk
  repeat' (first
    | with_reducible assumption | with_reducible apply State.setPipe_inv | with_reducible apply State.countTable_inv
    | dsimp only | with_reducible intro _ | split)

theorem execLs_inv (i : Instr) (s : State) (inv : s.Inv) :
    outInv (execLs i s) := by
  unfold execLs
  repeat' (first
    | with_reducible assumption | with_reducible apply execIdle_inv | with_reducible apply execLScfg_inv
    | with_reducible apply execLSadv_inv | with_reducible apply execBout_inv | with_reducible apply execAadd_inv
    | with_reducible apply execAaddi_inv | with_reducible apply execAli_inv | with_reducible apply execLSqr_inv
    | with_reducible apply execLGive_inv | with_reducible apply execLTake_inv | with_reducible apply execLdq_inv
    | with_reducible apply execGath_inv | with_reducible apply execLdcb_inv | with_reducible apply execLdcm_inv
    | with_reducible apply execHld_inv | with_reducible apply execLTlbp_inv | with_reducible apply execSScfg_inv
    | with_reducible apply execSSadv_inv | with_reducible apply execBadd_inv | with_reducible apply execBaddi_inv
    | with_reducible apply execBli_inv | with_reducible apply execSSqr_inv | with_reducible apply execSGive_inv
    | with_reducible apply execSTake_inv | with_reducible apply execStq_inv | with_reducible apply execHclr_inv
    | with_reducible apply execHsnap_inv | with_reducible apply execHst_inv | with_reducible apply execSend_inv
    | with_reducible apply execMcast_inv | with_reducible apply execRmw_inv | with_reducible apply execSTlbp_inv
    | with_reducible apply out_next | split)

theorem State.catchWord_inv (s : State) (k g : Nat) (q : StreamKind) (inv : s.Inv) :
    (s.catchWord k g q).Inv := by
  unfold State.catchWord
  repeat' (first
    | with_reducible assumption | with_reducible apply State.onPipe_inv | with_reducible apply State.onDie_inv
    | with_reducible apply State.issueWord_inv | with_reducible apply State.by_inv
    | with_reducible apply execUnassignedTimedWord_inv | with_reducible apply State.rewalk_inv
    | with_reducible apply execLs_inv | with_reducible refine inv_acts (by with_reducible assumption) ?_
    | with_reducible refine inv_actw (by with_reducible assumption) ?_
    | with_reducible refine inv_actj (by with_reducible assumption) ?_ | dsimp only | split)

theorem State.gathRows_inv (s : State) (g : Nat) (o : GathOp) (inv : s.Inv) :
    (s.gathRows g o).Inv := by
  unfold State.gathRows
  repeat' (first | with_reducible assumption | with_reducible apply State.setPipe_inv | dsimp only | split)

theorem State.gathStep_inv (s : State) (g : Nat) (inv : s.Inv) :
    (s.gathStep g).Inv := by
  unfold State.gathStep
  repeat' (first
    | with_reducible assumption | with_reducible apply State.gathRows_inv | with_reducible apply foldl_inv
    | with_reducible intro _ | split)

theorem State.catchBegin_inv (s : State) (g : Nat) (inv : s.Inv) :
    (s.catchBegin g).Inv := by
  unfold State.catchBegin
  repeat' (first
    | with_reducible assumption | with_reducible apply State.onPipe_inv | with_reducible apply State.by_inv
    | with_reducible apply execResultComplete_inv | with_reducible apply execScfgTakesEffect_inv
    | with_reducible apply execLdcmComplete_inv | with_reducible apply execTlbpResult_inv)

theorem State.catchLand_inv (s : State) (gs : List Nat) (n : Tick) (inv : s.Inv) :
    (s.catchLand gs n).Inv := by
  unfold State.catchLand
  repeat' (first
    | with_reducible assumption | with_reducible apply State.landWord_inv | with_reducible apply foldl_inv
    | simp only [inv_upd])

theorem State.catchEnd_inv (s : State) (g : Nat) (inv : s.Inv) :
    (s.catchEnd g).Inv := by
  unfold State.catchEnd
  repeat' (first
    | with_reducible assumption | with_reducible apply State.onPipe_inv | with_reducible apply State.by_inv
    | with_reducible apply State.writesDue_inv | with_reducible apply execRmwFinalWrite_inv)

theorem State.catchCycle_inv (s : State) (k : Nat) (l : List (Nat × StreamKind)) (n : Tick) (inv : s.Inv) :
    (s.catchCycle k l n).Inv := by
  unfold State.catchCycle
  repeat' (first
    | with_reducible assumption | with_reducible apply State.catchWord_inv
    | with_reducible apply State.catchBegin_inv | with_reducible apply State.catchLand_inv
    | with_reducible apply State.catchEnd_inv | with_reducible apply State.onDie_inv
    | with_reducible apply State.gathStep_inv | with_reducible apply foldl_inv | dsimp only | with_reducible intro _
    | split)

theorem State.catchUp_inv (s : State) (k : Nat) (fe : Tick) (l : List (Nat × StreamKind)) (inv : s.Inv) :
    (s.catchUp k fe l).Inv := by
  unfold State.catchUp
  repeat' (first
    | with_reducible assumption | with_reducible apply State.catchCycle_inv | with_reducible apply State.onPipe_inv
    | with_reducible apply State.onDie_inv | with_reducible apply foldl_inv | dsimp only
    | with_reducible intro _)

theorem State.caughtUp_inv (s : State) (k : Nat) (fr : List (Nat × Nat × List (Nat × List Byte))) (inv : s.Inv) :
    (s.caughtUp k fr).Inv := by
  unfold State.caughtUp
  repeat' (first
    | with_reducible assumption | with_reducible apply State.catchUp_inv | with_reducible apply State.onPipe_inv
    | with_reducible apply State.onRun_inv | with_reducible apply State.loadFrame_inv
    | with_reducible apply foldl_inv | simp only [inv_upd] | dsimp only | with_reducible intro _)

theorem State.restartFrom_inv (s : State) (k : Nat) (fr : List (Nat × Nat × List (Nat × List Byte))) (inv : s.Inv) :
    (s.restartFrom k fr).Inv := by
  unfold State.restartFrom
  repeat' (first
    | with_reducible assumption | with_reducible apply State.setStates_inv | with_reducible apply State.freezeNow_inv
    | with_reducible apply State.caughtUp_inv | with_reducible apply State.onDie_inv
    | with_reducible apply State.onRun_inv | with_reducible apply State.tellDomain_inv
    | with_reducible apply State.conclude_inv | with_reducible apply foldl_inv | dsimp only
    | with_reducible intro _ | with_reducible apply inv_ite)

theorem State.resume_inv (s : State) (k : Nat) (inv : s.Inv) :
    (s.resume k).1.Inv := by
  unfold State.resume
  repeat' (first
    | with_reducible assumption | with_reducible apply State.endDamaged_inv
    | with_reducible apply State.endFrozen_inv | with_reducible apply State.restartFrom_inv | dsimp only
    | split)

theorem execRestart_inv (d : Nat) (s : State) (inv : s.Inv) :
    outInv (execRestart d s) := by
  unfold execRestart
  repeat' (first
    | with_reducible assumption | with_reducible apply State.onRun_inv | with_reducible apply State.setDie_inv
    | with_reducible apply out_next | dsimp only | split)

theorem execPipelineFinished_inv (g : Nat) (s : State) (inv : s.Inv) :
    outInv (execPipelineFinished g s) := by
  unfold execPipelineFinished
  repeat' (first
    | with_reducible assumption | with_reducible apply State.onRun_inv | with_reducible apply State.setPipe_inv
    | with_reducible apply State.endTimed_inv | with_reducible apply out_next | dsimp only | split)

theorem execTimedGlobalStart_inv (k : Nat) (s : State) (inv : s.Inv) :
    outInv (execTimedGlobalStart k s) := by
  unfold execTimedGlobalStart
  repeat' (first
    | with_reducible assumption | with_reducible apply State.onRun_inv | with_reducible apply State.onDie_inv
    | with_reducible apply State.onPipe_inv | with_reducible apply foldl_inv | with_reducible apply out_next
    | with_reducible intro _)

theorem State.holdCycle_inv (s : State) (d : Nat) (inv : s.Inv) :
    (s.holdCycle d).Inv := by
  unfold State.holdCycle
  repeat' (first | with_reducible assumption | with_reducible apply State.onDie_inv)

theorem execBrakeHoldStart_inv (d : Nat) (s : State) (inv : s.Inv) :
    outInv (execBrakeHoldStart d s) := by
  unfold execBrakeHoldStart
  repeat' (first
    | with_reducible assumption | with_reducible apply State.holdCycle_inv | with_reducible apply State.onDie_inv
    | with_reducible apply out_next | split)

theorem execBrakeRelease_inv (d : Nat) (s : State) (inv : s.Inv) :
    outInv (execBrakeRelease d s) := by
  unfold execBrakeRelease
  repeat' (first
    | with_reducible assumption | with_reducible apply State.onDie_inv | with_reducible apply out_next | split)

theorem execBrakeLimit_inv (d : Nat) (s : State) (inv : s.Inv) :
    outInv (execBrakeLimit d s) := by
  unfold execBrakeLimit
  repeat' (first
    | with_reducible assumption | with_reducible apply State.holdCycle_inv | with_reducible apply State.onDie_inv
    | with_reducible apply State.record_inv | with_reducible apply State.conclude_inv
    | with_reducible apply out_next | split)

theorem execLayoverSettle_inv (d : Nat) (s : State) (inv : s.Inv) :
    outInv (execLayoverSettle d s) := by
  unfold execLayoverSettle
  repeat' (first
    | with_reducible assumption | with_reducible apply State.onDie_inv | with_reducible apply foldl_inv
    | with_reducible apply out_next | simp only [inv_upd] | with_reducible intro _ | split)

theorem execTurnpikeDelayEnd_inv (d : Nat) (s : State) (inv : s.Inv) :
    outInv (execTurnpikeDelayEnd d s) := by
  unfold execTurnpikeDelayEnd
  repeat' (first
    | with_reducible assumption | with_reducible apply State.onDie_inv | with_reducible apply out_next | split)

theorem State.sendChange_inv (s : State) (k ta lb : Nat) (inv : s.Inv) :
    (s.sendChange k ta lb).Inv := by
  unfold State.sendChange
  repeat' (first
    | with_reducible assumption | with_reducible apply State.onDie_inv | with_reducible apply State.drawn_inv
    | with_reducible apply foldl_inv | with_reducible intro _)

theorem State.cardLeave_inv (s : State) (c : Nat) (d : Card) (inv : s.Inv) :
    (s.cardLeave c d).2.Inv := by
  unfold State.cardLeave
  repeat' (first
    | with_reducible assumption | with_reducible apply State.askLeave_inv | with_reducible apply State.onCard_inv
    | with_reducible refine inv_snd (by with_reducible assumption) ?_ | split)

theorem State.pickRow_inv (s : State) (d : Card) (inv : s.Inv) :
    (s.pickRow d).2.Inv := by
  unfold State.pickRow
  repeat' (first | with_reducible assumption | with_reducible apply State.drawn_inv)

theorem State.toLookup_inv (s : State) (a : Walker) (k va : Nat) (inv : s.Inv) :
    (s.toLookup a k va).Inv := by
  unfold State.toLookup
  repeat' (first | with_reducible assumption | simp only [inv_upd])

theorem State.fillTlb_inv (s : State) (a : Walker) (k v : Nat) (found : List (Nat × Nat × Bool × Word)) (inv : s.Inv) :
    (s.fillTlb a k v found).Inv := by
  unfold State.fillTlb
  repeat' (first | with_reducible assumption | simp only [inv_upd])

theorem State.countTlb_inv (s : State) (a : Walker) (k va : Nat) (inv : s.Inv) :
    (s.countTlb a k va).Inv := by
  unfold State.countTlb
  repeat' (first
    | with_reducible assumption | with_reducible apply State.countUnc_inv | with_reducible apply foldl_inv
    | dsimp only | with_reducible intro _)

theorem State.translate_inv (s : State) (a : Walker) (k va : Nat) (inv : s.Inv) :
    (s.translate a k va).2.Inv := by
  unfold State.translate
  repeat' (first
    | with_reducible assumption | with_reducible apply State.drawn_inv | with_reducible apply State.countTable_inv
    | with_reducible apply State.fillTlb_inv | with_reducible apply State.toLookup_inv
    | with_reducible apply State.countTlb_inv)

theorem State.rowPlace_inv (s : State) (c : Nat) (d : Card) (k a : Nat) (wr : Bool) (inv : s.Inv) :
    (s.rowPlace c d k a wr).2.Inv := by
  unfold State.rowPlace
  repeat' (first
    | with_reducible assumption | with_reducible apply State.translate_inv
    | with_reducible refine inv_snd (by with_reducible assumption) ?_ | dsimp only | split)

theorem State.placeWrite_inv (s : State) (k : Target) (bs : List Byte) (inv : s.Inv) :
    (s.placeWrite k bs).Inv := by
  unfold State.placeWrite
  repeat' (first
    | with_reducible assumption | with_reducible apply State.writePhys_inv | with_reducible apply State.spWrite_inv
    | with_reducible apply State.onPipe_inv | split)

theorem State.rowAccess_inv (s : State) (c : Nat) (d : Card) (r : CardRow) (inv : s.Inv) :
    (s.rowAccess c d r).2.Inv := by
  unfold State.rowAccess
  repeat' (first
    | with_reducible assumption | with_reducible apply State.drawn_inv | with_reducible apply State.rowPlace_inv
    | with_reducible apply State.countUnc_inv | with_reducible apply State.placeWrite_inv
    | with_reducible refine inv_snd (by with_reducible assumption) ?_ | dsimp only | split)

theorem State.beginRow_inv (s : State) (c : Nat) (d : Card) (i : Nat) (inv : s.Inv) :
    (s.beginRow c d i).2.Inv := by
  unfold State.beginRow
  repeat' (first | with_reducible assumption | with_reducible apply State.countUnc_inv | dsimp only | split)

theorem State.rowStep_inv (s : State) (c : Nat) (d : Card) (inv : s.Inv) :
    (s.rowStep c d).2.Inv := by
  unfold State.rowStep
  repeat' (first
    | with_reducible assumption | with_reducible apply State.pickRow_inv | with_reducible apply State.rowAccess_inv
    | with_reducible apply State.beginRow_inv | with_reducible refine inv_snd (by with_reducible assumption) ?_
    | split)

theorem State.cardArrive_inv (s : State) (c : Nat) (d : Card) (inv : s.Inv) :
    (s.cardArrive c d).Inv := by
  unfold State.cardArrive
  repeat' (first | with_reducible assumption | with_reducible apply State.arrive_inv | split)

theorem State.faultOne_inv (s : State) (c : Nat) (d : Card) (cause : Nat) (inv : s.Inv) :
    (s.faultOne c d cause).Inv := by
  unfold State.faultOne
  repeat' (first
    | with_reducible assumption | with_reducible apply State.onCard_inv | with_reducible apply State.onCtx_inv
    | dsimp only | split)

theorem State.faultChain_inv (s : State) (c cause n : Nat) (d : Card) (inv : s.Inv) :
    (s.faultChain c cause n d).Inv := by
  induction n generalizing s d with
  | zero => exact inv
  | succ n ih =>
    simp only [State.faultChain]
    refine foldl_inv _ _ _ inv (fun t e ht => ?_)
    split
    · exact ih _ _ (State.faultOne_inv _ _ _ _ ht)
    · exact ht

theorem State.accept_inv (s : State) (port : Nat) (w : List Word) (inv : s.Inv) :
    (s.accept port w).Inv := by
  unfold State.accept
  repeat' (first | with_reducible assumption | simp only [inv_upd])

theorem State.answer_inv (s : State) (port : Nat) (a : PortalAnswer) (inv : s.Inv) :
    (s.answer port a).Inv := by
  unfold State.answer
  repeat' (first | with_reducible assumption | simp only [inv_upd])

theorem State.submit_inv (s : State) (port a : Nat) (w : List Word) (inv : s.Inv) :
    (s.submit port a w).Inv := by
  unfold State.submit
  repeat' (first
    | with_reducible assumption | with_reducible apply State.accept_inv | with_reducible apply State.answer_inv
    | split)

theorem State.endJob_inv (s : State) (j : Nat) (status : JobStatus) (reason : Nat) (detail : Word) (inv : s.Inv) :
    (s.endJob j status reason detail).Inv := by
  unfold State.endJob
  repeat' (first | with_reducible assumption | with_reducible apply State.onJob_inv)

theorem State.rejectJob_inv (s : State) (j reason : Nat) (detail : Word) (inv : s.Inv) :
    (s.rejectJob j reason detail).Inv := by
  unfold State.rejectJob
  repeat' (first | with_reducible assumption | with_reducible apply State.endJob_inv)

theorem State.packet_inv (s : State) (j c : Nat) (go on : Job → State) (inv : s.Inv) (hgo : ∀ x0, (go x0).Inv)
    (hon : ∀ x0, (on x0).Inv) :
    outInv (s.packet j c go on) := by
  unfold State.packet
  repeat' (first
    | with_reducible assumption | with_reducible apply State.rejectJob_inv | with_reducible apply hgo
    | with_reducible apply hon | with_reducible apply out_next | split)

theorem State.loadObject_inv (s : State) (k obj : Nat) (inv : s.Inv) :
    (s.loadObject k obj).1.Inv := by
  unfold State.loadObject
  repeat' (first | with_reducible assumption | with_reducible apply State.onPart_inv | split)

theorem State.chooseImage_inv (s : State) (k obj : Nat) (inv : s.Inv) :
    (s.chooseImage k obj).1.Inv := by
  unfold State.chooseImage
  repeat' (first | with_reducible assumption | with_reducible apply State.loadObject_inv | split)

theorem State.rejectRead_inv (s : State) (j : Nat) (x : Job) (sp a : Nat) (inv : s.Inv) :
    (s.rejectRead j x sp a).Inv := by
  unfold State.rejectRead
  repeat' (first
    | with_reducible assumption | with_reducible apply State.rejectJob_inv | with_reducible apply State.countUnc_inv
    | split)

theorem State.enterSeed_inv (s : State) (r : SeedRec) (inv : s.Inv) :
    (s.enterSeed r).Inv := by
  unfold State.enterSeed
  repeat' (first
    | with_reducible assumption | simp only [inv_mk] | simp only [fw_mk] | with_reducible apply And.intro
    | with_reducible apply drop_le | with_reducible apply fw_own | with_reducible apply fw_cap
    | with_reducible apply fw_rings | with_reducible apply fw_version | with_reducible apply inv_mem
    | with_reducible apply inv_fw | split)

theorem State.chooseAtk0_inv (s : State) (x : Partition) (inv : s.Inv) :
    (s.chooseAtk0 x).2.Inv := by
  unfold State.chooseAtk0
  repeat' (first | with_reducible assumption | with_reducible apply State.drawn_inv | split)

theorem State.loadUnits_inv (s : State) (k lid j : Nat) (ovl : Option Nat) (inv : s.Inv) :
    (s.loadUnits k lid j ovl).Inv := by
  unfold State.loadUnits
  repeat' (first
    | with_reducible assumption | with_reducible apply State.onPipe_inv | with_reducible apply State.chooseAtk0_inv
    | with_reducible apply State.onJob_inv | with_reducible apply State.onRun_inv | with_reducible apply foldl_inv
    | with_reducible intro _)

theorem State.pagedSpot_inv (s : State) (k a : Nat) (wr : Bool) (inv : s.Inv) :
    (s.pagedSpot k a wr).2.Inv := by
  unfold State.pagedSpot
  repeat' (first
    | with_reducible assumption | with_reducible apply State.translate_inv
    | with_reducible refine inv_snd (by with_reducible assumption) ?_ | dsimp only | split)

theorem State.spot_inv (s : State) (port k sp a : Nat) (wr : Bool) (inv : s.Inv) :
    (s.spot port k sp a wr).2.Inv := by
  unfold State.spot
  repeat' (first | with_reducible assumption | with_reducible apply State.pagedSpot_inv | split)

theorem State.spotWrite_inv (s : State) (p : Spot) (bs : List Byte) (inv : s.Inv) :
    (s.spotWrite p bs).Inv := by
  unfold State.spotWrite
  repeat' (first
    | with_reducible assumption | with_reducible apply State.writePhys_inv | with_reducible apply State.onPipe_inv
    | split)

theorem State.copyBytes_inv (s : State) (port k sp a n : Nat) (d : Option Spot) (inv : s.Inv) :
    (s.copyBytes port k sp a n d).1.Inv := by
  induction n generalizing s a d with
  | zero => exact inv
  | succ m ih =>
    simp only [State.copyBytes]
    have hs : ∀ o t, s.spot port k sp a false = (o, t) → t.Inv := fun o t e => inv_snd e (State.spot_inv s _ _ _ _ _ inv)
    split
    · exact hs _ _ (by assumption)
    · rename_i p s1 heq
      split
      · exact State.countUnc_inv _ _ (hs _ _ heq)
      · refine ih _ _ _ ?_
        split
        · exact State.spotWrite_inv _ _ _ (hs _ _ heq)
        · exact hs _ _ heq

theorem State.copyPiece_inv (s : State) (j : Nat) (x : Job) (inv : s.Inv) :
    (s.copyPiece j x).Inv := by
  unfold State.copyPiece
  repeat' (first
    | with_reducible assumption | with_reducible apply State.endJob_inv | with_reducible apply State.spot_inv
    | with_reducible apply State.copyBytes_inv | with_reducible apply State.countUnc_inv
    | with_reducible apply State.spotWrite_inv | with_reducible apply State.onJob_inv
    | with_reducible refine inv_snd (by with_reducible assumption) ?_ | dsimp only | split)

theorem State.copyRow_inv (s : State) (j c : Nat) (inv : s.Inv) :
    outInv (s.copyRow j c) := by
  unfold State.copyRow
  repeat' (first
    | with_reducible assumption | with_reducible apply State.packet_inv | with_reducible apply State.copyPiece_inv
    | with_reducible intro _ | split)

theorem execWaitComplete_inv (j : Nat) (s : State) (inv : s.Inv) :
    outInv (execWaitComplete j s) := by
  unfold execWaitComplete
  repeat' (first
    | with_reducible assumption | with_reducible apply State.endJob_inv | with_reducible apply out_next | split)

theorem State.settleWaits_inv (s : State) (inv : s.Inv) :
    (s.settleWaits).Inv := by
  unfold State.settleWaits
  repeat' (first
    | with_reducible assumption | with_reducible apply State.by_inv | with_reducible apply execWaitComplete_inv
    | with_reducible apply foldl_inv | with_reducible intro _)

theorem State.setCounter_inv (s : State) (k c : Nat) (v : Word) (inv : s.Inv) :
    (s.setCounter k c v).Inv := by
  unfold State.setCounter
  repeat' (first
    | with_reducible assumption | with_reducible apply State.settleWaits_inv | with_reducible apply State.onPart_inv)

theorem State.signal_inv (s : State) (j c : Nat) (f : Word → Word → Word) (inv : s.Inv) :
    outInv (s.signal j c f) := by
  unfold State.signal
  repeat' (first
    | with_reducible assumption | with_reducible apply State.packet_inv | with_reducible apply State.setCounter_inv
    | with_reducible apply State.endJob_inv | with_reducible apply State.setLineHeld_inv | simp only [inv_upd]
    | with_reducible intro _ | split)

theorem State.measure_inv (s : State) (n : Nat) (digest : BitVec 384) (inv : s.Inv) :
    (s.measure n digest).Inv := by
  unfold State.measure
  repeat' (first
    | with_reducible assumption | simp only [inv_mk] | simp only [fw_mk] | with_reducible apply And.intro
    | with_reducible apply fw_own | with_reducible apply fw_cap | with_reducible apply fw_seeds
    | with_reducible apply fw_rings | with_reducible apply fw_version | with_reducible apply inv_mem
    | with_reducible apply inv_fw)

theorem State.swapMeasured_inv (s : State) (k : Nat) (inv : s.Inv) :
    (s.swapMeasured k).Inv := by
  unfold State.swapMeasured
  repeat' (first
    | with_reducible assumption | with_reducible apply State.onPart_inv | with_reducible apply State.measure_inv)

theorem State.hostWrite_inv (s : State) (port a : Nat) (bs : List Byte) (inv : s.Inv) :
    (s.hostWrite port a bs).Inv := by
  unfold State.hostWrite
  repeat' (first
    | with_reducible assumption | with_reducible apply State.countUnc_inv | with_reducible apply foldl_mem
    | simp only [inv_mk] | with_reducible apply And.intro | with_reducible apply Memory.wf_writeBytes
    | with_reducible apply Memory.wf_write | with_reducible apply inv_mem | with_reducible apply inv_fw
    | with_reducible intro _ | split)

theorem State.query_inv (s : State) (j c : Nat) (reply : Job → List Byte) (inv : s.Inv) :
    outInv (s.query j c reply) := by
  unfold State.query
  repeat' (first
    | with_reducible assumption | with_reducible apply State.packet_inv | with_reducible apply State.endJob_inv
    | with_reducible apply State.hostWrite_inv | with_reducible intro _)

theorem State.takeover_inv (s : State) (inv : s.Inv) :
    (s.takeover).Inv := by
  unfold State.takeover
  repeat' (first
    | with_reducible assumption | with_reducible apply State.box_inv | with_reducible apply State.measure_inv
    | simp only [inv_mk] | simp only [fw_mk] | with_reducible apply And.intro | with_reducible apply fw_own
    | with_reducible apply fw_cap | with_reducible apply fw_seeds | with_reducible apply fw_rings
    | with_reducible apply fw_version | with_reducible apply inv_mem | with_reducible apply inv_fw)

theorem State.partitionRow_inv (s : State) (j : Nat) (destroy : Bool) (act : Job → List Word → State) (inv : s.Inv)
    (hact : ∀ x0 x1, (act x0 x1).Inv) :
    outInv (s.partitionRow j destroy act) := by
  unfold State.partitionRow
  repeat' (first
    | with_reducible assumption | with_reducible apply State.packet_inv | with_reducible apply State.rejectRead_inv
    | with_reducible apply hact | dsimp only | with_reducible intro _ | split)

theorem State.alignDies_inv (s : State) (x : Partition) (inv : s.Inv) :
    (s.alignDies x).Inv := by
  unfold State.alignDies
  repeat' (first
    | with_reducible assumption | with_reducible apply State.onDie_inv | with_reducible apply State.drawn_inv
    | with_reducible apply foldl_inv | with_reducible intro _)

theorem State.setOwn_inv (s : State) (o : Own) (inv : s.Inv) (ho : o.ok = true) :
    (s.setOwn o).Inv := by
  exact ⟨inv.1, (fw_mk ..).2 ⟨ho, fw_cap inv.2, fw_seeds inv.2, fw_rings inv.2, fw_version inv.2⟩⟩

theorem State.cold_inv (s : State) (inv : s.Inv) :
    (s.cold).Inv := by
  unfold State.cold
  repeat' (first
    | with_reducible assumption | simp only [inv_mk] | simp only [fw_mk] | with_reducible apply And.intro
    | with_reducible apply reset_inv | with_reducible apply outerMemory_wf | with_reducible apply fw_own
    | with_reducible apply fw_cap | with_reducible apply fw_seeds | with_reducible apply fw_rings
    | with_reducible apply fw_version | with_reducible apply inv_mem | with_reducible apply inv_fw)

theorem State.translated_inv (s : State) (t : Nat) (a : Access) (e3 : Word) (big : Bool) (used : List PageUse) (inv : s.Inv) :
    (s.translated t a e3 big used).Inv := by
  unfold State.translated
  repeat' (first
    | with_reducible assumption | with_reducible apply State.accTrap_inv | with_reducible apply State.onThread_inv
    | dsimp only | with_reducible intro _ | with_reducible apply inv_ite | split)

theorem State.burst_inv (s : State) (t : Nat) (k : Target) (inv : s.Inv) :
    (s.burst t k).Inv := by
  unfold State.burst
  repeat' (first | with_reducible assumption | with_reducible apply State.onThread_inv | split)

theorem State.setPool_inv (s : State) (k j : Nat) (q : Pool) (inv : s.Inv) :
    (s.setPool k j q).Inv := by
  unfold State.setPool
  repeat' (first | with_reducible assumption | with_reducible apply State.onPart_inv)

theorem State.freshBlock_inv (s : State) (q : Pool) (p sq lb : Nat) (inv : s.Inv) :
    (s.freshBlock q p sq lb).Inv := by
  unfold State.freshBlock
  repeat' (first | with_reducible assumption | with_reducible apply State.writePhys_inv)

theorem State.bfork_inv (s : State) (k j : Nat) (q : Pool) (p : Nat) (root : Bool) (e : SeqEntry) (n : Nat)
    (inv : s.Inv) :
    (s.bfork k j q p root e n).2.Inv := by
  unfold State.bfork
  repeat' (first
    | with_reducible assumption | with_reducible apply State.setPool_inv | with_reducible apply State.freshBlock_inv
    | simp only [inv_mk] | with_reducible apply And.intro | with_reducible apply copyPartial_wf
    | with_reducible apply inv_mem | with_reducible apply inv_fw | split)

theorem State.liveryDo_inv (s : State) (k op : Nat) (da db : Word) (inv : s.Inv) :
    (s.liveryDo k op da db).2.Inv := by
  unfold State.liveryDo
  repeat' (first
    | with_reducible assumption | with_reducible apply State.bfork_inv | with_reducible apply State.freshBlock_inv
    | with_reducible apply State.setPool_inv | with_reducible apply foldl_inv | with_reducible intro _ | split
    | dsimp only)

theorem State.performAcc_inv (s : State) (t : Nat) (a : Access) (inv : s.Inv) :
    (s.performAcc t a).Inv := by
  unfold State.performAcc
  repeat' (first
    | with_reducible assumption | with_reducible apply State.countUnc_inv | with_reducible apply State.onThread_inv
    | with_reducible apply State.burst_inv | with_reducible apply State.placeWrite_inv
    | with_reducible apply State.onDie_inv | with_reducible apply State.liveryDo_inv
    | with_reducible apply State.accTrap_inv | dsimp only | split)

theorem State.turnpikeFreeze_inv (s : State) (k ta : Nat) (inv : s.Inv) :
    (s.turnpikeFreeze k ta).Inv := by
  unfold State.turnpikeFreeze
  repeat' (first | with_reducible assumption | with_reducible apply State.onRun_inv | dsimp only | split)

theorem State.allowanceDue_inv (s : State) (d : Nat) (inv : s.Inv) :
    (s.allowanceDue d).Inv := by
  unfold State.allowanceDue
  repeat' (first
    | with_reducible assumption | with_reducible apply State.onDie_inv)

theorem State.changesApply_inv (s : State) (k d : Nat) (inv : s.Inv) :
    (s.changesApply k d).Inv := by
  unfold State.changesApply
  repeat' (first
    | with_reducible assumption | with_reducible apply State.allowanceDue_inv
    | with_reducible apply State.turnpikeFreeze_inv | dsimp only | with_reducible intro _ | split)

theorem State.linkLandings_inv (s : State) (k d : Nat) (inv : s.Inv) :
    (s.linkLandings k d).Inv := by
  unfold State.linkLandings
  repeat' (first
    | with_reducible assumption | with_reducible apply State.by_inv | with_reducible apply execLinkPlanLanding_inv
    | with_reducible apply foldl_inv | with_reducible intro _ | split)

theorem State.nestCharge_inv (s : State) (g : Nat) (inv : s.Inv) :
    (s.nestCharge g).Inv := by
  unfold State.nestCharge
  repeat' (first | with_reducible assumption | with_reducible apply State.onPipe_inv | dsimp only | split)

theorem State.beginPipe_inv (s : State) (g : Nat) (inv : s.Inv) :
    (s.beginPipe g).Inv := by
  unfold State.beginPipe
  repeat' (first
    | with_reducible assumption | with_reducible apply State.onPipe_inv | with_reducible apply State.by_inv
    | with_reducible apply execResultComplete_inv | with_reducible apply execScfgTakesEffect_inv
    | with_reducible apply execTlbpResult_inv | with_reducible apply State.walksMove_inv
    | with_reducible apply execLdcmComplete_inv | with_reducible apply State.nestCharge_inv
    | with_reducible apply State.gathStep_inv | with_reducible apply execNestDone_inv
    | with_reducible apply execNestKStep_inv)

theorem State.storesDone_inv (s : State) (k : Nat) (inv : s.Inv) :
    (s.storesDone k).Inv := by
  unfold State.storesDone
  repeat' (first
    | with_reducible assumption | with_reducible apply State.by_inv | with_reducible apply execHstCompletion_inv
    | with_reducible apply foldl_inv | with_reducible intro _ | split)

theorem State.extDetect_inv (s : State) (k d : Nat) (inv : s.Inv) :
    (s.extDetect k d).Inv := by
  unfold State.extDetect
  repeat' (first
    | with_reducible assumption | with_reducible apply State.record_inv | with_reducible apply State.onRun_inv
    | dsimp only | split)

theorem State.linkReads_inv (s : State) (k d : Nat) (inv : s.Inv) :
    (s.linkReads k d).Inv := by
  unfold State.linkReads
  repeat' (first
    | with_reducible assumption | with_reducible apply State.by_inv | with_reducible apply execLinkPlanRead_inv
    | with_reducible apply foldl_inv | with_reducible intro _ | split)

theorem State.noteStage_inv (s : State) (k : Nat) (n : Tick) (inv : s.Inv) :
    (s.noteStage k n).Inv := by
  unfold State.noteStage
  repeat' (first
    | with_reducible assumption | with_reducible apply State.onRun_inv)

theorem State.beginCycle_inv (s : State) (k d : Nat) (inv : s.Inv) :
    (s.beginCycle k d).Inv := by
  unfold State.beginCycle
  repeat' (first
    | with_reducible assumption | with_reducible apply execBrakeRelease_inv
    | with_reducible apply execAlignRelease_inv | with_reducible apply execAlignSlip_inv
    | with_reducible apply execTurnpikeDelayEnd_inv | with_reducible apply execLayoverSettle_inv
    | with_reducible apply State.onPipe_inv | with_reducible apply State.onDie_inv
    | with_reducible apply State.drawn_inv | with_reducible apply State.by_inv
    | with_reducible apply State.linkLandings_inv | with_reducible apply State.linkReads_inv
    | with_reducible apply State.extDetect_inv | with_reducible apply execTimedGlobalStart_inv
    | with_reducible apply State.beginPipe_inv | with_reducible apply State.storesDone_inv
    | with_reducible apply State.noteStage_inv | with_reducible apply State.changesApply_inv
    | with_reducible apply execHbmSlotRefusal_inv | with_reducible apply execHldLanding_inv
    | with_reducible apply execWordArrival_inv | with_reducible apply execRelayLanding_inv
    | with_reducible apply execBoundaryChannelOverflow_inv | with_reducible apply State.linkSends_inv
    | with_reducible apply State.linkSlips_inv | with_reducible apply foldl_inv | dsimp only
    | with_reducible intro _)

theorem State.extAtStage_inv (s : State) (k d : Nat) (inv : s.Inv) :
    (s.extAtStage k d).Inv := by
  unfold State.extAtStage
  repeat' (first
    | with_reducible assumption | with_reducible apply State.onRun_inv | with_reducible apply State.concludeApart_inv
    | dsimp only | with_reducible intro _ | split)

theorem State.endDie_inv (s : State) (d : Nat) (inv : s.Inv) :
    (s.endDie d).Inv := by
  unfold State.endDie
  repeat' (first
    | with_reducible assumption | with_reducible apply State.onDie_inv | with_reducible apply State.extAtStage_inv)

theorem State.endPipe_inv (s : State) (g : Nat) (inv : s.Inv) :
    (s.endPipe g).Inv := by
  unfold State.endPipe
  repeat' (first
    | with_reducible assumption | with_reducible apply State.onPipe_inv | with_reducible apply State.by_inv
    | with_reducible apply State.writesDue_inv | with_reducible apply execRmwFinalWrite_inv
    | with_reducible apply execDrawbarArrival_inv | with_reducible apply State.conclude_inv
    | with_reducible apply execRegisterWrite_inv | with_reducible apply execPipelineFinished_inv | split)

theorem State.observe_inv (s : State) (d : Nat) (inv : s.Inv) :
    (s.observe d).Inv := by
  unfold State.observe
  repeat' (first
    | with_reducible assumption | with_reducible apply execSidebandAtk_inv | with_reducible apply foldl_inv
    | with_reducible refine inv_next (by with_reducible assumption) ?_ | with_reducible intro _ | split)

theorem State.reachFe_inv (s : State) (k d : Nat) (inv : s.Inv) :
    (s.reachFe k d).Inv := by
  unfold State.reachFe
  repeat' (first
    | with_reducible assumption | with_reducible apply State.allowanceDue_inv
    | with_reducible apply execFreezeTakesEffect_inv | with_reducible apply State.onDie_inv
    | with_reducible apply State.onRun_inv | with_reducible apply State.by_inv
    | with_reducible apply State.judgeWindows_inv | with_reducible apply foldl_inv | dsimp only
    | with_reducible intro _ | split)

theorem State.alignCycle_inv (s : State) (d : Nat) (inv : s.Inv) :
    (s.alignCycle d).Inv := by
  unfold State.alignCycle
  repeat' (first
    | with_reducible assumption | with_reducible apply State.holdCycle_inv | with_reducible apply State.onDie_inv)

theorem State.delayCycle_inv (s : State) (d : Nat) (inv : s.Inv) :
    (s.delayCycle d).Inv := by
  unfold State.delayCycle
  repeat' (first
    | with_reducible assumption | with_reducible apply State.onRun_inv | with_reducible apply State.holdCycle_inv
    | with_reducible apply State.onDie_inv | split)

theorem State.nextCycle_inv (s : State) (d : Nat) (inv : s.Inv) :
    (s.nextCycle d).Inv := by
  unfold State.nextCycle
  repeat' (first
    | with_reducible assumption | with_reducible apply State.allowanceDue_inv
    | with_reducible apply State.observe_inv | with_reducible apply State.holdCycle_inv
    | with_reducible apply execBrakeHoldStart_inv | with_reducible apply execBrakeLimit_inv
    | with_reducible apply State.alignCycle_inv | with_reducible apply State.delayCycle_inv
    | with_reducible apply execRestart_inv | with_reducible apply execLayoverSettle_inv
    | with_reducible apply State.reachFe_inv | with_reducible apply State.onDie_inv
    | with_reducible apply State.by_inv | with_reducible apply State.beginCycle_inv
    | with_reducible refine inv_next (by with_reducible assumption) ?_ | dsimp only | with_reducible intro _ | split)

theorem State.dieTurn_inv (s : State) (d : Nat) (inv : s.Inv) :
    actInv (s.dieTurn d) := by
  unfold State.dieTurn
  repeat' (first
    | with_reducible assumption | with_reducible apply State.nextCycle_inv | with_reducible apply State.onDie_inv
    | with_reducible apply State.issueWord_inv | with_reducible apply State.endPipe_inv
    | with_reducible apply State.endDie_inv | with_reducible apply act_state | split)

theorem State.takeOffOne_inv (s : State) (k pos g : Nat) (inv : s.Inv) :
    okInv (s.takeOffOne k pos g) := by
  unfold State.takeOffOne
  generalize s.pagedBytes k _ _ = r
  cases r with
  | error a => exact ok_error _
  | ok h =>
    generalize hb : h.getD 1 0 = b
    simp only [hb]
    split
    · exact ok_ok inv
    · generalize (s.pipe g).damagedImage = o
      cases o with
      | some o => exact ok_error _
      | none =>
        simp only
        generalize (s.pipe g).images ++ _ = im
        exact ok_map (State.writeFrame_inv s _ _ _ inv) (fun t ht => State.onPipe_inv t _ _ ht)

theorem State.takeOff_inv (s : State) (k : Nat) (inv : s.Inv) :
    (s.takeOff k).Inv := by
  unfold State.takeOff
  repeat' (first
    | with_reducible assumption | with_reducible apply State.eachPlace_inv
    | with_reducible apply State.takeOffOne_inv | with_reducible apply State.abortTimed_inv
    | with_reducible apply State.countUnc_inv | with_reducible apply State.setStates_inv
    | with_reducible refine inv_fst (by with_reducible assumption) ?_ | with_reducible intro _ | split)

theorem State.atTurn_inv (s : State) (t n : Nat) (inv : s.Inv) :
    (s.atTurn t n).Inv := by
  unfold State.atTurn
  repeat' (first
    | with_reducible assumption | with_reducible apply State.onGig_inv | with_reducible apply State.gigTime_inv
    | simp only [inv_upd])

theorem State.fillWay_inv (s : State) (g : Nat) (inv : s.Inv) :
    (s.fillWay g).Inv := by
  unfold State.fillWay
  repeat' (first
    | with_reducible assumption | with_reducible apply State.drawn_inv | simp only [inv_upd])

theorem State.fetch_inv (s : State) (t : Nat) (inv : s.Inv) :
    (s.fetch t).2.Inv := by
  unfold State.fetch
  repeat' (first
    | with_reducible assumption | with_reducible apply State.fillWay_inv | with_reducible apply State.toLookup_inv
    | with_reducible apply State.translate_inv
    | with_reducible refine inv_snd (by with_reducible assumption) ?_ | dsimp only | with_reducible intro _
    | with_reducible apply inv_ite | split)

theorem State.fetchAct_inv (s : State) (t : Nat) (inv : s.Inv) :
    actInv (s.fetchAct t) := by
  unfold State.fetchAct
  repeat' (first
    | with_reducible assumption | with_reducible apply State.fetch_inv | with_reducible apply State.trapAt_inv
    | with_reducible apply State.countUnc_inv | with_reducible refine inv_snd (by with_reducible assumption) ?_
    | with_reducible apply act_state | with_reducible apply act_word | with_reducible apply act_junk | split)

theorem State.gigTurn_inv (s : State) (t n : Nat) (inv : s.Inv) :
    actInv (s.gigTurn t n) := by
  unfold State.gigTurn
  repeat' (first
    | with_reducible assumption | with_reducible apply State.atTurn_inv | with_reducible apply State.by_inv
    | with_reducible apply execExtIntTaken_inv | with_reducible apply State.fetchAct_inv
    | with_reducible apply act_state | dsimp only | split)

theorem State.hostFails_inv (s : State) (p a : Nat) (on : Bool) (inv : s.Inv) :
    (s.hostFails p a on).Inv := by
  unfold State.hostFails
  repeat' (first | with_reducible assumption | simp only [inv_upd])

theorem State.bootChannels_inv (s : State) (n : Nat) (inv : s.Inv) :
    (s.bootChannels n).Inv := by
  unfold State.bootChannels
  repeat' (first
    | with_reducible assumption | simp only [inv_mk] | simp only [fw_mk] | with_reducible apply And.intro
    | with_reducible apply fw_own | with_reducible apply fw_cap | with_reducible apply fw_seeds
    | with_reducible apply fw_rings | with_reducible apply fw_version | with_reducible apply inv_mem
    | with_reducible apply inv_fw | split)

theorem State.clearHealth_inv (s : State) (inv : s.Inv) :
    (s.clearHealth).Inv := by
  unfold State.clearHealth
  repeat' (first
    | with_reducible assumption | simp only [inv_mk] | simp only [fw_mk] | with_reducible apply And.intro
    | with_reducible apply take_le | with_reducible apply drop_le | with_reducible apply fw_own
    | with_reducible apply fw_cap | with_reducible apply fw_seeds | with_reducible apply fw_rings
    | with_reducible apply fw_version | with_reducible apply inv_mem | with_reducible apply inv_fw | dsimp only
    | with_reducible intro _ | split)

theorem State.hostRead_inv (s : State) (m : Nat) (page : Bool) (inv : s.Inv) :
    (s.hostRead m page).Inv := by
  unfold State.hostRead
  repeat' (first | with_reducible assumption | simp only [inv_upd] | split)

theorem State.bindPort_inv (s : State) (p k : Nat) (inv : s.Inv) :
    (s.bindPort p k).Inv := by
  unfold State.bindPort
  repeat' (first | with_reducible assumption | simp only [inv_upd] | split)

theorem State.portSpot_inv (s : State) (k a : Nat) (wr : Bool) (inv : s.Inv) :
    (s.portSpot k a wr).2.Inv := by
  unfold State.portSpot
  repeat' (first | with_reducible assumption | with_reducible apply State.pagedSpot_inv | split)

theorem State.portBytes_inv (s : State) (k a n : Nat) (inv : s.Inv) :
    (s.portBytes k a n).2.Inv := by
  induction n generalizing s a with
  | zero => exact inv
  | succ m ih =>
    simp only [State.portBytes]
    have hs : ∀ o t, s.portSpot k a false = (o, t) → t.Inv := fun o t e => inv_snd e (State.portSpot_inv s _ _ _ inv)
    split
    · exact hs _ _ (by assumption)
    · rename_i p s1 heq
      split
      · exact State.countUnc_inv _ _ (hs _ _ heq)
      · exact ih _ _ (hs _ _ heq)

theorem State.portRead_inv (s : State) (p a n : Nat) (inv : s.Inv) :
    (s.portRead p a n).Inv := by
  unfold State.portRead
  repeat' (first | with_reducible assumption | with_reducible apply State.portBytes_inv | simp only [inv_upd] | split)

theorem State.portPut_inv (s : State) (fuel k a : Nat) (bs : List Byte) (inv : s.Inv) :
    (s.portPut fuel k a bs).Inv := by
  induction fuel generalizing s a bs with
  | zero => exact inv
  | succ m ih =>
    simp only [State.portPut]
    have hs : ∀ o t, s.portSpot k a true = (o, t) → t.Inv := fun o t e => inv_snd e (State.portSpot_inv s _ _ _ inv)
    split
    · exact inv
    · split
      · exact hs _ _ (by assumption)
      · rename_i p s1 heq
        refine ih _ _ _ ?_
        split
        · exact State.countUnc_inv _ _ (hs _ _ heq)
        · exact State.spotWrite_inv _ _ _ (hs _ _ heq)

theorem State.portWrite_inv (s : State) (p a : Nat) (bs : List Byte) (inv : s.Inv) :
    (s.portWrite p a bs).Inv := by
  unfold State.portWrite
  repeat' (first | with_reducible assumption | with_reducible apply State.portPut_inv | split)

theorem State.takeTurn_inv (s : State) (inv : s.Inv) :
    (s.takeTurn).2.Inv := by
  unfold State.takeTurn
  repeat' (first | with_reducible assumption | with_reducible apply State.drawn_inv | simp only [inv_upd] | split)

theorem State.headerBytes_inv (s : State) (va : Nat) (inv : s.Inv) :
    (s.headerBytes va).2.Inv := by
  unfold State.headerBytes
  repeat' (first
    | with_reducible assumption | with_reducible apply State.countUnc_inv | with_reducible apply State.translate_inv
    | with_reducible refine inv_snd (by with_reducible assumption) ?_ | dsimp only
    | with_reducible intro _ | with_reducible apply inv_ite | split)

end Sys2Proof.Machine
end

