-- ==== Sys2Proof/Laws/PerInstr.lean ====
section
/-! SUPPORT. One lemma per instruction: the family Encoding. -/
namespace Sys2Proof.Laws.Encoding

set_option linter.unusedSimpArgs false
set_option maxRecDepth 4000

/-- A well-formed instruction's word decodes, in its own stream, to that instruction. -/
def Statement (i : Instr) : Prop := i.wellFormed = true → ∀ x, encode i = some x → decode i.stream x = .ok i

/-- An instruction's statement follows from what its own word's fields decode to. -/
theorem of_fields {x : BitVec 32} {i : Instr} (he : encode i = some x)
    (h : decodeFields i.stream x = .ok i) : Statement i := by
  intro hw y hy
  rw [he] at hy
  cases hy
  simp [decode, h, hw]

theorem idle (w : BitVec 3) (n : BitVec 23) : Statement (.idle w n) :=
  of_fields rfl (by simp [Instr.stream, Instr.ctorIdx, decodeFields, decodeC, fld_ofNat, ofNat_cat, cat_div_hi, ofNat_cat_part, ofNat_cat_low, -BitVec.toNat_ofNat])

theorem add (w : BitVec 3) (d : BitVec 5) (a : BitVec 5) (b : BitVec 5) : Statement (.add w d a b) :=
  of_fields rfl (by simp [Instr.stream, Instr.ctorIdx, decodeFields, decodeC, fld_ofNat, ofNat_cat, cat_div_hi, ofNat_cat_part, ofNat_cat_low, -BitVec.toNat_ofNat])

theorem sub (w : BitVec 3) (d : BitVec 5) (a : BitVec 5) (b : BitVec 5) : Statement (.sub w d a b) :=
  of_fields rfl (by simp [Instr.stream, Instr.ctorIdx, decodeFields, decodeC, fld_ofNat, ofNat_cat, cat_div_hi, ofNat_cat_part, ofNat_cat_low, -BitVec.toNat_ofNat])

theorem and (w : BitVec 3) (d : BitVec 5) (a : BitVec 5) (b : BitVec 5) : Statement (.and w d a b) :=
  of_fields rfl (by simp [Instr.stream, Instr.ctorIdx, decodeFields, decodeC, fld_ofNat, ofNat_cat, cat_div_hi, ofNat_cat_part, ofNat_cat_low, -BitVec.toNat_ofNat])

theorem or (w : BitVec 3) (d : BitVec 5) (a : BitVec 5) (b : BitVec 5) : Statement (.or w d a b) :=
  of_fields rfl (by simp [Instr.stream, Instr.ctorIdx, decodeFields, decodeC, fld_ofNat, ofNat_cat, cat_div_hi, ofNat_cat_part, ofNat_cat_low, -BitVec.toNat_ofNat])

theorem xor (w : BitVec 3) (d : BitVec 5) (a : BitVec 5) (b : BitVec 5) : Statement (.xor w d a b) :=
  of_fields rfl (by simp [Instr.stream, Instr.ctorIdx, decodeFields, decodeC, fld_ofNat, ofNat_cat, cat_div_hi, ofNat_cat_part, ofNat_cat_low, -BitVec.toNat_ofNat])

theorem shl (w : BitVec 3) (d : BitVec 5) (a : BitVec 5) (b : BitVec 5) : Statement (.shl w d a b) :=
  of_fields rfl (by simp [Instr.stream, Instr.ctorIdx, decodeFields, decodeC, fld_ofNat, ofNat_cat, cat_div_hi, ofNat_cat_part, ofNat_cat_low, -BitVec.toNat_ofNat])

theorem shr (w : BitVec 3) (d : BitVec 5) (a : BitVec 5) (b : BitVec 5) : Statement (.shr w d a b) :=
  of_fields rfl (by simp [Instr.stream, Instr.ctorIdx, decodeFields, decodeC, fld_ofNat, ofNat_cat, cat_div_hi, ofNat_cat_part, ofNat_cat_low, -BitVec.toNat_ofNat])

theorem sra (w : BitVec 3) (d : BitVec 5) (a : BitVec 5) (b : BitVec 5) : Statement (.sra w d a b) :=
  of_fields rfl (by simp [Instr.stream, Instr.ctorIdx, decodeFields, decodeC, fld_ofNat, ofNat_cat, cat_div_hi, ofNat_cat_part, ofNat_cat_low, -BitVec.toNat_ofNat])

theorem mul (w : BitVec 3) (d : BitVec 5) (a : BitVec 5) (b : BitVec 5) : Statement (.mul w d a b) :=
  of_fields rfl (by simp [Instr.stream, Instr.ctorIdx, decodeFields, decodeC, fld_ofNat, ofNat_cat, cat_div_hi, ofNat_cat_part, ofNat_cat_low, -BitVec.toNat_ofNat])

theorem mulh (w : BitVec 3) (d : BitVec 5) (a : BitVec 5) (b : BitVec 5) : Statement (.mulh w d a b) :=
  of_fields rfl (by simp [Instr.stream, Instr.ctorIdx, decodeFields, decodeC, fld_ofNat, ofNat_cat, cat_div_hi, ofNat_cat_part, ofNat_cat_low, -BitVec.toNat_ofNat])

theorem mulhu (w : BitVec 3) (d : BitVec 5) (a : BitVec 5) (b : BitVec 5) : Statement (.mulhu w d a b) :=
  of_fields rfl (by simp [Instr.stream, Instr.ctorIdx, decodeFields, decodeC, fld_ofNat, ofNat_cat, cat_div_hi, ofNat_cat_part, ofNat_cat_low, -BitVec.toNat_ofNat])

theorem min (w : BitVec 3) (d : BitVec 5) (a : BitVec 5) (b : BitVec 5) : Statement (.min w d a b) :=
  of_fields rfl (by simp [Instr.stream, Instr.ctorIdx, decodeFields, decodeC, fld_ofNat, ofNat_cat, cat_div_hi, ofNat_cat_part, ofNat_cat_low, -BitVec.toNat_ofNat])

theorem max (w : BitVec 3) (d : BitVec 5) (a : BitVec 5) (b : BitVec 5) : Statement (.max w d a b) :=
  of_fields rfl (by simp [Instr.stream, Instr.ctorIdx, decodeFields, decodeC, fld_ofNat, ofNat_cat, cat_div_hi, ofNat_cat_part, ofNat_cat_low, -BitVec.toNat_ofNat])

theorem minu (w : BitVec 3) (d : BitVec 5) (a : BitVec 5) (b : BitVec 5) : Statement (.minu w d a b) :=
  of_fields rfl (by simp [Instr.stream, Instr.ctorIdx, decodeFields, decodeC, fld_ofNat, ofNat_cat, cat_div_hi, ofNat_cat_part, ofNat_cat_low, -BitVec.toNat_ofNat])

theorem maxu (w : BitVec 3) (d : BitVec 5) (a : BitVec 5) (b : BitVec 5) : Statement (.maxu w d a b) :=
  of_fields rfl (by simp [Instr.stream, Instr.ctorIdx, decodeFields, decodeC, fld_ofNat, ofNat_cat, cat_div_hi, ofNat_cat_part, ofNat_cat_low, -BitVec.toNat_ofNat])

theorem addi (w : BitVec 3) (d : BitVec 5) (a : BitVec 5) (i : BitVec 13) : Statement (.addi w d a i) :=
  of_fields rfl (by simp [Instr.stream, Instr.ctorIdx, decodeFields, decodeC, fld_ofNat, ofNat_cat, cat_div_hi, ofNat_cat_part, ofNat_cat_low, -BitVec.toNat_ofNat])

theorem andi (w : BitVec 3) (d : BitVec 5) (a : BitVec 5) (i : BitVec 13) : Statement (.andi w d a i) :=
  of_fields rfl (by simp [Instr.stream, Instr.ctorIdx, decodeFields, decodeC, fld_ofNat, ofNat_cat, cat_div_hi, ofNat_cat_part, ofNat_cat_low, -BitVec.toNat_ofNat])

theorem ori (w : BitVec 3) (d : BitVec 5) (a : BitVec 5) (i : BitVec 13) : Statement (.ori w d a i) :=
  of_fields rfl (by simp [Instr.stream, Instr.ctorIdx, decodeFields, decodeC, fld_ofNat, ofNat_cat, cat_div_hi, ofNat_cat_part, ofNat_cat_low, -BitVec.toNat_ofNat])

theorem xori (w : BitVec 3) (d : BitVec 5) (a : BitVec 5) (i : BitVec 13) : Statement (.xori w d a i) :=
  of_fields rfl (by simp [Instr.stream, Instr.ctorIdx, decodeFields, decodeC, fld_ofNat, ofNat_cat, cat_div_hi, ofNat_cat_part, ofNat_cat_low, -BitVec.toNat_ofNat])

theorem shli (w : BitVec 3) (d : BitVec 5) (a : BitVec 5) (i : BitVec 6) : Statement (.shli w d a i) :=
  of_fields rfl (by simp [Instr.stream, Instr.ctorIdx, decodeFields, decodeC, fld_ofNat, ofNat_cat, cat_div_hi, ofNat_cat_part, ofNat_cat_low, -BitVec.toNat_ofNat])

theorem shri (w : BitVec 3) (d : BitVec 5) (a : BitVec 5) (i : BitVec 6) : Statement (.shri w d a i) :=
  of_fields rfl (by simp [Instr.stream, Instr.ctorIdx, decodeFields, decodeC, fld_ofNat, ofNat_cat, cat_div_hi, ofNat_cat_part, ofNat_cat_low, -BitVec.toNat_ofNat])

theorem srai (w : BitVec 3) (d : BitVec 5) (a : BitVec 5) (i : BitVec 6) : Statement (.srai w d a i) :=
  of_fields rfl (by simp [Instr.stream, Instr.ctorIdx, decodeFields, decodeC, fld_ofNat, ofNat_cat, cat_div_hi, ofNat_cat_part, ofNat_cat_low, -BitVec.toNat_ofNat])

theorem li (w : BitVec 3) (d : BitVec 5) (i : BitVec 18) : Statement (.li w d i) :=
  of_fields rfl (by simp [Instr.stream, Instr.ctorIdx, decodeFields, decodeC, fld_ofNat, ofNat_cat, cat_div_hi, ofNat_cat_part, ofNat_cat_low, -BitVec.toNat_ofNat])

theorem lui (w : BitVec 3) (d : BitVec 5) (i : BitVec 18) : Statement (.lui w d i) :=
  of_fields rfl (by simp [Instr.stream, Instr.ctorIdx, decodeFields, decodeC, fld_ofNat, ofNat_cat, cat_div_hi, ofNat_cat_part, ofNat_cat_low, -BitVec.toNat_ofNat])

theorem cmp (w : BitVec 3) (p : BitVec 3) (a : BitVec 5) (b : BitVec 5) (c : BitVec 3) : Statement (.cmp w p a b c) :=
  of_fields rfl (by simp [Instr.stream, Instr.ctorIdx, decodeFields, decodeC, fld_ofNat, ofNat_cat, cat_div_hi, ofNat_cat_part, ofNat_cat_low, -BitVec.toNat_ofNat])

theorem cmpi (w : BitVec 3) (p : BitVec 3) (a : BitVec 5) (c : BitVec 3) (i : BitVec 12) : Statement (.cmpi w p a c i) :=
  of_fields rfl (by simp [Instr.stream, Instr.ctorIdx, decodeFields, decodeC, fld_ofNat, ofNat_cat, cat_div_hi, ofNat_cat_part, ofNat_cat_low, -BitVec.toNat_ofNat])

theorem sel (w : BitVec 3) (d : BitVec 5) (a : BitVec 5) (b : BitVec 5) (p : BitVec 3) : Statement (.sel w d a b p) :=
  of_fields rfl (by simp [Instr.stream, Instr.ctorIdx, decodeFields, decodeC, fld_ofNat, ofNat_cat, cat_div_hi, ofNat_cat_part, ofNat_cat_low, -BitVec.toNat_ofNat])

theorem lds (w : BitVec 3) (d : BitVec 5) (a : BitVec 5) (i : BitVec 13) : Statement (.lds w d a i) :=
  of_fields rfl (by simp [Instr.stream, Instr.ctorIdx, decodeFields, decodeC, fld_ofNat, ofNat_cat, cat_div_hi, ofNat_cat_part, ofNat_cat_low, -BitVec.toNat_ofNat])

theorem sts (w : BitVec 3) (s : BitVec 5) (a : BitVec 5) (i : BitVec 13) : Statement (.sts w s a i) :=
  of_fields rfl (by simp [Instr.stream, Instr.ctorIdx, decodeFields, decodeC, fld_ofNat, ofNat_cat, cat_div_hi, ofNat_cat_part, ofNat_cat_low, -BitVec.toNat_ofNat])

theorem br (w : BitVec 3) (p : BitVec 3) (n : BitVec 1) (i : BitVec 19) : Statement (.br w p n i) :=
  of_fields rfl (by simp [Instr.stream, Instr.ctorIdx, decodeFields, decodeC, fld_ofNat, ofNat_cat, cat_div_hi, ofNat_cat_part, ofNat_cat_low, -BitVec.toNat_ofNat])

theorem brp (w : BitVec 3) (p : BitVec 3) (n : BitVec 1) (i : BitVec 19) : Statement (.brp w p n i) :=
  of_fields rfl (by simp [Instr.stream, Instr.ctorIdx, decodeFields, decodeC, fld_ofNat, ofNat_cat, cat_div_hi, ofNat_cat_part, ofNat_cat_low, -BitVec.toNat_ofNat])

theorem loop (w : BitVec 3) (a : BitVec 5) (l : BitVec 9) (m : BitVec 9) : Statement (.loop w a l m) :=
  of_fields rfl (by simp [Instr.stream, Instr.ctorIdx, decodeFields, decodeC, fld_ofNat, ofNat_cat, cat_div_hi, ofNat_cat_part, ofNat_cat_low, -BitVec.toNat_ofNat])

theorem lspan (w : BitVec 3) (n : BitVec 23) : Statement (.lspan w n) :=
  of_fields rfl (by simp [Instr.stream, Instr.ctorIdx, decodeFields, decodeC, fld_ofNat, ofNat_cat, cat_div_hi, ofNat_cat_part, ofNat_cat_low, -BitVec.toNat_ofNat])

theorem call (w : BitVec 3) (i : BitVec 19) : Statement (.call w i) :=
  of_fields rfl (by simp [Instr.stream, Instr.ctorIdx, decodeFields, decodeC, fld_ofNat, ofNat_cat, cat_div_hi, ofNat_cat_part, ofNat_cat_low, -BitVec.toNat_ofNat])

theorem ret (w : BitVec 3) : Statement (.ret w) :=
  of_fields rfl (by simp [Instr.stream, Instr.ctorIdx, decodeFields, decodeC, fld_ofNat, ofNat_cat, cat_div_hi, ofNat_cat_part, ofNat_cat_low, -BitVec.toNat_ofNat])

theorem cGive (w : BitVec 3) (q : BitVec 4) (c : BitVec 6) : Statement (.cGive w q c) :=
  of_fields rfl (by simp [Instr.stream, Instr.ctorIdx, decodeFields, decodeC, fld_ofNat, ofNat_cat, cat_div_hi, ofNat_cat_part, ofNat_cat_low, -BitVec.toNat_ofNat])

theorem cTake (w : BitVec 3) (q : BitVec 4) (c : BitVec 6) : Statement (.cTake w q c) :=
  of_fields rfl (by simp [Instr.stream, Instr.ctorIdx, decodeFields, decodeC, fld_ofNat, ofNat_cat, cat_div_hi, ofNat_cat_part, ofNat_cat_low, -BitVec.toNat_ofNat])

theorem sqw (w : BitVec 3) (t : BitVec 2) (a : BitVec 5) : Statement (.sqw w t a) :=
  of_fields rfl (by simp [Instr.stream, Instr.ctorIdx, decodeFields, decodeC, fld_ofNat, ofNat_cat, cat_div_hi, ofNat_cat_part, ofNat_cat_low, -BitVec.toNat_ofNat])

theorem bqw (w : BitVec 3) (p : BitVec 3) (n : BitVec 1) : Statement (.bqw w p n) :=
  of_fields rfl (by simp [Instr.stream, Instr.ctorIdx, decodeFields, decodeC, fld_ofNat, ofNat_cat, cat_div_hi, ofNat_cat_part, ofNat_cat_low, -BitVec.toNat_ofNat])

theorem align (w : BitVec 3) (n : BitVec 23) : Statement (.align w n) :=
  of_fields rfl (by simp [Instr.stream, Instr.ctorIdx, decodeFields, decodeC, fld_ofNat, ofNat_cat, cat_div_hi, ofNat_cat_part, ofNat_cat_low, -BitVec.toNat_ofNat])

theorem stage (w : BitVec 3) (n : BitVec 23) : Statement (.stage w n) :=
  of_fields rfl (by simp [Instr.stream, Instr.ctorIdx, decodeFields, decodeC, fld_ofNat, ofNat_cat, cat_div_hi, ofNat_cat_part, ofNat_cat_low, -BitVec.toNat_ofNat])

theorem wopen (w : BitVec 3) (l : BitVec 6) : Statement (.wopen w l) :=
  of_fields rfl (by simp [Instr.stream, Instr.ctorIdx, decodeFields, decodeC, fld_ofNat, ofNat_cat, cat_div_hi, ofNat_cat_part, ofNat_cat_low, -BitVec.toNat_ofNat])

theorem wclose (w : BitVec 3) (l : BitVec 6) : Statement (.wclose w l) :=
  of_fields rfl (by simp [Instr.stream, Instr.ctorIdx, decodeFields, decodeC, fld_ofNat, ofNat_cat, cat_div_hi, ofNat_cat_part, ofNat_cat_low, -BitVec.toNat_ofNat])

theorem postrd (w : BitVec 3) (d : BitVec 5) (s : BitVec 6) : Statement (.postrd w d s) :=
  of_fields rfl (by simp [Instr.stream, Instr.ctorIdx, decodeFields, decodeC, fld_ofNat, ofNat_cat, cat_div_hi, ofNat_cat_part, ofNat_cat_low, -BitVec.toNat_ofNat])

theorem postv (w : BitVec 3) (p : BitVec 3) (s : BitVec 6) : Statement (.postv w p s) :=
  of_fields rfl (by simp [Instr.stream, Instr.ctorIdx, decodeFields, decodeC, fld_ofNat, ofNat_cat, cat_div_hi, ofNat_cat_part, ofNat_cat_low, -BitVec.toNat_ofNat])

theorem nest (w : BitVec 3) (l : BitVec 3) (f : BitVec 4) (a : BitVec 5) : Statement (.nest w l f a) :=
  of_fields rfl (by simp [Instr.stream, Instr.ctorIdx, decodeFields, decodeC, fld_ofNat, ofNat_cat, cat_div_hi, ofNat_cat_part, ofNat_cat_low, -BitVec.toNat_ofNat])

theorem mgo (w : BitVec 3) : Statement (.mgo w) :=
  of_fields rfl (by simp [Instr.stream, Instr.ctorIdx, decodeFields, decodeC, fld_ofNat, ofNat_cat, cat_div_hi, ofNat_cat_part, ofNat_cat_low, -BitVec.toNat_ofNat])

theorem csrr (w : BitVec 3) (d : BitVec 5) (c : BitVec 12) : Statement (.csrr w d c) :=
  of_fields rfl (by simp [Instr.stream, Instr.ctorIdx, decodeFields, decodeC, fld_ofNat, ofNat_cat, cat_div_hi, ofNat_cat_part, ofNat_cat_low, -BitVec.toNat_ofNat])

theorem csrw (w : BitVec 3) (s : BitVec 5) (c : BitVec 12) : Statement (.csrw w s c) :=
  of_fields rfl (by simp [Instr.stream, Instr.ctorIdx, decodeFields, decodeC, fld_ofNat, ofNat_cat, cat_div_hi, ofNat_cat_part, ofNat_cat_low, -BitVec.toNat_ofNat])

theorem tick (w : BitVec 3) (d : BitVec 5) : Statement (.tick w d) :=
  of_fields rfl (by simp [Instr.stream, Instr.ctorIdx, decodeFields, decodeC, fld_ofNat, ofNat_cat, cat_div_hi, ofNat_cat_part, ofNat_cat_low, -BitVec.toNat_ofNat])

theorem mark (w : BitVec 3) (n : BitVec 23) : Statement (.mark w n) :=
  of_fields rfl (by simp [Instr.stream, Instr.ctorIdx, decodeFields, decodeC, fld_ofNat, ofNat_cat, cat_div_hi, ofNat_cat_part, ofNat_cat_low, -BitVec.toNat_ofNat])

theorem trapc (w : BitVec 3) (c : BitVec 8) : Statement (.trapc w c) :=
  of_fields rfl (by simp [Instr.stream, Instr.ctorIdx, decodeFields, decodeC, fld_ofNat, ofNat_cat, cat_div_hi, ofNat_cat_part, ofNat_cat_low, -BitVec.toNat_ofNat])

theorem freeze (w : BitVec 3) : Statement (.freeze w) :=
  of_fields rfl (by simp [Instr.stream, Instr.ctorIdx, decodeFields, decodeC, fld_ofNat, ofNat_cat, cat_div_hi, ofNat_cat_part, ofNat_cat_low, -BitVec.toNat_ofNat])

theorem halt (w : BitVec 3) : Statement (.halt w) :=
  of_fields rfl (by simp [Instr.stream, Instr.ctorIdx, decodeFields, decodeC, fld_ofNat, ofNat_cat, cat_div_hi, ofNat_cat_part, ofNat_cat_low, -BitVec.toNat_ofNat])

theorem lScfg (w : BitVec 3) (s : BitVec 4) (a : BitVec 4) (i : BitVec 15) : Statement (.lScfg w s a i) :=
  of_fields rfl (by simp [Instr.stream, Instr.ctorIdx, decodeFields, decodeL, fld_ofNat, ofNat_cat, cat_div_hi, ofNat_cat_part, ofNat_cat_low, -BitVec.toNat_ofNat])

theorem lSadv (w : BitVec 3) (s : BitVec 4) (i : BitVec 15) : Statement (.lSadv w s i) :=
  of_fields rfl (by simp [Instr.stream, Instr.ctorIdx, decodeFields, decodeL, fld_ofNat, ofNat_cat, cat_div_hi, ofNat_cat_part, ofNat_cat_low, -BitVec.toNat_ofNat])

theorem aadd (w : BitVec 3) (d : BitVec 4) (a : BitVec 4) (b : BitVec 4) : Statement (.aadd w d a b) :=
  of_fields rfl (by simp [Instr.stream, Instr.ctorIdx, decodeFields, decodeL, fld_ofNat, ofNat_cat, cat_div_hi, ofNat_cat_part, ofNat_cat_low, -BitVec.toNat_ofNat])

theorem aaddi (w : BitVec 3) (d : BitVec 4) (a : BitVec 4) (i : BitVec 15) : Statement (.aaddi w d a i) :=
  of_fields rfl (by simp [Instr.stream, Instr.ctorIdx, decodeFields, decodeL, fld_ofNat, ofNat_cat, cat_div_hi, ofNat_cat_part, ofNat_cat_low, -BitVec.toNat_ofNat])

theorem ali (w : BitVec 3) (d : BitVec 4) (i : BitVec 19) : Statement (.ali w d i) :=
  of_fields rfl (by simp [Instr.stream, Instr.ctorIdx, decodeFields, decodeL, fld_ofNat, ofNat_cat, cat_div_hi, ofNat_cat_part, ofNat_cat_low, -BitVec.toNat_ofNat])

theorem lSqr (w : BitVec 3) (d : BitVec 4) : Statement (.lSqr w d) :=
  of_fields rfl (by simp [Instr.stream, Instr.ctorIdx, decodeFields, decodeL, fld_ofNat, ofNat_cat, cat_div_hi, ofNat_cat_part, ofNat_cat_low, -BitVec.toNat_ofNat])

theorem ldq (w : BitVec 3) (q : BitVec 3) (s : BitVec 4) : Statement (.ldq w q s) :=
  of_fields rfl (by simp [Instr.stream, Instr.ctorIdx, decodeFields, decodeL, fld_ofNat, ofNat_cat, cat_div_hi, ofNat_cat_part, ofNat_cat_low, -BitVec.toNat_ofNat])

theorem gath (w : BitVec 3) (s : BitVec 4) (a : BitVec 4) (i : BitVec 15) : Statement (.gath w s a i) :=
  of_fields rfl (by simp [Instr.stream, Instr.ctorIdx, decodeFields, decodeL, fld_ofNat, ofNat_cat, cat_div_hi, ofNat_cat_part, ofNat_cat_low, -BitVec.toNat_ofNat])

theorem hld (w : BitVec 3) (s : BitVec 4) (a : BitVec 4) (i : BitVec 15) : Statement (.hld w s a i) :=
  of_fields rfl (by simp [Instr.stream, Instr.ctorIdx, decodeFields, decodeL, fld_ofNat, ofNat_cat, cat_div_hi, ofNat_cat_part, ofNat_cat_low, -BitVec.toNat_ofNat])

theorem lTlbp (w : BitVec 3) (s : BitVec 4) : Statement (.lTlbp w s) :=
  of_fields rfl (by simp [Instr.stream, Instr.ctorIdx, decodeFields, decodeL, fld_ofNat, ofNat_cat, cat_div_hi, ofNat_cat_part, ofNat_cat_low, -BitVec.toNat_ofNat])

theorem bout (w : BitVec 3) (s : BitVec 4) : Statement (.bout w s) :=
  of_fields rfl (by simp [Instr.stream, Instr.ctorIdx, decodeFields, decodeL, fld_ofNat, ofNat_cat, cat_div_hi, ofNat_cat_part, ofNat_cat_low, -BitVec.toNat_ofNat])

theorem ldcb (w : BitVec 3) (c : BitVec 2) (a : BitVec 4) : Statement (.ldcb w c a) :=
  of_fields rfl (by simp [Instr.stream, Instr.ctorIdx, decodeFields, decodeL, fld_ofNat, ofNat_cat, cat_div_hi, ofNat_cat_part, ofNat_cat_low, -BitVec.toNat_ofNat])

theorem ldcm (w : BitVec 3) (t : BitVec 4) (a : BitVec 4) : Statement (.ldcm w t a) :=
  of_fields rfl (by simp [Instr.stream, Instr.ctorIdx, decodeFields, decodeL, fld_ofNat, ofNat_cat, cat_div_hi, ofNat_cat_part, ofNat_cat_low, -BitVec.toNat_ofNat])

theorem lGive (w : BitVec 3) (q : BitVec 4) (c : BitVec 6) : Statement (.lGive w q c) :=
  of_fields rfl (by simp [Instr.stream, Instr.ctorIdx, decodeFields, decodeL, fld_ofNat, ofNat_cat, cat_div_hi, ofNat_cat_part, ofNat_cat_low, -BitVec.toNat_ofNat])

theorem lTake (w : BitVec 3) (q : BitVec 4) (c : BitVec 6) : Statement (.lTake w q c) :=
  of_fields rfl (by simp [Instr.stream, Instr.ctorIdx, decodeFields, decodeL, fld_ofNat, ofNat_cat, cat_div_hi, ofNat_cat_part, ofNat_cat_low, -BitVec.toNat_ofNat])

theorem sScfg (w : BitVec 3) (s : BitVec 4) (b : BitVec 4) (i : BitVec 15) : Statement (.sScfg w s b i) :=
  of_fields rfl (by simp [Instr.stream, Instr.ctorIdx, decodeFields, decodeS, fld_ofNat, ofNat_cat, cat_div_hi, ofNat_cat_part, ofNat_cat_low, -BitVec.toNat_ofNat])

theorem sSadv (w : BitVec 3) (s : BitVec 4) (i : BitVec 15) : Statement (.sSadv w s i) :=
  of_fields rfl (by simp [Instr.stream, Instr.ctorIdx, decodeFields, decodeS, fld_ofNat, ofNat_cat, cat_div_hi, ofNat_cat_part, ofNat_cat_low, -BitVec.toNat_ofNat])

theorem badd (w : BitVec 3) (d : BitVec 4) (a : BitVec 4) (b : BitVec 4) : Statement (.badd w d a b) :=
  of_fields rfl (by simp [Instr.stream, Instr.ctorIdx, decodeFields, decodeS, fld_ofNat, ofNat_cat, cat_div_hi, ofNat_cat_part, ofNat_cat_low, -BitVec.toNat_ofNat])

theorem baddi (w : BitVec 3) (d : BitVec 4) (a : BitVec 4) (i : BitVec 15) : Statement (.baddi w d a i) :=
  of_fields rfl (by simp [Instr.stream, Instr.ctorIdx, decodeFields, decodeS, fld_ofNat, ofNat_cat, cat_div_hi, ofNat_cat_part, ofNat_cat_low, -BitVec.toNat_ofNat])

theorem bli (w : BitVec 3) (d : BitVec 4) (i : BitVec 19) : Statement (.bli w d i) :=
  of_fields rfl (by simp [Instr.stream, Instr.ctorIdx, decodeFields, decodeS, fld_ofNat, ofNat_cat, cat_div_hi, ofNat_cat_part, ofNat_cat_low, -BitVec.toNat_ofNat])

theorem sSqr (w : BitVec 3) (d : BitVec 4) : Statement (.sSqr w d) :=
  of_fields rfl (by simp [Instr.stream, Instr.ctorIdx, decodeFields, decodeS, fld_ofNat, ofNat_cat, cat_div_hi, ofNat_cat_part, ofNat_cat_low, -BitVec.toNat_ofNat])

theorem stq (w : BitVec 3) (q : BitVec 3) (s : BitVec 4) (f : BitVec 4) (r : BitVec 3) (x : BitVec 1) (h : BitVec 2) (c : BitVec 1) : Statement (.stq w q s f r x h c) :=
  of_fields rfl (by simp [Instr.stream, Instr.ctorIdx, decodeFields, decodeS, fld_ofNat, ofNat_cat, cat_div_hi, ofNat_cat_part, ofNat_cat_low, -BitVec.toNat_ofNat])

theorem hst (w : BitVec 3) (s : BitVec 4) (b : BitVec 4) (i : BitVec 15) : Statement (.hst w s b i) :=
  of_fields rfl (by simp [Instr.stream, Instr.ctorIdx, decodeFields, decodeS, fld_ofNat, ofNat_cat, cat_div_hi, ofNat_cat_part, ofNat_cat_low, -BitVec.toNat_ofNat])

theorem send (w : BitVec 3) (q : BitVec 3) (b : BitVec 4) : Statement (.send w q b) :=
  of_fields rfl (by simp [Instr.stream, Instr.ctorIdx, decodeFields, decodeS, fld_ofNat, ofNat_cat, cat_div_hi, ofNat_cat_part, ofNat_cat_low, -BitVec.toNat_ofNat])

theorem mcast (w : BitVec 3) (q : BitVec 3) (g : BitVec 4) (b : BitVec 4) : Statement (.mcast w q g b) :=
  of_fields rfl (by simp [Instr.stream, Instr.ctorIdx, decodeFields, decodeS, fld_ofNat, ofNat_cat, cat_div_hi, ofNat_cat_part, ofNat_cat_low, -BitVec.toNat_ofNat])

theorem rmw (w : BitVec 3) (o : BitVec 3) (t : BitVec 2) (b : BitVec 4) (v : BitVec 4) : Statement (.rmw w o t b v) :=
  of_fields rfl (by simp [Instr.stream, Instr.ctorIdx, decodeFields, decodeS, fld_ofNat, ofNat_cat, cat_div_hi, ofNat_cat_part, ofNat_cat_low, -BitVec.toNat_ofNat])

theorem hclr (w : BitVec 3) (s : BitVec 2) : Statement (.hclr w s) :=
  of_fields rfl (by simp [Instr.stream, Instr.ctorIdx, decodeFields, decodeS, fld_ofNat, ofNat_cat, cat_div_hi, ofNat_cat_part, ofNat_cat_low, -BitVec.toNat_ofNat])

theorem hsnap (w : BitVec 3) (s : BitVec 2) (b : BitVec 4) : Statement (.hsnap w s b) :=
  of_fields rfl (by simp [Instr.stream, Instr.ctorIdx, decodeFields, decodeS, fld_ofNat, ofNat_cat, cat_div_hi, ofNat_cat_part, ofNat_cat_low, -BitVec.toNat_ofNat])

theorem sTlbp (w : BitVec 3) (s : BitVec 4) : Statement (.sTlbp w s) :=
  of_fields rfl (by simp [Instr.stream, Instr.ctorIdx, decodeFields, decodeS, fld_ofNat, ofNat_cat, cat_div_hi, ofNat_cat_part, ofNat_cat_low, -BitVec.toNat_ofNat])

theorem sGive (w : BitVec 3) (q : BitVec 4) (c : BitVec 6) : Statement (.sGive w q c) :=
  of_fields rfl (by simp [Instr.stream, Instr.ctorIdx, decodeFields, decodeS, fld_ofNat, ofNat_cat, cat_div_hi, ofNat_cat_part, ofNat_cat_low, -BitVec.toNat_ofNat])

theorem sTake (w : BitVec 3) (q : BitVec 4) (c : BitVec 6) : Statement (.sTake w q c) :=
  of_fields rfl (by simp [Instr.stream, Instr.ctorIdx, decodeFields, decodeS, fld_ofNat, ofNat_cat, cat_div_hi, ofNat_cat_part, ofNat_cat_low, -BitVec.toNat_ofNat])

theorem vadd (w : BitVec 3) (d : BitVec 5) (a : BitVec 5) (b : BitVec 5) (f : BitVec 3) (r : BitVec 3) (x : BitVec 1) (m : BitVec 1) : Statement (.vadd w d a b f r x m) :=
  of_fields rfl (by simp [Instr.stream, Instr.ctorIdx, decodeFields, decodeX, fld_ofNat, ofNat_cat, cat_div_hi, ofNat_cat_part, ofNat_cat_low, -BitVec.toNat_ofNat])

theorem vsub (w : BitVec 3) (d : BitVec 5) (a : BitVec 5) (b : BitVec 5) (f : BitVec 3) (r : BitVec 3) (x : BitVec 1) (m : BitVec 1) : Statement (.vsub w d a b f r x m) :=
  of_fields rfl (by simp [Instr.stream, Instr.ctorIdx, decodeFields, decodeX, fld_ofNat, ofNat_cat, cat_div_hi, ofNat_cat_part, ofNat_cat_low, -BitVec.toNat_ofNat])

theorem vmul (w : BitVec 3) (d : BitVec 5) (a : BitVec 5) (b : BitVec 5) (f : BitVec 3) (r : BitVec 3) (x : BitVec 1) (m : BitVec 1) : Statement (.vmul w d a b f r x m) :=
  of_fields rfl (by simp [Instr.stream, Instr.ctorIdx, decodeFields, decodeX, fld_ofNat, ofNat_cat, cat_div_hi, ofNat_cat_part, ofNat_cat_low, -BitVec.toNat_ofNat])

theorem vfma (w : BitVec 3) (d : BitVec 5) (a : BitVec 5) (b : BitVec 5) (f : BitVec 3) (r : BitVec 3) (x : BitVec 1) (m : BitVec 1) : Statement (.vfma w d a b f r x m) :=
  of_fields rfl (by simp [Instr.stream, Instr.ctorIdx, decodeFields, decodeX, fld_ofNat, ofNat_cat, cat_div_hi, ofNat_cat_part, ofNat_cat_low, -BitVec.toNat_ofNat])

theorem vfms (w : BitVec 3) (d : BitVec 5) (a : BitVec 5) (b : BitVec 5) (f : BitVec 3) (r : BitVec 3) (x : BitVec 1) (m : BitVec 1) : Statement (.vfms w d a b f r x m) :=
  of_fields rfl (by simp [Instr.stream, Instr.ctorIdx, decodeFields, decodeX, fld_ofNat, ofNat_cat, cat_div_hi, ofNat_cat_part, ofNat_cat_low, -BitVec.toNat_ofNat])

theorem vmax (w : BitVec 3) (d : BitVec 5) (a : BitVec 5) (b : BitVec 5) (f : BitVec 3) (m : BitVec 1) : Statement (.vmax w d a b f m) :=
  of_fields rfl (by simp [Instr.stream, Instr.ctorIdx, decodeFields, decodeX, fld_ofNat, ofNat_cat, cat_div_hi, ofNat_cat_part, ofNat_cat_low, -BitVec.toNat_ofNat])

theorem vmin (w : BitVec 3) (d : BitVec 5) (a : BitVec 5) (b : BitVec 5) (f : BitVec 3) (m : BitVec 1) : Statement (.vmin w d a b f m) :=
  of_fields rfl (by simp [Instr.stream, Instr.ctorIdx, decodeFields, decodeX, fld_ofNat, ofNat_cat, cat_div_hi, ofNat_cat_part, ofNat_cat_low, -BitVec.toNat_ofNat])

theorem vabs (w : BitVec 3) (d : BitVec 5) (a : BitVec 5) (f : BitVec 3) (m : BitVec 1) : Statement (.vabs w d a f m) :=
  of_fields rfl (by simp [Instr.stream, Instr.ctorIdx, decodeFields, decodeX, fld_ofNat, ofNat_cat, cat_div_hi, ofNat_cat_part, ofNat_cat_low, -BitVec.toNat_ofNat])

theorem vneg (w : BitVec 3) (d : BitVec 5) (a : BitVec 5) (f : BitVec 3) (m : BitVec 1) : Statement (.vneg w d a f m) :=
  of_fields rfl (by simp [Instr.stream, Instr.ctorIdx, decodeFields, decodeX, fld_ofNat, ofNat_cat, cat_div_hi, ofNat_cat_part, ofNat_cat_low, -BitVec.toNat_ofNat])

theorem vcvt (w : BitVec 3) (d : BitVec 5) (a : BitVec 5) (g : BitVec 3) (f : BitVec 3) (r : BitVec 3) (x : BitVec 1) (m : BitVec 1) : Statement (.vcvt w d a g f r x m) :=
  of_fields rfl (by simp [Instr.stream, Instr.ctorIdx, decodeFields, decodeX, fld_ofNat, ofNat_cat, cat_div_hi, ofNat_cat_part, ofNat_cat_low, -BitVec.toNat_ofNat])

theorem vcmp (w : BitVec 3) (k : BitVec 3) (a : BitVec 5) (b : BitVec 5) (f : BitVec 3) (c : BitVec 3) (m : BitVec 1) : Statement (.vcmp w k a b f c m) :=
  of_fields rfl (by simp [Instr.stream, Instr.ctorIdx, decodeFields, decodeX, fld_ofNat, ofNat_cat, cat_div_hi, ofNat_cat_part, ofNat_cat_low, -BitVec.toNat_ofNat])

theorem vsel (w : BitVec 3) (d : BitVec 5) (a : BitVec 5) (b : BitVec 5) (s : BitVec 3) (m : BitVec 1) : Statement (.vsel w d a b s m) :=
  of_fields rfl (by simp [Instr.stream, Instr.ctorIdx, decodeFields, decodeX, fld_ofNat, ofNat_cat, cat_div_hi, ofNat_cat_part, ofNat_cat_low, -BitVec.toNat_ofNat])

theorem vand (w : BitVec 3) (d : BitVec 5) (a : BitVec 5) (b : BitVec 5) (m : BitVec 1) : Statement (.vand w d a b m) :=
  of_fields rfl (by simp [Instr.stream, Instr.ctorIdx, decodeFields, decodeX, fld_ofNat, ofNat_cat, cat_div_hi, ofNat_cat_part, ofNat_cat_low, -BitVec.toNat_ofNat])

theorem vor (w : BitVec 3) (d : BitVec 5) (a : BitVec 5) (b : BitVec 5) (m : BitVec 1) : Statement (.vor w d a b m) :=
  of_fields rfl (by simp [Instr.stream, Instr.ctorIdx, decodeFields, decodeX, fld_ofNat, ofNat_cat, cat_div_hi, ofNat_cat_part, ofNat_cat_low, -BitVec.toNat_ofNat])

theorem vxor (w : BitVec 3) (d : BitVec 5) (a : BitVec 5) (b : BitVec 5) (m : BitVec 1) : Statement (.vxor w d a b m) :=
  of_fields rfl (by simp [Instr.stream, Instr.ctorIdx, decodeFields, decodeX, fld_ofNat, ofNat_cat, cat_div_hi, ofNat_cat_part, ofNat_cat_low, -BitVec.toNat_ofNat])

theorem vshl (w : BitVec 3) (d : BitVec 5) (a : BitVec 5) (b : BitVec 5) (m : BitVec 1) : Statement (.vshl w d a b m) :=
  of_fields rfl (by simp [Instr.stream, Instr.ctorIdx, decodeFields, decodeX, fld_ofNat, ofNat_cat, cat_div_hi, ofNat_cat_part, ofNat_cat_low, -BitVec.toNat_ofNat])

theorem vshr (w : BitVec 3) (d : BitVec 5) (a : BitVec 5) (b : BitVec 5) (m : BitVec 1) : Statement (.vshr w d a b m) :=
  of_fields rfl (by simp [Instr.stream, Instr.ctorIdx, decodeFields, decodeX, fld_ofNat, ofNat_cat, cat_div_hi, ofNat_cat_part, ofNat_cat_low, -BitVec.toNat_ofNat])

theorem viadd (w : BitVec 3) (d : BitVec 5) (a : BitVec 5) (b : BitVec 5) (f : BitVec 3) (x : BitVec 1) (m : BitVec 1) : Statement (.viadd w d a b f x m) :=
  of_fields rfl (by simp [Instr.stream, Instr.ctorIdx, decodeFields, decodeX, fld_ofNat, ofNat_cat, cat_div_hi, ofNat_cat_part, ofNat_cat_low, -BitVec.toNat_ofNat])

theorem vimul (w : BitVec 3) (d : BitVec 5) (a : BitVec 5) (b : BitVec 5) (f : BitVec 3) (x : BitVec 1) (m : BitVec 1) : Statement (.vimul w d a b f x m) :=
  of_fields rfl (by simp [Instr.stream, Instr.ctorIdx, decodeFields, decodeX, fld_ofNat, ofNat_cat, cat_div_hi, ofNat_cat_part, ofNat_cat_low, -BitVec.toNat_ofNat])

theorem vred (w : BitVec 3) (d : BitVec 5) (a : BitVec 5) (o : BitVec 5) (f : BitVec 3) (r : BitVec 3) (m : BitVec 1) : Statement (.vred w d a o f r m) :=
  of_fields rfl (by simp [Instr.stream, Instr.ctorIdx, decodeFields, decodeX, fld_ofNat, ofNat_cat, cat_div_hi, ofNat_cat_part, ofNat_cat_low, -BitVec.toNat_ofNat])

theorem vperm (w : BitVec 3) (d : BitVec 5) (a : BitVec 5) (b : BitVec 5) (m : BitVec 1) : Statement (.vperm w d a b m) :=
  of_fields rfl (by simp [Instr.stream, Instr.ctorIdx, decodeFields, decodeX, fld_ofNat, ofNat_cat, cat_div_hi, ofNat_cat_part, ofNat_cat_low, -BitVec.toNat_ofNat])

theorem vspl (w : BitVec 3) (d : BitVec 5) (a : BitVec 5) (l : BitVec 6) (m : BitVec 1) : Statement (.vspl w d a l m) :=
  of_fields rfl (by simp [Instr.stream, Instr.ctorIdx, decodeFields, decodeX, fld_ofNat, ofNat_cat, cat_div_hi, ofNat_cat_part, ofNat_cat_low, -BitVec.toNat_ofNat])

theorem vsplQ (w : BitVec 3) (d : BitVec 5) (m : BitVec 1) : Statement (.vsplQ w d m) :=
  of_fields rfl (by simp [Instr.stream, Instr.ctorIdx, decodeFields, decodeX, fld_ofNat, ofNat_cat, cat_div_hi, ofNat_cat_part, ofNat_cat_low, -BitVec.toNat_ofNat])

theorem vpop (w : BitVec 3) (d : BitVec 5) (q : BitVec 3) : Statement (.vpop w d q) :=
  of_fields rfl (by simp [Instr.stream, Instr.ctorIdx, decodeFields, decodeX, fld_ofNat, ofNat_cat, cat_div_hi, ofNat_cat_part, ofNat_cat_low, -BitVec.toNat_ofNat])

theorem vpush (w : BitVec 3) (a : BitVec 5) (q : BitVec 3) : Statement (.vpush w a q) :=
  of_fields rfl (by simp [Instr.stream, Instr.ctorIdx, decodeFields, decodeX, fld_ofNat, ofNat_cat, cat_div_hi, ofNat_cat_part, ofNat_cat_low, -BitVec.toNat_ofNat])

theorem vtab (w : BitVec 3) (d : BitVec 5) (a : BitVec 5) (t : BitVec 4) (f : BitVec 3) (r : BitVec 3) (x : BitVec 1) (m : BitVec 1) : Statement (.vtab w d a t f r x m) :=
  of_fields rfl (by simp [Instr.stream, Instr.ctorIdx, decodeFields, decodeX, fld_ofNat, ofNat_cat, cat_div_hi, ofNat_cat_part, ofNat_cat_low, -BitVec.toNat_ofNat])

theorem vrope (w : BitVec 3) (d : BitVec 5) (a : BitVec 5) (b : BitVec 5) (f : BitVec 3) (r : BitVec 3) (m : BitVec 1) : Statement (.vrope w d a b f r m) :=
  of_fields rfl (by simp [Instr.stream, Instr.ctorIdx, decodeFields, decodeX, fld_ofNat, ofNat_cat, cat_div_hi, ofNat_cat_part, ofNat_cat_low, -BitVec.toNat_ofNat])

theorem vscl (w : BitVec 3) (d : BitVec 5) (a : BitVec 5) (f : BitVec 3) (r : BitVec 3) (x : BitVec 1) (m : BitVec 1) : Statement (.vscl w d a f r x m) :=
  of_fields rfl (by simp [Instr.stream, Instr.ctorIdx, decodeFields, decodeX, fld_ofNat, ofNat_cat, cat_div_hi, ofNat_cat_part, ofNat_cat_low, -BitVec.toNat_ofNat])

theorem vrng (w : BitVec 3) (d : BitVec 5) (m : BitVec 1) : Statement (.vrng w d m) :=
  of_fields rfl (by simp [Instr.stream, Instr.ctorIdx, decodeFields, decodeX, fld_ofNat, ofNat_cat, cat_div_hi, ofNat_cat_part, ofNat_cat_low, -BitVec.toNat_ofNat])

theorem vdrw (w : BitVec 3) (d : BitVec 5) (s : BitVec 1) (f : BitVec 1) : Statement (.vdrw w d s f) :=
  of_fields rfl (by simp [Instr.stream, Instr.ctorIdx, decodeFields, decodeX, fld_ofNat, ofNat_cat, cat_div_hi, ofNat_cat_part, ofNat_cat_low, -BitVec.toNat_ofNat])

theorem vdwr (w : BitVec 3) (a : BitVec 5) (s : BitVec 1) : Statement (.vdwr w a s) :=
  of_fields rfl (by simp [Instr.stream, Instr.ctorIdx, decodeFields, decodeX, fld_ofNat, ofNat_cat, cat_div_hi, ofNat_cat_part, ofNat_cat_low, -BitVec.toNat_ofNat])

theorem vmsk (w : BitVec 3) (d : BitVec 3) (a : BitVec 3) (b : BitVec 3) (f : BitVec 4) : Statement (.vmsk w d a b f) :=
  of_fields rfl (by simp [Instr.stream, Instr.ctorIdx, decodeFields, decodeX, fld_ofNat, ofNat_cat, cat_div_hi, ofNat_cat_part, ofNat_cat_low, -BitVec.toNat_ofNat])

theorem accrd (w : BitVec 3) (d : BitVec 5) (r : BitVec 12) : Statement (.accrd w d r) :=
  of_fields rfl (by simp [Instr.stream, Instr.ctorIdx, decodeFields, decodeX, fld_ofNat, ofNat_cat, cat_div_hi, ofNat_cat_part, ofNat_cat_low, -BitVec.toNat_ofNat])

theorem accwr (w : BitVec 3) (a : BitVec 5) (r : BitVec 12) : Statement (.accwr w a r) :=
  of_fields rfl (by simp [Instr.stream, Instr.ctorIdx, decodeFields, decodeX, fld_ofNat, ofNat_cat, cat_div_hi, ofNat_cat_part, ofNat_cat_low, -BitVec.toNat_ofNat])

theorem accz (w : BitVec 3) (s : BitVec 6) : Statement (.accz w s) :=
  of_fields rfl (by simp [Instr.stream, Instr.ctorIdx, decodeFields, decodeX, fld_ofNat, ofNat_cat, cat_div_hi, ofNat_cat_part, ofNat_cat_low, -BitVec.toNat_ofNat])

theorem accst (w : BitVec 3) (q : BitVec 1) (r : BitVec 12) (f : BitVec 3) (o : BitVec 3) (x : BitVec 1) : Statement (.accst w q r f o x) :=
  of_fields rfl (by simp [Instr.stream, Instr.ctorIdx, decodeFields, decodeX, fld_ofNat, ofNat_cat, cat_div_hi, ofNat_cat_part, ofNat_cat_low, -BitVec.toNat_ofNat])

theorem xbr (w : BitVec 3) (n : BitVec 1) (i : BitVec 19) : Statement (.xbr w n i) :=
  of_fields rfl (by simp [Instr.stream, Instr.ctorIdx, decodeFields, decodeX, fld_ofNat, ofNat_cat, cat_div_hi, ofNat_cat_part, ofNat_cat_low, -BitVec.toNat_ofNat])

theorem xloop (w : BitVec 3) (l : BitVec 9) (m : BitVec 9) : Statement (.xloop w l m) :=
  of_fields rfl (by simp [Instr.stream, Instr.ctorIdx, decodeFields, decodeX, fld_ofNat, ofNat_cat, cat_div_hi, ofNat_cat_part, ofNat_cat_low, -BitVec.toNat_ofNat])

theorem xlspan (w : BitVec 3) (n : BitVec 23) : Statement (.xlspan w n) :=
  of_fields rfl (by simp [Instr.stream, Instr.ctorIdx, decodeFields, decodeX, fld_ofNat, ofNat_cat, cat_div_hi, ofNat_cat_part, ofNat_cat_low, -BitVec.toNat_ofNat])

theorem xGive (w : BitVec 3) (q : BitVec 4) (c : BitVec 6) : Statement (.xGive w q c) :=
  of_fields rfl (by simp [Instr.stream, Instr.ctorIdx, decodeFields, decodeX, fld_ofNat, ofNat_cat, cat_div_hi, ofNat_cat_part, ofNat_cat_low, -BitVec.toNat_ofNat])

theorem xTake (w : BitVec 3) (q : BitVec 4) (c : BitVec 6) : Statement (.xTake w q c) :=
  of_fields rfl (by simp [Instr.stream, Instr.ctorIdx, decodeFields, decodeX, fld_ofNat, ofNat_cat, cat_div_hi, ofNat_cat_part, ofNat_cat_low, -BitVec.toNat_ofNat])

theorem vldi (w : BitVec 3) (d : BitVec 5) (k : BitVec 2) (i : BitVec 16) : Statement (.vldi w d k i) :=
  of_fields rfl (by simp [Instr.stream, Instr.ctorIdx, decodeFields, decodeX, fld_ofNat, ofNat_cat, cat_div_hi, ofNat_cat_part, ofNat_cat_low, -BitVec.toNat_ofNat])

theorem gigAdd (d : BitVec 5) (a : BitVec 5) (b : BitVec 5) : Statement (.gigAdd d a b) :=
  of_fields rfl (by simp [Instr.stream, Instr.ctorIdx, decodeFields, decodeGig, fld_ofNat, ofNat_cat, cat_div_hi, ofNat_cat_part, ofNat_cat_low, -BitVec.toNat_ofNat])

theorem gigSub (d : BitVec 5) (a : BitVec 5) (b : BitVec 5) : Statement (.gigSub d a b) :=
  of_fields rfl (by simp [Instr.stream, Instr.ctorIdx, decodeFields, decodeGig, fld_ofNat, ofNat_cat, cat_div_hi, ofNat_cat_part, ofNat_cat_low, -BitVec.toNat_ofNat])

theorem gigAnd (d : BitVec 5) (a : BitVec 5) (b : BitVec 5) : Statement (.gigAnd d a b) :=
  of_fields rfl (by simp [Instr.stream, Instr.ctorIdx, decodeFields, decodeGig, fld_ofNat, ofNat_cat, cat_div_hi, ofNat_cat_part, ofNat_cat_low, -BitVec.toNat_ofNat])

theorem gigOr (d : BitVec 5) (a : BitVec 5) (b : BitVec 5) : Statement (.gigOr d a b) :=
  of_fields rfl (by simp [Instr.stream, Instr.ctorIdx, decodeFields, decodeGig, fld_ofNat, ofNat_cat, cat_div_hi, ofNat_cat_part, ofNat_cat_low, -BitVec.toNat_ofNat])

theorem gigXor (d : BitVec 5) (a : BitVec 5) (b : BitVec 5) : Statement (.gigXor d a b) :=
  of_fields rfl (by simp [Instr.stream, Instr.ctorIdx, decodeFields, decodeGig, fld_ofNat, ofNat_cat, cat_div_hi, ofNat_cat_part, ofNat_cat_low, -BitVec.toNat_ofNat])

theorem gigShl (d : BitVec 5) (a : BitVec 5) (b : BitVec 5) : Statement (.gigShl d a b) :=
  of_fields rfl (by simp [Instr.stream, Instr.ctorIdx, decodeFields, decodeGig, fld_ofNat, ofNat_cat, cat_div_hi, ofNat_cat_part, ofNat_cat_low, -BitVec.toNat_ofNat])

theorem gigShr (d : BitVec 5) (a : BitVec 5) (b : BitVec 5) : Statement (.gigShr d a b) :=
  of_fields rfl (by simp [Instr.stream, Instr.ctorIdx, decodeFields, decodeGig, fld_ofNat, ofNat_cat, cat_div_hi, ofNat_cat_part, ofNat_cat_low, -BitVec.toNat_ofNat])

theorem gigSra (d : BitVec 5) (a : BitVec 5) (b : BitVec 5) : Statement (.gigSra d a b) :=
  of_fields rfl (by simp [Instr.stream, Instr.ctorIdx, decodeFields, decodeGig, fld_ofNat, ofNat_cat, cat_div_hi, ofNat_cat_part, ofNat_cat_low, -BitVec.toNat_ofNat])

theorem gigMul (d : BitVec 5) (a : BitVec 5) (b : BitVec 5) : Statement (.gigMul d a b) :=
  of_fields rfl (by simp [Instr.stream, Instr.ctorIdx, decodeFields, decodeGig, fld_ofNat, ofNat_cat, cat_div_hi, ofNat_cat_part, ofNat_cat_low, -BitVec.toNat_ofNat])

theorem gigMulh (d : BitVec 5) (a : BitVec 5) (b : BitVec 5) : Statement (.gigMulh d a b) :=
  of_fields rfl (by simp [Instr.stream, Instr.ctorIdx, decodeFields, decodeGig, fld_ofNat, ofNat_cat, cat_div_hi, ofNat_cat_part, ofNat_cat_low, -BitVec.toNat_ofNat])

theorem gigMulhu (d : BitVec 5) (a : BitVec 5) (b : BitVec 5) : Statement (.gigMulhu d a b) :=
  of_fields rfl (by simp [Instr.stream, Instr.ctorIdx, decodeFields, decodeGig, fld_ofNat, ofNat_cat, cat_div_hi, ofNat_cat_part, ofNat_cat_low, -BitVec.toNat_ofNat])

theorem gigDiv (d : BitVec 5) (a : BitVec 5) (b : BitVec 5) : Statement (.gigDiv d a b) :=
  of_fields rfl (by simp [Instr.stream, Instr.ctorIdx, decodeFields, decodeGig, fld_ofNat, ofNat_cat, cat_div_hi, ofNat_cat_part, ofNat_cat_low, -BitVec.toNat_ofNat])

theorem gigDivu (d : BitVec 5) (a : BitVec 5) (b : BitVec 5) : Statement (.gigDivu d a b) :=
  of_fields rfl (by simp [Instr.stream, Instr.ctorIdx, decodeFields, decodeGig, fld_ofNat, ofNat_cat, cat_div_hi, ofNat_cat_part, ofNat_cat_low, -BitVec.toNat_ofNat])

theorem gigRem (d : BitVec 5) (a : BitVec 5) (b : BitVec 5) : Statement (.gigRem d a b) :=
  of_fields rfl (by simp [Instr.stream, Instr.ctorIdx, decodeFields, decodeGig, fld_ofNat, ofNat_cat, cat_div_hi, ofNat_cat_part, ofNat_cat_low, -BitVec.toNat_ofNat])

theorem gigRemu (d : BitVec 5) (a : BitVec 5) (b : BitVec 5) : Statement (.gigRemu d a b) :=
  of_fields rfl (by simp [Instr.stream, Instr.ctorIdx, decodeFields, decodeGig, fld_ofNat, ofNat_cat, cat_div_hi, ofNat_cat_part, ofNat_cat_low, -BitVec.toNat_ofNat])

theorem gigSlt (d : BitVec 5) (a : BitVec 5) (b : BitVec 5) : Statement (.gigSlt d a b) :=
  of_fields rfl (by simp [Instr.stream, Instr.ctorIdx, decodeFields, decodeGig, fld_ofNat, ofNat_cat, cat_div_hi, ofNat_cat_part, ofNat_cat_low, -BitVec.toNat_ofNat])

theorem gigSltu (d : BitVec 5) (a : BitVec 5) (b : BitVec 5) : Statement (.gigSltu d a b) :=
  of_fields rfl (by simp [Instr.stream, Instr.ctorIdx, decodeFields, decodeGig, fld_ofNat, ofNat_cat, cat_div_hi, ofNat_cat_part, ofNat_cat_low, -BitVec.toNat_ofNat])

theorem gigMin (d : BitVec 5) (a : BitVec 5) (b : BitVec 5) : Statement (.gigMin d a b) :=
  of_fields rfl (by simp [Instr.stream, Instr.ctorIdx, decodeFields, decodeGig, fld_ofNat, ofNat_cat, cat_div_hi, ofNat_cat_part, ofNat_cat_low, -BitVec.toNat_ofNat])

theorem gigMax (d : BitVec 5) (a : BitVec 5) (b : BitVec 5) : Statement (.gigMax d a b) :=
  of_fields rfl (by simp [Instr.stream, Instr.ctorIdx, decodeFields, decodeGig, fld_ofNat, ofNat_cat, cat_div_hi, ofNat_cat_part, ofNat_cat_low, -BitVec.toNat_ofNat])

theorem gigMinu (d : BitVec 5) (a : BitVec 5) (b : BitVec 5) : Statement (.gigMinu d a b) :=
  of_fields rfl (by simp [Instr.stream, Instr.ctorIdx, decodeFields, decodeGig, fld_ofNat, ofNat_cat, cat_div_hi, ofNat_cat_part, ofNat_cat_low, -BitVec.toNat_ofNat])

theorem gigMaxu (d : BitVec 5) (a : BitVec 5) (b : BitVec 5) : Statement (.gigMaxu d a b) :=
  of_fields rfl (by simp [Instr.stream, Instr.ctorIdx, decodeFields, decodeGig, fld_ofNat, ofNat_cat, cat_div_hi, ofNat_cat_part, ofNat_cat_low, -BitVec.toNat_ofNat])

theorem gigClz (d : BitVec 5) (a : BitVec 5) : Statement (.gigClz d a) :=
  of_fields rfl (by simp [Instr.stream, Instr.ctorIdx, decodeFields, decodeGig, fld_ofNat, ofNat_cat, cat_div_hi, ofNat_cat_part, ofNat_cat_low, -BitVec.toNat_ofNat])

theorem gigCtz (d : BitVec 5) (a : BitVec 5) : Statement (.gigCtz d a) :=
  of_fields rfl (by simp [Instr.stream, Instr.ctorIdx, decodeFields, decodeGig, fld_ofNat, ofNat_cat, cat_div_hi, ofNat_cat_part, ofNat_cat_low, -BitVec.toNat_ofNat])

theorem gigPopc (d : BitVec 5) (a : BitVec 5) : Statement (.gigPopc d a) :=
  of_fields rfl (by simp [Instr.stream, Instr.ctorIdx, decodeFields, decodeGig, fld_ofNat, ofNat_cat, cat_div_hi, ofNat_cat_part, ofNat_cat_low, -BitVec.toNat_ofNat])

theorem gigAddi (d : BitVec 5) (a : BitVec 5) (i : BitVec 16) : Statement (.gigAddi d a i) :=
  of_fields rfl (by simp [Instr.stream, Instr.ctorIdx, decodeFields, decodeGig, fld_ofNat, ofNat_cat, cat_div_hi, ofNat_cat_part, ofNat_cat_low, -BitVec.toNat_ofNat])

theorem gigAndi (d : BitVec 5) (a : BitVec 5) (i : BitVec 16) : Statement (.gigAndi d a i) :=
  of_fields rfl (by simp [Instr.stream, Instr.ctorIdx, decodeFields, decodeGig, fld_ofNat, ofNat_cat, cat_div_hi, ofNat_cat_part, ofNat_cat_low, -BitVec.toNat_ofNat])

theorem gigOri (d : BitVec 5) (a : BitVec 5) (i : BitVec 16) : Statement (.gigOri d a i) :=
  of_fields rfl (by simp [Instr.stream, Instr.ctorIdx, decodeFields, decodeGig, fld_ofNat, ofNat_cat, cat_div_hi, ofNat_cat_part, ofNat_cat_low, -BitVec.toNat_ofNat])

theorem gigXori (d : BitVec 5) (a : BitVec 5) (i : BitVec 16) : Statement (.gigXori d a i) :=
  of_fields rfl (by simp [Instr.stream, Instr.ctorIdx, decodeFields, decodeGig, fld_ofNat, ofNat_cat, cat_div_hi, ofNat_cat_part, ofNat_cat_low, -BitVec.toNat_ofNat])

theorem gigShli (d : BitVec 5) (a : BitVec 5) (i : BitVec 6) : Statement (.gigShli d a i) :=
  of_fields rfl (by simp [Instr.stream, Instr.ctorIdx, decodeFields, decodeGig, fld_ofNat, ofNat_cat, cat_div_hi, ofNat_cat_part, ofNat_cat_low, -BitVec.toNat_ofNat])

theorem gigShri (d : BitVec 5) (a : BitVec 5) (i : BitVec 6) : Statement (.gigShri d a i) :=
  of_fields rfl (by simp [Instr.stream, Instr.ctorIdx, decodeFields, decodeGig, fld_ofNat, ofNat_cat, cat_div_hi, ofNat_cat_part, ofNat_cat_low, -BitVec.toNat_ofNat])

theorem gigSrai (d : BitVec 5) (a : BitVec 5) (i : BitVec 6) : Statement (.gigSrai d a i) :=
  of_fields rfl (by simp [Instr.stream, Instr.ctorIdx, decodeFields, decodeGig, fld_ofNat, ofNat_cat, cat_div_hi, ofNat_cat_part, ofNat_cat_low, -BitVec.toNat_ofNat])

theorem slti (d : BitVec 5) (a : BitVec 5) (i : BitVec 16) : Statement (.slti d a i) :=
  of_fields rfl (by simp [Instr.stream, Instr.ctorIdx, decodeFields, decodeGig, fld_ofNat, ofNat_cat, cat_div_hi, ofNat_cat_part, ofNat_cat_low, -BitVec.toNat_ofNat])

theorem sltiu (d : BitVec 5) (a : BitVec 5) (i : BitVec 16) : Statement (.sltiu d a i) :=
  of_fields rfl (by simp [Instr.stream, Instr.ctorIdx, decodeFields, decodeGig, fld_ofNat, ofNat_cat, cat_div_hi, ofNat_cat_part, ofNat_cat_low, -BitVec.toNat_ofNat])

theorem gigLui (d : BitVec 5) (i : BitVec 16) : Statement (.gigLui d i) :=
  of_fields rfl (by simp [Instr.stream, Instr.ctorIdx, decodeFields, decodeGig, fld_ofNat, ofNat_cat, cat_div_hi, ofNat_cat_part, ofNat_cat_low, -BitVec.toNat_ofNat])

theorem beq (a : BitVec 5) (b : BitVec 5) (i : BitVec 16) : Statement (.beq a b i) :=
  of_fields rfl (by simp [Instr.stream, Instr.ctorIdx, decodeFields, decodeGig, fld_ofNat, ofNat_cat, cat_div_hi, ofNat_cat_part, ofNat_cat_low, -BitVec.toNat_ofNat])

theorem bne (a : BitVec 5) (b : BitVec 5) (i : BitVec 16) : Statement (.bne a b i) :=
  of_fields rfl (by simp [Instr.stream, Instr.ctorIdx, decodeFields, decodeGig, fld_ofNat, ofNat_cat, cat_div_hi, ofNat_cat_part, ofNat_cat_low, -BitVec.toNat_ofNat])

theorem blt (a : BitVec 5) (b : BitVec 5) (i : BitVec 16) : Statement (.blt a b i) :=
  of_fields rfl (by simp [Instr.stream, Instr.ctorIdx, decodeFields, decodeGig, fld_ofNat, ofNat_cat, cat_div_hi, ofNat_cat_part, ofNat_cat_low, -BitVec.toNat_ofNat])

theorem bge (a : BitVec 5) (b : BitVec 5) (i : BitVec 16) : Statement (.bge a b i) :=
  of_fields rfl (by simp [Instr.stream, Instr.ctorIdx, decodeFields, decodeGig, fld_ofNat, ofNat_cat, cat_div_hi, ofNat_cat_part, ofNat_cat_low, -BitVec.toNat_ofNat])

theorem bltu (a : BitVec 5) (b : BitVec 5) (i : BitVec 16) : Statement (.bltu a b i) :=
  of_fields rfl (by simp [Instr.stream, Instr.ctorIdx, decodeFields, decodeGig, fld_ofNat, ofNat_cat, cat_div_hi, ofNat_cat_part, ofNat_cat_low, -BitVec.toNat_ofNat])

theorem bgeu (a : BitVec 5) (b : BitVec 5) (i : BitVec 16) : Statement (.bgeu a b i) :=
  of_fields rfl (by simp [Instr.stream, Instr.ctorIdx, decodeFields, decodeGig, fld_ofNat, ofNat_cat, cat_div_hi, ofNat_cat_part, ofNat_cat_low, -BitVec.toNat_ofNat])

theorem jal (i : BitVec 26) : Statement (.jal i) :=
  of_fields rfl (by simp [Instr.stream, Instr.ctorIdx, decodeFields, decodeGig, fld_ofNat, ofNat_cat, cat_div_hi, ofNat_cat_part, ofNat_cat_low, -BitVec.toNat_ofNat])

theorem jalr (d : BitVec 5) (a : BitVec 5) (i : BitVec 16) : Statement (.jalr d a i) :=
  of_fields rfl (by simp [Instr.stream, Instr.ctorIdx, decodeFields, decodeGig, fld_ofNat, ofNat_cat, cat_div_hi, ofNat_cat_part, ofNat_cat_low, -BitVec.toNat_ofNat])

theorem ldb (d : BitVec 5) (a : BitVec 5) (c : BitVec 4) (i : BitVec 9) : Statement (.ldb d a c i) :=
  of_fields rfl (by simp [Instr.stream, Instr.ctorIdx, decodeFields, decodeGig, fld_ofNat, ofNat_cat, cat_div_hi, ofNat_cat_part, ofNat_cat_low, -BitVec.toNat_ofNat])

theorem ldh (d : BitVec 5) (a : BitVec 5) (c : BitVec 4) (i : BitVec 9) : Statement (.ldh d a c i) :=
  of_fields rfl (by simp [Instr.stream, Instr.ctorIdx, decodeFields, decodeGig, fld_ofNat, ofNat_cat, cat_div_hi, ofNat_cat_part, ofNat_cat_low, -BitVec.toNat_ofNat])

theorem ldw (d : BitVec 5) (a : BitVec 5) (c : BitVec 4) (i : BitVec 9) : Statement (.ldw d a c i) :=
  of_fields rfl (by simp [Instr.stream, Instr.ctorIdx, decodeFields, decodeGig, fld_ofNat, ofNat_cat, cat_div_hi, ofNat_cat_part, ofNat_cat_low, -BitVec.toNat_ofNat])

theorem ldd (d : BitVec 5) (a : BitVec 5) (c : BitVec 4) (i : BitVec 9) : Statement (.ldd d a c i) :=
  of_fields rfl (by simp [Instr.stream, Instr.ctorIdx, decodeFields, decodeGig, fld_ofNat, ofNat_cat, cat_div_hi, ofNat_cat_part, ofNat_cat_low, -BitVec.toNat_ofNat])

theorem ldbu (d : BitVec 5) (a : BitVec 5) (c : BitVec 4) (i : BitVec 9) : Statement (.ldbu d a c i) :=
  of_fields rfl (by simp [Instr.stream, Instr.ctorIdx, decodeFields, decodeGig, fld_ofNat, ofNat_cat, cat_div_hi, ofNat_cat_part, ofNat_cat_low, -BitVec.toNat_ofNat])

theorem ldhu (d : BitVec 5) (a : BitVec 5) (c : BitVec 4) (i : BitVec 9) : Statement (.ldhu d a c i) :=
  of_fields rfl (by simp [Instr.stream, Instr.ctorIdx, decodeFields, decodeGig, fld_ofNat, ofNat_cat, cat_div_hi, ofNat_cat_part, ofNat_cat_low, -BitVec.toNat_ofNat])

theorem ldwu (d : BitVec 5) (a : BitVec 5) (c : BitVec 4) (i : BitVec 9) : Statement (.ldwu d a c i) :=
  of_fields rfl (by simp [Instr.stream, Instr.ctorIdx, decodeFields, decodeGig, fld_ofNat, ofNat_cat, cat_div_hi, ofNat_cat_part, ofNat_cat_low, -BitVec.toNat_ofNat])

theorem stb (s : BitVec 5) (a : BitVec 5) (c : BitVec 4) (i : BitVec 9) : Statement (.stb s a c i) :=
  of_fields rfl (by simp [Instr.stream, Instr.ctorIdx, decodeFields, decodeGig, fld_ofNat, ofNat_cat, cat_div_hi, ofNat_cat_part, ofNat_cat_low, -BitVec.toNat_ofNat])

theorem sth (s : BitVec 5) (a : BitVec 5) (c : BitVec 4) (i : BitVec 9) : Statement (.sth s a c i) :=
  of_fields rfl (by simp [Instr.stream, Instr.ctorIdx, decodeFields, decodeGig, fld_ofNat, ofNat_cat, cat_div_hi, ofNat_cat_part, ofNat_cat_low, -BitVec.toNat_ofNat])

theorem stw (s : BitVec 5) (a : BitVec 5) (c : BitVec 4) (i : BitVec 9) : Statement (.stw s a c i) :=
  of_fields rfl (by simp [Instr.stream, Instr.ctorIdx, decodeFields, decodeGig, fld_ofNat, ofNat_cat, cat_div_hi, ofNat_cat_part, ofNat_cat_low, -BitVec.toNat_ofNat])

theorem std (s : BitVec 5) (a : BitVec 5) (c : BitVec 4) (i : BitVec 9) : Statement (.std s a c i) :=
  of_fields rfl (by simp [Instr.stream, Instr.ctorIdx, decodeFields, decodeGig, fld_ofNat, ofNat_cat, cat_div_hi, ofNat_cat_part, ofNat_cat_low, -BitVec.toNat_ofNat])

theorem amoadd (d : BitVec 5) (a : BitVec 5) (b : BitVec 5) (w : BitVec 1) (c : BitVec 4) : Statement (.amoadd d a b w c) :=
  of_fields rfl (by simp [Instr.stream, Instr.ctorIdx, decodeFields, decodeGig, fld_ofNat, ofNat_cat, cat_div_hi, ofNat_cat_part, ofNat_cat_low, -BitVec.toNat_ofNat])

theorem amoswap (d : BitVec 5) (a : BitVec 5) (b : BitVec 5) (w : BitVec 1) (c : BitVec 4) : Statement (.amoswap d a b w c) :=
  of_fields rfl (by simp [Instr.stream, Instr.ctorIdx, decodeFields, decodeGig, fld_ofNat, ofNat_cat, cat_div_hi, ofNat_cat_part, ofNat_cat_low, -BitVec.toNat_ofNat])

theorem amocas (d : BitVec 5) (a : BitVec 5) (b : BitVec 5) (w : BitVec 1) (c : BitVec 4) : Statement (.amocas d a b w c) :=
  of_fields rfl (by simp [Instr.stream, Instr.ctorIdx, decodeFields, decodeGig, fld_ofNat, ofNat_cat, cat_div_hi, ofNat_cat_part, ofNat_cat_low, -BitVec.toNat_ofNat])

theorem amomin (d : BitVec 5) (a : BitVec 5) (b : BitVec 5) (w : BitVec 1) (c : BitVec 4) : Statement (.amomin d a b w c) :=
  of_fields rfl (by simp [Instr.stream, Instr.ctorIdx, decodeFields, decodeGig, fld_ofNat, ofNat_cat, cat_div_hi, ofNat_cat_part, ofNat_cat_low, -BitVec.toNat_ofNat])

theorem amomax (d : BitVec 5) (a : BitVec 5) (b : BitVec 5) (w : BitVec 1) (c : BitVec 4) : Statement (.amomax d a b w c) :=
  of_fields rfl (by simp [Instr.stream, Instr.ctorIdx, decodeFields, decodeGig, fld_ofNat, ofNat_cat, cat_div_hi, ofNat_cat_part, ofNat_cat_low, -BitVec.toNat_ofNat])

theorem amominu (d : BitVec 5) (a : BitVec 5) (b : BitVec 5) (w : BitVec 1) (c : BitVec 4) : Statement (.amominu d a b w c) :=
  of_fields rfl (by simp [Instr.stream, Instr.ctorIdx, decodeFields, decodeGig, fld_ofNat, ofNat_cat, cat_div_hi, ofNat_cat_part, ofNat_cat_low, -BitVec.toNat_ofNat])

theorem amomaxu (d : BitVec 5) (a : BitVec 5) (b : BitVec 5) (w : BitVec 1) (c : BitVec 4) : Statement (.amomaxu d a b w c) :=
  of_fields rfl (by simp [Instr.stream, Instr.ctorIdx, decodeFields, decodeGig, fld_ofNat, ofNat_cat, cat_div_hi, ofNat_cat_part, ofNat_cat_low, -BitVec.toNat_ofNat])

theorem amoand (d : BitVec 5) (a : BitVec 5) (b : BitVec 5) (w : BitVec 1) (c : BitVec 4) : Statement (.amoand d a b w c) :=
  of_fields rfl (by simp [Instr.stream, Instr.ctorIdx, decodeFields, decodeGig, fld_ofNat, ofNat_cat, cat_div_hi, ofNat_cat_part, ofNat_cat_low, -BitVec.toNat_ofNat])

theorem amoor (d : BitVec 5) (a : BitVec 5) (b : BitVec 5) (w : BitVec 1) (c : BitVec 4) : Statement (.amoor d a b w c) :=
  of_fields rfl (by simp [Instr.stream, Instr.ctorIdx, decodeFields, decodeGig, fld_ofNat, ofNat_cat, cat_div_hi, ofNat_cat_part, ofNat_cat_low, -BitVec.toNat_ofNat])

theorem amoxor (d : BitVec 5) (a : BitVec 5) (b : BitVec 5) (w : BitVec 1) (c : BitVec 4) : Statement (.amoxor d a b w c) :=
  of_fields rfl (by simp [Instr.stream, Instr.ctorIdx, decodeFields, decodeGig, fld_ofNat, ofNat_cat, cat_div_hi, ofNat_cat_part, ofNat_cat_low, -BitVec.toNat_ofNat])

theorem fence (s : BitVec 5) (m : BitVec 16) : Statement (.fence s m) :=
  of_fields rfl (by simp [Instr.stream, Instr.ctorIdx, decodeFields, decodeGig, fld_ofNat, ofNat_cat, cat_div_hi, ofNat_cat_part, ofNat_cat_low, -BitVec.toNat_ofNat])

theorem fadd (d : BitVec 5) (a : BitVec 5) (b : BitVec 5) (f : BitVec 3) (r : BitVec 3) : Statement (.fadd d a b f r) :=
  of_fields rfl (by simp [Instr.stream, Instr.ctorIdx, decodeFields, decodeGig, fld_ofNat, ofNat_cat, cat_div_hi, ofNat_cat_part, ofNat_cat_low, -BitVec.toNat_ofNat])

theorem fsub (d : BitVec 5) (a : BitVec 5) (b : BitVec 5) (f : BitVec 3) (r : BitVec 3) : Statement (.fsub d a b f r) :=
  of_fields rfl (by simp [Instr.stream, Instr.ctorIdx, decodeFields, decodeGig, fld_ofNat, ofNat_cat, cat_div_hi, ofNat_cat_part, ofNat_cat_low, -BitVec.toNat_ofNat])

theorem fmul (d : BitVec 5) (a : BitVec 5) (b : BitVec 5) (f : BitVec 3) (r : BitVec 3) : Statement (.fmul d a b f r) :=
  of_fields rfl (by simp [Instr.stream, Instr.ctorIdx, decodeFields, decodeGig, fld_ofNat, ofNat_cat, cat_div_hi, ofNat_cat_part, ofNat_cat_low, -BitVec.toNat_ofNat])

theorem fdiv (d : BitVec 5) (a : BitVec 5) (b : BitVec 5) (f : BitVec 3) (r : BitVec 3) : Statement (.fdiv d a b f r) :=
  of_fields rfl (by simp [Instr.stream, Instr.ctorIdx, decodeFields, decodeGig, fld_ofNat, ofNat_cat, cat_div_hi, ofNat_cat_part, ofNat_cat_low, -BitVec.toNat_ofNat])

theorem fsqrt (d : BitVec 5) (a : BitVec 5) (f : BitVec 3) (r : BitVec 3) : Statement (.fsqrt d a f r) :=
  of_fields rfl (by simp [Instr.stream, Instr.ctorIdx, decodeFields, decodeGig, fld_ofNat, ofNat_cat, cat_div_hi, ofNat_cat_part, ofNat_cat_low, -BitVec.toNat_ofNat])

theorem fmin (d : BitVec 5) (a : BitVec 5) (b : BitVec 5) (f : BitVec 3) : Statement (.fmin d a b f) :=
  of_fields rfl (by simp [Instr.stream, Instr.ctorIdx, decodeFields, decodeGig, fld_ofNat, ofNat_cat, cat_div_hi, ofNat_cat_part, ofNat_cat_low, -BitVec.toNat_ofNat])

theorem fmax (d : BitVec 5) (a : BitVec 5) (b : BitVec 5) (f : BitVec 3) : Statement (.fmax d a b f) :=
  of_fields rfl (by simp [Instr.stream, Instr.ctorIdx, decodeFields, decodeGig, fld_ofNat, ofNat_cat, cat_div_hi, ofNat_cat_part, ofNat_cat_low, -BitVec.toNat_ofNat])

theorem feq (d : BitVec 5) (a : BitVec 5) (b : BitVec 5) (f : BitVec 3) : Statement (.feq d a b f) :=
  of_fields rfl (by simp [Instr.stream, Instr.ctorIdx, decodeFields, decodeGig, fld_ofNat, ofNat_cat, cat_div_hi, ofNat_cat_part, ofNat_cat_low, -BitVec.toNat_ofNat])

theorem flt (d : BitVec 5) (a : BitVec 5) (b : BitVec 5) (f : BitVec 3) : Statement (.flt d a b f) :=
  of_fields rfl (by simp [Instr.stream, Instr.ctorIdx, decodeFields, decodeGig, fld_ofNat, ofNat_cat, cat_div_hi, ofNat_cat_part, ofNat_cat_low, -BitVec.toNat_ofNat])

theorem fle (d : BitVec 5) (a : BitVec 5) (b : BitVec 5) (f : BitVec 3) : Statement (.fle d a b f) :=
  of_fields rfl (by simp [Instr.stream, Instr.ctorIdx, decodeFields, decodeGig, fld_ofNat, ofNat_cat, cat_div_hi, ofNat_cat_part, ofNat_cat_low, -BitVec.toNat_ofNat])

theorem fcvt (d : BitVec 5) (a : BitVec 5) (g : BitVec 3) (f : BitVec 3) (r : BitVec 3) : Statement (.fcvt d a g f r) :=
  of_fields rfl (by simp [Instr.stream, Instr.ctorIdx, decodeFields, decodeGig, fld_ofNat, ofNat_cat, cat_div_hi, ofNat_cat_part, ofNat_cat_low, -BitVec.toNat_ofNat])

theorem fexp2 (d : BitVec 5) (a : BitVec 5) : Statement (.fexp2 d a) :=
  of_fields rfl (by simp [Instr.stream, Instr.ctorIdx, decodeFields, decodeGig, fld_ofNat, ofNat_cat, cat_div_hi, ofNat_cat_part, ofNat_cat_low, -BitVec.toNat_ofNat])

theorem fma (d : BitVec 5) (a : BitVec 5) (b : BitVec 5) (c : BitVec 5) (f : BitVec 1) (r : BitVec 3) : Statement (.fma d a b c f r) :=
  of_fields rfl (by simp [Instr.stream, Instr.ctorIdx, decodeFields, decodeGig, fld_ofNat, ofNat_cat, cat_div_hi, ofNat_cat_part, ofNat_cat_low, -BitVec.toNat_ofNat])

theorem fms (d : BitVec 5) (a : BitVec 5) (b : BitVec 5) (c : BitVec 5) (f : BitVec 1) (r : BitVec 3) : Statement (.fms d a b c f r) :=
  of_fields rfl (by simp [Instr.stream, Instr.ctorIdx, decodeFields, decodeGig, fld_ofNat, ofNat_cat, cat_div_hi, ofNat_cat_part, ofNat_cat_low, -BitVec.toNat_ofNat])

theorem fnma (d : BitVec 5) (a : BitVec 5) (b : BitVec 5) (c : BitVec 5) (f : BitVec 1) (r : BitVec 3) : Statement (.fnma d a b c f r) :=
  of_fields rfl (by simp [Instr.stream, Instr.ctorIdx, decodeFields, decodeGig, fld_ofNat, ofNat_cat, cat_div_hi, ofNat_cat_part, ofNat_cat_low, -BitVec.toNat_ofNat])

theorem arrive (d : BitVec 5) (n : BitVec 4) : Statement (.arrive d n) :=
  of_fields rfl (by simp [Instr.stream, Instr.ctorIdx, decodeFields, decodeGig, fld_ofNat, ofNat_cat, cat_div_hi, ofNat_cat_part, ofNat_cat_low, -BitVec.toNat_ofNat])

theorem waitp (d : BitVec 5) (a : BitVec 5) (b : BitVec 5) (n : BitVec 4) : Statement (.waitp d a b n) :=
  of_fields rfl (by simp [Instr.stream, Instr.ctorIdx, decodeFields, decodeGig, fld_ofNat, ofNat_cat, cat_div_hi, ofNat_cat_part, ofNat_cat_low, -BitVec.toNat_ofNat])

theorem evsig (n : BitVec 5) : Statement (.evsig n) :=
  of_fields rfl (by simp [Instr.stream, Instr.ctorIdx, decodeFields, decodeGig, fld_ofNat, ofNat_cat, cat_div_hi, ofNat_cat_part, ofNat_cat_low, -BitVec.toNat_ofNat])

theorem evmsg (a : BitVec 5) (n : BitVec 5) : Statement (.evmsg a n) :=
  of_fields rfl (by simp [Instr.stream, Instr.ctorIdx, decodeFields, decodeGig, fld_ofNat, ofNat_cat, cat_div_hi, ofNat_cat_part, ofNat_cat_low, -BitVec.toNat_ofNat])

theorem gigSend (a : BitVec 5) (b : BitVec 5) : Statement (.gigSend a b) :=
  of_fields rfl (by simp [Instr.stream, Instr.ctorIdx, decodeFields, decodeGig, fld_ofNat, ofNat_cat, cat_div_hi, ofNat_cat_part, ofNat_cat_low, -BitVec.toNat_ofNat])

theorem recv (d : BitVec 5) (a : BitVec 5) (n : BitVec 1) : Statement (.recv d a n) :=
  of_fields rfl (by simp [Instr.stream, Instr.ctorIdx, decodeFields, decodeGig, fld_ofNat, ofNat_cat, cat_div_hi, ofNat_cat_part, ofNat_cat_low, -BitVec.toNat_ofNat])

theorem spawn (d : BitVec 5) (a : BitVec 5) (p : BitVec 1) : Statement (.spawn d a p) :=
  of_fields rfl (by simp [Instr.stream, Instr.ctorIdx, decodeFields, decodeGig, fld_ofNat, ofNat_cat, cat_div_hi, ofNat_cat_part, ofNat_cat_low, -BitVec.toNat_ofNat])

theorem wid (d : BitVec 5) (n : BitVec 3) : Statement (.wid d n) :=
  of_fields rfl (by simp [Instr.stream, Instr.ctorIdx, decodeFields, decodeGig, fld_ofNat, ofNat_cat, cat_div_hi, ofNat_cat_part, ofNat_cat_low, -BitVec.toNat_ofNat])

theorem hsift (d : BitVec 5) (a : BitVec 5) (b : BitVec 5) (k : BitVec 5) : Statement (.hsift d a b k) :=
  of_fields rfl (by simp [Instr.stream, Instr.ctorIdx, decodeFields, decodeGig, fld_ofNat, ofNat_cat, cat_div_hi, ofNat_cat_part, ofNat_cat_low, -BitVec.toNat_ofNat])

theorem cntadd (a : BitVec 5) (b : BitVec 5) : Statement (.cntadd a b) :=
  of_fields rfl (by simp [Instr.stream, Instr.ctorIdx, decodeFields, decodeGig, fld_ofNat, ofNat_cat, cat_div_hi, ofNat_cat_part, ofNat_cat_low, -BitVec.toNat_ofNat])

theorem cntsnap (a : BitVec 5) (b : BitVec 5) (n : BitVec 6) : Statement (.cntsnap a b n) :=
  of_fields rfl (by simp [Instr.stream, Instr.ctorIdx, decodeFields, decodeGig, fld_ofNat, ofNat_cat, cat_div_hi, ofNat_cat_part, ofNat_cat_low, -BitVec.toNat_ofNat])

theorem balloc (d : BitVec 5) (a : BitVec 5) (n : BitVec 1) : Statement (.balloc d a n) :=
  of_fields rfl (by simp [Instr.stream, Instr.ctorIdx, decodeFields, decodeGig, fld_ofNat, ofNat_cat, cat_div_hi, ofNat_cat_part, ofNat_cat_low, -BitVec.toNat_ofNat])

theorem bfree (a : BitVec 5) (b : BitVec 5) : Statement (.bfree a b) :=
  of_fields rfl (by simp [Instr.stream, Instr.ctorIdx, decodeFields, decodeGig, fld_ofNat, ofNat_cat, cat_div_hi, ofNat_cat_part, ofNat_cat_low, -BitVec.toNat_ofNat])

theorem bfork (d : BitVec 5) (a : BitVec 5) (b : BitVec 5) (n : BitVec 1) : Statement (.bfork d a b n) :=
  of_fields rfl (by simp [Instr.stream, Instr.ctorIdx, decodeFields, decodeGig, fld_ofNat, ofNat_cat, cat_div_hi, ofNat_cat_part, ofNat_cat_low, -BitVec.toNat_ofNat])

theorem bmap (d : BitVec 5) (a : BitVec 5) (b : BitVec 5) : Statement (.bmap d a b) :=
  of_fields rfl (by simp [Instr.stream, Instr.ctorIdx, decodeFields, decodeGig, fld_ofNat, ofNat_cat, cat_div_hi, ofNat_cat_part, ofNat_cat_low, -BitVec.toNat_ofNat])

theorem bappend (d : BitVec 5) (a : BitVec 5) (b : BitVec 5) (n : BitVec 1) : Statement (.bappend d a b n) :=
  of_fields rfl (by simp [Instr.stream, Instr.ctorIdx, decodeFields, decodeGig, fld_ofNat, ofNat_cat, cat_div_hi, ofNat_cat_part, ofNat_cat_low, -BitVec.toNat_ofNat])

theorem wbill (d : BitVec 5) (a : BitVec 5) : Statement (.wbill d a) :=
  of_fields rfl (by simp [Instr.stream, Instr.ctorIdx, decodeFields, decodeGig, fld_ofNat, ofNat_cat, cat_div_hi, ofNat_cat_part, ofNat_cat_low, -BitVec.toNat_ofNat])

theorem wbstat (d : BitVec 5) (a : BitVec 5) : Statement (.wbstat d a) :=
  of_fields rfl (by simp [Instr.stream, Instr.ctorIdx, decodeFields, decodeGig, fld_ofNat, ofNat_cat, cat_div_hi, ofNat_cat_part, ofNat_cat_low, -BitVec.toNat_ofNat])

theorem post (d : BitVec 5) (a : BitVec 5) (b : BitVec 5) (s : BitVec 6) : Statement (.post d a b s) :=
  of_fields rfl (by simp [Instr.stream, Instr.ctorIdx, decodeFields, decodeGig, fld_ofNat, ofNat_cat, cat_div_hi, ofNat_cat_part, ofNat_cat_low, -BitVec.toNat_ofNat])

theorem tfreeze (d : BitVec 5) (s : BitVec 1) : Statement (.tfreeze d s) :=
  of_fields rfl (by simp [Instr.stream, Instr.ctorIdx, decodeFields, decodeGig, fld_ofNat, ofNat_cat, cat_div_hi, ofNat_cat_part, ofNat_cat_low, -BitVec.toNat_ofNat])

theorem tresume (d : BitVec 5) : Statement (.tresume d) :=
  of_fields rfl (by simp [Instr.stream, Instr.ctorIdx, decodeFields, decodeGig, fld_ofNat, ofNat_cat, cat_div_hi, ofNat_cat_part, ofNat_cat_low, -BitVec.toNat_ofNat])

theorem tframe (d : BitVec 5) (a : BitVec 5) : Statement (.tframe d a) :=
  of_fields rfl (by simp [Instr.stream, Instr.ctorIdx, decodeFields, decodeGig, fld_ofNat, ofNat_cat, cat_div_hi, ofNat_cat_part, ofNat_cat_low, -BitVec.toNat_ofNat])

theorem trap (c : BitVec 6) : Statement (.trap c) :=
  of_fields rfl (by simp [Instr.stream, Instr.ctorIdx, decodeFields, decodeGig, fld_ofNat, ofNat_cat, cat_div_hi, ofNat_cat_part, ofNat_cat_low, -BitVec.toNat_ofNat])

theorem tret : Statement (.tret) :=
  of_fields rfl (by simp [Instr.stream, Instr.ctorIdx, decodeFields, decodeGig, fld_ofNat, ofNat_cat, cat_div_hi, ofNat_cat_part, ofNat_cat_low, -BitVec.toNat_ofNat])

theorem gigCsrr (d : BitVec 5) (c : BitVec 6) : Statement (.gigCsrr d c) :=
  of_fields rfl (by simp [Instr.stream, Instr.ctorIdx, decodeFields, decodeGig, fld_ofNat, ofNat_cat, cat_div_hi, ofNat_cat_part, ofNat_cat_low, -BitVec.toNat_ofNat])

theorem gigCsrw (a : BitVec 5) (c : BitVec 6) : Statement (.gigCsrw a c) :=
  of_fields rfl (by simp [Instr.stream, Instr.ctorIdx, decodeFields, decodeGig, fld_ofNat, ofNat_cat, cat_div_hi, ofNat_cat_part, ofNat_cat_low, -BitVec.toNat_ofNat])

theorem yield : Statement (.yield) :=
  of_fields rfl (by simp [Instr.stream, Instr.ctorIdx, decodeFields, decodeGig, fld_ofNat, ofNat_cat, cat_div_hi, ofNat_cat_part, ofNat_cat_low, -BitVec.toNat_ofNat])

theorem gigHalt : Statement (.gigHalt) :=
  of_fields rfl (by simp [Instr.stream, Instr.ctorIdx, decodeFields, decodeGig, fld_ofNat, ofNat_cat, cat_div_hi, ofNat_cat_part, ofNat_cat_low, -BitVec.toNat_ofNat])

theorem trace (a : BitVec 5) (t : BitVec 6) : Statement (.trace a t) :=
  of_fields rfl (by simp [Instr.stream, Instr.ctorIdx, decodeFields, decodeGig, fld_ofNat, ofNat_cat, cat_div_hi, ofNat_cat_part, ofNat_cat_low, -BitVec.toNat_ofNat])

theorem rng (d : BitVec 5) (a : BitVec 5) (b : BitVec 5) (s : BitVec 6) : Statement (.rng d a b s) :=
  of_fields rfl (by simp [Instr.stream, Instr.ctorIdx, decodeFields, decodeGig, fld_ofNat, ofNat_cat, cat_div_hi, ofNat_cat_part, ofNat_cat_low, -BitVec.toNat_ofNat])

theorem leave (d : BitVec 5) (a : BitVec 5) (c : BitVec 1) : Statement (.leave d a c) :=
  of_fields rfl (by simp [Instr.stream, Instr.ctorIdx, decodeFields, decodeGig, fld_ofNat, ofNat_cat, cat_div_hi, ofNat_cat_part, ofNat_cat_low, -BitVec.toNat_ofNat])

theorem euBarrierArrive (t : Nat) (j : Nat) : Statement (.euBarrierArrive t j) := fun _ _ h => nomatch h

theorem euMutexAcquire (t : Nat) (j : Nat) : Statement (.euMutexAcquire t j) := fun _ _ h => nomatch h

theorem euMutexRelease (t : Nat) (j : Nat) : Statement (.euMutexRelease t j) := fun _ _ h => nomatch h

theorem euEventWait (t : Nat) (j : Nat) : Statement (.euEventWait t j) := fun _ _ h => nomatch h

theorem euEventSet (t : Nat) (j : Nat) : Statement (.euEventSet t j) := fun _ _ h => nomatch h

theorem shoot (t : Nat) (j : Nat) : Statement (.shoot t j) := fun _ _ h => nomatch h

theorem done (t : Nat) (j : Nat) : Statement (.done t j) := fun _ _ h => nomatch h

theorem registerWrite (g : Nat) : Statement (.registerWrite g) := fun _ _ h => nomatch h

theorem resultComplete (g : Nat) : Statement (.resultComplete g) := fun _ _ h => nomatch h

theorem scfgTakesEffect (g : Nat) : Statement (.scfgTakesEffect g) := fun _ _ h => nomatch h

theorem tlbpResult (g : Nat) : Statement (.tlbpResult g) := fun _ _ h => nomatch h

theorem ldcmComplete (g : Nat) : Statement (.ldcmComplete g) := fun _ _ h => nomatch h

theorem rmwFinalWrite (g : Nat) : Statement (.rmwFinalWrite g) := fun _ _ h => nomatch h

theorem hldLanding (g : Nat) : Statement (.hldLanding g) := fun _ _ h => nomatch h

theorem hstCompletion (g : Nat) : Statement (.hstCompletion g) := fun _ _ h => nomatch h

theorem hbmSlotTransfer (j : Nat) : Statement (.hbmSlotTransfer j) := fun _ _ h => nomatch h

theorem hbmUnitArrival (g : Nat) (late : Nat) : Statement (.hbmUnitArrival g late) := fun _ _ h => nomatch h

theorem hbmSlotRefusal (g : Nat) : Statement (.hbmSlotRefusal g) := fun _ _ h => nomatch h

theorem hbmRefresh (j : Nat) : Statement (.hbmRefresh j) := fun _ _ h => nomatch h

theorem scrub (u : Nat) (a : Nat) (bad : Bool) : Statement (.scrub u a bad) := fun _ _ h => nomatch h

theorem wordArrival (d : Nat) : Statement (.wordArrival d) := fun _ _ h => nomatch h

theorem relayLanding (g : Nat) : Statement (.relayLanding g) := fun _ _ h => nomatch h

theorem boundaryChannelOverflow (d : Nat) : Statement (.boundaryChannelOverflow d) := fun _ _ h => nomatch h

theorem drawbarArrival (g : Nat) : Statement (.drawbarArrival g) := fun _ _ h => nomatch h

theorem linkPlanRead (k : Nat) (j : Nat) : Statement (.linkPlanRead k j) := fun _ _ h => nomatch h

theorem linkPlanLanding (k : Nat) (j : Nat) : Statement (.linkPlanLanding k j) := fun _ _ h => nomatch h

theorem nestKStep (g : Nat) : Statement (.nestKStep g) := fun _ _ h => nomatch h

theorem nestDone (g : Nat) : Statement (.nestDone g) := fun _ _ h => nomatch h

theorem sidebandAtk (d : Nat) (n : Nat) : Statement (.sidebandAtk d n) := fun _ _ h => nomatch h

theorem alignRelease (d : Nat) : Statement (.alignRelease d) := fun _ _ h => nomatch h

theorem alignSlip (d : Nat) : Statement (.alignSlip d) := fun _ _ h => nomatch h

theorem freezeTakesEffect (k : Nat) : Statement (.freezeTakesEffect k) := fun _ _ h => nomatch h

theorem freezeNotice (k : Nat) : Statement (.freezeNotice k) := fun _ _ h => nomatch h

theorem extIntTaken (t : Nat) : Statement (.extIntTaken t) := fun _ _ h => nomatch h

theorem extRequestArrival (k : Nat) : Statement (.extRequestArrival k) := fun _ _ h => nomatch h

theorem tresumePerform (k : Nat) : Statement (.tresumePerform k) := fun _ _ h => nomatch h

theorem restart (d : Nat) : Statement (.restart d) := fun _ _ h => nomatch h

theorem pipelineFinished (g : Nat) : Statement (.pipelineFinished g) := fun _ _ h => nomatch h

theorem timedGlobalStart (k : Nat) : Statement (.timedGlobalStart k) := fun _ _ h => nomatch h

theorem postArrival (t : Nat) : Statement (.postArrival t) := fun _ _ h => nomatch h

theorem brakeHoldStart (d : Nat) : Statement (.brakeHoldStart d) := fun _ _ h => nomatch h

theorem brakeRelease (d : Nat) : Statement (.brakeRelease d) := fun _ _ h => nomatch h

theorem brakeLimit (d : Nat) : Statement (.brakeLimit d) := fun _ _ h => nomatch h

theorem layoverSettle (d : Nat) : Statement (.layoverSettle d) := fun _ _ h => nomatch h

theorem turnpikeDelayEnd (d : Nat) : Statement (.turnpikeDelayEnd d) := fun _ _ h => nomatch h

theorem allowanceChange (d : Nat) (ta : Nat) (lb : Nat) : Statement (.allowanceChange d ta lb) := fun _ _ h => nomatch h

theorem powerCap (watts : Nat) : Statement (.powerCap watts) := fun _ _ h => nomatch h

theorem wake (c : Nat) : Statement (.wake c) := fun _ _ h => nomatch h

theorem groupExit (c : Nat) : Statement (.groupExit c) := fun _ _ h => nomatch h

theorem dynLaunchComplete (l : Nat) : Statement (.dynLaunchComplete l) := fun _ _ h => nomatch h

theorem contextStart (c : Nat) : Statement (.contextStart c) := fun _ _ h => nomatch h

theorem childArrival (c : Nat) : Statement (.childArrival c) := fun _ _ h => nomatch h

theorem barrierRelease (c : Nat) : Statement (.barrierRelease c) := fun _ _ h => nomatch h

theorem evmsgArrival (c : Nat) : Statement (.evmsgArrival c) := fun _ _ h => nomatch h

theorem layoverNotice (c : Nat) : Statement (.layoverNotice c) := fun _ _ h => nomatch h

theorem childCompletion (c : Nat) : Statement (.childCompletion c) := fun _ _ h => nomatch h

theorem waitpTimeout (t : Nat) : Statement (.waitpTimeout t) := fun _ _ h => nomatch h

theorem sendAccept (t : Nat) : Statement (.sendAccept t) := fun _ _ h => nomatch h

theorem cardStart (c : Nat) (j : Nat) : Statement (.cardStart c j) := fun _ _ h => nomatch h

theorem rowLanded (c : Nat) (j : Nat) : Statement (.rowLanded c j) := fun _ _ h => nomatch h

theorem cardRetire (c : Nat) (j : Nat) : Statement (.cardRetire c j) := fun _ _ h => nomatch h

theorem cardFault (c : Nat) (j : Nat) : Statement (.cardFault c j) := fun _ _ h => nomatch h

theorem cardLeaveRetry (c : Nat) (j : Nat) : Statement (.cardLeaveRetry c j) := fun _ _ h => nomatch h

theorem grantExpiry (d : Nat) : Statement (.grantExpiry d) := fun _ _ h => nomatch h

theorem sliceExpiry (c : Nat) : Statement (.sliceExpiry c) := fun _ _ h => nomatch h

theorem switchOut (c : Nat) : Statement (.switchOut c) := fun _ _ h => nomatch h

theorem contextRestore (c : Nat) : Statement (.contextRestore c) := fun _ _ h => nomatch h

theorem shootdownComplete (k : Nat) : Statement (.shootdownComplete k) := fun _ _ h => nomatch h

theorem portalDmwr (port : Nat) (a : Nat) (w : List Word) : Statement (.portalDmwr port a w) := fun _ _ h => nomatch h

theorem portalPostedWrite (port : Nat) : Statement (.portalPostedWrite port) := fun _ _ h => nomatch h

theorem mctpPacket (w : List Word) : Statement (.mctpPacket w) := fun _ _ h => nomatch h

theorem launchTimed (j : Nat) : Statement (.launchTimed j) := fun _ _ h => nomatch h

theorem launchDyn (j : Nat) : Statement (.launchDyn j) := fun _ _ h => nomatch h

theorem copy (j : Nat) : Statement (.copy j) := fun _ _ h => nomatch h

theorem copyFill (j : Nat) : Statement (.copyFill j) := fun _ _ h => nomatch h

theorem signalSet (j : Nat) : Statement (.signalSet j) := fun _ _ h => nomatch h

theorem signalAdd (j : Nat) : Statement (.signalAdd j) := fun _ _ h => nomatch h

theorem wait (j : Nat) : Statement (.wait j) := fun _ _ h => nomatch h

theorem waitComplete (j : Nat) : Statement (.waitComplete j) := fun _ _ h => nomatch h

theorem configDiffApply (j : Nat) : Statement (.configDiffApply j) := fun _ _ h => nomatch h

theorem configDiffRollback (j : Nat) : Statement (.configDiffRollback j) := fun _ _ h => nomatch h

theorem configSwap (k : Nat) : Statement (.configSwap k) := fun _ _ h => nomatch h

theorem queryIdentity (j : Nat) : Statement (.queryIdentity j) := fun _ _ h => nomatch h

theorem queryPartitionMap (j : Nat) : Statement (.queryPartitionMap j) := fun _ _ h => nomatch h

theorem queryLaunchState (j : Nat) : Statement (.queryLaunchState j) := fun _ _ h => nomatch h

theorem querySeedRecords (j : Nat) : Statement (.querySeedRecords j) := fun _ _ h => nomatch h

theorem queryHealth (j : Nat) : Statement (.queryHealth j) := fun _ _ h => nomatch h

theorem queryCounters (j : Nat) : Statement (.queryCounters j) := fun _ _ h => nomatch h

theorem queryAttestation (j : Nat) : Statement (.queryAttestation j) := fun _ _ h => nomatch h

theorem fwUpdate (j : Nat) : Statement (.fwUpdate j) := fun _ _ h => nomatch h

theorem partitionCreate (j : Nat) : Statement (.partitionCreate j) := fun _ _ h => nomatch h

theorem partitionDestroy (j : Nat) : Statement (.partitionDestroy j) := fun _ _ h => nomatch h

theorem completionRecordWrite (j : Nat) : Statement (.completionRecordWrite j) := fun _ _ h => nomatch h

theorem ownClaim (m : Nat) : Statement (.ownClaim m) := fun _ _ h => nomatch h

theorem ownSucc (m : Nat) (succ : Nat) : Statement (.ownSucc m succ) := fun _ _ h => nomatch h

theorem succTimeout : Statement (.succTimeout) := fun _ _ h => nomatch h

theorem ownerLoss : Statement (.ownerLoss) := fun _ _ h => nomatch h

theorem spdmGetMeasurements (nonce : BitVec 384) : Statement (.spdmGetMeasurements nonce) := fun _ _ h => nomatch h

theorem packageReset (bad : List Nat) : Statement (.packageReset bad) := fun _ _ h => nomatch h

theorem powerLoss : Statement (.powerLoss) := fun _ _ h => nomatch h

theorem domainFormation (n : Nat) : Statement (.domainFormation n) := fun _ _ h => nomatch h

theorem linkFreezeNotice (k : Nat) : Statement (.linkFreezeNotice k) := fun _ _ h => nomatch h

theorem linkRestartNotice (k : Nat) : Statement (.linkRestartNotice k) := fun _ _ h => nomatch h

theorem uetCompletion (k : Nat) (ctr : Nat) (v : Word) (line : Option Nat) : Statement (.uetCompletion k ctr v line) := fun _ _ h => nomatch h

theorem accessReachesTarget (t : Nat) (j : Nat) : Statement (.accessReachesTarget t j) := fun _ _ h => nomatch h

theorem completionTimeout (t : Nat) (j : Nat) : Statement (.completionTimeout t j) := fun _ _ h => nomatch h

theorem unassignedTimedWord (x : BitVec 32) : Statement (.unassignedTimedWord x) := fun _ _ h => nomatch h

theorem unassignedGigWord (x : BitVec 32) : Statement (.unassignedGigWord x) := fun _ _ h => nomatch h

end Sys2Proof.Laws.Encoding
end

