-- ==== Sys2Proof/Laws/Timed.lean ====
section
/-! SUPPORT. The frame of every timed word: what the shared operations leave when the word is legal and timely, and what
an illegal one leaves. -/
namespace Sys2Proof.Machine

@[simp] theorem Pipe.detect_nil (p : Pipe) : p.detect [] = p := by simp [Pipe.detect]

@[simp] theorem Pipe.drawn_zero (p : Pipe) : p.drawn 0 = p := by simp [Pipe.drawn]

@[simp] theorem State.fails_false (s : State) (k : StreamKind) (c d n : Nat) : s.fails false k c d n = [] := rfl

@[simp] theorem State.fails_true (s : State) (k : StreamKind) (c d n : Nat) :
    s.fails true k c d n = [s.me.wordDet k c d n] := rfl

@[simp] theorem Pipe.parityIn_nil (p : Pipe) : p.parityIn [] = false := rfl

@[simp] theorem Pipe.parityDets_nil (p : Pipe) (k : StreamKind) : p.parityDets k [] = [] := rfl

/-- A timely word reads no register with a parity error. -/
theorem State.parityIn_timely (s : State) (qs : List RegRef) (h : s.timely qs = true) : s.me.parityIn qs = false := by
  simp only [State.timely, Bool.and_eq_true, Bool.not_eq_true'] at h
  exact h.1

/-- A timely word meets no parity error. -/
theorem State.parityDets_timely (s : State) (k : StreamKind) (qs : List RegRef) (h : s.timely qs = true) :
    s.me.parityDets k qs = [] := by
  simp [Pipe.parityDets, s.parityIn_timely qs h]

/-- A timely word is no SCORE slip. -/
theorem State.scores_timely (s : State) (k : StreamKind) (qs : List RegRef) (h : s.timely qs = true) :
    s.me.scores k qs = [] := by
  unfold Pipe.scores
  split
  · rename_i hc
    simp only [State.timely, hc, Bool.not_true, Bool.false_or, Bool.and_eq_true, List.all_eq_true, Bool.not_eq_true'] at h
    simp only [List.map_eq_nil_iff, List.filter_eq_nil_iff]
    intro q hq
    simp [h.2 q hq]
  · rfl

/-- A legal, timely word that fails no condition has its effect, draws, and passes on. -/
theorem State.timedTo_legal (s : State) (i : Instr) (k : StreamKind) (srcs : List RegRef) (draws : Nat) (nf : Tick)
    (span : Bool) (eff : State → State) (hw : i.wellFormed = true) (ht : s.timely srcs = true) :
    s.timedTo i k srcs [] draws nf span eff =
      ((eff (s.setPipe s.curPipe s.me)).onPipe s.curPipe (fun p => p.drawn draws)).onPipe s.curPipe
        (fun p => p.afterWord k nf span) := by
  have h := s.scores_timely k srcs ht
  have h' := s.parityDets_timely k srcs ht
  simp only [State.me] at h h'
  simp [State.timedTo, hw, h, h', State.me]

/-- A legal, timely word of its own pipeline leaves that pipeline changed by its effect, and nothing else. -/
theorem State.timedPipe_legal (s : State) (i : Instr) (k : StreamKind) (srcs : List RegRef) (eff : Tick → Pipe → Pipe)
    (hw : i.wellFormed = true) (ht : s.timely srcs = true) :
    s.timedPipe i k srcs [] eff = s.setPipe s.curPipe ((eff s.atk s.me).afterWord k (s.atk + 1) false) := by
  rw [State.timedPipe, State.timed, State.timedTo_legal _ _ _ _ _ _ _ _ hw ht]
  simp [State.onPipe, State.atk]

/-- A word with a reserved field, or an operand that its form forbids, is an illegal word. -/
theorem State.timedTo_illegal (s : State) (i : Instr) (k : StreamKind) (srcs : List RegRef) (chk : List Det) (draws : Nat)
    (nf : Tick) (span : Bool) (eff : State → State) (hw : i.wellFormed = false) :
    s.timedTo i k srcs chk draws nf span eff = s.illegal k 0 := by
  simp [State.timedTo, hw]

/-- An illegal word leaves a detection of ILL_OP and the next word's place, and changes nothing else. -/
theorem State.illegal_eq (s : State) (k : StreamKind) (n : Nat) :
    s.illegal k n = s.setPipe s.curPipe
      ((s.me.detect [s.me.wordDet k causeIllOp 0 n]).afterWord k (s.atk + 1) false) := rfl

end Sys2Proof.Machine
end

