-- ==== Sys2Proof/Tests/Slice0.lean ====
section
/-! SUPPORT. Tests: terms that WellFormed refuses, words written out in the spec's worked examples and what they decode to, a witness
for each clause of the statements, and values of the spec's worked examples, each about one operation or one step. -/
open Sys2Proof Sys2Proof.Machine
namespace Sys2Proof.Tests
set_option Elab.async false

/-! ### Ill-formed terms, one for each check (03 R74, R75, R89) -/

theorem test_ill_formed_cmp : (Instr.cmp 0 1 2 3 6).wellFormed = false := by decide
theorem test_ill_formed_cmpi : (Instr.cmpi 0 1 2 6 0).wellFormed = false := by decide
theorem test_ill_formed_loop : (Instr.loop 0 1 0 1).wellFormed = false ∧ (Instr.loop 0 1 1 0).wellFormed = false := by decide
theorem test_ill_formed_span : (Instr.lspan 0 0).wellFormed = false ∧ (Instr.xlspan 0 0).wellFormed = false := by decide
theorem test_ill_formed_c_tokens : (Instr.cGive 0 3 1).wellFormed = false ∧ (Instr.cGive 0 0 0).wellFormed = false ∧
    (Instr.cTake 0 5 1).wellFormed = false ∧ (Instr.cTake 0 4 0).wellFormed = false := by decide
theorem test_ill_formed_l_tokens : (Instr.lGive 0 2 1).wellFormed = false ∧ (Instr.lGive 0 3 0).wellFormed = false ∧
    (Instr.lTake 0 1 1).wellFormed = false ∧ (Instr.lTake 0 0 0).wellFormed = false := by decide
theorem test_ill_formed_s_tokens : (Instr.sGive 0 8 1).wellFormed = false ∧ (Instr.sGive 0 9 0).wellFormed = false ∧
    (Instr.sTake 0 3 1).wellFormed = false ∧ (Instr.sTake 0 2 0).wellFormed = false := by decide
theorem test_ill_formed_x_tokens : (Instr.xGive 0 9 1).wellFormed = false ∧ (Instr.xGive 0 6 0).wellFormed = false ∧
    (Instr.xTake 0 2 1).wellFormed = false ∧ (Instr.xTake 0 1 0).wellFormed = false := by decide
theorem test_ill_formed_sqw : (Instr.sqw 0 3 1).wellFormed = false := by decide
theorem test_ill_formed_nest : (Instr.nest 0 6 0 1).wellFormed = false ∧ (Instr.nest 0 0 6 1).wellFormed = false ∧
    (Instr.nest 0 0 7 1).wellFormed = false ∧ (Instr.nest 0 1 8 1).wellFormed = false := by decide
theorem test_ill_formed_csr : (Instr.csrr 0 1 6).wellFormed = false ∧ (Instr.csrr 0 1 0xC).wellFormed = false ∧
    (Instr.csrw 0 1 7).wellFormed = false ∧ (Instr.csrw 0 1 0x20).wellFormed = false := by decide
theorem test_ill_formed_l_streams : (Instr.lScfg 0 8 1 0).wellFormed = false ∧ (Instr.lSadv 0 8 0).wellFormed = false ∧
    (Instr.ldq 0 4 0).wellFormed = false ∧ (Instr.ldq 0 0 8).wellFormed = false ∧ (Instr.gath 0 8 1 0).wellFormed = false ∧
    (Instr.hld 0 8 1 0).wellFormed = false ∧ (Instr.lTlbp 0 8).wellFormed = false ∧ (Instr.bout 0 8).wellFormed = false := by decide
theorem test_ill_formed_s_streams : (Instr.sScfg 0 7 1 0).wellFormed = false ∧ (Instr.sSadv 0 7 0).wellFormed = false ∧
    (Instr.hst 0 7 1 0).wellFormed = false ∧ (Instr.sTlbp 0 7).wellFormed = false := by decide
theorem test_ill_formed_stq : (Instr.stq 0 3 8 0 0 0 0 0).wellFormed = false ∧ (Instr.stq 0 4 7 0 0 0 0 0).wellFormed = false ∧
    (Instr.stq 0 4 8 7 0 0 0 0).wellFormed = false ∧ (Instr.stq 0 4 8 0 6 0 0 0).wellFormed = false := by decide
theorem test_ill_formed_relay : (Instr.send 0 3 0).wellFormed = false ∧ (Instr.mcast 0 6 0 0).wellFormed = false := by decide
theorem test_ill_formed_rmw : (Instr.rmw 0 7 0 0 0).wellFormed = false ∧ (Instr.rmw 0 0 3 0 0).wellFormed = false := by decide
theorem test_ill_formed_vector_arith : (Instr.vadd 0 1 2 3 3 0 0 0).wellFormed = false ∧ (Instr.vsub 0 1 2 3 0 6 0 0).wellFormed = false ∧
    (Instr.vmul 0 1 2 3 7 0 0 0).wellFormed = false ∧ (Instr.vfma 0 1 2 3 0 6 0 0).wellFormed = false ∧
    (Instr.vfms 0 1 2 3 3 0 0 0).wellFormed = false := by decide
theorem test_ill_formed_vector_formats : (Instr.vmax 0 1 2 3 3 0).wellFormed = false ∧ (Instr.vmin 0 1 2 3 4 0).wellFormed = false ∧
    (Instr.vabs 0 1 2 3 0).wellFormed = false ∧ (Instr.vneg 0 1 2 6 0).wellFormed = false ∧
    (Instr.viadd 0 1 2 3 4 0 0).wellFormed = false ∧ (Instr.vimul 0 1 2 3 0 0 0).wellFormed = false := by decide
theorem test_ill_formed_vcvt : (Instr.vcvt 0 1 2 1 1 0 0 0).wellFormed = false ∧ (Instr.vcvt 0 1 2 0 1 6 0 0).wellFormed = false ∧
    (Instr.vcvt 0 1 2 5 6 1 0 0).wellFormed = false ∧ (Instr.vcvt 0 1 2 3 4 5 0 0).wellFormed = false := by decide
theorem test_ill_formed_vcmp : (Instr.vcmp 0 1 2 3 0 7 0).wellFormed = false ∧ (Instr.vcmp 0 1 2 3 7 6 0).wellFormed = false ∧
    (Instr.vcmp 0 1 2 3 1 0 0).wellFormed = false := by decide
theorem test_ill_formed_vred : (Instr.vred 0 1 2 0 0 5 0).wellFormed = false ∧ (Instr.vred 0 1 2 3 0 0 0).wellFormed = false ∧
    (Instr.vred 0 1 2 6 7 0 0).wellFormed = false := by decide
theorem test_ill_formed_queues : (Instr.vpop 0 1 4).wellFormed = false ∧ (Instr.vpush 0 1 3).wellFormed = false := by decide
theorem test_ill_formed_tables : (Instr.vtab 0 1 2 3 3 0 0 0).wellFormed = false ∧ (Instr.vrope 0 1 2 3 0 6 0).wellFormed = false ∧
    (Instr.vscl 0 1 2 3 0 0 0).wellFormed = false := by decide
theorem test_ill_formed_vmsk : (Instr.vmsk 0 1 2 3 8).wellFormed = false ∧ (Instr.vmsk 0 1 2 3 4).wellFormed = false ∧
    (Instr.vmsk 0 1 2 0 6).wellFormed = false := by decide
theorem test_ill_formed_accumulator : (Instr.accrd 0 1 3072).wellFormed = false ∧ (Instr.accwr 0 1 3072).wellFormed = false ∧
    (Instr.accz 0 48).wellFormed = false ∧ (Instr.accst 0 0 3072 0 0 0).wellFormed = false ∧ (Instr.accst 0 0 0 0 6 0).wellFormed = false ∧
    (Instr.accst 0 0 0 7 0 1).wellFormed = false ∧ (Instr.accst 0 0 0 5 1 0).wellFormed = false := by decide
theorem test_ill_formed_xloop : (Instr.xloop 0 0 1).wellFormed = false ∧ (Instr.xloop 0 1 0).wellFormed = false := by decide
theorem test_ill_formed_vldi : (Instr.vldi 0 1 3 0).wellFormed = false := by decide
theorem test_ill_formed_fence : (Instr.fence 5 0).wellFormed = false := by decide
theorem test_ill_formed_gig_float : (Instr.fadd 1 2 3 1 0).wellFormed = false ∧ (Instr.fsub 1 2 3 0 5).wellFormed = false ∧
    (Instr.fmul 1 2 3 0 6).wellFormed = false ∧ (Instr.fdiv 1 2 3 2 0).wellFormed = false ∧ (Instr.fsqrt 1 2 4 0).wellFormed = false ∧
    (Instr.fmin 1 2 3 1).wellFormed = false ∧ (Instr.fmax 1 2 3 2).wellFormed = false ∧ (Instr.feq 1 2 3 1).wellFormed = false ∧
    (Instr.flt 1 2 3 1).wellFormed = false ∧ (Instr.fle 1 2 3 1).wellFormed = false := by decide
theorem test_ill_formed_gig_fused : (Instr.fma 1 2 3 4 0 5).wellFormed = false ∧ (Instr.fms 1 2 3 4 0 6).wellFormed = false ∧
    (Instr.fnma 1 2 3 4 0 5).wellFormed = false := by decide
theorem test_ill_formed_fcvt : (Instr.fcvt 1 2 0 0 0).wellFormed = false ∧ (Instr.fcvt 1 2 0 3 5).wellFormed = false := by decide
theorem test_ill_formed_gig_system : (Instr.wid 1 6).wellFormed = false ∧ (Instr.gigCsrr 1 0xE).wellFormed = false ∧
    (Instr.gigCsrw 1 0xE).wellFormed = false := by decide
theorem test_ill_formed_hsift : (Instr.hsift 1 2 3 0).wellFormed = false ∧ (Instr.hsift 1 2 3 17).wellFormed = false := by decide
/-! ### Words written out in the spec's worked examples, and what they decode to -/

/-- The stream reads the word as the instruction. -/
def reads (k : StreamKind) (x : BitVec 32) (i : Instr) : Bool :=
  match decode k x with
  | .ok j => decide (j = i)
  | .error _ => false

/-- The stream refuses the word by the given name. -/
def refuses (k : StreamKind) (x : BitVec 32) (e : DecodeError) : Bool :=
  match decode k x with
  | .ok _ => false
  | .error f => decide (f = e)

/-- 03, the example of a short C stream, with Table 3-7. -/
theorem test_decode_c_example : reads .c 0x04900064#32 (.li 0 4 100) = true ∧ reads .c 0x01149FFD#32 (.addi 0 5 4 (-3)) = true ∧
    reads .c 0x00000005#32 (.idle 0 5) = true ∧ reads .c 0x45929100#32 (.cmp 2 1 5 4 2) = true ∧
    reads .c 0x08100002#32 (.br 0 1 0 2) = true ∧ reads .c 0x0E800001#32 (.stage 0 1) = true := by decide
/-- 04, the example of a loop. -/
theorem test_decode_loop_example : reads .c 0x09800004#32 (.lspan 0 4) = true ∧ reads .c 0x090C0403#32 (.loop 0 3 2 3) = true := by decide
/-- 06, the example of a nest, and that of the accumulator words. -/
theorem test_decode_nest_example : reads .c 0x12001000#32 (.nest 0 0 0 2) = true ∧ reads .c 0x120E1800#32 (.nest 0 0 14 3) = true ∧
    reads .c 0x120D2000#32 (.nest 0 0 13 4) = true ∧ reads .c 0x12800000#32 (.mgo 0) = true := by decide
theorem test_decode_accumulator_example : reads .x 0x101400C0#32 (.accrd 0 5 3) = true ∧ reads .x 0x110A0000#32 (.accz 0 5) = true ∧
    reads .x 0x11850080#32 (.accst 0 0 320 1 0 0) = true := by decide
/-- 09 and 10: tokens, layovers and posts. -/
theorem test_decode_token_example : reads .c 0x0C082000#32 (.cGive 0 1 1) = true ∧ reads .x 0x14084000#32 (.xTake 0 1 2) = true := by
  decide
theorem test_decode_layover_example : reads .c 0x100A0000#32 (.wopen 0 5) = true ∧ reads .c 0x108A0000#32 (.wclose 0 5) = true ∧
    reads .c 0x1190C000#32 (.postv 0 1 3) = true ∧ reads .c 0x11103000#32 (.postrd 0 4 3) = true := by decide
/-- 14, the words of its C stream. -/
theorem test_decode_attention_c : reads .c 0x0E000040#32 (.align 0 64) = true ∧ reads .c 0x100C0000#32 (.wopen 0 6) = true ∧
    reads .c 0x04950000#32 (.li 0 5 0x10000) = true ∧ reads .c 0x120A2800#32 (.nest 0 0 10 5) = true ∧
    reads .c 0x0D2A0000#32 (.sqw 0 1 10) = true ∧ reads .c 0x06AD2020#32 (.sel 0 11 9 0 1) = true ∧
    reads .c 0x07AC0020#32 (.sts 0 11 0 32) = true ∧ reads .c 0x19800000#32 (.halt 0) = true := by decide
/-- 15, the words of its C stream. -/
theorem test_decode_gelu_c : reads .c 0x09581404#32 (.loop 0 22 10 4) = true ∧ reads .c 0x098000C6#32 (.lspan 0 198) = true ∧
    reads .c 0x00B9540D#32 (.minu 0 14 10 20) = true ∧ reads .c 0x03BDE006#32 (.shri 0 15 15 6) = true := by decide
/-- 15 and 20, words of L. -/
theorem test_decode_l_examples : reads .l 0x00880001#32 (.lScfg 0 1 0 1) = true ∧ reads .l 0x06800000#32 (.ldcm 0 0 0) = true ∧
    reads .l 0x03910000#32 (.ldq 0 1 1) = true ∧ reads .l 0x028A0000#32 (.ali 0 1 0x20000) = true ∧
    reads .l 0x05100000#32 (.lTlbp 0 2) = true ∧ reads .l 0x04908002#32 (.hld 0 2 1 2) = true := by decide
/-- 05, 14 and 20, words of S. -/
theorem test_decode_s_examples : reads .s 0x23C91060#32 (.stq 1 4 9 1 0 0 1 1) = true ∧ reads .s 0x04C30000#32 (.send 0 4 3) = true ∧
    reads .s 0x00C00001#32 (.sScfg 0 8 0 1) = true ∧ reads .s 0x03C80000#32 (.stq 0 4 8 0 0 0 0 0) = true := by decide
/-- 07, its table of examples. -/
theorem test_decode_x_table : reads .x 0x020C2200#32 (.vfma 0 3 1 2 0 0 0 0) = true ∧ reads .x 0x05148037#32 (.vcvt 0 5 4 0 1 5 1 1) = true ∧
    reads .x 0x05082400#32 (.vcvt 0 2 1 1 0 0 0 0) = true ∧ reads .x 0x0C9CC600#32 (.vtab 0 7 6 3 0 0 0 0) = true ∧
    reads .x 0x0D184300#32 (.vrope 0 6 2 3 0 0 0) = true ∧ reads .x 0x0F801800#32 (.vmsk 0 0 0 0 6) = true ∧
    reads .x 0x0B080040#32 (.vsplQ 0 2 0) = true ∧ reads .x 0x0B840000#32 (.vpop 0 1 0) = true ∧
    reads .x 0x0C1E0000#32 (.vpush 0 7 4) = true ∧ reads .x 0x12800208#32 (.xloop 0 1 8) = true := by decide
theorem test_decode_x_loop : reads .x 0x13000004#32 (.xlspan 0 4) = true ∧ reads .x 0x12800203#32 (.xloop 0 1 3) = true ∧
    reads .x 0x00842200#32 (.vadd 0 1 1 2 0 0 0 0) = true := by decide
/-- 14 and 15, words of X. -/
theorem test_decode_x_programs : reads .x 0x1495FF80#32 (.vldi 0 5 1 0xFF80) = true ∧ reads .x 0x21842600#32 (.vmul 1 1 1 6 0 0 0 0) = true ∧
    reads .x 0x0F901800#32 (.vmsk 0 1 0 0 6) = true ∧ reads .x 0x26042520#32 (.vsel 1 1 1 5 1 0) = true ∧
    reads .x 0x058149E8#32 (.vcmp 0 0 10 9 7 2 0) = true ∧ reads .x 0x0C882021#32 (.vtab 0 2 1 0 1 0 0 1) = true ∧
    reads .x 0x09252BE0#32 (.viadd 0 9 9 11 7 0 0) = true ∧ reads .x 0x14ACFFC0#32 (.vldi 0 11 0 (-64)) = true := by decide
/-- 08, its tables of examples, and 03, the example of a load. -/
theorem test_decode_gig_memory : reads .gig 0x60A23402#32 (.ldw 5 2 3 2) = true ∧ reads .gig 0x64611600#32 (.std 3 1 1 0) = true ∧
    reads .gig 0x60821600#32 (.ldd 4 2 1 0) = true ∧ reads .gig 0x622F0C00#32 (.ldwu 17 15 0 0) = true ∧
    reads .gig 0x67BB0400#32 (.stw 29 27 0 0) = true ∧ reads .gig 0x6C20000C#32 (.fence 1 0xC) = true ∧
    reads .gig 0x6C600006#32 (.fence 3 6) = true := by decide
theorem test_decode_gig_float : reads .gig 0x84221900#32 (.fma 1 2 3 4 0 0) = true ∧ reads .gig 0x804302C0#32 (.fexp2 2 3) = true ∧
    reads .gig 0x80852280#32 (.fcvt 4 5 4 0 0) = true ∧ reads .gig 0x829402A9#32 (.fcvt 20 20 0 5 1) = true ∧
    reads .gig 0x82719000#32 (.fadd 19 17 18 0 0) = true ∧ reads .gig 0x8294A8C0#32 (.fdiv 20 20 21 0 0) = true := by decide
theorem test_decode_gig_sync : reads .gig 0xA0800002#32 (.arrive 4 2) = true ∧ reads .gig 0xA0A63842#32 (.waitp 5 6 7 2) = true ∧
    reads .gig 0xA8C00042#32 (.wid 6 2) = true ∧ reads .gig 0xAD2A5802#32 (.hsift 9 10 11 2) = true ∧
    reads .gig 0xAC032040#32 (.cntadd 3 4) = true ∧ reads .gig 0xAC1D189F#32 (.cntsnap 29 3 31) = true ∧
    reads .gig 0xB8432005#32 (.post 2 3 4 5) = true ∧ reads .gig 0xB5A40000#32 (.wbill 13 4) = true := by decide
theorem test_decode_gig_system : reads .gig 0xC0A0008B#32 (.gigCsrr 5 0xB) = true ∧ reads .gig 0xC0000040#32 .tret = true ∧
    reads .gig 0xC02001C0#32 (.rng 1 0 0 0) = true ∧ reads .gig 0xC0640200#32 (.leave 3 4 0) = true ∧
    reads .gig 0xC0000140#32 .gigHalt = true ∧ reads .gig 0xC0000001#32 (.trap 1) = true ∧
    reads .gig 0xC01900C3#32 (.gigCsrw 25 3) = true := by decide
theorem test_decode_gig_branches : reads .gig 0x40200005#32 (.beq 1 0 5) = true ∧ reads .gig 0x4720FFF6#32 (.bne 25 0 (-10)) = true := by
  decide
theorem test_decode_gig_plane : reads .gig 0xB8A00040#32 (.tfreeze 5 0) = true ∧ reads .gig 0xB8A00041#32 (.tfreeze 5 1) = true ∧
    reads .gig 0xB8A00080#32 (.tresume 5) = true ∧ reads .gig 0xB8C700C0#32 (.tframe 6 7) = true := by decide
/-- 18, its table of examples. -/
theorem test_decode_livery : reads .gig 0xB0A60001#32 (.balloc 5 6 1) = true ∧ reads .gig 0xB0063840#32 (.bfree 6 7) = true ∧
    reads .gig 0xB0A63880#32 (.bfork 5 6 7 0) = true ∧ reads .gig 0xB10638C0#32 (.bmap 8 6 7) = true ∧
    reads .gig 0xB1263900#32 (.bappend 9 6 7 0) = true := by decide
/-- 08: SRAI d3, d4, 70 has no legal word: bits above the count are reserved, and its word is refused by name. -/
theorem test_decode_refuses : refuses .gig 0x1C640046#32 .reservedField = true ∧
    refuses .c 0x0B000000#32 .unassignedOpcode = true := by decide


/-! ### States for the witnesses and for the tests -/

/-- A partition of die 0 alone, with every slot. -/
def part1 : Partition := { configured := true, tsmask := 0xFFFF }
/-- A state in which pipeline 0 of die 0 acts. -/
def pipeOne (p : Pipe) : State := { pipes := [(0, p)], parts := [(0, part1)] }
/-- The same with a timed launch and a die. -/
def pipeRun (p : Pipe) (r : TimedRun) (x : Die) : State := { pipes := [(0, p)], dies := [(0, x)], parts := [(0, { part1 with run := r })] }
/-- A state in which thread 0 runs in the one context of coach 0. -/
def gigOne (th : Thread) : State :=
  { parts := [(0, part1)]
    coaches := [(0, { run := some 0, ctxs := [(0, { lid := 1, threads := [(0, th)], slice := 8192, sliceEnd := 8192 })] })] }
/-- A running supervisor thread with two registers set. -/
def live : Thread := { phase := .running, level := true, regs := [(1, 5), (2, 0xFFFFFFFFFFFFFFFE)] }
/-- What `f` gives of the next state, if there is one. -/
def after {α : Type} (o : Host.Outcome State Fault Refusal) (f : State → α) : Option α :=
  match o with
  | .next s => some (f s)
  | _ => none
/-- A pipeline with the PC of C at word `n`. -/
def atWord (n : Nat) : Pipe := { c := { pc := n } }

/-! ### Witnesses: encodings and steps (O1 to O4) -/

theorem witness_DecodeOfEncode : (Instr.stq 1 4 9 1 0 0 1 1).wellFormed = true ∧ encode (.stq 1 4 9 1 0 0 1 1) = some 0x23C91060#32 := by
  decide
theorem witness_EncodeOfDecode : ∃ i, decode .gig 0xC0000040#32 = .ok i := ⟨.tret, rfl⟩
theorem witness_UnassignedOpcodeRejected :
    Claims.unassignedOpcode .c 0x16 = true ∧ Claims.unassignedOpcode .c 0x2F = true ∧ Claims.unassignedOpcode .c 0x34 = true ∧
    Claims.unassignedOpcode .c ((0xFF800000#32 >>> 23).toNat % 64) = true ∧ Claims.unassignedOpcode .l 0x10 = true ∧
    Claims.unassignedOpcode .s 0x11 = true ∧ Claims.unassignedOpcode .x 0x2A = true ∧ Claims.unassignedOpcode .c 0x33 = false := by decide
/-- The state in which thread 0 fetches the word of zeros, ADD d0, d0, d0. -/
def gigNext : State := (State.reset.placeGig 0x00000000#32)
/-- That state in the turn of thread 0. -/
def gigTurn : State := ({ gigNext with schedule := [] } : State).atTurn 0 0
theorem witness_StepRunsGigInstruction_state :
    gigNext.schedule = [.gig 0 0] ∧ gigNext.fw.powered = true ∧ (gigTurn.thread 0).free 0 = true ∧
    gigTurn.inSlice 0 (gigNext.turnAt 0 0) = true ∧ (gigTurn.thread 0).ext = [] := by decide
theorem witness_StepRunsGigInstruction_fetch : (gigTurn.fetch 0).1 = .word 0x00000000#32 ∧
    ∃ i, decode .gig 0x00000000#32 = .ok i := ⟨by decide, _, rfl⟩
def timedNext : State := State.reset.placeTimed .c 0x04900064#32
theorem witness_StepRunsTimedInstruction :
    timedNext.schedule = [.die 0] ∧ timedNext.fw.powered = true ∧ (timedNext.die 0).work.head? = some (.issue 0 .c) ∧
    ((timedNext.pipe 0).seq .c).pc < 16384 ∧ ((timedNext.pipe 0).seq .c).bad = [] ∧
    decode .c (((timedNext.pipe 0).seq .c).imem.get ((timedNext.pipe 0).seq .c).pc 0) = .ok (.li 0 4 100) :=
  ⟨by decide, by decide, by decide, by decide, by decide, rfl⟩
theorem witness_StepRunsEvent :
    ({ schedule := [.event (.resultComplete 0)] } : State).schedule = [.event (.resultComplete 0)] ∧
    ({ schedule := [.event (.resultComplete 0)] } : State).fw.powered = true := by decide

/-! ### Witnesses: C (O5 to O13) -/

theorem witness_ScalarWords : Claims.cResult (pipeOne {}) (.cmpi 0 1 2 5 0x1FFF) = some ([.s 2], 1, .preg 1 (condHolds 5 0 (-1))) ∧
    (Instr.cmpi 0 1 2 5 0x1FFF).wellFormed = true ∧ (pipeOne { csr := { tpctl := 1 } }).timely [.s 2] = true := by decide
/-- Offset 0 is in the first word and 0x5FFFF8 in the last. -/
theorem witness_ScalarMemory : ((0x5FFFF8 : Word) + (0 : BitVec 13).signExtend 64 * 8).toNat = 0x5FFFF8 ∧ 0x5FFFF8 % 8 = 0 ∧
    (pipeOne {}).bankSlips 0 0 0 0x5FFFF8 8 = [] ∧ (pipeOne {}).eccSlips 0 0 0 0x5FFFF8 8 = [] ∧
    (pipeOne {}).bankSlips 0 0 0 0 8 = [] ∧ (pipeOne {}).timely [.s 2, .s 1] = true := by decide
theorem witness_Branches_taken : (pipeOne (atWord 10)).me.c.badTarget (branchTarget 10 (16373 : BitVec 19)) = false ∧
    branchTarget 10 (16373 : BitVec 19) = 16383 ∧ ((pipeOne (atWord 10)).me.preg 0 != decide ((0 : BitVec 1) = 1)) = true ∧
    (pipeOne (atWord 10)).timely [.p 0] = true := by decide
theorem witness_Branches_brp : (pipeOne { q := { bq := List.replicate 15 { ready := 0, val := true } } }).me.q.bq.length < 16 ∧
    ((pipeOne {}).me.preg 1 != decide ((0 : BitVec 1) = 1)) = false := by decide
theorem witness_Branches_call : 0 ≤ branchTarget 10 (-10 : BitVec 19) ∧ branchTarget 10 (-10 : BitVec 19) ≤ 16383 ∧
    (pipeOne { c := { pc := 10, rets := List.replicate 7 0 } }).me.c.rets.length < 8 := by decide
theorem witness_Branches_ret : (pipeOne { c := { rets := [16383] } }).me.c.rets = 16383 :: [] ∧ 16383 ≤ 16383 := by decide
theorem witness_Loops : (Instr.lspan 0 4).wellFormed = true ∧ (Instr.xlspan 0 1).wellFormed = true ∧
    (Instr.loop 0 0 2 3).wellFormed = true ∧ (pipeOne { c := { fresh := true, span := 4 } }).me.c.badLoop 2 = false ∧
    (pipeOne {}).timely [.s 0] = true := by decide
theorem witness_Loops_counts : Nat.min ((pipeOne {}).me.sreg 0).toNat 3 = 0 ∧
    Nat.min ((pipeOne { regs := { sr := [(1, 9)] } }).me.sreg 1).toNat 3 = 3 := by decide
theorem witness_TokenWords : Claims.tokenWord (.cGive 0 1 63) = some (.c, true, 1, 63) ∧ (Instr.cGive 0 1 63).wellFormed = true ∧
    Claims.tokenWord (.xTake 0 1 2) = some (.x, false, 1, 2) ∧ (Instr.xTake 0 1 2).wellFormed = true := by decide
theorem witness_ScalarQueues : (Instr.sqw 0 2 1).wellFormed = true ∧ (pipeOne {}).timely [.s 1] = true ∧ (pipeOne {}).timely [.p 1] = true ∧
    qHead (pipeOne { q := { ql := [{ ready := 0, val := 7 }] } }).me.q.ql (pipeOne {}).atk = some 7 ∧
    qHead (pipeOne { q := { qs := [{ ready := 0, val := 7 }] } }).me.q.qs (pipeOne {}).atk = some 7 := by decide
theorem witness_SystemEffects : (Instr.csrw 0 1 8).wellFormed = true ∧ (pipeOne {}).timely [.s 1] = true := by decide
theorem witness_IllegalWords : (Instr.cGive 0 3 1).wellFormed = false := by decide
theorem witness_IdleDelays : StreamKind.s ≠ .gig := by decide

/-- A stage table of one stage, named 1, that starts at 0 with a relay of 100 cycles. -/
def stage1 : StageEntry :=
  { hmax := 6, pclass := 0, n := 1, start := 0, rlen := 100, rstart := 0, period := 0, repeats := 1, rsvOk := true }
/-- A layover of slots 0 and 1 on pipeline 0 of die 0, in bank 3. -/
def lay1 : LayDesc :=
  { settle := 4, npub := 1, brake := false, id := 5, limit := 0, nsen := false, noen := false, nsettle := 0, nopen := 0, ncoach := 0,
    dies := 1, pipes := 1, banks := 8, slots := 3, defaults := [7, 8], pubs := [], rsvOk := true }
def runOne : TimedRun := { phase := .running, stages := [stage1], lays := [(5, lay1)], cmem := [(15, [])] }
theorem witness_AlignAndStage : (Instr.align 0 64).wellFormed = true ∧ stageAt [stage1] (runOne.tau (pipeRun {} runOne {}).atk) = some stage1 ∧
    stage1.n = (1 : BitVec 23).toNat ∧ stagesBefore [stage1] (runOne.tau (pipeRun {} runOne {}).atk) = (pipeRun {} runOne {}).me.stages ∧
    (Instr.stage 0 1).wellFormed = true ∧ ((pipeRun {} runOne {}).part (pipeRun {} runOne {}).curPart).run = runOne := by decide
theorem witness_LayoverWords_open : layOf ((pipeRun {} runOne {}).lays 0) 5 = some lay1 ∧
    wopenBad ((pipeRun {} runOne {}).lays 0) ((pipeRun {} runOne {}).die 0) 0 5 = false ∧ ((pipeRun {} runOne {}).die 0).atk = 0 ∧
    (pipeRun {} runOne {}).curPart = 0 ∧ ((pipeRun {} runOne {}).die 0).slotClosed ((pipeRun {} runOne {}).lays 0) 1 = false := by decide
theorem witness_LayoverWords_close : ((pipeRun {} runOne { lays := [(5, { opened := 0 })] }).die 0).isOpen 0 5 = true ∧
    ((pipeRun {} runOne { lays := [(5, { opened := 0 })] }).die 0).layRec 5 = some { opened := 0 } := by decide
/-- A pipeline whose stream register 0 holds a bf16 stream. -/
def nestPipe : Pipe := { regs := { st := [(0, { desc := some { fmt := 1, qfmt := 1, stride := [256, 0, 0], count := [4, 1, 1] } })] } }
theorem witness_NestWords : (Instr.nest 0 0 14 3).wellFormed = true ∧ (pipeOne nestPipe).timely [.s 3] = true ∧
    (pipeOne nestPipe).me.mx.nest.go = false ∧ nestInvalid (pipeOne nestPipe).me (pipeOne nestPipe).me.mx.nest.shadow = none ∧
    (∀ n ∈ (pipeOne { nestPipe with mx := { badNest := [96] } }).me.mx.badNest, 96 ≤ n) ∧
    (pipeOne nestPipe).timely [.st (nestAst (pipeOne nestPipe).me.mx.nest.shadow), .st (nestBst (pipeOne nestPipe).me.mx.nest.shadow)] =
      true := by decide
theorem witness_AddressWords : Claims.addressResult (pipeOne {}) (.ali 0 1 0x20000) = some (.l, [], .areg 1 0x20000) ∧
    (pipeOne {}).timely [] = true ∧ (pipeOne {}).timely [.b 15, .b 0] = true := by decide
/-! ### Witnesses: L, S and X (O14 to O26) -/

/-- A tensor stream of bf16, 4 rows of 64 lanes; the last position is 3. -/
def desc1 : Desc := { fmt := 1, qfmt := 1, stride := [128, 0, 0], count := [4, 1, 1] }
/-- A paged stream, whose position 0 is at 0x200000. -/
def desc2 : Desc := { kind := 1, base := 0x200000, stride := [256, 0, 0], count := [16, 1, 1] }
/-- Pipeline with stream register `n` at position `p` of `d`. -/
def streamPipe (n p : Nat) (d : Desc) : Pipe := { regs := { st := [(n, { desc := some d, p := p })] } }

theorem witness_Scfg : (Instr.lScfg 0 7 1 0x7FFF).wellFormed = true ∧ ((64 : Word) + (0x7FFF : BitVec 15).signExtend 64 * 64).toNat = 0 ∧
    (Instr.sScfg 0 8 1 0).wellFormed = true ∧ (pipeOne {}).bankSlips 0 1 0 0x5FFFC0 64 = [] ∧
    (pipeOne {}).eccSlips 0 1 0 0x5FFFC0 64 = [] ∧ (pipeOne {}).timely [.a 1] = true := by decide
theorem witness_Sadv : (Instr.lSadv 0 0 0x7FFF).wellFormed = true ∧ (Instr.sSadv 0 8 1).wellFormed = true ∧ (Instr.bout 0 0).wellFormed = true ∧
    ((pipeOne (streamPipe 0 3 desc1)).me.streg 0).desc = some desc1 ∧ (pipeOne (streamPipe 0 3 desc1)).timely [.st 0] = true := by decide
theorem witness_Tlbp : (Instr.lTlbp 0 2).wellFormed = true ∧ ((pipeOne (streamPipe 2 0 desc2)).me.streg 2).desc = some desc2 ∧
    desc2.kind ≠ 0 ∧ (pipeOne (streamPipe 2 0 desc2)).timely [.st 2] = true := by decide
theorem witness_Ldq : ((pipeOne (streamPipe 0 3 desc1)).me.streg 0).desc = some desc1 ∧ (Instr.ldq 0 3 0).wellFormed = true ∧
    ldqBad (pipeOne (streamPipe 0 3 desc1)).me desc1 3 = false ∧ ((pipeOne (streamPipe 0 3 desc1)).me.dqueue 3).length < 16 ∧
    ((ldqRanges (pipeOne (streamPipe 0 3 desc1)).me desc1 3).all (fun e =>
      decide ((pipeOne (streamPipe 0 3 desc1)).bankSlips 0 1 0 e.1 e.2 = []) &&
        decide ((pipeOne (streamPipe 0 3 desc1)).eccSlips 0 1 0 e.1 e.2 = []))) = true ∧
    desc1.scaleOffs 3 = [] ∧ (pipeOne (streamPipe 0 3 desc1)).timely [.st 0] = true := by decide
theorem witness_Gath : (Instr.gath 0 0 1 0).wellFormed = true ∧ desc1.kind ≠ 1 ∧ desc1.addr 3 % (fmtAlign (fmtOf desc1.fmt) : Int) = 0 ∧
    (pipeOne (streamPipe 0 3 desc1)).bankSlips 0 1 0 0x5FFF00 256 = [] ∧ (pipeOne (streamPipe 0 3 desc1)).eccSlips 0 1 0 0x5FFF00 256 = [] ∧
    (pipeOne (streamPipe 0 3 desc1)).timely [.st 0, .a 1] = true := by decide
theorem witness_Ldcb : (Instr.ldcb 0 3 1).wellFormed = true ∧ 0x5FFFE0 % 32 = 0 ∧ (pipeOne {}).bankSlips 0 1 0 0x5FFFE0 32 = [] ∧
    (pipeOne {}).eccSlips 0 1 0 0x5FFFE0 32 = [] ∧ (pipeOne {}).timely [.a 1] = true := by decide
theorem witness_Ldcm : ((pipeRun { regs := { ar := [(1, 15)] } } runOne {}).part 0).run.cmem.find? (fun e => e.1 == 15) = some (15, []) ∧
    ((pipeRun { regs := { ar := [(1, 15)] } } runOne {}).me.areg 1).toNat = 15 := by decide
/-- A pipeline whose stream register `n` is paged, with a translation of its page. -/
def pagedPipe (n : Nat) : Pipe :=
  { regs := { st := [(n, { desc := some desc2, cur := { valid := true, page := 0x200000, frame := 0x100000, big := true } })] } }
theorem witness_HbmTransfers_load : (Instr.hld 0 2 1 0).wellFormed = true ∧ desc2.kind = 1 ∧ desc2.addr 0 % 256 = 0 ∧
    inPaged (desc2.addr 0) 256 = true ∧ ((pipeOne (pagedPipe 2)).part (pipeOne (pagedPipe 2)).curPart).tsmask.getLsbD 0 = true ∧
    slotOf (pipeOne (pagedPipe 2)).atk = 0 ∧
    ((pipeOne (pagedPipe 2)).me.streg 2).lookup (desc2.addr 0).toNat =
      .hit { valid := true, page := 0x200000, frame := 0x100000, big := true } ((pipeOne (pagedPipe 2)).me.streg 2) ∧
    (pipeOne (pagedPipe 2)).timely [.st 2, .a 1] = true := by decide
theorem witness_HbmTransfers_store : (Instr.hst 0 9 1 0).wellFormed = true ∧ (pipeOne (pagedPipe 9)).bankSlips 0 3 0 0x5FFF00 256 = [] ∧
    (pipeOne (pagedPipe 9)).eccSlips 0 3 0 0x5FFF00 256 = [] ∧ (pipeOne (pagedPipe 9)).timely [.st 9, .b 1] = true := by decide
theorem witness_Stq : (Instr.stq 0 4 9 1 0 0 0 0).wellFormed = true ∧ (pipeOne (streamPipe 9 3 desc1)).me.mode 0 = some .rne ∧ desc1.kind ≠ 1 ∧
    desc1.lanes * (fmtOf 1).bits / 8 ≤ 256 ∧ inTensor (desc1.addr 3) (desc1.lanes * (fmtOf 1).bits / 8) = true ∧
    desc1.addr 3 % (fmtAlign (fmtOf 1) : Int) = 0 ∧ (pipeOne (streamPipe 9 3 desc1)).timely [.st 9] = true ∧
    (qHead ((pipeOne { q := { dq := [(4, [{ ready := 0, val := 5 }])] } }).me.dqueue 4) 0).isSome = true := by decide
theorem witness_Hsnap : (0x5FFF00 : Word).toNat % 256 = 0 ∧ (0x5FFF00 : Word).toNat < 0x600000 ∧ (pipeOne {}).timely [.b 1] = true := by decide
/-- Die 0 to its own pipeline 1, at the last offset. -/
theorem witness_Send : bitsOf (0x00DFFF00 : Word) 22 0 = 0x5FFF00 ∧ bitsOf (0x00DFFF00 : Word) 22 0 % 256 = 0 ∧
    bitsOf (0x00DFFF00 : Word) 63 32 = 0 ∧ bitsOf (0x00DFFF00 : Word) 27 23 = 1 ∧ (pipeRun {} runOne {}).curPart = 0 ∧
    ((pipeRun {} runOne {}).part 0).hasDie (bitsOf (0x00DFFF00 : Word) 31 28) = true ∧
    hops 0 (bitsOf (0x00DFFF00 : Word) 31 28) ≤ stage1.hmax ∧ relayAt [stage1] (runOne.tau (pipeRun {} runOne {}).atk) = some (stage1, 99) ∧
    (Instr.send 0 4 3).wellFormed = true := by decide
theorem witness_Mcast : (List.range 16).filter (fun i => (0x100000003 : BitVec 48).getLsbD (32 + i)) = [0] ∧
    (List.range 32).filter (fun i => (0x100000003 : BitVec 48).getLsbD i) = [0, 1] ∧ bitsOf (0 : Word) 63 23 = 0 ∧
    ([0].map (hops 0)).foldl Nat.max 0 ≤ stage1.hmax ∧ 0 + 4 ≤ 99 ∧ (Instr.mcast 0 5 1 2).wellFormed = true := by decide
theorem witness_Rmw : (Instr.rmw 0 0 2 1 2).wellFormed = true ∧ 0x5FFFFC % (Fmt.int32.bits / 8) = 0 ∧ 0x5FFFFC < 0x600000 ∧
    (pipeOne {}).me.fly.rmwHold.any (fun e => decide (e.1 = tensorBank 0x5FFFFC) && Tick.le (pipeOne {}).atk e.2) = false ∧
    (pipeOne {}).eccSlips 0 3 0 0x5FFFFC 4 = [] ∧ (pipeOne {}).timely [.b 1, .b 2] = true ∧
    ∃ r, r = rmwValue 0 .int32 1 2 := ⟨by decide, by decide, by decide, by decide, by decide, by decide, _, rfl⟩
/-- A result for s3 and one for a masked v1 that are due, and one for s4 that is not. -/
def landing : Pipe :=
  { fly := { res := [{ due := 0, stream := 0, res := .sreg 3 7 }, { due := 0, stream := 2, res := .vreg 1 5 1 }, { due := 1, stream := 0, res := .sreg 4 8 }] } }
theorem witness_RegisterResultsLand : (pipeOne {}).now (dieOfPipe 0) = 0 ∧
    (((pipeOne landing).pipe 0).fly.res.filter (fun f => decide (f.due = 0) && f.res.plain)).map (fun f => f.stream) = [0, 2] ∧
    (((pipeOne landing).pipe 0).fly.res.filter (fun f => f.res.writes (.v 1))).length = 1 := by decide +kernel
theorem witness_MaskedElementsLand : 16 * 128 = 2048 ∧ 128 % 64 = 0 ∧ 127 < 128 ∧
    (({} : Pipe).writeElems 0 3 1 5 16 128 (fun _ => ⟨1, 0⟩) 0).fly.res.length = 1 := by decide
theorem witness_Rounding : ∃ a, Claims.roundingWord (pipeOne {}) (.vfma 0 3 1 2 0 0 0 0) = some a ∧ (pipeOne {}).me.mode a.rm = some .rne ∧
    (pipeOne {}).timely (a.srcs ++ (if a.m = 1 then [.m 0] else [])) = true ∧ (pipeOne {}).me.mem.badCoef = [] ∧ a.n = 64 :=
  ⟨_, rfl, by decide, by decide, by decide, by decide⟩
theorem witness_Rounding_sr : ∃ a, Claims.roundingWord (pipeOne {}) (.vcvt 0 5 4 0 1 5 1 1) = some a ∧ (pipeOne {}).me.mode a.rm = some .sr ∧
    a.n ≤ 128 ∧ (pipeOne {}).timely (a.srcs ++ (if a.m = 1 then [.m 0] else [])) = true ∧ (Instr.vcvt 0 5 4 0 1 5 1 1).wellFormed = true :=
  ⟨_, rfl, by decide, by decide, by decide, by decide⟩
theorem witness_Plain : ∃ a, Claims.plainWord (pipeOne {}) (.viadd 0 9 9 11 7 0 1) = some a ∧
    (pipeOne {}).timely (a.srcs ++ (if a.m = 1 then [.m 0] else [])) = true ∧ (Instr.viadd 0 9 9 11 7 0 1).wellFormed = true :=
  ⟨_, rfl, by decide, by decide⟩
/-- A pipeline with one entry in qx. -/
def qxPipe (v : Word) : Pipe := { q := { qx := [{ ready := 0, val := v }] } }
theorem witness_OtherVector_masks : (Instr.vcmp 0 1 2 3 7 2 1).wellFormed = true ∧ (pipeOne {}).timely ([.v 2, .v 3] ++ maskSrc 1) = true ∧
    (Instr.vmsk 0 1 2 3 3).wellFormed = true ∧ (Instr.vmsk 0 1 2 0 7).wellFormed = true ∧ (Instr.vmsk 0 1 2 0 4).wellFormed = true ∧
    (Instr.vmsk 0 1 0 0 5).wellFormed = true ∧ (Instr.vmsk 0 1 0 0 6).wellFormed = true ∧ (pipeOne {}).timely [.m 2, .m 3] = true ∧
    qHead (pipeOne (qxPipe 64)).me.q.qx (pipeOne (qxPipe 64)).atk = some 64 := by decide
theorem witness_OtherVector_reductions : (Instr.vred 0 1 2 0 0 0 0).wellFormed = true ∧ (pipeOne {}).me.mode 0 = some .rne ∧
    (pipeOne {}).timely ([.v 2] ++ maskSrc 0) = true ∧ (Instr.vrng 0 1 1).wellFormed = true := by decide
/-- The flag clause holds for every vector: POSFLT is 0 here. -/
theorem witness_OtherVector_rope : (Instr.vrope 0 6 2 3 0 0 0).wellFormed = true ∧ (pipeOne {}).timely ([.v 2, .v 3] ++ maskSrc 0) = true ∧
    (pipeOne {}).me.posflt = false := by decide
theorem witness_OtherVector_scale : (Instr.vscl 0 1 2 0 0 0 0).wellFormed = true ∧ scaleValid ((0x3F800000 : Word).setWidth 32) = true ∧
    qHead (pipeOne (qxPipe 0x3F800000)).me.q.qx (pipeOne (qxPipe 0x3F800000)).atk = some 0x3F800000 ∧
    (Instr.vsplQ 0 1 1).wellFormed = true := by decide
theorem witness_QueueAndDrawbar : (Instr.vpop 0 1 0).wellFormed = true ∧ (Instr.vpush 0 7 5).wellFormed = true ∧
    (pipeOne {}).timely [.v 7] = true ∧ (qHead ((pipeOne { q := { dq := [(0, [{ ready := 0, val := 9 }])] } }).me.dqueue 0) 0).isSome = true ∧
    ((pipeOne { q := { dq := [(5, List.replicate 15 { ready := 0, val := 9 })] } }).me.dqueue 5).length < 16 ∧
    (pipeOne {}).me.cyc.sentE = false ∧ (pipeOne {}).me.cyc.sentW = false := by decide
theorem witness_Drawbar_read : (∃ v rest, (pipeOne { q := { east := [9, 8] } }).me.q.east = v :: rest) ∧
    (∃ v rest, (pipeOne { q := { west := [9] } }).me.q.west = v :: rest) ∧ (pipeOne {}).me.cyc.popE = 0 ∧
    (pipeOne {}).me.cyc.popW = 0 := ⟨⟨_, _, rfl⟩, ⟨_, _, rfl⟩, rfl, rfl⟩
theorem witness_Accumulator : (Instr.accrd 0 5 3071).wellFormed = true ∧ 3071 ∉ (pipeOne {}).me.mx.badRows ∧ (Instr.accwr 0 5 3).wellFormed = true ∧
    (pipeOne {}).me.mx.nest.owns 47 = false ∧ (Instr.accz 0 47).wellFormed = true ∧ (Instr.accst 0 0 320 1 0 0).wellFormed = true ∧
    (pipeOne {}).me.mode 0 = some .rne ∧ ((pipeOne {}).me.dqueue 4).length < 16 := by decide
theorem witness_VectorControl : qHead (pipeOne { q := { bq := [{ ready := 0, val := true }] } }).me.q.bq 0 = some true ∧
    (pipeOne { x := { pc := 3 } }).me.x.badTarget (branchTarget 3 (16380 : BitVec 19)) = false ∧ (Instr.xloop 0 1 8).wellFormed = true ∧
    (pipeOne { x := { fresh := true } }).me.x.badLoop 1 = false ∧ qHead (pipeOne {}).me.q.qx 0 = none := by decide
theorem witness_TimedWordsFrame : (Instr.halt 0).stream ≠ .gig ∧ (after (exec (.halt 0) (pipeOne {})) (fun _ => true)) = some true := by decide

/-! ### Witnesses: the integer words and branches of the gig (O27, O28) -/

theorem witness_GigIntegers : Claims.gigResult (gigOne live) (.gigDiv 3 1 0) = some (3, [1, 0], -1) ∧ (Instr.gigDiv 3 1 0).wellFormed = true ∧
    (gigOne live).gigReady [1, 0] false = true := by decide
theorem witness_GigBranches : Claims.gigBranch (gigOne live) (.beq 1 1 2) = some ([1, 1], true, 8, none) ∧ (Instr.beq 1 1 2).wellFormed = true ∧
    (gigOne live).gigReady [1, 1] false = true ∧ Claims.gigBranch (gigOne live) (.bne 1 1 2) = some ([1, 1], false, 8, none) := by decide
/-- Targets at the last word below 2^49, at 2^49, and off a word. -/
theorem witness_GigBranches_last : Claims.gigBranch (gigOne { live with regs := [(1, 0x1FFFFFFFFFFFC)] }) (.jalr 31 1 0) =
    some ([1], true, 0x1FFFFFFFFFFFC, some 31) ∧ (0x1FFFFFFFFFFFC : Word).toNat < 2 ^ 49 ∧ (0x1FFFFFFFFFFFC : Word).toNat % 4 = 0 := by decide
theorem witness_GigBranches_range : Claims.gigBranch (gigOne { live with regs := [(1, 0x1FFFFFFFFFFFC)] }) (.jalr 31 1 4) =
    some ([1], true, 0x2000000000000, some 31) ∧ 2 ^ 49 ≤ (0x2000000000000 : Word).toNat := by decide
theorem witness_GigBranches_misaligned : Claims.gigBranch (gigOne live) (.jalr 31 1 1) = some ([1], true, 6, some 31) ∧
    (6 : Word).toNat % 4 ≠ 0 := by decide
/-! ### Witnesses: the gig plane (O29 to O39) -/

/-- A thread with registers 1 and 2 set to `a` and `b`. -/
def withRegs (a b : Word) : Thread := { live with regs := [(1, a), (2, b)] }

theorem witness_GigAccessIssue_paged : ∃ a, Claims.gigAccess (gigOne (withRegs 0x1FFFDFFFFFFF8 0)) (.ldd 3 1 15 0) = some a ∧
    (Instr.ldd 3 1 15 0).wellFormed = true ∧ (gigOne (withRegs 0x1FFFDFFFFFFF8 0)).gigReady a.srcs false = true ∧ a.va % a.size = 0 ∧
    a.va < 0x1FFFE00000000 := ⟨_, rfl, by decide, by decide, by decide, by decide⟩
theorem witness_GigAccessIssue_near : ∃ a, Claims.gigAccess (gigOne (withRegs 0x1FFFFFFFFFFFC 7)) (.amocas 3 1 2 0 0) = some a ∧
    (Instr.amocas 3 1 2 0 0).wellFormed = true ∧ (gigOne (withRegs 0x1FFFFFFFFFFFC 7)).gigReady a.srcs false = true ∧ a.va % a.size = 0 ∧
    0x1FFFFFFC00000 ≤ a.va ∧ a.va < 2 ^ 49 ∧ a.amo = true :=
  ⟨_, rfl, by decide, by decide, by decide, by decide, by decide, by decide⟩
theorem witness_GigAccessChecks_range : ∃ a, Claims.gigAccess (gigOne (withRegs 0x1FFFFFFFFFFFF 0)) (.ldb 3 1 0 1) = some a ∧
    (gigOne (withRegs 0x1FFFFFFFFFFFF 0)).gigReady a.srcs false = true ∧ 2 ^ 49 ≤ a.va ∧ (Instr.ldb 3 1 0 1).wellFormed = true :=
  ⟨_, rfl, by decide, by decide, by decide⟩
theorem witness_GigAccessChecks_misaligned : ∃ a, Claims.gigAccess (gigOne (withRegs 0x101 0)) (.sth 2 1 0 0) = some a ∧
    (gigOne (withRegs 0x101 0)).gigReady a.srcs false = true ∧ a.va < 2 ^ 49 ∧ a.va % a.size ≠ 0 ∧ (Instr.sth 2 1 0 0).wellFormed = true :=
  ⟨_, rfl, by decide, by decide, by decide, by decide⟩
theorem witness_GigAccessChecks_tensor : ∃ a, Claims.gigAccess (gigOne (withRegs 0x1FFFE00000000 0)) (.amoadd 3 1 2 0 0) = some a ∧
    (gigOne (withRegs 0x1FFFE00000000 0)).gigReady a.srcs false = true ∧ a.amo = true ∧ a.va % a.size = 0 ∧ 0x1FFFE00000000 ≤ a.va ∧
    a.va < 0x1FFFF00000000 ∧ (Instr.amoadd 3 1 2 0 0).wellFormed = true :=
  ⟨_, rfl, by decide, by decide, by decide, by decide, by decide, by decide⟩

/-- An access of thread 0 to 8 bytes at physical 0x40100. -/
def acc1 (op : AccOp) (dest : Option Nat) (k : Target) : Access :=
  { id := 0, cls := 0, va := 0x100, op := op, dest := dest, target := k, pages := [], pc := 0, level := true }
/-- Thread 0 with that access alone in flight. -/
def inFlight (a : Access) : State := gigOne { live with pend := [.acc a], nextId := 1 }
theorem witness_Physical_load : (inFlight (acc1 (.load 8 false) (some 3) (.phys 0x40100))).access 0 0 = some (acc1 (.load 8 false) (some 3) (.phys 0x40100)) ∧
    ((inFlight (acc1 (.load 8 false) (some 3) (.phys 0x40100))).thread 0).mayPerform 0 (acc1 (.load 8 false) (some 3) (.phys 0x40100)) = true ∧
    (inFlight (acc1 (.load 8 false) (some 3) (.phys 0x40100))).blocksClear 0 (acc1 (.load 8 false) (some 3) (.phys 0x40100)) = true ∧
    (inFlight (acc1 (.load 8 false) (some 3) (.phys 0x40100))).damaged 0x40100 8 = false := by decide
theorem witness_Physical_store : (inFlight (acc1 (.store 4 7) none (.phys 0x40100))).access 0 0 = some (acc1 (.store 4 7) none (.phys 0x40100)) ∧
    ((inFlight (acc1 (.store 4 7) none (.phys 0x40100))).thread 0).mayPerform 0 (acc1 (.store 4 7) none (.phys 0x40100)) = true ∧
    (inFlight (acc1 (.store 4 7) none (.phys 0x40100))).blocksClear 0 (acc1 (.store 4 7) none (.phys 0x40100)) = true ∧
    (inFlight (acc1 (.store 4 7) none (.phys 0x40100))).hostStoreFails (.phys 0x40100) 4 = false := by decide
theorem witness_Physical_amo : (inFlight (acc1 (.amo 2 true 7 0) (some 3) (.phys 0x40100))).access 0 0 = some (acc1 (.amo 2 true 7 0) (some 3) (.phys 0x40100)) ∧
    ((inFlight (acc1 (.amo 2 true 7 0) (some 3) (.phys 0x40100))).thread 0).mayPerform 0 (acc1 (.amo 2 true 7 0) (some 3) (.phys 0x40100)) =
      true := by decide

theorem witness_UnitAccesses_livery : ∃ r, Claims.unitAccess (gigOne live) (.balloc 3 1 1) = some r ∧ (Instr.balloc 3 1 1).wellFormed = true ∧
    (gigOne live).gigReady [1] false = true ∧ r.2.2.2.2.2 = .livery 5 := ⟨_, rfl, by decide, by decide, by decide⟩
theorem witness_UnitAccesses_counters : (∃ r, Claims.unitAccess (gigOne (withRegs 255 9)) (.cntadd 1 2) = some r) ∧
    (gigOne (withRegs 255 9)).gigReady [1, 2] false = true ∧ (Instr.cntadd 1 2).wellFormed = true := ⟨⟨_, rfl⟩, by decide, by decide⟩
theorem witness_UnitAccesses_snapshot : (∃ r, Claims.unitAccess (gigOne (withRegs 255 0x1FFFFFFC7FFF8)) (.cntsnap 1 2 0) = some r) ∧
    (gigOne (withRegs 255 0x1FFFFFFC7FFF8)).gigReady [1, 2] false = true ∧ (Instr.cntsnap 1 2 0).wellFormed = true :=
  ⟨⟨_, rfl⟩, by decide, by decide⟩
theorem witness_UnitAccesses_heap : (∃ r, Claims.unitAccess (gigOne (withRegs 0x1FFFFFFC00000 9)) (.hsift 3 1 2 7) = some r) ∧
    (gigOne (withRegs 0x1FFFFFFC00000 9)).gigReady [1, 2] false = true ∧ (Instr.hsift 3 1 2 7).wellFormed = true :=
  ⟨⟨_, rfl⟩, by decide, by decide⟩
theorem witness_Post : bitsOf (63 : Word) 63 12 = 0 ∧ bitsOf (63 : Word) 7 6 = 0 ∧
    ((gigOne (withRegs 63 9)).part ((gigOne (withRegs 63 9)).partOfThread 0)).hasDie (bitsOf (63 : Word) 11 8) = true ∧
    (gigOne (withRegs 63 9)).gigReady [1, 2] false = true := by decide
theorem witness_Fence : (Instr.fence 1 0xFFFF).wellFormed = true ∧ (gigOne live).gigReady [] false = true := by decide

theorem witness_Floating : ∃ a, Claims.fpuResult (gigOne live) (.fdiv 3 1 2 0 0) = some a ∧ (Instr.fdiv 3 1 2 0 0).wellFormed = true ∧
    (gigOne live).gigReady a.srcs false = true ∧ a.mode = some 0 ∧ (gigOne live).th.mode 0 = some .rne :=
  ⟨_, rfl, by decide, by decide, rfl, by decide⟩
theorem witness_Floating_plain : ∃ a, Claims.fpuResult (gigOne live) (.fexp2 3 1) = some a ∧ (Instr.fexp2 3 1).wellFormed = true ∧
    (gigOne live).gigReady a.srcs false = true ∧ a.mode = none := ⟨_, rfl, by decide, by decide, rfl⟩
theorem witness_Floating_mode : ∃ a, Claims.fpuResult (gigOne { live with frm := 5 }) (.fma 3 1 2 4 1 7) = some a ∧
    (Instr.fma 3 1 2 4 1 7).wellFormed = true ∧ (gigOne { live with frm := 5 }).gigReady a.srcs false = true ∧ a.mode = some 7 ∧
    5 ≤ (gigOne { live with frm := 5 }).th.frm.toNat := ⟨_, rfl, by decide, by decide, rfl, by decide⟩

/-- A state in which thread 0 runs in context `k` of coach 0. -/
def gigCtx (k : Context) : State := { parts := [(0, part1)], coaches := [(0, { run := some 0, ctxs := [(0, k)] })] }
/-- A context of thread 0 with barrier 15. -/
def barCtx (b : Barrier) : Context := { lid := 1, threads := [(0, live)], bars := [(15, b)], slice := 8192, sliceEnd := 8192 }
theorem witness_Arrive_unused : (gigCtx (barCtx {})).slotOf 0 = some 0 ∧ (Instr.arrive 3 15).wellFormed = true ∧
    (gigCtx (barCtx {})).gigReady [] true = true ∧ (((gigCtx (barCtx {})).ctx 0 0).bars.get 15 {}).expect = 0 := by decide
theorem witness_Arrive_used : (((gigCtx (barCtx { expect := 2 })).ctx 0 0).bars.get 15 {}).expect ≠ 0 ∧
    (gigCtx (barCtx { expect := 2 })).gigReady [] true = true := by decide
/-- Thread 0 arrives at barrier 15, for whose phase thread 1 waits. -/
def arriving (b : Barrier) : State :=
  gigCtx { barCtx b with threads := [(0, live), (1, { live with wait := .barrier 15 0xFFFF 4 })] }
theorem witness_ArrivalsApply : (((arriving {}).ctx 0 0).threads.get 0 {}).wait = .none ∧
    (((arriving {}).ctx 0 0).threads.get 1 {}).wait = .barrier 15 (0xFFFF : BitVec 16).toNat 4 ∧
    (((arriving { expect := 2, sent := true, held := 3 }).ctx 0 0).bars.get 15 {}).sent = true ∧
    (((arriving { expect := 2 }).ctx 0 0).bars.get 15 {}).count + 1 ≠ 2 ∧
    (((arriving { expect := 2, count := 1, phase := 0xFFFF }).ctx 0 0).bars.get 15 {}).count + 1 = 2 ∧
    (((arriving { expect := 2, count := 1, phase := 0xFFFF }).ctx 0 0).bars.get 15 {}).linked = false ∧
    (((arriving { expect := 2, count := 1, linked := true }).ctx 0 0).bars.get 15 {}).linked = true := by decide
/-- Distances 0, 1 and 32,768. -/
theorem witness_Waitp : (Instr.waitp 3 1 0 15).wellFormed = true ∧ (gigCtx (barCtx { expect := 2, phase := 5 })).gigReady [1, 0] false = true ∧
    (gigCtx (barCtx { expect := 2, phase := 5 })).th.fenced 0 = false ∧ (5 + 65536 - 5) % 65536 = 0 ∧ (6 + 65536 - 5) % 65536 = 1 ∧
    (5 + 65536 - 32773) % 65536 = 32768 := by decide
theorem witness_EventWords : (Instr.evsig 31).wellFormed = true ∧ (gigOne live).gigReady [1] true = true ∧
    ((gigOne live).ctx 0 0).threads.all (fun e => match e.2.wait with
      | .line m _ => !(decide (m = 31))
      | _ => true) = true ∧
    ((gigOne live).th.d 1).toNat < 128 ∧ ((gigOne live).part ((gigOne live).partOfThread 0)).hasDie (((gigOne live).th.d 1).toNat / 8) = true ∧
    ((gigOne (withRegs 127 0)).part ((gigOne (withRegs 127 0)).partOfThread 0)).hasDie (((gigOne (withRegs 127 0)).th.d 1).toNat / 8) = false := by
  decide
/-- Thread 1 waits on line 31, and thread 0 does not. -/
theorem witness_EventWords_waiting : ∃ (pre post : List (Nat × Thread)) (th : Thread),
    ({ barCtx {} with threads := [(0, live), (1, { live with wait := .line 31 4 })] } : Context).threads = pre ++ (1, th) :: post ∧
    th.wait = .line (31 : BitVec 5).toNat 4 ∧ SMap.wf (pre ++ (1, th) :: post) = true ∧ pre.all (fun e => match e.2.wait with
      | .line m _ => !(decide (m = (31 : BitVec 5).toNat))
      | _ => true) = true ∧
    (gigCtx { barCtx {} with threads := [(0, live), (1, { live with wait := .line 31 4 })] }).gigReady [] true = true :=
  ⟨[(0, live)], [], { live with wait := .line 31 4 }, rfl, rfl, by decide, by decide, by decide⟩
/-- The last 64 bytes of the scratchpad of gig 0. -/
theorem witness_Messages_send : (∃ o, ownOffset 0 64 64 0x1FFFFFFC7FFC0 = .ok o) ∧ (Instr.gigSend 1 2).wellFormed = true ∧
    (gigOne (withRegs 3 0x1FFFFFFC7FFC0)).gigReady [1, 2] true = true ∧
    ((gigOne (withRegs 3 0x1FFFFFFC7FFC0)).part ((gigOne (withRegs 3 0x1FFFFFFC7FFC0)).partOfThread 0)).hasDie (3 / 256) = true ∧
    (gigOne (withRegs 3 0x1FFFFFFC7FFC0)).ownBad 0x7FFC0 64 = false := ⟨⟨_, rfl⟩, by decide, by decide, by decide, by decide⟩
/-- A launch of the threads of gig 0 on coach 0. -/
def launch1 : Launch :=
  { part := 0, die := 0, header := [0, 0, 0, 0, 1, 0xF010000, 0x100000000000, 0], evinit := [], progress := false, parent := none,
    phase := .started, wakes := [], age := 0, kids := 0, flags := 0, began := none, job := none, killed := none }
theorem witness_Messages_room : ({ gigCtx { lid := 1, threads := [(0, withRegs 3 0x1FFFFFFC7FFC0), (3, live)] } with
      launches := [(1, launch1)] } : State).roomFor 3 = true ∧
    ({ gigCtx { lid := 1, threads := [(0, withRegs 3 0x1FFFFFFC7FFC0), (3, live)] } with
      launches := [(1, launch1)] } : State).held.all (fun e => !(decide (e.dst = 3))) = true := by decide
/-- The receiver is there, but a SEND for it is held; one that a switched-out context's thread holds stands in nobody's way. -/
theorem witness_Messages_held : ((gigCtx { lid := 1, threads := [(0, withRegs 3 0x1FFFFFFC7FFC0), (3, live)] }).homeOf 3).isSome = true ∧
    (gigCtx { lid := 1, threads := [(0, live), (2, { live with wait := .send 3 [] }), (3, live)] }).sends
      { src := 2, lid := 1, dst := 3, cycle := 0 } = true ∧
    (gigCtx { lid := 1, threads := [(0, live), (2, { live with wait := .send 3 [] }), (3, live)] }).sends
      { src := 2, lid := 7, dst := 3, cycle := 0 } = false := by decide
/-- The head of the queue has a parity error. -/
theorem witness_Messages_damaged : (gigOne { withRegs 0x1FFFFFFC00000 0 with inbox := [{ src := 3, body := [], bad := true }] }).th.inbox =
    { src := 3, body := [], bad := true } :: [] ∧ (gigOne (withRegs 0x1FFFFFFC00000 0)).th.trap.inh = false ∧
    ((gigOne (withRegs 0x1FFFFFFC00000 0)).slotOf (gigOne (withRegs 0x1FFFFFFC00000 0)).curThread).isSome = true := by decide
theorem witness_Messages_recv : (∃ o, ownOffset 0 64 64 0x1FFFFFFC00000 = .ok o) ∧ (gigOne (withRegs 0x1FFFFFFC00000 0)).gigReady [1] false = true ∧
    (gigOne (withRegs 0x1FFFFFFC00000 0)).th.fenced 0 = false ∧ (Instr.recv 3 1 0).wellFormed = true ∧ (Instr.recv 3 1 1).wellFormed = true ∧
    (gigOne (withRegs 0x1FFFFFFC00000 0)).th.inbox = [] ∧
    (gigOne { withRegs 0x1FFFFFFC00000 0 with inbox := [{ src := 3, body := [] }] }).th.inbox = { src := 3, body := [] } :: [] :=
  ⟨⟨_, rfl⟩, by decide, by decide, by decide, by decide, by decide, by decide⟩

/-- A state in which the page at address 0 holds a launch header at 0x40, whose register d1 has that address. -/
def spawner : State :=
  let s := State.reset.placeGig 0x00000000#32
  let m := (((s.mem.writeLE 0x40050 8 0x80).writeLE 0x40060 8 1).writeLE 0x40068 8 0x1010000).writeLE 0x40070 8 0x100000000000
  { s with mem := m, curThread := 0, coaches := [(0, { run := some 0, ctxs := [(0, { lid := 1, threads := [(0, withRegs 0x40 0)] })] })] }
def header1 : List Word := [0, 0, 0x80, 0, 1, 0x1010000, 0x100000000000, 0]
theorem witness_Spawn_header : (Instr.spawn 3 1 1).wellFormed = true ∧ spawner.gigReady [1] true = true ∧
    ((spawner.headerBytes 0x40).1.toOption.map wordsOf) = some header1 := by decide
theorem witness_Spawn_valid : headerOk (spawner.part 0) header1 = true ∧ hEvinit header1 = 0x80 ∧ 64 * hNcoach header1 = 64 ∧
    evinitOk (evinitOf (hFcoach header1) (List.replicate 64 0)) (hFcoach header1) (hNcoach header1) = true := by decide
theorem witness_Spawn_records : ((spawner.headerBytes 0x40).2.pagedBytes 0 0x80 64).toOption = some (List.replicate 64 0) := by
  decide +kernel
theorem witness_Spawn_room : (spawner.die 0).pool.length < 224 ∧ 256 ≤ ({ pool := List.replicate 256 0 } : Die).pool.length ∧
    ({ pool := List.replicate 256 0 } : Die).spill.length < ({ sqcap := 1 } : Partition).sqcap ∧
    ({ sqcap := 0 } : Partition).sqcap ≤ ({} : Die).spill.length := 
  ⟨by decide, Nat.le_of_eq (List.length_replicate ..).symm, by decide, by decide⟩
/-- A card of one row of 64 bytes from 0x100 to 0x1000, both paged, numbered 5. -/
def card1 : List Word := [5, 0x2800000000, 0x100, 0x1000, 0x4000000001, 0, 0, 0]
theorem witness_Cards_form : cardBad (fun _ => false) card1 = false ∧ cardBad (fun _ => false) [5, 0, 0, 0, 0, 0, 0, 0] = true ∧
    wSize card1 < 0x400000 ∧ wSize [5, 0, 0, 0, 0x3FFFFF00000001, 0, 0, 0] = 0x3FFFFF ∧ wSeq card1 = 5 := by decide
theorem witness_Cards_state : (gigOne (withRegs 0x1FFFFFFC7FFC0 5)).slotOf 0 = some 0 ∧ (Instr.wbill 3 1).wellFormed = true ∧
    (gigOne (withRegs 0x1FFFFFFC7FFC0 5)).gigReady [1] true = true ∧ (gigOne (withRegs 0x1FFFFFFC7FFC0 5)).ownBad 0x7FFC0 64 = false ∧
    ((gigOne (withRegs 0x1FFFFFFC7FFC0 5)).engineCards 0 1) = [] ∧ hDet ((gigOne (withRegs 0x1FFFFFFC7FFC0 5)).header 1) = false := by decide
def aCard (n : Nat) : Card :=
  { num := n, lid := 1, thread := 0, level := true, words := card1, state := .waiting, granted := false, retry := 0, rows := [],
    cause := 0, edges := [] }
/-- In a DET launch, a card of thread 1 on the same bytes that no path of predecessors joins to that of thread 0. -/
theorem witness_Cards_det : hDet [1, 0, 0, 0, 1, 0x1F010000, 0x100000000000, 0] = true ∧
    (([{ aCard 0 with thread := 1 }].filter (fun e => cardEdge e.words card1)).filter (fun e => decide (e.thread ≠ localOf 0) &&
      !(predReach [{ aCard 0 with thread := 1 }] 2 (wPreds card1) (wSeq e.words)) &&
      !(predReach [{ aCard 0 with thread := 1 }] 2 (wPreds e.words) (wSeq card1)))).length = 1 ∧
    ([].filter (fun e : Card => cardEdge e.words card1)) = [] := by decide
theorem witness_Cards_grant : (if 0x400000 ≤ wSize card1 then (none : Option Held) else none) = none ∧
    0x400000 ≤ wSize [5, 0x2800000000, 0x100, 0x1000, 0x40000000000001, 0, 0, 0] := by decide
theorem witness_Cards_full : 32 ≤ (((List.range 32).map aCard).filter (fun e => decide (e.state = .waiting))).length := by decide
theorem witness_Cards_status : (Instr.wbstat 3 1).wellFormed = true ∧ (gigOne (withRegs 5 0)).gigReady [1] false = true ∧
    (([aCard 0].filter (fun e => decide (e.lid = 1) && decide (wSeq e.words = 5))).getLast?) = some (aCard 0) ∧
    (gigOne (withRegs 5 0)).coach 0 = { (gigOne (withRegs 5 0)).coach 0 with cards := [] } := by decide

/-- Coach 0 supervises the timed launch of partition 0, which stands in phase `p`. -/
def superOne (p : TimedPhase) (r1 : Word) : State :=
  { gigOne (withRegs r1 0) with parts := [(0, { part1 with run := { phase := p } })] }
theorem witness_Supervisor : (superOne .frozen 0).th.level = true ∧ ((superOne .frozen 0).part 0).run.phase = .frozen ∧
    bitsOf (wordAt ((superOne .frozen 0).part 0).run.header 0) 23 17 = 0 ∧ (superOne .frozen 0).gigReady [1] false = true ∧
    (Instr.tfreeze 3 1).wellFormed = true ∧ (Instr.tresume 3).wellFormed = true ∧ (Instr.tframe 3 1).wellFormed = true := by decide
/-- The last pipeline of the partition, and the first that it does not hold. -/
theorem witness_Supervisor_frames : ((superOne .frozen 31).part 0).pipes[31]? = some ((superOne .frozen 31).th.d 1).toNat ∧
    ((superOne .frozen 31).th.d 1).toNat ∉ ((superOne .frozen 31).part 0).pipes.take 31 ∧
    ((superOne .frozen 32).th.d 1).toNat ∉ ((superOne .frozen 32).part 0).pipes ∧ ((superOne .running 0).part 0).run.phase ≠ .frozen := by
  decide

/-- A thread at level 0. -/
def user : Thread := { live with level := false }
theorem witness_PrivilegeChecked : (gigOne user).th.level = false ∧ 8 ∉ [7, 9, 0xA, 0xB, 0xC, 0xD] ∧ 7 ∉ [0xB, 0xC] ∧
    (Instr.gigCsrr 3 8).wellFormed = true ∧ (Instr.gigCsrw 1 7).wellFormed = true ∧ (gigOne user).gigReady [1] false = true ∧
    (Instr.tret).wellFormed = true := by decide
theorem witness_TrapEntry : ((gigOne live).slotOf 0).isSome = true ∧ (gigOne live).th.trap.inh = false := by decide
theorem witness_GigIllegal : (gigOne live).gigReady [] false = true ∧ (Instr.fadd 3 1 2 1 0).wellFormed = false ∧
    (gigOne live).gigReady [1, 2] false = true := by decide
theorem witness_SystemInstructions : (Instr.trap 63).wellFormed = true ∧ (gigOne live).th.level = true ∧
    ((gigOne live).ctx 0 0).sliceLimit = none ∧ (gigOne live).gigReady [1] false = true ∧ (gigOne live).slotOf 0 = some 0 ∧
    (Instr.gigCsrw 1 8).wellFormed = true ∧ (Instr.trace 1 62).wellFormed = true ∧ ((gigOne live).gig 0).book.left = none := by decide
theorem witness_SystemInstructions_reads : Claims.systemRead (gigOne live) (.rng 3 1 0 0) ≠ none ∧
    Claims.systemRead (gigOne user) (.gigCsrr 3 7) ≠ none ∧ (Instr.rng 3 1 0 0).wellFormed = true ∧ (Instr.gigCsrr 3 7).wellFormed = true := by
  decide
theorem witness_SystemInstructions_yield : ((gigOne live).onMe Thread.next).waits 0 true = false := by decide
/-- A launch of two items for its one thread, with thread 0 at item 0 and at item 1. -/
theorem witness_SystemInstructions_halt : 0 + hThreads [0, 0, 0, 1, 1, 0x1010000, 0x100000000000, 0] < hItems [0, 0, 0, 1, 1, 0x1010000, 0x100000000000, 0] ∧
    hItems [0, 0, 0, 1, 1, 0x1010000, 0x100000000000, 0] ≤ 1 + hThreads [0, 0, 0, 1, 1, 0x1010000, 0x100000000000, 0] := by decide
theorem witness_LeaveCompletes : (gigOne live).slotOf 0 = some 0 ∧ (Instr.leave 3 1 0).wellFormed = true ∧
    (gigOne live).gigReady [1] false = true := by decide
/-- Threads 4 and 0 ask in one gig cycle for all that the bucket holds. -/
def leavers : State := gigCtx { barCtx {} with asks := [⟨4, 3, false, 268435456⟩, ⟨0, 3, false, 268435456⟩] }
/-- A request of no bytes, of all that fits, of more where nothing is charged, and those that do not fit. -/
theorem witness_LeavesJudged : (leavers.asksOf 0).map (fun e => e.2.2.thread) = [0, 4] ∧
    (0 < ({} : Die).lb ∧ 268435456 ≤ ({} : Die).lb ∧ ([] : List Nat).sum + 268435456 ≤ ({} : Die).lb) ∧ ({} : Die).lb < 268435457 ∧
    ({} : Die).lb < [1].sum + 268435456 ∧
    [({ bytes := 1, cxl := false, expiry := 9 } : Grant)].filter (fun g => (g.cxl == false) && decide ((8 : Word).toNat < g.expiry.toNat)) ≠ [] := by
  decide
/-- 25 R484: the lower thread is judged first. -/
theorem test_leave_order : ((leavers.judgeAsks 0).thread 0).d 3 = 0 ∧ ((leavers.judgeAsks 0).thread 4).d 3 = 65536 := by decide
/-! ### Witnesses: what units do without a word (O40 to O46) -/

/-- The value kept by a CSRW of TPCTL, of BASE, of FFLAGS and of a register that no CSRW names; and none. -/
theorem witness_RegisterWrites : (pipeOne { cyc := { csrw := some (0, 7) } }).me.cyc.csrw = some (0, 7) ∧
    (pipeOne { cyc := { csrw := some (3, 7) } }).me.cyc.csrw = some (3, 7) ∧
    (pipeOne { cyc := { csrw := some (5, 7) } }).me.cyc.csrw = some (5, 7) ∧
    (pipeOne { cyc := { csrw := some (6, 7) } }).me.cyc.csrw = some (6, 7) ∧ (pipeOne {}).me.cyc.csrw = none := by decide
/-- One result in flight that completes now. -/
def due (r : Result) : Pipe := { fly := { res := [{ due := 0, stream := 1, res := r }] } }
theorem witness_LateResults_due : (Claims.due (pipeOne (due (.nxt 2 0 []))) 0 Result.isPrefetch).length = 1 ∧
    (Claims.due (pipeOne (due (.coef 15 [1]))) 0 (fun r => match r with | .coef .. => true | _ => false)).length = 1 ∧
    (Claims.due (pipeOne (due (.scfg 0 64 [0, 0, 1, 1, 1, 0, 0, 0] 9))) 0 (fun r => match r with | .scfg .. => true | _ => false)).length = 1 ∧
    (pipeOne {}).now (dieOfPipe 0) = 0 := by decide
/-- Words of a valid descriptor and of an invalid one. -/
theorem witness_LateResults_scfg : Desc.valid [0, 0, 1, 1, 1, 0, 0, 0] 0 = true ∧ Desc.valid [0, 0, 0, 0, 0, 0, 0, 0] 0 = false := by decide
theorem witness_WritesLand :
    ((pipeOne { fly := { writes := [{ at_ := 0, cls := 4, addr := 8, bytes := [1, 2], pc := 3 }] } }).me.fly.writes.filter (fun w =>
      decide (w.at_ = 0) && decide (w.cls = 4))).length = 1 ∧ (pipeOne {}).bankSlips 0 3 3 8 2 = [] := by decide
/-- A word for the east, whose buffer holds three words, and one whose buffer is full. -/
theorem witness_DrawbarsLand : ((pipeOne { q := { dbIn := [(0, true, 5)], east := [1, 2, 3] } }).me.q.dbIn.filter (fun e =>
      decide (e.1 = 0))).length = 1 ∧ decide (4 ≤ [1, 2, 3].length + 0) = false ∧ decide (4 ≤ [1, 2, 3].length + 1) = true := by decide
/-- A pipeline whose nest of one K-step runs now. -/
def nestGo : Pipe :=
  { nestPipe with mx := { nest := { go := true, a := { fmt := 1 }, b := { fmt := 1 }, fin := 13 } } }
theorem witness_Nest_step : (pipeOne nestGo).me.mx.nest.go = true ∧ (pipeOne nestGo).me.mx.nest.at_ = 0 ∧
    0 < nestSteps (pipeOne nestGo).me.mx.nest.active ∧ nestFrom (pipeOne nestGo).me.mx.nest.active = 0 ∧
    (pipeOne nestGo).me.kstepScores = [] := by decide
theorem witness_Nest_faults : (pipeOne nestGo).kstepFaults 0 ((pipeOne nestGo).me.kstep 0) = [] := by decide
/-- The same under BSRC with FROM east and FWD, in pipeline 1, with a word in the east buffer or none. -/
def nestEast (ws : List VWord) : State :=
  { pipes := [(1, { nestGo with q := { east := ws }, mx := { nest := { nestGo.mx.nest with active := [(9, 0x28)] } } })], parts := [(0, part1)],
    curPipe := 1 }
theorem witness_Nest_drawbar : nestFrom (nestEast [7]).me.mx.nest.active = 1 ∧ nestFwd (nestEast [7]).me.mx.nest.active = true ∧
    drawbarTo 1 (!true) = some 0 ∧ ((nestEast [7]).me.drawbar true).length = 1 ∧ (nestEast []).me.drawbar true = [] ∧
    (nestEast [7]).me.mx.nest.go = true ∧ (nestEast [7]).kstepFaults 1 ((nestEast [7]).me.kstep 0) = [] := by decide
theorem witness_Nest_done : ({ pipes := [(0, nestGo)], dies := [(0, { tick := 13 })] } : State).now 0 = 13 ∧ nestGo.mx.nest.fin = 13 ∧
    ({} : Pipe).mx.nest.go = false := by decide
/-- A pipeline that has halted in a running launch, the last of its die or not. -/
def finishing (done : Bool) : State :=
  { pipes := (0, { halted := true }) :: (List.range 31).map (fun n => (n + 1, { finished := done }))
    parts := [(0, { part1 with run := { phase := .running, started := [0] } })] }
theorem witness_Finished : ((finishing true).part 0).run.started.contains (dieOfPipe 0) = true ∧ ((finishing true).pipe 0).halted = true ∧
    (finishing true).landed 0 = true ∧ ((finishing true).part 0).run.td = none ∧
    ((finishing true).part 0).pipes.all (fun h => (decide (h = 0) || ((finishing true).pipe h).finished) &&
      ((finishing true).pipe h).fly.hbm.isEmpty && (finishing true).landed h) = true ∧
    1 ∈ ((finishing false).part 0).pipes ∧ ((finishing false).pipe 1).finished = false ∧
    (pipeOne { fly := { res := [{ due := 5, stream := 0, res := .flags }] } }).landed 0 = false := by decide

/-- A transfer of pipeline 1, issued 640 cycles ago. -/
def hbm1 (load : Bool) (issue : Tick) : HbmOp :=
  { isLoad := load, issue := issue, pa := 0x100000, off := 0x5FFF00, data := (List.range 32).map (fun n => (n, 0)), pc := 4 }
def hbmState (tick : Word) (load : Bool) : State :=
  { pipes := [(0, { fly := { hbm := [hbm1 load 0] } }), (1, { fly := { hbm := [hbm1 load 0] } })], dies := [(0, { tick := tick })],
    parts := [(0, part1)] }
theorem witness_Channels_piece : ((hbmState 200 true).pipe 1).fly.hbm[0]? = some (hbm1 true 0) ∧ (hbm1 true 0).isLoad = true ∧
    (hbm1 true 0).refused = false := by decide
/-- Pipeline 0 uses the slot before pipeline 1, and an HLD before the HST beside it. -/
theorem witness_Channels_refusal : (hbm1 true 0).issue + 40 = (hbmState 40 true).now 0 ∧
    0 ∈ ((hbmState 40 true).part ((hbmState 40 true).partOfPipe 1)).pipes ∧ ((hbmState 40 true).pipe 0).fly.hbm = [hbm1 true 0] ∧
    Claims.usesBefore (hbm1 true 0) 0 (hbm1 true 0) 1 ∧ Claims.usesBefore (hbm1 true 0) 1 (hbm1 false 0) 1 ∧
    ¬ Claims.usesBefore (hbm1 false 0) 1 (hbm1 false 0) 1 := by
  unfold Claims.usesBefore; decide
theorem witness_Transfers_load : (((hbmState 640 true).pipe 1).fly.hbm.filter (fun o => o.isLoad && decide (o.issue + 640 = (hbmState 640 true).now 0))) =
      [hbm1 true 0] ∧ (hbm1 true 0).late = 0 ∧ ((hbmState 640 true).readAll (hbm1 true 0)).bad = false ∧
    (hbmState 640 true).bankSlips 1 1 4 0x5FFF00 256 = [] := by decide
theorem witness_Transfers_store : (hbm1 false 0).isLoad = false ∧ (hbm1 false 0).refused = false ∧ (hbm1 false 0).bad = false ∧
    ((hbmState 640 false).part 0).dies.all (fun d => Tick.le ((hbm1 false 0).issue + 640) ((hbmState 640 false).now d)) = true := by decide
/-- Tensor SRAM of pipeline 0, HBM, and a unit that has no count. -/
theorem witness_Errors : eccSource 0 0 = some (.pipe 0) ∧ eccSource 9240 0 = some (.stack (stackOf 0)) ∧ eccSource 3584 0 = none ∧
    (pipeOne {}).mayScrub 0 = true ∧ (pipeRun {} runOne {}).mayScrub 0 = false ∧ (pipeRun {} runOne {}).mayScrub 9240 = true := by decide

/-- Dies 0 and 1, in one partition of two, at ticks `a` and `b`. -/
def twoDies (a b : Word) : State := { dies := [(0, { tick := a }), (1, { tick := b })], parts := [(0, { part1 with width := 2 })] }
/-- A word from die 0 to pipeline 0 of die 1. -/
def relay1 : RelayWord := { src := 0, dst := 32, off := 0x5FFF00, data := 0, ta := 20 }
/-- At 6 cycles the word is kept, at 7 it slips, and its receiver has its cycle to end or has not. -/
theorem witness_RelayWordsArrive : relay1.ta = (twoDies 20 14).now 0 ∧ dieOfPipe relay1.src = 0 ∧
    skew relay1.ta ((twoDies 20 14).now (dieOfPipe relay1.dst)) = 6 ∧ Tick.lt ((twoDies 20 14).now (dieOfPipe relay1.dst)) relay1.ta = true ∧
    skew relay1.ta ((twoDies 20 13).now (dieOfPipe relay1.dst)) = 7 ∧
    ((twoDies 20 13).part ((twoDies 20 13).partOfPipe 32)).run.frozenDies.contains 1 = false ∧
    ((twoDies 20 13).die 1).work.contains (.endPipe 32) = false ∧ ({ work := [.endPipe 32] } : Die).work.contains (.endPipe 32) = true := by
  decide
theorem witness_RelayWordsLand : relay1.ta = (twoDies 26 20).now (dieOfPipe 32) ∧ (twoDies 26 20).landsNow relay1 20 = true ∧
    (twoDies 26 20).bankSlips 32 0 0 0x5FFF00 256 = [] := by decide
theorem witness_Boundaries_few : ∀ dir : Nat, ((((twoDies 0 0).part (((twoDies 0 0).partOf 0).getD 0)).dies.flatMap (fun e =>
    ((twoDies 0 0).die e).chan)).filter (fun u => decide (u.dir = dir))).length ≤ (twoDies 0 0).fw.tch.toNat := by
  intro dir
  have h : ((twoDies 0 0).part (((twoDies 0 0).partOf 0).getD 0)).dies.flatMap (fun e => ((twoDies 0 0).die e).chan) = [] := by decide
  rw [h]
  exact Nat.zero_le _
/-- Forty-one words enter direction 3 in the cycle 7; the 41st is that of pipeline 9. -/
def crowded : State :=
  let us := (List.range 40).map (fun _ => ({ dir := 3, enter := 7, g := 8, pc := 2 } : ChanUse)) ++ [{ dir := 3, enter := 7, g := 9, pc := 5 }]
  { dies := [(0, { tick := 10, chan := us, chanDone := 9 })], parts := [(0, part1)] }
theorem witness_Boundaries_many : (crowded.die 0).chanDone + 1 = crowded.now 0 ∧ crowded.sentUpTo 0 (crowded.now 0) = crowded.now 0 ∧
    (windowUses (crowded.die 0).chan 3 (crowded.now 0))[crowded.fw.tch.toNat]? = some { dir := 3, enter := 7, g := 9, pc := 5 } ∧
    dieOfPipe 9 = 0 := by decide +kernel
/-- An entry of a link plan that reads offset 0 of pipeline 0 at τ 0 for link 0. -/
def linked1 : State := { pipeRun {} { runOne with links := [[0, 0, 0, 1]] } {} with fw := { lup := 1 } }
theorem witness_LinkPlan_read : (linked1.part 0).run.links[0]? = some [0, 0, 0, 1] ∧ globalPipe (bitsOf (wordAt [0, 0, 0, 1] 1) 31 0) = 0 ∧
    linkOcc [0, 0, 0, 1] ((linked1.part 0).run.tau (linked1.now (dieOfPipe 0))) = true ∧
    linked1.fw.lup.getLsbD (bitsOf (wordAt [0, 0, 0, 1] 1) 34 32) = true ∧ (pipeOne {}).fw.lup.getLsbD 0 = false ∧
    linked1.bankSlips 0 0 0 0 256 = [] ∧ linked1.eccSlips 0 0 0 0 256 = [] ∧ (linked1.part 0).run.links[1]? = none := by decide
/-- A word over link 0 for offset 0 of pipeline 0, 32 cycles late, in its cycle; and one out of its window. -/
def comeOver (σ : Int) : LinkWord := { link := 0, dst := 0, data := 0, ta := 0, skew := σ }
theorem witness_LinkPlan_land : ({ linked1 with linkWords := [comeOver 32] } : State).linkWords[0]? = some (comeOver 32) ∧
    globalPipe (comeOver 32).dst = 0 ∧ (comeOver 32).ta = linked1.now 0 ∧ (comeOver 32).skew ≤ 32 ∧ -32 ≤ (comeOver 32).skew ∧
    32 < (comeOver 33).skew ∧ (linked1.part 0).hasDie 0 = true ∧ linked1.linkWords[0]? = none := by decide +kernel
theorem witness_Sideband : (neighbours 0).contains 1 = true ∧ (List.replicate 12 (7 : Tick))[11]? = some 7 ∧
    (neighbours 0).contains 2 = false ∧ (linked1.linksAt (anchorDie 0)).contains 0 = true ∧ (linked1.linksAt 0).contains 1 = false := by decide

/-- A die in a running launch of partition 0. -/
def holdState (x : Die) (ls : SMap LayDesc) : State :=
  { dies := [(0, x)], parts := [(0, { part1 with run := { phase := .running, started := [0], lays := ls } })] }
theorem witness_Align_release : (holdState { align := some { limit := 3, held := 1, pipe := 0, pc := 0 } } []).nextKind 0 = .run ∧
    (holdState { align := some { limit := 3, held := 1, pipe := 0, pc := 0 } } []).inStep 0 1 = true := by decide
/-- Die 0 is 13 cycles ahead of what it has seen of die 1. -/
def ahead : State :=
  { dies := [(0, { tick := 20, align := some { limit := 3, held := 3, pipe := 0, pc := 0 } })]
    parts := [(0, { part1 with width := 2, run := { phase := .running, started := [0] } })] }
theorem witness_Align_slip : ahead.nextKind 0 = .run ∧ ahead.inStep 0 21 = false := by decide
def brake1 : LayDesc := { lay1 with brake := true, limit := 10 }
/-- A die whose layover 5 closed at 0 with a post missing; the cycle 32 has been held `held` times. -/
def braked (tick absorbed : Word) (held : Nat) (rel : Option Tick) : State :=
  holdState { tick := tick, absorbed := absorbed, held := held, heldAt := 32, stalled := absorbed,
              lays := [(5, { opened := 0, closed := some 0, braking := true, judged := true, releaseAt := rel })] } [(5, brake1)]
theorem witness_Brake_start : (braked 31 0 0 none).nextKind 0 = .brakeStart := by decide
theorem witness_Brake_limit : (braked 41 10 10 none).nextKind 0 = .brakeLimit 5 ∧ layOf ((braked 41 10 10 none).lays 0) 5 = some brake1 ∧
    ((braked 41 10 10 none).die 0).layRec 5 =
      some { opened := 0, closed := some 0, braking := true, judged := true, releaseAt := none } ∧
    (List.range 32).find? (fun i => brake1.pipes.getLsbD i) = some 0 ∧ ((braked 41 10 10 none).pipe 0).cyc.dets = [] ∧
    ((braked 41 10 10 none).pipe 0).detected = none := by decide
/-- The post came 10 held cycles after the close. -/
theorem witness_Brake_release : (braked 41 10 10 (some 10)).brakeTotal 0 0 32 = some (some 10) ∧ ((braked 41 10 10 (some 10)).die 0).heldAt = 32 ∧
    ((braked 41 10 10 (some 10)).die 0).atk + 1 = 32 ∧ (((braked 41 10 10 (some 10)).part 0).run.heldFreeze 32 10) = none ∧
    ((braked 41 10 10 (some 10)).part 0).run.frozenDies.contains 0 = false := by decide
/-- A layover that closed 4 cycles ago, whose SETTLE is 4, and a list of it. -/
theorem witness_Settles : ({ opened := 0, closed := some 0 } : LayRec).unsettled lay1 4 = false ∧ lay1.settle = 4 ∧
    ({ opened := 0, closed := some 0 } : LayRec).settled = false ∧ ({ opened := 0, closed := some 0 } : LayRec).closed.isSome = true ∧
    lay1.dies.getLsbD 0 = true ∧ ({ lay1 with nsen := true } : LayDesc).nsen = true := by decide
theorem witness_Delay_end : (holdState { delay := some 3 } []).nextKind 0 = .run ∧ ({ delay := some 3 } : Die).delay.isSome = true := by decide
theorem witness_Allowances : (pipeOne {}).partOf 1 = none ∧ (pipeOne {}).partOf 0 = some 0 ∧ 2800 ≤ 2800 := by decide

/-- Partition 0 with a timed launch supervised by coach 0, whose thread 0 is `th`. -/
def launched (r : TimedRun) (th : Thread) (x : Die) : State :=
  { dies := [(0, x)], parts := [(0, { part1 with run := r })]
    coaches := [(0, { run := some 0, hchain := 0x80, ctxs := [(0, { lid := 1, threads := [(0, th)] })] })] }
theorem witness_DiesStart : 0 ∈ ((launched { phase := .loading, atk0 := 9 } live { tick := 9 }).part 0).dies ∧
    (launched { phase := .loading, atk0 := 9 } live { tick := 9 }).now 0 = 9 ∧
    ((launched { phase := .loading, atk0 := 9 } live { tick := 8 }).part 0).dies.all (fun d =>
      decide ((launched { phase := .loading, atk0 := 9 } live { tick := 8 }).now d ≠ 9)) = true := by decide
theorem witness_Freezes_effect : (launched { phase := .running, frozenDies := [0] } live {}).allFrozen 0 = true ∧
    (launched { phase := .running } live {}).allFrozen 0 = false := by decide
theorem witness_Freezes_notice : (launched { phase := .frozen, notice := true } live {}).chainFrom 0 0 = some (0, 0) ∧
    (launched { phase := .frozen, notice := true } live {}).homeOf 0 = some 0 ∧
    ({ launched { phase := .frozen, notice := true } live {} with coaches := [] } : State).chainFrom 0 0 = none := by decide
/-- Thread 0 with one access to the timed plane in flight. -/
def plane1 (op : AccOp) : Access := { acc1 op (some 3) .plane with id := 16, cls := 16 }
theorem witness_FreezeRequests : (launched { phase := .running } { live with pend := [.acc (plane1 (.tfreeze true))] } {}).planeOps 0
    (fun o => match o with
      | .tfreeze _ => true
      | _ => false) = [(0, plane1 (.tfreeze true))] ∧ ((launched { phase := .running } live {}).planeOps 0 (fun o => match o with
      | .tfreeze _ => true
      | _ => false)) = [] := by decide
/-- In a domain: a cycle to be held, one in which pipeline 0 has its cycle to end, and one in which it has not. -/
theorem witness_Domain_notice : ({ dx := 1 } : Firmware).inDomain = true ∧ ({ held := 2, heldAt := 1 } : Die).inHold.isSome = true ∧
    ({} : Die).inHold = none ∧ ({ work := [.endPipe 0] } : Die).work.contains (.endPipe 0) = true := by decide
/-- PKG 0 of a box of two in X with +X joined; a box of two in X with no link joined, which cannot be. -/
theorem witness_Domain_forms : State.reset.diesBusy (List.range 16) = false ∧ bitsOf (0x40040 : Word) 19 18 = 1 ∧
    linkMay 1 0 3 = true ∧ (0x40200 : Word).getLsbD 9 = true ∧ dimOk 0x8 1 0 = true ∧ dimOk 0x8 0 1 = true ∧ dimOk 0x8 0 2 = true ∧
    dimOk 0 1 0 = false ∧ linkMay 1 0 0 = false := by decide
theorem witness_DiesRestart : ((launched { phase := .restarting, frozenDies := [0] } live { restart := some 0 }).die 0).restart = some 0 ∧
    (launched { phase := .restarting, frozenDies := [0] } live { restart := some 0 }).partOf 0 = some 0 ∧
    ({ lays := [(5, { opened := 0, closed := some 0, releaseAt := some 3 })] } : Die).layRec 5 =
      some { opened := 0, closed := some 0, releaseAt := some 3 } := by decide
theorem witness_Resume_operation : (launched { phase := .running } { live with pend := [.acc (plane1 .tresume)] } {}).planeOps 0
    (fun o => match o with
      | .tresume => true
      | _ => false) = [(0, plane1 .tresume)] ∧ ((launched { phase := .running } { live with pend := [.acc (plane1 .tresume)] } {}).part 0).run.sup = 0 := by
  decide
/-- A frozen launch whose frames lie in a mapped page, with action `a` in the first. -/
def resuming (a : Nat) : State :=
  let s := State.reset.placeGig 0
  { s with mem := s.mem.writeLE 0x40028 8 a, parts := [(0, { (s.part 0) with run := { phase := .frozen } })]
           coaches := [(0, { run := some 0, ctxs := [(0, { lid := 1, threads := [(0, { live with pend := [.acc (plane1 .tresume)] })] })] })] }
theorem witness_Resume_frame : (∃ bl, (resuming 2).readFrame 0 0 [(0, 64)] = .ok bl ∧ bitsOf (wordAt (wordsOf (blockAt bl 0)) 5) 1 0 = 2) ∧
    (∃ bl, (resuming 1).readFrame 0 0 [(0, 64)] = .ok bl ∧ bitsOf (wordAt (wordsOf (blockAt bl 0)) 5) 1 0 = 1) ∧
    (resuming 2).planeOps 0 (fun o => match o with
      | .tresume => true
      | _ => false) = [(0, plane1 .tresume)] := ⟨⟨_, rfl, by decide⟩, ⟨_, rfl, by decide⟩, by decide⟩
theorem witness_Resume_unreadable : ∃ va, (launched { phase := .frozen } live {}).readFrame 0 0 [(0, 64)] = .error va := ⟨_, rfl⟩
/-- The frames of a partition of no pipeline are read: a partition that has dies has frames of 8 MiB, too long to write out here. -/
theorem witness_Resume_frames : (∃ bl, (resuming 0).readFrame 0 0 [(0, 64)] = .ok bl ∧ bitsOf (wordAt (wordsOf (blockAt bl 0)) 5) 1 0 = 0) ∧
    (∃ fr, ({ resuming 0 with parts := [(0, { ((resuming 0).part 0) with configured := false })] } : State).readFrames 0
      ({ ((resuming 0).part 0) with configured := false } : Partition).places = .ok fr) := ⟨⟨_, rfl, by decide⟩, ⟨_, rfl⟩⟩
theorem witness_RestartNotices : ({ dx := 1 } : Firmware).inDomain = true ∧ ({} : Firmware).inDomain = false ∧
    ((launched { phase := .frozen } live {}).part 0).run.phase = .frozen ∧ ((launched { phase := .running } live {}).part 0).run.phase = .running := by
  decide

/-- Thread 0 posts 9 to slot 1 of layover 5 on die 0. -/
def posting (x : Die) : State :=
  { gigOne { live with pend := [.acc (plane1 (.post 0 5 1 9))] } with
    dies := [(0, x)], parts := [(0, { part1 with run := { runOne with lays := [(5, lay1)] } })] }
theorem witness_PostsArrive : ((posting {}).thread 0).accs.filter (fun a => (match a.op with
      | .post .. => true
      | _ => false) && ((posting {}).thread 0).postable a) = [plane1 (.post 0 5 1 9)] ∧ ((posting {}).die 0).mayPost 0 1 = true ∧
    ({ posted := [(1, 1)] } : Die).mayPost 0 1 = false ∧ ({ work := [.issue 0 .c] } : Die).mayPost 0 1 = false ∧
    (gigOne live).thread 0 = live ∧ live.accs = [] := by decide
/-- The layover is open, with the slot free or taken; it brakes; it is closed and not settled; or it has not opened. -/
theorem witness_Posted : layOf ((posting {}).lays 0) 5 = some lay1 ∧ lay1.dies.getLsbD 0 = true ∧ lay1.slots.getLsbD 1 = true ∧
    lay1.slots.getLsbD 2 = false ∧ ({ lays := [(5, { opened := 0 })] } : Die).isOpen 0 5 = true ∧
    ({ post := [(1, { v := true, lid := 5 })] } : Die).post.get 1 {} = { v := true, lid := 5 } ∧
    ({ lays := [(5, { opened := 0, closed := some 0, braking := true, judged := true })] } : Die).isOpen 40 5 = false ∧
    ({ opened := 0, closed := some 0, judged := true } : LayRec).unsettled lay1 3 = true ∧
    ([(1, (9, 5))] : SMap (Word × Nat)).find? (fun e => e.1 == 1) = some (1, (9, 5)) ∧
    ([] : SMap (Word × Nat)).find? (fun e => e.1 == 1) = none := by decide
theorem witness_Interrupts : ((gigOne { live with ext := [7], trap := { xie := true } }).thread 0).ext = 7 :: [] ∧
    ((gigOne { live with ext := [7], trap := { xie := true } }).thread 0).free 0 = true ∧
    ((gigOne { live with ext := [7], trap := { xie := true } }).thread 0).trap.inh = false := by decide

/-- Coach 0 with what it runs and holds, launch 1 and launch 2 on it. -/
def coachOne (q : Coach) (l1 l2 : Launch) : State := { parts := [(0, part1)], launches := [(1, l1), (2, l2)], coaches := [(0, q)] }
def ctx1 : Context := { lid := 1, threads := [(0, live)], slice := 8192, sliceEnd := 8192 }
theorem witness_Context_wake : (coachOne { run := some 0, ctxs := [(0, ctx1)] } launch1 { launch1 with wakes := [0] }).wakesFor 0 = [2] ∧
    (coachOne { run := some 0, ctxs := [(0, ctx1)] } launch1 { launch1 with wakes := [0] }).launch 2 = some { launch1 with wakes := [0] } := by
  decide
theorem witness_Context_start : (coachOne { waiting := [1] } launch1 launch1).best ((coachOne { waiting := [1] } launch1 launch1).ready 0) = some 1 ∧
    (coachOne { waiting := [1] } launch1 launch1).mayStart 0 1 = true ∧ ({ waiting := [1] } : Coach).freeSlot = some 0 := by decide
/-- The only thread of group 0 has left. -/
def exiting : State := coachOne { run := some 0, ctxs := [(0, { ctx1 with threads := [(0, { live with phase := .left })] })] } launch1 launch1
theorem witness_Context_exit : SMap.wf exiting.coaches = true ∧ SMap.wf (exiting.coach 0).ctxs = true ∧
    (exiting.coach 0).ctxs = [(0, exiting.ctx 0 0)] ∧ (exiting.ctx 0 0).groupDone (exiting.coach 0).cards 0 = true ∧
    exiting.cycle (dieOfCoach 0) ≠ BitVec.allOnes 64 ∧ (ctx1.groupDone [] 0 || ctx1.groupDone [] 1) = false := by decide
/-- Launch 1, a child of launch 2, has ended, and answers packet 3. -/
theorem witness_Context_complete : (coachOne {} { launch1 with parent := some 2, job := some 3 } launch1).launch 1 =
      some { launch1 with parent := some 2, job := some 3 } ∧ launch1.phase = .started ∧
    (coachOne {} { launch1 with parent := some 2, job := some 3 } launch1).launchLeft 1 { launch1 with parent := some 2, job := some 3 } = true ∧
    (coachOne { waiting := [1] } launch1 launch1).launchLeft 1 launch1 = false ∧ (coachOne {} launch1 launch1).launch 3 = none := by decide
/-- KILL is set in the context's page, with code 9. -/
theorem witness_Context_kill : ({ coachOne { run := some 0, ctxs := [(0, ctx1)] } launch1 launch1 with mem := [(8, 1), (16, 9)] } : State).killWord 0 0 =
    some 9 ∧ ctx1.leaving = false ∧ ctx1.sliceLimit = none := by decide
theorem witness_Context_slice : (coachOne { run := some 0, ctxs := [(0, ctx1)] } launch1 launch1).killWord 0 0 = none ∧
    (coachOne { run := some 0, ctxs := [(0, ctx1)] } launch1 launch1).waits 0 true = false := by decide
/-- A second launch, on the scratchpad beyond that of the first, waits. -/
def launch2 : Launch := { launch1 with header := [0, 0, 0, 0, 1, 0x1010000, 0x100000001000, 0] }
theorem witness_Context_waits : (coachOne { run := some 0, ctxs := [(0, ctx1)], waiting := [2] } launch1 launch2).waits 0 true = true ∧
    ctx1.sliceTrapped 0 = [] ∧ ({ ctx1 with sliceLimit := some 9 } : Context).sliceLimit.isSome = true ∧
    ({ ctx1 with leaving := true } : Context).leaving = true := by decide
/-- Thread 0 asks for the SLICE trap, at the end of its slice. -/
def asking : State :=
  { coachOne { run := some 0, ctxs := [(0, { ctx1 with threads := [(0, { live with trap := { sltrap := true } })] })], waiting := [2] } launch1 launch2
    with dies := [(0, { gigCycle := 8192 })] }
theorem witness_Context_slice_trap : (asking.coach 0).run = some 0 ∧ (asking.ctx 0 0).leaving = false ∧ (asking.ctx 0 0).sliceLimit = none ∧
    ¬ (asking.cycle (dieOfCoach 0)).toNat < (asking.ctx 0 0).sliceEnd.toNat ∧ asking.killWord 0 0 = none ∧ asking.waits 0 true = true ∧
    (asking.ctx 0 0).sliceTrapped 0 = [0] ∧ (asking.thread (0 * 32 + 0)).trap.inh = false := by decide
theorem witness_Context_out : (coachOne { run := some 0, ctxs := [(0, { ctx1 with leaving := true })] } launch1 launch1).drained 0 0 = true ∧
    (coachOne { run := some 0, ctxs := [(0, { ctx1 with leaving := true, arrivals := [{ bar := 1, who := .engine }] })] } launch1 launch1).drained 0 0 =
      false ∧ (coachOne { run := some 0, ctxs := [(0, ctx1)] } launch1 launch1).waits 0 false = false := by decide
theorem witness_Context_restore : (coachOne { ctxs := [(0, { ctx1 with state := .out })] } launch1 launch1).best
      ((coachOne { ctxs := [(0, { ctx1 with state := .out })] } launch1 launch1).ready 0) = some 1 ∧
    ({ ctxs := [(0, { ctx1 with state := .out })] } : Coach).ctxOf 1 = some 0 ∧
    (coachOne { ctxs := [(0, { ctx1 with state := .out })] } launch1 launch1).killWord 0 0 = none ∧ ctx1.inbox = [] := by decide
/-! ### Witnesses: events, cards and shoot-downs (O47 to O49) -/

/-- What is on its way to line or barrier 15 of coach 0. -/
def ev1 (k : EvKind) : EvMsg := { kind := k, coach := 0, line := 15, lid := 1, src := 1, srcBar := 2 }
def evState (k : EvKind) (b : Barrier) : State := { gigCtx (barCtx b) with evs := [ev1 k] }
theorem witness_EventUnit_coming : Claims.coming (evState .childArrival {}) 0 .childArrival = [ev1 .childArrival] ∧
    Claims.coming (evState .release {}) 0 .release = [ev1 .release] ∧ Claims.coming (evState .evmsg {}) 0 .evmsg = [ev1 .evmsg] ∧
    Claims.coming (evState .notice {}) 0 .notice = [ev1 .notice] ∧ Claims.coming (evState .completion {}) 0 .completion = [ev1 .completion] ∧
    Claims.coming (evState .release {}) 0 .notice = [] ∧ ((evState .release {}).coach 0).ctxOf 1 = some 0 ∧
    ((evState .release {}).coach 0).ctxOf 2 = none ∧ SMap.wf ((evState .notice {}).coach 0).ctxs = true ∧
    ((evState .notice {}).coach 0).holds = [0] := by decide
/-- A chained barrier of two that waits, with none, two and two more arrivals held, and one that does not wait. -/
theorem witness_EventUnit_release : Nat.min ({ expect := 2, count := 2, sent := true } : Barrier).held 2 ≠ 2 ∧
    Nat.min ({ expect := 2, count := 2, sent := true, held := 3, linked := true } : Barrier).held 2 = 2 ∧
    ({ expect := 2, count := 2, sent := true, held := 3 } : Barrier).linked = false ∧ ({ expect := 2 } : Barrier).sent = false := by decide
/-- A thread that waits on line 15, and a context of none that does. -/
theorem witness_EventUnit_line : (barCtx {}).threads.all (fun e => match e.2.wait with
      | .line m _ => !(decide (m = 15))
      | _ => true) = true ∧ ∃ (pre post : List (Nat × Thread)),
    ({ barCtx {} with threads := [(3, { live with wait := .line 15 4 })] } : Context).threads = pre ++ (3, { live with wait := .line 15 4 }) :: post ∧
    SMap.wf (pre ++ (3, { live with wait := .line 15 4 }) :: post) = true := ⟨by decide, [], [], rfl, by decide⟩
theorem witness_EventUnit_timeout : ((gigCtx { barCtx {} with threads := [(0, { live with wait := .phase 15 5 3 (some 100) })] }).coach (coachOf 0)).ctxs.filterMap
      (fun e => match (e.2.threads.get (localOf 0) {}).wait with
        | .phase _ _ _ (some lim) => some lim
        | _ => none) = [100] ∧ ((gigCtx {}).cycle (dieOf 0)).toNat ≤ 100 ∧ 100 + 1 < 2 ^ 64 ∧ 100 < (101 : Word).toNat := by decide
/-- Thread 0 holds a SEND for thread 3. -/
def sending : State :=
  { gigCtx { lid := 1, threads := [(0, { live with wait := .send 3 [] }), (3, live)] } with held := [{ src := 0, lid := 1, dst := 3, cycle := 0 }] }
theorem witness_EventUnit_send : (sending.thread 0).wait = .send 3 [] ∧ sending.slotOf 3 = some 0 ∧ sending.homeOf 3 = some 0 ∧
    (sending.ctx 0 0).state = .running ∧ sending.roomFor 3 = true ∧ (sending.thread 3).wait = .none ∧ (sending.thread 0).phase = .running ∧
    sending.held.find? (fun e => decide (e.dst = 3) && sending.sends e) = some { src := 0, lid := 1, dst := 3, cycle := 0 } := by decide
/-- The receiver is gone. -/
theorem witness_EventUnit_gone : ((gigOne { live with wait := .send 3 [] }).thread 0).wait = .send 3 [] ∧
    (gigOne { live with wait := .send 3 [] }).homeOf 99 = none ∧ live.trap.inh = false ∧ live.phase = .running := by decide
/-- Thread 0 with a load or a store of the event window at `o` in flight. -/
def windowState (o : Nat) (load : Bool) (k : Context) : State :=
  gigCtx { k with threads := [(0, { live with pend := [.acc (acc1 (if load then .load 8 false else .store 8 0) (some 3) (.event o))] })] }
theorem witness_EventWindow_barrier : (windowState 0x78 true (barCtx { expect := 2 })).eventAcc 0 0 true =
      some (acc1 (.load 8 false) (some 3) (.event 0x78), 0x78, 0) ∧ 0x78 / 8 = 15 ∧
    ((windowState 0x78 true (barCtx { expect := 2 })).thread 0).mayRelease (acc1 (.load 8 false) (some 3) (.event 0x78)) = true ∧
    (((windowState 0x78 true (barCtx { expect := 2 })).ctx 0 0).bars.get 15 {}).expect ≠ 0 ∧
    (((windowState 0x78 true {}).ctx 0 0).bars.get 15 {}).expect = 0 := by decide
theorem witness_EventWindow_mutex : ((windowState 0x178 true {}).thread 0).mayPerform 0 (acc1 (.load 8 false) (some 3) (.event 0x178)) = true ∧
    (0x178 - 0x100) / 8 = 15 ∧ (windowState 0x178 true {}).eventAcc 0 0 true = some (acc1 (.load 8 false) (some 3) (.event 0x178), 0x178, 0) := by
  decide
/-- Threads 0 and 1 ask for mutex 15 in one gig cycle; it is free, or held by thread 4. -/
def askers (m : SMap Nat) : Context :=
  { threads := [(0, { live with wait := .asking 15 3 }), (1, { live with wait := .asking 15 3 })], mutex := m }
theorem witness_MutexesTaken : (askers []).threads = [] ++ (0, { live with wait := .asking 15 3 }) :: [(1, { live with wait := .asking 15 3 })] ∧
    (askers []).threads = [(0, { live with wait := .asking 15 3 })] ++ (1, { live with wait := .asking 15 3 }) :: [] ∧
    SMap.wf (askers []).threads = true ∧ ((askers []).mutex.find? (fun e => e.1 == 15)) = none ∧
    ((askers [(15, 4)]).mutex.find? (fun e => e.1 == 15)).isSome = true := by decide
theorem witness_EventWindow_line : ((windowState 0x2F8 true { lines := 0x80000000 }).ctx 0 0).lines.getLsbD 31 = true ∧ (0x2F8 - 0x200) / 8 = 31 ∧
    ((windowState 0x2F8 true {}).ctx 0 0).lines.getLsbD 31 = false ∧
    ((windowState 0x2F8 true {}).thread 0).mayPerform 0 (acc1 (.load 8 false) (some 3) (.event 0x2F8)) = true := by decide
theorem witness_EventWindow_store : (windowState 0x178 false { mutex := [(15, 0)] }).eventAcc 0 0 false =
      some (acc1 (.store 8 0) (some 3) (.event 0x178), 0x178, 0) ∧ ((windowState 0x178 false { mutex := [(15, 0)] }).ctx 0 0).mutex = [(15, localOf 0)] ∧
    ((windowState 0x178 false { mutex := [(15, 0)] }).thread 0).wait = .none ∧
    ((windowState 0x178 false { mutex := [(15, 0)] }).ctx 0 0).mutex.find? (fun e => e.1 == 15) = some (15, localOf 0) ∧
    ((windowState 0x178 false {}).ctx 0 0).mutex.find? (fun e => e.1 == 15) ≠ some (15, localOf 0) ∧
    ((windowState 0x2F8 false {}).thread 0).mayRelease (acc1 (.store 8 0) (some 3) (.event 0x2F8)) = true := by decide
/-- An access that an earlier one of its class holds back, and one that must be the oldest. -/
theorem witness_EventWindow_held : ({ live with pend := [.acc (acc1 (.load 8 false) none (.phys 0)), .acc { acc1 (.load 8 false) (some 3) (.event 0) with id := 1 }] } :
      Thread).mayPerform 0 { acc1 (.load 8 false) (some 3) (.event 0) with id := 1 } = false ∧
    ({ live with pend := [.acc (acc1 (.load 8 false) none (.phys 0)), .acc { acc1 (.load 8 false) (some 3) (.event 0) with id := 1 }] } :
      Thread).mayRelease { acc1 (.load 8 false) (some 3) (.event 0) with id := 1 } = false := by decide

theorem witness_Shoot : (inFlight (acc1 (.store 8 0x8000000000010000) none (.control 8))).access 0 0 =
      some (acc1 (.store 8 0x8000000000010000) none (.control 8)) ∧
    ((inFlight (acc1 (.store 8 0x8000000000010000) none (.control 8))).thread 0).mayRelease (acc1 (.store 8 0x8000000000010000) none (.control 8)) = true ∧
    (inFlight (acc1 (.store 8 0x8000000000010000) none (.control 8))).partOfThread 0 = 0 := by decide
theorem witness_Done : ((inFlight (acc1 (.load 8 false) (some 3) (.control 16))).thread 0).mayPerform 0 (acc1 (.load 8 false) (some 3) (.control 16)) = true ∧
    ((inFlight (acc1 (.load 8 false) (some 3) (.control 16))).part 0).shoots = [] := by decide
theorem witness_HostAccess : (inFlight (acc1 (.load 8 false) (some 3) (.phys (hostAddr 1 0)))).tier (hostAddr 1 0) = .host ∧
    ((inFlight (acc1 (.load 8 false) (some 3) (.phys (hostAddr 1 0)))).thread 0).mayPerform 0 (acc1 (.load 8 false) (some 3) (.phys (hostAddr 1 0))) = true := by
  decide
theorem witness_Shootdown : ({ gigOne live with parts := [(0, { part1 with shoots := [{ num := 0, kind := 2, va := 0 }] })] } : State).shootBusy 0
    { num := 0, kind := 2, va := 0 } = false := by decide

/-- Coach 0 runs launch 1 and holds card `d`. -/
def cardState (d : Card) : State := { gigOne live with coaches := [(0, { run := some 0, ctxs := [(0, ctx1)], cards := [d] })] }
theorem witness_Card_start : (cardState (aCard 7)).card 0 7 = some (aCard 7) ∧ (cardState (aCard 7)).engineLid 0 = some 1 ∧
    (((cardState (aCard 7)).engineCards 0 1).find? (fun e => (cardState (aCard 7)).startable 0 e &&
      decide (e.retry.toNat ≤ ((cardState (aCard 7)).die 0).gigCycle.toNat))).map (fun e => e.num) = some 7 := by decide
def runCard (w : List Word) (rs : List CardRow) : Card := { aCard 7 with state := .running, words := w, rows := rs }
/-- A row that has landed whole. -/
def row1 : CardRow := { row := 0, src := none, got := [], wrote := [], pages := [], full := true }
theorem witness_Card_rows : ([row1].filter (fun r => r.full)).length = wRows card1 ∧ wAv card1 = false := by decide
theorem witness_Card_row_step : ∃ (r : CardRow) (u : State),
    (cardState (runCard card1 [row1])).rowStep 0 (runCard card1 [row1]) = (.ok r, u) := by
  have h : wRows card1 = 1 := by decide
  exact ⟨row1, _, by simp [State.rowStep, State.pickRow, runCard, h, Nat.mod_one, row1]; rfl⟩
/-- A gather card whose index, 2, is not below IBOUND. -/
def gather1 : List Word := [5, 0x6800000000, 0x100, 0x1000, 0x4000000001, 0, 0x1FFFFFFC00000, 0x100000000]
def gathering : State := { cardState (runCard gather1 []) with gigs := [(0, { sp := [(0, 2)] })] }
theorem row_step_fails {s u : State} {c i : Nat} {d : Card} (p : s.pickRow d = (i, u)) (h : d.rows = [])
    (b : (u.beginRow c d i).1.isOk = false) : ∃ (e : Nat) (v : State), s.rowStep c d = (.error e, v) := by
  unfold State.rowStep
  rw [p]
  simp only [h, List.find?_nil]
  rcases hb : u.beginRow c d i with ⟨r, v⟩
  rw [hb] at b
  cases r with
  | error e => exact ⟨e, v, rfl⟩
  | ok r => cases b
theorem witness_Card_fault_row : gathering.pickRow (runCard gather1 []) = (0, gathering.drawn) := by
  have h : wRows gather1 = 1 := by decide
  simp [State.pickRow, runCard, h, Nat.mod_one]
theorem witness_Card_fault : ∃ (e : Nat) (u : State), gathering.rowStep 0 (runCard gather1 []) = (.error e, u) :=
  row_step_fails witness_Card_fault_row rfl (by decide)
/-- A card of 4 MiB that has no grant, with the bucket empty. -/
theorem witness_Card_leave : wSize [5, 0x2800000000, 0x100, 0x1000, 0x40000000000001, 0, 0, 0] = 0x400000 ∧
    0x400000 + chargedBytes (({} : Die).charges false) ≤ ({} : Die).lb ∧ (aCard 7).granted = false ∧
    (cardState (aCard 7)).startable 0 (aCard 7) = true := by decide
theorem witness_Grant_expiry : ({ grants := [{ bytes := 1, cxl := false, expiry := 9 }] } : Die).gigCycle.toNat < (9 : Word).toNat := by decide
/-! ### Witnesses: the host portal, firmware and the invariant (O50 to O59) -/

/-- Packet 1 waits in partition `p`. -/
def portalOne (x : Job) (p : Partition) : State := { parts := [(0, p)], portal := { jobs := [(1, x)], nextJob := 2 } }
def packet (w : List Word) : Job := { port := 0, words := w }
theorem witness_Portal : 0 < 2 ∧ (8 = 8 ∧ 4032 % 64 = 0 ∧ 4032 < 4096) ∧ ({ owner := 1 } : Own).owner.toNat = 0 + 1 ∧
    (portalOne (packet []) part1).buffered 0 < 256 ∧ ({ owner := 3 } : Own).owner.toNat = 2 + 1 ∧ ({ handover := true } : Firmware).handover = true ∧
    decide (({ owner := 2 } : Own).owner.toNat = 0 + 1) = false := by decide
theorem witness_Portal_full : ({ portal := { jobs := List.replicate 256 (1, packet []) } } : State).buffered 0 = 256 := by
  decide +kernel
/-- A completed packet with a record address, and one of the BMC. -/
theorem witness_Record : (portalOne { packet [0x10001] with phase := .completed } part1).portal.jobs.all (fun e => decide (1 ≤ e.1) ||
    !(e.2.sameQueue (packet [])) || !(decide (e.2.crec ≠ 0) || decide (e.2.port = 2)) || decide (e.2.phase = .recorded)) = true ∧
    (packet [0x10001, 0x100, 0, 0, 0, 0, 0, 0]).crec ≠ 0 ∧ (packet [0x10001]).crec = 0 ∧
    (portalOne (packet []) part1).damaged (hostAddr 0 0x100) 32 = false ∧ ({ packet [] with port := 2 } : Job).port = 2 := by decide
/-- A COPY with a reserved word set, which is malformed; a packet of another row; and one that has ended. -/
theorem witness_Packets : Claims.packetRow (.copy 1) 1 0x30 ∧ (portalOne (packet [3, 0, 0, 0, 1, 0, 0, 1]) part1).malformed (packet [3, 0, 0, 0, 1, 0, 0, 1]) = true ∧
    (packet [3, 0, 0, 0, 1, 0, 0, 1]).form = some 0x30 ∧
    (portalOne (packet [3, 0, 0, 0, 1, 0, 0, 1]) part1).jobMayStart 1 (packet [3, 0, 0, 0, 1, 0, 0, 1]) = true ∧
    (packet [4, 0, 0, 9]).form = some 0x40 ∧ (packet [15]).form = none ∧
    (portalOne (packet []) part1).damaged (hostAddr 0 0) 48 = false ∧ State.reset.job 1 = none := by
  unfold Claims.packetRow; decide
theorem witness_Signals : Claims.starts (portalOne (packet [4, 0, 255, 9]) part1) 1 0x40 (packet [4, 0, 255, 9]) ∧
    Claims.starts (portalOne (packet [4, 0, 0x1FF, 9]) part1) 1 0x41 (packet [4, 0, 0x1FF, 9]) := by
  unfold Claims.starts; decide
theorem witness_Waits : Claims.starts (portalOne (packet [5, 0, 3, 9]) part1) 1 0x50 (packet [5, 0, 3, 9]) ∧ (9 : Word).toNat ≤ (9 : Word).toNat ∧
    ((portalOne (packet [5, 0, 3, 9]) part1).part 0).ctrs.get 3 0 = 0 := by
  unfold Claims.starts; decide
theorem witness_WaitComplete : ({ packet [5, 0, 3, 9] with phase := .started } : Job).form = some 0x50 ∧
    (9 : Word).toNat ≤ (({ part1 with ctrs := [(3, 9)] } : Partition).ctrs.get 3 0).toNat := by decide
theorem witness_Uet : 255 < 256 ∧ ((portalOne (packet []) part1).part 0).configured = true := by decide

theorem witness_LaunchTimed_none : Claims.starts (portalOne (packet [1, 0, 0]) part1) 1 0x10 (packet [1, 0, 0]) ∧
    (portalOne (packet [1, 0, 0]) part1).excluded 1 (packet [1, 0, 0]) = false ∧
    ((portalOne (packet [1, 0, 0]) part1).part 0).resident.image = [] := by unfold Claims.starts; decide
/-- An object of one .tprog range of every seat and a .ttab of one stage and a timed launch header of die 0 (03 Tables 3-22, 3-23). -/
def object1 : List Byte :=
  ([0x00020001314F4A46, 1, 64 + 128 * 2 ^ 32, 192 + 288 * 2 ^ 32, 0, 0, 0, 0,
    1, 0, 0, 0, 0, 0, 0, 0, 1023 * 2 ^ 16, 0, 0, 0, 0, 0, 0, 0] : List Nat).flatMap (toBytes 8) ++
  ([1, 64, 96, 0xFFFFFFFF, 0, 0, 0, 0, 1, 10, 0, 1, 1] : List Nat).flatMap (toBytes 8) ++ List.replicate 184 0
def withObject : State := portalOne (packet [1, 0, 0]) { part1 with bankA := { image := object1 } }
theorem witness_LaunchTimed_image : withObject.refuseImage 0 = none := by decide +kernel
theorem witness_LaunchTimed : Claims.starts withObject 1 0x10 (packet [1, 0, 0]) ∧ withObject.excluded 1 (packet [1, 0, 0]) = false := by
  unfold Claims.starts; decide +kernel
theorem witness_LaunchTimed_approved : withObject.seedClash (seedOf (timedHeader (withObject.part 0).resident.image) withObject.nextLid) = none ∧
    withObject.approves (withObject.part 0) (stagesOf (withObject.part 0).resident.image) = true := by decide +kernel
/-- The same object with SEEDFLT and a seed record of 100 values from 0, where launch 7, which runs in partition 1, uses value 50. -/
def object2 : List Byte := object1.take 288 ++ ([0x10001, 0, 0, 0, 100] : List Nat).flatMap (toBytes 8) ++ List.replicate 152 0
def withSeeds (live : Bool) : State :=
  { portalOne (packet [1, 0, 0]) { part1 with bankA := { image := object2 } } with
    fw := { seeds := [{ seed := 0, cbase := 50, span := 1, lid := 7 }] }
    parts := [(0, { part1 with bankA := { image := object2 } }), (1, { part1 with run := { lid := 7, phase := if live then .running else .complete } })] }
theorem witness_LaunchTimed_seed : (withSeeds true).refuseImage 0 = none ∧ bitOf (wordAt (timedHeader object2) 0) 16 = true ∧
    (seedOf (timedHeader object2) 1).span ≠ 0 ∧ (withSeeds true).seedClash (seedOf (timedHeader object2) 1) = some 7 ∧
    (withSeeds false).seedClash (seedOf (timedHeader object2) 1) = none ∧ (withSeeds true).launchBefore 1 = false ∧
    ({ portal := { jobs := [(1, packet [1]), (2, packet [1])] } } : State).launchBefore 2 = true ∧
    (withSeeds true).chooseImage 0 0 = (withSeeds true, none) := by decide +kernel
/-- An image of no object is refused, an object that cannot be read is not chosen, and a stage of class 255 is beyond any allowance. -/
theorem witness_LaunchTimed_refused : ((portalOne (packet [1, 0, 0]) { part1 with bankA := { image := [0] } }).refuseImage 0).isSome = true ∧
    ((portalOne (packet [1, 0, 0x40]) part1).chooseImage 0 0x40).2.isSome = true ∧
    (portalOne (packet []) part1).approves part1 [{ stage1 with pclass := 255 }] = false := by decide +kernel
/-- The launch header at 0x40 of the mapped page of `spawner`. -/
def dynState : State := { spawner with portal := { jobs := [(1, packet [2, 0, 0x40])] } }
theorem witness_LaunchDyn : Claims.starts dynState 1 0x20 (packet [2, 0, 0x40]) := by unfold Claims.starts; decide
theorem witness_LaunchDyn_header : ((dynState.pagedBytes 0 0x40 64).toOption.map wordsOf) = some header1 ∧
    (dynState.die (dieOfCoach (hFcoach header1))).pool.length < 256 := by decide
/-- A header that cannot be read, one of zeros, records that cannot be read, and a record with a reserved bit. -/
theorem witness_LaunchDyn_refused : (∃ a, dynState.pagedBytes 0 0x10000 64 = .error a) ∧ headerOk (dynState.part 0) [] = false ∧
    (∃ a, dynState.pagedBytes 0 0x10000 64 = .error a) ∧ evinitOk (evinitOf 0 [0, 0, 0, 0x80]) 0 1 = false ∧
    256 ≤ ({ pool := List.replicate 256 0 } : Die).pool.length :=
  ⟨⟨_, rfl⟩, by decide, ⟨_, rfl⟩, by decide, Nat.le_of_eq (List.length_replicate ..).symm⟩
/-- Fills and copies of 32 bytes, up to the 32-byte boundary. -/
theorem witness_CopyFill : Claims.starts (portalOne (packet [3, 0, 0, 0, 0x100000000020, 9]) part1) 1 0x31 (packet [3, 0, 0, 0, 0x100000000020, 9]) ∧
    (packet [3, 0, 0, 0, 0x100000000020, 9]).dsp = 0 ∧ (0 : Word).toNat % 32 + (packet [3, 0, 0, 0, 0x100000000020, 9]).copyLen ≤ 32 := by
  unfold Claims.starts; decide
theorem witness_Copy : Claims.starts (portalOne (packet [3, 0, 0x1000, 0, 32]) part1) 1 0x30 (packet [3, 0, 0x1000, 0, 32]) ∧
    (packet [3, 0, 0x1000, 0, 32]).ssp = 0 ∧ (packet [3, 0, 0x1000, 0, 32]).copyLen = 32 := by unfold Claims.starts; decide
/-- A place in host memory, one that a page table does not reach, a copy that waits for a launch, and a host access that fails. -/
theorem witness_Copy_places : (portalOne (packet []) part1).spot 0 0 0 0x40 true = (some (.phys (hostAddr 0 0x40)), portalOne (packet []) part1) ∧
    ((portalOne (packet []) part1).spot 0 0 1 0x40 true).1 = none ∧ (packet [3, 0, 0x1000, 0x1FFFE00000000, 32 + 2 ^ 32]).copyLen ≠ 0 ∧
    ({ bad := [hostAddr 0 0x40 / 32] } : State).spotFails (.phys (hostAddr 0 0x40)) 32 = true ∧
    ({} : State).spotFails (.phys (hostAddr 0 0x40)) 32 = false ∧
    (({} : State).copyBytes 0 0 0 0 0 none).2.2 = none := by decide +kernel
theorem witness_Copy_apart : ∀ m n, m < 32 → n < 32 → hostAddr 0 ((0x1000 : Word).toNat + m) ≠ hostAddr 0 ((0 : Word).toNat + n) := by
  intro m n hm hn
  have a : (0x1000 : Word).toNat = 4096 := by decide
  have b : (0 : Word).toNat = 0 := by decide
  rw [a, b]
  unfold hostAddr hostBase
  simp only [Nat.reduceEqDiff, if_false]
  omega

/-- Partition 0 with 64 zero bytes resident, whose CRC is right, in both banks. -/
def banks1 : Partition := { part1 with bankA := { image := List.replicate 64 0 }, bankB := { image := List.replicate 64 0, intact := true } }
theorem witness_ConfigApply : Claims.starts (portalOne (packet [6, 0, 0, 0, 0, 0]) banks1) 1 0x60 (packet [6, 0, 0, 0, 0, 0]) ∧
    (portalOne (packet [6, 0, 0, 0, 0, 0]) banks1).exclusiveBefore 1 (packet [6, 0, 0, 0, 0, 0]) true = false ∧
    ((portalOne (packet [6, 0, 0, 0, 0, 0]) banks1).readSpace 0 0 0 0 0).toOption = some [] ∧
    ((diffEntries 1 []).bind (fun l => l.foldlM DiffEntry.apply banks1.resident.image)) = some (List.replicate 64 0) := by
  unfold Claims.starts; decide
theorem witness_ConfigApply_crc : crc32c ((List.replicate 64 0).drop 64) = (0 : Word).setWidth 32 ∧
    crc32c ((List.replicate 64 0).drop 64) ≠ (1 : Word).setWidth 32 := by decide
theorem witness_ConfigRollback : Claims.starts (portalOne (packet [6, 0, 0, 0, 2, 0]) banks1) 1 0x61 (packet [6, 0, 0, 0, 2, 0]) ∧
    (portalOne (packet [6, 0, 0, 0, 2, 0]) banks1).excluded 1 (packet [6, 0, 0, 0, 2, 0]) = false ∧ banks1.shadow.intact = true ∧
    crcOk banks1.shadow.image = true ∧ part1.shadow.intact = false := by unfold Claims.starts; decide
theorem witness_ConfigSwap : ({ packet [6] with ready := true, phase := .started } : Job).kind = 6 ∧
    (portalOne { packet [6] with ready := true, phase := .started } banks1).excluded 1 { packet [6] with ready := true, phase := .started } =
      false := by decide
/-- A descriptor at host address 0 that creates a partition of die 0 with slot 0; one of zeros, with no slot; and one that destroys. -/
def creating (v : Nat) (p : Partition) : State := { portalOne (packet [9, 0, 0, 0]) p with mem := Memory.writeLE [] hostBase 8 v }
theorem witness_Create : Claims.starts (creating 0x10000 {}) 1 0x90 (packet [9, 0, 0, 0]) ∧
    (creating 0x10000 {}).exclusiveBefore 1 (packet [9, 0, 0, 0]) false = false := by unfold Claims.starts; decide
theorem witness_Create_descriptor : wordsOf ((creating 0x10000 {}).mem.readBytes (hostAddr 0 0) 320) = 0x10000 :: List.replicate 39 0 := by
  decide +kernel
theorem witness_Create_ok : (creating 0x10000 {}).createOk 0 (0x10000 :: List.replicate 39 0) = true ∧
    (creating 0 {}).createOk 0 (List.replicate 40 0) = false ∧ bitOf (wordAt (0x10000 :: List.replicate 39 0) 0) 0 = false ∧
    (creating 0x10000 {}).diesBusy (((creating 0x10000 {}).part 0).dies ++ (descPart (0x10000 :: List.replicate 39 0)).dies) = false := by
  decide
/-- A paged descriptor of a partition that is not configured, and host memory that cannot be read. -/
theorem witness_Partition_unreadable : (creating 0 {}).part 0 = {} ∧ ({} : Partition).configured = false ∧ bitsOf (1 : Word) 0 0 = 1 ∧
    (∃ a, ({ bad := [hostAddr 0 0 / 32] } : State).readSpace 0 0 0 0 320 = .error a) := ⟨by decide, rfl, by decide, ⟨_, rfl⟩⟩
theorem witness_Destroy : wordsOf ((creating 1 part1).mem.readBytes (hostAddr 0 0) 320) = 1 :: List.replicate 39 0 ∧
    (creating 1 part1).diesBusy ((creating 1 part1).part 0).dies = false := by decide +kernel
/-- The counters from 255 on, to a buffer of 8 bytes. -/
theorem witness_Queries : Claims.queryRow (.queryCounters 1) 1 = some (0x75, none) ∧
    Claims.starts (portalOne (packet [7, 0, 0xFF00000005, 0, 8]) part1) 1 0x75 (packet [7, 0, 0xFF00000005, 0, 8]) ∧
    bitsOf (0xFF00000005 : Word) 63 32 = 255 := by unfold Claims.starts; decide
/-- Whichever an image is, refused or not, one of the two clauses speaks of it. -/
theorem witness_FwUpdate : Claims.starts (portalOne (packet [8, 0, 0, 4096]) part1) 1 0x80 (packet [8, 0, 0, 4096]) ∧
    (portalOne (packet [8, 0, 0, 4096]) part1).exclusiveBefore 1 (packet [8, 0, 0, 4096]) true = false ∧
    ((∃ r, (portalOne (packet [8, 0, 0, 4096]) part1).refuseFirmware [] = some r) ∨
      (portalOne (packet [8, 0, 0, 4096]) part1).refuseFirmware [] = none) := by
  refine ⟨by unfold Claims.starts; decide, by decide, ?_⟩
  cases (portalOne (packet [8, 0, 0, 4096]) part1).refuseFirmware [] with
  | none => exact .inr rfl
  | some r => exact .inl ⟨r, rfl⟩
theorem witness_FwUpdate_started : ({ packet [8, 0, 0, 4096] with phase := .started } : Job).form = some 0x80 := by decide
theorem witness_PackageReset : 15 < 16 ∧ 15 ∈ [15] := by decide
theorem witness_Ownership : (1 : BitVec 2) ≠ 0 ∧ ({} : Own).owner = 0 ∧ ({} : Own).succ ≠ 1 ∧ ({ owner := 2, succ := 1 } : Own).succ = 1 ∧
    ({ owner := 2 } : Own).owner ≠ 0 := by decide
theorem witness_Invariant : gigNext.Inv ∧ after (step gigNext) (fun _ => true) = some true := by
  unfold State.Inv; decide
/-- LUI s1 while a result for s1 is in flight, with checking on. -/
theorem witness_LiAndLui : (pipeOne { csr := { tpctl := 1 } }).timely [.s 1] = true ∧
    (pipeOne { due (.sreg 1 7) with csr := { tpctl := 1 } }).me.check = true ∧
    (pipeOne { due (.sreg 1 7) with csr := { tpctl := 1 } }).me.busy (.s 1) = true ∧
    (pipeOne { due (.sreg 1 7) with csr := { tpctl := 1 } }).me.parityIn [.s 1] = false := by decide

/-! ### Witnesses: cycles, faults, contexts and ports -/

/-- A pipeline at the end of a cycle in which C gave two tokens of queue 1, 513 bytes were read, 257 written and one landed. -/
def ending : Pipe :=
  { cyc := { tokDelta := [(1, 2)], rd := 513, wr := 257, landed := [(1, 0, 0x100, [7])] }, mem := { sram := [(0x100, 7)] }
    fly := { writes := [{ at_ := 0, cls := 6, addr := 0x200, bytes := [1, 2], pc := 3 }] } }
theorem witness_CycleEnds : ((pipeOne ending).pipe 0).fly.done = [] ∧ 512 < ((pipeOne ending).pipe 0).cyc.rd ∧
    256 < ([6, 5, 4].flatMap (Claims.entering (pipeOne ending) 0)).foldl (fun n w => n + w.bytes.length) ((pipeOne ending).pipe 0).cyc.wr ∧
    (Claims.entering (pipeOne ending) 0 6).length = 1 ∧ (pipeOne ending).now (dieOfPipe 0) = 0 := by decide
theorem witness_CycleEnds_landed : ∀ a : Nat, (((pipeOne ending).pipe 0).cyc.landed.foldl (fun m e => m.writeBytes e.2.2.1 e.2.2.2)
    ((pipeOne ending).pipe 0).mem.sram).read a = ((pipeOne ending).pipe 0).mem.sram.read a := by
  have h : ((pipeOne ending).pipe 0).cyc.landed.foldl (fun m e => m.writeBytes e.2.2.1 e.2.2.2) ((pipeOne ending).pipe 0).mem.sram =
    ((pipeOne ending).pipe 0).mem.sram := by decide
  rw [h]; exact fun _ => rfl
/-- Two detections of one cycle, on streams 3 and 1, in a pipeline that has none, or one of cycle 1. -/
def detecting (e : Option (Tick × Det)) : Pipe :=
  { cyc := { dets := [{ cause := 1, stream := 3, pc := 5, detail := 0, info := 0 }, { cause := 1, stream := 1, pc := 9, detail := 0, info := 0 }] }
    detected := e }
def det1 : Det := { cause := 1, stream := 0, pc := 0, detail := 0, info := 0 }
theorem witness_FaultsRecorded : ((pipeOne (detecting none)).pipe 0).cyc.dets ≠ [] ∧ ((pipeOne (detecting none)).pipe 0).detected = none ∧
    ((pipeOne (detecting (some (1, det1)))).pipe 0).detected = some (1, det1) ∧ Tick.lt 2 1 = false ∧ (2 : Tick) ≠ 1 ∧
    ((pipeOne (detecting none)).part ((pipeOne (detecting none)).partOfPipe 0)).run.td = none ∧ ((pipeOne {}).pipe 0).cyc.dets = [] := by decide
/-- A load that waits for its words and may be read, one that an earlier store holds back, and none that waits. -/
def waitingLoad (ops : List HbmOp) : State := { hbmState 200 true with pipes := [(1, { fly := { hbm := ops } })] }
theorem witness_Channels_waiting : ∃ j : Nat, (waitingLoad [{ hbm1 true 0 with data := [] }]).hbmWaiters j = [1] ∧
    (waitingLoad [{ hbm1 true 0 with data := [] }]).hbmReady j 1 = [0] ∧
    (waitingLoad [hbm1 false 0, { hbm1 true 700 with data := [] }]).hbmWaiters j = [1] ∧
    (waitingLoad [hbm1 false 0, { hbm1 true 700 with data := [] }]).hbmReady j 1 = [] ∧ (waitingLoad []).hbmWaiters j = [] :=
  ⟨stackOf 0x100000, by decide⟩
theorem witness_Errors_places : (pipeOne {}).mayScrub 0 = true ∧ (pipeOne {}).mayScrub 512 = true ∧ eccSource 512 0 = some (.pipe 0) := by decide
theorem witness_Settles_hold_line : (({ delay := some 3, changes := [(7, true, 50, 9), (8, false, 40, 9)] } : Die).changes.filter (fun c => c.2.1)).map
    (fun c => c.2.2) = [(50, 9)] := by decide
theorem witness_Allowances_active : ({} : Firmware).active = true ∧ (pipeOne {}).fw.active = true ∧ ({ active := false } : Firmware).active = false ∧
    ((pipeOne {}).die (((pipeOne {}).part 0).dies.headD 0)).delay = none ∧
    ((holdState { delay := some 3 } []).die (((holdState { delay := some 3 } []).part 0).dies.headD 0)).delay = some 3 := by decide
/-- A brake whose hold is under way, and one whose last post was taken in the freeze before its hold began. -/
theorem witness_DiesRestart_brakes :
    ({ tick := 34, absorbed := 3, held := 3, heldAt := 32 } : Die).underHold { opened := 0, closed := some 0, releaseAt := some 9, waits := true } =
      true ∧ ({ tick := 20 } : Die).underHold { opened := 0, closed := some 0, releaseAt := some 9, waits := true } = false := by decide
/-- The catch-up of a resume leaves no fault, or one. -/
theorem witness_Restarted : (∀ g ∈ ((resuming 0).part 0).pipes, ((resuming 0).pipe g).cyc.dets = []) ∧
    (∃ g ∈ ((pipeOne (detecting none)).part 0).pipes, ((pipeOne (detecting none)).pipe g).cyc.dets ≠ []) := by decide
/-- A member of a domain whose launch is frozen, with action `a` in its first frame, or runs; and one with no memory for its frames. -/
def member (a : Nat) : State := { resuming a with fw := { dx := 1 } }
theorem witness_RestartNotices_frames : (member 0).fw.inDomain = true ∧ ((member 0).part 0).run.phase = .frozen ∧
    (∃ bl, (member 2).readFrame 0 0 [(0, 64)] = .ok bl ∧ bitsOf (wordAt (wordsOf (blockAt bl 0)) 5) 1 0 = 2) ∧
    (∃ bl, (member 0).readFrame 0 0 [(0, 64)] = .ok bl ∧ bitsOf (wordAt (wordsOf (blockAt bl 0)) 5) 1 0 = 0) ∧
    (∃ va, ({ launched { phase := .frozen } live {} with fw := { dx := 1 } } : State).readFrame 0 0 [(0, 64)] = .error va) :=
  ⟨by decide, by decide, ⟨_, rfl, by decide⟩, ⟨_, rfl, by decide⟩, ⟨_, rfl⟩⟩
/-- A context that holds a register with a parity error, and save areas without one and with one. -/
theorem witness_Context_damaged : ({ ctx1 with threads := [(0, { live with odd := [1] })] } : Context).damaged = true ∧ ctx1.damaged = false ∧
    (coachOne { ctxs := [(0, { ctx1 with state := .out })] } launch1 launch1).savedBad 0 0 = none ∧
    ({ coachOne { ctxs := [(0, { ctx1 with state := .out })] } launch1 launch1 with bad := [8] } : State).savedBad 0 0 = some 0x100 ∧
    ({ coachOne { ctxs := [(0, { ctx1 with state := .out })] } launch1 launch1 with bad := [8] } : State).killWord 0 0 = none ∧
    (coachOne { run := some 0, ctxs := [(0, { ctx1 with leaving := true })] } launch1 launch1).ctx 0 0 = { ctx1 with leaving := true } := by decide
/-- Both sides of a slice's end: its cycle has come, or comes. -/
theorem witness_Slice_end : (asking.ctx 0 0).sliceLimit.getD (asking.ctx 0 0).sliceEnd = 8192 ∧
    ((coachOne { run := some 0, ctxs := [(0, ctx1)] } launch1 launch1).cycle (dieOfCoach 0)).toNat < (8192 : Word).toNat ∧
    ((asking.ctx 0 0).sliceTrapped 0).Nodup ∧ asking.countTable [asking.ctxBase 0 0 + 8] = asking ∧
    (∀ n ∈ (asking.ctx 0 0).sliceTrapped 0, n < 32) := by decide
/-- A port that failed its training, one that passed, and the last Ethernet port left. -/
theorem witness_Ports : ({ hostOff := 2 } : Firmware).hostOff.getLsbD 1 = true ∧ ({} : Firmware).hostOff.getLsbD 0 = false ∧
    ({ hostOff := 1 } : Firmware).hostOff.getLsbD ((1 : BitVec 2).toNat - 1) = true ∧ ({ ethOff := -1 } : Firmware).ethOff = -1 ∧
    ({ ethOff := 0x7F } : Firmware).ethOff ≠ -1 ∧ (portalOne (packet []) part1).fw.hostOff = 0 ∧ (portalOne (packet []) part1).bad = [] := by decide
/-- Words of every stream whose operands their forms forbid. -/
theorem witness_IllegalWords_forms : (Instr.ldq 0 4 0).stream ≠ .gig ∧ (Instr.ldq 0 4 0).wellFormed = false ∧
    (Instr.hsift 1 2 3 0).stream = .gig ∧ (Instr.hsift 1 2 3 0).wellFormed = false ∧ (gigOne live).th.free (gigOne live).curThread = true := by decide
/-- A STAGE of another name than the table's. -/
theorem witness_AlignAndStage_fails : ∀ f : StageEntry, stageAt [stage1] (runOne.tau (pipeRun {} runOne {}).atk) = some f →
    f.n = (7 : BitVec 23).toNat → stagesBefore [stage1] (runOne.tau (pipeRun {} runOne {}).atk) ≠ (pipeRun {} runOne {}).me.stages := by
  have h : stageAt [stage1] (runOne.tau (pipeRun {} runOne {}).atk) = some stage1 := by decide
  intro f hf hn
  rw [h] at hf
  cases hf
  exact absurd hn (by decide)

/-! ### Values from the worked examples of the spec -/

/-- 02 Table 2-2: 0.1 and 500 converted. -/
theorem test_convert_tenth : (convert .fp32 .bf16 false .rne 0 0x3DCCCCCD).bits = 0x3DCD ∧ (convert .fp32 .fp16 false .rne 0 0x3DCCCCCD).bits = 0x2E66 ∧
    (convert .fp32 .e4m3 false .rne 0 0x3DCCCCCD).bits = 0x1D ∧ (convert .fp32 .e5m2 false .rne 0 0x3DCCCCCD).bits = 0x2E := by decide
theorem test_convert_500 : convert .fp32 .e4m3 false .rne 0 0x43FA0000 = ⟨0x7F, flagOF ||| flagNX⟩ ∧
    convert .fp32 .e4m3 true .rne 0 0x43FA0000 = ⟨0x7E, flagOF ||| flagNX⟩ ∧ (convert .fp32 .e5m2 false .rne 0 0x43FA0000).bits = 0x60 ∧
    convert .fp32 .int8 false .rne 0 0x43FA0000 = ⟨0x80, flagNV⟩ ∧ (convert .fp32 .int8 true .rne 0 0x43FA0000).bits = 0x7F ∧
    convert .fp32 .int4 false .rne 0 0xC0600000 = ⟨0xC, flagNX⟩ := by decide
/-- 02, the examples of R55 and of stochastic rounding: the draw is 0x33_13F4 and the value rounds up. -/
theorem test_philox : philox 0 0 0 0 0 0 = (0x6627E8D5, 0xE169C58D, 0xBC57AC4C, 0x9B00DBD8) := by decide
theorem test_stochastic : srBits 0 0 0 0 0 = 0x3313F4 ∧ convert .fp32 .bf16 false .sr 0x3313F4 0x3DCCCCCD = ⟨0x3DCD, flagNX⟩ := by decide
/-- 02, the examples of histogram bins and of scratchpad banks; 01, those of tensor banks. -/
theorem test_histogram_bins : histBin .fp32 0x3DCCCCCD = 28 ∧ histBin .fp32 0x2B800000 = 1 ∧ histBin .fp32 0x54400000 = 62 := by decide
theorem test_banks : bankOf 0x400 0x201 = 3 ∧ bankOf 0x400 0 = 0 ∧ tensorBank 0x0C3000 = 8 := by decide
/-- CRC-32C of the nine digits, its customary check value. -/
theorem test_crc : crc32c [0x31, 0x32, 0x33, 0x34, 0x35, 0x36, 0x37, 0x38, 0x39] = 0xE3069283 := by decide +kernel

/-- What C or another stream leaves in flight first. -/
def firstResult (s : State) (i : Instr) : Option (Option Result) := after (exec i s) (fun t => t.me.fly.res.head?.map (fun f => f.res))
/-- 03 Table 3-7: LI s4, 100 and ADDI s5, s4, −3. -/
theorem test_addi : firstResult (pipeOne {}) (.li 0 4 100) = some (some (.sreg 4 100)) ∧
    firstResult (pipeOne { regs := { sr := [(4, 100)] } }) (.addi 0 5 4 (-3)) = some (some (.sreg 5 97)) := by decide +kernel
/-- 04 R108: LI s7, 1 followed by LUI s7, 0. -/
theorem test_lui : firstResult (pipeOne { regs := { sr := [(7, 1)] } }) (.lui 0 7 0) = some (some (.sreg 7 0x40000)) := by decide +kernel
/-- A product whose high half differs as signed and as unsigned: (2^64 − 2) × 3 (by hand). -/
theorem test_mulh : firstResult (pipeOne { regs := { sr := [(1, 0xFFFFFFFFFFFFFFFE), (2, 3)] } }) (.mulh 0 3 1 2) = some (some (.sreg 3 (-1))) ∧
    firstResult (pipeOne { regs := { sr := [(1, 0xFFFFFFFFFFFFFFFE), (2, 3)] } }) (.mulhu 0 3 1 2) = some (some (.sreg 3 2)) := by
  decide +kernel
theorem test_sra : firstResult (pipeOne { regs := { sr := [(1, 0x8000000000000000), (2, 65)] } }) (.sra 0 3 1 2) =
    some (some (.sreg 3 0xC000000000000000)) := by decide +kernel
/-- 04 Table 4-3: LOOP with a count of min(2, 3), and with 0. -/
theorem test_loop : after (exec (.loop 0 3 2 3) (pipeOne { c := { pc := 1, span := 4, fresh := true }, regs := { sr := [(3, 2)] } }))
      (fun t => (t.me.c.pc, t.me.c.loops.map (fun l => (l.count, l.start, l.last)))) = some (2, [(2, 2, 3)]) ∧
    after (exec (.loop 0 3 2 3) (pipeOne { c := { pc := 1, span := 4, fresh := true } })) (fun t => (t.me.c.pc, t.me.c.next)) = some (4, 13) := by
  decide +kernel
/-- 09, the example of a TOKEN slip: FAULT_INFO of TAKE kCX, 2 at word 40 with a count of 1; 20 and 23, two other words. -/
theorem test_token_slip : after (exec (.xTake 0 1 2) (pipeOne { x := { pc := 40 }, q := { tok := [(1, 1)] } }))
    (fun t => (t.me.cyc.dets.map (fun d => d.word true), t.me.cyc.tokDelta)) = some ([0x04028A03], []) := by decide +kernel
theorem test_fault_words : ({ cause := 7, stream := 1, pc := 21, detail := 2, info := 0x20200 } : Det).word true = 0x0002020008015607 ∧
    ({ cause := 0xC, stream := 1, pc := 21, detail := 0, info := 0x451200 } : Det).word true = 0x004512000001560C := by decide
/-- 05 R169, its example: four hops, 74 cycles on; 05 Table 5-4: 5 + 3. -/
theorem test_relay_distance : hops 5 15 = 4 ∧ 18 + 14 * hops 5 15 = 74 ∧ 1 + 22 + 14 * Nat.max (hops 5 0) (hops 5 15) = 79 := by decide
theorem test_rmw_add : (rmwValue 0 .int32 5 3).bits = 8 ∧ (rmwValue 1 .fp32 0x80000000 0).bits = 0x80000000 := by decide
/-- 07, the example of VTAB. -/
theorem test_vtab : vtabLane [(898, 0x3F00000000000000400000003F800000)] 3 .bf16 false .rne 0 0x3E200000 = ⟨0x3F880000, flagNX⟩ ∧
    vtabLane [(898, 0x3F00000000000000400000003F800000)] 3 .fp32 false .rne 0 0x3E200000 = ⟨0x3F880080, 0⟩ := by decide
/-- 07, the examples of VROPE: positions 3, 5 and 2^24 + 3. -/
theorem test_vrope : (List.range 2).map (fun i => (vropeLane (BitVec.ofNat 2048 0x400000003F800000) (BitVec.ofNat 2048 0x4000000000000003)
      .fp32 .rne 0 i).bits) = [0x40000000, 0xBF800000] ∧
    (List.range 2).map (fun i => (vropeLane (BitVec.ofNat 2048 0x400000003F800000) (BitVec.ofNat 2048 0x4000000000000005)
      .fp32 .rne 0 i).bits) = [0xC0000000, 0x3F800000] := by decide +kernel
/-- 09, the entry of stage 3, its relay and its drain. -/
def stage3 : StageEntry := StageEntry.ofWords [0x0000000602000003, 0x3E8, 0x00000032000000C8, 1]
theorem test_stage_entry : stage3.n = 3 ∧ stage3.pclass = 2 ∧ stage3.hmax = 6 ∧ (stage3.occAt 1000).isSome = true ∧ (relayAt [stage3] 1199).isNone = true ∧
    (relayAt [stage3] 1200).map (fun e => e.2) = some 1249 ∧ (relayAt [stage3] 1250).isNone = true ∧ stage3.endOf 1000 = 1351 := by decide

/-- What a gig instruction leaves in register d3. -/
def d3After (s : State) (i : Instr) : Option Word := after (exec i s) (fun t => t.th.d 3)
/-- 08, the examples of FCVT and of RNG; 21, the loss that FDIV gives; 2^0.5 and 1 + 2^−24 (by hand). -/
theorem test_fcvt : after (exec (.fcvt 3 1 4 0 0) (gigOne (withRegs 16777217 0))) (fun t => (t.th.d 3, t.th.fflags, t.th.allFlags)) =
    some (0x4B800000, 0, 1) := by decide +kernel
theorem test_rng : (d3After (gigOne live) (.rng 3 0 0 0)) = some 0xE169C58D6627E8D5 := by decide +kernel
theorem test_fdiv : (d3After (gigOne (withRegs 0x3FAE0000 0x42C80000)) (.fdiv 3 1 2 0 0)) = some 0x3C5EB852 := by
  decide +kernel
theorem test_fexp2 : (d3After (gigOne (withRegs 0x3F000000 0)) (.fexp2 3 1)) = some 0x3FB504F3 := by decide +kernel
theorem test_fadd : (d3After (gigOne (withRegs 0x3F800000 0x33800000)) (.fadd 3 1 2 0 0)) = some 0x3F800000 := by
  decide +kernel
/-- 08 R229, R230: quotients by zero and of the least number; a comparison of signed numbers. -/
theorem test_divide : (d3After (gigOne (withRegs 7 0)) (.gigDiv 3 1 2)) = some (-1) ∧
    (d3After (gigOne (withRegs 7 0)) (.gigRem 3 1 2)) = some 7 ∧
    (d3After (gigOne (withRegs 0x8000000000000000 (-1))) (.gigDiv 3 1 2)) = some 0x8000000000000000 := by decide +kernel
theorem test_slt : (d3After (gigOne (withRegs (-1) 1)) (.gigSlt 3 1 2)) = some 1 ∧
    (d3After (gigOne (withRegs (-1) 1)) (.gigSltu 3 1 2)) = some 0 := by decide +kernel
/-- 08, the word 0x1C64_0046 traps ILL with the word in TVALUE. -/
theorem test_illegal_gig_word : after (exec (.unassignedGigWord 0x1C640046) (gigOne live))
    (fun t => (t.th.trap.tcause, t.th.trap.tvalue, t.th.level)) = some (1, 0x1C640046, true) := by decide +kernel
theorem test_write_d0 : after (exec (.gigAddi 0 1 4) (gigOne live)) (fun t => (t.th.d 0, t.th.pc)) = some (0, 4) := by decide +kernel
/-- 08 R246, R247: barrier 2 expects 4 and is at phase 7; the token, and the results of WAITP one phase on and on TIMEOUT. -/
theorem test_arrive : after (exec (.arrive 4 2) (gigCtx { barCtx {} with bars := [(2, { expect := 4, phase := 7 })] }))
    (fun t => let u := t.applyArrival 0 0 ((t.ctx 0 0).arrivals.headD { bar := 0, who := .engine })
      (u.th.d 4, ((u.ctx 0 0).bars.get 2 {}).count)) = some (7, 1) := by decide +kernel
theorem test_waitp : waitpResult 8 7 0 = 0x80100 := by decide
/-- 08, the example of WID, and 11 Table 11-2. -/
theorem test_wid : widField [0, 0, 0, 0, 0x8060A] 0x123456 0 = 0x48 ∧ widField [0, 0, 0, 0, 0x8060A] 0x123456 1 = 0x34 ∧
    widField [0, 0, 0, 0, 0x8060A] 0x123456 2 = 0x56 ∧ widField [0, 0, 0, 0, 0x303] 37 0 = 4 ∧ widField [0, 0, 0, 0, 0x303] 37 1 = 5 := by decide
/-- 08, the example of HSIFT. -/
theorem test_heap : ([0x3F00000000000003, 0x3E80000000000007, 0x3F00000000000001, 0x7FC0000000000009, 0x3E80000000000002] : List Word).foldl
    (fun (h : List Word × List Bool) e => ((heapOffer 2 e h.1).1, h.2 ++ [(heapOffer 2 e h.1).2]))
      ([0xFF800000FFFFFFFF, 0xFF800000FFFFFFFF], []) =
    ([0x3F00000000000003, 0x3F00000000000001], [true, true, true, false, false]) := by decide +kernel
/-- 17, the example of a walk. -/
theorem test_walk : (State.walk { State.reset with mem := (((Memory.writeLE [] 0x1000000020 8 0x0000001000010001).writeLE
        0x10000100A0 8 0x0000001000020401).writeLE 0x10000205F8 8 0x000000200045022D) } 0x1000000000 0x400A3F1234).map
      (fun e => (leafAddr e.1 e.2 0x400A3F1234, e.2)) = some (0x2000451234, false) := by
  decide +kernel

/-- Livery 2 of a partition with 64 blocks. -/
def livery2 (q : Pool) : State := { parts := [(0, { part1 with pools := [(2, q)] })] }
def pool2 : Pool := { base := 0x2000000000, nblk := 64, nseq := 16, novf := 16 }
/-- The pool of livery 2 after an operation, and what it answers. -/
def livStep (s : State) (op : Nat) (a b : Word) : LivOut × State := s.liveryDo 0 op a b
/-- 18, its worked fork and append: hashes, and steps 1 to 2. -/
theorem test_livery_hash : probeHash 2 0 = 0x3C6EF362 ∧ probeHash 2 1 = 0xC25ABDCD ∧ probeHash 2 2 = 0x48468838 ∧ probeHash 10 2 = 0x3A0255C0 ∧
    probeHash 10 3 = 0xBFEE202B := by decide
theorem test_livery_fork : (livStep (livery2 pool2) 2 0xFFFFFFFA 0).1 = .ok (some 2) ∧
    (((livStep (livery2 pool2) 2 0xFFFFFFFA 0).2.part 0).pools.get 2 {}).seqs.map (fun e => (e.1, e.2.length, e.2.shared, e.2.depth)) =
      [(0, 0, 0, 0)] := by decide +kernel
/-- Step 2: 40 tokens take blocks 34, 13 and 56. -/
theorem test_livery_append : (livStep (livStep (livery2 pool2) 2 0xFFFFFFFA 0).2 4 2 40).1 = .ok (some 40) ∧
    ((((livStep (livStep (livery2 pool2) 2 0xFFFFFFFA 0).2 4 2 40).2).part 0).pools.get 2 {}).inv.map (fun e => (e.1, e.2.lb)) =
      [(13, 1), (34, 0), (56, 2)] := by decide +kernel
/-- 20 Table 20-6: header words of a vector result due at fe and of an HLD with R = 522. -/
theorem test_latch_words : ((({} : Pipe).latchOf 182 { due := 182, stream := 2, res := .vreg 5 (BitVec.ofNat 2048 0) (BitVec.ofNat 2048 0) }).map
      (fun l => l.head)) = some 0x0080050200000100 ∧
    (({ isLoad := true, issue := 64, pa := 0, off := 0x20000, data := (List.range 32).map (fun n => (n, 0)), pc := 0 } : HbmOp).latch 182).head =
      0x02000001020A0100 := by decide +kernel
/-- 25, the delay counts of its example. -/
theorem test_delay_counts : delayCount 32 60 = some 0 ∧ delayCount 32 20 = some 1 ∧ delayCount 32 16 = some 1 ∧ delayCount 32 10 = some 3 := by decide
/-- 01, the load of 0x1_FFFE_3A0C_3000: its target, and the trap where no layover is open. -/
theorem test_tensor_window : after (exec (.ldd 3 1 0 0) ({ gigOne (withRegs 0x1FFFE3A0C3000 0) with
      parts := [(0, { part1 with height := 4, width := 4 })] } : State)) (fun t => t.th.accs.map (fun a => a.target)) =
    some [.tensor 3 20 0x0C3000] := by decide +kernel
theorem test_tensor_closed : after (exec (.accessReachesTarget 0 0) ({ inFlight (acc1 (.load 8 false) (some 3) (.tensor 0 20 0x0C3000)) with
      pipes := [] } : State)) (fun t => t.th.trap.tcause) = some 5 := by decide +kernel
/-- 06, the order of K: 1.0 and a product of 2^−24 in one cell give 1.0 with NX. -/
theorem test_fused_tie : (roundX (xfma (Fmt.bf16.decode 0x3380) (Fmt.bf16.decode 0x3F80) (Fmt.fp32.decode 0x3F800000) false).val .fp32 .rne 0) =
    ⟨0x3F800000, flagNX⟩ := by decide
/-- 08 R228 and R226: TRET at level 0 traps ACCESS, PRIV, with its word; TRET at level 1 goes back to TPC. -/
theorem test_tret : after (exec .tret (gigOne user)) (fun t => (t.th.trap.tcause, t.th.trap.sub, t.th.trap.tvalue)) = some (4, 3, 0xC0000040) ∧
    after (exec .tret (gigOne { live with trap := { tpc := 0x100, pprv := false, inh := true } })) (fun t => (t.th.pc, t.th.level, t.th.trap.inh)) =
      some (0x100, false, false) := by decide +kernel
/-- 08 R226: a misaligned load traps MISALIGN (2) at TVEC with the address in TVALUE and its own address in TPC. -/
theorem test_misaligned : after (exec (.ldh 3 1 0 0) (gigOne { withRegs 0x101 0 with pc := 0x40, trap := { tvec := 0x80 } }))
    (fun t => (t.th.trap.tcause, t.th.trap.tvalue, t.th.trap.tpc, t.th.pc)) = some (2, 0x101, 0x40, 0x200) := by decide +kernel
/-- 12 R331: a store of 4 bytes, lowest byte first. -/
theorem test_store_bytes : after (exec (.accessReachesTarget 0 0) (inFlight (acc1 (.store 4 0x11223344) none (.phys 0x40100)))) (fun t => t.mem) =
    some [(0x40100, 0x44), (0x40101, 0x33), (0x40102, 0x22), (0x40103, 0x11)] := by decide +kernel
/-- 08 R237: AMOADD.W returns the old word, sign-extended. -/
theorem test_amo : after (exec (.accessReachesTarget 0 0) ({ inFlight (acc1 (.amo 0 false 1 0) (some 3) (.phys 0x40100)) with
      mem := [(0x40100, 0xFF), (0x40101, 0xFF), (0x40102, 0xFF), (0x40103, 0xFF)] } : State)) (fun t => (t.th.d 3, t.mem)) =
    some (0xFFFFFFFFFFFFFFFF, []) := by decide +kernel
/-- 24 R474: CLAIM with no owner; SUCC names a successor. -/
theorem test_own : after (exec (.ownClaim 1) State.reset) (fun t => t.fw.own) = some { owner := 1, epoch := 1 } ∧
    after (exec (.ownSucc 1 2) ({ fw := { own := { owner := 1 } } } : State)) (fun t => t.fw.own) = some { owner := 1, succ := 2 } := by decide +kernel
/-- The hooks that place a word run it next: LI s4, 100 of C, and ADDI d3, d0, 7 of the gig. -/
theorem test_step_timed : after (step timedNext) (fun t => ((t.pipe 0).fly.res.map (fun f => f.res), (t.pipe 0).c.pc)) = some ([.sreg 4 100], 1) := by
  decide +kernel
theorem test_step_gig : after (step (State.reset.placeGig ((encode (.gigAddi 3 0 7)).getD 0))) (fun t => ((t.thread 0).d 3, (t.thread 0).pc)) = some (7, 4) := by
  decide +kernel

end Sys2Proof.Tests
end

section
/-! The fields of a timed word, the IDLE word in each timed stream, and what IDLE leaves (03 R72, R73). -/
namespace Sys2Proof.Machine

/-- Reading a field is the library's bit slice. -/
theorem fld_eq_extractLsb' (x : BitVec 32) (lo n : Nat) : fld x lo n = x.extractLsb' lo n := rfl

section TimedWord
variable (w : BitVec 3) (op : BitVec 6) (body : BitVec 23)

theorem fld_timedWord_w : fld (w ++ (op ++ body)) 29 3 = w :=
  BitVec.extractLsb'_append_eq_left

theorem fld_timedWord_opcode : fld (w ++ (op ++ body)) 23 6 = op := by
  rw [fld_eq_extractLsb', BitVec.extractLsb'_append_eq_of_add_le (by decide), BitVec.extractLsb'_append_eq_left]

theorem fld_timedWord_body : fld (w ++ (op ++ body)) 0 23 = body := by
  rw [fld_eq_extractLsb', BitVec.extractLsb'_append_eq_of_add_le (by decide), BitVec.extractLsb'_append_eq_right]

end TimedWord

/-- Opcode 0x00 has one layout in the maps of the four timed streams. -/
theorem decodeFields_opcodeZero (k : StreamKind) (hk : k ≠ .gig) (x : BitVec 32) (hx : fld x 23 6 = 0x00#6) :
    decodeFields k x = .ok (.idle (fld x 29 3) (fld x 0 23)) := by
  cases k with
  | c => simp [decodeFields, decodeC, hx]
  | l => simp [decodeFields, decodeL, hx]
  | x => simp [decodeFields, decodeX, hx]
  | s => simp [decodeFields, decodeS, hx]
  | gig => exact absurd rfl hk

/-- IDLE has no reserved bit and no operand out of range: every w and n is legal. -/
theorem decode_idle (k : StreamKind) (hk : k ≠ .gig) (w : BitVec 3) (n : BitVec 23) :
    decode k (w ++ (0x00#6 ++ n)) = .ok (.idle w n) := by
  rw [decode, decodeFields_opcodeZero k hk _ (fld_timedWord_opcode ..), fld_timedWord_w, fld_timedWord_body]
  rfl

/-- A word that reads no register is timely, whether checking is on or off. -/
@[simp] theorem State.timely_nil (s : State) : s.timely [] = true := by
  simp [State.timely]

/-- A legal word with no operand, no draw and no effect only passes on to its stream's next word. -/
theorem State.timedTo_noEffect (s : State) (i : Instr) (k : StreamKind) (nf : Tick) (span : Bool)
    (hw : i.wellFormed = true) :
    s.timedTo i k [] [] 0 nf span id = s.setPipe s.curPipe (s.me.afterWord k nf span) := by
  rw [State.timedTo_legal _ _ _ _ _ _ _ _ hw s.timely_nil]
  simp [State.onPipe]

theorem exec_idle_eq_execIdle (s : State) (w : BitVec 3) (n : BitVec 23) : exec (.idle w n) s = execIdle w n s := rfl

theorem exec_idle (s : State) (w : BitVec 3) (n : BitVec 23) :
    exec (.idle w n) s = .next (s.setPipe s.curPipe
      (s.me.afterWord s.curStream (s.atk + 1 + BitVec.ofNat 64 n.toNat) false)) := by
  rw [exec_idle_eq_execIdle, execIdle, State.timedTo_noEffect _ _ _ _ _ rfl]

/-- Settles O9: every timed stream's map gives opcode 0x00 the one layout of IDLE, and IDLE is a word with no operand, no draw
and no effect, whose next free cycle lies n cycles further on. -/
theorem idleDelays : Obligations.IdleDelays := fun s w n =>
  ⟨fun k hk => decode_idle k hk w n, exec_idle s w n⟩

end Sys2Proof.Machine
end

section
/-! The fields of LI and LUI (layout CL), a word that may read a register early, and what LI and LUI write (04 R104, R108). -/
namespace Sys2Proof.Machine

/-! ### The layout CL -/

section LayoutCL
variable (w : BitVec 3) (op : BitVec 6) (d : BitVec 5) (k : BitVec 18)

theorem fld_layoutCL_d : fld (w ++ (op ++ (d ++ k))) 18 5 = d := by
  rw [fld_eq_extractLsb', BitVec.extractLsb'_append_eq_of_add_le (by decide),
    BitVec.extractLsb'_append_eq_of_add_le (by decide), BitVec.extractLsb'_append_eq_left]

theorem fld_layoutCL_imm : fld (w ++ (op ++ (d ++ k))) 0 18 = k := by
  rw [fld_eq_extractLsb', BitVec.extractLsb'_append_eq_of_add_le (by decide),
    BitVec.extractLsb'_append_eq_of_add_le (by decide), BitVec.extractLsb'_append_eq_right]

end LayoutCL

theorem decodeFields_li (x : BitVec 32) (hx : fld x 23 6 = 0x09#6) :
    decodeFields .c x = .ok (.li (fld x 29 3) (fld x 18 5) (fld x 0 18)) := by
  simp [decodeFields, decodeC, hx]

/-- LI has no reserved bit and no operand out of range. -/
theorem decode_li (w : BitVec 3) (d : BitVec 5) (k : BitVec 18) :
    decode .c (w ++ (0x09#6 ++ (d ++ k))) = .ok (.li w d k) := by
  rw [decode, decodeFields_li _ (fld_timedWord_opcode ..), fld_timedWord_w w 0x09#6 (d ++ k), fld_layoutCL_d,
    fld_layoutCL_imm]
  rfl

theorem decodeFields_lui (x : BitVec 32) (hx : fld x 23 6 = 0x0A#6) :
    decodeFields .c x = .ok (.lui (fld x 29 3) (fld x 18 5) (fld x 0 18)) := by
  simp [decodeFields, decodeC, hx]

/-- LUI has no reserved bit and no operand out of range. -/
theorem decode_lui (w : BitVec 3) (d : BitVec 5) (k : BitVec 18) :
    decode .c (w ++ (0x0A#6 ++ (d ++ k))) = .ok (.lui w d k) := by
  rw [decode, decodeFields_lui _ (fld_timedWord_opcode ..), fld_timedWord_w w 0x0A#6 (d ++ k), fld_layoutCL_d,
    fld_layoutCL_imm]
  rfl

/-! ### Early reads -/

/-- Every SCORE slip lets its word act. -/
theorem Pipe.all_acts_scores (p : Pipe) (k : StreamKind) (qs : List RegRef) : (p.scores k qs).all Det.acts = true := by
  unfold Pipe.scores
  split
  · simp [Det.acts]
  · rfl

/-- A legal word whose registers are sound acts, early or not: its pipeline has its SCORE slips, then its effect. -/
theorem State.timedPipe_sound (s : State) (i : Instr) (k : StreamKind) (srcs : List RegRef) (eff : Tick → Pipe → Pipe)
    (hw : i.wellFormed = true) (hp : s.me.parityIn srcs = false) :
    s.timedPipe i k srcs [] eff =
      s.setPipe s.curPipe ((eff s.atk (s.me.detect (s.me.scores k srcs))).afterWord k (s.atk + 1) false) := by
  have hpar : s.me.parityDets k srcs = [] := by simp [Pipe.parityDets, hp]
  simp only [State.me] at hpar
  simp [State.timedPipe, State.timed, State.timedTo, State.onPipe, State.atk, State.me, hw, hpar]

/-- With checking on, a read of one busy register is one SCORE slip. -/
theorem Pipe.scores_busy (p : Pipe) (k : StreamKind) (q : RegRef) (hc : p.check = true) (hb : p.busy q = true) :
    ∃ e : Det, e.cause = causeScore ∧ p.scores k [q] = [e] := by
  simp [Pipe.scores, hc, hb]

@[simp] theorem State.me_setPipe_curPipe (s : State) (p : Pipe) : (s.setPipe s.curPipe p).me = p := by
  simp [State.me]

/-! ### LI and LUI -/

theorem exec_li_eq_execLi (s : State) (w : BitVec 3) (d : BitVec 5) (k : BitVec 18) :
    exec (.li w d k) s = execLi w d k s := rfl

theorem exec_lui_eq_execLui (s : State) (w : BitVec 3) (d : BitVec 5) (k : BitVec 18) :
    exec (.lui w d k) s = execLui w d k s := rfl

/-- LI reads no register, so it is never early. -/
theorem exec_li (s : State) (w : BitVec 3) (d : BitVec 5) (k : BitVec 18) :
    exec (.li w d k) s = .next (s.setPipe s.curPipe
      ((s.me.produce .c s.atk 1 (.sreg d.toNat (k.signExtend 64)) 0).afterWord .c (s.atk + 1) false)) := by
  rw [exec_li_eq_execLi, execLi, State.toS, State.timedPipe_legal _ _ _ _ _ rfl s.timely_nil]

/-- LUI of a sound register writes in flight after the SCORE slip that an early read of its destination is. -/
theorem exec_lui_sound (s : State) (w : BitVec 3) (d : BitVec 5) (k : BitVec 18)
    (hp : s.me.parityIn [.s d.toNat] = false) :
    exec (.lui w d k) s = .next (s.setPipe s.curPipe
      (((s.me.detect (s.me.scores .c [.s d.toNat])).produce .c s.atk 1
        (.sreg d.toNat ((s.me.sreg d.toNat <<< 18) ||| k.setWidth 64)) 0).afterWord .c (s.atk + 1) false)) := by
  rw [exec_lui_eq_execLui, execLui, State.toS, State.timedPipe_sound _ _ _ _ _ rfl hp]

theorem exec_lui_timely (s : State) (w : BitVec 3) (d : BitVec 5) (k : BitVec 18)
    (ht : s.timely [.s d.toNat] = true) :
    exec (.lui w d k) s = .next (s.setPipe s.curPipe
      ((s.me.produce .c s.atk 1 (.sreg d.toNat ((s.me.sreg d.toNat <<< 18) ||| k.setWidth 64)) 0).afterWord .c
        (s.atk + 1) false)) := by
  rw [exec_lui_sound s w d k (s.parityIn_timely _ ht), s.scores_timely .c _ ht, Pipe.detect_nil]

/-- LUI reads its own destination: where a producer of it is in flight and checking is on, it adds one SCORE slip. -/
theorem exec_lui_early (s : State) (w : BitVec 3) (d : BitVec 5) (k : BitVec 18) (hc : s.me.check = true)
    (hb : s.me.busy (.s d.toNat) = true) (hp : s.me.parityIn [.s d.toNat] = false) :
    ∃ (t : State) (e : Det), exec (.lui w d k) s = .next t ∧ e.cause = causeScore ∧
      t.me.cyc.dets = s.me.cyc.dets ++ [e] := by
  obtain ⟨e, hcause, hscores⟩ := s.me.scores_busy .c (.s d.toNat) hc hb
  exact ⟨_, e, exec_lui_sound s w d k hp, hcause, by simp [hscores]⟩

/-- Settles O60: LI and LUI decode from layout CL; a timely word leaves its result in flight, and an early LUI its SCORE slip as
well. -/
theorem liAndLuiComplete : Obligations.LiAndLuiComplete := fun s w d k =>
  ⟨decode_li w d k, decode_lui w d k, exec_li s w d k, exec_lui_timely s w d k, exec_lui_early s w d k, by decide⟩

end Sys2Proof.Machine
end

section
/-! What a gig instruction that only privileged code may use does at level 0 (08 R228, Table 8-11). -/
namespace Sys2Proof.Machine

/-! ### What level 0 may reach (Table 8-11) -/

theorem csrOpen_read_eq_false {c : Nat} (h : c ∉ [7, 9, 0xA, 0xB, 0xC, 0xD]) : csrOpen c false = false := by
  simpa [csrOpen] using h

theorem csrOpen_write_eq_false {c : Nat} (h : c ∉ [0xB, 0xC]) : csrOpen c true = false := by
  simpa [csrOpen] using h

/-! ### The meaning of each privileged word -/

theorem exec_tret_eq_execTret (s : State) : exec .tret s = execTret s := rfl

theorem exec_tfreeze_eq_execTfreeze (s : State) (d : BitVec 5) (g : BitVec 1) :
    exec (.tfreeze d g) s = execTfreeze d g s := rfl

theorem exec_tresume_eq_execTresume (s : State) (d : BitVec 5) : exec (.tresume d) s = execTresume d s := rfl

theorem exec_tframe_eq_execTframe (s : State) (d a : BitVec 5) : exec (.tframe d a) s = execTframe d a s := rfl

theorem exec_gigCsrr_eq_execGigCsrr (s : State) (d : BitVec 5) (c : BitVec 6) :
    exec (.gigCsrr d c) s = execGigCsrr d c s := rfl

theorem exec_gigCsrw_eq_execGigCsrw (s : State) (a : BitVec 5) (c : BitVec 6) :
    exec (.gigCsrw a c) s = execGigCsrw a c s := rfl

/-! ### Their traps at level 0 -/

section LevelZero
variable {s : State} (hl : s.th.level = false)
include hl

/-- An instruction that needs PRIV.SUP as well is refused for its level first, whichever coach it runs on (R259). -/
theorem State.supervisor_user {i : Instr} {srcs : List Nat} (eff : State → State) (hw : i.wellFormed = true)
    (hr : s.gigReady srcs false = true) :
    s.supervisor i srcs eff = s.trapMe trapAccess subPriv (wordOf i) :=
  s.privileged_user i srcs _ hw hr hl

theorem exec_tret_user (hw : Instr.tret.wellFormed = true) (hr : s.gigReady [] false = true) :
    exec .tret s = .next (s.trapMe trapAccess subPriv (wordOf .tret)) := by
  rw [exec_tret_eq_execTret, execTret, State.privileged_user _ _ _ _ hw hr hl]

theorem exec_tfreeze_user {d : BitVec 5} {g : BitVec 1} (hw : (Instr.tfreeze d g).wellFormed = true)
    (hr : s.gigReady [] false = true) :
    exec (.tfreeze d g) s = .next (s.trapMe trapAccess subPriv (wordOf (.tfreeze d g))) := by
  rw [exec_tfreeze_eq_execTfreeze, execTfreeze, State.supervisor_user hl _ hw hr]

theorem exec_tresume_user {d : BitVec 5} (hw : (Instr.tresume d).wellFormed = true)
    (hr : s.gigReady [] false = true) :
    exec (.tresume d) s = .next (s.trapMe trapAccess subPriv (wordOf (.tresume d))) := by
  rw [exec_tresume_eq_execTresume, execTresume, State.supervisor_user hl _ hw hr]

theorem exec_tframe_user {d a : BitVec 5} (hw : (Instr.tframe d a).wellFormed = true)
    (hr : s.gigReady [a.toNat] false = true) :
    exec (.tframe d a) s = .next (s.trapMe trapAccess subPriv (wordOf (.tframe d a))) := by
  rw [exec_tframe_eq_execTframe, execTframe, State.supervisor_user hl _ hw hr]

theorem exec_gigCsrr_user {d : BitVec 5} {c : BitVec 6} (hc : csrOpen c.toNat false = false)
    (hw : (Instr.gigCsrr d c).wellFormed = true) (hr : s.gigReady [] false = true) :
    exec (.gigCsrr d c) s = .next (s.trapMe trapAccess subPriv (wordOf (.gigCsrr d c))) := by
  rw [exec_gigCsrr_eq_execGigCsrr, execGigCsrr, State.gigInstr_ready _ _ _ _ _ hw hr]
  simp [hl, hc]

theorem exec_gigCsrw_user {a : BitVec 5} {c : BitVec 6} (hc : csrOpen c.toNat true = false)
    (hw : (Instr.gigCsrw a c).wellFormed = true) (hr : s.gigReady [a.toNat] false = true) :
    exec (.gigCsrw a c) s = .next (s.trapMe trapAccess subPriv (wordOf (.gigCsrw a c))) := by
  rw [exec_gigCsrw_eq_execGigCsrw, execGigCsrw, State.gigInstr_ready _ _ _ _ _ hw hr]
  simp [hl, hc]

end LevelZero

/-- Settles O37: one case per privileged word; a CSRR or CSRW is one where Table 8-11 does not open its register. -/
theorem privilegeChecked : Obligations.PrivilegeChecked := by
  intro s i d a g c srcs hl hi hw hr
  obtain ⟨rfl, rfl⟩ | ⟨rfl, rfl⟩ | ⟨rfl, rfl⟩ | ⟨rfl, rfl⟩ | ⟨rfl, rfl, hc⟩ | ⟨rfl, rfl, hc⟩ := hi
  · exact exec_tret_user hl hw hr
  · exact exec_tfreeze_user hl hw hr
  · exact exec_tresume_user hl hw hr
  · exact exec_tframe_user hl hw hr
  · exact exec_gigCsrr_user hl (csrOpen_read_eq_false hc) hw hr
  · exact exec_gigCsrw_user hl (csrOpen_write_eq_false hc) hw hr

end Sys2Proof.Machine
end

section
/-! Encoding and decoding (03 R71 to R91): every instruction's word decodes to it, and every word that decodes is its
instruction's word. -/
namespace Sys2Proof.Machine

/-! ### Decoding an encoded word -/

open Sys2Proof.Laws.Encoding in
/-- The statement of each instruction, in the order of the constructors. -/
theorem encoding_statement (i : Instr) : Statement i :=
  i.casesOn
    idle add sub and or xor shl shr sra mul mulh mulhu min max minu maxu addi andi ori xori shli shri srai li lui cmp
    cmpi sel lds sts br brp loop lspan call ret cGive cTake sqw bqw align stage wopen wclose postrd postv nest mgo
    csrr csrw tick mark trapc freeze halt lScfg lSadv aadd aaddi ali lSqr ldq gath hld lTlbp bout ldcb ldcm lGive
    lTake sScfg sSadv badd baddi bli sSqr stq hst send mcast rmw hclr hsnap sTlbp sGive sTake vadd vsub vmul vfma vfms
    vmax vmin vabs vneg vcvt vcmp vsel vand vor vxor vshl vshr viadd vimul vred vperm vspl vsplQ vpop vpush vtab vrope
    vscl vrng vdrw vdwr vmsk accrd accwr accz accst xbr xloop xlspan xGive xTake vldi gigAdd gigSub gigAnd gigOr
    gigXor gigShl gigShr gigSra gigMul gigMulh gigMulhu gigDiv gigDivu gigRem gigRemu gigSlt gigSltu gigMin gigMax
    gigMinu gigMaxu gigClz gigCtz gigPopc gigAddi gigAndi gigOri gigXori gigShli gigShri gigSrai slti sltiu gigLui beq
    bne blt bge bltu bgeu jal jalr ldb ldh ldw ldd ldbu ldhu ldwu stb sth stw std amoadd amoswap amocas amomin amomax
    amominu amomaxu amoand amoor amoxor fence fadd fsub fmul fdiv fsqrt fmin fmax feq flt fle fcvt fexp2 fma fms fnma
    arrive waitp evsig evmsg gigSend recv spawn wid hsift cntadd cntsnap balloc bfree bfork bmap bappend wbill wbstat
    post tfreeze tresume tframe trap tret gigCsrr gigCsrw yield gigHalt trace rng leave euBarrierArrive euMutexAcquire
    euMutexRelease euEventWait euEventSet shoot done registerWrite resultComplete scfgTakesEffect tlbpResult
    ldcmComplete rmwFinalWrite hldLanding hstCompletion hbmSlotTransfer hbmUnitArrival hbmSlotRefusal hbmRefresh scrub
    wordArrival relayLanding boundaryChannelOverflow drawbarArrival linkPlanRead linkPlanLanding nestKStep nestDone
    sidebandAtk alignRelease alignSlip freezeTakesEffect freezeNotice extIntTaken extRequestArrival tresumePerform
    restart pipelineFinished timedGlobalStart postArrival brakeHoldStart brakeRelease brakeLimit layoverSettle
    turnpikeDelayEnd allowanceChange powerCap wake groupExit dynLaunchComplete contextStart childArrival
    barrierRelease evmsgArrival layoverNotice childCompletion waitpTimeout sendAccept cardStart rowLanded cardRetire
    cardFault cardLeaveRetry grantExpiry sliceExpiry switchOut contextRestore shootdownComplete portalDmwr
    portalPostedWrite mctpPacket launchTimed launchDyn copy copyFill signalSet signalAdd wait waitComplete
    configDiffApply configDiffRollback configSwap queryIdentity queryPartitionMap queryLaunchState querySeedRecords
    queryHealth queryCounters queryAttestation fwUpdate partitionCreate partitionDestroy completionRecordWrite
    ownClaim ownSucc succTimeout ownerLoss spdmGetMeasurements packageReset powerLoss domainFormation linkFreezeNotice
    linkRestartNotice uetCompletion accessReachesTarget completionTimeout unassignedTimedWord unassignedGigWord

/-- Settles O1: one lemma for each instruction says what the fields of its word decode to. -/
theorem decodeOfEncode : Obligations.DecodeOfEncode := fun i x hw he => encoding_statement i hw x he

/-! ### Encoding a decoded word -/

/-- A field put under the bits above it. -/
theorem cat_shiftRight_fld (x : BitVec 32) (lo n : Nat) :
    cat (x.toNat >>> (lo + n)) (fld x lo n) = x.toNat >>> lo := by
  simp only [cat, fld, BitVec.toNat_ofNat, Nat.shiftRight_add, Nat.shiftRight_eq_div_pow _ n]
  exact Nat.div_add_mod' ..

/-- A value that is the next field of the word, put under the bits above it. -/
theorem cat_shiftRight {x : BitVec 32} {hi n : Nat} {v : BitVec n} (hn : n ≤ hi) (hv : fld x (hi - n) n = v) :
    cat (x.toNat >>> hi) v = x.toNat >>> (hi - n) := by
  subst hv
  rw [← cat_shiftRight_fld x (hi - n) n, Nat.sub_add_cancel hn]

/-- The highest field of a word is all of its bits from there up. -/
theorem fld_highest (x : BitVec 32) (lo n : Nat) (h : lo + n = 32) : (fld x lo n).toNat = x.toNat >>> lo := by
  simp only [fld, BitVec.toNat_ofNat]
  apply Nat.mod_eq_of_lt
  rw [Nat.shiftRight_eq_div_pow, Nat.div_lt_iff_lt_mul (Nat.two_pow_pos _), ← Nat.pow_add, Nat.add_comm n, h]
  exact x.isLt

theorem fld_wait (x : BitVec 32) : (fld x 29 3).toNat = x.toNat >>> 29 := fld_highest x 29 3 rfl

/-- A gig word's major opcode with the next field under it. -/
theorem cat_major {x : BitVec 32} {op : Nat} (h : (fld x 26 6).toNat = op) {m : Nat} {v : BitVec m} (hm : m ≤ 26)
    (hv : fld x (26 - m) m = v) : cat op v = x.toNat >>> (26 - m) := by
  rw [← h, fld_highest x 26 6 rfl, cat_shiftRight hm hv]

theorem fld_eq_iff {x : BitVec 32} {lo n : Nat} {v : BitVec n} : fld x lo n = v ↔ (fld x lo n).toNat = v.toNat :=
  BitVec.toNat_inj.symm

/-- A field of `w` bits read as two: its low `n` bits and the rest. -/
theorem fld_cut (x : BitVec 32) (lo n w : Nat) (h : n ≤ w) :
    (fld x lo w).toNat = (fld x (lo + n) (w - n)).toNat * 2 ^ n + (fld x lo n).toNat := by
  obtain ⟨m, rfl⟩ := Nat.exists_eq_add_of_le h
  simp only [fld, BitVec.toNat_ofNat, Nat.shiftRight_add, Nat.shiftRight_eq_div_pow _ n, Nat.pow_add, Nat.mod_mul,
    Nat.add_sub_cancel_left]
  rw [Nat.add_comm, Nat.mul_comm]

theorem ofNat_shiftRight_zero (x : BitVec 32) : BitVec.ofNat 32 (x.toNat >>> 0) = x := by simp

/-- Where a map reads word `x` as an instruction, `x` is that instruction's word. -/
def Encodes (x : BitVec 32) (r : Except DecodeError Instr) : Prop := ∀ i, r = .ok i → encode i = some x

theorem encodes_ok {x : BitVec 32} {i : Instr} (h : encode i = some x) : Encodes x (.ok i) :=
  fun _ e => by cases e; exact h

theorem encodes_error {x : BitVec 32} (e : DecodeError) : Encodes x (.error e) := fun _ h => nomatch h

/-- A reserved field is zero in every word that is an instruction. -/
theorem encodes_ite {x : BitVec 32} {c : Prop} [Decidable c] {i : Instr} {e : DecodeError} (h : c → encode i = some x) :
    Encodes x (if c then .ok i else .error e) := by
  split
  · exact encodes_ok (h ‹_›)
  · exact encodes_error e

theorem encodes_decodeC (x : BitVec 32) : Encodes x (decodeC x) := by
  unfold decodeC
  split
  case h_2 =>
    split
    all_goals first | exact encodes_error _ | refine encodes_ok ?_
    all_goals simp [encode, fld_wait, cat_shiftRight, fld_eq_iff,
      ofNat_shiftRight_zero, -BitVec.ofNat_toNat, -Nat.shiftRight_zero, *]
  all_goals first | exact encodes_error _ | refine encodes_ite fun hr => ?_ | refine encodes_ok ?_
  all_goals simp [encode, fld_wait, cat_shiftRight, fld_eq_iff,
    ofNat_shiftRight_zero, -BitVec.ofNat_toNat, -Nat.shiftRight_zero, *]

theorem encodes_decodeL (x : BitVec 32) : Encodes x (decodeL x) := by
  unfold decodeL
  split
  all_goals first | exact encodes_error _ | refine encodes_ite fun hr => ?_ | refine encodes_ok ?_
  all_goals simp [encode, fld_wait, cat_shiftRight, fld_eq_iff,
    ofNat_shiftRight_zero, -BitVec.ofNat_toNat, -Nat.shiftRight_zero, *]

theorem encodes_decodeS (x : BitVec 32) : Encodes x (decodeS x) := by
  unfold decodeS
  split
  all_goals first | exact encodes_error _ | refine encodes_ite fun hr => ?_ | refine encodes_ok ?_
  all_goals simp [encode, fld_wait, cat_shiftRight, fld_eq_iff,
    ofNat_shiftRight_zero, -BitVec.ofNat_toNat, -Nat.shiftRight_zero, *]

/-- A one-bit field that is not 0 is 1. -/
theorem fld_bit_eq_one {x : BitVec 32} {lo : Nat} (h : (fld x lo 1).toNat = 0 → False) : (fld x lo 1).toNat = 1 := by
  have hlt := (fld x lo 1).isLt
  have hne : (fld x lo 1).toNat ≠ 0 := h
  omega

theorem encodes_decodeX (x : BitVec 32) : Encodes x (decodeX x) := by
  unfold decodeX
  split
  case h_23 =>
    split
    case h_1 hq =>
      refine encodes_ite fun hr => ?_
      simp [encode, fld_wait, cat_shiftRight, fld_eq_iff, fld_cut x 1 5 6 (by decide),
        ofNat_shiftRight_zero, -BitVec.ofNat_toNat, -Nat.shiftRight_zero, *]
    case h_2 hq =>
      have hq := fld_bit_eq_one hq
      refine encodes_ite fun hr => ?_
      simp [encode, fld_wait, cat_shiftRight, fld_eq_iff, fld_cut x 1 5 17 (by decide), fld_cut x 6 1 12 (by decide),
        ofNat_shiftRight_zero, -BitVec.ofNat_toNat, -Nat.shiftRight_zero, *]
  all_goals first | exact encodes_error _ | refine encodes_ite fun hr => ?_ | refine encodes_ok ?_
  all_goals simp [encode, fld_wait, cat_shiftRight, fld_eq_iff,
    ofNat_shiftRight_zero, -BitVec.ofNat_toNat, -Nat.shiftRight_zero, *]

theorem encodes_decodeGig (x : BitVec 32) : Encodes x (decodeGig x) := by
  unfold decodeGig
  split
  case h_1 hop =>
    have major := @cat_major x _ hop
    split
    all_goals first | exact encodes_error _ | refine encodes_ite fun hr => ?_ | refine encodes_ok ?_
    all_goals simp [encode, cat_shiftRight, fld_eq_iff, ofNat_shiftRight_zero, -BitVec.ofNat_toNat,
      -Nat.shiftRight_zero, fld_cut x 0 11 16 (by decide), *]
  all_goals try split
  all_goals first | exact encodes_error _ | refine encodes_ite fun hr => ?_ | refine encodes_ok ?_
  all_goals have hop := ‹(fld x 26 6).toNat = _›
  all_goals have major := @cat_major x _ hop
  all_goals simp [encode, cat_shiftRight, fld_eq_iff, ofNat_shiftRight_zero, -BitVec.ofNat_toNat, -Nat.shiftRight_zero,
    fld_cut x 0 11 16 (by decide), fld_cut x 0 6 11 (by decide), fld_cut x 0 6 21 (by decide),
    fld_cut x 0 6 26 (by decide), fld_cut x 1 5 10 (by decide), fld_cut x 1 5 15 (by decide),
    fld_cut x 1 5 20 (by decide), fld_cut x 3 3 18 (by decide), fld_cut x 4 2 7 (by decide),
    fld_cut x 4 2 17 (by decide), fld_cut x 5 1 6 (by decide), fld_cut x 5 1 11 (by decide),
    fld_cut x 5 1 21 (by decide), fld_cut x 6 5 10 (by decide), fld_cut x 6 5 15 (by decide),
    fld_cut x 6 5 20 (by decide), *]

theorem encodes_decodeFields (k : StreamKind) (x : BitVec 32) : Encodes x (decodeFields k x) := by
  cases k with
  | c => exact encodes_decodeC x
  | l => exact encodes_decodeL x
  | x => exact encodes_decodeX x
  | s => exact encodes_decodeS x
  | gig => exact encodes_decodeGig x

/-- Settles O2: a map's fields, put back in their places, are the word, since a legal word's reserved fields are
zero. -/
theorem encodeOfDecode : Obligations.EncodeOfDecode := by
  intro k x i h
  unfold decode at h
  split at h
  next => cases h
  next j hj =>
    split at h
    next hw => cases h; exact ⟨hw, encodes_decodeFields k x i hj⟩
    next => cases h

end Sys2Proof.Machine
end

section
/-! The invariant of every step (12 R330; 16 R371; 23 R466, R468; 24 R474; 25 R479): one lemma for each instruction and event
that is more than one shared operation, then every instruction, every turn and every step. -/
namespace Sys2Proof.Machine

/-! ### The ownership page, the power cap and a package reset -/

/-- A successor stands where there is none, or where it is not the owner. -/
theorem Own.ok_iff (o : Own) : o.ok = true ↔ o.succ = 0 ∨ o.succ ≠ o.owner := by
  simp [Own.ok]

theorem execOwnClaim_inv (m : Nat) (s : State) (inv : s.Inv) : outInv (execOwnClaim m s) := by
  unfold execOwnClaim
  dsimp only
  split
  · exact out_next inv
  · split
    · exact out_next (State.setOwn_inv _ _ inv rfl)
    · split
      next hs _ => exact out_next (State.setOwn_inv _ _ inv ((Own.ok_iff _).2 (.inr hs)))
      next => exact out_next inv

/-- The owner's own code names no successor, so a successor that is named is another master (R474). -/
theorem execOwnSucc_inv (m succ : Nat) (s : State) (inv : s.Inv) : outInv (execOwnSucc m succ s) := by
  unfold execOwnSucc
  dsimp only
  split
  · exact out_next inv
  next hm =>
    split
    next ho =>
      refine out_next (State.setOwn_inv _ _ inv ((Own.ok_iff _).2 ?_))
      dsimp only
      split
      · exact .inl rfl
      · right
        simp only [State.mayWritePage, not_or, Bool.not_eq_false, Bool.and_eq_true, decide_eq_true_eq] at hm
        rw [ho]
        simp only [ne_eq, ← BitVec.toNat_inj, BitVec.toNat_ofNat]
        omega
    next => exact out_next inv

theorem execSuccTimeout_inv (s : State) (inv : s.Inv) : outInv (execSuccTimeout s) :=
  out_next (State.setOwn_inv _ _ inv rfl)

theorem execOwnerLoss_inv (s : State) (inv : s.Inv) : outInv (execOwnerLoss s) := by
  refine out_next (inv_ite inv (State.setOwn_inv _ _ inv ((Own.ok_iff _).2 ?_)))
  exact Decidable.em _

theorem execPowerCap_inv (watts : Nat) (s : State) (inv : s.Inv) : outInv (execPowerCap watts s) := by
  unfold execPowerCap
  refine out_next (foldl_inv _ _ _ ?_ fun t d ht => ?_)
  · exact ⟨inv.1, (fw_mk ..).2 ⟨fw_own inv.2, Nat.min_le_right _ _, fw_seeds inv.2, fw_rings inv.2, fw_version inv.2⟩⟩
  · dsimp only
    split
    · exact State.onDie_inv _ _ _ ht
    · exact inv_ite (State.sendChange_inv _ _ _ _ ht) ht

theorem execPackageReset_inv (bad : List Nat) (s : State) (inv : s.Inv) : outInv (execPackageReset bad s) := by
  unfold execPackageReset
  have cold : s.cold.Inv := State.cold_inv s inv
  have boxes : ∀ (ds : List Nat) (f : Nat → Nat) (g : Nat → BoxSource) (t : State), t.Inv →
      (ds.foldl (fun s d => s.box (f d) boxRetire (g d) 0) t).Inv := fun ds f g t ht =>
    foldl_inv ds _ t ht fun u d hu => State.box_inv u _ _ _ _ hu
  refine out_next (inv_ite (State.measure_inv _ _ _ (State.measure_inv _ _ _ ?_)) ?_) <;>
    exact boxes _ (fun _ => 0) _ _ (boxes _ id _ _ (State.box_inv _ _ _ _ _ ⟨cold.1, (fw_mk ..).2
      ⟨fw_own cold.2, fw_cap cold.2, fw_seeds cold.2, fw_rings cold.2, fw_version cold.2⟩⟩))

/-! ### Instructions and events built from several shared operations -/

theorem execLspan_inv (w : BitVec 3) (n : BitVec 23) (s : State) (inv : s.Inv) : outInv (execLspan w n s) := by
  unfold execLspan
  with_reducible repeat' (first
    | assumption | apply out_next | apply State.timedTo_inv | apply State.onPipe_inv | intro _)

theorem execCall_inv (_w : BitVec 3) (i : BitVec 19) (s : State) (inv : s.Inv) : outInv (execCall _w i s) := by
  unfold execCall
  with_reducible repeat' (first
    | assumption | apply out_next | apply State.illegal_inv | apply State.setPipe_inv | dsimp only | split)

theorem execRet_inv (_w : BitVec 3) (s : State) (inv : s.Inv) : outInv (execRet _w s) := by
  unfold execRet
  with_reducible repeat' (first
    | assumption | apply out_next | apply State.illegal_inv | apply State.setPipe_inv | dsimp only | split)

theorem execAlign_inv (w : BitVec 3) (n : BitVec 23) (s : State) (inv : s.Inv) : outInv (execAlign w n s) := by
  unfold execAlign
  with_reducible repeat' (first
    | assumption | apply out_next | apply State.timed_inv | apply State.onDie_inv | intro _)

theorem execStage_inv (w : BitVec 3) (n : BitVec 23) (s : State) (inv : s.Inv) : outInv (execStage w n s) := by
  unfold execStage
  with_reducible repeat' (first | assumption | apply out_next | apply State.timedPipe_inv | apply State.onPipe_inv)

theorem execWopen_inv (w : BitVec 3) (l : BitVec 6) (s : State) (inv : s.Inv) : outInv (execWopen w l s) := by
  unfold execWopen
  with_reducible repeat' (first
    | assumption | apply out_next | apply State.timed_inv | apply State.openLay_inv | intro _ | split)

theorem execWclose_inv (w : BitVec 3) (l : BitVec 6) (s : State) (inv : s.Inv) : outInv (execWclose w l s) := by
  unfold execWclose
  with_reducible repeat' (first
    | assumption | apply out_next | apply State.timed_inv | apply State.onDie_inv | intro _ | split)

theorem execTrapc_inv (w : BitVec 3) (c : BitVec 8) (s : State) (inv : s.Inv) : outInv (execTrapc w c s) := by
  unfold execTrapc
  with_reducible repeat' (first | assumption | apply out_next | apply State.timed_inv | apply inv_id)

theorem execFreeze_inv (w : BitVec 3) (s : State) (inv : s.Inv) : outInv (execFreeze w s) := by
  unfold execFreeze
  with_reducible repeat' (first | assumption | apply out_next | apply State.timed_inv | apply inv_id)

theorem execVred_inv (w : BitVec 3) (d a o : BitVec 5) (f r : BitVec 3) (m : BitVec 1) (s : State) (inv : s.Inv) :
    outInv (execVred w d a o f r m s) := by
  unfold execVred
  with_reducible repeat' (first
    | assumption | apply out_next | apply State.timed_inv | apply State.timedPipe_inv | apply inv_id | split)

theorem execVrng_inv (w : BitVec 3) (d : BitVec 5) (m : BitVec 1) (s : State) (inv : s.Inv) :
    outInv (execVrng w d m s) := by
  unfold execVrng
  with_reducible repeat' (first
    | assumption | apply out_next | apply State.timedTo_inv | apply State.onPipe_inv | intro _)

theorem execVdrw_inv (w : BitVec 3) (d : BitVec 5) (sd f : BitVec 1) (s : State) (inv : s.Inv) :
    outInv (execVdrw w d sd f s) := by
  unfold execVdrw
  with_reducible repeat' (first
    | assumption | apply out_next | apply State.timed_inv | apply State.onPipe_inv | apply State.sendDrawbar_inv
    | intro _ | split)

theorem execVdwr_inv (w : BitVec 3) (a : BitVec 5) (d : BitVec 1) (s : State) (inv : s.Inv) :
    outInv (execVdwr w a d s) := by
  unfold execVdwr
  with_reducible repeat' (first
    | assumption | apply out_next | apply State.timed_inv | apply State.sendDrawbar_inv | intro _)

theorem execAccst_inv (w : BitVec 3) (q : BitVec 1) (r : BitVec 12) (f o : BitVec 3) (x : BitVec 1) (s : State) (inv : s.Inv) :
    outInv (execAccst w q r f o x s) := by
  unfold execAccst
  with_reducible repeat' (first
    | assumption | apply out_next | apply State.timed_inv | apply State.timedTo_inv | apply State.onPipe_inv
    | apply inv_id | intro _ | split)

theorem execXbr_inv (w : BitVec 3) (n : BitVec 1) (i : BitVec 19) (s : State) (inv : s.Inv) :
    outInv (execXbr w n i s) := by
  unfold execXbr
  with_reducible repeat' (first
    | assumption | apply out_next | apply State.branchWord_inv | apply State.timed_inv | apply inv_id | split)

theorem execXloop_inv (w : BitVec 3) (l m : BitVec 9) (s : State) (inv : s.Inv) : outInv (execXloop w l m s) := by
  unfold execXloop
  with_reducible repeat' (first
    | assumption | apply out_next | apply State.timed_inv | apply State.loopWord_inv | apply inv_id | split)

theorem execXlspan_inv (w : BitVec 3) (n : BitVec 23) (s : State) (inv : s.Inv) : outInv (execXlspan w n s) := by
  unfold execXlspan
  with_reducible repeat' (first
    | assumption | apply out_next | apply State.timedTo_inv | apply State.onPipe_inv | intro _)

theorem execJal_inv (i : BitVec 26) (s : State) (inv : s.Inv) : outInv (execJal i s) := by
  unfold execJal
  with_reducible repeat' (first
    | assumption | apply out_next | apply State.gigInstr_inv | apply State.gigJump_inv | intro _)

theorem execJalr_inv (d a : BitVec 5) (i : BitVec 16) (s : State) (inv : s.Inv) : outInv (execJalr d a i s) := by
  unfold execJalr
  with_reducible repeat' (first
    | assumption | apply out_next | apply State.gigInstr_inv | apply State.gigJump_inv | intro _)

theorem execFence_inv (sc : BitVec 5) (m : BitVec 16) (s : State) (inv : s.Inv) : outInv (execFence sc m s) := by
  unfold execFence
  with_reducible repeat' (first
    | assumption | apply out_next | apply State.gigInstr_inv | apply State.onMe_inv | intro _)

theorem execFexp2_inv (d a : BitVec 5) (s : State) (inv : s.Inv) : outInv (execFexp2 d a s) := by
  unfold execFexp2
  with_reducible repeat' (first
    | assumption | apply out_next | apply State.gigInstr_inv | apply State.fpuD_inv | intro _)

theorem execArrive_inv (d : BitVec 5) (n : BitVec 4) (s : State) (inv : s.Inv) : outInv (execArrive d n s) := by
  unfold execArrive
  with_reducible repeat' (first
    | assumption | apply out_next | apply State.gigInstr_inv | apply State.trapMe_inv | apply State.arrive_inv
    | apply State.onMe_inv | dsimp only | intro _ | split)

theorem execWaitp_inv (d a b : BitVec 5) (n : BitVec 4) (s : State) (inv : s.Inv) :
    outInv (execWaitp d a b n s) := by
  unfold execWaitp
  with_reducible repeat' (first
    | assumption | apply out_next | apply State.acquire_inv | apply State.onMe_inv | dsimp only | intro _ | split)

theorem execEvsig_inv (n : BitVec 5) (s : State) (inv : s.Inv) : outInv (execEvsig n s) := by
  unfold execEvsig
  with_reducible repeat' (first
    | assumption | apply out_next | apply State.gigInstr_inv | apply State.onCtx_inv | apply State.onMe_inv
    | intro _ | split)

theorem execEvmsg_inv (a n : BitVec 5) (s : State) (inv : s.Inv) : outInv (execEvmsg a n s) := by
  unfold execEvmsg
  with_reducible repeat' (first
    | assumption | apply out_next | apply State.gigInstr_inv | apply State.onMe_inv | apply State.trapMe_inv
    | simp only [inv_upd] | intro _ | split)

theorem execGigSend_inv (a b : BitVec 5) (s : State) (inv : s.Inv) : outInv (execGigSend a b s) := by
  unfold execGigSend
  with_reducible repeat' (first
    | assumption | apply out_next | apply State.gigInstr_inv | apply State.withOwn_inv | apply State.trapMe_inv
    | apply State.countUnc_inv | apply State.sendMsg_inv | apply State.noteGig_inv | apply State.onMe_inv | intro _
    | split)

theorem execRecv_inv (d a : BitVec 5) (n : BitVec 1) (s : State) (inv : s.Inv) : outInv (execRecv d a n s) := by
  unfold execRecv
  with_reducible repeat' (first
    | assumption | apply out_next | apply State.acquire_inv | apply State.withOwn_inv | apply State.countUnc_inv
    | apply State.trapMe_inv | apply State.acceptHeld_inv | apply State.onMe_inv | apply State.spWrite_inv | intro _
    | split)

theorem execSpawn_inv (d a : BitVec 5) (p : BitVec 1) (s : State) (inv : s.Inv) : outInv (execSpawn d a p s) := by
  unfold execSpawn
  with_reducible repeat' (first
    | assumption | apply out_next | apply State.gigInstr_inv | apply State.headerBytes_inv | apply State.trapMe_inv
    | apply State.onMe_inv | apply State.takeIn_inv | apply State.newLaunch_inv | apply State.onDie_inv
    | apply State.drawn_inv | apply State.writePhys_inv | refine inv_snd (by assumption) ?_ | dsimp only | intro _
    | split)

theorem execHsift_inv (d a b k : BitVec 5) (s : State) (inv : s.Inv) : outInv (execHsift d a b k s) := by
  unfold execHsift
  with_reducible repeat' (first
    | assumption | apply out_next | apply State.gigInstr_inv | apply State.withOwn_inv | apply State.onMe_inv
    | intro _)

theorem execCntadd_inv (a b : BitVec 5) (s : State) (inv : s.Inv) : outInv (execCntadd a b s) := by
  unfold execCntadd
  with_reducible repeat' (first
    | assumption | apply out_next | apply State.gigInstr_inv | apply State.trapMe_inv | apply State.onMe_inv
    | dsimp only | intro _ | split)

theorem execCntsnap_inv (a b : BitVec 5) (n : BitVec 6) (s : State) (inv : s.Inv) :
    outInv (execCntsnap a b n s) := by
  unfold execCntsnap
  with_reducible repeat' (first
    | assumption | apply out_next | apply State.gigInstr_inv | apply State.trapMe_inv | apply State.withOwn_inv
    | apply State.onMe_inv | dsimp only | intro _ | split)

theorem execWbill_inv (d a : BitVec 5) (s : State) (inv : s.Inv) : outInv (execWbill d a s) := by
  unfold execWbill
  with_reducible repeat' (first
    | assumption | apply out_next | apply State.gigInstr_inv | apply State.withOwn_inv | apply State.countUnc_inv
    | apply State.trapMe_inv | apply State.onMe_inv | apply State.onCoach_inv | dsimp only | intro _ | split)

theorem execPost_inv (d a b : BitVec 5) (i : BitVec 6) (s : State) (inv : s.Inv) :
    outInv (execPost d a b i s) := by
  unfold execPost
  with_reducible repeat' (first
    | assumption | apply out_next | apply State.gigInstr_inv | apply State.trapMe_inv | apply State.toPlane_inv
    | dsimp only | intro _ | split)

theorem execTfreeze_inv (d : BitVec 5) (g : BitVec 1) (s : State) (inv : s.Inv) : outInv (execTfreeze d g s) := by
  unfold execTfreeze
  with_reducible repeat' (first
    | assumption | apply out_next | apply State.supervisor_inv | apply State.toPlane_inv | intro _)

theorem execTresume_inv (d : BitVec 5) (s : State) (inv : s.Inv) : outInv (execTresume d s) := by
  unfold execTresume
  with_reducible repeat' (first
    | assumption | apply out_next | apply State.supervisor_inv | apply State.toPlane_inv | intro _)

theorem execTframe_inv (d a : BitVec 5) (s : State) (inv : s.Inv) : outInv (execTframe d a s) := by
  unfold execTframe
  with_reducible repeat' (first
    | assumption | apply out_next | apply State.supervisor_inv | apply State.onMe_inv | intro _)

theorem execTrap_inv (c : BitVec 6) (s : State) (inv : s.Inv) : outInv (execTrap c s) := by
  unfold execTrap
  with_reducible repeat' (first
    | assumption | apply out_next | apply State.gigInstr_inv | apply State.trapMe_inv | intro _)

theorem execTret_inv (s : State) (inv : s.Inv) : outInv (execTret s) := by
  unfold execTret
  with_reducible repeat' (first
    | assumption | apply out_next | apply State.privileged_inv | apply State.unslice_inv | apply State.onMe_inv
    | intro _)

theorem execGigCsrr_inv (d : BitVec 5) (c : BitVec 6) (s : State) (inv : s.Inv) : outInv (execGigCsrr d c s) := by
  unfold execGigCsrr
  with_reducible repeat' (first
    | assumption | apply out_next | apply State.gigInstr_inv | apply State.onMe_inv | apply State.trapMe_inv
    | intro _ | split)

theorem execGigCsrw_inv (a : BitVec 5) (c : BitVec 6) (s : State) (inv : s.Inv) : outInv (execGigCsrw a c s) := by
  unfold execGigCsrw
  with_reducible repeat' (first
    | assumption | apply out_next | apply State.gigInstr_inv | apply State.onMe_inv | apply State.setGigCsr_inv
    | apply State.trapMe_inv | intro _ | split)

theorem execYield_inv (s : State) (inv : s.Inv) : outInv (execYield s) := by
  unfold execYield
  with_reducible repeat' (first
    | assumption | apply out_next | apply State.gigInstr_inv | apply State.unslice_inv | apply State.onMe_inv
    | apply State.beginLeave_inv | dsimp only | intro _ | split)

theorem execGigHalt_inv (s : State) (inv : s.Inv) : outInv (execGigHalt s) := by
  unfold execGigHalt
  with_reducible repeat' (first
    | assumption | apply out_next | apply State.gigInstr_inv | apply State.onMe_inv | apply State.unslice_inv
    | apply State.leave_inv | dsimp only | intro _ | split)

theorem execTrace_inv (a : BitVec 5) (t : BitVec 6) (s : State) (inv : s.Inv) : outInv (execTrace a t s) := by
  unfold execTrace
  with_reducible repeat' (first
    | assumption | apply out_next | apply State.gigInstr_inv | apply State.noteGig_inv | apply State.onGig_inv
    | apply State.onMe_inv | intro _ | split)

theorem execLeave_inv (d a : BitVec 5) (c : BitVec 1) (s : State) (inv : s.Inv) : outInv (execLeave d a c s) := by
  unfold execLeave
  with_reducible repeat' (first
    | assumption | apply out_next | apply State.gigInstr_inv | apply State.ask_inv | apply State.onMe_inv | intro _
    | split)

theorem execEuBarrierArrive_inv (t j : Nat) (s : State) (inv : s.Inv) : outInv (execEuBarrierArrive t j s) := by
  unfold execEuBarrierArrive
  with_reducible repeat' (first
    | assumption | apply out_next | apply State.accTrap_inv | apply State.onThread_inv | apply State.arrive_inv
    | dsimp only | split)

theorem execEuMutexAcquire_inv (t j : Nat) (s : State) (inv : s.Inv) : outInv (execEuMutexAcquire t j s) := by
  unfold execEuMutexAcquire
  with_reducible repeat' (first | assumption | apply out_next | apply State.onThread_inv | split)

theorem execEuMutexRelease_inv (t j : Nat) (s : State) (inv : s.Inv) : outInv (execEuMutexRelease t j s) := by
  unfold execEuMutexRelease
  with_reducible repeat' (first
    | assumption | apply out_next | apply State.onCtx_inv | apply State.onThread_inv | apply State.accTrap_inv
    | dsimp only | split)

theorem execEuEventWait_inv (t j : Nat) (s : State) (inv : s.Inv) : outInv (execEuEventWait t j s) := by
  unfold execEuEventWait
  with_reducible repeat' (first
    | assumption | apply out_next | apply State.onThread_inv | apply State.onCtx_inv | dsimp only | split)

theorem execEuEventSet_inv (t j : Nat) (s : State) (inv : s.Inv) : outInv (execEuEventSet t j s) := by
  unfold execEuEventSet
  with_reducible repeat' (first
    | assumption | apply out_next | apply State.onCtx_inv | apply State.onThread_inv | split)

theorem execShoot_inv (t j : Nat) (s : State) (inv : s.Inv) : outInv (execShoot t j s) := by
  unfold execShoot
  with_reducible repeat' (first
    | assumption | apply out_next | apply State.onPart_inv | apply State.onThread_inv | split)

theorem execDone_inv (t j : Nat) (s : State) (inv : s.Inv) : outInv (execDone t j s) := by
  unfold execDone
  with_reducible repeat' (first | assumption | apply out_next | apply State.onThread_inv | dsimp only | split)

theorem execHbmSlotTransfer_inv (j : Nat) (s : State) (inv : s.Inv) : outInv (execHbmSlotTransfer j s) := by
  unfold execHbmSlotTransfer
  with_reducible repeat' (first
    | assumption | apply out_next | apply State.hbmPiece_inv | simp only [inv_upd] | split)

theorem execHbmUnitArrival_inv (g late : Nat) (s : State) (inv : s.Inv) :
    outInv (execHbmUnitArrival g late s) := by
  unfold execHbmUnitArrival
  with_reducible repeat' (first | assumption | apply out_next | apply State.setPipe_inv | apply State.drawn_inv)

theorem execHbmRefresh_inv (_j : Nat) (s : State) (inv : s.Inv) : outInv (execHbmRefresh _j s) := by
  unfold execHbmRefresh
  with_reducible repeat' (first | assumption | apply out_next)

theorem execScrub_inv (u a : Nat) (bad : Bool) (s : State) (inv : s.Inv) : outInv (execScrub u a bad s) := by
  unfold execScrub
  with_reducible repeat' (first
    | assumption | apply out_next | apply State.countUnc_inv | apply State.strike_inv | apply State.countCor_inv
    | split)

theorem execExtRequestArrival_inv (k : Nat) (s : State) (inv : s.Inv) : outInv (execExtRequestArrival k s) := by
  unfold execExtRequestArrival
  with_reducible repeat' (first
    | assumption | apply out_next | apply State.onThread_inv | apply State.drawn_inv | apply State.onRun_inv
    | dsimp only | split)

theorem execTresumePerform_inv (k : Nat) (s : State) (inv : s.Inv) : outInv (execTresumePerform k s) := by
  unfold execTresumePerform
  with_reducible repeat' (first
    | assumption | apply out_next | apply State.resume_inv | apply State.drawn_inv | apply State.onThread_inv
    | dsimp only | split)

theorem execPostArrival_inv (t : Nat) (s : State) (inv : s.Inv) : outInv (execPostArrival t s) := by
  unfold execPostArrival
  with_reducible repeat' (first
    | assumption | apply out_next | apply State.onThread_inv | apply State.setDie_inv | apply State.drawn_inv
    | dsimp only | split)

theorem execAllowanceChange_inv (d ta lb : Nat) (s : State) (inv : s.Inv) :
    outInv (execAllowanceChange d ta lb s) := by
  unfold execAllowanceChange
  with_reducible repeat' (first
    | assumption | apply out_next | apply State.onDie_inv | apply State.sendChange_inv | split)

theorem execWake_inv (c : Nat) (s : State) (inv : s.Inv) : outInv (execWake c s) := by
  unfold execWake
  with_reducible repeat' (first
    | assumption | apply out_next | apply State.onLaunch_inv | apply State.drawn_inv | apply State.onCoach_inv
    | apply State.loadRecord_inv | apply State.tryStart_inv | dsimp only | split)

theorem execGroupExit_inv (c : Nat) (s : State) (inv : s.Inv) : outInv (execGroupExit c s) := by
  unfold execGroupExit
  with_reducible repeat' (first | assumption | apply out_next | apply State.gigTime_inv | split)

theorem execDynLaunchComplete_inv (lid : Nat) (s : State) (inv : s.Inv) :
    outInv (execDynLaunchComplete lid s) := by
  unfold execDynLaunchComplete
  with_reducible repeat' (first
    | assumption | apply out_next | apply State.onLaunch_inv | simp only [inv_upd] | split)

theorem execContextStart_inv (c : Nat) (s : State) (inv : s.Inv) : outInv (execContextStart c s) := by
  unfold execContextStart
  with_reducible repeat' (first | assumption | apply out_next | apply State.tryStart_inv | split)

theorem execChildArrival_inv (c : Nat) (s : State) (inv : s.Inv) : outInv (execChildArrival c s) := by
  unfold execChildArrival
  with_reducible repeat' (first
    | assumption | apply out_next | apply State.takeEv_inv | apply State.arrive_inv
    | refine inv_some (by assumption) ?_ | split)

theorem execBarrierRelease_inv (c : Nat) (s : State) (inv : s.Inv) : outInv (execBarrierRelease c s) := by
  unfold execBarrierRelease
  with_reducible repeat' (first
    | assumption | apply out_next | apply State.takeEv_inv | apply State.resave_inv | apply State.releaseAt_inv
    | refine inv_some (by assumption) ?_ | split)

theorem execEvmsgArrival_inv (c : Nat) (s : State) (inv : s.Inv) : outInv (execEvmsgArrival c s) := by
  unfold execEvmsgArrival
  with_reducible repeat' (first
    | assumption | apply out_next | apply State.takeEv_inv | apply State.resave_inv | apply State.onCtx_inv
    | refine inv_some (by assumption) ?_ | dsimp only | split)

theorem execLayoverNotice_inv (c : Nat) (s : State) (inv : s.Inv) : outInv (execLayoverNotice c s) := by
  unfold execLayoverNotice
  with_reducible repeat' (first
    | assumption | apply out_next | apply State.takeEv_inv | apply State.setLineHeld_inv
    | refine inv_some (by assumption) ?_ | split)

theorem execChildCompletion_inv (c : Nat) (s : State) (inv : s.Inv) : outInv (execChildCompletion c s) := by
  unfold execChildCompletion
  with_reducible repeat' (first
    | assumption | apply out_next | apply State.takeEv_inv | apply State.setLineHeld_inv
    | refine inv_some (by assumption) ?_ | split)

theorem execWaitpTimeout_inv (t : Nat) (s : State) (inv : s.Inv) : outInv (execWaitpTimeout t s) := by
  unfold execWaitpTimeout
  with_reducible repeat' (first | assumption | apply out_next | apply State.gigTime_inv | dsimp only | split)

theorem execSendAccept_inv (t : Nat) (s : State) (inv : s.Inv) : outInv (execSendAccept t s) := by
  unfold execSendAccept
  with_reducible repeat' (first
    | assumption | apply out_next | apply State.onThread_inv | apply State.trapAt_inv | apply State.haltCoach_inv
    | apply State.sendMsg_inv | apply State.acceptOne_inv | simp only [inv_upd] | split)

theorem execCardStart_inv (c j : Nat) (s : State) (inv : s.Inv) : outInv (execCardStart c j s) := by
  unfold execCardStart
  with_reducible repeat' (first
    | assumption | apply out_next | apply State.cardLeave_inv | apply State.onCard_inv | dsimp only | split)

theorem execRowLanded_inv (c j : Nat) (s : State) (inv : s.Inv) : outInv (execRowLanded c j s) := by
  unfold execRowLanded
  with_reducible repeat' (first
    | assumption | apply out_next | apply State.rowStep_inv | apply State.onCard_inv | apply State.cardArrive_inv
    | refine inv_snd (by assumption) ?_ | split)

theorem execCardRetire_inv (c j : Nat) (s : State) (inv : s.Inv) : outInv (execCardRetire c j s) := by
  unfold execCardRetire
  with_reducible repeat' (first
    | assumption | apply out_next | apply State.onCard_inv | apply State.cardArrive_inv | split)

theorem execCardFault_inv (c j : Nat) (s : State) (inv : s.Inv) : outInv (execCardFault c j s) := by
  unfold execCardFault
  with_reducible repeat' (first
    | assumption | apply out_next | apply State.rowStep_inv | apply State.faultChain_inv | apply State.faultOne_inv
    | apply State.onCtx_inv | refine inv_snd (by assumption) ?_ | dsimp only | split)

theorem execCardLeaveRetry_inv (c j : Nat) (s : State) (inv : s.Inv) : outInv (execCardLeaveRetry c j s) := by
  unfold execCardLeaveRetry
  with_reducible repeat' (first
    | assumption | apply out_next | apply State.gigTime_inv | apply State.cardLeave_inv | split)

theorem execGrantExpiry_inv (d : Nat) (s : State) (inv : s.Inv) : outInv (execGrantExpiry d s) := by
  unfold execGrantExpiry
  with_reducible repeat' (first
    | assumption | apply out_next | apply State.gigTime_inv | apply State.onDie_inv | split)

theorem execSliceExpiry_inv (c : Nat) (s : State) (inv : s.Inv) : outInv (execSliceExpiry c s) := by
  unfold execSliceExpiry
  with_reducible repeat' (first
    | assumption | apply out_next | apply State.gigTime_inv | apply State.putHeader_inv | apply State.endContext_inv
    | apply State.countTable_inv | apply State.beginLeave_inv | apply State.onCtx_inv | apply State.trapAt_inv
    | apply State.startSlice_inv | apply foldl_inv | dsimp only | intro _ | split)

theorem execSwitchOut_inv (c : Nat) (s : State) (inv : s.Inv) : outInv (execSwitchOut c s) := by
  unfold execSwitchOut
  with_reducible repeat' (first
    | assumption | apply out_next | apply State.beginLeave_inv | apply State.putHeader_inv
    | apply State.endContext_inv | apply State.countUnc_inv | apply State.onCtx_inv | apply State.acceptHeld_inv
    | apply State.saveContext_inv | apply State.onCoach_inv | dsimp only | split)

theorem execContextRestore_inv (c : Nat) (s : State) (inv : s.Inv) : outInv (execContextRestore c s) := by
  unfold execContextRestore
  with_reducible repeat' (first
    | assumption | apply out_next | apply State.putHeader_inv | apply State.endContext_inv
    | apply State.countUnc_inv | apply State.loadContext_inv | apply State.onCtx_inv | apply State.reclaim_inv
    | apply State.onCoach_inv | apply State.keyGigs_inv | apply State.startSlice_inv | apply State.acceptHeld_inv
    | apply State.deliver_inv | apply foldl_inv | intro _ | split)

theorem execShootdownComplete_inv (k : Nat) (s : State) (inv : s.Inv) : outInv (execShootdownComplete k s) := by
  unfold execShootdownComplete
  with_reducible repeat' (first
    | assumption | apply out_next | apply State.onPart_inv | simp only [inv_upd] | split)

theorem execPortalDmwr_inv (port a : Nat) (w : List Word) (s : State) (inv : s.Inv) :
    outInv (execPortalDmwr port a w s) := by
  unfold execPortalDmwr
  with_reducible repeat' (first | assumption | apply out_next | apply State.submit_inv | split)

theorem execPortalPostedWrite_inv (port : Nat) (s : State) (inv : s.Inv) :
    outInv (execPortalPostedWrite port s) := by
  unfold execPortalPostedWrite
  with_reducible repeat' (first | assumption | apply out_next | simp only [inv_upd] | split)

theorem execMctpPacket_inv (w : List Word) (s : State) (inv : s.Inv) : outInv (execMctpPacket w s) := by
  unfold execMctpPacket
  with_reducible repeat' (first | assumption | apply out_next | apply State.submit_inv)

theorem execLaunchTimed_inv (j : Nat) (s : State) (inv : s.Inv) : outInv (execLaunchTimed j s) := by
  unfold execLaunchTimed
  with_reducible repeat' (first
    | assumption | apply out_next | apply State.packet_inv | apply State.chooseImage_inv
    | apply State.rejectRead_inv | apply State.rejectJob_inv | apply State.onJob_inv | apply State.endJob_inv
    | apply State.enterSeed_inv | apply State.loadUnits_inv | refine inv_fst (by assumption) ?_
    | simp only [inv_upd] | intro _ | split)

theorem execLaunchDyn_inv (j : Nat) (s : State) (inv : s.Inv) : outInv (execLaunchDyn j s) := by
  unfold execLaunchDyn
  with_reducible repeat' (first
    | assumption | apply out_next | apply State.packet_inv | apply State.rejectRead_inv | apply State.rejectJob_inv
    | apply State.onJob_inv | apply State.takeIn_inv | apply State.newLaunch_inv | dsimp only | intro _ | split)

theorem execCopy_inv (j : Nat) (s : State) (inv : s.Inv) : outInv (execCopy j s) := by
  unfold execCopy
  with_reducible repeat' (first | assumption | apply out_next | apply State.copyRow_inv)

theorem execCopyFill_inv (j : Nat) (s : State) (inv : s.Inv) : outInv (execCopyFill j s) := by
  unfold execCopyFill
  with_reducible repeat' (first | assumption | apply out_next | apply State.copyRow_inv)

theorem execSignalSet_inv (j : Nat) (s : State) (inv : s.Inv) : outInv (execSignalSet j s) := by
  unfold execSignalSet
  with_reducible repeat' (first | assumption | apply out_next | apply State.signal_inv)

theorem execSignalAdd_inv (j : Nat) (s : State) (inv : s.Inv) : outInv (execSignalAdd j s) := by
  unfold execSignalAdd
  with_reducible repeat' (first | assumption | apply out_next | apply State.signal_inv)

theorem execWait_inv (j : Nat) (s : State) (inv : s.Inv) : outInv (execWait j s) := by
  unfold execWait
  with_reducible repeat' (first
    | assumption | apply out_next | apply State.packet_inv | apply State.endJob_inv | apply State.onJob_inv
    | intro _ | split)

theorem execConfigDiffApply_inv (j : Nat) (s : State) (inv : s.Inv) : outInv (execConfigDiffApply j s) := by
  unfold execConfigDiffApply
  with_reducible repeat' (first
    | assumption | apply out_next | apply State.packet_inv | apply State.onPart_inv | apply State.rejectRead_inv
    | apply State.rejectJob_inv | apply State.onJob_inv | dsimp only | intro _ | split)

theorem execConfigDiffRollback_inv (j : Nat) (s : State) (inv : s.Inv) : outInv (execConfigDiffRollback j s) := by
  unfold execConfigDiffRollback
  with_reducible repeat' (first
    | assumption | apply out_next | apply State.packet_inv | apply State.endJob_inv | apply State.swapMeasured_inv
    | apply State.rejectJob_inv | dsimp only | intro _ | split)

theorem execConfigSwap_inv (k : Nat) (s : State) (inv : s.Inv) : outInv (execConfigSwap k s) := by
  unfold execConfigSwap
  with_reducible repeat' (first
    | assumption | apply out_next | apply State.endJob_inv | apply State.swapMeasured_inv | split)

theorem execQueryIdentity_inv (j : Nat) (s : State) (inv : s.Inv) : outInv (execQueryIdentity j s) := by
  unfold execQueryIdentity
  with_reducible repeat' (first | assumption | apply out_next | apply State.query_inv | apply State.drawn_inv)

theorem execQueryPartitionMap_inv (j : Nat) (s : State) (inv : s.Inv) : outInv (execQueryPartitionMap j s) := by
  unfold execQueryPartitionMap
  with_reducible repeat' (first | assumption | apply out_next | apply State.query_inv)

theorem execQueryLaunchState_inv (j : Nat) (s : State) (inv : s.Inv) : outInv (execQueryLaunchState j s) := by
  unfold execQueryLaunchState
  with_reducible repeat' (first | assumption | apply out_next | apply State.query_inv)

theorem execQuerySeedRecords_inv (j : Nat) (s : State) (inv : s.Inv) : outInv (execQuerySeedRecords j s) := by
  unfold execQuerySeedRecords
  with_reducible repeat' (first | assumption | apply out_next | apply State.query_inv)

theorem execQueryHealth_inv (j : Nat) (s : State) (inv : s.Inv) : outInv (execQueryHealth j s) := by
  unfold execQueryHealth
  with_reducible repeat' (first | assumption | apply out_next | apply State.query_inv)

theorem execQueryCounters_inv (j : Nat) (s : State) (inv : s.Inv) : outInv (execQueryCounters j s) := by
  unfold execQueryCounters
  with_reducible repeat' (first | assumption | apply out_next | apply State.query_inv)

theorem execQueryAttestation_inv (j : Nat) (s : State) (inv : s.Inv) : outInv (execQueryAttestation j s) := by
  unfold execQueryAttestation
  with_reducible repeat' (first
    | assumption | apply out_next | apply State.packet_inv | apply State.rejectRead_inv | apply State.query_inv
    | intro _ | split)

theorem execFwUpdate_inv (j : Nat) (s : State) (inv : s.Inv) : outInv (execFwUpdate j s) := by
  unfold execFwUpdate
  with_reducible repeat' (first
    | assumption | apply out_next | apply State.packet_inv | apply State.rejectRead_inv | apply State.rejectJob_inv
    | apply State.onJob_inv | apply State.endJob_inv | apply State.takeover_inv | simp only [inv_mk]
    | simp only [fw_mk] | apply And.intro | apply fw_own | apply fw_cap | apply fw_seeds | apply fw_rings
    | apply fw_version | apply inv_mem | apply inv_fw | intro _ | split)

theorem execPartitionCreate_inv (j : Nat) (s : State) (inv : s.Inv) : outInv (execPartitionCreate j s) := by
  unfold execPartitionCreate
  with_reducible repeat' (first
    | assumption | apply out_next | apply State.partitionRow_inv | apply State.alignDies_inv
    | apply State.setPart_inv | apply State.endJob_inv | apply State.measure_inv | apply State.rejectJob_inv
    | intro _ | split)

theorem execPartitionDestroy_inv (j : Nat) (s : State) (inv : s.Inv) : outInv (execPartitionDestroy j s) := by
  unfold execPartitionDestroy
  with_reducible repeat' (first
    | assumption | apply out_next | apply State.partitionRow_inv | apply State.rejectJob_inv
    | apply State.setPart_inv | apply State.endJob_inv | apply State.measure_inv | simp only [inv_upd] | intro _
    | split)

theorem execCompletionRecordWrite_inv (j : Nat) (s : State) (inv : s.Inv) :
    outInv (execCompletionRecordWrite j s) := by
  unfold execCompletionRecordWrite
  with_reducible repeat' (first
    | assumption | apply out_next | apply State.onJob_inv | apply State.hostWrite_inv | simp only [inv_upd] | split)

theorem execSpdmGetMeasurements_inv (nonce : BitVec 384) (s : State) (inv : s.Inv) :
    outInv (execSpdmGetMeasurements nonce s) := by
  unfold execSpdmGetMeasurements
  with_reducible repeat' (first | assumption | apply out_next | simp only [inv_upd] | split)

theorem execPowerLoss_inv (s : State) (inv : s.Inv) : outInv (execPowerLoss s) := by
  unfold execPowerLoss
  with_reducible repeat' (first
    | assumption | apply out_next | apply State.cold_inv | simp only [inv_mk] | simp only [fw_mk] | apply And.intro
    | apply fw_own | apply fw_cap | apply fw_seeds | apply fw_rings | apply fw_version | apply inv_mem
    | apply inv_fw)

theorem execDomainFormation_inv (n : Nat) (s : State) (inv : s.Inv) : outInv (execDomainFormation n s) := by
  unfold execDomainFormation
  with_reducible repeat' (first
    | assumption | apply out_next | apply State.onDie_inv | apply State.drawn_inv | apply foldl_inv
    | simp only [inv_mk] | simp only [fw_mk] | apply And.intro | apply fw_own | apply fw_cap | apply fw_seeds
    | apply fw_rings | apply fw_version | apply inv_mem | apply inv_fw | intro _ | split)

theorem execLinkFreezeNotice_inv (k : Nat) (s : State) (inv : s.Inv) : outInv (execLinkFreezeNotice k s) := by
  unfold execLinkFreezeNotice
  with_reducible repeat' (first
    | assumption | apply out_next | apply State.onRun_inv | apply State.drawn_inv | apply State.record_inv
    | apply State.conclude_inv | dsimp only | split)

theorem execLinkRestartNotice_inv (k : Nat) (s : State) (inv : s.Inv) : outInv (execLinkRestartNotice k s) := by
  unfold execLinkRestartNotice
  with_reducible repeat' (first
    | assumption | apply out_next | apply State.resume_inv | apply State.endFrozen_inv | simp only [inv_upd] | split)

theorem execUetCompletion_inv (k ctr : Nat) (v : Word) (line : Option Nat) (s : State) (inv : s.Inv) :
    outInv (execUetCompletion k ctr v line s) := by
  unfold execUetCompletion
  with_reducible repeat' (first
    | assumption | apply out_next | apply State.setCounter_inv | apply State.setLineHeld_inv | split)

theorem execAccessReachesTarget_inv (t j : Nat) (s : State) (inv : s.Inv) :
    outInv (execAccessReachesTarget t j s) := by
  unfold execAccessReachesTarget
  with_reducible repeat' (first
    | assumption | apply out_next | apply State.toLookup_inv | apply State.translate_inv | apply State.accTrap_inv
    | apply State.translated_inv | apply State.onThread_inv | apply State.performAcc_inv
    | refine inv_snd (by assumption) ?_ | dsimp only | split)

theorem execCompletionTimeout_inv (t j : Nat) (s : State) (inv : s.Inv) :
    outInv (execCompletionTimeout t j s) := by
  unfold execCompletionTimeout
  with_reducible repeat' (first
    | assumption | apply out_next | apply State.countUnc_inv | apply State.onThread_inv | split)

theorem execUnassignedGigWord_inv (x : BitVec 32) (s : State) (inv : s.Inv) :
    outInv (execUnassignedGigWord x s) := by
  unfold execUnassignedGigWord
  with_reducible repeat' (first | assumption | apply out_next | apply State.gigWord_inv | intro _)

/-! ### Every instruction, every turn and every step -/

/-- Every instruction and every event keeps the invariant. -/
theorem exec_inv (i : Instr) (s : State) (inv : s.Inv) : outInv (exec i s) := by
  cases i with
  | add | sub | and | or | xor | shl | shr | sra | mul | mulh | mulhu | min | max | minu | maxu =>
    exact out_next (State.alu_inv (inv := inv) ..)
  | addi | andi | ori | xori | shli | shri | srai => exact out_next (State.aluImm_inv (inv := inv) ..)
  | li | lui | sel => exact out_next (State.toS_inv (inv := inv) ..)
  | cmp | cmpi | postv => exact out_next (State.toP_inv (inv := inv) ..)
  | lds | sts | sqw | bqw | postrd | nest | mgo | csrr | csrw | tick | mark | halt | vcmp | vsplQ | vpop
  | vpush | vmsk | accrd | accwr | accz => exact out_next (State.timedPipe_inv (inv := inv) ..)
  | br | brp => exact out_next (State.branchWord_inv (inv := inv) ..)
  | loop => exact out_next (State.loopWord_inv (inv := inv) ..)
  | cGive | xGive => exact out_next (State.give_inv (inv := inv) ..)
  | cTake | xTake => exact out_next (State.take_inv (inv := inv) ..)
  | vadd | vsub | vmul | vfma | vfms => exact out_next (State.vArith_inv (inv := inv) ..)
  | vmax | vmin | vabs | vneg | viadd | vimul => exact out_next (State.vMap_inv (inv := inv) ..)
  | vcvt | vtab | vrope | vscl => exact out_next (State.xMode_inv (inv := inv) ..)
  | vsel | vperm | vspl | vldi => exact out_next (State.vLanes_inv (inv := inv) ..)
  | vand | vor | vxor | vshl | vshr => exact out_next (State.vLogic_inv (inv := inv) ..)
  | gigAdd | gigSub | gigAnd | gigOr | gigXor | gigShl | gigShr | gigSra | gigMul | gigMulh | gigMulhu
  | gigSlt | gigSltu | gigMin | gigMax | gigMinu | gigMaxu => exact out_next (State.gigAlu_inv (inv := inv) ..)
  | gigDiv | gigDivu | gigRem | gigRemu => exact out_next (State.gigDivide_inv (inv := inv) ..)
  | gigClz | gigCtz | gigPopc | gigAddi | gigAndi | gigOri | gigXori | gigShli | gigShri | gigSrai | slti
  | sltiu => exact out_next (State.gigOne_inv (inv := inv) ..)
  | gigLui | wid | wbstat => exact out_next (State.toD_inv (inv := inv) ..)
  | beq | bne | blt | bge | bltu | bgeu => exact out_next (State.gigBranch_inv (inv := inv) ..)
  | ldb | ldh | ldw | ldd | ldbu | ldhu | ldwu => exact out_next (State.gigLoad_inv (inv := inv) ..)
  | stb | sth | stw | std => exact out_next (State.gigStore_inv (inv := inv) ..)
  | amoadd | amoswap | amocas | amomin | amomax | amominu | amomaxu | amoand | amoor | amoxor =>
    exact out_next (State.gigAmo_inv (inv := inv) ..)
  | fadd | fsub | fmul | fdiv => exact out_next (State.fpuTwo_inv (inv := inv) ..)
  | fsqrt | fcvt => exact out_next (State.fpu_inv (inv := inv) ..)
  | fmin | fmax | feq | flt | fle => exact out_next (State.fpuPlain_inv (inv := inv) ..)
  | fma | fms | fnma => exact out_next (State.fused_inv (inv := inv) ..)
  | balloc | bfree | bfork | bmap | bappend => exact out_next (State.liveryInstr_inv (inv := inv) ..)
  | rng => exact out_next (State.toLateD_inv (inv := inv) ..)
  | idle w n => exact execIdle_inv w n s inv
  | lspan w n => exact execLspan_inv w n s inv
  | call w im => exact execCall_inv w im s inv
  | ret w => exact execRet_inv w s inv
  | align w n => exact execAlign_inv w n s inv
  | stage w n => exact execStage_inv w n s inv
  | wopen w l => exact execWopen_inv w l s inv
  | wclose w l => exact execWclose_inv w l s inv
  | trapc w c => exact execTrapc_inv w c s inv
  | freeze w => exact execFreeze_inv w s inv
  | lScfg w st a im => exact execLScfg_inv w st a im s inv
  | lSadv w st im => exact execLSadv_inv w st im s inv
  | aadd w d a b => exact execAadd_inv w d a b s inv
  | aaddi w d a im => exact execAaddi_inv w d a im s inv
  | ali w d im => exact execAli_inv w d im s inv
  | lSqr w d => exact execLSqr_inv w d s inv
  | ldq w q st => exact execLdq_inv w q st s inv
  | gath w st a im => exact execGath_inv w st a im s inv
  | hld w st a im => exact execHld_inv w st a im s inv
  | lTlbp w st => exact execLTlbp_inv w st s inv
  | bout w st => exact execBout_inv w st s inv
  | ldcb w c a => exact execLdcb_inv w c a s inv
  | ldcm w t a => exact execLdcm_inv w t a s inv
  | lGive w q c => exact execLGive_inv w q c s inv
  | lTake w q c => exact execLTake_inv w q c s inv
  | sScfg w st b im => exact execSScfg_inv w st b im s inv
  | sSadv w st im => exact execSSadv_inv w st im s inv
  | badd w d a b => exact execBadd_inv w d a b s inv
  | baddi w d a im => exact execBaddi_inv w d a im s inv
  | bli w d im => exact execBli_inv w d im s inv
  | sSqr w d => exact execSSqr_inv w d s inv
  | stq w q st f r x h c => exact execStq_inv w q st f r x h c s inv
  | hst w st b im => exact execHst_inv w st b im s inv
  | send w q b => exact execSend_inv w q b s inv
  | mcast w q g b => exact execMcast_inv w q g b s inv
  | rmw w o t b v => exact execRmw_inv w o t b v s inv
  | hclr w st => exact execHclr_inv w st s inv
  | hsnap w st b => exact execHsnap_inv w st b s inv
  | sTlbp w st => exact execSTlbp_inv w st s inv
  | sGive w q c => exact execSGive_inv w q c s inv
  | sTake w q c => exact execSTake_inv w q c s inv
  | vred w d a o f r m => exact execVred_inv w d a o f r m s inv
  | vrng w d m => exact execVrng_inv w d m s inv
  | vdrw w d st f => exact execVdrw_inv w d st f s inv
  | vdwr w a st => exact execVdwr_inv w a st s inv
  | accst w q r f o x => exact execAccst_inv w q r f o x s inv
  | xbr w n im => exact execXbr_inv w n im s inv
  | xloop w l m => exact execXloop_inv w l m s inv
  | xlspan w n => exact execXlspan_inv w n s inv
  | jal im => exact execJal_inv im s inv
  | jalr d a im => exact execJalr_inv d a im s inv
  | fence st m => exact execFence_inv st m s inv
  | fexp2 d a => exact execFexp2_inv d a s inv
  | arrive d n => exact execArrive_inv d n s inv
  | waitp d a b n => exact execWaitp_inv d a b n s inv
  | evsig n => exact execEvsig_inv n s inv
  | evmsg a n => exact execEvmsg_inv a n s inv
  | gigSend a b => exact execGigSend_inv a b s inv
  | recv d a n => exact execRecv_inv d a n s inv
  | spawn d a p => exact execSpawn_inv d a p s inv
  | hsift d a b k => exact execHsift_inv d a b k s inv
  | cntadd a b => exact execCntadd_inv a b s inv
  | cntsnap a b n => exact execCntsnap_inv a b n s inv
  | wbill d a => exact execWbill_inv d a s inv
  | post d a b st => exact execPost_inv d a b st s inv
  | tfreeze d st => exact execTfreeze_inv d st s inv
  | tresume d => exact execTresume_inv d s inv
  | tframe d a => exact execTframe_inv d a s inv
  | trap c => exact execTrap_inv c s inv
  | tret => exact execTret_inv s inv
  | gigCsrr d c => exact execGigCsrr_inv d c s inv
  | gigCsrw a c => exact execGigCsrw_inv a c s inv
  | yield => exact execYield_inv s inv
  | gigHalt => exact execGigHalt_inv s inv
  | trace a t => exact execTrace_inv a t s inv
  | leave d a c => exact execLeave_inv d a c s inv
  | euBarrierArrive t j => exact execEuBarrierArrive_inv t j s inv
  | euMutexAcquire t j => exact execEuMutexAcquire_inv t j s inv
  | euMutexRelease t j => exact execEuMutexRelease_inv t j s inv
  | euEventWait t j => exact execEuEventWait_inv t j s inv
  | euEventSet t j => exact execEuEventSet_inv t j s inv
  | shoot t j => exact execShoot_inv t j s inv
  | done t j => exact execDone_inv t j s inv
  | registerWrite g => exact execRegisterWrite_inv g s inv
  | resultComplete g => exact execResultComplete_inv g s inv
  | scfgTakesEffect g => exact execScfgTakesEffect_inv g s inv
  | tlbpResult g => exact execTlbpResult_inv g s inv
  | ldcmComplete g => exact execLdcmComplete_inv g s inv
  | rmwFinalWrite g => exact execRmwFinalWrite_inv g s inv
  | hldLanding g => exact execHldLanding_inv g s inv
  | hstCompletion g => exact execHstCompletion_inv g s inv
  | hbmSlotTransfer j => exact execHbmSlotTransfer_inv j s inv
  | hbmUnitArrival g late => exact execHbmUnitArrival_inv g late s inv
  | hbmSlotRefusal g => exact execHbmSlotRefusal_inv g s inv
  | hbmRefresh j => exact execHbmRefresh_inv j s inv
  | scrub u a bad => exact execScrub_inv u a bad s inv
  | wordArrival d => exact execWordArrival_inv d s inv
  | relayLanding g => exact execRelayLanding_inv g s inv
  | boundaryChannelOverflow d => exact execBoundaryChannelOverflow_inv d s inv
  | drawbarArrival g => exact execDrawbarArrival_inv g s inv
  | linkPlanRead k j => exact execLinkPlanRead_inv k j s inv
  | linkPlanLanding k j => exact execLinkPlanLanding_inv k j s inv
  | nestKStep g => exact execNestKStep_inv g s inv
  | nestDone g => exact execNestDone_inv g s inv
  | sidebandAtk d n => exact execSidebandAtk_inv d n s inv
  | alignRelease d => exact execAlignRelease_inv d s inv
  | alignSlip d => exact execAlignSlip_inv d s inv
  | freezeTakesEffect k => exact execFreezeTakesEffect_inv k s inv
  | freezeNotice k => exact execFreezeNotice_inv k s inv
  | extIntTaken t => exact execExtIntTaken_inv t s inv
  | extRequestArrival k => exact execExtRequestArrival_inv k s inv
  | tresumePerform k => exact execTresumePerform_inv k s inv
  | restart d => exact execRestart_inv d s inv
  | pipelineFinished g => exact execPipelineFinished_inv g s inv
  | timedGlobalStart k => exact execTimedGlobalStart_inv k s inv
  | postArrival t => exact execPostArrival_inv t s inv
  | brakeHoldStart d => exact execBrakeHoldStart_inv d s inv
  | brakeRelease d => exact execBrakeRelease_inv d s inv
  | brakeLimit d => exact execBrakeLimit_inv d s inv
  | layoverSettle d => exact execLayoverSettle_inv d s inv
  | turnpikeDelayEnd d => exact execTurnpikeDelayEnd_inv d s inv
  | allowanceChange d ta lb => exact execAllowanceChange_inv d ta lb s inv
  | powerCap watts => exact execPowerCap_inv watts s inv
  | wake c => exact execWake_inv c s inv
  | groupExit c => exact execGroupExit_inv c s inv
  | dynLaunchComplete l => exact execDynLaunchComplete_inv l s inv
  | contextStart c => exact execContextStart_inv c s inv
  | childArrival c => exact execChildArrival_inv c s inv
  | barrierRelease c => exact execBarrierRelease_inv c s inv
  | evmsgArrival c => exact execEvmsgArrival_inv c s inv
  | layoverNotice c => exact execLayoverNotice_inv c s inv
  | childCompletion c => exact execChildCompletion_inv c s inv
  | waitpTimeout t => exact execWaitpTimeout_inv t s inv
  | sendAccept t => exact execSendAccept_inv t s inv
  | cardStart c j => exact execCardStart_inv c j s inv
  | rowLanded c j => exact execRowLanded_inv c j s inv
  | cardRetire c j => exact execCardRetire_inv c j s inv
  | cardFault c j => exact execCardFault_inv c j s inv
  | cardLeaveRetry c j => exact execCardLeaveRetry_inv c j s inv
  | grantExpiry d => exact execGrantExpiry_inv d s inv
  | sliceExpiry c => exact execSliceExpiry_inv c s inv
  | switchOut c => exact execSwitchOut_inv c s inv
  | contextRestore c => exact execContextRestore_inv c s inv
  | shootdownComplete k => exact execShootdownComplete_inv k s inv
  | portalDmwr port a w => exact execPortalDmwr_inv port a w s inv
  | portalPostedWrite port => exact execPortalPostedWrite_inv port s inv
  | mctpPacket w => exact execMctpPacket_inv w s inv
  | launchTimed j => exact execLaunchTimed_inv j s inv
  | launchDyn j => exact execLaunchDyn_inv j s inv
  | copy j => exact execCopy_inv j s inv
  | copyFill j => exact execCopyFill_inv j s inv
  | signalSet j => exact execSignalSet_inv j s inv
  | signalAdd j => exact execSignalAdd_inv j s inv
  | wait j => exact execWait_inv j s inv
  | waitComplete j => exact execWaitComplete_inv j s inv
  | configDiffApply j => exact execConfigDiffApply_inv j s inv
  | configDiffRollback j => exact execConfigDiffRollback_inv j s inv
  | configSwap k => exact execConfigSwap_inv k s inv
  | queryIdentity j => exact execQueryIdentity_inv j s inv
  | queryPartitionMap j => exact execQueryPartitionMap_inv j s inv
  | queryLaunchState j => exact execQueryLaunchState_inv j s inv
  | querySeedRecords j => exact execQuerySeedRecords_inv j s inv
  | queryHealth j => exact execQueryHealth_inv j s inv
  | queryCounters j => exact execQueryCounters_inv j s inv
  | queryAttestation j => exact execQueryAttestation_inv j s inv
  | fwUpdate j => exact execFwUpdate_inv j s inv
  | partitionCreate j => exact execPartitionCreate_inv j s inv
  | partitionDestroy j => exact execPartitionDestroy_inv j s inv
  | completionRecordWrite j => exact execCompletionRecordWrite_inv j s inv
  | ownClaim m => exact execOwnClaim_inv m s inv
  | ownSucc m succ => exact execOwnSucc_inv m succ s inv
  | succTimeout => exact execSuccTimeout_inv s inv
  | ownerLoss => exact execOwnerLoss_inv s inv
  | spdmGetMeasurements nonce => exact execSpdmGetMeasurements_inv nonce s inv
  | packageReset bad => exact execPackageReset_inv bad s inv
  | powerLoss => exact execPowerLoss_inv s inv
  | domainFormation n => exact execDomainFormation_inv n s inv
  | linkFreezeNotice k => exact execLinkFreezeNotice_inv k s inv
  | linkRestartNotice k => exact execLinkRestartNotice_inv k s inv
  | uetCompletion k ctr v line => exact execUetCompletion_inv k ctr v line s inv
  | accessReachesTarget t j => exact execAccessReachesTarget_inv t j s inv
  | completionTimeout t j => exact execCompletionTimeout_inv t j s inv
  | unassignedTimedWord x => exact execUnassignedTimedWord_inv x s inv
  | unassignedGigWord x => exact execUnassignedGigWord_inv x s inv

theorem Act.run_inv {a : Act} (h : actInv a) {junk : BitVec 32 → State → Host.Outcome State Fault Refusal}
    (hj : ∀ w t, t.Inv → outInv (junk w t)) : outInv (a.run junk) := by
  cases a with
  | state s => exact out_next h
  | word i s => exact exec_inv i s h
  | junk w s => exact hj w s h

theorem State.turn_inv (s : State) (t : Turn) (inv : s.Inv) : outInv (s.turn t) := by
  unfold State.turn
  split
  · cases t with
    | die d => exact Act.run_inv (State.dieTurn_inv s d inv) execUnassignedTimedWord_inv
    | gig t n => exact Act.run_inv (State.gigTurn_inv s t n inv) execUnassignedGigWord_inv
    | event i =>
      dsimp only
      split
      · exact exec_inv i s inv
      · exact out_fault _
    | strike u a => exact out_next (State.strike_inv s u a inv)
    | hostFails p a on => exact out_next (State.hostFails_inv s p a on inv)
    | takeOff k => exact out_next (State.takeOff_inv s k inv)
    | bootChannels n => exact out_next (State.bootChannels_inv s n inv)
    | hardwareReplaced => exact out_next (State.clearHealth_inv s inv)
    | hostRead m page => exact out_next (State.hostRead_inv s m page inv)
    | bindPort p k => exact out_next (State.bindPort_inv s p k inv)
    | portRead p a n => exact out_next (State.portRead_inv s p a n inv)
    | portWrite p a bs => exact out_next (State.portWrite_inv s p a bs inv)
  · exact out_next inv

theorem step_inv (s : State) (inv : s.Inv) : outInv (step s) :=
  State.turn_inv _ _ (State.takeTurn_inv s inv)

/-- Settles O59: a step is a turn, and every turn is one of the shared operations or an instruction. -/
theorem everyStepKeepsTheInvariant : Obligations.EveryStepKeepsTheInvariant := fun s t inv => step_inv s inv t

/-- Settles O58. -/
theorem invariantAtReset : Obligations.InvariantAtReset := reset_inv

end Sys2Proof.Machine
end

section
/-! The scalar words of C and the address words of L and S (04 R104 to R112, R134, R135; 05 R147). -/
namespace Sys2Proof.Machine

/-- A timely word that reads `srcs` and leaves one scalar result in flight. -/
theorem State.toS_timely (s : State) (i : Instr) (srcs : List RegRef) (d lat : Nat) (v : Word)
    (hw : i.wellFormed = true) (ht : s.timely srcs = true) :
    s.toS i srcs d lat v =
      s.setPipe s.curPipe ((s.me.produce .c s.atk lat (.sreg d v) 0).afterWord .c (s.atk + 1) false) :=
  State.timedPipe_legal _ _ _ _ _ hw ht

theorem minS_eq (a b : Word) : minS a b = if a.toInt < b.toInt then a else b := by
  simp [minS, BitVec.slt]

theorem maxS_eq (a b : Word) : maxS a b = if a.toInt < b.toInt then b else a := by
  simp [maxS, BitVec.slt]

theorem minU_eq (a b : Word) : minU a b = if a.toNat < b.toNat then a else b := by
  simp [minU, BitVec.ult]

theorem maxU_eq (a b : Word) : maxU a b = if a.toNat < b.toNat then b else a := by
  simp [maxU, BitVec.ult]

theorem State.toP_timely (s : State) (i : Instr) (srcs : List RegRef) (d : BitVec 3) (v : Bool)
    (hw : i.wellFormed = true) (ht : s.timely srcs = true) :
    s.toP i srcs [] d v =
      s.setPipe s.curPipe ((s.me.produce .c s.atk 1 (.preg d.toNat v) 0).afterWord .c (s.atk + 1) false) :=
  State.timedPipe_legal _ _ _ _ _ hw ht

theorem exec_csrr (s : State) (w : BitVec 3) (d : BitVec 5) (c : BitVec 12)
    (hw : (Instr.csrr w d c).wellFormed = true) :
    exec (.csrr w d c) s = .next (s.setPipe s.curPipe ((s.me.produce .c s.atk 2
      (.sreg d.toNat (csrValue (s.die (dieOfPipe s.curPipe)) s.me c.toNat)) 0).afterWord .c (s.atk + 1) false)) := by
  change execCsrr w d c s = _
  rw [execCsrr, State.timedPipe_legal _ _ _ _ _ hw s.timely_nil]

theorem exec_tick (s : State) (w : BitVec 3) (d : BitVec 5) :
    exec (.tick w d) s = .next (s.setPipe s.curPipe ((s.me.produce .c s.atk 2
      (.sreg d.toNat (s.die (dieOfPipe s.curPipe)).tick) 0).afterWord .c (s.atk + 1) false)) := by
  change execTick w d s = _
  rw [execTick, State.timedPipe_legal _ _ _ _ _ rfl s.timely_nil]

theorem scalarWordsComplete : Claims.ScalarWordsComplete := by
  intro s i srcs lat r hr hw ht
  unfold Claims.cResult at hr
  dsimp only at hr
  split at hr
  case h_25 | h_26 =>
    cases hr
    exact congrArg Host.Outcome.next (State.toP_timely _ _ _ _ _ hw ht)
  case h_28 => cases hr; exact exec_csrr _ _ _ _ hw
  case h_29 => cases hr; exact exec_tick _ _ _
  case h_30 => cases hr
  case h_12 | h_13 | h_14 | h_15 =>
    cases hr
    simp only [← minS_eq, ← maxS_eq, ← minU_eq, ← maxU_eq]
    exact congrArg Host.Outcome.next (State.toS_timely _ _ _ _ _ _ hw ht)
  all_goals
    cases hr
    exact congrArg Host.Outcome.next (State.toS_timely _ _ _ _ _ _ hw ht)

theorem State.toA_timely (s : State) (i : Instr) (srcs : List RegRef) (d : BitVec 4) (v : Word)
    (hw : i.wellFormed = true) (ht : s.timely srcs = true) :
    s.toA i srcs d v =
      s.setPipe s.curPipe ((s.me.produce .l s.atk 1 (.areg d.toNat v) 0).afterWord .l (s.atk + 1) false) :=
  State.timedPipe_legal _ _ _ _ _ hw ht

theorem State.toB_timely (s : State) (i : Instr) (srcs : List RegRef) (d : BitVec 4) (v : Word)
    (hw : i.wellFormed = true) (ht : s.timely srcs = true) :
    s.toB i srcs d v =
      s.setPipe s.curPipe ((s.me.produce .s s.atk 1 (.breg d.toNat v) 0).afterWord .s (s.atk + 1) false) :=
  State.timedPipe_legal _ _ _ _ _ hw ht

theorem addressWordsComplete : Claims.AddressWordsComplete := by
  intro s i k srcs r hr ht
  unfold Claims.addressResult at hr
  split at hr
  case h_1 | h_2 | h_3 =>
    cases hr
    exact congrArg Host.Outcome.next (State.toA_timely _ _ _ _ _ rfl ht)
  case h_4 | h_5 | h_6 =>
    cases hr
    exact congrArg Host.Outcome.next (State.toB_timely _ _ _ _ _ rfl ht)
  case h_7 => cases hr

/-- Settles O5: each of these words is a timely word that produces its result. -/
theorem scalarAndAddressWordsComplete : Obligations.ScalarAndAddressWordsComplete :=
  ⟨scalarWordsComplete, addressWordsComplete⟩

/-! ### LDS and STS -/

/-- An aligned offset in tensor SRAM whose bytes lie in no reserved bank is one that LDS and STS may use. -/
theorem State.ldsFails_eq_nil (s : State) {o : Nat} (ha : o % 8 = 0) (ho : o < 0x600000)
    (hb : s.bankSlips s.curPipe 0 s.me.c.pc o 8 = []) : s.ldsFails o = [] := by
  simp [State.ldsFails, ha, hb, tensorSize, Nat.not_le.2 ho]

/-- A timely, legal word that fails none of its own conditions. -/
theorem State.timedPipe_ok (s : State) (i : Instr) (k : StreamKind) (srcs : List RegRef) (chk : List Det)
    (eff : Tick → Pipe → Pipe) (hw : i.wellFormed = true) (hc : chk = []) (ht : s.timely srcs = true) :
    s.timedPipe i k srcs chk eff = s.setPipe s.curPipe ((eff s.atk s.me).afterWord k (s.atk + 1) false) := by
  rw [hc, State.timedPipe_legal s i k srcs eff hw ht]

/-- Settles O6. -/
theorem scalarMemoryCompletes : Obligations.ScalarMemoryCompletes := by
  intro s w d a k o ho ha hlt hb
  have hf := s.ldsFails_eq_nil ha hlt hb
  have hl : ldsAddr (s.me.sreg a.toNat) k = o := ho.symm
  refine ⟨fun he ht => ?_, fun ht => ?_⟩
  · change execLds w d a k s = _
    rw [execLds, hl, State.timedPipe_ok _ _ _ _ _ _ rfl (by simp [hf, he]) ht]
    rfl
  · change execSts w d a k s = _
    rw [execSts, hl, State.timedPipe_ok _ _ _ _ _ _ rfl hf ht]

end Sys2Proof.Machine
end

section
/-! Branches, calls, returns and loops of the timed streams (03 R72, R76; 04 R114 to R118; 07 R221 to R223), and tokens and
scalar queues (01 R22 to R24; 04 R120 to R122; 05 R147, R148; 07 R224). -/
namespace Sys2Proof.Machine

/-! ### Branches -/

/-- A timely branch word whose target, where it is taken, is legal. -/
theorem State.branchWord_timely (s : State) (i : Instr) (k : StreamKind) (srcs : List RegRef) (taken : Bool)
    (off : BitVec 19) (eff : Pipe → Pipe) (hw : i.wellFormed = true) (ht : s.timely srcs = true)
    (hb : taken = true → (s.me.seq k).badTarget (branchTarget (s.me.seq k).pc off) = false) :
    s.branchWord i k srcs [] taken off eff = s.setPipe s.curPipe
      (if taken then (eff s.me).jump k s.atk (branchTarget (s.me.seq k).pc off).toNat
        else (eff s.me).afterWord k (s.atk + 1) false) := by
  have hs := s.scores_timely k srcs ht
  have hp := s.parityIn_timely srcs ht
  have hd := s.parityDets_timely k srcs ht
  simp only [State.me] at hs hp hd hb ⊢
  have hill : (taken && ((s.pipe s.curPipe).seq k).badTarget (branchTarget ((s.pipe s.curPipe).seq k).pc off)) = false := by
    cases taken with
    | false => rfl
    | true => exact hb rfl
  simp [State.branchWord, hw, hs, hp, hd, hill]

/-- A bq with room takes the outcome, poppable from the next cycle. -/
theorem Pipe.pushBq_room (p : Pipe) (now : Tick) (b : Bool) (h : p.q.bq.length < 16) :
    p.pushBq now b = { p with q := { p.q with bq := p.q.bq ++ [{ ready := now + 1, val := b, issue := now }] } } := by
  rw [Pipe.pushBq, if_neg (Nat.not_le.2 h)]
  rfl

theorem exec_call (s : State) (w : BitVec 3) (off : BitVec 19) (hlo : 0 ≤ branchTarget s.me.c.pc off)
    (hhi : branchTarget s.me.c.pc off ≤ 16383) (hr : s.me.c.rets.length < 8) :
    exec (.call w off) s = .next (s.setPipe s.curPipe
      (({ s.me with c := { s.me.c with rets := (s.me.c.pc + 1) :: s.me.c.rets } } : Pipe).jump .c s.atk
        (branchTarget s.me.c.pc off).toNat)) := by
  change execCall w off s = _
  rw [execCall, if_neg (by omega)]

theorem exec_ret (s : State) (w : BitVec 3) (t : Nat) (rest : List Nat) (h : s.me.c.rets = t :: rest) (ht : t ≤ 16383) :
    exec (.ret w) s = .next (s.setPipe s.curPipe
      (({ s.me with c := { s.me.c with rets := rest } } : Pipe).jump .c s.atk t)) := by
  change execRet w s = _
  simp [execRet, h, Nat.not_lt.2 ht]

theorem branchesComplete : Claims.BranchesComplete := by
  intro s w p n off
  refine ⟨fun eff i taken htk ht hb hi => ?_, exec_call s w off, exec_ret s w⟩
  subst htk
  obtain ⟨rfl, rfl⟩ | ⟨rfl, hroom, rfl⟩ := hi
  · change execBr w p n off s = _
    rw [execBr, State.branchWord_timely _ _ .c _ _ _ _ rfl ht hb]
    rfl
  · change execBrp w p n off s = _
    rw [execBrp, decide_eq_false (Nat.not_le.2 hroom), State.fails_false, State.branchWord_timely _ _ .c _ _ _ _ rfl ht hb,
      Pipe.pushBq_room _ _ _ hroom]
    rfl

/-! ### Loops -/

/-- A timely, legal loop word enters its body. -/
theorem State.loopWord_timely (s : State) (i : Instr) (k : StreamKind) (srcs : List RegRef) (len most trips : Nat)
    (eff : Pipe → Pipe) (hw : i.wellFormed = true) (ht : s.timely srcs = true) (hb : (s.me.seq k).badLoop len = false) :
    s.loopWord i k srcs [] len most trips eff = s.setPipe s.curPipe
      ((eff s.me).setSeq k (((eff s.me).seq k).enter s.atk (Nat.min trips most) len most)) := by
  simp [State.loopWord, hw, hb, s.scores_timely k srcs ht, s.parityIn_timely srcs ht, s.parityDets_timely k srcs ht]

theorem Seq.enter_pc (q : Seq) (now : Tick) (trips len most : Nat) :
    (q.enter now trips len most).pc = if trips = 0 then q.pc + len + 1 else q.pc + 1 := by
  cases trips <;> rfl

theorem Seq.enter_next (q : Seq) (now : Tick) (trips len most : Nat) : (q.enter now trips len most).next =
    if trips = 0 then now + 1 + BitVec.ofNat 64 (most * q.span) else now + 1 := by
  cases trips <;> rfl

theorem Seq.enter_loops (q : Seq) (now : Tick) (trips len most : Nat) : (q.enter now trips len most).loops =
    { count := trips, left := trips - 1, start := q.pc + 1, last := q.pc + len, span := q.span, t := now + 1,
      stop := now + 1 + BitVec.ofNat 64 (most * q.span), fixed := decide (trips = 0),
      ended := decide (trips = 0) } :: q.loops := by
  cases trips <;> rfl

theorem Seq.after_span (q : Seq) (nf : Tick) (b : Bool) : (q.after nf b).span = q.span := by
  unfold Seq.after Seq.endIter
  split
  · split
    · split <;> rfl
    · rfl
  · rfl

theorem Seq.after_fresh (q : Seq) (nf : Tick) (b : Bool) : (q.after nf b).fresh = b := by
  unfold Seq.after
  split
  · split <;> rfl
  · rfl

theorem Pipe.seq_setSeq (p : Pipe) (k : StreamKind) (q : Seq) (hk : k ≠ .gig) : (p.setSeq k q).seq k = q := by
  cases k with
  | gig => exact absurd rfl hk
  | c | l | x | s => rfl

/-- A word that does not branch moves its sequencer on, and adds at most an overrun's detection to what is in flight. -/
theorem Pipe.afterWord_eq (p : Pipe) (k : StreamKind) (nf : Tick) (b : Bool) : ∃ l, p.afterWord k nf b =
    { p.setSeq k ((p.seq k).after nf b) with fly := { p.fly with late := l } } := by
  unfold Pipe.afterWord
  cases k
  all_goals
    dsimp only [Pipe.setSeq]
    split
    · split <;> exact ⟨_, rfl⟩
    · exact ⟨_, rfl⟩

/-- The sequencer of the stream whose word has issued. -/
theorem Pipe.seq_afterWord (p : Pipe) (k : StreamKind) (nf : Tick) (b : Bool) (hk : k ≠ .gig) :
    (p.afterWord k nf b).seq k = (p.seq k).after nf b := by
  obtain ⟨l, h⟩ := p.afterWord_eq k nf b
  rw [h]
  exact (by cases k <;> rfl : _ = (p.setSeq k ((p.seq k).after nf b)).seq k).trans (Pipe.seq_setSeq _ _ _ hk)

/-- A span word has its stream's span set, and is remembered as the last word. -/
theorem exec_lspan (s : State) (w : BitVec 3) (n : BitVec 23) (hw : (Instr.lspan w n).wellFormed = true) :
    exec (.lspan w n) s = .next (s.setPipe s.curPipe
      (({ s.me with c := { s.me.c with span := n.toNat } } : Pipe).afterWord .c (s.atk + 1) true)) := by
  change execLspan w n s = _
  rw [execLspan, State.timedTo_legal _ _ _ _ _ _ _ _ hw s.timely_nil]
  simp [State.onPipe]

theorem exec_xlspan (s : State) (w : BitVec 3) (n : BitVec 23) (hw : (Instr.xlspan w n).wellFormed = true) :
    exec (.xlspan w n) s = .next (s.setPipe s.curPipe
      (({ s.me with x := { s.me.x with span := n.toNat } } : Pipe).afterWord .x (s.atk + 1) true)) := by
  change execXlspan w n s = _
  rw [execXlspan, State.timedTo_legal _ _ _ _ _ _ _ _ hw s.timely_nil]
  simp [State.onPipe]

theorem exec_loop (s : State) (w : BitVec 3) (a : BitVec 5) (l m : BitVec 9) (hw : (Instr.loop w a l m).wellFormed = true)
    (hb : s.me.c.badLoop l.toNat = false) (ht : s.timely [.s a.toNat] = true) :
    exec (.loop w a l m) s = .next (s.setPipe s.curPipe
      { s.me with c := s.me.c.enter s.atk (Nat.min (s.me.sreg a.toNat).toNat m.toNat) l.toNat m.toNat }) := by
  change execLoop w a l m s = _
  rw [execLoop, State.loopWord_timely _ _ .c _ _ _ _ _ hw ht hb]
  rfl

theorem loopWordsComplete : Claims.LoopWordsComplete := by
  intro s w n a l m
  refine ⟨fun hw => ⟨_, exec_lspan s w n hw, ?_⟩, fun hw => ⟨_, exec_xlspan s w n hw, ?_⟩,
    fun k stop hw hb ht hk hstop => ⟨_, exec_loop s w a l m hw hb ht, ?_⟩⟩
  · rw [State.me_setPipe_curPipe]
    have hseq := Pipe.seq_afterWord { s.me with c := { s.me.c with span := n.toNat } } .c (s.atk + 1) true nofun
    exact ⟨(congrArg Seq.span hseq).trans (Seq.after_span ..), (congrArg Seq.fresh hseq).trans (Seq.after_fresh ..),
      Pipe.afterWord_regs .., congrArg Cycle.dets (Pipe.afterWord_cyc ..)⟩
  · rw [State.me_setPipe_curPipe]
    have hseq := Pipe.seq_afterWord { s.me with x := { s.me.x with span := n.toNat } } .x (s.atk + 1) true nofun
    exact ⟨(congrArg Seq.span hseq).trans (Seq.after_span ..), (congrArg Seq.fresh hseq).trans (Seq.after_fresh ..),
      Pipe.afterWord_regs .., congrArg Cycle.dets (Pipe.afterWord_cyc ..)⟩
  · subst hk hstop
    rw [State.me_setPipe_curPipe]
    exact ⟨rfl, rfl, Seq.enter_pc .., Seq.enter_next .., Seq.enter_loops ..⟩

/-- Settles O7. -/
theorem controlFlowCompletes : Obligations.ControlFlowCompletes := ⟨branchesComplete, loopWordsComplete⟩

/-! ### Tokens -/

/-- A word with no operands that fails one condition, which stops its effect. -/
theorem State.timedPipe_fails (s : State) (i : Instr) (k : StreamKind) (srcs : List RegRef) (e : Det)
    (eff : Tick → Pipe → Pipe) (hw : i.wellFormed = true) (ht : s.timely srcs = true) (hc : e.cause ≠ causeScore) :
    s.timedPipe i k srcs [e] eff = s.setPipe s.curPipe ((s.me.detect [e]).afterWord k (s.atk + 1) false) := by
  have hs := s.scores_timely k srcs ht
  have hp := s.parityDets_timely k srcs ht
  simp only [State.me] at hs hp
  simp [State.timedPipe, State.timed, State.timedTo, hw, hs, hp, Det.acts, hc, State.onPipe, State.me, State.atk]

/-- A word that meets one condition, or does not. -/
theorem State.timedPipe_fails_ite (s : State) (i : Instr) (k : StreamKind) (srcs : List RegRef) (c : Bool) (cause d n : Nat)
    (eff : Tick → Pipe → Pipe) (hw : i.wellFormed = true) (ht : s.timely srcs = true) (hc : cause ≠ causeScore) :
    s.timedPipe i k srcs (s.fails c k cause d n) eff = s.setPipe s.curPipe
      (if c then (s.me.detect [s.me.wordDet k cause d n]).afterWord k (s.atk + 1) false
        else (eff s.atk s.me).afterWord k (s.atk + 1) false) := by
  cases c with
  | false => exact State.timedPipe_legal _ _ _ _ _ hw ht
  | true => exact State.timedPipe_fails _ _ _ _ _ _ hw ht hc

theorem State.give_eq (s : State) (i : Instr) (k : StreamKind) (q : BitVec 4) (c : BitVec 6) (hw : i.wellFormed = true) :
    s.give i k q c = s.setPipe s.curPipe
      (if decide (63 < s.me.tokens q.toNat + c.toNat) then (s.me.detect [s.me.wordDet k causeToken q.toNat 0]).afterWord k (s.atk + 1) false
        else (s.me.giveTokens q.toNat c.toNat).afterWord k (s.atk + 1) false) :=
  State.timedPipe_fails_ite _ _ _ _ _ _ _ _ _ hw s.timely_nil (by decide)

theorem State.take_eq (s : State) (i : Instr) (k : StreamKind) (q : BitVec 4) (c : BitVec 6) (hw : i.wellFormed = true) :
    s.take i k q c = s.setPipe s.curPipe
      (if decide (s.me.tokens q.toNat < c.toNat) then (s.me.detect [s.me.wordDet k causeToken q.toNat 0]).afterWord k (s.atk + 1) false
        else (s.me.giveTokens q.toNat (-(c.toNat : Int))).afterWord k (s.atk + 1) false) :=
  State.timedPipe_fails_ite _ _ _ _ _ _ _ _ _ hw s.timely_nil (by decide)

theorem tokenWords : Claims.TokenWords := by
  intro s i k give q c hi hw
  unfold Claims.tokenWord at hi
  split at hi
  case h_1 | h_2 | h_3 | h_4 =>
    cases hi
    exact congrArg Host.Outcome.next (State.give_eq _ _ _ _ _ hw)
  case h_5 | h_6 | h_7 | h_8 =>
    cases hi
    exact congrArg Host.Outcome.next (State.take_eq _ _ _ _ _ hw)
  case h_9 => cases hi

/-! ### Scalar queues -/

/-- A sound head that can be popped meets no condition. -/
theorem State.popSlips_sound {α : Type} (s : State) (k : StreamKind) (q : List (QEntry α)) (n : Nat) {v : α}
    (hv : qHead q s.atk = some v) (hb : qBad q s.atk = false) : s.popSlips k q n = [] := by
  simp [State.popSlips, hv, hb]

theorem State.sqr_sound (s : State) (i : Instr) (k : StreamKind) (t : Nat) (r : Word → Result) {v : Word}
    (hw : i.wellFormed = true) (hv : qHead (s.me.squeue t) s.atk = some v) (hb : qBad (s.me.squeue t) s.atk = false) :
    s.sqr i k t r = s.setPipe s.curPipe
      (((s.me.setSq t (s.me.squeue t).tail).produce k s.atk 1 (r v) 0).afterWord k (s.atk + 1) false) := by
  rw [State.sqr, State.timedPipe_ok _ _ _ _ _ _ hw (s.popSlips_sound k _ _ hv hb) s.timely_nil]
  simp [hv]

theorem scalarQueues : Claims.ScalarQueues := by
  intro s w p t a n d v
  refine ⟨fun hw ht => ?_, fun ht => ?_, fun hv hb => ?_, fun hv hb => ?_⟩
  · change execSqw w t a s = _
    rw [execSqw, State.timedPipe_fails_ite _ _ _ _ _ _ _ _ _ hw ht (by decide)]
    simp only [decide_eq_true_eq]
    rfl
  · change execBqw w p n s = _
    rw [execBqw, State.timedPipe_fails_ite _ _ _ _ _ _ _ _ _ rfl ht (by decide)]
    simp only [decide_eq_true_eq]
    congr 2
    split
    · rfl
    next h => rw [Pipe.pushBq_room _ _ _ (Nat.not_le.1 h)]
  · exact congrArg Host.Outcome.next (State.sqr_sound s _ .l 0 _ rfl hv hb)
  · exact congrArg Host.Outcome.next (State.sqr_sound s _ .s 2 _ rfl hv hb)

/-- Settles O8. -/
theorem tokensAndQueuesComplete : Obligations.TokensAndQueuesComplete := ⟨tokenWords, scalarQueues⟩

end Sys2Proof.Machine
end

section
/-! System words, stages, layovers and nests of C (04 R123 to R138; 06 R173 to R177; 09 R274; 10 R293; 19 R428, R429). -/
namespace Sys2Proof.Machine

/-! ### CSRW, MARK and HALT -/

theorem Seq.after_run (q : Seq) (nf : Tick) (b : Bool) : (q.after nf b).run = q.run := by
  unfold Seq.after Seq.endIter
  split
  · split
    · split <;> rfl
    · rfl
  · rfl

/-- A word of one timed stream leaves the sequencers of the others. -/
theorem Pipe.seq_afterWord_other (p : Pipe) (k j : StreamKind) (nf : Tick) (b : Bool) (hk : k ≠ .gig) (hj : j ≠ .gig)
    (h : j ≠ k) : (p.afterWord k nf b).seq j = p.seq j := by
  obtain ⟨l, h'⟩ := p.afterWord_eq k nf b
  rw [h']
  cases k <;> cases j <;> first | rfl | contradiction

@[simp] theorem Pipe.afterWord_fly_res (p : Pipe) (k : StreamKind) (nf : Tick) (b : Bool) :
    (p.afterWord k nf b).fly.res = p.fly.res := by
  obtain ⟨l, h⟩ := p.afterWord_eq k nf b
  rw [h]

@[simp] theorem Pipe.afterWord_fly_writes (p : Pipe) (k : StreamKind) (nf : Tick) (b : Bool) :
    (p.afterWord k nf b).fly.writes = p.fly.writes := by
  obtain ⟨l, h⟩ := p.afterWord_eq k nf b
  rw [h]

@[simp] theorem Pipe.afterWord_fly_hbm (p : Pipe) (k : StreamKind) (nf : Tick) (b : Bool) :
    (p.afterWord k nf b).fly.hbm = p.fly.hbm := by
  obtain ⟨l, h⟩ := p.afterWord_eq k nf b
  rw [h]

@[simp] theorem Pipe.afterWord_fly_gath (p : Pipe) (k : StreamKind) (nf : Tick) (b : Bool) :
    (p.afterWord k nf b).fly.gath = p.fly.gath := by
  obtain ⟨l, h⟩ := p.afterWord_eq k nf b
  rw [h]

@[simp] theorem Pipe.afterWord_fly_rmwHold (p : Pipe) (k : StreamKind) (nf : Tick) (b : Bool) :
    (p.afterWord k nf b).fly.rmwHold = p.fly.rmwHold := by
  obtain ⟨l, h⟩ := p.afterWord_eq k nf b
  rw [h]

theorem exec_mark (s : State) (w : BitVec 3) (n : BitVec 23) :
    exec (.mark w n) s = .next (s.setPipe s.curPipe (({ s.me with book :=
      (if n.getLsbD 22 then (s.me.book.add s.atk 1 s.me.c.pc n.toNat).trigger
        else s.me.book.add s.atk 1 s.me.c.pc n.toNat) } : Pipe).afterWord .c (s.atk + 1) false)) := by
  change execMark w n s = _
  rw [execMark, State.timedPipe_legal _ _ _ _ _ rfl s.timely_nil]
  cases n.getLsbD 22 <;> rfl

/-- HALT's pipeline: halted, with every stream stopped. -/
def Pipe.haltStreams (p : Pipe) : Pipe :=
  { p with halted := true, c := { p.c with run := false }, l := { p.l with run := false }
           x := { p.x with run := false }, s := { p.s with run := false } }

theorem exec_halt (s : State) (w : BitVec 3) :
    exec (.halt w) s = .next (s.setPipe s.curPipe (s.me.haltStreams.afterWord .c (s.atk + 1) false)) :=
  congrArg Host.Outcome.next (State.timedPipe_legal s _ .c [] (fun _ p => p.haltStreams) rfl s.timely_nil)

theorem systemEffects : Claims.SystemEffects := by
  intro s w r c n
  refine ⟨fun hw ht => ?_, exec_mark s w n, _, exec_halt s w, ?_⟩
  · change execCsrw w r c s = _
    rw [execCsrw, State.timedPipe_legal _ _ _ _ _ hw ht]
  · rw [State.me_setPipe_curPipe]
    have hc := Pipe.seq_afterWord s.me.haltStreams .c (s.atk + 1) false nofun
    have ho : ∀ j, j ≠ .c → j ≠ .gig → (s.me.haltStreams.afterWord .c (s.atk + 1) false).seq j = s.me.haltStreams.seq j :=
      fun j hj hg => Pipe.seq_afterWord_other _ _ _ _ _ nofun hg hj
    exact ⟨Pipe.afterWord_halted .., (congrArg Seq.run hc).trans (Seq.after_run ..),
      congrArg Seq.run (ho .l nofun nofun), congrArg Seq.run (ho .x nofun nofun), congrArg Seq.run (ho .s nofun nofun),
      Pipe.afterWord_regs .., Pipe.afterWord_mem .., Pipe.afterWord_fly_res ..⟩

/-! ### TRAPC and FREEZE -/

/-- A word that is detected always, and does nothing else. -/
theorem State.timed_fails (s : State) (i : Instr) (k : StreamKind) (cause d n : Nat) (eff : State → State)
    (hw : i.wellFormed = true) (hc : cause ≠ causeScore) :
    s.timed i k [] (s.fails true k cause d n) eff =
      s.setPipe s.curPipe ((s.me.detect [s.me.wordDet k cause d n]).afterWord k (s.atk + 1) false) := by
  have hs := s.scores_timely k [] s.timely_nil
  simp only [State.me] at hs
  simp [State.timed, State.timedTo, hw, hs, Det.acts, Pipe.wordDet, hc, State.onPipe, State.me, State.atk]

theorem trapWordsDetected : Claims.TrapWordsDetected := by
  intro s w c
  constructor
  · change execTrapc w c s = _
    rw [execTrapc, State.timed_fails _ _ _ _ _ _ _ rfl (by decide), Pipe.wordDet]
    simp [StreamKind.num, Pipe.seq, causeTrapc]
  · change execFreeze w s = _
    rw [execFreeze, State.timed_fails _ _ _ _ _ _ _ rfl (by decide)]
    rfl

/-- Settles O10. -/
theorem systemWordsComplete : Obligations.SystemWordsComplete := ⟨systemEffects, trapWordsDetected⟩

end Sys2Proof.Machine
end

section
/-! Alignments, stages, layovers and posts (04 R123 to R131; 09 R274; 10 R293). -/
namespace Sys2Proof.Machine

/-! ### Reading a state after a word that acts beyond its pipeline -/

@[simp] theorem State.die_onPipe (s : State) (g d : Nat) (f : Pipe → Pipe) : (s.onPipe g f).die d = s.die d := rfl
@[simp] theorem State.die_setPipe (s : State) (g d : Nat) (p : Pipe) : (s.setPipe g p).die d = s.die d := rfl
@[simp] theorem State.die_onDie (s : State) (d e : Nat) (f : Die → Die) :
    (s.onDie d f).die e = if e = d then f (s.die d) else s.die e := SMap.get_set ..

theorem State.me_setPipe_of_curPipe (s : State) (g : Nat) (p : Pipe) (h : s.curPipe = g) : (s.setPipe g p).me = p := by
  subst h
  exact s.me_setPipe_curPipe p

/-- A legal, timely word that meets no condition and leaves the pipelines alone: its effect, then its stream's next word. -/
theorem State.timed_beyond (s : State) (i : Instr) (k : StreamKind) (srcs : List RegRef) (chk : List Det)
    (eff : State → State) (hw : i.wellFormed = true) (hc : chk = []) (ht : s.timely srcs = true)
    (he : eff (s.setPipe s.curPipe s.me) = (eff s).setPipe s.curPipe s.me) :
    s.timed i k srcs chk eff = (eff s).setPipe s.curPipe (s.me.afterWord k (s.atk + 1) false) := by
  rw [hc, State.timed, State.timedTo_legal _ _ _ _ _ _ _ _ hw ht, he]
  simp [State.onPipe, State.atk]

/-- What such a word leaves of its own pipeline. -/
theorem State.me_timed_beyond (s t : State) (k : StreamKind) (h : t.curPipe = s.curPipe) :
    (t.setPipe s.curPipe (s.me.afterWord k (s.atk + 1) false)).me.regs = s.me.regs ∧
      (t.setPipe s.curPipe (s.me.afterWord k (s.atk + 1) false)).me.cyc.dets = s.me.cyc.dets := by
  simp [State.me_setPipe_of_curPipe t _ _ h]

/-! ### ALIGN and STAGE -/

theorem exec_align (s : State) (w : BitVec 3) (n : BitVec 23) (hw : (Instr.align w n).wellFormed = true) :
    exec (.align w n) s = .next ((s.onDie (dieOfPipe s.curPipe) (fun x =>
      { x with aligns := x.aligns ++ [{ limit := n.toNat, held := 0, pipe := s.curPipe, pc := s.me.c.pc }] })).setPipe
        s.curPipe (s.me.afterWord .c (s.atk + 1) false)) := by
  change execAlign w n s = _
  rw [execAlign, State.timed_beyond _ _ _ _ _ _ hw rfl s.timely_nil rfl]

/-- The count of stages plays no part in the step to the next word. -/
theorem Pipe.afterWord_setStages (p : Pipe) (k : StreamKind) (nf : Tick) (b : Bool) (n : Nat) :
    ({ p with stages := n } : Pipe).afterWord k nf b = { p.afterWord k nf b with stages := n } := by
  unfold Pipe.afterWord
  cases k
  all_goals
    dsimp only [Pipe.setSeq, Pipe.seq]
    split
    · split <;> rfl
    · rfl

theorem Pipe.afterWord_countStage (p : Pipe) (k : StreamKind) (nf : Tick) (b : Bool) :
    ({ p.afterWord k nf b with stages := (p.afterWord k nf b).stages + 1 } : Pipe) =
      ({ p with stages := p.stages + 1 } : Pipe).afterWord k nf b := by
  rw [Pipe.afterWord_setStages p k nf b (p.stages + 1), Pipe.afterWord_stages]

/-- A STAGE names an occurrence of its τ, and issues in its turn (09 R274). -/
def TimedRun.stageOk (run : TimedRun) (now : Tick) (done n : Nat) : Bool :=
  match stageAt run.stages (run.tau now) with
  | none => false
  | some e => decide (e.n = n) && decide (stagesBefore run.stages (run.tau now) = done)

theorem exec_stage (s : State) (w : BitVec 3) (n : BitVec 23) :
    exec (.stage w n) s = .next (s.setPipe s.curPipe
      (if (s.part s.curPart).run.stageOk s.atk s.me.stages n.toNat then
        { s.me with book := s.me.book.add s.atk 0 s.me.c.pc n.toNat, stages := s.me.stages + 1
                    cyc := { s.me.cyc with stage := true } }.afterWord .c (s.atk + 1) false
      else { s.me.detect [s.me.wordDet .c causeIllOp 0 n.toNat] with stages := s.me.stages + 1 }.afterWord .c
        (s.atk + 1) false)) := by
  change execStage w n s = _
  rw [execStage]
  dsimp only
  rw [State.timedPipe_fails_ite _ _ _ _ _ _ _ _ _ rfl s.timely_nil (by decide)]
  change Host.Outcome.next ((s.setPipe s.curPipe
    (if (!(s.part s.curPart).run.stageOk s.atk s.me.stages n.toNat) = true then _ else _)).onPipe _ _) = _
  cases (s.part s.curPart).run.stageOk s.atk s.me.stages n.toNat
  · simp only [Bool.not_false, if_true, State.onPipe, State.pipe_setPipe, State.setPipe_setPipe, Bool.false_eq_true, if_false]
    exact congrArg (fun p => Host.Outcome.next (s.setPipe s.curPipe p)) (Pipe.afterWord_countStage ..)
  · simp only [Bool.not_true, if_true, State.onPipe, State.pipe_setPipe, State.setPipe_setPipe, Bool.false_eq_true, if_false]
    exact congrArg (fun p => Host.Outcome.next (s.setPipe s.curPipe p)) (Pipe.afterWord_countStage ..)

theorem alignAndStageComplete : Claims.AlignAndStageComplete := by
  intro s w n e run
  refine ⟨fun hw => ⟨_, exec_align s w n hw, ?_, State.me_timed_beyond _ _ _ rfl⟩, ?_, ?_⟩
  · simp
  · rintro rfl ha hn hb -
    rw [exec_stage, if_pos (by simp [TimedRun.stageOk, ha, hn, hb])]
  · rintro rfl h
    rw [exec_stage, if_neg]
    · simp [Pipe.wordDet, StreamKind.num, Pipe.seq, causeIllOp]
    · unfold TimedRun.stageOk
      split
      next => simp
      next f hf =>
        have := h f hf
        simpa using this

/-! ### Layovers -/

/-- A layover's record is read back as it was set. -/
theorem SMap.find?_set {α : Type} (m : SMap α) (k : Nat) (v : α) :
    (m.set k v).find? (fun e => e.1 == k) = some (k, v) := by
  induction m with
  | nil => simp [SMap.set]
  | cons a t ih =>
    obtain ⟨j, x⟩ := a
    simp only [SMap.set]
    split
    · simp
    · split
      · simp
      next h _ => simpa [List.find?_cons, h] using ih

theorem Die.layRec_setLay (x : Die) (w : Nat) (r : LayRec) : ({ x with lays := x.lays.set w r } : Die).layRec w = some r := by
  simp [Die.layRec, SMap.find?_set]

theorem Die.isOpen_eq (x : Die) (now : Tick) (w : Nat) :
    x.isOpen now w = match x.layRec w with
      | none => false
      | some r => match r.closed with
        | none => true
        | some c => decide (c = now) := by
  unfold Die.isOpen Die.layRec
  cases x.lays.find? (fun e => e.1 == w) <;> rfl

/-- Arming a layover's slots leaves the records of layovers. -/
theorem armSlots_lays (x : Die) (w : Nat) (l : List Nat) : (armSlots x w l).lays = x.lays := by
  unfold armSlots
  induction l generalizing x with
  | nil => rfl
  | cons i t ih =>
    rw [List.foldl_cons, ih]
    dsimp only
    split
    · split <;> rfl
    · rfl

/-- What an opening leaves on its die. -/
theorem State.openLay_layRec (s : State) (d w : Nat) (l : LayDesc) : ((s.openLay d w l).die d).layRec w =
    some { opened := s.now d, past := (s.die d).openings w (s.now d) } := by
  have h : ((s.onDie d (fun x =>
      let x1 := { x with lays := x.lays.set w { opened := s.now d, past := x.openings w (s.now d) } }
      if l.dies.getLsbD d then armSlots x1 w (setBits l.slots) else x1)).die d).layRec w =
        some { opened := s.now d, past := (s.die d).openings w (s.now d) } := by
    rw [State.die_onDie, if_pos rfl]
    dsimp only
    split
    · rw [Die.layRec, armSlots_lays]
      exact Die.layRec_setLay ..
    · exact Die.layRec_setLay ..
  unfold State.openLay
  dsimp only
  split <;> exact h

theorem State.openLay_curPipe (s : State) (d w : Nat) (l : LayDesc) : (s.openLay d w l).curPipe = s.curPipe := by
  unfold State.openLay
  dsimp only
  split <;> rfl

theorem State.openLay_setPipe (s : State) (d w g : Nat) (l : LayDesc) (p : Pipe) :
    (s.setPipe g p).openLay d w l = (s.openLay d w l).setPipe g p := by
  unfold State.openLay
  dsimp only
  split <;> rfl

/-- A layover that may open is not one that another pipeline has opened in this cycle: that one stands open. -/
theorem wopenBad_of_joins {ls : SMap LayDesc} {x : Die} {now : Tick} {w : Nat} {r : LayRec} (hr : x.layRec w = some r)
    (hc : r.closed = none) : wopenBad ls x now w = true := by
  unfold wopenBad
  split
  · rfl
  · simp [Die.isOpen_eq, hr, hc]

theorem exec_wopen (s : State) (w : BitVec 3) (l : BitVec 6) (ld : LayDesc) 
    (hl : layOf (s.lays s.curPart) l.toNat = some ld)
    (hb : wopenBad (s.lays s.curPart) (s.die (dieOfPipe s.curPipe)) (s.die (dieOfPipe s.curPipe)).atk l.toNat = false) :
    exec (.wopen w l) s = .next ((s.openLay (dieOfPipe s.curPipe) l.toNat ld).setPipe s.curPipe
      (s.me.afterWord .c (s.atk + 1) false)) := by
  change execWopen w l s = _
  rw [execWopen]
  cases hr : (s.die (dieOfPipe s.curPipe)).layRec l.toNat with
  | none =>
    simp only [hb, hl, Bool.and_false, State.fails_false, Bool.false_eq_true, if_false]
    rw [State.timed_beyond _ _ _ _ _ _ rfl rfl s.timely_nil (State.openLay_setPipe ..)]
  | some r =>
    cases hc : r.closed with
    | none => rw [wopenBad_of_joins hr hc] at hb; cases hb
    | some c =>
      simp only [hc, hb, hl, Option.isNone_some, Bool.and_false, State.fails_false, Bool.false_eq_true, if_false]
      rw [State.timed_beyond _ _ _ _ _ _ rfl rfl s.timely_nil (State.openLay_setPipe ..)]

theorem exec_wclose (s : State) (w : BitVec 3) (l : BitVec 6) (ld : LayDesc)
    (hl : layOf (s.lays s.curPart) l.toNat = some ld)
    (ho : (s.die (dieOfPipe s.curPipe)).isOpen (s.die (dieOfPipe s.curPipe)).atk l.toNat = true) :
    exec (.wclose w l) s = .next ((s.onDie (dieOfPipe s.curPipe) (fun x =>
      x.closeLay l.toNat (s.curPipe % 32) s.me.c.pc ld)).setPipe s.curPipe (s.me.afterWord .c (s.atk + 1) false)) := by
  change execWclose w l s = _
  rw [execWclose]
  simp only [hl, ho, Bool.not_true, State.fails_false]
  rw [State.timed_beyond _ _ _ _ _ _ rfl rfl s.timely_nil rfl]

/-- What a close leaves of its layover's record. -/
theorem Die.closeLay_layRec (x : Die) (w q pc : Nat) (l : LayDesc) {r : LayRec} (h : x.layRec w = some r) :
    ∃ r' : LayRec, (x.closeLay w q pc l).layRec w = some r' ∧ r'.closed = some x.atk ∧ r'.closeAt = x.axis := by
  unfold Die.closeLay
  rw [h]
  exact ⟨_, Die.layRec_setLay .., rfl, rfl⟩

theorem Die.closeLay_post (x : Die) (w q pc : Nat) (l : LayDesc) : (x.closeLay w q pc l).post = x.post := by
  unfold Die.closeLay
  split <;> rfl

/-! ### Posts -/

theorem exec_postrd (s : State) (w : BitVec 3) (d : BitVec 5) (i : BitVec 6)
    (hs : (s.die (dieOfPipe s.curPipe)).slotClosed (s.lays s.curPart) i.toNat = false)
    (hb : (s.die (dieOfPipe s.curPipe)).badPost.contains i.toNat = false) :
    exec (.postrd w d i) s = .next (s.setPipe s.curPipe ((s.me.produce .c s.atk 2
      (.sreg d.toNat ((s.die (dieOfPipe s.curPipe)).post.get i.toNat {}).value) 0).afterWord .c (s.atk + 1) false)) := by
  change execPostrd w d i s = _
  rw [execPostrd]
  simp only [hs, hb, State.fails_false, List.append_nil]
  rw [State.timedPipe_legal _ _ _ _ _ rfl s.timely_nil]

theorem exec_postv (s : State) (w p : BitVec 3) (i : BitVec 6)
    (hs : (s.die (dieOfPipe s.curPipe)).slotClosed (s.lays s.curPart) i.toNat = false) :
    exec (.postv w p i) s = .next (s.setPipe s.curPipe ((s.me.produce .c s.atk 1
      (.preg p.toNat ((s.die (dieOfPipe s.curPipe)).post.get i.toNat {}).v) 0).afterWord .c (s.atk + 1) false)) := by
  change execPostv w p i s = _
  rw [execPostv]
  simp only [hs, State.fails_false]
  rw [State.toP_timely _ _ _ _ _ rfl s.timely_nil]

theorem layoverWordsComplete : Claims.LayoverWordsComplete := by
  rintro s w p l i d ld x rfl
  refine ⟨fun hl hb => ⟨_, exec_wopen s w l ld hl hb, ?_, State.me_timed_beyond _ _ _ (State.openLay_curPipe ..)⟩,
    fun r hl ho hr => ?_, fun hs => ⟨exec_postrd s w d i hs, exec_postv s w p i hs⟩⟩
  · rw [State.die_setPipe, Die.isOpen_eq, State.openLay_layRec]
  · obtain ⟨r', hr', hc, ha⟩ := Die.closeLay_layRec _ _ (s.curPipe % 32) s.me.c.pc ld hr
    refine ⟨_, r', exec_wclose s w l ld hl ho, ?_, hc, ha, ?_, State.me_timed_beyond _ _ _ rfl⟩
    · simpa using hr'
    · simp [Die.closeLay_post]

/-- Settles O12. -/
theorem stagesAndLayoversComplete : Obligations.StagesAndLayoversComplete := ⟨alignAndStageComplete, layoverWordsComplete⟩

end Sys2Proof.Machine
end

section
/-! The nest words NEST and MGO and the words of L and S on stream registers: SCFG, SADV, BOUT, TLBP, LDQ, GATH, LDCB,
LDCM, HLD and HST (O13 to O17). -/
namespace Sys2Proof.Machine

/-! ### NEST and MGO -/

theorem nestSteps_of_ones {t : SMap (BitVec 32)} (h : ∀ l < 6, nestCount t l ≤ 1) : nestSteps t = 1 := by
  have hone : ∀ l < 6, nestCount t l = 1 := fun l hl => Nat.le_antisymm (h l hl) (Nat.succ_pos _)
  simp [nestSteps, List.range_succ, hone]

/-- A valid nest table names two stream registers that hold a descriptor. -/
theorem nestInvalid_none_descs {p : Pipe} {t : SMap (BitVec 32)} (h : nestInvalid p t = none) :
    ∃ da db, (p.streg (nestAst t)).desc = some da ∧ (p.streg (nestBst t)).desc = some db := by
  unfold nestInvalid at h
  split at h
  · cases h
  · split at h
    · rename_i hsteps
      simp only [Option.map_eq_none_iff, List.find?_eq_none, List.mem_reverse, List.mem_range, decide_eq_true_eq,
        Nat.not_lt] at h
      rw [nestSteps_of_ones h] at hsteps
      omega
    · split at h
      · exact ⟨_, _, ‹_›, ‹_›⟩
      · cases h

theorem State.mgo_ok (s : State) (w : BitVec 3) (da db : Desc) (hgo : s.me.mx.nest.go = false)
    (hv : nestInvalid s.me s.me.mx.nest.shadow = none) (hb : ∀ n ∈ s.me.mx.badNest, 96 ≤ n)
    (hda : (s.me.streg (nestAst s.me.mx.nest.shadow)).desc = some da)
    (hdb : (s.me.streg (nestBst s.me.mx.nest.shadow)).desc = some db)
    (ht : s.timely [.st (nestAst s.me.mx.nest.shadow), .st (nestBst s.me.mx.nest.shadow)] = true) :
    execMgo w s = .next (s.setPipe s.curPipe (({ s.me with mx := { s.me.mx with
      nest := s.me.mx.nest.start s.atk da db
        ((s.me.mode (nestField s.me.mx.nest.shadow 0 14 % 8)).getD .rne).code,
      badNest := s.me.mx.badNest.filter (fun n => decide (191 < n)) } } : Pipe).afterWord .c (s.atk + 1) false)) := by
  have hbad : s.me.mx.badNest.any (fun n => decide (n < 96)) = false := by
    simpa using hb
  rw [execMgo, State.timedPipe_ok _ _ _ _ _ _ rfl (by simp [hgo, hbad, hv]) ht]
  dsimp only
  rw [hda, hdb]

theorem exec_nest (s : State) (w l : BitVec 3) (f : BitVec 4) (a : BitVec 5) (hw : (Instr.nest w l f a).wellFormed = true)
    (ht : s.timely [.s a.toNat] = true) (v : BitVec 32) (n : Nat)
    (hv : v = BitVec.ofNat 32 ((s.me.sreg a.toNat).toNat % 2 ^ nestWidth f.toNat)) (hn : n = l.toNat * 16 + f.toNat) :
    execNest w l f a s = .next (s.setPipe s.curPipe (({ s.me with mx := { s.me.mx with
      nest := { s.me.mx.nest with shadow := s.me.mx.nest.shadow.set n v },
      badNest := s.me.mx.badNest.filter (fun m => !(m == n)) } } : Pipe).afterWord .c (s.atk + 1) false)) := by
  rw [execNest, State.timedPipe_legal _ _ _ _ _ hw ht, hv, hn]

/-- Settles O13. -/
theorem nestWordsComplete : Obligations.NestWordsComplete := by
  intro s w l f a
  refine ⟨?_, fun hgo hv hb ht => ?_⟩
  · rintro sh odd hw ht rfl rfl
    exact exec_nest s w l f a hw ht _ _ rfl rfl
  · obtain ⟨da, db, hda, hdb⟩ := nestInvalid_none_descs hv
    refine ⟨_, s.mgo_ok w da db hgo hv hb hda hdb ht, ?_⟩
    rw [State.me_setPipe_curPipe]
    simp [Nest.start]

/-! ### Stream registers -/

/-- An aligned offset in tensor SRAM whose bytes lie in no reserved bank and hold no uncorrectable error. -/
theorem State.offFails_eq_nil (s : State) {k : StreamKind} {o al n : Nat} (ha : o % al = 0) (ho : o < 0x600000)
    (hb : s.bankSlips s.curPipe k.num (s.me.seq k).pc o n = []) : s.offFails k o al n = [] := by
  simp [State.offFails, ha, hb, tensorSize, Nat.not_le.2 ho]

theorem State.scfg_ok (s : State) (i : Instr) (k : StreamKind) (src : RegRef) (st : Nat) (base : Word) (imm : BitVec 15)
    {o : Nat} (hk : o = (base + imm.signExtend 64 * 64).toNat) (hw : i.wellFormed = true) (ha : o % 64 = 0)
    (ho : o < 0x600000) (hb : s.bankSlips s.curPipe k.num (s.me.seq k).pc o 64 = [])
    (he : s.eccSlips s.curPipe k.num (s.me.seq k).pc o 64 = []) (ht : s.timely [src] = true) :
    (s.scfg i k src st base imm).me.regs = s.me.regs ∧ (s.scfg i k src st base imm).me.cyc.dets = s.me.cyc.dets ∧
      (s.scfg i k src st base imm).me.fly.res = s.me.fly.res ++
        [{ due := s.atk + 8, stream := k.num, res := .scfg st o (s.me.mem.sram.words o 8) (s.me.seq k).pc, issue := s.atk }] := by
  subst hk
  rw [State.scfg, State.timedPipe_ok _ _ _ _ _ _ hw (by rw [s.offFails_eq_nil ha ho hb, he, List.append_nil]) ht,
    State.me_setPipe_curPipe]
  by_cases h : k = .l <;> simp [h]

theorem State.movePos_ok (s : State) (i : Instr) (k : StreamKind) (st : Nat) (f : Desc → Nat → Nat) (d : Desc)
    (hw : i.wellFormed = true) (hd : (s.me.streg st).desc = some d) (ht : s.timely [.st st] = true) :
    s.movePos i k st f = s.setPipe s.curPipe
      ((s.me.setSt st { s.me.streg st with p := f d (s.me.streg st).p }).afterWord k (s.atk + 1) false) := by
  rw [State.movePos, State.timedPipe_ok _ _ _ _ _ _ hw (by simp [hd]) ht]
  dsimp only
  rw [hd]

theorem State.tlbp_ok (s : State) (i : Instr) (k : StreamKind) (st : Nat) (d : Desc) (hw : i.wellFormed = true)
    (hd : (s.me.streg st).desc = some d) (hk : d.kind ≠ 0) (ht : s.timely [.st st] = true) :
    (s.tlbp i k st).me.regs = s.me.regs ∧ (s.tlbp i k st).me.cyc.dets = s.me.cyc.dets ∧
      (s.tlbp i k st).me.fly.res = s.me.fly.res.filter (fun f => !(f.res.prefetches st)) ++
        [{ due := s.atk + 48, stream := k.num, res := .nxt st (d.addr (s.me.streg st).p + d.look) [],
           issue := s.atk }] := by
  rw [State.tlbp, State.timedPipe_ok _ _ _ _ _ _ hw (by simp [hd, hk]) ht, State.me_setPipe_curPipe]
  dsimp only
  rw [hd]
  simp

/-- Settles O14. -/
theorem streamRegisterWordsComplete : Obligations.StreamRegisterWordsComplete := by
  intro s w st a k d
  refine ⟨fun i kd src o hi hw ha ho hb he ht => ?_, fun i kd f hi hw hd ht => ?_, fun i kd hi hw hd hk ht => ?_⟩
  · rcases hi with ⟨rfl, rfl, rfl, hk⟩ | ⟨rfl, rfl, rfl, hk⟩
    · exact ⟨_, rfl, s.scfg_ok _ .l _ _ _ _ hk hw ha ho hb he ht⟩
    · exact ⟨_, rfl, s.scfg_ok _ .s _ _ _ _ hk hw ha ho hb he ht⟩
  · rcases hi with ⟨rfl, rfl, rfl⟩ | ⟨rfl, rfl, rfl⟩ | ⟨rfl, rfl, rfl⟩
    · exact congrArg Host.Outcome.next (s.movePos_ok _ .l _ (sadvPos k) d hw hd ht)
    · exact congrArg Host.Outcome.next (s.movePos_ok _ .s _ (sadvPos k) d hw hd ht)
    · exact congrArg Host.Outcome.next (s.movePos_ok _ .l _ boutPos d hw hd ht)
  · rcases hi with ⟨rfl, rfl⟩ | ⟨rfl, rfl⟩
    · obtain ⟨hr, hc, hf⟩ := s.tlbp_ok (.lTlbp w st) .l _ d hw hd hk ht
      exact ⟨_, _, rfl, hr, hc, rfl, hf⟩
    · obtain ⟨hr, hc, hf⟩ := s.tlbp_ok (.sTlbp w st) .s _ d hw hd hk ht
      exact ⟨_, _, rfl, hr, hc, rfl, hf⟩

/-! ### Loads -/

@[simp] theorem Pipe.dqueue_afterWord (p : Pipe) (k : StreamKind) (nf : Tick) (b : Bool) (n : Nat) :
    (p.afterWord k nf b).dqueue n = p.dqueue n := by
  simp [Pipe.dqueue]

@[simp] theorem Pipe.streg_afterWord (p : Pipe) (k : StreamKind) (nf : Tick) (b : Bool) (n : Nat) :
    (p.afterWord k nf b).streg n = p.streg n := by
  simp [Pipe.streg]

@[simp] theorem Pipe.streg_setSt (p : Pipe) (n : Nat) (r : StreamReg) : (p.setSt n r).streg n = r := by
  simp [Pipe.streg, SMap.get_set]

@[simp] theorem Pipe.dqueue_setSt (p : Pipe) (n m : Nat) (r : StreamReg) : (p.setSt n r).dqueue m = p.dqueue m := rfl

@[simp] theorem Pipe.dqueue_setDq (p : Pipe) (n : Nat) (q : List (QEntry VWord)) : (p.setDq n q).dqueue n = q := by
  simp [Pipe.dqueue, SMap.get_set]

theorem State.scaleFails_eq_nil (s : State) (k : StreamKind) {os : List Int}
    (h : ∀ o ∈ os, scaleValid (BitVec.ofNat 32 (s.me.mem.sram.readLE o.toNat 4)) = true) : s.scaleFails k os = [] := by
  have hf : os.find? (fun o => inTensor o 4 && !(scaleValid (BitVec.ofNat 32 (s.me.mem.sram.readLE o.toNat 4)))) = none := by
    rw [List.find?_eq_none]
    intro o ho
    simp [h o ho]
  rw [State.scaleFails, hf]

/-- Settles O15. -/
theorem ldqCompletes : Obligations.LdqCompletes := by
  rintro s w q st d r f rfl hd hw hbad hlen hrs hsc ht rfl
  have hacc : (ldqRanges s.me d (s.me.streg st.toNat).p).flatMap (fun x =>
      s.bankSlips s.curPipe 1 s.me.l.pc x.1 x.2 ++ s.eccSlips s.curPipe 1 s.me.l.pc x.1 x.2) = [] := by
    rw [List.flatMap_eq_nil_iff]
    intro e he
    rw [(hrs e he).1, (hrs e he).2, List.append_nil]
  have hx : exec (.ldq w q st) s = execLdq w q st s := rfl
  rw [hx, execLdq]
  dsimp only
  rw [hd]
  dsimp only
  rw [State.timedPipe_ok _ _ _ _ _ _ hw
    (by simp [hbad, Nat.not_le.2 hlen, hacc, s.scaleFails_eq_nil .l hsc]) ht]
  refine ⟨_, rfl, ?_⟩
  rw [State.me_setPipe_curPipe]
  simp [qPush, Pipe.dqueue, SMap.get_set, StreamKind.num]

theorem State.gath_ok (s : State) (w : BitVec 3) (st a : BitVec 4) (k : BitVec 15) (d : Desc) (o : Nat)
    (hk : o = (s.me.areg a.toNat + k.signExtend 64 * 256).toNat) (hw : (Instr.gath w st a k).wellFormed = true)
    (hd : (s.me.streg st.toNat).desc = some d) (hkind : d.kind ≠ 1)
    (hal : d.addr (s.me.streg st.toNat).p % (fmtAlign (fmtOf d.fmt) : Int) = 0) (ha : o % 256 = 0) (ho : o < 0x600000)
    (hb : s.bankSlips s.curPipe 1 s.me.l.pc o 256 = []) (he : s.eccSlips s.curPipe 1 s.me.l.pc o 256 = [])
    (ht : s.timely [.st st.toNat, .a a.toNat] = true) :
    execGath w st a k s = .next (s.setPipe s.curPipe (((({ s.me with fly := { s.me.fly with gath := s.me.fly.gath ++
      [{ issue := s.atk, base := d.addr (s.me.streg st.toNat).p, stride := d.str 1,
         idx := (List.range 64).map (fun n => signedOf 32 (s.me.mem.sram.readLE (o + 4 * n) 4)), rows := [],
         pc := s.me.l.pc }] } } : Pipe).chargeL 256).setSt st.toNat ((s.me.streg st.toNat).advance d)).afterWord
      .l (s.atk + 1) false)) := by
  subst hk
  rw [execGath]
  dsimp only
  rw [hd]
  dsimp only
  rw [State.timedPipe_ok _ _ _ _ _ _ hw (by rw [s.offFails_eq_nil (k := .l) ha ho hb, he]; simp [hkind, hal]) ht]

/-- Settles O16. -/
theorem tableLoadsComplete : Obligations.TableLoadsComplete := by
  intro s w st a t4 c k d o img
  refine ⟨fun hk hw hd hkind hal ha ho hb he ht => ?_, fun hk hw ha ho hb he ht => ?_, fun himg hn ht => ?_⟩
  · refine ⟨_, s.gath_ok w st a k d o hk hw hd hkind hal ha ho hb he ht, ?_⟩
    rw [State.me_setPipe_curPipe]
    simp
  · subst hk
    change execLdcb w c a s = _
    rw [execLdcb, State.timedPipe_ok _ _ _ _ _ _ hw (by rw [s.offFails_eq_nil (k := .l) ha ho hb, he, List.append_nil]) ht]
  · change execLdcm w t4 a s = _
    rw [execLdcm, State.timedPipe_ok _ _ _ _ _ _ rfl (by simp [himg, Nat.not_lt.2 hn]) ht]
    rw [himg]
    rfl

/-! ### HBM transfers -/

/-- The transfer that an HLD or HST starts. -/
def State.hbmOp (s : State) (k : StreamKind) (o pa : Nat) (load : Bool) : HbmOp :=
  { isLoad := load, issue := s.atk, pa := pa, off := o,
    data := if load then [] else (List.range 32).map (fun n => (n, s.me.mem.sram.word (o + 8 * n))), pc := (s.me.seq k).pc }

theorem State.hbmWord_hit (s : State) (i : Instr) (k : StreamKind) (src : RegRef) (st o : Nat) (load : Bool) (d : Desc)
    (r' : StreamReg) (e : STlb) (hw : i.wellFormed = true) (hd : (s.me.streg st).desc = some d) (hkind : d.kind = 1)
    (ha : o % 256 = 0) (ho : o < 0x600000) (hal : d.addr (s.me.streg st).p % 256 = 0)
    (hp : inPaged (d.addr (s.me.streg st).p) 256 = true) (hslot : (s.part s.curPart).tsmask.getLsbD (Machine.slotOf s.atk) = true)
    (hl : (s.me.streg st).lookup (d.addr (s.me.streg st).p).toNat = .hit e r')
    (hecc : load = false → s.eccSlips s.curPipe k.num (s.me.seq k).pc o 256 = []) (ht : s.timely [.st st, src] = true) :
    (s.hbmWord i k src st o load []).me.cyc.dets = s.me.cyc.dets ∧
      (s.hbmWord i k src st o load []).me.streg st = r'.advance d ∧ (s.hbmWord i k src st o load []).me.mem = s.me.mem ∧
      (s.hbmWord i k src st o load []).me.fly.hbm = s.me.fly.hbm ++
        [s.hbmOp k o (e.frame + ((d.addr (s.me.streg st).p).toNat - e.page)) load] := by
  rw [State.hbmWord]
  dsimp only
  rw [hd]
  dsimp only
  rw [if_neg (by simp [hkind, hp, hw]), hl]
  dsimp only
  rw [State.timedPipe_ok _ _ _ _ _ _ hw
    (by simp [hkind, ha, hal, hp, hslot, tensorSize, Nat.not_le.2 ho]) ht, State.me_setPipe_curPipe]
  cases load with
  | true => simp [State.hbmOp]
  | false => simp [State.hbmOp, hecc]

/-- Settles O17. -/
theorem hbmTransfersStart : Obligations.HbmTransfersStart := by
  rintro s w st a k d r r' e i kd src o load hi hw rfl hd hkind ha ho hal hp hslot hl ht
  rcases hi with ⟨rfl, rfl, rfl, rfl, rfl⟩ | ⟨rfl, rfl, rfl, rfl, rfl, hb, he⟩
  · exact ⟨_, rfl, s.hbmWord_hit _ .l _ _ _ true d r' e hw hd hkind ha ho hal hp hslot hl (fun h => nomatch h) ht⟩
  · refine ⟨_, congrArg Host.Outcome.next (congrArg (s.hbmWord _ .s _ _ _ false) hb), ?_⟩
    exact s.hbmWord_hit _ .s _ _ _ false d r' e hw hd hkind ha ho hal hp hslot hl (fun _ => he) ht

end Sys2Proof.Machine
end

section
/-! The stores, histogram, RMW and relay words of S (O18, O19). -/
namespace Sys2Proof.Machine

/-- A timely, legal word that fails none of its own conditions, whose effect is on its own pipeline, and its draws. -/
theorem State.timedTo_onPipe (s : State) (i : Instr) (k : StreamKind) (srcs : List RegRef) (chk : List Det) (draws : Nat)
    (nf : Tick) (span : Bool) (f : Pipe → Pipe) (hw : i.wellFormed = true) (hc : chk = []) (ht : s.timely srcs = true) :
    s.timedTo i k srcs chk draws nf span (fun t => t.onPipe s.curPipe f) =
      s.setPipe s.curPipe (((f s.me).drawn draws).afterWord k nf span) := by
  rw [hc, State.timedTo_legal _ _ _ _ _ _ _ _ hw ht]
  simp [State.onPipe]

/-! ### STQ -/

/-- The histograms after the capture of an STQ's elements. -/
def stqHist (p : Pipe) (d : Desc) (f : Fmt) (h : BitVec 2) (c : BitVec 1) (v : VWord) (out : Nat → FRes) :
    SMap (BitVec 32) :=
  if decide (c = 1) && p.csr.histCtl.getLsbD h.toNat then
    ((List.range d.lanes).filterMap (fun e =>
      if p.csr.histCtl.getLsbD (4 + h.toNat) then captureBin f (out e).bits
      else captureBin (fmtOf d.qfmt) (elemOf v (fmtOf d.qfmt).bits e))).foldl
        (fun a j => addCount a h.toNat j) p.mem.hist
  else p.mem.hist

theorem stqHist_off (p : Pipe) (d : Desc) (f : Fmt) (h : BitVec 2) (c : BitVec 1) (v : VWord) (out : Nat → FRes)
    (hc : c = 0 ∨ p.csr.histCtl.getLsbD h.toNat = false) : stqHist p d f h c v out = p.mem.hist := by
  rcases hc with rfl | hc
  · rfl
  · rw [stqHist, hc, Bool.and_false]
    rfl

theorem stqHist_on (p : Pipe) (d : Desc) (f : Fmt) (h : BitVec 2) {c : BitVec 1} (v : VWord) (out : Nat → FRes)
    (hc : c = 1) (hon : p.csr.histCtl.getLsbD h.toNat = true) :
    stqHist p d f h c v out = ((List.range d.lanes).filterMap (fun e => if p.csr.histCtl.getLsbD (4 + h.toNat)
      then captureBin f (out e).bits
      else captureBin (fmtOf d.qfmt) (elemOf v (fmtOf d.qfmt).bits e))).foldl (fun a j => addCount a h.toNat j) p.mem.hist := by
  rw [stqHist, hc, hon]
  rfl

theorem Pipe.drawn_draws (p : Pipe) (n : Nat) : (p.drawn n).cyc.draws = Nat.max p.cyc.draws n := by
  change (if p.cyc.draws < n then n else p.cyc.draws) = max p.cyc.draws n
  split <;> omega

/-- The pipeline after an STQ of elements `out`, before its stream goes on. -/
def stqPipe (p : Pipe) (now : Tick) (q : Nat) (st : Nat) (d : Desc) (f : Fmt) (out : Nat → FRes)
    (hist : SMap (BitVec 32)) : Pipe :=
  let p1 := (p.setDq q (p.dqueue q).tail).produce .s now 3 .flags (flagsOf d.lanes (fun e => (out e).flags))
  let wr : TWrite := { at_ := now + 2, cls := 5, addr := (d.addr (p.streg st).p).toNat,
                       bytes := elemBytes f.bits d.lanes (fun e => (out e).bits), pc := p.s.pc }
  ({ p1 with mem := { p1.mem with hist := hist },
             fly := { p1.fly with writes := p1.fly.writes ++ [wr] } } : Pipe).setSt st ((p.streg st).advance d)

theorem exec_stq (s : State) (w q : BitVec 3) (st f : BitVec 4) (rm : BitVec 3) (x c : BitVec 1) (h : BitVec 2) (d : Desc)
    (m : RMode) (v : VWord) (out : Nat → FRes) (hd : (s.me.streg st.toNat).desc = some d)
    (hm : s.me.mode rm.toNat = some m) (hw : (Instr.stq w q st f rm x h c).wellFormed = true) (hkind : d.kind ≠ 1)
    (hbytes : d.lanes * (fmtOf f.toNat).bits / 8 ≤ 256)
    (hin : inTensor (d.addr (s.me.streg st.toNat).p) (d.lanes * (fmtOf f.toNat).bits / 8) = true)
    (hal : d.addr (s.me.streg st.toNat).p % (fmtAlign (fmtOf f.toNat) : Int) = 0)
    (hh : qHead (s.me.dqueue q.toNat) s.atk = some v) (hb : qBad (s.me.dqueue q.toNat) s.atk = false)
    (ht : s.timely [.st st.toNat] = true)
    (ho : out = fun e => stqElem s.me (fmtOf d.qfmt) (fmtOf f.toNat) (decide (x = 1)) m v e) :
    execStq w q st f rm x h c s = .next (s.setPipe s.curPipe
      (((stqPipe s.me s.atk q.toNat st.toNat d (fmtOf f.toNat) out (stqHist s.me d (fmtOf f.toNat) h c v out)).drawn
        (if m = .sr then d.lanes else 0)).afterWord .s (s.atk + 1) false)) := by
  subst ho
  rw [execStq]
  dsimp only
  rw [hd, hm]
  dsimp only
  rw [State.timedTo_onPipe _ _ _ _ _ _ _ _ _ hw
    (by rw [s.popSlips_sound _ _ _ hh hb]; simp [hkind, Nat.not_lt.2 hbytes, hin, hal]) ht, hh]
  rfl

/-! ### HCLR, HSNAP and RMW -/

theorem exec_hsnap (s : State) (w : BitVec 3) (n : BitVec 2) (b : BitVec 4) (ha : (s.me.breg b.toNat).toNat % 256 = 0)
    (ho : (s.me.breg b.toNat).toNat < 0x600000) (ht : s.timely [.b b.toNat] = true) :
    execHsnap w n b s = .next (s.setPipe s.curPipe (({ s.me with
      mem := { s.me.mem with hist := clearSet s.me.mem.hist n.toNat },
      fly := { s.me.fly with writes := s.me.fly.writes ++
        [{ at_ := s.atk + 2, cls := 5, addr := (s.me.breg b.toNat).toNat,
           bytes := elemBytes 32 64 (fun j => (s.me.mem.hist.get (n.toNat * 64 + j) 0).toNat),
           pc := s.me.s.pc }] } } : Pipe).afterWord .s (s.atk + 1) false)) := by
  rw [execHsnap]
  dsimp only
  rw [State.timedPipe_ok _ _ _ _ _ _ rfl (by simp [ha, tensorSize, Nat.not_le.2 ho]) ht]

theorem storesAndHistograms : Claims.StoresAndHistograms := by
  intro s w q st f b rm x c h n d r m v out
  refine ⟨?_, ?_, fun ha ho ht => ?_⟩
  · rintro rfl hd hm hw hkind hbytes hin hal hh hb ht ho
    refine ⟨_, exec_stq s w q st f rm x c h d m v out hd hm hw hkind hbytes hin hal hh hb ht ho, ?_⟩
    rw [State.me_setPipe_curPipe]
    refine ⟨?_, ?_, ?_, ?_, ?_, ?_, ?_, ?_, ?_, fun hoff => ?_, fun hc hon => ?_⟩
    case refine_6 => 
      rw [Pipe.afterWord_cyc, Pipe.drawn_draws]
      simp [stqPipe]
    case refine_10 => simpa [stqPipe, Pipe.drawn] using stqHist_off s.me d _ h c v out hoff
    case refine_11 => simpa [stqPipe, Pipe.drawn] using stqHist_on s.me d _ h v out hc hon
    all_goals simp [stqPipe, Pipe.drawn, StreamKind.num, Pipe.streg, Pipe.dqueue, SMap.get_set]
  · change execHclr w n s = _
    rw [execHclr, State.timedPipe_legal _ _ _ _ _ rfl s.timely_nil]
  · refine ⟨_, exec_hsnap s w n b ha ho ht, ?_⟩
    rw [State.me_setPipe_curPipe]
    simp

/-- The pipeline after an RMW with format `f`, before its stream goes on. -/
def rmwPipe (p : Pipe) (now : Tick) (o : Nat) (f : Fmt) (a : Nat) (v : Word) : Pipe :=
  let r := rmwValue o f (p.mem.sram.readLE a (f.bits / 8)) (v.toNat % 2 ^ f.bits)
  let q := p.produce .s now 3 .flags r.flags
  { q with fly := { q.fly with
      writes := q.fly.writes ++ [{ at_ := now + 2, cls := 4, addr := a, bytes := toBytes (f.bits / 8) r.bits, pc := p.s.pc }],
      rmwHold := q.fly.rmwHold.filter (fun e => Tick.le now e.2) ++ [(tensorBank a, now + 2)] } }

/-- What decides that an RMW of format `f` at `a` may go on. -/
theorem State.rmwChecks_eq_nil (s : State) {f : Fmt} {a : Nat} (ha : a % (f.bits / 8) = 0) (ho : a < 0x600000)
    (hh : s.me.fly.rmwHold.any (fun e => decide (e.1 = tensorBank a) && Tick.le s.atk e.2) = false)
    (he : s.eccSlips s.curPipe 3 s.me.s.pc a (f.bits / 8) = []) :
    s.fails (decide (a % (f.bits / 8) ≠ 0) || decide (tensorSize ≤ a)) .s causeIllOp 0 0 ++
      s.fails (s.me.fly.rmwHold.any (fun e => decide (e.1 = tensorBank a) && Tick.le s.atk e.2)) .s causeToken 62 0 ++
      s.eccSlips s.curPipe 3 s.me.s.pc a (f.bits / 8) = [] := by
  rw [hh, he]
  simp [ha, tensorSize, Nat.not_le.2 ho]

theorem rmwFmt_cases : ∀ ty : BitVec 2,
    ty = 0 ∧ (if ty = 0 then Fmt.fp32 else if ty = 1 then .bf16 else .int32) = .fp32 ∨
    ty = 1 ∧ (if ty = 0 then Fmt.fp32 else if ty = 1 then .bf16 else .int32) = .bf16 ∨
    ty = 2 ∧ (if ty = 0 then Fmt.fp32 else if ty = 1 then .bf16 else .int32) = .int32 ∨
    ty = 3 ∧ (if ty = 0 then Fmt.fp32 else if ty = 1 then .bf16 else .int32) = .int32 := by decide

theorem rmwCompletes : Claims.RmwCompletes := by
  rintro s w o ty b v f a r hf rfl hw ha ho hh he ht rfl
  have hty : ty = 0 ∧ f = .fp32 ∨ ty = 1 ∧ f = .bf16 ∨ ty = 2 ∧ f = .int32 ∨ ty = 3 ∧ f = .int32 := hf ▸ rmwFmt_cases ty
  change ∃ t, execRmw w o ty b v s = _ ∧ _
  have hx : execRmw w o ty b v s = .next (s.setPipe s.curPipe
      ((rmwPipe s.me s.atk o.toNat f (s.me.breg b.toNat).toNat (s.me.breg v.toNat)).afterWord .s (s.atk + 1) false)) := by
    rcases hty with ⟨rfl, rfl⟩ | ⟨rfl, rfl⟩ | ⟨rfl, rfl⟩ | ⟨rfl, rfl⟩ <;>
      exact congrArg Host.Outcome.next (State.timedPipe_ok _ _ _ _ _ _ hw (s.rmwChecks_eq_nil ha ho hh he) ht)
  refine ⟨_, hx, ?_⟩
  rw [State.me_setPipe_curPipe]
  simp [rmwPipe, StreamKind.num]

/-- Settles O18. -/
theorem storesComplete : Obligations.StoresComplete := ⟨storesAndHistograms, rmwCompletes⟩

/-! ### SEND and MCAST -/

theorem State.pipe_onPipe_same (s : State) (g : Nat) (f : Pipe → Pipe) : (s.onPipe g f).pipe g = f (s.pipe g) := by
  simp [State.onPipe]

/-- A timely, legal relay word pops its queue, enters the road book and sends the words `ws`. -/
theorem State.relay_sent (s : State) (i : Instr) (srcs : List RegRef) (chk : List Det) (q n : Nat)
    (ws : List RelayWord) (eff : State → State) (hw : i.wellFormed = true) (hc : chk = []) (ht : s.timely srcs = true)
    (hcur : ∀ t, (eff t).curPipe = t.curPipe)
    (hf : ∀ t, (eff t).pipes = (t.onPipe s.curPipe (fun p => (p.popDq q).note s.atk 4 .s n)).pipes)
    (hws : ∀ t, (eff t).words = t.words ++ ws) :
    ∃ t, (Host.Outcome.next (s.timed i .s srcs chk eff) : Out) = .next t ∧ t.me.cyc.dets = s.me.cyc.dets ∧
      t.me.dqueue q = (s.me.dqueue q).tail ∧ t.me.regs = s.me.regs ∧ t.words = s.words ++ ws := by
  have hp : ∀ t, (eff t).pipe s.curPipe = ((t.pipe s.curPipe).popDq q).note s.atk 4 .s n := fun t =>
    (congrArg (fun m : SMap Pipe => m.get s.curPipe {}) (hf t)).trans (t.pipe_onPipe_same _ _)
  refine ⟨_, rfl, ?_⟩
  rw [hc, State.timed, State.timedTo_legal _ _ _ _ _ _ _ _ hw ht]
  simp [State.me, State.onPipe, hcur, hp, hws, Pipe.popDq, Pipe.dqueue, SMap.get_set]

/-- Settles O19. -/
theorem relayWordsComplete : Obligations.RelayWordsComplete := by
  rintro s w q g b v head e re tau die rfl rfl rfl ha ho hh hb hr ht
  refine ⟨fun hz hdie hhop hw => ?_, ?_⟩
  · change ∃ t, execSend w q b s = _ ∧ _
    rw [execSend]
    dsimp only
    rw [hr, hh]
    refine s.relay_sent _ _ _ _ (bitsOf (s.me.breg b.toNat) 31 0) _ _ hw ?_ ht (fun t => rfl) (fun t => rfl) (fun t => rfl)
    rw [s.popSlips_sound _ _ _ hh hb]
    simp [hz, ha, hdie, Nat.not_lt.2 hhop, tensorSize, Nat.not_le.2 ho]
  · intro dies pipes far hD hP hF hz hdies hpipes hall hfar hre hw
    change ∃ t, execMcast w q g b s = _ ∧ _
    rw [execMcast]
    dsimp only
    rw [hr, hh, ← hD, ← hP, ← hF]
    dsimp only
    refine s.relay_sent _ _ _ _ (bitsOf (s.me.breg b.toNat) 31 0) _ _ hw ?_ ht (fun t => rfl) (fun t => rfl) (fun t => rfl)
    rw [s.popSlips_sound _ _ _ hh hb]
    have hnd := List.isEmpty_eq_false_iff.2 hdies
    have hnp := List.isEmpty_eq_false_iff.2 hpipes
    have hin := List.all_eq_true.2 hall
    have hlate := Nat.not_lt.2 hre
    have hnear := Nat.not_lt.2 hfar
    simp [hz, ha, hnd, hnp, hin, hnear, hlate, tensorSize, Nat.not_le.2 ho]

end Sys2Proof.Machine
end

section
/-! The vector words of X (O21 to O23). -/
namespace Sys2Proof.Machine

/-! ### Rounding words -/

/-- A legal, timely X word under a mode that is not reserved, whose own checks find nothing. -/
theorem State.xMode_ok (s : State) (i : Instr) (srcs : List RegRef) (chk : List Det) (rm n : Nat)
    (eff : RMode → Tick → Pipe → Pipe) (r : RMode) (hw : i.wellFormed = true) (hm : s.me.mode rm = some r)
    (hn : r = .sr → n ≤ 128) (hc : chk = []) (ht : s.timely srcs = true) :
    s.xMode i srcs chk rm n eff = s.setPipe s.curPipe
      (((eff r s.atk s.me).drawn (if r = .sr then 64 else 0)).afterWord .x (s.atk + 1) false) := by
  have hbad : (decide (r = .sr) && decide (128 < n)) = false := by
    cases r <;> simp_all
  rw [State.xMode, hm]
  dsimp only
  rw [State.timedTo_onPipe _ _ _ _ _ _ _ _ _ hw (by rw [hbad, hc]; rfl) ht]

theorem fpLat_eq (f : BitVec 3) : fpLat f.toNat = if f = 0 then 4 else 3 := by
  revert f
  decide

/-- What a rounding word leaves. -/
def State.rounded (s : State) (a : Claims.Rounding) (rm : RMode) : State :=
  s.setPipe s.curPipe (((s.me.writeElems s.atk a.lat a.d (s.me.execMask a.m) a.w a.n (a.elem rm) 0).drawn
    (if rm = .sr then 64 else 0)).afterWord .x (s.atk + 1) false)

theorem State.vArith_ok (s : State) (i : Instr) (d a b : BitVec 5) (f r : BitVec 3) (x m : BitVec 1) (three : Bool)
    (op : XVal → XVal → XVal → Bool → XRes) (rm : RMode) (hw : i.wellFormed = true)
    (hm : s.me.mode r.toNat = some rm) (hn : rm = .sr → (Claims.arith s d a b f r x m three op).n ≤ 128)
    (ht : s.timely ((Claims.arith s d a b f r x m three op).srcs ++ maskSrc m) = true) :
    s.vArith i d a b f r x m three op = s.rounded (Claims.arith s d a b f r x m three op) rm := by
  rw [State.vArith, fpLat_eq, State.xMode_ok _ _ _ _ _ _ _ rm hw hm (by exact hn) rfl (by exact ht)]
  rfl

theorem State.execVcvt_ok (s : State) (w : BitVec 3) (d a : BitVec 5) (g f r : BitVec 3) (x m : BitVec 1) (rm : RMode)
    (z : Claims.Rounding) (hz : Claims.roundingWord s (.vcvt w d a g f r x m) = some z)
    (hw : (Instr.vcvt w d a g f r x m).wellFormed = true) (hm : s.me.mode z.rm = some rm) (hn : rm = .sr → z.n ≤ 128)
    (ht : s.timely (z.srcs ++ maskSrc z.m) = true) : execVcvt w d a g f r x m s = .next (s.rounded z rm) := by
  cases hz
  rw [execVcvt, State.xMode_ok _ _ _ _ _ _ _ rm hw hm hn rfl ht]
  rfl

theorem State.fails_eq_nil (s : State) {c : Bool} (h : c = false) (k : StreamKind) (cause d n : Nat) :
    s.fails c k cause d n = [] := by
  rw [h, State.fails_false]

theorem clamped_lt (x : Int) : (if x < 0 then 0 else if 255 < x then 255 else x.toNat) < 256 := by
  split
  · omega
  · split <;> omega

theorem segmentOf_lt (x : XVal) : segmentOf x < 256 := by
  unfold segmentOf
  split
  · omega
  · split <;> omega
  · exact clamped_lt _

/-- The coefficients of the segments that a VTAB reads are sound, where its table's are. -/
theorem badSegment_eq_false (p : Pipe) (t : Nat) (on : Nat → Bool) (va : VWord) (h : ∀ n ∈ p.mem.badCoef, n / 512 ≠ t) :
    (List.range 64).any (fun i => on i && (match vtabSegment (lane va i).toNat with
      | some sg => p.mem.badCoef.any (fun b => decide (b / 2 = t * 256 + sg))
      | none => false)) = false := by
  rw [List.any_eq_false]
  intro i _
  rw [Bool.and_eq_true, not_and]
  intro _
  split
  · rename_i sg hsg
    have hlt : sg < 256 := by
      unfold vtabSegment at hsg
      split at hsg
      · cases hsg
      · cases hsg
        exact segmentOf_lt _
    simp only [List.any_eq_true, decide_eq_true_eq, not_exists, not_and]
    intro b hb he
    exact h b hb (by omega)
  · simp

theorem State.execVtab_ok (s : State) (w : BitVec 3) (d a : BitVec 5) (t : BitVec 4) (f r : BitVec 3) (x m : BitVec 1)
    (rm : RMode) (z : Claims.Rounding) (hz : Claims.roundingWord s (.vtab w d a t f r x m) = some z)
    (hw : (Instr.vtab w d a t f r x m).wellFormed = true) (hm : s.me.mode z.rm = some rm) (hn : rm = .sr → z.n ≤ 128)
    (ht : s.timely (z.srcs ++ maskSrc z.m) = true) (hc : ∀ n ∈ s.me.mem.badCoef, RegRef.coef (n / 512) ∉ z.srcs) :
    execVtab w d a t f r x m s = .next (s.rounded z rm) := by
  cases hz
  have hcoef : ∀ n ∈ s.me.mem.badCoef, n / 512 ≠ t.toNat := fun n hn he => hc n hn (by simp [he])
  have hbad := badSegment_eq_false s.me t.toNat (laneOn (s.me.execMask m) 64) (s.me.vreg a.toNat) hcoef
  rw [execVtab, State.xMode_ok _ _ _ _ _ _ _ rm hw hm (by exact hn)
    (by exact s.fails_eq_nil hbad ..) (by exact ht)]
  rfl

/-- Settles O21. -/
theorem roundingWordsComplete : Obligations.RoundingWordsComplete := by
  intro s i z rm hz hw hm hn ht hc
  change exec i s = .next (s.rounded z rm)
  have hi := hz
  unfold Claims.roundingWord at hz
  split at hz
  case h_6 => exact s.execVcvt_ok _ _ _ _ _ _ _ _ rm z hi hw hm hn ht
  case h_7 => exact s.execVtab_ok _ _ _ _ _ _ _ _ rm z hi hw hm hn ht hc
  case h_8 => cases hz
  all_goals
    cases hz
    exact congrArg Host.Outcome.next (s.vArith_ok _ _ _ _ _ _ _ _ _ _ rm hw hm hn ht)

/-! ### Words without rounding -/

/-- What a vector word without rounding leaves. -/
def State.plained (s : State) (a : Claims.Plain) : State :=
  s.setPipe s.curPipe
    ((s.me.writeElems s.atk 2 a.d (s.me.execMask a.m) a.w a.n a.elem 0).afterWord .x (s.atk + 1) false)

theorem State.vMap_ok (s : State) (i : Instr) (d a b : BitVec 5) (m : BitVec 1) (two : Bool) (w : Nat)
    (f : Nat → Nat → FRes) (g : Nat → FRes)
    (hg : ∀ e, f (elemOf (s.me.vreg a.toNat) w e) (elemOf (s.me.vreg b.toNat) w e) = g e) (hw : i.wellFormed = true)
    (ht : s.timely ((if two then [RegRef.v a.toNat, .v b.toNat] else [.v a.toNat]) ++ maskSrc m) = true) :
    s.vMap i d a b m two w f = s.plained
      { srcs := if two then [.v a.toNat, .v b.toNat] else [.v a.toNat], d := d.toNat, m := m, w := w, n := 2048 / w,
        elem := g } := by
  rw [State.vMap, State.timedPipe_legal _ _ _ _ _ hw ht, ← funext hg]
  rfl

theorem State.vLanes_ok (s : State) (i : Instr) (srcs : List RegRef) (d : BitVec 5) (m : BitVec 1)
    (f : Pipe → Nat → BitVec 32) (g : Nat → FRes) (hg : ∀ e, ⟨(f s.me e).toNat, 0⟩ = g e) (hw : i.wellFormed = true)
    (ht : s.timely (srcs ++ maskSrc m) = true) :
    s.vLanes i srcs [] d m f = s.plained
      { srcs := srcs, d := d.toNat, m := m, w := 32, n := 64, elem := g } := by
  rw [State.vLanes, State.timedPipe_legal _ _ _ _ _ hw ht, ← funext hg]
  rfl

/-- A shift by 32 or more leaves no bit of a lane. -/
theorem shiftLeft_eq_ite (x : BitVec 32) (n : Nat) : x <<< n = if 32 ≤ n then 0 else x <<< n := by
  split
  · exact BitVec.shiftLeft_eq_zero ‹_›
  · rfl

theorem ushiftRight_eq_ite (x : BitVec 32) (n : Nat) : x >>> n = if 32 ≤ n then 0 else x >>> n := by
  split
  · exact BitVec.ushiftRight_eq_zero ‹_›
  · rfl

theorem vecInt_eq (f : Fmt) (x : BitVec 1) (z : Int) :
    vecInt f (decide (x = 1)) z = if x = 1 then roundSat (.ofInt z) f true .rne 0 else ⟨wrapInt f.bits z, 0⟩ := by
  simp only [vecInt, decide_eq_true_eq]

theorem vldiValue_eq (k : BitVec 2) (v : BitVec 16) :
    vldiValue k.toNat v = if k = 0 then v.signExtend 32 else if k = 1 then v.setWidth 32 <<< 16 else v ++ v := by
  have hk : k = 0 ∨ k = 1 ∨ k = 2 ∨ k = 3 := by
    revert k
    decide
  rcases hk with rfl | rfl | rfl | rfl <;> rfl

/-- Settles O22. -/
theorem plainVectorWordsComplete : Obligations.PlainVectorWordsComplete := by
  intro s i z hz hw ht
  change exec i s = .next (s.plained z)
  unfold Claims.plainWord at hz
  split at hz
  case h_1 | h_2 | h_3 | h_12 | h_13 | h_14 =>
    cases hz
    exact congrArg Host.Outcome.next (s.vLanes_ok _ _ _ _ _ _ (fun _ => rfl) hw ht)
  case h_4 =>
    cases hz
    exact congrArg Host.Outcome.next (s.vLanes_ok _ _ _ _ _ _
      (fun e => congrArg (fun y : BitVec 32 => FRes.mk y.toNat 0) (shiftLeft_eq_ite _ _)) hw ht)
  case h_5 =>
    cases hz
    exact congrArg Host.Outcome.next (s.vLanes_ok _ _ _ _ _ _
      (fun e => congrArg (fun y : BitVec 32 => FRes.mk y.toNat 0) (ushiftRight_eq_ite _ _)) hw ht)
  case h_6 | h_7 =>
    cases hz
    exact congrArg Host.Outcome.next (s.vMap_ok _ _ _ _ _ true _ _ _ (fun _ => rfl) hw ht)
  case h_8 | h_9 =>
    cases hz
    exact congrArg Host.Outcome.next (s.vMap_ok _ _ _ _ _ false _ _ _ (fun _ => rfl) hw ht)
  case h_10 | h_11 =>
    cases hz
    exact congrArg Host.Outcome.next (s.vMap_ok _ _ _ _ _ true _ _ _ (fun _ => vecInt_eq _ _ _) hw ht)
  case h_15 =>
    cases hz
    exact congrArg Host.Outcome.next (s.vLanes_ok _ _ _ _ _ _
      (fun e => congrArg (fun y : BitVec 32 => FRes.mk y.toNat 0) (vldiValue_eq _ _)) hw ht)
  case h_16 => cases hz

end Sys2Proof.Machine
end

section
/-! The compare, mask, reduce, random, rotary, scale and splat words of X (O23). -/
namespace Sys2Proof.Machine

/-! ### Heads of qx -/

theorem Pipe.qxHead_eq {p : Pipe} {now : Tick} {v : Word} (h : qHead p.q.qx now = some v) : p.qxHead now = v := by
  rw [Pipe.qxHead, h, Option.getD_some]

theorem State.qxEmpty_eq_nil {s : State} {v : Word} (h : qHead s.me.q.qx s.atk = some v) (hb : qBad s.me.q.qx s.atk = false) :
    s.qxEmpty = [] :=
  s.popSlips_sound .x _ _ h hb

/-! ### VMSK -/

/-- The value of VMSK's function `f` (07 Table 7-2). -/
def vmskValue (p : Pipe) (a b f : Nat) (now : Tick) : Word :=
  if f = 0 then p.mreg a &&& p.mreg b else if f = 1 then p.mreg a ||| p.mreg b else if f = 2 then p.mreg a ^^^ p.mreg b
  else if f = 3 then p.mreg a &&& ~~~(p.mreg b) else if f = 4 then ~~~(p.mreg a) else if f = 5 then -1
  else if f = 6 then maskOf (fun i => decide (i < (p.qxHead now).toNat)) else p.mreg a

theorem State.exec_vmsk (s : State) (w d a b : BitVec 3) (f : BitVec 4) (hw : (Instr.vmsk w d a b f).wellFormed = true)
    (hf : f.toNat ≤ 7) (hq : f.toNat = 6 → s.qxEmpty = [])
    (ht : s.timely ((if f.toNat = 5 ∨ f.toNat = 6 then [] else [RegRef.m a.toNat]) ++
      (if f.toNat ≤ 3 then [RegRef.m b.toNat] else [])) = true) :
    execVmsk w d a b f s = .next (s.setPipe s.curPipe (((if f.toNat = 6 then s.me.popQx else s.me).writeMask s.atk d.toNat
      (vmskValue s.me a.toNat b.toNat f.toNat s.atk) (-1) 0).afterWord .x (s.atk + 1) false)) := by
  rw [execVmsk, State.timedPipe_ok _ _ _ _ _ _ hw (by split <;> simp_all) ht]
  have h8 : f.toNat = 0 ∨ f.toNat = 1 ∨ f.toNat = 2 ∨ f.toNat = 3 ∨ f.toNat = 4 ∨ f.toNat = 5 ∨ f.toNat = 6 ∨ f.toNat = 7 := by
    omega
  dsimp only
  rcases h8 with h | h | h | h | h | h | h | h <;> rw [h] <;> rfl

/-! ### VRED -/

theorem redLevel_length (op : Nat → Nat → FRes) : ∀ l : List FRes, (redLevel op l).length = (l.length + 1) / 2
  | [] => rfl
  | [_] => by simp [redLevel]
  | a :: b :: t => by
    have ih := redLevel_length op t
    simp only [redLevel, List.length_cons, ih]
    omega

/-- A tree of `n` levels over 2^n values leaves one. -/
theorem redTree_length (op : Nat → Nat → FRes) (n : Nat) (l : List FRes) (h : l.length = 2 ^ n) :
    (redTree op n l).length = 1 := by
  induction n generalizing l with
  | zero => exact h
  | succ n ih =>
    refine ih _ ?_
    rw [redLevel_length, h, Nat.pow_succ]
    omega

theorem State.exec_vred (s : State) (w : BitVec 3) (d a o : BitVec 5) (f r : BitVec 3) (m : BitVec 1) (rm : RMode)
    (hw : (Instr.vred w d a o f r m).wellFormed = true) (hm : s.me.mode r.toNat = some rm) (hr : rm ≠ .sr)
    (ht : s.timely ([.v a.toNat] ++ maskSrc m) = true) (y : FRes)
    (hy : [y] = redTree (redOp o.toNat (Fmt.ofVec f.toNat) rm) 6 ((List.range 64).map (fun i =>
      ⟨if (s.me.execMask m).getLsbD i then (lane (s.me.vreg a.toNat) i).toNat
        else redIdentity o.toNat (Fmt.ofVec f.toNat), 0⟩))) :
    execVred w d a o f r m s = .next (s.setPipe s.curPipe ((s.me.produce .x s.atk 7
      (.vreg d.toNat (BitVec.ofNat 2048 (y.bits % 2 ^ 32)) (-1)) y.flags).afterWord .x (s.atk + 1) false)) := by
  rw [execVred]
  dsimp only
  rw [hm]
  dsimp only
  rw [State.timedPipe_ok _ _ _ _ _ _ hw (by simp [hr]) ht, ← hy]
  rfl

/-! ### VROPE and VSCL -/

theorem isEmpty_filter_eq_not_any {α : Type} (p : α → Bool) (l : List α) : (l.filter p).isEmpty = !(l.any p) := by
  induction l with
  | nil => rfl
  | cons a l ih => cases h : p a <;> simp [h, ih]

/-- The pairs of lanes that a VROPE turns by a position at or above 2^24. -/
def ropeFar (p : Pipe) (on : Word) (b : BitVec 5) : Nat → Bool := fun j =>
  (on.getLsbD (2 * j) || on.getLsbD (2 * j + 1)) && decide (2 ^ 24 ≤ (lane (p.vreg b.toNat) (2 * j)).toNat)

theorem State.exec_vrope (s : State) (w : BitVec 3) (d a b : BitVec 5) (f r : BitVec 3) (m : BitVec 1) (rm : RMode)
    (far : Bool) (hw : (Instr.vrope w d a b f r m).wellFormed = true) (hm : s.me.mode r.toNat = some rm)
    (ht : s.timely ([.v a.toNat, .v b.toNat] ++ maskSrc m) = true)
    (hfar : far = (List.range 32).any (ropeFar s.me (s.me.execMask m) b)) (hp : far = true → s.me.posflt = false) :
    execVrope w d a b f r m s = .next (s.setPipe s.curPipe
      (((s.me.writeElems s.atk 6 d.toNat (s.me.execMask m) 32 64
        (fun i => vropeLane (s.me.vreg a.toNat) (s.me.vreg b.toNat) (Fmt.ofVec f.toNat) rm (srDraw s.me rm 64 i) i)
        (flagIf far flagPOSOVF)).drawn (if rm = .sr then 64 else 0)).afterWord .x (s.atk + 1) false)) := by
  rw [execVrope]
  generalize hb : List.filter _ (List.range 32) = big
  have hbig : (!big.isEmpty) = far := by
    rw [← hb, isEmpty_filter_eq_not_any, hfar, Bool.not_not]
    rfl
  rw [State.xMode_ok _ _ _ _ _ _ _ rm hw hm (fun _ => by omega) (by cases big with
    | nil => rfl
    | cons j js => exact s.fails_eq_nil (hp hbig.symm) ..) ht, hbig]

theorem State.exec_vscl (s : State) (w : BitVec 3) (d a : BitVec 5) (f r : BitVec 3) (x m : BitVec 1) (rm : RMode) (v : Word)
    (hw : (Instr.vscl w d a f r x m).wellFormed = true) (hm : s.me.mode r.toNat = some rm)
    (hn : rm = .sr → 2048 / (Fmt.ofVec f.toNat).bits ≤ 128) (hv : qHead s.me.q.qx s.atk = some v)
    (hb : qBad s.me.q.qx s.atk = false) (hsc : scaleValid (v.setWidth 32) = true)
    (ht : s.timely ([.v a.toNat] ++ maskSrc m) = true) :
    execVscl w d a f r x m s = .next (s.setPipe s.curPipe
      (((s.me.popQx.writeElems s.atk (if f = 0 then 4 else 3) d.toNat (s.me.execMask m) (Fmt.ofVec f.toNat).bits
        (2048 / (Fmt.ofVec f.toNat).bits) (fun e =>
          let fm := Fmt.ofVec f.toNat
          let y := xmul (fm.decode (elemOf (s.me.vreg a.toNat) fm.bits e)) (Fmt.fp32.decode (v.setWidth 32).toNat)
          let q := roundSat y.val fm (decide (x = 1)) rm (srDraw s.me rm (2048 / fm.bits) e)
          ⟨q.bits, q.flags ||| snanFlag fm (elemOf (s.me.vreg a.toNat) fm.bits e) ||| flagIf y.nv flagNV⟩) 0).drawn
            (if rm = .sr then 64 else 0)).afterWord .x (s.atk + 1) false)) := by
  rw [execVscl, Pipe.qxHead_eq hv, fpLat_eq, State.qxEmpty_eq_nil hv hb]
  dsimp only
  rw [State.xMode_ok _ _ _ _ _ _ _ rm hw hm hn (by simp [hsc]) ht]

/-- Settles O23. -/
theorem otherVectorWordsComplete : Obligations.OtherVectorWordsComplete := by
  rintro s w k kd ka kb d a b o f r c x m fn rm v fm on rfl rfl
  refine ⟨fun hw ht => ?_, fun hw hf ht => ?_, fun hw ht => ?_, fun hw ht => ?_, fun hw => ?_, fun hw hv hb => ?_,
    fun hw hm hr ht => ?_, fun hw ht => ?_, fun far hw hm ht hfar hp => ?_, fun hw hm hn hv hb hsc ht => ?_,
    fun hw hv hb ht => ?_⟩
  · change execVcmp w k a b f c m s = _
    rw [execVcmp, State.timedPipe_legal _ _ _ _ _ hw ht]
  · have h4 : fn = 0 ∨ fn = 1 ∨ fn = 2 ∨ fn = 3 := by
      clear hw ht
      revert fn
      decide
    rcases h4 with rfl | rfl | rfl | rfl <;>
      exact s.exec_vmsk w kd ka kb _ hw (by decide) (fun h => absurd h (by decide)) ht
  · exact s.exec_vmsk w kd ka kb 7 hw (by decide) (fun h => absurd h (by decide)) ht
  · exact s.exec_vmsk w kd ka kb 4 hw (by decide) (fun h => absurd h (by decide)) ht
  · exact s.exec_vmsk w kd ka kb 5 hw (by decide) (fun h => absurd h (by decide)) s.timely_nil
  · have h := s.exec_vmsk w kd ka kb 6 hw (by decide) (fun _ => State.qxEmpty_eq_nil hv hb) s.timely_nil
    rw [← Pipe.qxHead_eq hv]
    exact h
  · obtain ⟨y, hy⟩ := List.length_eq_one_iff.1 (redTree_length (redOp o.toNat (Fmt.ofVec f.toNat) rm) 6
      ((List.range 64).map (fun i => ⟨if (s.me.execMask m).getLsbD i then (lane (s.me.vreg a.toNat) i).toNat
        else redIdentity o.toNat (Fmt.ofVec f.toNat), 0⟩)) (by simp))
    refine ⟨_, y, s.exec_vred w d a o f r m rm hw hm hr ht y hy.symm, ?_⟩
    rw [State.me_setPipe_curPipe]
    exact ⟨by simp, by simp, hy.symm, by simp [StreamKind.num]⟩
  · change execVrng w d m s = _
    rw [execVrng, State.timedTo_onPipe _ _ _ _ _ _ _ _ _ hw rfl ht]
  · exact s.exec_vrope w d a b f r m rm far hw hm ht hfar hp
  · exact s.exec_vscl w d a f r x m rm v hw hm hn hv hb hsc ht
  · change execVsplQ w d m s = _
    rw [execVsplQ, State.timedPipe_ok _ _ _ _ _ _ hw (State.qxEmpty_eq_nil hv hb) ht, Pipe.qxHead_eq hv]

end Sys2Proof.Machine
end

section
/-! The queue, drawbar, accumulator, branch and loop words of X (O24, O25). -/
namespace Sys2Proof.Machine

/-! ### Drawbars -/

/-- The pipelines after a timely, legal word that meets no condition. -/
theorem State.pipe_timed (s : State) (i : Instr) (k : StreamKind) (srcs : List RegRef) (chk : List Det)
    (eff : State → State) (hw : i.wellFormed = true) (hc : chk = []) (ht : s.timely srcs = true) (h : Nat) :
    (s.timed i k srcs chk eff).pipe h = if h = s.curPipe
      then (((eff (s.setPipe s.curPipe s.me)).pipe h).drawn 0).afterWord k (s.atk + 1) false
      else (eff (s.setPipe s.curPipe s.me)).pipe h := by
  rw [hc, State.timed, State.timedTo_legal _ _ _ _ _ _ _ _ hw ht]
  by_cases hg : h = s.curPipe <;> simp [State.onPipe, State.atk, hg]

theorem side_cases : ∀ side : BitVec 1, side = 0 ∨ side = 1 := by decide

theorem drawbarTo_ne (g : Nat) (east : Bool) : drawbarTo g east ≠ some g := by
  unfold drawbarTo
  split <;> split
  · exact nofun
  · exact fun h => absurd (Option.some.inj h) (by omega)
  · exact nofun
  · exact fun h => absurd (Option.some.inj h) (by omega)

/-- The pipeline that has sent a word out of a side. -/
def Pipe.sent (p : Pipe) (east : Bool) : Pipe :=
  { p with cyc := if east then { p.cyc with sentE := true } else { p.cyc with sentW := true } }

/-- The pipeline to whose other side the word is on its way. -/
def Pipe.awaits (p : Pipe) (east : Bool) (now : Tick) (v : VWord) : Pipe :=
  { p with q := { p.q with dbIn := p.q.dbIn ++ [(now + 1, !east, v)] } }

theorem State.pipe_sendDrawbar (s : State) (g : Nat) (east : Bool) (now : Tick) (v : VWord) (h : Nat) :
    (s.sendDrawbar g east now v).pipe h = if h = g then (s.pipe g).sent east
      else if drawbarTo g east = some h then (s.pipe h).awaits east now v else s.pipe h := by
  unfold State.sendDrawbar
  dsimp only
  split
  · rename_i hn
    simp [hn, State.onPipe, Pipe.sent]
  · rename_i k hk
    have hkg : g ≠ k := fun he => drawbarTo_ne g east (he ▸ hk)
    by_cases hg : h = g
    · subst hg
      simp [State.onPipe, hkg, Pipe.sent]
    · by_cases hh : h = k
      · subst hh
        simp [State.onPipe, hk, hg, Pipe.awaits]
      · have hne : drawbarTo g east ≠ some h := fun he => hh (Option.some.inj (he.symm.trans hk))
        simp [State.onPipe, hg, hh, hne]

theorem State.curPipe_sendDrawbar (s : State) (g : Nat) (east : Bool) (now : Tick) (v : VWord) :
    (s.sendDrawbar g east now v).curPipe = s.curPipe := by
  unfold State.sendDrawbar
  dsimp only
  split <;> rfl

theorem State.curPipe_timed (s : State) (i : Instr) (k : StreamKind) (srcs : List RegRef) (chk : List Det)
    (eff : State → State) (hw : i.wellFormed = true) (hc : chk = []) (ht : s.timely srcs = true)
    (he : ∀ t, (eff t).curPipe = t.curPipe) : (s.timed i k srcs chk eff).curPipe = s.curPipe := by
  rw [hc, State.timed, State.timedTo_legal _ _ _ _ _ _ _ _ hw ht]
  simp [State.onPipe, he]

theorem drawbarTo_east (g : Nat) : drawbarTo g true = if g % 8 = 7 then none else some (g + 1) := rfl
theorem drawbarTo_west (g : Nat) : drawbarTo g false = if g % 8 = 0 then none else some (g - 1) := rfl

/-- A VDWR leaves every pipeline as the sending of its word does, but for its own sequencer. -/
theorem State.exec_vdwr (s : State) (w : BitVec 3) (a : BitVec 5) (side : BitVec 1)
    (hb : (if side = 0 then s.me.cyc.sentE else s.me.cyc.sentW) = false) (ht : s.timely [.v a.toNat] = true) :
    ∃ t : State, execVdwr w a side s = .next t ∧ t.curPipe = s.curPipe ∧
      t.pipe s.curPipe = ((s.me.sent (decide (side = 0))).drawn 0).afterWord .x (s.atk + 1) false ∧
      ∀ h, h ≠ s.curPipe → t.pipe h = if drawbarTo s.curPipe (decide (side = 0)) = some h
        then (s.pipe h).awaits (decide (side = 0)) s.atk (s.me.vreg a.toNat) else s.pipe h := by
  have hbusy : (if decide (side = 0) = true then s.me.cyc.sentE else s.me.cyc.sentW) = false := by
    simpa only [decide_eq_true_eq] using hb
  have hchk := s.fails_eq_nil hbusy .x causeToken 58 0
  refine ⟨_, rfl, State.curPipe_timed _ _ _ _ _ _ rfl hchk ht (fun t => t.curPipe_sendDrawbar ..), ?_, fun h hh => ?_⟩
  · rw [State.pipe_timed _ _ _ _ _ _ rfl hchk ht, if_pos rfl, State.pipe_sendDrawbar, if_pos rfl]
    simp
  · rw [State.pipe_timed _ _ _ _ _ _ rfl hchk ht, if_neg hh, State.pipe_sendDrawbar, if_neg hh]
    simp [hh]

/-- What a VDRW leaves of the pipeline before it forwards. -/
def Pipe.readDrawbar (p : Pipe) (east : Bool) (now : Tick) (d : Nat) (v : VWord) : Pipe :=
  (p.popDrawbar east).produce .x now 2 (.vreg d v (-1)) 0

theorem State.exec_vdrw (s : State) (w : BitVec 3) (d : BitVec 5) (side f : BitVec 1) (v : VWord) (rest : List VWord)
    (hb : (if side = 0 then s.me.q.east else s.me.q.west) = v :: rest)
    (hp : (if side = 0 then s.me.cyc.popE else s.me.cyc.popW) = 0) (he : s.me.drawbarBad (decide (side = 0)) = false) :
    ∃ t : State, execVdrw w d side f s = .next t ∧ t.curPipe = s.curPipe ∧
      t.pipe s.curPipe = (((if f = 1 then (s.me.readDrawbar (decide (side = 0)) s.atk d.toNat v).sent (!decide (side = 0))
        else s.me.readDrawbar (decide (side = 0)) s.atk d.toNat v)).drawn 0).afterWord .x (s.atk + 1) false ∧
      ∀ h, h ≠ s.curPipe → t.pipe h = if f = 1 ∧ drawbarTo s.curPipe (!decide (side = 0)) = some h
        then (s.pipe h).awaits (!decide (side = 0)) s.atk v else s.pipe h := by
  have hbuf : s.me.drawbar (decide (side = 0)) = v :: rest := by
    simpa only [Pipe.drawbar, decide_eq_true_eq] using hb
  have hpop : (if decide (side = 0) = true then decide (0 < s.me.cyc.popE) else decide (0 < s.me.cyc.popW)) = false := by
    by_cases h : side = 0 <;> simp_all
  have hw : (Instr.vdrw w d side f).wellFormed = true := rfl
  have hx : execVdrw w d side f s = .next (s.timed (.vdrw w d side f) .x [] [] (fun t =>
      let u := t.onPipe s.curPipe (fun p => p.readDrawbar (decide (side = 0)) s.atk d.toNat v)
      if f = 1 then u.sendDrawbar s.curPipe (!decide (side = 0)) s.atk v else u)) := by
    rw [execVdrw]
    dsimp only
    rw [hbuf, hpop, he]
    rfl
  have hcur : ∀ t : State, (let u := t.onPipe s.curPipe (fun p => p.readDrawbar (decide (side = 0)) s.atk d.toNat v)
      if f = 1 then u.sendDrawbar s.curPipe (!decide (side = 0)) s.atk v else u).curPipe = t.curPipe := by
    intro t
    dsimp only
    split
    · exact State.curPipe_sendDrawbar ..
    · rfl
  refine ⟨_, hx, State.curPipe_timed _ _ _ _ _ _ hw rfl s.timely_nil hcur, ?_, fun h hh => ?_⟩
  · rw [State.pipe_timed _ _ _ _ _ _ hw rfl s.timely_nil, if_pos rfl]
    rcases side_cases f with rfl | rfl <;> simp [State.pipe_sendDrawbar, State.onPipe, State.me]
  · rw [State.pipe_timed _ _ _ _ _ _ hw rfl s.timely_nil, if_neg hh]
    rcases side_cases f with rfl | rfl <;> simp [State.pipe_sendDrawbar, State.onPipe, State.me, hh]

@[simp] theorem Pipe.popDrawbar_regs (p : Pipe) (east : Bool) : (p.popDrawbar east).regs = p.regs := by cases east <;> rfl
@[simp] theorem Pipe.popDrawbar_dets (p : Pipe) (east : Bool) : (p.popDrawbar east).cyc.dets = p.cyc.dets := by cases east <;> rfl
@[simp] theorem Pipe.popDrawbar_fly (p : Pipe) (east : Bool) : (p.popDrawbar east).fly = p.fly := by cases east <;> rfl
@[simp] theorem Pipe.sent_regs (p : Pipe) (east : Bool) : (p.sent east).regs = p.regs := rfl
@[simp] theorem Pipe.sent_q (p : Pipe) (east : Bool) : (p.sent east).q = p.q := rfl
@[simp] theorem Pipe.sent_fly (p : Pipe) (east : Bool) : (p.sent east).fly = p.fly := rfl
@[simp] theorem Pipe.sent_dets (p : Pipe) (east : Bool) : (p.sent east).cyc.dets = p.cyc.dets := by cases east <;> rfl

/-- Settles O24. -/
theorem queueAndDrawbarWordsComplete : Obligations.QueueAndDrawbarWordsComplete := by
  rintro s w q d a side f v rest g p rfl rfl
  refine ⟨fun hw hv hb => ?_, fun hw hl ht => ?_, fun hb ht => ?_, fun hb hp he => ?_⟩
  · change execVpop w d q s = _
    rw [execVpop, State.timedPipe_ok _ _ _ _ _ _ hw (s.popSlips_sound _ _ _ hv hb) s.timely_nil, hv]
    rfl
  · change execVpush w a q s = _
    rw [execVpush, State.timedPipe_ok _ _ _ _ _ _ hw (by simp [Nat.not_le.2 hl]) ht]
    rfl
  · obtain ⟨t, hx, hcur, hme, hpipe⟩ := s.exec_vdwr w a side hb ht
    refine ⟨t, hx, ?_, ?_, ?_, ?_, ?_⟩
    · simp [State.me, hcur, hme]
    · simp [State.me, hcur, hme]
    · rintro rfl hg
      rw [hpipe _ (by omega)]
      simp [drawbarTo_east, hg, Pipe.awaits]
    · rintro rfl hg
      rw [hpipe _ (by omega)]
      simp [drawbarTo_west, hg, Pipe.awaits]
    · intro hedge h
      by_cases hh : h = s.curPipe
      · simp [hh, hme, State.me]
      · rw [hpipe h hh]
        rcases hedge with ⟨rfl, hg⟩ | ⟨rfl, hg⟩ <;> simp [drawbarTo_east, drawbarTo_west, hg]
  · obtain ⟨t, hx, hcur, hme, hpipe⟩ := s.exec_vdrw w d side f v rest hb hp he
    refine ⟨t, hx, ?_, ?_, ?_, ?_, ?_, ?_, ?_⟩
    · rcases side_cases f with rfl | rfl <;> simp [State.me, hcur, hme, Pipe.readDrawbar]
    · rcases side_cases f with rfl | rfl <;> simp [State.me, hcur, hme, Pipe.readDrawbar]
    · have hq : t.me.q = (s.me.popDrawbar (decide (side = 0))).q := by
        rcases side_cases f with rfl | rfl <;> simp [State.me, hcur, hme, Pipe.readDrawbar]
      rw [hq]
      rcases side_cases side with rfl | rfl
      · exact congrArg List.tail hb
      · exact congrArg List.tail hb
    · rcases side_cases f with rfl | rfl <;> simp [State.me, hcur, hme, Pipe.readDrawbar, StreamKind.num]
    · rintro rfl rfl hg
      rw [hpipe _ (by omega)]
      simp [drawbarTo_west, hg, Pipe.awaits]
    · rintro rfl rfl hg
      rw [hpipe _ (by omega)]
      simp [drawbarTo_east, hg, Pipe.awaits]
    · rintro rfl h hh
      rw [hpipe h hh]
      simp

/-! ### Accumulator words -/

theorem State.rowEcc_eq_nil (s : State) (k pc row : Nat) (h : ∀ b ∈ s.me.mx.badRows, b / 24 ≠ row) :
    s.rowEcc s.curPipe k pc [row] = [] := by
  have hany : (s.pipe s.curPipe).mx.badRows.any (fun b => [row].contains (b / 24)) = false := by
    rw [List.any_eq_false]
    intro b hb
    simpa using h b hb
  rw [State.rowEcc, hany]
  rfl

theorem State.exec_accst (s : State) (w : BitVec 3) (q : BitVec 1) (row : BitVec 12) (f o : BitVec 3) (x : BitVec 1) (rm : RMode)
    (out : Nat → FRes) (hw : (Instr.accst w q row f o x).wellFormed = true) (hm : s.me.mode o.toNat = some rm)
    (hl : (s.me.dqueue (4 + q.toNat)).length < 16) (hr : ∀ b ∈ s.me.mx.badRows, b / 24 ≠ row.toNat)
    (ho : out = fun e => accCell f.toNat (decide (x = 1)) rm (if rm = .sr then s.me.draw 2 e else 0)
      ((s.me.mx.acc.get row.toNat 0).toNat / 2 ^ (32 * e) % 2 ^ 32)) :
    execAccst w q row f o x s = .next (s.setPipe s.curPipe
      ((((s.me.setDq (4 + q.toNat) (qPush (s.me.dqueue (4 + q.toNat)) s.atk 6
        (vecPack (Fmt.ofVec f.toNat).bits 48 (fun e => (out e).bits)))).produce .x s.atk 6 .flags
          (flagsOf 48 (fun e => (out e).flags))).drawn (if rm = .sr ∧ (Fmt.ofVec f.toNat).isInt = false then 48 else 0)).afterWord
            .x (s.atk + 1) false)) := by
  subst ho
  rw [execAccst]
  dsimp only
  rw [hm]
  dsimp only
  rw [State.timedTo_onPipe _ _ _ _ _ _ _ _ _ hw
    (by rw [s.rowEcc_eq_nil _ _ _ hr]; simp [Nat.not_le.2 hl]) s.timely_nil]

theorem accumulatorWordsComplete : Claims.AccumulatorWordsComplete := by
  intro s w d row n q f o x rm out
  refine ⟨fun hw hr => ?_, fun hw hn ht => ?_, fun hw hn => ?_, fun hw hm hl hr ho => ?_⟩
  · change execAccrd w d row s = _
    rw [execAccrd, State.timedPipe_ok _ _ _ _ _ _ hw (s.rowEcc_eq_nil _ _ _ hr) s.timely_nil]
  · change execAccwr w d row s = _
    rw [execAccwr, State.timedPipe_ok _ _ _ _ _ _ hw (s.fails_eq_nil hn ..) ht]
  · change execAccz w n s = _
    rw [execAccz, State.timedPipe_ok _ _ _ _ _ _ hw (s.fails_eq_nil hn ..) s.timely_nil]
  · refine ⟨_, s.exec_accst w q row f o x rm out hw hm hl hr ho, ?_⟩
    rw [State.me_setPipe_curPipe]
    simp [qPush, Pipe.dqueue, SMap.get_set, StreamKind.num]

/-! ### XBR and XLOOP -/

theorem State.exec_xbr (s : State) (w : BitVec 3) (n : BitVec 1) (off : BitVec 19) (b : Bool)
    (hv : qHead s.me.q.bq s.atk = some b) (hb : qBad s.me.q.bq s.atk = false)
    (ht : (b != decide (n = 1)) = true → s.me.x.badTarget (branchTarget s.me.x.pc off) = false) :
    execXbr w n off s = .next (s.setPipe s.curPipe
      (if b != decide (n = 1)
        then ({ s.me with q := { s.me.q with bq := s.me.q.bq.tail } } : Pipe).jump .x s.atk (branchTarget s.me.x.pc off).toNat
        else ({ s.me with q := { s.me.q with bq := s.me.q.bq.tail } } : Pipe).afterWord .x (s.atk + 1) false)) := by
  rw [execXbr, s.popSlips_sound _ _ _ hv hb, hv]
  dsimp only
  rw [State.branchWord_timely s _ .x _ _ _ _ rfl s.timely_nil ht]
  rfl

theorem qBad_of_qHead_none {α : Type} {q : List (QEntry α)} {now : Tick} (h : qHead q now = none) : qBad q now = false := by
  cases q with
  | nil => rfl
  | cons e es =>
    have hr : Tick.le e.ready now = false := by
      cases hl : Tick.le e.ready now <;> simp_all [qHead]
    simp [qBad, hr]

/-- A loop word that meets slips but none that stops it. -/
theorem State.loopWord_slips (s : State) (i : Instr) (k : StreamKind) (slips : List Det) (len most trips : Nat)
    (eff : Pipe → Pipe) (hw : i.wellFormed = true) (hb : (s.me.seq k).badLoop len = false) :
    s.loopWord i k [] slips len most trips eff = s.setPipe s.curPipe
      ((eff (s.me.detect slips)).setSeq k (((eff (s.me.detect slips)).seq k).enter s.atk (Nat.min trips most) len most)) := by
  simp [State.loopWord, hw, hb, s.scores_timely k [] s.timely_nil, s.parityIn_timely [] s.timely_nil,
    s.parityDets_timely k [] s.timely_nil]

theorem State.exec_xloop (s : State) (w : BitVec 3) (l m : BitVec 9) (hw : (Instr.xloop w l m).wellFormed = true)
    (hl : s.me.x.badLoop l.toNat = false) (hb : qBad s.me.q.qx s.atk = false) (p : Pipe)
    (hp : p = if (qHead s.me.q.qx s.atk).isSome then s.me.popQx else s.me.detect s.qxEmpty)
    (hs : (qHead s.me.q.qx s.atk).isSome = true → s.qxEmpty = []) :
    execXloop w l m s = .next (s.setPipe s.curPipe
      { p with x := s.me.x.enter s.atk (Nat.min (s.me.qxHead s.atk).toNat m.toNat) l.toNat m.toNat }) := by
  subst hp
  rw [execXloop, hb, Bool.false_and, if_neg Bool.false_ne_true, State.loopWord_slips s _ .x _ _ _ _ _ hw hl]
  cases h : (qHead s.me.q.qx s.atk).isSome with
  | true =>
    simp only [hs h, Pipe.detect_q, h, if_true]
    simp [Pipe.detect, Pipe.setSeq, Pipe.seq, Pipe.popQx, Pipe.setSq]
  | false =>
    simp only [Pipe.detect_q, h, Bool.false_eq_true, if_false]
    rfl

theorem vectorControlCompletes : Claims.VectorControlCompletes := by
  intro s w n off l m b v
  refine ⟨fun hv hb ht => s.exec_xbr w n off b hv hb ht, fun hw hl => ⟨fun hv hb => ?_, fun hv => ?_⟩⟩
  · have hx := s.exec_xloop w l m hw hl hb s.me.popQx (by rw [hv]; rfl) (fun _ => State.qxEmpty_eq_nil hv hb)
    rw [Pipe.qxHead_eq hv] at hx
    refine ⟨_, hx, ?_⟩
    rw [State.me_setPipe_curPipe]
    exact ⟨rfl, rfl, rfl, rfl⟩
  · have hb := qBad_of_qHead_none hv
    have hslip : s.qxEmpty = [{ cause := 3, stream := 2, pc := s.me.x.pc, detail := 25, info := 0 }] := by
      rw [State.qxEmpty, State.popSlips, hv, hb]
      rfl
    have hz : s.me.qxHead s.atk = 0 := by
      rw [Pipe.qxHead, hv]
      rfl
    have hx := s.exec_xloop w l m hw hl hb (s.me.detect s.qxEmpty) (by rw [hv]; rfl) (fun h => by rw [hv] at h; cases h)
    rw [hz, hslip] at hx
    refine ⟨_, hx, ?_⟩
    rw [State.me_setPipe_curPipe]
    exact ⟨rfl, rfl, by simp, rfl⟩

/-- Settles O25. -/
theorem accumulatorAndControlWords : Obligations.AccumulatorAndControlWords :=
  ⟨accumulatorWordsComplete, vectorControlCompletes⟩

end Sys2Proof.Machine
end

section
/-! What no timed word changes as it issues (O26): the frame is kept by the operations that the words share, and so by every
word. -/
namespace Sys2Proof.Machine

/-- What no timed word changes of its own pipeline as it issues. -/
def Pipe.core (p : Pipe) :=
  ((p.regs.sr, p.regs.pr, p.regs.ar, p.regs.br), (p.regs.vr, p.regs.mr, p.regs.cb, p.csr), p.mem.sram, p.mem.coef, p.mx.acc,
    p.mx.latchA)

/-- A pipeline but for its drawbar input. -/
def Pipe.bare (p : Pipe) : Pipe := { p with q := { p.q with dbIn := [] } }

/-- The dynamic plane and the host side. -/
def State.beyond (s : State) :=
  ((s.mem, s.bad, s.gigs, s.coaches), (s.launches, s.nextLid, s.kidWaits, s.held), (s.tlb, s.parts, s.portal, s.fw),
    s.linkWords, s.notices)

/-- `t` is `s` but for what a word of pipeline `g` may change. -/
structure State.Framed (g : Nat) (s t : State) : Prop where
  beyond : t.beyond = s.beyond
  cur : t.curPipe = s.curPipe
  core : (t.pipe g).core = (s.pipe g).core
  others : ∀ h, h ≠ g → (t.pipe h).bare = (s.pipe h).bare

namespace State.Framed

variable {g : Nat} {s t u : State}

theorem refl : Framed g s s := ⟨rfl, rfl, rfl, fun _ _ => rfl⟩

theorem trans (h : Framed g s t) (h' : Framed g t u) : Framed g s u :=
  ⟨h'.beyond.trans h.beyond, h'.cur.trans h.cur, h'.core.trans h.core, fun k hk => (h'.others k hk).trans (h.others k hk)⟩

theorem ite {c : Prop} [Decidable c] (h : Framed g s t) (h' : Framed g s u) : Framed g s (if c then t else u) := by
  split
  · exact h
  · exact h'

theorem setPipe {p : Pipe} (hp : p.core = (s.pipe g).core) : Framed g s (s.setPipe g p) := by
  refine ⟨rfl, rfl, ?_, fun h hh => ?_⟩
  · simpa using hp
  · simp [hh]

theorem onPipe {f : Pipe → Pipe} (hf : ∀ p, (f p).core = p.core) : Framed g s (s.onPipe g f) :=
  setPipe (hf _)

/-- A change of dies, words on their way or events alone. -/
theorem of_pipes (hb : t.beyond = s.beyond) (hc : t.curPipe = s.curPipe) (hp : t.pipes = s.pipes) : Framed g s t := by
  have hpipe : ∀ h, t.pipe h = s.pipe h := fun h => congrArg (fun m : SMap Pipe => m.get h {}) hp
  exact ⟨hb, hc, congrArg Pipe.core (hpipe g), fun h _ => congrArg Pipe.bare (hpipe h)⟩

end State.Framed

/-! ### The operations of a pipeline -/

@[simp] theorem Pipe.core_afterWord (p : Pipe) (k : StreamKind) (nf : Tick) (b : Bool) : (p.afterWord k nf b).core = p.core := by
  simp [Pipe.core]

@[simp] theorem Pipe.core_setSeq (p : Pipe) (k : StreamKind) (q : Seq) : (p.setSeq k q).core = p.core := by
  simp [Pipe.core]

@[simp] theorem Pipe.core_detect (p : Pipe) (ds : List Det) : (p.detect ds).core = p.core := rfl
@[simp] theorem Pipe.core_drawn (p : Pipe) (n : Nat) : (p.drawn n).core = p.core := rfl
@[simp] theorem Pipe.core_produce (p : Pipe) (k : StreamKind) (now : Tick) (lat : Nat) (r : Result) (f : FlagSet) :
    (p.produce k now lat r f).core = p.core := rfl
@[simp] theorem Pipe.core_note (p : Pipe) (now : Tick) (kind : Nat) (k : StreamKind) (data : Nat) :
    (p.note now kind k data).core = p.core := rfl
@[simp] theorem Pipe.core_jump (p : Pipe) (k : StreamKind) (now : Tick) (t : Nat) : (p.jump k now t).core = p.core := by
  simp [Pipe.jump]

@[simp] theorem Pipe.core_setSq (p : Pipe) (t : Nat) (q : List (QEntry Word)) : (p.setSq t q).core = p.core := by
  unfold Pipe.setSq
  split <;> rfl

@[simp] theorem Pipe.core_pushBq (p : Pipe) (now : Tick) (b : Bool) : (p.pushBq now b).core = p.core := by
  unfold Pipe.pushBq
  split <;> rfl

@[simp] theorem Pipe.core_writeMask (p : Pipe) (now : Tick) (d : Nat) (v on : Word) (fl : FlagSet) :
    (p.writeMask now d v on fl).core = p.core := by
  unfold Pipe.writeMask
  dsimp only
  split <;> rfl

@[simp] theorem Pipe.core_writeElems (p : Pipe) (now : Tick) (lat d : Nat) (m : Word) (w n : Nat) (f : Nat → FRes)
    (x : FlagSet) : (p.writeElems now lat d m w n f x).core = p.core := rfl

@[simp] theorem Pipe.core_popQx (p : Pipe) : p.popQx.core = p.core := rfl
@[simp] theorem Pipe.core_stopStream (p : Pipe) (k : StreamKind) (now : Tick) : (p.stopStream k now).core = p.core := by
  simp [Pipe.stopStream]

/-! ### The frame of a timed word -/

namespace State.Framed

variable {s : State} {i : Instr} {k : StreamKind} {srcs : List RegRef} {chk : List Det}

theorem illegal {n : Nat} : Framed s.curPipe s (s.illegal k n) := by
  unfold State.illegal
  exact onPipe (fun p => by simp)

theorem timedTo {draws : Nat} {nf : Tick} {span : Bool} {eff : State → State} (he : ∀ u, Framed s.curPipe u (eff u)) :
    Framed s.curPipe s (s.timedTo i k srcs chk draws nf span eff) := by
  have h1 : ∀ ds, Framed s.curPipe s (s.setPipe s.curPipe ((s.pipe s.curPipe).detect ds)) := fun ds => setPipe rfl
  have h4 : ∀ u : State, Framed s.curPipe u (u.onPipe s.curPipe (fun p => p.afterWord k nf span)) :=
    fun u => onPipe (fun p => p.core_afterWord ..)
  have h3 : ∀ u : State, Framed s.curPipe u (u.onPipe s.curPipe (fun p => p.drawn draws)) := fun u => onPipe (fun _ => rfl)
  unfold State.timedTo
  split
  · dsimp only
    refine trans ?_ (h4 _)
    have h2 : ∀ (c : Bool) ds, Framed s.curPipe s
        (if c then eff (s.setPipe s.curPipe ((s.pipe s.curPipe).detect ds))
          else s.setPipe s.curPipe ((s.pipe s.curPipe).detect ds)) := by
      intro c ds
      split
      · exact (h1 ds).trans (he _)
      · exact h1 ds
    split
    · exact h2 _ _
    · exact (h2 _ _).trans (h3 _)
  · exact illegal

theorem timed {eff : State → State} (he : ∀ u, Framed s.curPipe u (eff u)) :
    Framed s.curPipe s (s.timed i k srcs chk eff) := timedTo he

theorem timedPipe {eff : Tick → Pipe → Pipe} (he : ∀ now p, (eff now p).core = p.core) :
    Framed s.curPipe s (s.timedPipe i k srcs chk eff) := timed (fun _ => onPipe (he _))

theorem branchWord {taken : Bool} {off : BitVec 19} {eff : Pipe → Pipe} (he : ∀ p, (eff p).core = p.core) :
    Framed s.curPipe s (s.branchWord i k srcs chk taken off eff) := by
  unfold State.branchWord
  dsimp only
  split
  · split
    · exact setPipe (by simp)
    · refine setPipe ?_
      split <;> simp [he]
  · exact illegal

theorem loopWord {len most trips : Nat} {eff : Pipe → Pipe} (he : ∀ p, (eff p).core = p.core) :
    Framed s.curPipe s (s.loopWord i k srcs chk len most trips eff) := by
  unfold State.loopWord
  dsimp only
  split
  · split
    · exact setPipe (by simp [State.me])
    · exact setPipe (by simp [State.me, he])
  · exact illegal

theorem xMode {rm n : Nat} {eff : RMode → Tick → Pipe → Pipe} (he : ∀ r now p, (eff r now p).core = p.core) :
    Framed s.curPipe s (s.xMode i srcs chk rm n eff) := by
  unfold State.xMode
  split
  · exact timed (fun _ => refl)
  · exact timedTo (fun _ => onPipe (he _ _))

theorem hbmWord {src : RegRef} {st o : Nat} {load : Bool} : Framed s.curPipe s (s.hbmWord i k src st o load chk) := by
  have hstop : ∀ {ds : List Det} {now : Tick}, Framed s.curPipe s ((s.timed i k [.st st, src] ds id).onPipe s.curPipe
      (fun p => (p.setSeq k (s.me.seq k)).stopStream k now)) :=
    (timed (fun _ => refl)).trans (onPipe (fun p => by simp))
  unfold State.hbmWord
  dsimp only
  split
  · exact timed (fun _ => refl)
  · split
    · exact timed (fun _ => refl)
    · split
      · refine timedPipe (fun now p => ?_)
        cases load <;> rfl
      · exact hstop
      · exact hstop

theorem sendDrawbar {g : Nat} {east : Bool} {now : Tick} {v : VWord} : Framed g s (s.sendDrawbar g east now v) := by
  refine ⟨?_, s.curPipe_sendDrawbar .., ?_, fun h hh => ?_⟩
  · unfold State.sendDrawbar
    dsimp only
    split <;> rfl
  · rw [State.pipe_sendDrawbar, if_pos rfl]
    rfl
  · rw [State.pipe_sendDrawbar, if_neg hh]
    split <;> rfl

theorem openLay {g d w : Nat} {l : LayDesc} : Framed g s (s.openLay d w l) := by
  unfold State.openLay
  dsimp only
  split <;> exact of_pipes rfl rfl rfl

theorem give {q : BitVec 4} {c : BitVec 6} : Framed s.curPipe s (s.give i k q c) := by
  unfold State.give
  exact timedPipe (fun _ _ => rfl)
theorem take {q : BitVec 4} {c : BitVec 6} : Framed s.curPipe s (s.take i k q c) := by
  unfold State.take
  exact timedPipe (fun _ _ => rfl)


theorem scfg {src : RegRef} {st : Nat} {base : Word} {imm : BitVec 15} : Framed s.curPipe s (s.scfg i k src st base imm) := by
  unfold State.scfg
  refine timedPipe (fun now p => ?_)
  dsimp only
  split <;> rfl

theorem movePos {st : Nat} {f : Desc → Nat → Nat} : Framed s.curPipe s (s.movePos i k st f) := by
  unfold State.movePos
  refine timedPipe (fun now p => ?_)
  dsimp only
  split <;> rfl

theorem tlbp {st : Nat} : Framed s.curPipe s (s.tlbp i k st) := by
  unfold State.tlbp
  refine timedPipe (fun now p => ?_)
  split <;> rfl

theorem sqr {t : Nat} {r : Word → Result} : Framed s.curPipe s (s.sqr i k t r) := by
  unfold State.sqr
  refine timedPipe (fun now p => ?_)
  split <;> simp

theorem toS {d lat : Nat} {v : Word} : Framed s.curPipe s (s.toS i srcs d lat v) := by
  unfold State.toS
  exact timedPipe (fun _ _ => rfl)

theorem toP {d : BitVec 3} {v : Bool} : Framed s.curPipe s (s.toP i srcs chk d v) := by
  unfold State.toP
  exact timedPipe (fun _ _ => rfl)

theorem toA {d : BitVec 4} {v : Word} : Framed s.curPipe s (s.toA i srcs d v) := by
  unfold State.toA
  exact timedPipe (fun _ _ => rfl)

theorem toB {d : BitVec 4} {v : Word} : Framed s.curPipe s (s.toB i srcs d v) := by
  unfold State.toB
  exact timedPipe (fun _ _ => rfl)

theorem vMap {d a b : BitVec 5} {m : BitVec 1} {two : Bool} {w : Nat} {f : Nat → Nat → FRes} :
    Framed s.curPipe s (s.vMap i d a b m two w f) := by
  unfold State.vMap
  exact timedPipe (fun _ _ => rfl)

theorem vLanes {d : BitVec 5} {m : BitVec 1} {f : Pipe → Nat → BitVec 32} :
    Framed s.curPipe s (s.vLanes i srcs chk d m f) := by
  unfold State.vLanes
  exact timedPipe (fun _ _ => rfl)

theorem vArith {d a b : BitVec 5} {f r : BitVec 3} {x m : BitVec 1} {three : Bool} {op : XVal → XVal → XVal → Bool → XRes} :
    Framed s.curPipe s (s.vArith i d a b f r x m three op) := by
  unfold State.vArith
  exact xMode (fun _ _ _ => rfl)

end State.Framed

/-! ### Every timed word -/

/-- What a word leaves, where it leaves a state, is its state but for what a timed word may change. -/
def OutFramed (s : State) (o : Out) : Prop := ∀ t, o = .next t → State.Framed s.curPipe s t

theorem outFramed_next {s t : State} (h : State.Framed s.curPipe s t) : OutFramed s (.next t) := by
  rintro u hu
  cases hu
  exact h

theorem execCall_framed (s : State) (w : BitVec 3) (n : BitVec 19) : OutFramed s (execCall w n s) := by
  unfold execCall
  dsimp only
  split
  · exact outFramed_next .illegal
  · exact outFramed_next (.setPipe (by rw [Pipe.core_jump]; rfl))

theorem execRet_framed (s : State) (w : BitVec 3) : OutFramed s (execRet w s) := by
  unfold execRet
  dsimp only
  split
  · exact outFramed_next .illegal
  · split
    · exact outFramed_next .illegal
    · exact outFramed_next (.setPipe (by rw [Pipe.core_jump]; rfl))

theorem execStage_framed (s : State) (w : BitVec 3) (n : BitVec 23) : OutFramed s (execStage w n s) := by
  unfold execStage
  refine outFramed_next (State.Framed.trans (.timedPipe ?_) (.onPipe ?_))
  · exact fun _ _ => rfl
  · exact fun _ => rfl

theorem execWopen_framed (s : State) (w : BitVec 3) (l : BitVec 6) : OutFramed s (execWopen w l s) := by
  unfold execWopen
  refine outFramed_next (.timed (fun u => .ite .refl ?_))
  split
  · exact .refl
  · exact .openLay

theorem execWclose_framed (s : State) (w : BitVec 3) (l : BitVec 6) : OutFramed s (execWclose w l s) := by
  unfold execWclose
  refine outFramed_next (.timed (fun u => ?_))
  split
  · exact .refl
  · exact .of_pipes rfl rfl rfl

theorem execMark_framed (s : State) (w : BitVec 3) (n : BitVec 23) : OutFramed s (execMark w n s) := by
  unfold execMark
  refine outFramed_next (.timedPipe (fun now p => ?_))
  dsimp only
  split <;> rfl

theorem execMgo_framed (s : State) (w : BitVec 3) : OutFramed s (execMgo w s) := by
  unfold execMgo
  refine outFramed_next (.timedPipe (fun now p => ?_))
  split <;> rfl

theorem execLdq_framed (s : State) (w q : BitVec 3) (st : BitVec 4) : OutFramed s (execLdq w q st s) := by
  unfold execLdq
  dsimp only
  split
  · exact outFramed_next (.timed (fun _ => .refl))
  · exact outFramed_next (.timedPipe (fun _ _ => rfl))

theorem execGath_framed (s : State) (w : BitVec 3) (st a : BitVec 4) (n : BitVec 15) : OutFramed s (execGath w st a n s) := by
  unfold execGath
  dsimp only
  split
  · exact outFramed_next (.timed (fun _ => .refl))
  · exact outFramed_next (.timedPipe (fun _ _ => rfl))

theorem execStq_framed (s : State) (w q : BitVec 3) (st f : BitVec 4) (r : BitVec 3) (x : BitVec 1) (h : BitVec 2)
    (c : BitVec 1) : OutFramed s (execStq w q st f r x h c s) := by
  unfold execStq
  dsimp only
  split
  · exact outFramed_next (.timedTo (fun _ => .onPipe (fun _ => rfl)))
  · exact outFramed_next (.timed (fun _ => .refl))

/-- A relay word changes its own pipeline, the words on their way and its die's channels. -/
theorem execSend_framed (s : State) (w q : BitVec 3) (b : BitVec 4) : OutFramed s (execSend w q b s) := by
  unfold execSend
  refine outFramed_next (.timed (fun u => ?_))
  have hp : State.Framed s.curPipe u (u.onPipe s.curPipe (fun p => (p.popDq q.toNat).note s.atk 4 .s
      (bitsOf (s.me.breg b.toNat) 31 0))) := .onPipe (fun _ => rfl)
  exact hp.trans (.of_pipes rfl rfl rfl)

theorem execMcast_framed (s : State) (w q : BitVec 3) (g b : BitVec 4) : OutFramed s (execMcast w q g b s) := by
  unfold execMcast
  refine outFramed_next (.timed (fun u => ?_))
  have hp : State.Framed s.curPipe u (u.onPipe s.curPipe (fun p => (p.popDq q.toNat).note s.atk 4 .s
      (bitsOf (s.me.breg b.toNat) 31 0))) := .onPipe (fun _ => rfl)
  exact hp.trans (.of_pipes rfl rfl rfl)

theorem execVred_framed (s : State) (w : BitVec 3) (d a o : BitVec 5) (f r : BitVec 3) (m : BitVec 1) :
    OutFramed s (execVred w d a o f r m s) := by
  unfold execVred
  dsimp only
  split
  · exact outFramed_next (.timed (fun _ => .refl))
  · exact outFramed_next (.timedPipe (fun _ _ => rfl))

theorem execVdrw_framed (s : State) (w : BitVec 3) (d : BitVec 5) (x f : BitVec 1) : OutFramed s (execVdrw w d x f s) := by
  unfold execVdrw
  refine outFramed_next (.timed (fun u => ?_))
  have hp : State.Framed s.curPipe u (u.onPipe s.curPipe (fun p => (p.popDrawbar (decide (x = 0))).produce .x s.atk 2
      (.vreg d.toNat ((s.me.drawbar (decide (x = 0))).headD 0) (-1)) 0)) :=
    .onPipe (fun p => by cases decide (x = 0) <;> rfl)
  dsimp only
  split
  · exact hp.trans .sendDrawbar
  · exact hp

theorem execVmsk_framed (s : State) (w d a b : BitVec 3) (f : BitVec 4) : OutFramed s (execVmsk w d a b f s) := by
  unfold execVmsk
  refine outFramed_next (.timedPipe (fun now p => ?_))
  dsimp only
  split <;> simp

theorem execAccst_framed (s : State) (w : BitVec 3) (q : BitVec 1) (r : BitVec 12) (f o : BitVec 3) (x : BitVec 1) :
    OutFramed s (execAccst w q r f o x s) := by
  unfold execAccst
  dsimp only
  split
  · exact outFramed_next (.timed (fun _ => .refl))
  · exact outFramed_next (.timedTo (fun _ => .onPipe (fun _ => rfl)))

theorem execXbr_framed (s : State) (w : BitVec 3) (n : BitVec 1) (o : BitVec 19) : OutFramed s (execXbr w n o s) := by
  unfold execXbr
  split
  · exact outFramed_next (.branchWord (fun _ => rfl))
  · exact outFramed_next (.timed (fun _ => .refl))

theorem popOrKeep_core (p : Pipe) (c : Bool) : (if c then p.popQx else p).core = p.core := by
  cases c <;> rfl

theorem execXloop_framed (s : State) (w : BitVec 3) (l m : BitVec 9) : OutFramed s (execXloop w l m s) := by
  unfold execXloop
  split
  · exact outFramed_next (.timed (fun _ => .refl))
  · exact outFramed_next (.loopWord (fun p => popOrKeep_core p _))

/-- Every timed word is framed. -/
theorem exec_framed (i : Instr) (hi : i.stream ≠ .gig) (s : State) : OutFramed s (exec i s) := by
  cases i with
  | idle => exact outFramed_next (.timedTo (fun _ => .refl))
  | add | sub | and | or | xor | shl | shr | sra | mul | mulh | mulhu | min | max | minu | maxu
  | addi | andi | ori | xori | shli | shri | srai | li | lui | sel => exact outFramed_next .toS
  | cmp | cmpi | postv => exact outFramed_next .toP
  | aadd | aaddi | ali => exact outFramed_next .toA
  | badd | baddi | bli => exact outFramed_next .toB
  | vmax | vmin | vabs | vneg | viadd | vimul => exact outFramed_next .vMap
  | vsel | vand | vor | vxor | vshl | vshr | vperm | vspl | vldi => exact outFramed_next .vLanes
  | postrd | lds | sts | nest | csrr | csrw | tick | halt | ldcb | ldcm | rmw | hclr | hsnap | vsplQ | vpop | vpush
  | accrd | accwr | accz =>
    refine outFramed_next (.timedPipe ?_)
    exact fun _ _ => rfl
  | sqw =>
    refine outFramed_next (.timedPipe ?_)
    exact fun _ _ => Pipe.core_setSq ..
  | bqw =>
    refine outFramed_next (.timedPipe ?_)
    exact fun _ _ => Pipe.core_pushBq ..
  | vcmp =>
    refine outFramed_next (.timedPipe ?_)
    exact fun _ _ => Pipe.core_writeMask ..
  | br =>
    refine outFramed_next (.branchWord ?_)
    exact fun _ => rfl
  | brp =>
    refine outFramed_next (.branchWord ?_)
    exact fun _ => Pipe.core_pushBq ..
  | loop =>
    refine outFramed_next (.loopWord ?_)
    exact fun _ => rfl
  | lspan | xlspan | vrng =>
    refine outFramed_next (.timedTo (fun _ => .onPipe ?_))
    exact fun _ => rfl
  | call w n => exact execCall_framed s w n
  | ret w => exact execRet_framed s w
  | cGive | lGive | sGive | xGive => exact outFramed_next .give
  | cTake | lTake | sTake | xTake => exact outFramed_next .take
  | align => exact outFramed_next (.timed (fun _ => .of_pipes rfl rfl rfl))
  | stage => exact execStage_framed _ _ _
  | wopen => exact execWopen_framed _ _ _
  | wclose => exact execWclose_framed _ _ _
  | mgo => exact execMgo_framed _ _
  | mark => exact execMark_framed _ _ _
  | trapc | freeze => exact outFramed_next (.timed (fun _ => .refl))
  | lScfg | sScfg => exact outFramed_next .scfg
  | lSadv | sSadv | bout => exact outFramed_next .movePos
  | lTlbp | sTlbp => exact outFramed_next .tlbp
  | lSqr | sSqr => exact outFramed_next .sqr
  | ldq => exact execLdq_framed _ _ _ _
  | gath => exact execGath_framed _ _ _ _ _
  | hld | hst => exact outFramed_next .hbmWord
  | stq => exact execStq_framed _ _ _ _ _ _ _ _ _
  | send => exact execSend_framed _ _ _ _
  | mcast => exact execMcast_framed _ _ _ _ _
  | vadd | vsub | vmul | vfma | vfms => exact outFramed_next .vArith
  | vcvt | vtab | vrope | vscl =>
    refine outFramed_next (.xMode ?_)
    exact fun _ _ _ => rfl
  | vred => exact execVred_framed _ _ _ _ _ _ _ _
  | vdwr => exact outFramed_next (.timed (fun _ => .sendDrawbar))
  | vdrw => exact execVdrw_framed _ _ _ _ _
  | vmsk => exact execVmsk_framed _ _ _ _ _ _
  | accst => exact execAccst_framed _ _ _ _ _ _ _
  | xbr => exact execXbr_framed _ _ _ _
  | xloop => exact execXloop_framed _ _ _ _
  | _ => exact absurd rfl hi

/-- Settles O26. -/
theorem timedWordsFrame : Obligations.TimedWordsFrame := by
  intro s t i hi ht
  obtain ⟨hb, hc, hcore, hothers⟩ := exec_framed i hi s t ht
  refine ⟨?_, ?_, hothers⟩
  · simpa only [State.beyond, Prod.mk.injEq, and_assoc] using hb
  · have hme : t.me = t.pipe s.curPipe := congrArg t.pipe hc
    rw [hme]
    simpa only [State.me, Pipe.core, Prod.mk.injEq, and_assoc] using hcore

end Sys2Proof.Machine
end

section
/-! Integer instructions, branches and jumps of a gig thread (O27, O28). -/
namespace Sys2Proof.Machine

/-! ### A change of the acting thread -/

/-- A change of the acting thread is its change of the thread as it stands. -/
theorem State.onMe_congr (s : State) {f g : Thread → Thread} (h : f s.th = g s.th) : s.onMe f = s.onMe g := by
  unfold State.th State.thread at h
  unfold State.onMe State.onThread
  cases hx : s.slotOf s.curThread with
  | none => rfl
  | some x =>
    rw [hx] at h
    simp only [State.ctx] at h
    simp only [State.onCtx, State.onCoach, Context.onThread, h]

theorem State.ctx_onCtx (s : State) (c x d y : Nat) (f : Context → Context) :
    (s.onCtx c x f).ctx d y = if d = c ∧ y = x then f (s.ctx c x) else s.ctx d y := by
  unfold State.onCtx State.ctx
  by_cases hd : d = c
  · subst hd
    by_cases hy : y = x <;> simp [SMap.get_set, hy]
  · simp [hd]

theorem State.run_onCtx (s : State) (c x d : Nat) (f : Context → Context) :
    ((s.onCtx c x f).coach d).run = (s.coach d).run := by
  unfold State.onCtx
  by_cases hd : d = c <;> simp [hd]

theorem State.thread_onThread (s : State) (t u : Nat) (f : Thread → Thread) (h : u ≠ t) :
    (s.onThread t f).thread u = s.thread u := by
  unfold State.onThread
  cases hx : s.slotOf t with
  | none => rfl
  | some x =>
    have hslot : (s.onCtx (coachOf t) x (fun c => c.onThread (localOf t) f)).slotOf u = s.slotOf u := State.run_onCtx ..
    simp only [State.thread, hslot]
    cases s.slotOf u with
    | none => rfl
    | some y =>
      simp only [State.ctx_onCtx]
      split
      · rename_i hc
        obtain ⟨hcoach, rfl⟩ := hc
        have hloc : localOf u ≠ localOf t := by
          unfold coachOf at hcoach
          unfold localOf
          omega
        simp [Context.onThread, SMap.get_set, hloc, hcoach]
      · rfl

theorem threadChangeFrame : Claims.ThreadChangeFrame := by
  intro s f
  refine ⟨fun t ht => s.thread_onThread _ _ f ht, ?_⟩
  unfold State.onMe State.onThread
  split <;> exact ⟨rfl, rfl, rfl, rfl, rfl, rfl, rfl, fun _ => rfl⟩

/-! ### Instructions that write a d register -/

theorem State.toD_ready (s : State) (i : Instr) (srcs : List Nat) (d : Nat) (f : Thread → Word) (v : Word)
    (hw : i.wellFormed = true) (hr : s.gigReady srcs false = true) (hv : f s.th = v) :
    s.toD i srcs d f = s.onMe (fun th => (th.setD d v).next) := by
  rw [State.toD, State.gigInstr_ready _ _ _ _ _ hw hr]
  exact s.onMe_congr (by rw [hv])

theorem State.toLateD_ready (s : State) (i : Instr) (srcs : List Nat) (d lat : Nat) (f : Thread → Word) (v : Word)
    (hw : i.wellFormed = true) (hr : s.gigReady srcs false = true) (hv : f s.th = v) :
    s.toLateD i srcs d lat f =
      s.onMe (fun th => (th.setLate d v (s.cycle (dieOf s.curThread)).toNat lat 0).next) := by
  rw [State.toLateD, State.gigInstr_ready _ _ _ _ _ hw hr, State.lateD]
  exact s.onMe_congr (by rw [hv])

theorem gigQuot_eq (a b : Word) :
    gigQuot a b = if b = 0 then -1 else BitVec.ofInt 64 (a.toInt.tdiv b.toInt) := by
  unfold gigQuot
  split
  · rfl
  · exact BitVec.eq_of_toInt_eq (by rw [BitVec.toInt_sdiv, BitVec.toInt_ofInt])

theorem gigRest_eq (a b : Word) : gigRest a b = if b = 0 then a else BitVec.ofInt 64 (a.toInt.tmod b.toInt) := by
  unfold gigRest
  split
  · rfl
  · rw [← BitVec.toInt_srem, BitVec.ofInt_toInt]

theorem gigQuotU_eq (a b : Word) : gigQuotU a b = if b = 0 then -1 else BitVec.ofNat 64 (a.toNat / b.toNat) := by
  unfold gigQuotU
  split
  · rfl
  · rw [← BitVec.toNat_udiv, BitVec.ofNat_toNat, BitVec.setWidth_eq]

theorem gigRestU_eq (a b : Word) : gigRestU a b = if b = 0 then a else BitVec.ofNat 64 (a.toNat % b.toNat) := by
  unfold gigRestU
  split
  · rfl
  · rw [← BitVec.toNat_umod, BitVec.ofNat_toNat, BitVec.setWidth_eq]

theorem slt_signExtend (a : Word) (k : BitVec 16) : a.slt (k.signExtend 64) = decide (a.toInt < k.toInt) := by
  rw [BitVec.slt_eq_decide, BitVec.toInt_signExtend_of_le (by omega)]

/-- What an integer instruction leaves of its thread. -/
def integerThread (i : Instr) (now d : Nat) (v : Word) (th : Thread) : Thread :=
  (if Claims.gigLatency i = 0 then th.setD d v else th.setLate d v now (Claims.gigLatency i) 0).next

/-- Every integer instruction of a ready thread has its effect, and none else. -/
theorem exec_integer (s : State) (i : Instr) (d : Nat) (srcs : List Nat) (v : Word)
    (h : Claims.gigResult s i = some (d, srcs, v)) (hw : i.wellFormed = true) (hr : s.gigReady srcs false = true) :
    exec i s = .next (s.onMe (integerThread i (s.cycle (dieOf s.curThread)).toNat d v)) := by
  unfold Claims.gigResult at h
  split at h
  case h_12 =>
    cases h
    exact congrArg Host.Outcome.next (s.toLateD_ready _ _ _ _ _ _ hw hr (gigQuot_eq _ _))
  case h_13 =>
    cases h
    exact congrArg Host.Outcome.next (s.toLateD_ready _ _ _ _ _ _ hw hr (gigQuotU_eq _ _))
  case h_14 =>
    cases h
    exact congrArg Host.Outcome.next (s.toLateD_ready _ _ _ _ _ _ hw hr (gigRest_eq _ _))
  case h_15 =>
    cases h
    exact congrArg Host.Outcome.next (s.toLateD_ready _ _ _ _ _ _ hw hr (gigRestU_eq _ _))
  case h_18 =>
    cases h
    exact congrArg Host.Outcome.next (s.toD_ready _ _ _ _ _ hw hr (minS_eq _ _))
  case h_19 =>
    cases h
    exact congrArg Host.Outcome.next (s.toD_ready _ _ _ _ _ hw hr (maxS_eq _ _))
  case h_20 =>
    cases h
    exact congrArg Host.Outcome.next (s.toD_ready _ _ _ _ _ hw hr (minU_eq _ _))
  case h_21 =>
    cases h
    exact congrArg Host.Outcome.next (s.toD_ready _ _ _ _ _ hw hr (maxU_eq _ _))
  case h_32 =>
    cases h
    exact congrArg Host.Outcome.next (s.toD_ready _ _ _ _ _ hw hr (congrArg bit64 (slt_signExtend _ _)))
  case h_36 => cases h
  all_goals
    cases h
    exact congrArg Host.Outcome.next (s.toD_ready _ _ _ _ _ hw hr rfl)

theorem gigIntegers : Claims.GigIntegers := by
  intro s i d srcs v h hw hr
  have hs := s.slotOf_of_ready srcs false hr
  refine ⟨_, exec_integer s i d srcs v h hw hr, rfl, ?_⟩
  rw [s.th_onMe _ hs]
  unfold integerThread
  refine ⟨fun n => ?_, ?_, ?_, ?_, ?_⟩
  · have hd : (s.th.setD d v).d n = if n = d ∧ n ≠ 0 then v else s.th.d n := by
      rw [Thread.d_setD]
      by_cases hn : n = d <;> simp [hn]
    split <;> exact hd
  all_goals split <;> simp

/-- Settles O27. -/
theorem gigIntegerCompletes : Obligations.GigIntegerCompletes := ⟨gigIntegers, threadChangeFrame⟩

/-! ### Branches and jumps -/

/-- What a branch or jump does, taken or not. -/
def State.branchOutcome (s : State) (taken : Bool) (target : Word) (link : Option Nat) : State :=
  if taken then s.gigJump target link else s.onMe Thread.next

theorem State.gigBranch_ready (s : State) (i : Instr) (a b : BitVec 5) (off : BitVec 16) (c : Word → Word → Bool)
    (taken : Bool) (hw : i.wellFormed = true) (hr : s.gigReady [a.toNat, b.toNat] false = true)
    (hc : c (s.th.d a.toNat) (s.th.d b.toNat) = taken) :
    s.gigBranch i a b off c = s.branchOutcome taken (s.relTarget (off.signExtend 64)) none := by
  rw [State.gigBranch, State.gigInstr_ready _ _ _ _ _ hw hr, hc]
  rfl

theorem exec_branch (s : State) (i : Instr) (srcs : List Nat) (taken : Bool) (target : Word) (link : Option Nat)
    (h : Claims.gigBranch s i = some (srcs, taken, target, link)) (hw : i.wellFormed = true)
    (hr : s.gigReady srcs false = true) : exec i s = .next (s.branchOutcome taken target link) := by
  unfold Claims.gigBranch at h
  split at h
  case h_1 =>
    cases h
    exact congrArg Host.Outcome.next (s.gigBranch_ready _ _ _ _ _ _ hw hr (Bool.beq_eq_decide_eq _ _))
  case h_2 =>
    cases h
    exact congrArg Host.Outcome.next (s.gigBranch_ready _ _ _ _ _ _ hw hr
      ((congrArg (!·) (Bool.beq_eq_decide_eq _ _)).trans (decide_not).symm))
  case h_3 | h_5 =>
    cases h
    exact congrArg Host.Outcome.next (s.gigBranch_ready _ _ _ _ _ _ hw hr rfl)
  case h_4 | h_6 =>
    cases h
    exact congrArg Host.Outcome.next (s.gigBranch_ready _ _ _ _ _ _ hw hr decide_not.symm)
  case h_7 =>
    cases h
    exact congrArg Host.Outcome.next (s.gigInstr_ready _ _ _ _ hw hr)
  case h_8 =>
    cases h
    exact congrArg Host.Outcome.next (s.gigInstr_ready _ _ _ _ hw hr)
  case h_9 => cases h

theorem State.gigJump_range (s : State) (target : Word) (link : Option Nat) (h : 2 ^ 49 ≤ target.toNat) :
    s.gigJump target link = s.trapMe 0x04 5 target := by
  rw [State.gigJump, if_pos h]
  rfl

theorem State.gigJump_misalign (s : State) (target : Word) (link : Option Nat) (h : target.toNat < 2 ^ 49)
    (hm : target.toNat % 4 ≠ 0) : s.gigJump target link = s.trapMe 0x02 0 target := by
  rw [State.gigJump, if_neg (Nat.not_le.2 h), if_pos hm]
  rfl

/-- A road book entry changes gigs and, where the book is written out, memory. -/
theorem State.noteGig_eq (s : State) (t kind addr data : Nat) : ∃ (gs : SMap Gig) (m : Memory) (b : List Nat),
    s.noteGig t kind addr data = { s with gigs := gs, mem := m, bad := b } := by
  unfold State.noteGig State.flushBook
  dsimp only
  split
  · exact ⟨_, _, _, rfl⟩
  · exact ⟨_, _, _, rfl⟩

theorem State.th_noteGig (s : State) (t kind addr data : Nat) : (s.noteGig t kind addr data).th = s.th := by
  obtain ⟨gs, m, b, h⟩ := s.noteGig_eq t kind addr data
  rw [h]
  rfl

theorem State.slotOf_noteGig (s : State) (t kind addr data u : Nat) :
    (s.noteGig t kind addr data).slotOf u = s.slotOf u := by
  obtain ⟨gs, m, b, h⟩ := s.noteGig_eq t kind addr data
  rw [h]
  rfl

theorem State.curThread_noteGig (s : State) (t kind addr data : Nat) :
    (s.noteGig t kind addr data).curThread = s.curThread := by
  obtain ⟨gs, m, b, h⟩ := s.noteGig_eq t kind addr data
  rw [h]

/-- The thread that has jumped. -/
def Thread.jumped (th : Thread) (pc target : Nat) (link : Option Nat) : Thread :=
  { (match link with
      | some d => th.setD d (BitVec.ofNat 64 (pc + 4))
      | none => th) with pc := target }

theorem State.th_gigJump (s : State) (target : Word) (link : Option Nat) (hs : (s.slotOf s.curThread).isSome)
    (h : target.toNat < 2 ^ 49) (hm : target.toNat % 4 = 0) :
    (s.gigJump target link).th = s.th.jumped s.th.pc target.toNat link := by
  rw [State.gigJump, if_neg (Nat.not_le.2 h), if_neg (Classical.not_not.2 hm)]
  dsimp only
  rw [State.th_onMe _ _ (by rw [s.curThread_noteGig, s.slotOf_noteGig]; exact hs), s.th_noteGig]
  rfl

theorem Thread.jumped_fields (th : Thread) (pc target : Nat) (link : Option Nat) :
    (th.jumped pc target link).pc = target ∧
      (∀ n, (th.jumped pc target link).d n = if link = some n ∧ n ≠ 0 then BitVec.ofNat 64 (pc + 4) else th.d n) ∧
      (th.jumped pc target link).fflags = th.fflags ∧ (th.jumped pc target link).trap = th.trap ∧
      (th.jumped pc target link).level = th.level := by
  cases link with
  | none => exact ⟨rfl, fun n => by rw [if_neg (by simp)]; rfl, rfl, rfl, rfl⟩
  | some d =>
    refine ⟨rfl, fun n => ?_, Thread.setD_fflags .., Thread.setD_trap .., Thread.setD_level ..⟩
    refine (th.d_setD d n (BitVec.ofNat 64 (pc + 4))).trans ?_
    by_cases hn : n = d
    · simp [hn]
    · simp [hn, Ne.symm hn]

/-- Settles O28. -/
theorem gigBranchesComplete : Obligations.GigBranchesComplete := by
  intro s i srcs taken target link h hw hr
  have hx := exec_branch s i srcs taken target link h hw hr
  refine ⟨fun ht => ?_, fun ht hlt hm => ?_, fun ht hle => ?_, fun ht hlt hm => ?_⟩
  · subst ht
    exact hx
  · subst ht
    refine ⟨_, hx, ?_⟩
    change (s.gigJump target link).th.pc = _ ∧ _
    have hth := s.th_gigJump target link (s.slotOf_of_ready srcs false hr) hlt hm
    have hf := s.th.jumped_fields s.th.pc target.toNat link
    rw [← hth] at hf
    exact hf
  · subst ht
    exact hx.trans (congrArg Host.Outcome.next (s.gigJump_range target link hle))
  · subst ht
    exact hx.trans (congrArg Host.Outcome.next (s.gigJump_misalign target link hlt hm))

end Sys2Proof.Machine
end

section
/-! Loads, stores and atomics of a gig as they issue (O29), and the accesses of units beyond the gig (O31). -/
namespace Sys2Proof.Machine

/-! ### The issue of an access -/

/-- The operation is an atomic. -/
def AccOp.atomic (o : AccOp) : Bool := match o with | .amo .. => true | _ => false

section
variable (s : State) (cls va size : Nat) (op : AccOp) (dest : Option Nat)

theorem State.issueAcc_range (h : 2 ^ 49 ≤ va) :
    s.issueAcc cls va size op dest = s.trapMe trapAccess subRange (BitVec.ofNat 64 va) := by
  unfold State.issueAcc
  exact if_pos h

theorem State.issueAcc_misalign (h : va < 2 ^ 49) (hm : va % size ≠ 0) :
    s.issueAcc cls va size op dest = s.trapMe trapMisalign 0 (BitVec.ofNat 64 va) := by
  unfold State.issueAcc
  exact (if_neg (Nat.not_le.2 h)).trans (if_pos hm)

theorem State.issueAcc_paged (h : va < windowBase) (hm : va % size = 0) :
    s.issueAcc cls va size op dest = (if op.atomic then s.noteGig s.curThread 4 s.th.pc va else s).onMe
      (fun th => th.push cls va op dest .paged) := by
  have hr : ¬ 2 ^ 49 ≤ va := by
    unfold windowBase at h
    omega
  unfold State.issueAcc
  dsimp only
  rw [if_neg hr, if_neg (Classical.not_not.2 hm), if_pos h]
  rfl

/-- An atomic on the tensor SRAM window. -/
theorem State.issueAcc_tensor_atomic (h : windowBase ≤ va) (h' : va < windowBase + 2 ^ 32) (hm : va % size = 0)
    (ho : op.atomic = true) : s.issueAcc cls va size op dest = s.trapMe trapAccess subUnsup (BitVec.ofNat 64 va) := by
  have hr : ¬ 2 ^ 49 ≤ va := by
    unfold windowBase at h'
    omega
  unfold State.issueAcc
  dsimp only
  rw [if_neg hr, if_neg (Classical.not_not.2 hm), if_neg (Nat.not_lt.2 h), if_pos h']
  exact if_pos ho

theorem State.issueAcc_near (h : nearBase ≤ va) (h' : va < 2 ^ 49) (hm : va % size = 0) :
    s.issueAcc cls va size op dest = (s.noteGig s.curThread 4 s.th.pc va).onMe (fun th =>
      th.push cls va op dest (.near (coachOf s.curThread * 8 + (va - nearBase) / 2 ^ 19) ((va - nearBase) % 2 ^ 19))) := by
  have hw : ¬ va < windowBase ∧ ¬ va < windowBase + 2 ^ 32 ∧ ¬ (eventBase ≤ va ∧ va < eventBase + 0x1000) := by
    unfold nearBase at h
    unfold windowBase eventBase
    omega
  obtain ⟨h1, h2, h3⟩ := hw
  unfold State.issueAcc
  dsimp only
  rw [if_neg (Nat.not_le.2 h'), if_neg (Classical.not_not.2 hm), if_neg h1, if_neg h2, if_neg h3, if_pos h]

end

/-! ### Loads, stores and atomics -/

/-- Every load, store and atomic of a ready thread issues its access. -/
theorem exec_access (s : State) (i : Instr) (a : Claims.AccessForm) (h : Claims.gigAccess s i = some a)
    (hw : i.wellFormed = true) (hr : s.gigReady a.srcs false = true) :
    exec i s = .next (s.issueAcc a.cls a.va a.size a.op a.dest) ∧ a.op.atomic = a.amo := by
  unfold Claims.gigAccess at h
  split at h
  case h_22 => cases h
  all_goals
    cases h
    exact ⟨congrArg Host.Outcome.next (s.gigInstr_ready _ _ _ _ hw hr), rfl⟩

theorem gigAccessIssue : Claims.GigAccessIssue := by
  intro s i a h hw hr hm
  obtain ⟨hx, ho⟩ := exec_access s i a h hw hr
  refine ⟨fun hlt => ?_, fun hle hlt => ?_⟩
  · rw [hx, s.issueAcc_paged _ _ _ _ _ hlt hm, ho]
  · rw [hx, s.issueAcc_near _ _ _ _ _ hle hlt hm]
    rfl

theorem gigAccessChecks : Claims.GigAccessChecks := by
  intro s i a h hw hr
  obtain ⟨hx, ho⟩ := exec_access s i a h hw hr
  refine ⟨fun hle => ?_, fun hlt hm => ?_, fun ha hm hle hlt => ?_⟩
  · rw [hx, s.issueAcc_range _ _ _ _ _ hle]
    rfl
  · rw [hx, s.issueAcc_misalign _ _ _ _ _ hlt hm]
    rfl
  · rw [hx, s.issueAcc_tensor_atomic _ _ _ _ _ hle hlt hm (ho.trans ha)]
    rfl

/-- Settles O29. -/
theorem gigAccessesIssue : Obligations.GigAccessesIssue := ⟨gigAccessIssue, gigAccessChecks⟩

/-! ### Accesses of a unit -/

theorem ownOffset_of_ownBytes {t n va : Nat} (h : Claims.ownBytes t n va) :
    ownOffset t 8 n va = .ok ((va - nearBase) % 2 ^ 19) := by
  obtain ⟨ha, hlo, hhi, hg, hn⟩ := h
  have hin : ¬ (va < nearBase ∨ 2 ^ 49 ≤ va) := by
    unfold nearBase
    omega
  unfold ownOffset
  rw [if_neg (Classical.not_not.2 ha), if_neg hin]
  exact if_pos ⟨hg, hn⟩

theorem State.withOwn_ownBytes (s : State) {n : Nat} {va : Word} (f : Nat → State)
    (h : Claims.ownBytes s.curThread n va.toNat) : s.withOwn 8 n va f = f ((va.toNat - nearBase) % 2 ^ 19) := by
  rw [State.withOwn, ownOffset_of_ownBytes h]

theorem State.liveryInstr_ready (s : State) (i : Instr) (srcs : List Nat) (op : Nat) (d : Option Nat) (a b : Nat) (nf : Bool)
    (v : Word) (hv : s.th.d b = v) (hw : i.wellFormed = true) (hr : s.gigReady srcs false = true) :
    s.liveryInstr i srcs op d a b nf = s.onMe (fun th =>
      th.push 15 (s.th.d a).toNat (.livery op (s.th.d a) v nf) d (.livery ((s.th.d a).toNat % 8))) := by
  rw [State.liveryInstr, State.gigInstr_ready _ _ _ _ _ hw hr]
  exact s.onMe_congr (by rw [hv])

/-- Every access of a unit of a ready thread enters flight. -/
theorem exec_unitAccess (s : State) (i : Instr) (srcs : List Nat) (cls va : Nat) (op : AccOp) (dest : Option Nat) (k : Target)
    (h : Claims.unitAccess s i = some (srcs, cls, va, op, dest, k)) (hw : i.wellFormed = true)
    (hr : s.gigReady srcs false = true) : exec i s = .next (s.onMe (fun th => th.push cls va op dest k)) := by
  unfold Claims.unitAccess at h
  split at h
  case h_1 | h_2 | h_3 | h_4 | h_5 =>
    cases h
    exact congrArg Host.Outcome.next (s.liveryInstr_ready _ _ _ _ _ _ _ _ rfl hw hr)
  case h_6 a b =>
    dsimp only at h
    split at h
    · rename_i hle
      cases h
      change execCntadd a b s = _
      rw [execCntadd, State.gigInstr_ready _ _ _ _ _ hw hr]
      dsimp only
      rw [if_neg (Nat.not_lt.2 hle)]
      exact congrArg Host.Outcome.next (s.onMe_congr rfl)
    · cases h
  case h_7 a b n =>
    dsimp only at h
    split at h
    · rename_i hle
      obtain ⟨hle, hown⟩ := hle
      cases h
      change execCntsnap a b n s = _
      rw [execCntsnap, State.gigInstr_ready _ _ _ _ _ hw hr]
      dsimp only
      rw [if_neg (by omega), if_neg (by omega), s.withOwn_ownBytes _ hown]
      exact congrArg Host.Outcome.next (s.onMe_congr rfl)
    · cases h
  case h_8 d a b n =>
    dsimp only at h
    split at h
    · rename_i hown
      cases h
      change execHsift d a b n s = _
      rw [execHsift, State.gigInstr_ready _ _ _ _ _ hw hr]
      rw [s.withOwn_ownBytes _ hown]
      exact congrArg Host.Outcome.next (s.onMe_congr rfl)
    · cases h
  case h_9 => cases h

theorem exec_post (s : State) (d a b : BitVec 5) (slot : BitVec 6) (hr : s.gigReady [a.toNat, b.toNat] false = true)
    (h1 : bitsOf (s.th.d a.toNat) 63 12 = 0) (h2 : bitsOf (s.th.d a.toNat) 7 6 = 0)
    (hd : (s.part (s.partOfThread s.curThread)).hasDie (bitsOf (s.th.d a.toNat) 11 8) = true) :
    execPost d a b slot s = .next (s.onMe (fun th => th.push (16 + th.nextId) 0 (.post (bitsOf (s.th.d a.toNat) 11 8)
      (bitsOf (s.th.d a.toNat) 5 0) slot.toNat (s.th.d b.toNat)) (some d.toNat) .plane)) := by
  rw [execPost, State.gigInstr_ready _ _ _ _ _ rfl hr]
  dsimp only
  rw [if_neg (by simp [h1, h2, hd])]
  rfl

/-- The thread after a FENCE. -/
def Thread.fence (th : Thread) (sc : BitVec 5) (m : BitVec 16) : Thread :=
  { th with pend := if th.pend.isEmpty then [] else th.pend ++ [.fence sc.toNat m], pc := th.pc + 4 }

theorem exec_fence (s : State) (sc : BitVec 5) (m : BitVec 16) (hw : (Instr.fence sc m).wellFormed = true)
    (hr : s.gigReady [] false = true) : execFence sc m s = .next (s.onMe (fun th => th.fence sc m)) := by
  rw [execFence, State.gigInstr_ready _ _ _ _ _ hw hr]
  rfl

/-- Settles O31. -/
theorem unitAccessesIssue : Obligations.UnitAccessesIssue := by
  intro s d a b slot sc m
  refine ⟨fun i srcs cls va op dest k => exec_unitAccess s i srcs cls va op dest k, ?_, fun hw hr => ?_⟩
  · rintro v rfl hr h1 h2 hd
    exact exec_post s d a b slot hr h1 h2 hd
  · refine ⟨_, exec_fence s sc m hw hr, ?_⟩
    rw [s.th_onMe _ (s.slotOf_of_ready _ _ hr)]
    refine ⟨rfl, rfl, ?_⟩
    simp only [Thread.fence, List.isEmpty_iff]

end Sys2Proof.Machine
end

section
/-! Floating-point instructions of a gig (O32). -/
namespace Sys2Proof.Machine

theorem State.fpuD_congr (s : State) (d lat : Nat) {f : Thread → Word × FlagSet} {v : Word × FlagSet} (h : f s.th = v) :
    s.fpuD d lat f = s.fpuD d lat (fun _ => v) := by
  subst h
  exact s.onMe_congr rfl

theorem State.fpu_ready (s : State) (i : Instr) (srcs : List Nat) (d lat : Nat) (r : BitVec 3)
    (f : RMode → Thread → Word × FlagSet) (rm : RMode) (v : Word × FlagSet) (hw : i.wellFormed = true)
    (hr : s.gigReady srcs false = true) (hm : s.th.mode r = some rm) (hv : f rm s.th = v) :
    s.fpu i srcs d lat r f = s.fpuD d lat (fun _ => v) := by
  rw [State.fpu, State.gigInstr_ready _ _ _ _ _ hw hr, hm]
  exact s.fpuD_congr d lat hv

theorem State.fpu_reserved (s : State) (i : Instr) (srcs : List Nat) (d lat : Nat) (r : BitVec 3)
    (f : RMode → Thread → Word × FlagSet) (hw : i.wellFormed = true) (hr : s.gigReady srcs false = true)
    (hm : s.th.mode r = none) : s.fpu i srcs d lat r f = s.trapMe trapIll 0 (wordOf i) := by
  rw [State.fpu, State.gigInstr_ready _ _ _ _ _ hw hr, hm]

theorem State.fpuPlain_ready (s : State) (i : Instr) (d a b : BitVec 5) (f : BitVec 3) (op : Fmt → Nat → Nat → FRes)
    (v : Word × FlagSet) (hw : i.wellFormed = true) (hr : s.gigReady [a.toNat, b.toNat] false = true)
    (hv : v = (BitVec.ofNat 64 (op (fpuFmt f) (fpuBits (fpuFmt f) (s.th.d a.toNat)) (fpuBits (fpuFmt f) (s.th.d b.toNat))).bits,
      (op (fpuFmt f) (fpuBits (fpuFmt f) (s.th.d a.toNat)) (fpuBits (fpuFmt f) (s.th.d b.toNat))).flags)) :
    s.fpuPlain i d a b f op = s.fpuD d.toNat (fpuLat f 4 8) (fun _ => v) := by
  rw [State.fpuPlain, State.gigInstr_ready _ _ _ _ _ hw hr, hv]
  exact s.fpuD_congr _ _ rfl

/-- A floating-point instruction under a mode that the gig plane has. -/
theorem exec_fpu (s : State) (i : Instr) (a : Claims.Fpu) (h : Claims.fpuResult s i = some a) (hw : i.wellFormed = true)
    (hr : s.gigReady a.srcs false = true) (rm : RMode) (hm : ∀ r, a.mode = some r → s.th.mode r = some rm) :
    exec i s = .next (s.fpuD a.d a.lat (fun _ => a.res rm)) := by
  unfold Claims.fpuResult at h
  split at h
  case h_6 | h_7 | h_8 | h_9 | h_10 =>
    cases h
    exact congrArg Host.Outcome.next (s.fpuPlain_ready _ _ _ _ _ _ _ hw hr rfl)
  case h_12 d x =>
    cases h
    change execFexp2 d x s = _
    rw [execFexp2, State.gigInstr_ready _ _ _ _ _ hw hr]
    exact congrArg Host.Outcome.next (s.fpuD_congr _ _ rfl)
  case h_16 => cases h
  all_goals
    cases h
    exact congrArg Host.Outcome.next (s.fpu_ready _ _ _ _ _ _ rm _ hw hr (hm _ rfl) rfl)

/-- A floating-point instruction under a mode that the gig plane does not have. -/
theorem exec_fpu_reserved (s : State) (i : Instr) (a : Claims.Fpu) (h : Claims.fpuResult s i = some a)
    (hw : i.wellFormed = true) (hr : s.gigReady a.srcs false = true) (r : BitVec 3) (hr' : a.mode = some r)
    (hm : s.th.mode r = none) : exec i s = .next (s.trapMe trapIll 0 (wordOf i)) := by
  unfold Claims.fpuResult at h
  split at h
  case h_6 | h_7 | h_8 | h_9 | h_10 | h_12 =>
    cases h
    cases hr'
  case h_16 => cases h
  all_goals
    cases h
    cases hr'
    exact congrArg Host.Outcome.next (s.fpu_reserved _ _ _ _ _ _ hw hr hm)

theorem Thread.mode_eq_none (th : Thread) (r : BitVec 3) (h : 5 ≤ if r = 7 then th.frm.toNat else r.toNat) :
    th.mode r = none := by
  rw [Thread.mode]
  exact if_pos h

/-- Settles O32. -/
theorem floatingPointCompletes : Obligations.FloatingPointCompletes := by
  intro s i a h hw hr
  refine ⟨fun rm hm => ?_, fun r hr' hm => exec_fpu_reserved s i a h hw hr r hr' (s.th.mode_eq_none r hm)⟩
  refine ⟨_, exec_fpu s i a h hw hr rm hm, ?_⟩
  rw [State.fpuD, State.lateD, s.th_onMe _ (s.slotOf_of_ready _ _ hr)]
  refine ⟨fun n => ?_, ?_, ?_, ?_, ?_, ?_, ?_⟩
  · refine (s.th.d_setD a.d n (a.res rm).1).trans ?_
    by_cases hn : n = a.d <;> simp [hn]
  · simp
  · simp
  · exact s.th.setLate_allFlags ..
  · simp
  · simp
  · simp

end Sys2Proof.Machine
end

section
/-! Supervisor words, trap entry and system words (O36, O38, O39). -/
namespace Sys2Proof.Machine

/-! ### Supervisor words -/

theorem State.supOf_eq_true {s : State} {t : Nat} (hp : (s.part (s.partOfThread t)).run.phase = .running ∨
      (s.part (s.partOfThread t)).run.phase = .frozen ∨ (s.part (s.partOfThread t)).run.phase = .restarting)
    (hc : bitsOf (wordAt (s.part (s.partOfThread t)).run.header 0) 23 17 = coachOf t) : s.supOf t = true := by
  unfold State.supOf
  rcases hp with h | h | h <;> simp [h, hc]

theorem State.supervisor_ready {s : State} {i : Instr} {srcs : List Nat} (eff : State → State) (hw : i.wellFormed = true)
    (hr : s.gigReady srcs false = true) (hl : s.th.level = true) (hs : s.supOf s.curThread = true) :
    s.supervisor i srcs eff = eff s := by
  rw [State.supervisor, State.privileged_ready _ _ _ _ hw hr hl, if_pos hs]

theorem indexOf_eq_none {a : Nat} {l : List Nat} (h : a ∉ l) : indexOf a l = none := by
  induction l with
  | nil => rfl
  | cons b t ih =>
    rw [List.mem_cons, not_or] at h
    rw [indexOf, if_neg (Ne.symm h.1), ih h.2]
    rfl

theorem indexOf_eq_some {a j : Nat} {l : List Nat} (h : l[j]? = some a) (hn : a ∉ l.take j) : indexOf a l = some j := by
  induction l generalizing j with
  | nil => simp at h
  | cons b t ih =>
    cases j with
    | zero =>
      rw [List.getElem?_cons_zero, Option.some.injEq] at h
      rw [indexOf, if_pos h]
    | succ j =>
      rw [List.take_succ_cons, List.mem_cons, not_or] at hn
      rw [indexOf, if_neg (Ne.symm hn.1), ih h hn.2]
      rfl

/-- Settles O36: PRIV.SUP holds, so that each word has its effect. -/
theorem supervisorWordsComplete : Obligations.SupervisorWordsComplete := by
  rintro s d a g x rfl hl hp hc
  have hs := State.supOf_eq_true hp hc
  refine ⟨fun hw hr => congrArg Host.Outcome.next (State.supervisor_ready _ hw hr hl hs),
    fun hw hr => congrArg Host.Outcome.next (State.supervisor_ready _ hw hr hl hs), fun hw hr => ⟨fun h => ?_, fun j hf hj hn => ?_⟩⟩
  · refine congrArg Host.Outcome.next ((State.supervisor_ready _ hw hr hl hs).trans ?_)
    dsimp only
    by_cases hf : (s.part (s.partOfThread s.curThread)).run.phase = .frozen
    · rw [if_pos hf, indexOf_eq_none (h.resolve_left (Classical.not_not.2 hf))]
    · rw [if_neg hf]
  · refine congrArg Host.Outcome.next ((State.supervisor_ready _ hw hr hl hs).trans ?_)
    dsimp only
    rw [if_pos hf, indexOf_eq_some hj hn]
    rfl

/-! ### Trap entry -/

/-- Settles O38: the road book entry of the trap leaves the thread alone, and INH = 0 takes the direct entry. -/
theorem trapEntry : Obligations.TrapEntry := by
  rintro s cause sub v r rfl hs hi
  have hi' : (s.thread s.curThread).trap.inh = false := hi
  unfold State.trapMe State.trapAt
  dsimp only
  rw [hi', if_neg Bool.false_ne_true]
  have hc := s.curThread_noteGig s.curThread 5 s.th.pc cause
  refine (congrArg State.th (congrArg (State.onThread _ · _) hc.symm)).trans ?_
  refine (State.th_onMe _ _ (by rw [hc, s.slotOf_noteGig]; exact hs)).trans ?_
  rw [s.th_noteGig]
  rfl

/-! ### System words -/

/-- A thread of a context that no slice end drains lets nothing go. -/
theorem State.unslice_unlimited {s : State} {t x : Nat} (hx : s.slotOf t = some x)
    (hl : (s.ctx (coachOf t) x).sliceLimit = none) : s.unslice t = s := by
  unfold State.unslice
  rw [hx]
  simp [hl]

theorem State.slotOf_onMe (s : State) (f : Thread → Thread) (t : Nat) : (s.onMe f).slotOf t = s.slotOf t := by
  unfold State.onMe State.onThread
  split
  · rfl
  · exact State.run_onCtx ..

/-- A change of the acting thread leaves what its context says of the slice. -/
theorem State.sliceLimit_onMe (s : State) (f : Thread → Thread) (c x : Nat) :
    ((s.onMe f).ctx c x).sliceLimit = (s.ctx c x).sliceLimit := by
  unfold State.onMe State.onThread
  split
  · rfl
  · rw [State.ctx_onCtx]
    split
    · rename_i h
      rw [h.1, h.2]
      rfl
    · rfl

theorem State.onLaunch_coaches (s : State) (lid : Nat) (f : Launch → Launch) : (s.onLaunch lid f).coaches = s.coaches := by
  unfold State.onLaunch
  split <;> rfl

/-- The coaches after a thread has left: its context has changed by `Context.leave`. -/
theorem State.leave_coaches (s : State) (c x n : Nat) :
    (s.leave c x n).coaches = (s.onCtx c x (fun k => k.leave n)).coaches := State.onLaunch_coaches ..

theorem State.ctx_congr {s u : State} (h : s.coaches = u.coaches) (c x : Nat) : s.ctx c x = u.ctx c x := by
  unfold State.ctx State.coach
  rw [h]

theorem State.slotOf_congr {s u : State} (h : s.coaches = u.coaches) (t : Nat) : s.slotOf t = u.slotOf t := by
  unfold State.slotOf State.coach
  rw [h]

theorem State.unslice_onMe {s : State} {x : Nat} (f : Thread → Thread) (hx : s.slotOf s.curThread = some x)
    (hl : (s.ctx (coachOf s.curThread) x).sliceLimit = none) : (s.onMe f).unslice s.curThread = s.onMe f :=
  State.unslice_unlimited ((s.slotOf_onMe f _).trans hx) ((s.sliceLimit_onMe f _ _).trans hl)

theorem State.unslice_leave {s : State} {t x n : Nat} (hx : s.slotOf t = some x)
    (hl : (s.ctx (coachOf t) x).sliceLimit = none) :
    (s.leave (coachOf t) x n).unslice t = s.leave (coachOf t) x n := by
  have hc := s.leave_coaches (coachOf t) x n
  refine State.unslice_unlimited ((State.slotOf_congr hc t).trans ((State.run_onCtx ..).trans hx)) ?_
  rw [State.ctx_congr hc, State.ctx_onCtx, if_pos ⟨rfl, rfl⟩]
  exact hl

/-- A gig's road book that is not stopping takes its entry, and nothing is written out. -/
theorem State.noteGig_recording {s : State} {t : Nat} (kind addr data : Nat) (h : (s.gig (gigOf t)).book.left = none) :
    s.noteGig t kind addr data = s.onGig (gigOf t) (fun g => { g with book := g.book.add (s.cycle (dieOf t)) kind addr data }) ∧
    ((s.noteGig t kind addr data).gig (gigOf t)).book = (s.gig (gigOf t)).book.add (s.cycle (dieOf t)) kind addr data ∧
    ((s.noteGig t kind addr data).gig (gigOf t)).book.left = none := by
  have hb : ((s.gig (gigOf t)).book.add (s.cycle (dieOf t)) kind addr data).left = none := by
    unfold Book.add
    rw [h]
  have hn : s.noteGig t kind addr data =
      s.onGig (gigOf t) (fun g => { g with book := g.book.add (s.cycle (dieOf t)) kind addr data }) := by
    unfold State.noteGig State.flushBook
    simp [hb]
  refine ⟨hn, ?_, ?_⟩ <;> rw [hn, State.gig_onGig, if_pos rfl]
  exact hb

/-- CSRR and RNG write their register as `Claims.systemRead` says. -/
theorem exec_systemRead {s : State} {i : Instr} {d : Nat} {srcs : List Nat} {v : Word}
    (h : Claims.systemRead s i = some (d, srcs, v)) (hw : i.wellFormed = true) (hr : s.gigReady srcs false = true) :
    exec i s = .next (s.onMe (fun th =>
      (if Claims.systemLatency i = 0 then th.setD d v
        else th.setLate d v (s.cycle (dieOf s.curThread)).toNat (Claims.systemLatency i) 0).next)) := by
  unfold Claims.systemRead at h
  split at h
  · rename_i d c
    split at h
    · rename_i hc
      cases h
      refine congrArg Host.Outcome.next ((State.gigInstr_ready _ _ _ _ _ hw hr).trans (if_pos ?_))
      simpa [csrOpen] using hc
    · cases h
  · cases h
    exact congrArg Host.Outcome.next (s.toLateD_ready _ _ _ _ _ _ hw hr rfl)
  · cases h

theorem exec_tret_ready {s : State} {x : Nat} (hx : s.slotOf s.curThread = some x) (hr : s.gigReady [] false = true)
    (hl : s.th.level = true) (hk : (s.ctx (coachOf s.curThread) x).sliceLimit = none) :
    exec .tret s = .next (s.onMe (fun th => { th with
      pc := th.trap.tpc.toNat, level := th.trap.pprv, trap := { th.trap with inh := false } })) :=
  congrArg Host.Outcome.next ((State.privileged_ready _ _ _ _ rfl hr hl).trans (State.unslice_onMe _ hx hk))

theorem exec_gigCsrw_ready {s : State} {a : BitVec 5} {c : BitVec 6} (hr : s.gigReady [a.toNat] false = true)
    (hw : (Instr.gigCsrw a c).wellFormed = true) (hc : s.th.level = true ∨ c = 0xB ∨ c = 0xC) :
    exec (.gigCsrw a c) s = .next ((s.setGigCsr c.toNat (s.th.d a.toNat)).onMe Thread.next) := by
  refine congrArg Host.Outcome.next ((State.gigInstr_ready _ _ _ _ _ hw hr).trans (if_pos ?_))
  rcases hc with h | rfl | rfl <;> simp [csrOpen, *]

/-- YIELD with nothing waiting goes on. -/
theorem exec_yield_alone {s : State} {x : Nat} (hx : s.slotOf s.curThread = some x) (hr : s.gigReady [] false = true)
    (hk : (s.ctx (coachOf s.curThread) x).sliceLimit = none)
    (hn : (s.onMe Thread.next).waits (coachOf s.curThread) true = false) :
    exec .yield s = .next (s.onMe Thread.next) := by
  refine congrArg Host.Outcome.next ((State.gigInstr_ready _ _ _ _ _ rfl hr).trans ?_)
  dsimp only
  rw [State.unslice_onMe _ hx hk, hn, if_neg Bool.false_ne_true]

/-- What HALT does of a thread in a context. -/
theorem exec_gigHalt_ready {s : State} {x : Nat} (hx : s.slotOf s.curThread = some x) (hr : s.gigReady [] false = true)
    (hk : (s.ctx (coachOf s.curThread) x).sliceLimit = none) {h : List Word}
    (hh : h = s.header (s.ctx (coachOf s.curThread) x).lid) :
    exec .gigHalt s = .next (if s.th.item + hThreads h < hItems h then
      s.onMe (fun th => th.restart h (s.th.item + hThreads h))
      else s.leave (coachOf s.curThread) x (localOf s.curThread)) := by
  refine congrArg Host.Outcome.next ((State.gigInstr_ready _ _ _ _ _ rfl hr).trans ?_)
  dsimp only
  rw [hx]
  dsimp only
  rw [State.unslice_leave hx hk, hh]

/-- TRACE with a tag other than 63 adds its two entries. -/
theorem exec_trace_recording {s : State} {a : BitVec 5} {g : BitVec 6} (hr : s.gigReady [a.toNat] false = true)
    (hw : (Instr.trace a g).wellFormed = true) (hg : g ≠ 63) (hb : (s.gig (gigOf s.curThread)).book.left = none) :
    ∃ t : State, exec (.trace a g) s = .next t ∧ t.th = s.th.next ∧ t.mem = s.mem ∧
      (t.gig (gigOf s.curThread)).book = ((s.gig (gigOf s.curThread)).book.add ((s.die (dieOf s.curThread)).gigCycle) 1 s.th.pc
        g.toNat).add ((s.die (dieOf s.curThread)).gigCycle) 1 s.th.pc ((s.th.d a.toNat).toNat % 2 ^ 32) := by
  obtain ⟨hn1, hb1, hl1⟩ := State.noteGig_recording (t := s.curThread) 1 s.th.pc g.toNat hb
  obtain ⟨hn2, hb2, -⟩ := State.noteGig_recording (t := s.curThread) 1 s.th.pc ((s.th.d a.toNat).toNat % 2 ^ 32) hl1
  refine ⟨_, congrArg Host.Outcome.next ((State.gigInstr_ready _ _ _ _ _ hw hr).trans
    (congrArg (State.onMe · Thread.next) (if_neg hg))), ?_, ?_, ?_⟩
  · have hs : ((s.noteGig s.curThread 1 s.th.pc g.toNat).noteGig s.curThread 1 s.th.pc
        ((s.th.d a.toNat).toNat % 2 ^ 32)).curThread = s.curThread := by
      rw [State.curThread_noteGig, State.curThread_noteGig]
    rw [State.th_onMe _ _ (by
      rw [hs, State.slotOf_noteGig, State.slotOf_noteGig]
      exact State.slotOf_of_ready _ _ _ hr), State.th_noteGig, State.th_noteGig]
  · rw [hn2, hn1]
    unfold State.onMe State.onThread
    split <;> rfl
  · refine Eq.trans ?_ (congrArg (Book.add · (s.cycle (dieOf s.curThread)) 1 s.th.pc _) hb1)
    refine Eq.trans ?_ (hb2.trans (congrArg (Book.add _ · _ _ _) ?_))
    · unfold State.onMe State.onThread
      split <;> rfl
    · rw [hn1]
      rfl

theorem systemInstructions : Claims.SystemInstructions := by
  intro s a c g
  refine ⟨fun hr hw => congrArg Host.Outcome.next (State.gigInstr_ready _ _ _ _ _ hw hr),
    fun x hx hr hl hk => exec_tret_ready hx hr hl hk, fun i d srcs v h hw hr => exec_systemRead h hw hr,
    fun hr hw hc => exec_gigCsrw_ready hr hw hc, fun x hx hr hk => ⟨exec_yield_alone hx hr hk, fun h hh => ⟨fun hi => ?_, fun hi => ?_⟩⟩,
    fun hr hw hg hb => exec_trace_recording hr hw hg hb⟩
  · have hth := s.th_onMe (fun th => th.restart h (s.th.item + hThreads h)) (by rw [hx]; rfl)
    refine ⟨_, (exec_gigHalt_ready hx hr hk hh).trans (congrArg Host.Outcome.next (if_pos hi)), ?_⟩
    rw [hth]
    refine ⟨rfl, rfl, fun n => ?_, rfl, rfl, rfl, rfl⟩
    unfold Thread.d
    split <;> rfl
  · exact (exec_gigHalt_ready hx hr hk hh).trans (congrArg Host.Outcome.next (if_neg (Nat.not_lt.2 hi)))

theorem leaveCompletes : Claims.LeaveCompletes := by
  intro s d a c x hx hw hr
  refine congrArg Host.Outcome.next ((State.gigInstr_ready _ _ _ _ _ hw hr).trans ?_)
  rw [hx]
  rfl

/-! ### The turnpike -/

theorem insertBy_perm {α : Type} (le : α → α → Bool) (a : α) (l : List α) : (insertBy le a l).Perm (a :: l) := by
  induction l with
  | nil => exact .refl _
  | cons b t ih =>
    unfold insertBy
    split
    · exact .refl _
    · exact (ih.cons b).trans (.swap a b t)

theorem sortBy_perm {α : Type} (le : α → α → Bool) (l : List α) : (sortBy le l).Perm l := by
  induction l with
  | nil => exact .refl _
  | cons a t ih => exact (insertBy_perm le a (sortBy le t)).trans (ih.cons a)

theorem insertBy_pairwise {α : Type} (f : α → Nat) (a : α) {l : List α} (hl : l.Pairwise (fun a b => f a ≤ f b)) :
    (insertBy (fun a b => decide (f a ≤ f b)) a l).Pairwise (fun a b => f a ≤ f b) := by
  induction l with
  | nil => exact List.pairwise_singleton _ a
  | cons b t ih =>
    obtain ⟨hb, ht⟩ := List.pairwise_cons.1 hl
    unfold insertBy
    split
    · rename_i h
      have hab : f a ≤ f b := of_decide_eq_true h
      refine List.pairwise_cons.2 ⟨fun x hx => ?_, hl⟩
      rcases List.mem_cons.1 hx with rfl | hx
      · exact hab
      · exact Nat.le_trans hab (hb x hx)
    · rename_i h
      have hba : f b ≤ f a := Nat.le_of_not_le fun hab => h (decide_eq_true hab)
      refine List.pairwise_cons.2 ⟨fun x hx => ?_, ih ht⟩
      rcases List.mem_cons.1 ((insertBy_perm _ a t).mem_iff.1 hx) with rfl | hx
      · exact hba
      · exact hb x hx

/-- Sorting by a number puts that number in rising order. -/
theorem sortBy_pairwise {α : Type} (f : α → Nat) (l : List α) :
    (sortBy (fun a b => decide (f a ≤ f b)) l).Pairwise (fun a b => f a ≤ f b) := by
  induction l with
  | nil => exact .nil
  | cons a t ih => exact insertBy_pairwise f a ih

theorem State.mem_asksOf (s : State) (d : Nat) (e : Nat × Nat × LeaveAsk) :
    e ∈ s.asksOf d ↔ dieOfCoach e.1 = d ∧ ∃ q : Coach, (e.1, q) ∈ s.coaches ∧
      ∃ k : Context, (e.2.1, k) ∈ q.ctxs ∧ e.2.2 ∈ k.asks := by
  obtain ⟨c, x, a⟩ := e
  rw [State.asksOf, (sortBy_perm _ _).mem_iff]
  simp only [List.mem_flatMap, List.mem_map, List.mem_filter, decide_eq_true_eq]
  constructor
  · rintro ⟨⟨c', q⟩, ⟨hq, hd⟩, ⟨x', k⟩, hk, a', ha, h⟩
    cases h
    exact ⟨hd, q, hq, k, hk, ha⟩
  · rintro ⟨hd, q, hq, k, hk, ha⟩
    exact ⟨(c, q), ⟨hq, hd⟩, (x, k), hk, a, ha, rfl⟩

/-- A request fits its bucket: it is for no bytes, for bytes that the bucket has beside the charges, or for more than LB with none. -/
theorem fitsBucket_iff (lb n : Nat) (gs : List Grant) : fitsBucket lb n gs = true ↔
    n = 0 ∨ (n ≤ lb ∧ chargedBytes gs + n ≤ lb) ∨ (lb < n ∧ gs = []) := by
  unfold fitsBucket
  rcases Nat.lt_or_ge lb n with h | h
  · simp [h, Nat.not_le.2 h]
  · simp [h, Nat.not_lt.2 h]

theorem one_le_waitFor (now lb n : Nat) (gs : List Grant) : 1 ≤ waitFor now lb n gs := by
  induction gs with
  | nil => exact Nat.le_refl 1
  | cons g rest ih =>
    rw [waitFor]
    split
    · exact Nat.le_max_left ..
    · exact ih

/-- The context of the asking thread after its request was judged on a state with the same contexts. -/
theorem State.thread_judged (s : State) (c x n : Nat) (f : Thread → Thread) :
    ((s.onCtx c x (fun k => k.onThread n f)).ctx c x).threads.get n {} = f ((s.ctx c x).threads.get n {}) := by
  rw [State.ctx_onCtx, if_pos ⟨rfl, rfl⟩]
  simp [Context.onThread, SMap.get_set]

theorem State.onCtx_die (s : State) (c x d : Nat) (f : Context → Context) : (s.onCtx c x f).die d = s.die d := rfl

theorem State.judgeAsk_granted {s : State} {c x : Nat} {a : LeaveAsk}
    (h : fitsBucket (s.die (dieOfCoach c)).lb a.bytes ((s.die (dieOfCoach c)).charges a.cxl) = true) :
    ((s.judgeAsk c x a).ctx c x).threads.get a.thread {} =
        { ((s.ctx c x).threads.get a.thread {}).setD a.dest 0 with
          grants := (((s.ctx c x).threads.get a.thread {}).setD a.dest 0).grants ++
            [{ cxl := a.cxl, bytes := a.bytes, expiry := (s.die (dieOfCoach c)).gigCycle + 65536 }] } ∧
      ((s.judgeAsk c x a).die (dieOfCoach c)).grants = (s.die (dieOfCoach c)).grants ++ (if a.bytes = 0 then [] else
        [{ bytes := a.bytes, cxl := a.cxl, expiry := (s.die (dieOfCoach c)).gigCycle + 65536 }]) := by
  unfold State.judgeAsk State.askLeave
  simp only [h, if_true]
  by_cases hb : a.bytes = 0
  · simp only [if_pos hb]
    refine ⟨State.thread_judged .., ?_⟩
    rw [List.append_nil]
    rfl
  · simp only [if_neg hb]
    refine ⟨State.thread_judged .., ?_⟩
    rw [State.onCtx_die, State.die_onDie, if_pos rfl]

theorem State.judgeAsk_refused {s : State} {c x : Nat} {a : LeaveAsk}
    (h : fitsBucket (s.die (dieOfCoach c)).lb a.bytes ((s.die (dieOfCoach c)).charges a.cxl) = false) :
    ∃ w : Nat, 1 ≤ w ∧ (s.judgeAsk c x a).dies = s.dies ∧
      ((s.judgeAsk c x a).ctx c x).threads.get a.thread {} =
        ((s.ctx c x).threads.get a.thread {}).setD a.dest (BitVec.ofNat 64 w) := by
  have hw := one_le_waitFor (s.die (dieOfCoach c)).gigCycle.toNat (s.die (dieOfCoach c)).lb a.bytes
    ((s.die (dieOfCoach c)).charges a.cxl)
  unfold State.judgeAsk State.askLeave
  simp only [h, if_neg Bool.false_ne_true]
  refine ⟨_, hw, rfl, ?_⟩
  simp only [if_neg (Nat.ne_of_gt hw)]
  exact State.thread_judged ..

theorem leavesJudged : Claims.LeavesJudged := by
  refine ⟨fun s d => ⟨sortBy_pairwise _ _, s.mem_asksOf d, rfl⟩, ?_⟩
  rintro s c x a y cs th rfl rfl rfl
  refine ⟨fun h => ?_, fun hb h => ?_⟩
  · obtain ⟨hth, hgr⟩ := State.judgeAsk_granted (x := x) ((fitsBucket_iff ..).2 h)
    refine ⟨fun hd => ?_, ?_, hgr⟩
    · rw [hth]
      exact (Thread.d_setD _ _ _ _).trans (by simp [hd])
    · rw [hth]
      simp
  · obtain ⟨w, hw, hds, hth⟩ := State.judgeAsk_refused (s := s) (c := c) (x := x) (a := a) (by
      refine Bool.eq_false_iff.2 (mt (fitsBucket_iff ..).1 ?_)
      rintro (h0 | ⟨h1, h2⟩ | ⟨h1, h2⟩)
      · exact hb h0
      · rcases h with ⟨h3, h4⟩ | ⟨h3, h4⟩
        · exact Nat.not_le.2 h4 h2
        · omega
      · rcases h with ⟨h3, h4⟩ | ⟨h3, h4⟩
        · omega
        · exact h4 h2)
    refine ⟨w, hw, fun hd => ?_, hds, ?_⟩
    · rw [hth, Thread.d_setD]
      simp [hd]
    · rw [hth]
      simp

/-- Settles O39. -/
theorem systemInstructionsComplete : Obligations.SystemInstructionsComplete :=
  ⟨systemInstructions, leaveCompletes, leavesJudged⟩

end Sys2Proof.Machine
end

section
/-! Words without a meaning (O11). -/
namespace Sys2Proof.Machine

/-! ### Opcodes that a stream does not assign -/

theorem toNat_fld_opcode (x : BitVec 32) : (fld x 23 6).toNat = (x >>> 23).toNat % 64 := by
  simp [fld]

theorem decodeC_unassigned {x : BitVec 32} (h : Claims.unassignedOpcode .c (fld x 23 6).toNat = true) :
    decodeC x = .error .unassignedOpcode := by
  unfold decodeC
  split
  case h_42 => rfl
  all_goals (rename_i ho; rw [ho] at h; exact absurd h (by decide))

theorem decodeL_unassigned {x : BitVec 32} (h : Claims.unassignedOpcode .l (fld x 23 6).toNat = true) :
    decodeL x = .error .unassignedOpcode := by
  unfold decodeL
  split
  case h_17 => rfl
  all_goals (rename_i ho; rw [ho] at h; exact absurd h (by decide))

theorem decodeX_unassigned {x : BitVec 32} (h : Claims.unassignedOpcode .x (fld x 23 6).toNat = true) :
    decodeX x = .error .unassignedOpcode := by
  unfold decodeX
  split
  case h_43 => rfl
  all_goals (rename_i ho; rw [ho] at h; exact absurd h (by decide))

theorem decodeS_unassigned {x : BitVec 32} (h : Claims.unassignedOpcode .s (fld x 23 6).toNat = true) :
    decodeS x = .error .unassignedOpcode := by
  unfold decodeS
  split
  case h_18 => rfl
  all_goals (rename_i ho; rw [ho] at h; exact absurd h (by decide))

theorem unassignedOpcodeRejected : Claims.UnassignedOpcodeRejected := by
  intro k x hk h
  rw [← toNat_fld_opcode] at h
  have hd : decodeFields k x = .error .unassignedOpcode := by
    cases k with
    | c => exact decodeC_unassigned h
    | l => exact decodeL_unassigned h
    | x => exact decodeX_unassigned h
    | s => exact decodeS_unassigned h
    | gig => exact absurd rfl hk
  unfold decode
  rw [hd]

/-! ### Operands that a form forbids -/

section Timed
variable {s : State} {i : Instr} (hw : i.wellFormed = false)
include hw

/-- An ill-formed word is illegal whatever its stream register holds. -/
theorem State.hbmWord_illegal (k : StreamKind) (src : RegRef) (st o : Nat) (load : Bool) (extra : List Det) :
    s.hbmWord i k src st o load extra = s.illegal k 0 := by
  unfold State.hbmWord
  dsimp only
  cases (s.me.streg st).desc with
  | none => exact State.timedTo_illegal _ _ _ _ _ _ _ _ _ hw
  | some d =>
    dsimp only
    rw [if_pos (by simp [hw])]
    exact State.timedTo_illegal _ _ _ _ _ _ _ _ _ hw

/-- An ill-formed rounding word is illegal under every mode. -/
theorem State.xMode_illegal (srcs : List RegRef) (chk : List Det) (rm n : Nat) (eff : RMode → Tick → Pipe → Pipe) :
    s.xMode i srcs chk rm n eff = s.illegal .x 0 := by
  unfold State.xMode
  cases s.me.mode rm with
  | none => exact State.timedTo_illegal _ _ _ _ _ _ _ _ _ hw
  | some r => exact State.timedTo_illegal _ _ _ _ _ _ _ _ _ hw

theorem State.vArith_illegal (d a b : BitVec 5) (f r : BitVec 3) (x m : BitVec 1) (useD : Bool)
    (op : XVal → XVal → XVal → Bool → XRes) : s.vArith i d a b f r x m useD op = s.illegal .x 0 := by
  unfold State.vArith
  exact State.xMode_illegal hw ..

end Timed

/-- An ill-formed timed word issues without effect as an illegal word of its stream: its frame judges the form first. -/
theorem exec_timed_illegal (s : State) (i : Instr) (hs : i.stream ≠ .gig) (hw : i.wellFormed = false) :
    exec i s = .next (s.illegal i.stream 0) := by
  cases i
  case vadd | vsub | vmul | vfma | vfms =>
    exact congrArg Host.Outcome.next (State.vArith_illegal (s := s) hw ..)
  case vcvt | vtab | vrope | vscl => exact congrArg Host.Outcome.next (State.xMode_illegal (s := s) hw ..)
  case hld | hst => exact congrArg Host.Outcome.next (State.hbmWord_illegal (s := s) hw ..)
  case ldq w q st =>
    change execLdq w q st s = _
    unfold execLdq
    dsimp only
    split <;> exact congrArg Host.Outcome.next (if_neg (Bool.eq_false_iff.1 hw))
  case gath w st a o =>
    change execGath w st a o s = _
    unfold execGath
    dsimp only
    split <;> exact congrArg Host.Outcome.next (if_neg (Bool.eq_false_iff.1 hw))
  case stq w q st f r x h c =>
    change execStq w q st f r x h c s = _
    unfold execStq
    dsimp only
    split <;> exact congrArg Host.Outcome.next (if_neg (Bool.eq_false_iff.1 hw))
  case vred w d a o f r m =>
    change execVred w d a o f r m s = _
    unfold execVred
    dsimp only
    split <;> exact congrArg Host.Outcome.next (if_neg (Bool.eq_false_iff.1 hw))
  case accst w q r f o x =>
    change execAccst w q r f o x s = _
    unfold execAccst
    dsimp only
    split <;> exact congrArg Host.Outcome.next (if_neg (Bool.eq_false_iff.1 hw))
  case xloop w l m =>
    change execXloop w l m s = _
    unfold execXloop
    split <;> exact congrArg Host.Outcome.next (if_neg (Bool.eq_false_iff.1 hw))
  case cmp | cmpi | loop | lspan | cGive | cTake | sqw | nest | csrr | csrw | lScfg | lSadv | lTlbp | bout | lGive | lTake |
      sScfg | sSadv | send | mcast | rmw | sTlbp | sGive | sTake | vmax | vmin | vabs | vneg | vcmp | viadd | vimul | vpop |
      vpush | vmsk | accrd | accwr | accz | xlspan | xGive | xTake | vldi =>
    exact congrArg Host.Outcome.next (if_neg (Bool.eq_false_iff.1 hw))
  case fence | fadd | fsub | fmul | fdiv | fsqrt | fmin | fmax | feq | flt | fle | fcvt | fma | fms | fnma | wid | hsift |
      gigCsrr | gigCsrw => exact absurd rfl hs
  all_goals exact Bool.noConfusion hw

theorem illegalWordsDetected : Claims.IllegalWordsDetected :=
  fun s => ⟨fun _ => rfl, exec_timed_illegal s⟩

section Gig
variable {s : State} {i : Instr} (hf : s.th.free s.curThread = true) (hw : i.wellFormed = false)
include hf hw

theorem State.gigInstr_illegal (srcs : List Nat) (release : Bool) (eff : State → State) :
    s.gigInstr i srcs release eff = s.trapMe trapIll 0 (wordOf i) := by
  unfold State.gigInstr State.gigWord
  simp [hf, hw]

theorem State.fpuTwo_illegal (d a b : BitVec 5) (f r : BitVec 3) (lat : Nat) (op : XVal → XVal → Bool → XRes × FlagSet) :
    s.fpuTwo i d a b f r lat op = s.trapMe trapIll 0 (wordOf i) := by
  unfold State.fpuTwo State.fpu
  exact State.gigInstr_illegal hf hw ..

theorem State.fused_illegal (d a b c : BitVec 5) (f : BitVec 1) (r : BitVec 3) (x y : Bool) :
    s.fused i d a b c f r x y = s.trapMe trapIll 0 (wordOf i) := by
  unfold State.fused State.fpu
  exact State.gigInstr_illegal hf hw ..

end Gig

/-- An ill-formed gig word traps ILL, once its thread may issue. -/
theorem exec_gig_illegal (s : State) (hf : s.th.free s.curThread = true) (i : Instr) (hs : i.stream = .gig)
    (hw : i.wellFormed = false) : exec i s = .next (s.trapMe 0x01 0 (wordOf i)) := by
  cases i
  case fadd | fsub | fmul | fdiv => exact congrArg Host.Outcome.next (State.fpuTwo_illegal hf hw ..)
  case fma | fms | fnma => exact congrArg Host.Outcome.next (State.fused_illegal hf hw ..)
  case fence | fcvt | fsqrt | fmin | fmax | feq | flt | fle | wid | hsift | gigCsrr | gigCsrw =>
    exact congrArg Host.Outcome.next (State.gigInstr_illegal hf hw ..)
  case cmp | cmpi | loop | lspan | cGive | cTake | sqw | nest | csrr | csrw | lScfg | lSadv | ldq | gath | hld | lTlbp | bout |
      lGive | lTake | sScfg | sSadv | stq | hst | send | mcast | rmw | sTlbp | sGive | sTake | vadd | vsub | vmul | vfma |
      vfms | vmax | vmin | vabs | vneg | vcvt | vcmp | viadd | vimul | vred | vpop | vpush | vtab | vrope | vscl | vmsk |
      accrd | accwr | accz | accst | xloop | xlspan | xGive | xTake | vldi => exact StreamKind.noConfusion hs
  all_goals exact Bool.noConfusion hw

theorem gigIllegalWordTraps : Claims.GigIllegalWordTraps := by
  intro s hf
  refine ⟨fun w => congrArg Host.Outcome.next ?_, exec_gig_illegal s hf⟩
  unfold State.gigWord
  simp [hf, trapIll]

/-- Settles O11. -/
theorem illegalWordsRejected : Obligations.IllegalWordsRejected :=
  ⟨unassignedOpcodeRejected, illegalWordsDetected, gigIllegalWordTraps⟩

end Sys2Proof.Machine
end

section
/-! Barriers, events and messages (O33, O34). -/
namespace Sys2Proof.Machine

/-! ### Maps and contexts -/

/-- Reading a map whose values are all changed by a function that keeps the value of an absent key. -/
theorem SMap.get_map {α : Type} (m : SMap α) (f : α → α) (k : Nat) (d : α) (hd : f d = d) :
    SMap.get (m.map (fun e => (e.1, f e.2))) k d = f (SMap.get m k d) := by
  induction m with
  | nil => exact hd.symm
  | cons a t ih =>
    obtain ⟨i, x⟩ := a
    simp only [List.map_cons, SMap.get]
    split
    · rfl
    · exact ih

/-- A value put at a key where it and what stood there do not satisfy `p` leaves the first entry that does. -/
theorem SMap.find?_set_of_not {α : Type} (m : SMap α) (k : Nat) (v : α) (p : Nat × α → Bool) (hv : p (k, v) = false)
    (hm : ∀ w, (k, w) ∈ m → p (k, w) = false) : List.find? p (SMap.set m k v) = List.find? p m := by
  induction m with
  | nil => simp [SMap.set, hv]
  | cons a t ih =>
    obtain ⟨i, x⟩ := a
    have ih := ih (fun w hw => hm w (List.mem_cons_of_mem _ hw))
    simp only [SMap.set]
    split
    · rename_i h
      subst h
      simp [hv, hm x List.mem_cons_self]
    · split
      · simp [hv]
      · simp [List.find?_cons, ih]

theorem SMap.lt_of_wf {α : Type} {i j : Nat} {x y : α} {t : SMap α} (h : SMap.wf ((i, x) :: t) = true) (hy : (j, y) ∈ t) :
    i < j := by
  induction t generalizing i x with
  | nil => simp at hy
  | cons b t ih =>
    obtain ⟨n, z⟩ := b
    simp only [SMap.wf, Bool.and_eq_true, decide_eq_true_eq] at h
    rcases List.mem_cons.1 hy with hy | hy
    · cases hy
      exact h.1
    · exact Nat.lt_trans h.1 (ih h.2 hy)

theorem SMap.wf_tail {α : Type} {a : Nat × α} {t : SMap α} (h : SMap.wf (a :: t) = true) : SMap.wf t = true := by
  cases t with
  | nil => rfl
  | cons b t =>
    simp only [SMap.wf, Bool.and_eq_true] at h
    exact h.2

/-- In a map in rising order an entry is what its key reads. -/
theorem SMap.get_of_mem {α : Type} {m : SMap α} {k : Nat} {v d : α} (h : SMap.wf m = true) (hm : (k, v) ∈ m) : m.get k d = v := by
  induction m with
  | nil => simp at hm
  | cons a t ih =>
    obtain ⟨i, x⟩ := a
    rw [SMap.get]
    rcases List.mem_cons.1 hm with he | he
    · cases he
      exact if_pos rfl
    · rw [if_neg (Nat.ne_of_lt (SMap.lt_of_wf h he)), ih (SMap.wf_tail h) he]

theorem State.ctx_onCtx_same (s : State) (c x : Nat) (f : Context → Context) : (s.onCtx c x f).ctx c x = f (s.ctx c x) := by
  rw [State.ctx_onCtx, if_pos ⟨rfl, rfl⟩]

/-- A change of a context is its change of the context as it stands. -/
theorem State.onCtx_congr (s : State) (c x : Nat) {f g : Context → Context} (h : f (s.ctx c x) = g (s.ctx c x)) :
    s.onCtx c x f = s.onCtx c x g := by
  unfold State.ctx at h
  simp only [State.onCtx, State.onCoach, h]

/-- The context of the acting thread after a change of that thread. -/
theorem State.ctx_onMe {s : State} {x : Nat} (hx : s.slotOf s.curThread = some x) (f : Thread → Thread) :
    (s.onMe f).ctx (coachOf s.curThread) x =
      (s.ctx (coachOf s.curThread) x).onThread (localOf s.curThread) f := by
  unfold State.onMe State.onThread
  rw [hx]
  dsimp only
  rw [State.ctx_onCtx, if_pos ⟨rfl, rfl⟩]

/-- The acting thread stands in the context that runs on its coach. -/
theorem State.th_eq_get {s : State} {x : Nat} (hx : s.slotOf s.curThread = some x) :
    s.th = (s.ctx (coachOf s.curThread) x).threads.get (localOf s.curThread) {} := by
  unfold State.th State.thread
  rw [hx]

theorem State.wait_of_ready {s : State} {srcs : List Nat} {release : Bool} (hr : s.gigReady srcs release = true) :
    s.th.wait = .none := by
  simp only [State.gigReady, Thread.free, Bool.and_eq_true, decide_eq_true_eq] at hr
  exact hr.1.1.1.1.1.2

/-! ### ARRIVE and WAITP -/

theorem arriveCompletes : Claims.ArriveCompletes := by
  rintro s d n x b hx rfl hw hr
  refine ⟨fun hb => congrArg Host.Outcome.next ((State.gigInstr_ready _ _ _ _ _ hw hr).trans ?_),
    fun hb => congrArg Host.Outcome.next ((State.gigInstr_ready _ _ _ _ _ hw hr).trans ?_)⟩
  · rw [hx]
    exact if_pos hb
  · rw [hx]
    exact if_neg hb

theorem State.acquire_ready {s : State} {i : Instr} {srcs : List Nat} (eff : State → State) (hw : i.wellFormed = true)
    (hr : s.gigReady srcs false = true) (hf : s.th.fenced s.curThread = false) : s.acquire i srcs eff = eff s := by
  rw [State.acquire, State.gigInstr_ready _ _ _ _ _ hw hr, if_neg (by simp [hf])]

/-- The result of a WAITP of a token at distance `dist`. -/
theorem waitpResult_eq {ph tok dist : Nat} (h : dist = (ph + 65536 - tok) % 65536) :
    waitpResult ph tok (if 32768 ≤ dist then 3 else if dist = 1 then 0 else 1) = BitVec.ofNat 64
      (if 32768 ≤ dist then ph * 65536 + 3
        else if dist = 1 then ph * 65536 + 256
        else ph * 65536 + Nat.min dist 255 * 256 + 1) := by
  unfold waitpResult
  rw [← h]
  by_cases h1 : 32768 ≤ dist
  · simp [h1]
  · by_cases h2 : dist = 1
    · simp [h2]
    · simp [h1, h2]

theorem waitpCompletes : Claims.WaitpCompletes := by
  rintro s d a b n x ph tok dist hx rfl rfl rfl hw hr hf
  refine ⟨fun hd => congrArg Host.Outcome.next ((State.acquire_ready _ hw hr hf).trans ?_),
    fun hd => congrArg Host.Outcome.next ((State.acquire_ready _ hw hr hf).trans ?_)⟩
  · rw [hx]
    dsimp only
    rw [if_neg hd]
    exact s.onMe_congr (congrArg (fun v => Thread.next (Thread.setD _ _ v)) (waitpResult_eq rfl))
  · rw [hx]
    dsimp only
    rw [if_pos hd]
    rfl

/-! ### Arrivals (11 R317 to R319) -/

/-- The thread of an arrival with its token. -/
theorem State.ctx_tokenGiven (s : State) (c x l d tok : Nat) :
    (s.onCtx c x (fun k => k.onThread l (fun (th : Thread) => th.setD d (BitVec.ofNat 64 tok)))).ctx c x =
      (s.ctx c x).onThread l (fun (th : Thread) => th.setD d (BitVec.ofNat 64 tok)) := State.ctx_onCtx_same ..

/-- The context after one arrival at barrier `n`, apart from what it sends. -/
def Context.arrived (k : Context) (n : Nat) : Context :=
  let b := k.bars.get n {}
  if b.sent then { k with bars := k.bars.set n { b with held := b.held + 1 } }
  else if b.count + 1 = b.expect then
    if b.linked then { k with bars := k.bars.set n { b with count := b.count + 1, sent := true } }
    else { k with bars := k.bars.set n { b with phase := b.phase + 1, count := 0 },
                  threads := k.threads.map (fun e => (e.1, e.2.released n b.phase.toNat (b.phase + 1).toNat)) }
  else { k with bars := k.bars.set n { b with count := b.count + 1 } }

theorem State.ctx_sendReleases (s : State) (lid c n token d y : Nat) : (s.sendReleases lid c n token).ctx d y = s.ctx d y := rfl

theorem State.ctx_withEvs (s : State) (e : List EvMsg) (c x : Nat) : ({ s with evs := e } : State).ctx c x = s.ctx c x := rfl

theorem State.ctx_arriveAt (s : State) (c x n : Nat) : (s.arriveAt c x n).ctx c x = (s.ctx c x).arrived n := by
  have hc := s.ctx_onCtx_same c x
  unfold State.arriveAt Context.arrived
  dsimp only
  split
  · exact hc _
  · split
    · unfold State.reached
      simp only [hc, SMap.get_set, if_true]
      split
      · rw [State.ctx_withEvs, State.ctx_onCtx_same, hc]
        simp
      · rw [State.ctx_sendReleases, State.ctx_onCtx_same, hc]
        simp [Context.complete, SMap.get_set]
    · exact hc _

/-- A thread that waits for nothing is released by nothing. -/
theorem Thread.released_idle {th : Thread} (h : th.wait = .none) (n token phase : Nat) : th.released n token phase = th := by
  unfold Thread.released
  rw [h]

/-- An arrival changes the barrier of its context that it reaches and, where that completes, the threads that wait for it. -/
theorem Context.arrived_bars (k : Context) {n m : Nat} (h : m ≠ n) : (k.arrived n).bars.get m {} = k.bars.get m {} := by
  unfold Context.arrived
  dsimp only
  split
  · simp [SMap.get_set, h]
  · split
    · split <;> simp [SMap.get_set, h]
    · simp [SMap.get_set, h]

theorem Context.arrived_idle (k : Context) {n l : Nat} (h : (k.threads.get l {}).wait = .none) :
    (k.arrived n).threads.get l {} = k.threads.get l {} := by
  unfold Context.arrived
  dsimp only
  split
  · rfl
  · split
    · split
      · rfl
      · exact (SMap.get_map k.threads (fun th => th.released n _ _) l {} (Thread.released_idle rfl ..)).trans (Thread.released_idle h ..)
    · rfl

section Cases
variable {k : Context} {n : Nat} {b : Barrier} (hb : k.bars.get n {} = b)
include hb

theorem Context.arrived_held (hs : b.sent = true) : k.arrived n = { k with bars := k.bars.set n { b with held := b.held + 1 } } := by
  unfold Context.arrived
  rw [hb]
  exact if_pos hs

theorem Context.arrived_counted (hs : b.sent = false) (he : b.count + 1 ≠ b.expect) :
    k.arrived n = { k with bars := k.bars.set n { b with count := b.count + 1 } } := by
  unfold Context.arrived
  rw [hb]
  exact (if_neg (by simp [hs])).trans (if_neg he)

theorem Context.arrived_sent (hs : b.sent = false) (he : b.count + 1 = b.expect) (hl : b.linked = true) :
    k.arrived n = { k with bars := k.bars.set n { b with count := b.count + 1, sent := true } } := by
  unfold Context.arrived
  rw [hb]
  exact (if_neg (by simp [hs])).trans ((if_pos he).trans (if_pos hl))

theorem Context.arrived_complete (hs : b.sent = false) (he : b.count + 1 = b.expect) (hl : b.linked = false) :
    k.arrived n = { k with
      bars := k.bars.set n { b with phase := b.phase + 1, count := 0 }
      threads := k.threads.map (fun e => (e.1, e.2.released n b.phase.toNat (b.phase + 1).toNat)) } := by
  unfold Context.arrived
  rw [hb]
  exact (if_neg (by simp [hs])).trans ((if_pos he).trans (if_neg (by simp [hl])))

end Cases

/-- The message that a chained barrier sends with the arrival that fills it. -/
theorem State.evs_arriveAt_linked {s : State} {c x n : Nat} {b : Barrier} (hb : (s.ctx c x).bars.get n {} = b)
    (hs : b.sent = false) (he : b.count + 1 = b.expect) (hl : b.linked = true) :
    (s.arriveAt c x n).evs = s.evs ++
      [{ kind := .childArrival, coach := b.lcoach, line := b.lbar, lid := (s.ctx c x).lid, src := c, srcBar := n }] := by
  unfold State.arriveAt
  rw [hb]
  dsimp only
  rw [if_neg (by simp [hs]), if_pos he]
  unfold State.reached
  simp only [State.ctx_onCtx_same, SMap.get_set, if_true, hl]
  rfl

/-- The thread with the token of its arrival at the barrier. -/
def Barrier.giveToken (b : Barrier) (d : Nat) (th : Thread) : Thread := th.setD d (BitVec.ofNat 64 b.token)

theorem arrivalsApply : Claims.ArrivalsApply := by
  rintro s u c x n l d k k' b rfl hb hw rfl rfl
  have hctx : (s.applyArrival c x { bar := n, who := .thread l d }).ctx c x = ((s.ctx c x).onThread l (b.giveToken d)).arrived n := by
    unfold State.applyArrival
    rw [State.ctx_arriveAt, State.ctx_tokenGiven, ← hb]
    rfl
  have hth : ∀ m, (((s.ctx c x).onThread l (b.giveToken d)).threads.get m {}) =
      if m = l then b.giveToken d ((s.ctx c x).threads.get l {}) else (s.ctx c x).threads.get m {} := fun m => SMap.get_set ..
  have hb' : ((s.ctx c x).onThread l (b.giveToken d)).bars.get n {} = b := hb.symm
  have hset : ∀ (m : SMap Barrier) (v : Barrier), (m.set n v).get n {} = v := fun m v => by rw [SMap.get_set, if_pos rfl]
  rw [hctx]
  refine ⟨?_, fun m hm => Context.arrived_bars _ hm, fun hs => ?_, fun hs he => ?_, fun hs he hl => ⟨?_, fun m e hm hwm => ?_⟩,
    fun hs he hl => ⟨?_, ?_⟩⟩
  · rw [Context.arrived_idle, hth, if_pos rfl, Barrier.giveToken, Thread.d_setD]
    · unfold Barrier.token
      by_cases hd : d = 0 <;> simp [hd, Thread.d]
    · rw [hth, if_pos rfl, Barrier.giveToken, Thread.setD_wait, hw]
  · rw [Context.arrived_held hb' hs, hset]
  · rw [Context.arrived_counted hb' hs he, hset]
  · rw [Context.arrived_complete hb' hs he hl, hset]
  · have hrel : (((s.ctx c x).onThread l (b.giveToken d)).arrived n).threads.get m {} =
        ((s.ctx c x).threads.get m {}).wake e (BitVec.ofNat 64 (b.phase + 1).toNat) := by
      rw [Context.arrived_complete hb' hs he hl]
      refine (SMap.get_map _ (fun th : Thread => th.released n _ _) m {} (Thread.released_idle rfl ..)).trans ?_
      rw [hth, if_neg hm]
      unfold Thread.released
      rw [hwm]
      exact if_pos ⟨rfl, rfl⟩
    rw [hrel]
    refine ⟨by rw [Thread.wake, Thread.setD_wait], fun he' => ?_⟩
    rw [Thread.wake, Thread.d_setD]
    simp [he', -BitVec.toNat_add]
  · rw [Context.arrived_sent hb' hs he hl, hset]
  · unfold State.applyArrival
    refine (State.evs_arriveAt_linked (b := b) ?_ hs he hl).trans ?_
    · rw [State.ctx_tokenGiven]
      exact hb.symm
    · rw [State.ctx_tokenGiven]
      rfl

/-! ### EVSIG and EVMSG -/

/-- A thread waits on event line `n`. -/
def Thread.onLine (n : Nat) (th : Thread) : Bool :=
  match th.wait with
  | .line m _ => decide (m = n)
  | _ => false

theorem onLine_eq_false {n : Nat} {th : Thread} (h : (match th.wait with
    | .line m _ => !(decide (m = n))
    | _ => true) = true) : th.onLine n = false := by
  unfold Thread.onLine
  cases hw : th.wait <;> simp_all

/-- The lowest thread of a context on a line stays it when the acting thread, which waits for nothing, moves on. -/
theorem Context.lowest_onLine_onThread {k : Context} {n l : Nat} {f : Thread → Thread}
    (hf : (f (k.threads.get l {})).wait = .none) (hl : ∀ th, (l, th) ∈ k.threads → th.onLine n = false) :
    (k.onThread l f).lowest (Thread.onLine n) = k.lowest (Thread.onLine n) := by
  unfold Context.lowest
  refine congrArg (Option.map _) (SMap.find?_set_of_not _ _ _ _ ?_ hl)
  unfold Thread.onLine
  rw [hf]

theorem Context.setLine_eq (k : Context) (n : Nat) : k.setLine n = match k.lowest (Thread.onLine n) with
    | some l => k.onThread l (fun th => match th.wait with
        | .line _ d => th.wake d 0
        | _ => th)
    | none => { k with lines := k.lines ||| BitVec.ofNat 32 (2 ^ n) } := rfl

theorem exec_evsig_ready {s : State} {n : BitVec 5} {x : Nat} (hx : s.slotOf s.curThread = some x)
    (hw : (Instr.evsig n).wellFormed = true) (hr : s.gigReady [] true = true) :
    exec (.evsig n) s = .next ((s.onMe Thread.next).onCtx (coachOf s.curThread) x (fun k => k.setLine n.toNat)) := by
  refine congrArg Host.Outcome.next ((State.gigInstr_ready _ _ _ _ _ hw hr).trans ?_)
  rw [hx]

/-- EVSIG of a line that no thread waits on. -/
theorem exec_evsig_none {s : State} {n : BitVec 5} {x : Nat} {k : Context} (hx : s.slotOf s.curThread = some x)
    (hk : k = s.ctx (coachOf s.curThread) x) (hw : (Instr.evsig n).wellFormed = true) (hr : s.gigReady [] true = true)
    (ha : k.threads.all (fun e => match e.2.wait with
      | .line m _ => !(decide (m = n.toNat))
      | _ => true) = true) :
    exec (.evsig n) s = .next ((s.onMe Thread.next).onCtx (coachOf s.curThread) x (fun k =>
      { k with lines := k.lines ||| BitVec.ofNat 32 (2 ^ n.toNat) })) := by
  subst hk
  rw [List.all_eq_true] at ha
  have hoff : ∀ e ∈ (s.ctx (coachOf s.curThread) x).threads, e.2.onLine n.toNat = false := fun e he => onLine_eq_false (ha e he)
  have hth := State.th_eq_get hx
  have hlow : ((s.onMe Thread.next).ctx (coachOf s.curThread) x).lowest (Thread.onLine n.toNat) = none := by
    rw [State.ctx_onMe hx, Context.lowest_onLine_onThread _ (fun th h => hoff _ h)]
    · rw [Context.lowest, List.find?_eq_none.2 (fun e he => by simp [hoff e he])]
      rfl
    · rw [← hth]
      exact State.wait_of_ready hr
  rw [exec_evsig_ready hx hw hr]
  refine congrArg Host.Outcome.next (State.onCtx_congr _ _ _ ?_)
  rw [Context.setLine_eq, hlow]

/-- EVSIG of a line that a thread waits on wakes the lowest such thread with 0 in its register. -/
theorem exec_evsig_some {s : State} {n : BitVec 5} {x l e : Nat} {k : Context} {th : Thread} {pre post : List (Nat × Thread)}
    (hx : s.slotOf s.curThread = some x) (hk : k = s.ctx (coachOf s.curThread) x) (hw : (Instr.evsig n).wellFormed = true)
    (hr : s.gigReady [] true = true) (ht : k.threads = pre ++ (l, th) :: post) (hwf : SMap.wf k.threads = true)
    (hl : th.wait = .line n.toNat e) (hp : pre.all (fun e => match e.2.wait with
      | .line m _ => !(decide (m = n.toNat))
      | _ => true) = true) :
    l ≠ localOf s.curThread ∧ k.threads.get l {} = th ∧
    exec (.evsig n) s = .next ((s.onMe Thread.next).onCtx (coachOf s.curThread) x (fun k =>
      k.onThread l (fun th => th.wake e 0))) := by
  subst hk
  have hth := State.th_eq_get hx
  have hidle := State.wait_of_ready hr
  have hget : (s.ctx (coachOf s.curThread) x).threads.get l {} = th := SMap.get_of_mem hwf (by rw [ht]; simp)
  have hne : l ≠ localOf s.curThread := by
    rintro rfl
    rw [hth, hget, hl] at hidle
    cases hidle
  have hme : ∀ u, (localOf s.curThread, u) ∈ (s.ctx (coachOf s.curThread) x).threads → u.onLine n.toNat = false := by
    intro u hu
    rw [← SMap.get_of_mem (d := {}) hwf hu, ← hth, Thread.onLine, hidle]
  have hlow : ((s.onMe Thread.next).ctx (coachOf s.curThread) x).lowest (Thread.onLine n.toNat) = some l := by
    rw [State.ctx_onMe hx, Context.lowest_onLine_onThread (by rw [← hth]; exact hidle) hme, Context.lowest, ht]
    rw [List.all_eq_true] at hp
    have hpre : pre.find? (fun e => e.2.onLine n.toNat) = none :=
      List.find?_eq_none.2 (fun e he => by simp [onLine_eq_false (hp e he)])
    rw [List.find?_append, hpre, Option.none_or, List.find?_cons_of_pos (by simp [Thread.onLine, hl])]
    rfl
  have hget' : ((s.onMe Thread.next).ctx (coachOf s.curThread) x).threads.get l {} = th := by
    rw [State.ctx_onMe hx]
    exact (SMap.get_set ..).trans (by rw [if_neg hne, hget])
  refine ⟨hne, hget, ?_⟩
  rw [exec_evsig_ready hx hw hr]
  refine congrArg Host.Outcome.next (State.onCtx_congr _ _ _ ?_)
  rw [Context.setLine_eq, hlow]
  simp only [Context.onThread, hget', hl]

theorem eventWordsComplete : Claims.EventWordsComplete := by
  intro s a n x k hx hk hw
  refine ⟨fun hr ha => exec_evsig_none hx hk hw hr ha, fun l e th pre post hr ht hwf hl hp => ?_, fun hr => ⟨fun hlt hd => ?_, fun hd => ?_⟩⟩
  · obtain ⟨hne, hget, hex⟩ := exec_evsig_some hx hk hw hr ht hwf hl hp
    have hthr : ∀ m, (((s.onMe Thread.next).onCtx (coachOf s.curThread) x (fun k =>
        k.onThread l (fun th => th.wake e 0))).ctx (coachOf s.curThread) x).threads.get m {} =
        if m = l then th.wake e 0 else if m = localOf s.curThread then s.th.next else k.threads.get m {} := by
      intro m
      rw [State.ctx_onCtx_same, State.ctx_onMe hx, ← hk]
      refine (SMap.get_set ..).trans ?_
      by_cases hm : m = l
      · rw [if_pos hm, if_pos hm]
        refine congrArg (Thread.wake · e 0) ((SMap.get_set ..).trans ?_)
        rw [if_neg hne, hget]
      · rw [if_neg hm, if_neg hm, State.th_eq_get hx, ← hk]
        exact SMap.get_set ..
    refine ⟨_, hex, ?_, ?_, fun he => ?_, fun m hm hm' => ?_, ?_, ?_, ?_⟩
    · have hcur : ∀ f, ((s.onMe Thread.next).onCtx (coachOf s.curThread) x f).curThread = s.curThread := fun f => by
        unfold State.onMe State.onThread
        split <;> rfl
      have hslot : ∀ f, ((s.onMe Thread.next).onCtx (coachOf s.curThread) x f).slotOf s.curThread = some x := fun f =>
        (State.run_onCtx ..).trans ((s.slotOf_onMe Thread.next s.curThread).trans hx)
      rw [State.th_eq_get (x := x) (by rw [hcur]; exact hslot _), hcur, hthr, if_neg (Ne.symm hne), if_pos rfl]
      rfl
    · rw [hthr, if_pos rfl, Thread.wake, Thread.setD_wait]
    · rw [hthr, if_pos rfl, Thread.wake, Thread.d_setD]
      simp [he]
    · rw [hthr, if_neg hm, if_neg hm']
    · rw [State.ctx_onCtx_same, State.ctx_onMe hx, ← hk]
      rfl
    · unfold State.onMe State.onThread
      split <;> rfl
    · unfold State.onMe State.onThread
      split <;> rfl
  · refine ⟨_, congrArg Host.Outcome.next ((State.gigInstr_ready _ _ _ _ _ rfl hr).trans (if_pos ⟨hlt, hd⟩)), ?_⟩
    have hlid : s.launchOn (coachOf s.curThread) = k.lid := by
      have hx' : (s.coach (coachOf s.curThread)).run = some x := hx
      unfold State.launchOn
      rw [hx', hk]
    rw [hlid]
  · refine congrArg Host.Outcome.next ((State.gigInstr_ready _ _ _ _ _ rfl hr).trans (if_neg ?_))
    rintro ⟨-, h⟩
    exact Bool.false_ne_true (hd.symm.trans h)

/-- Settles O33. -/
theorem synchronisationCompletes : Obligations.SynchronisationCompletes :=
  ⟨arriveCompletes, arrivalsApply, waitpCompletes, eventWordsComplete⟩

/-! ### Messages -/

/-- A thread that runs alone on coach 0 with a damaged message in its queue, and d1 at the start of its scratchpad. -/
def damagedReceiver : State :=
  { coaches := [(0, { run := some 0, ctxs := [(0, { lid := 1, threads := [(0,
      { phase := .running, regs := [(1, 0x1FFFFFFC00000)], inbox := [{ src := 3, body := [], bad := true }] })] })] })] }

/-- Refutes O34: RECV of a damaged message traps, and the trap enters the gig's road book (19 R428), so that the gigs change. -/
theorem not_messagesComplete : ¬ Obligations.MessagesComplete := by
  intro h
  have hown : ownOffset 0 64 64 0x1FFFFFFC00000 = .ok 0 := rfl
  have hready : damagedReceiver.gigReady [1] false = true := by decide
  have hfence : damagedReceiver.th.fenced 0 = false := by decide
  obtain ⟨t, ht, hg⟩ := ((h damagedReceiver 3 1 0 0).2 0 { src := 3, body := [], bad := true } [] hown hready hfence rfl).1 rfl rfl
  obtain ⟨-, -, -, hgigs⟩ := hg rfl rfl
  have hbook : ∀ u, exec (.recv 3 1 0) damagedReceiver = .next u → u.gigs.length = 1 := by
    intro u hu
    cases hu
    rfl
  have := hbook t ht
  rw [hgigs] at this
  exact absurd this (by decide)

end Sys2Proof.Machine
end

section
/-! Child launches and waybill cards (O35). -/
namespace Sys2Proof.Machine

/-! ### What a translation changes -/

/-- `u` is `s` but for the free values drawn, cached translations, scratchpad lines lent to them, and counted errors. -/
def State.WalkedTo (s u : State) : Prop := ∃ (fr : Nat) (tl : List Cached) (gs : SMap Gig) (fw : Firmware),
  u = { s with free := fr, tlb := tl, gigs := gs, fw := fw }

namespace State.WalkedTo

theorem refl (s : State) : s.WalkedTo s := ⟨_, _, _, _, rfl⟩

theorem trans {s u v : State} (h : s.WalkedTo u) (h' : u.WalkedTo v) : s.WalkedTo v := by
  obtain ⟨_, _, _, _, rfl⟩ := h
  obtain ⟨_, _, _, _, rfl⟩ := h'
  exact ⟨_, _, _, _, rfl⟩

theorem countUnc (s : State) (b : BoxSource) : s.WalkedTo (s.countUnc b) := by
  unfold State.countUnc
  cases b <;> exact ⟨_, _, _, _, rfl⟩

theorem foldl_countUnc {α : Type} (f : α → BoxSource) (l : List α) (s : State) :
    s.WalkedTo (l.foldl (fun s a => s.countUnc (f a)) s) := by
  induction l generalizing s with
  | nil => exact refl s
  | cons a l ih => exact (countUnc s (f a)).trans (ih _)

theorem translate (s : State) (a : Walker) (k va : Nat) : s.WalkedTo (s.translate a k va).2 := by
  have h1 : s.WalkedTo ((s.countTlb a k va).toLookup a k va) :=
    (foldl_countUnc (fun e : Cached => e.place.source) _ s).trans ⟨_, _, _, _, rfl⟩
  have h2 : ∀ (v : State) (n : Nat) (l : List (Nat × Nat × Bool × Word)) (r : List Nat),
      v.WalkedTo ((v.fillTlb a k n l).countTable r).drawn := fun v n l r =>
    (show v.WalkedTo (v.fillTlb a k n l) from ⟨_, _, _, _, rfl⟩).trans
      ((foldl_countUnc physSource _ _).trans ⟨_, _, _, _, rfl⟩)
  exact h1.trans (h2 _ _ _ _)

theorem headerBytes (s : State) (va : Nat) : s.WalkedTo (s.headerBytes va).2 := by
  unfold State.headerBytes
  split
  · exact refl s
  · have ht := translate s (.data (gigOf s.curThread)) (s.partOfThread s.curThread) va
    split
    · rename_i h
      rw [h] at ht
      exact ht
    · rename_i e3 big s1 h
      rw [h] at ht
      dsimp only
      split
      · exact ht
      · split
        · exact ht
        · exact ht
        · split
          · exact ht.trans (countUnc _ _)
          · exact ht

end State.WalkedTo

/-! ### Launches by number -/

theorem State.launch_set (s : State) (l m : Nat) (v : Launch) :
    ({ s with launches := s.launches.set l v } : State).launch m = if m = l then some v else s.launch m := by
  unfold State.launch
  split
  · rename_i h
    rw [h]
    exact congrArg (Option.map _) (SMap.find?_set _ _ _)
  · rename_i h
    refine congrArg (Option.map _) (SMap.find?_set_of_not _ _ _ _ (by simpa using Ne.symm h) (fun w _ => by simpa using Ne.symm h))

/-- A change of a launch leaves every launch there. -/
theorem State.isSome_launch_onLaunch (s : State) (l m : Nat) (f : Launch → Launch) :
    ((s.onLaunch l f).launch m).isSome = (s.launch m).isSome := by
  unfold State.onLaunch
  cases h : s.launch l with
  | none => rfl
  | some v =>
    dsimp only
    rw [State.launch_set]
    split
    · rename_i hm
      rw [hm, h]
      rfl
    · rfl

/-- What a new launch changes: launches, and the next number. -/
theorem State.newLaunch_eq (s : State) (k d : Nat) (h : List Word) (ev : SMap (BitVec 32)) (p : Bool) (parent job : Option Nat) :
    ∃ ls, s.newLaunch k d h ev p parent job = { s with launches := ls, nextLid := s.nextLid + 1 } := by
  unfold State.newLaunch
  dsimp only
  split
  · exact ⟨_, rfl⟩
  · unfold State.onLaunch
    split <;> exact ⟨_, rfl⟩

theorem State.isSome_launch_newLaunch (s : State) (k d : Nat) (h : List Word) (ev : SMap (BitVec 32)) (p : Bool)
    (parent job : Option Nat) : ((s.newLaunch k d h ev p parent job).launch s.nextLid).isSome = true := by
  have hset : ∀ l : Launch, (({ s with launches := s.launches.set s.nextLid l, nextLid := s.nextLid + 1 } : State).launch
      s.nextLid).isSome = true := fun l =>
    congrArg Option.isSome ((s.launch_set s.nextLid s.nextLid l).trans (if_pos rfl))
  unfold State.newLaunch
  dsimp only
  split
  · exact hset _
  · rw [State.isSome_launch_onLaunch]
    exact hset _

theorem State.takeIn_eq (s : State) (d lid : Nat) : ∃ ls, s.takeIn d lid =
    { s.onDie d (fun x => { x with pool := x.pool ++ [lid] }) with launches := ls } := by
  unfold State.takeIn State.onLaunch
  split <;> exact ⟨_, rfl⟩

/-! ### SPAWN -/

/-- The word that SPAWN returns. -/
def spawnWord (st id : Nat) : Word := BitVec.ofNat 64 (st * 2 ^ 62 + id % 2 ^ 32)

/-- The state after SPAWN has come to its result: `v` in the register, and its thread one on. -/
def State.spawned (s : State) (d : Nat) (v : Word) : State := s.onMe (fun th => (th.setD d v).next)

theorem State.onMe_eq_coaches (s : State) (f : Thread → Thread) : ∃ cs, s.onMe f = { s with coaches := cs } := by
  unfold State.onMe State.onThread
  split <;> exact ⟨_, rfl⟩

/-- SPAWN of a readable and valid header with valid records, as the pool, the spill queue or neither takes the child. -/
theorem exec_spawn_valid {s u : State} {d a : BitVec 5} {p : BitVec 1} {bs es : List Byte} {h : List Word} {k : Nat}
    (hk : k = s.partOfThread s.curThread) (hw : (Instr.spawn d a p).wellFormed = true) (hr : s.gigReady [a.toNat] true = true)
    (hh : s.headerBytes (s.th.d a.toNat).toNat = (.ok bs, u)) (hd : h = wordsOf bs) (ho : headerOk (s.part k) h = true)
    (he : u.pagedBytes k (hEvinit h) (64 * hNcoach h) = .ok es)
    (hv : evinitOk (evinitOf (hFcoach h) es) (hFcoach h) (hNcoach h) = true) :
    exec (.spawn d a p) s = .next (
      if poolAdmits (u.die (dieOf s.curThread)).pool.length (decide (p = 1)) then
        ((u.newLaunch k (dieOf s.curThread) h (evinitOf (hFcoach h) es) (decide (p = 1))
          (if p = 1 then some (u.launchOn (coachOf u.curThread)) else none) none).takeIn (dieOf s.curThread) u.nextLid).spawned
          d.toNat (spawnWord 0 u.nextLid)
      else if (u.die (dieOf s.curThread)).spill.length < (u.part k).sqcap then
        (((u.drawn.newLaunch k (dieOf s.curThread) h (evinitOf (hFcoach h) es) (decide (p = 1))
          (if p = 1 then some (u.launchOn (coachOf u.curThread)) else none) none).onDie (dieOf s.curThread) (fun x =>
            { x with spill := x.spill ++ [u.nextLid] })).writePhys ((u.part k).sqbase +
              ((u.part k).dieIndex (dieOf s.curThread) * (u.part k).sqcap + u.freeVal % (u.part k).sqcap) * 64) bs).spawned
          d.toNat (spawnWord 1 u.nextLid)
      else u.drawn.spawned d.toNat (spawnWord 2 u.freeVal)) := by
  subst hk hd
  have hu := State.WalkedTo.headerBytes s (s.th.d a.toNat).toNat
  rw [hh] at hu
  have hpart : ∀ n, u.part n = s.part n := by
    obtain ⟨_, _, _, _, hu⟩ := hu
    dsimp only at hu
    rw [hu]
    exact fun _ => rfl
  refine congrArg Host.Outcome.next ((State.gigInstr_ready _ _ _ _ _ hw hr).trans ?_)
  dsimp only
  rw [hh]
  dsimp only
  rw [hpart, ho, if_neg (by decide), he]
  dsimp only
  rw [hv, if_neg (by decide), ← hpart]
  rfl

theorem State.th_congr {s u : State} (hc : s.coaches = u.coaches) (ht : s.curThread = u.curThread) : s.th = u.th := by
  unfold State.th State.thread
  rw [ht, State.slotOf_congr hc]
  cases u.slotOf u.curThread with
  | none => rfl
  | some x => dsimp only; rw [State.ctx_congr hc]

theorem State.th_spawned {s u : State} (hc : u.coaches = s.coaches) (ht : u.curThread = s.curThread)
    (hs : (s.slotOf s.curThread).isSome = true) (d : Nat) (v : Word) : (u.spawned d v).th = (s.th.setD d v).next := by
  unfold State.spawned
  rw [State.th_onMe _ _ (by rw [ht, State.slotOf_congr hc]; exact hs), State.th_congr hc ht]

theorem State.spawned_eq_coaches (s : State) (d : Nat) (v : Word) : ∃ cs, s.spawned d v = { s with coaches := cs } :=
  s.onMe_eq_coaches _

/-- The register of a thread that SPAWN has passed. -/
theorem Thread.d_spawned {th : Thread} {d : BitVec 5} (v : Word) (hd : d ≠ 0) : ((th.setD d.toNat v).next).d d.toNat = v := by
  refine (Thread.d_setD th d.toNat d.toNat v).trans ?_
  have : d.toNat ≠ 0 := fun h => hd (BitVec.eq_of_toNat_eq h)
  simp [this]

/-- A new launch that its die's pool takes in. -/
theorem State.newLaunch_takeIn (u : State) (k d : Nat) (h : List Word) (ev : SMap (BitVec 32)) (p : Bool) (parent job : Option Nat) :
    ∃ (x : State), x = (u.newLaunch k d h ev p parent job).takeIn d u.nextLid ∧ x.coaches = u.coaches ∧
      x.curThread = u.curThread ∧ x.nextLid = u.nextLid + 1 ∧ x.mem = u.mem ∧
      (x.die d).pool = (u.die d).pool ++ [u.nextLid] ∧ (x.launch u.nextLid).isSome = true := by
  obtain ⟨ls, hnew⟩ := u.newLaunch_eq k d h ev p parent job
  obtain ⟨ls', htake⟩ := (u.newLaunch k d h ev p parent job).takeIn_eq d u.nextLid
  have hsome := u.isSome_launch_newLaunch k d h ev p parent job
  refine ⟨_, rfl, ?_, ?_, ?_, ?_, ?_, ?_⟩
  · rw [htake, hnew]; rfl
  · rw [htake, hnew]; rfl
  · rw [htake, hnew]; rfl
  · rw [htake, hnew]; rfl
  · rw [htake, hnew]
    refine (congrArg Die.pool (State.die_onDie u d d (fun x => { x with pool := x.pool ++ [u.nextLid] }))).trans ?_
    rw [if_pos rfl]
  · unfold State.takeIn
    rw [State.isSome_launch_onLaunch]
    exact hsome

/-- A new launch that stands in the spill queue of its die, its entry written at `pa`. -/
theorem State.newLaunch_spill (u : State) (k d : Nat) (h : List Word) (ev : SMap (BitVec 32)) (p : Bool) (parent job : Option Nat)
    (pa : Nat) (bs : List Byte) : ∃ (x : State), x = ((u.drawn.newLaunch k d h ev p parent job).onDie d (fun x =>
        { x with spill := x.spill ++ [u.nextLid] })).writePhys pa bs ∧ x.coaches = u.coaches ∧ x.curThread = u.curThread ∧
      x.nextLid = u.nextLid + 1 ∧ (x.die d).spill = (u.die d).spill ++ [u.nextLid] := by
  obtain ⟨ls, hnew⟩ := u.drawn.newLaunch_eq k d h ev p parent job
  refine ⟨_, rfl, ?_, ?_, ?_, ?_⟩
  · rw [hnew]; rfl
  · rw [hnew]; rfl
  · rw [hnew]; rfl
  · rw [hnew]
    refine (congrArg Die.spill (State.die_onDie u d d (fun x => { x with spill := x.spill ++ [u.nextLid] }))).trans ?_
    rw [if_pos rfl]

theorem spawnCompletes : Claims.SpawnCompletes := by
  intro s u d a p bs es h k hk hw hr hh hd ho he hv
  have hex := exec_spawn_valid hk hw hr hh hd ho he hv
  have hu := State.WalkedTo.headerBytes s (s.th.d a.toNat).toNat
  rw [hh] at hu
  obtain ⟨hdie, hpart, hcs, hcur, hnext, hls, hmem⟩ : (∀ n, u.die n = s.die n) ∧ (∀ n, u.part n = s.part n) ∧
      u.coaches = s.coaches ∧ u.curThread = s.curThread ∧ u.nextLid = s.nextLid ∧ u.launches = s.launches ∧ u.mem = s.mem := by
    obtain ⟨_, _, _, _, rfl⟩ := hu
    exact ⟨fun _ => rfl, fun _ => rfl, rfl, rfl, rfl, rfl, rfl⟩
  have hslot := State.slotOf_of_ready _ _ _ hr
  have hlim : (if decide (p = 1) = true then 256 else 224) = if p = 1 then 256 else 224 := by simp
  rw [poolAdmits, hlim, hdie, hpart, hnext] at hex
  refine ⟨fun hn => ?_, fun hn hs => ?_, fun hn hs => ?_⟩
  · rw [if_pos (decide_eq_true hn)] at hex
    obtain ⟨x, hx, hxc, hxt, hxn, hxm, hxp, hxl⟩ := u.newLaunch_takeIn k (dieOf s.curThread) h (evinitOf (hFcoach h) es)
      (decide (p = 1)) (if p = 1 then some (u.launchOn (coachOf u.curThread)) else none) none
    rw [hnext] at hx hxn hxp hxl
    rw [← hx] at hex
    have hth := State.th_spawned (hxc.trans hcs) (hxt.trans hcur) hslot d.toNat (spawnWord 0 s.nextLid)
    obtain ⟨cs, hsp⟩ := x.spawned_eq_coaches d.toNat (spawnWord 0 s.nextLid)
    refine ⟨_, hex, ?_, ?_, ?_, ?_, fun hd => ?_, ?_⟩
    · rw [hsp]; exact hxn
    · rw [hsp]; exact hxl
    · rw [hsp, ← hdie]; exact hxp
    · rw [hth, Thread.next, Thread.setD_pc]
    · rw [hth, Thread.d_spawned _ hd]
      simp [spawnWord]
    · rw [hsp]; exact hxm.trans hmem
  · rw [if_neg (by simpa using hn), if_pos (hk ▸ hs)] at hex
    obtain ⟨x, hx, hxc, hxt, hxn, hxp⟩ := u.newLaunch_spill k (dieOf s.curThread) h (evinitOf (hFcoach h) es)
      (decide (p = 1)) (if p = 1 then some (u.launchOn (coachOf u.curThread)) else none) none
      ((s.part k).sqbase + ((s.part k).dieIndex (dieOf s.curThread) * (s.part k).sqcap + u.freeVal % (s.part k).sqcap) * 64) bs
    rw [hnext] at hx hxn hxp
    rw [← hx] at hex
    have hth := State.th_spawned (hxc.trans hcs) (hxt.trans hcur) hslot d.toNat (spawnWord 1 s.nextLid)
    obtain ⟨cs, hsp⟩ := x.spawned_eq_coaches d.toNat (spawnWord 1 s.nextLid)
    refine ⟨_, hex, ?_, ?_, fun hd => ?_⟩
    · rw [hsp]; exact hxn
    · rw [hsp, ← hdie]; exact hxp
    · rw [hth, Thread.d_spawned _ hd]
      simp [spawnWord]
  · rw [if_neg (by simpa using hn), if_neg (Nat.not_lt.2 (hk ▸ hs))] at hex
    have hth := State.th_spawned (s := s) (u := u.drawn) hcs hcur hslot d.toNat (spawnWord 2 u.freeVal)
    obtain ⟨cs, hsp⟩ := u.drawn.spawned_eq_coaches d.toNat (spawnWord 2 u.freeVal)
    refine ⟨_, hex, ?_, ?_, fun hd => ?_⟩
    · rw [hsp]; exact hnext
    · rw [hsp]; exact hls
    · rw [hth, Thread.d_spawned _ hd, spawnWord, BitVec.toNat_ofNat]
      omega

/-! ### WBILL and WBSTAT -/

/-- The thread without the grant that a card takes. -/
def Thread.spend (th : Thread) (grant : Option Held) : Thread :=
  match grant with
  | none => th
  | some g => { th with grants := th.grants.erase g }

/-- WBILL of a card that lies in sound bytes of the own scratchpad, its checks still to come. -/
theorem exec_wbill_card {s : State} {d a : BitVec 5} {o x : Nat} (hx : s.slotOf s.curThread = some x)
    (ho : ownOffset s.curThread 64 64 (s.th.d a.toNat).toNat = .ok o) (hw : (Instr.wbill d a).wellFormed = true)
    (hr : s.gigReady [a.toNat] true = true) (hb : s.ownBad o 64 = false) (k : Context) (w : List Word) (cs free : List Card)
    (grant : Option Held) (hk : k = s.ctx (coachOf s.curThread) x)
    (hwd : w = wordsOf ((s.gig (gigOf s.curThread)).sp.readBytes o 64)) (hcs : cs = s.engineCards (coachOf s.curThread) k.lid)
    (hfree : free = (cs.filter (fun e => cardEdge e.words w)).filter (fun e => decide (e.thread ≠ localOf s.curThread) &&
      !(predReach cs (cs.length + 1) (wPreds w) (wSeq e.words)) && !(predReach cs (cs.length + 1) (wPreds e.words) (wSeq w))))
    (hgrant : grant = if 0x400000 ≤ wSize w then s.th.grantFor (s.cycle (dieOf s.curThread)) (wSize w) else none) :
    exec (.wbill d a) s = .next (
      if cardBad (fun n => decide ((k.bars.get n {}).expect ≠ 0)) w then s.trapMe trapIll 0 (s.th.d a.toNat)
      else if 32 ≤ (cs.filter (fun e => decide (e.state = .waiting))).length then s.onMe (fun th => (th.setD d.toNat 1).next)
      else match (if hDet (s.header k.lid) then free.head? else none) with
        | some e => s.trapMe trapOverlap 0 (BitVec.ofNat 64 (wSeq e.words))
        | none => (s.onCoach (coachOf s.curThread) (fun q => { q with
              cards := q.cards ++ [{ num := (s.coach (coachOf s.curThread)).nextCard, lid := k.lid, thread := localOf s.curThread,
                                     level := s.th.level, words := w, state := .waiting, granted := grant.isSome, retry := 0,
                                     rows := [], cause := 0,
                                     edges := (cs.filter (fun e => cardEdge e.words w)).map (fun e => e.num) }],
              nextCard := q.nextCard + 1 })).onMe (fun th =>
            ((th.spend grant).setD d.toNat 0).next)) := by
  subst hfree hgrant hcs hwd hk
  refine congrArg Host.Outcome.next ((State.gigInstr_ready _ _ _ _ _ hw hr).trans ?_)
  dsimp only
  rw [State.withOwn, ho]
  dsimp only
  rw [hx]
  dsimp only
  rw [hb, if_neg (by decide)]
  rfl

theorem State.launchOn_of_slotOf {s : State} {t x : Nat} (hx : s.slotOf t = some x) :
    s.launchOn (coachOf t) = (s.ctx (coachOf t) x).lid := by
  have hx' : (s.coach (coachOf t)).run = some x := hx
  unfold State.launchOn
  rw [hx']

theorem cardsComplete : Claims.CardsComplete := by
  rintro s d a o x c k w cs rfl hx hk hwd hcs
  refine ⟨fun ho hw hr hb => ?_, fun hw hr => ⟨fun e he => ?_, fun hne => ?_⟩⟩
  · have hex := fun free grant => exec_wbill_card hx ho hw hr hb k w cs free grant hk hwd hcs
    refine ⟨fun hbad => (hex _ _ rfl rfl).trans (congrArg Host.Outcome.next (if_pos hbad)), fun hbad hfull =>
      (hex _ _ rfl rfl).trans (congrArg Host.Outcome.next ((if_neg (Bool.eq_false_iff.1 hbad)).trans (if_pos hfull))),
      fun hbad hroom free grant hf hg => ⟨fun h => ?_, fun e es hdet he => ?_⟩⟩
    · rw [hex free grant hf hg, if_neg (Bool.eq_false_iff.1 hbad), if_neg (Nat.not_le.2 hroom)]
      have hnone : (if hDet (s.header k.lid) then free.head? else none) = none := by
        rcases h with h | h
        · rw [h]; rfl
        · rw [h]; simp
      rw [hnone]
      cases grant <;> rfl
    · rw [hex free grant hf hg, if_neg (Bool.eq_false_iff.1 hbad), if_neg (Nat.not_le.2 hroom), if_pos hdet, he]
      rfl
  · refine congrArg Host.Outcome.next (s.toD_ready _ _ _ _ _ hw hr ?_)
    dsimp only
    rw [State.launchOn_of_slotOf hx, ← hk, he]
  · refine congrArg Host.Outcome.next (s.toD_ready _ _ _ _ _ hw hr ?_)
    dsimp only
    rw [State.launchOn_of_slotOf hx, ← hk, List.filter_eq_nil_iff.2 (fun e he h => ?_)]
    · rfl
    · simp only [Bool.and_eq_true, decide_eq_true_eq] at h
      exact hne e he h.1 h.2

/-- Settles O35. -/
theorem launchesAndCardsComplete : Obligations.LaunchesAndCardsComplete := ⟨spawnCompletes, cardsComplete⟩

end Sys2Proof.Machine
end

section
/-! Accesses that perform at physical memory (O30). -/
namespace Sys2Proof.Machine

/-! ### An access that has performed is no longer outstanding -/

theorem Thread.mem_accs {th : Thread} {b : Access} : b ∈ th.accs ↔ Pending.acc b ∈ th.pend := by
  unfold Thread.accs
  rw [List.mem_filterMap]
  constructor
  · rintro ⟨p, hp, h⟩
    cases p with
    | acc c => cases h; exact hp
    | fence => cases h
  · exact fun h => ⟨_, h, rfl⟩

theorem mem_of_mem_trimFences {p : Pending} {ps : List Pending} (h : p ∈ trimFences ps) : p ∈ ps := by
  induction ps with
  | nil => exact h
  | cons q ps ih =>
    cases q with
    | acc b => exact h
    | fence sc m => exact List.mem_cons_of_mem _ (ih h)

/-- No access of the number stays outstanding. -/
theorem Thread.id_ne_of_retireAcc {th : Thread} {j : Nat} {b : Access} (h : b ∈ (th.retireAcc j).accs) : b.id ≠ j := by
  have h' := mem_of_mem_trimFences (Thread.mem_accs.1 h)
  simpa using (List.mem_filter.1 h').2

theorem id_of_mem_forgetBefore {j d : Nat} {b : Access} {ps : List Pending} (h : Pending.acc b ∈ forgetBefore j d ps) :
    ∃ c, Pending.acc c ∈ ps ∧ c.id = b.id := by
  obtain ⟨p, hp, he⟩ := List.mem_map.1 h
  cases p with
  | fence => cases he
  | acc c =>
    refine ⟨c, hp, ?_⟩
    dsimp only at he
    split at he
    · unfold Pending.forget at he
      injection he with he
      rw [← he]
      split <;> rfl
    · injection he with he
      rw [he]

theorem Thread.id_ne_of_complete {th : Thread} {a b : Access} {v : Word} (h : b ∈ (th.complete a v).accs) : b.id ≠ a.id := by
  unfold Thread.complete at h
  dsimp only at h
  split at h
  · split at h
    · exact Thread.id_ne_of_retireAcc h
    · obtain ⟨c, hc, he⟩ := id_of_mem_forgetBefore (Thread.mem_accs.1 h)
      rw [← he]
      exact Thread.id_ne_of_retireAcc (Thread.mem_accs.2 hc)
  · exact Thread.id_ne_of_retireAcc h

theorem Thread.accs_useCxl (th : Thread) : th.useCxl.accs = th.accs := by
  unfold Thread.useCxl
  split <;> rfl

theorem Thread.d_useCxl (th : Thread) (n : Nat) : th.useCxl.d n = th.d n := by
  unfold Thread.useCxl
  split <;> rfl

theorem Thread.d_complete (th : Thread) (a : Access) (v : Word) (k : Nat) :
    (th.complete a v).d k = if a.dest = some k ∧ k ≠ 0 then v else th.d k := by
  unfold Thread.complete
  cases a.dest with
  | none => rw [if_neg (by simp)]; rfl
  | some d =>
    dsimp only
    by_cases hd : d = 0
    · rw [if_pos hd, if_neg (by rw [hd]; rintro ⟨h, h'⟩; cases h; exact h' rfl)]
      rfl
    · rw [if_neg hd]
      by_cases hk : k = d
      · subst hk
        rw [if_pos ⟨rfl, hd⟩, Thread.d, if_neg hd, SMap.get_set, if_pos rfl]
      · rw [if_neg (by rintro ⟨h, -⟩; cases h; exact hk rfl)]
        unfold Thread.d
        dsimp only
        rw [SMap.get_set, if_neg hk]
        rfl

theorem State.thread_onThread_same {s : State} {t : Nat} (f : Thread → Thread) (h : (s.slotOf t).isSome = true) :
    (s.onThread t f).thread t = f (s.thread t) := by
  obtain ⟨x, hx⟩ := Option.isSome_iff_exists.1 h
  unfold State.onThread
  rw [hx]
  have hslot : (s.onCtx (coachOf t) x (fun c => c.onThread (localOf t) f)).slotOf t = some x := (State.run_onCtx ..).trans hx
  unfold State.thread
  rw [hslot, hx]
  dsimp only
  rw [State.ctx_onCtx_same]
  exact (SMap.get_set ..).trans (if_pos rfl)

theorem State.slotOf_onThread (s : State) (t u : Nat) (f : Thread → Thread) : (s.onThread t f).slotOf u = s.slotOf u := by
  unfold State.onThread
  split
  · rfl
  · exact State.run_onCtx ..

theorem State.onThread_eq_coaches (s : State) (t : Nat) (f : Thread → Thread) : ∃ cs, s.onThread t f = { s with coaches := cs } := by
  unfold State.onThread
  split <;> exact ⟨_, rfl⟩

/-- A thread with an access outstanding belongs to the context that runs. -/
theorem State.slotOf_of_access {s : State} {t j : Nat} {a : Access} (h : s.access t j = some a) :
    (s.slotOf t).isSome = true := by
  cases hx : s.slotOf t with
  | some x => rfl
  | none =>
    unfold State.access State.thread at h
    rw [hx] at h
    cases h

theorem State.id_of_access {s : State} {t j : Nat} {a : Access} (h : s.access t j = some a) : a.id = j := by
  have := List.find?_some h
  simpa using this

theorem State.access_eq_none {s : State} {t j : Nat} (h : ∀ b ∈ (s.thread t).accs, b.id ≠ j) : s.access t j = none :=
  List.find?_eq_none.2 (fun b hb => by simpa using h b hb)

/-- What the thread's grant for CXL changes: one thread. -/
theorem State.burst_facts {s : State} {t : Nat} (k : Target) (h : (s.slotOf t).isSome = true) :
    ((s.burst t k).thread t).accs = (s.thread t).accs ∧ (∀ n, ((s.burst t k).thread t).d n = (s.thread t).d n) ∧
      ∃ cs, s.burst t k = { s with coaches := cs } := by
  unfold State.burst
  split
  · split
    · rw [State.thread_onThread_same _ h]
      exact ⟨Thread.accs_useCxl _, Thread.d_useCxl _, s.onThread_eq_coaches ..⟩
    · exact ⟨rfl, fun _ => rfl, _, rfl⟩
  · exact ⟨rfl, fun _ => rfl, _, rfl⟩

/-! ### The access performs -/

/-- An access to physical memory that nothing holds back performs. -/
theorem exec_access_phys {s : State} {t j pa : Nat} {a : Access} (h : s.access t j = some a) (hk : a.target = .phys pa)
    (hm : (s.thread t).mayPerform t a = true) (hb : s.blocksClear t a = true) :
    exec (.accessReachesTarget t j) s = .next (s.performAcc t a) := by
  change execAccessReachesTarget t j s = _
  unfold execAccessReachesTarget
  rw [h]
  dsimp only
  rw [hk]
  exact if_pos (by rw [hm, hb]; rfl)

theorem State.performAcc_load {s : State} {t pa n : Nat} {sg : Bool} {a : Access} (ho : a.op = .load n sg)
    (hk : a.target = .phys pa) (hd : s.damaged pa n = false) :
    s.performAcc t a = (s.onThread t (fun th => th.complete a (loadValue n sg (s.mem.readLE pa n)))).burst t a.target := by
  unfold State.performAcc
  rw [ho, hk]
  exact if_neg (Bool.eq_false_iff.1 hd)

theorem State.performAcc_store {s : State} {t pa n v : Nat} {a : Access} (ho : a.op = .store n v) (hk : a.target = .phys pa)
    (hf : s.hostStoreFails (.phys pa) n = false) :
    s.performAcc t a = ((s.writePhys pa (toBytes n v)).onThread t (fun th => th.retireAcc a.id)).burst t a.target := by
  unfold State.performAcc
  rw [ho, hk]
  exact if_neg (Bool.eq_false_iff.1 hf)

theorem State.performAcc_amo {s : State} {t pa o : Nat} {w : Bool} {v c : Word} {a : Access} (ho : a.op = .amo o w v c)
    (hk : a.target = .phys pa) (hd : s.damaged pa (if w then 8 else 4) = false) :
    s.performAcc t a = (s.writePhys pa (toBytes (if w then 8 else 4) (amoNew o (8 * (if w then 8 else 4))
      (s.mem.readLE pa (if w then 8 else 4)) v.toNat c.toNat))).onThread t (fun th =>
        th.complete a (loadValue (if w then 8 else 4) true (s.mem.readLE pa (if w then 8 else 4)))) := by
  unfold State.performAcc
  rw [ho, hk]
  exact if_neg (Bool.eq_false_iff.1 hd)

theorem State.read_writePhys_outside (s : State) (pa b : Nat) (bs : List Byte) (h : b < pa ∨ pa + bs.length ≤ b) :
    (s.writePhys pa bs).mem.read b = s.mem.read b := Memory.read_writeBytes_outside _ _ _ _ h

/-- Settles O30: what performs is read off for each kind of access. -/
theorem physicalAccessesPerform : Obligations.PhysicalAccessesPerform := by
  intro s t j pa a ha hk hm hb
  have hex := exec_access_phys ha hk hm hb
  have hslot := State.slotOf_of_access ha
  have hid := State.id_of_access ha
  refine ⟨fun n sg v ho hd hv => ?_, fun n v ho hf => ?_, fun o w v c n ho hn hd => ?_⟩
  · rw [State.performAcc_load ho hk hd] at hex
    have hslot' := hslot
    rw [← State.slotOf_onThread s t t (fun th => th.complete a (loadValue n sg (s.mem.readLE pa n)))] at hslot'
    obtain ⟨haccs, hregs, cs, hcs⟩ := State.burst_facts a.target hslot'
    obtain ⟨cs', hcs'⟩ := s.onThread_eq_coaches t (fun th => th.complete a (loadValue n sg (s.mem.readLE pa n)))
    rw [State.thread_onThread_same _ hslot] at haccs hregs
    refine ⟨_, hex, fun k => ?_, ?_, ?_, ?_, State.access_eq_none fun b hb => ?_⟩
    · rw [hregs, Thread.d_complete, hv]
      rfl
    · rw [hcs, hcs']
    · rw [hcs, hcs']
    · rw [hcs, hcs']
    · rw [haccs] at hb
      exact hid ▸ Thread.id_ne_of_complete hb
  · rw [State.performAcc_store ho hk hf] at hex
    have hslot' : ((s.writePhys pa (toBytes n v)).slotOf t).isSome = true := hslot
    have hslot'' := hslot'
    rw [← State.slotOf_onThread _ t t (fun th => th.retireAcc a.id)] at hslot''
    obtain ⟨haccs, -, cs, hcs⟩ := State.burst_facts a.target hslot''
    obtain ⟨cs', hcs'⟩ := (s.writePhys pa (toBytes n v)).onThread_eq_coaches t (fun th => th.retireAcc a.id)
    rw [State.thread_onThread_same _ hslot'] at haccs
    refine ⟨_, hex, ?_, fun b hb => ?_, ?_, ?_, State.access_eq_none fun b hb => ?_⟩
    · rw [hcs, hcs']
      exact Memory.readLE_writeLE ..
    · rw [hcs, hcs']
      exact s.read_writePhys_outside _ _ _ (by rwa [toBytes_length])
    · rw [hcs, hcs']
      rfl
    · rw [hcs, hcs']
      rfl
    · rw [haccs] at hb
      exact hid ▸ Thread.id_ne_of_retireAcc hb
  · subst hn
    rw [State.performAcc_amo ho hk hd] at hex
    obtain ⟨cs, hcs⟩ := (s.writePhys pa (toBytes (if w then 8 else 4) (amoNew o (8 * (if w then 8 else 4))
      (s.mem.readLE pa (if w then 8 else 4)) v.toNat c.toNat))).onThread_eq_coaches t (fun th =>
        th.complete a (loadValue (if w then 8 else 4) true (s.mem.readLE pa (if w then 8 else 4))))
    refine ⟨_, hex, ?_, fun b hb => ?_, rfl⟩
    · rw [hcs]
      exact Memory.readLE_writeLE ..
    · rw [hcs]
      exact s.read_writePhys_outside _ _ _ (by rwa [toBytes_length])

end Sys2Proof.Machine
end

section
/-! Results that land, and what a pipeline detects (O20). -/
namespace Sys2Proof.Machine

/-! ### Registers -/

/-- Register vn after a result for vd under a mask. -/
theorem Pipe.vreg_writeResult (p : Pipe) (d n : Nat) (v m : VWord) :
    (p.writeResult (.vreg d v m)).vreg n = if n = d then masked (p.vreg d) v m else p.vreg n := by
  unfold Pipe.writeResult
  dsimp only
  split <;> exact SMap.get_set ..

/-- Register mn after a result for md under a mask. -/
theorem Pipe.mreg_writeResult (p : Pipe) (d n : Nat) (v m : Word) :
    (p.writeResult (.mreg d v m)).mreg n = if n = d then masked (p.mreg d) v m else p.mreg n := by
  unfold Pipe.writeResult
  dsimp only
  split <;> exact SMap.get_set ..

/-- What a register reads after a result that is no coefficient table, descriptor or walk. -/
theorem Pipe.reads_writeResult (p : Pipe) (x : Result) (r : RegRef) :
    Claims.reads (p.writeResult x) r = if x.writes r then Claims.landed x r (Claims.reads p r) else Claims.reads p r := by
  cases x with
  | sreg d v =>
    unfold Pipe.writeResult
    cases r with
    | s n =>
      by_cases hd : d = 0
      · subst hd
        by_cases hn : n = 0 <;> simp [Result.writes, hn, eq_comm]
      · by_cases hn : n = d
        · subst hn
          simp [Result.writes, Claims.reads, Claims.landed, Pipe.sreg, hd, Regs.sound, SMap.get_set]
        · simp [Result.writes, Claims.reads, Pipe.sreg, hd, Regs.sound, SMap.get_set, hn, Ne.symm hn]
    | _ =>
      dsimp only
      by_cases hd : d = 0
      · rw [if_pos hd]; rfl
      · rw [if_neg hd]; rfl
  | preg d v =>
    unfold Pipe.writeResult
    cases r with
    | p n =>
      by_cases hd : d = 0
      · subst hd
        by_cases hn : n = 0 <;> simp [Result.writes, hn, eq_comm]
      · by_cases hn : n = d
        · subst hn
          simp [Result.writes, Claims.reads, Claims.landed, Pipe.preg, hd, Regs.sound, SMap.get_set]
        · simp [Result.writes, Claims.reads, Pipe.preg, hd, Regs.sound, SMap.get_set, hn, Ne.symm hn]
    | _ =>
      dsimp only
      by_cases hd : d = 0
      · rw [if_pos hd]; rfl
      · rw [if_neg hd]; rfl
  | areg d v =>
    cases r with
    | a n =>
      by_cases hn : n = d
      · simp [Pipe.writeResult, Result.writes, Claims.reads, Claims.landed, Pipe.areg, Regs.sound, SMap.get_set, hn]
      · simp [Pipe.writeResult, Result.writes, Claims.reads, Pipe.areg, Regs.sound, SMap.get_set, hn, Ne.symm hn]
    | _ => rfl
  | breg d v =>
    cases r with
    | b n =>
      by_cases hn : n = d
      · simp [Pipe.writeResult, Result.writes, Claims.reads, Claims.landed, Pipe.breg, Regs.sound, SMap.get_set, hn]
      · simp [Pipe.writeResult, Result.writes, Claims.reads, Pipe.breg, Regs.sound, SMap.get_set, hn, Ne.symm hn]
    | _ => rfl
  | vreg d v m =>
    cases r with
    | v n =>
      by_cases hn : n = d
      · simp [Result.writes, Claims.reads, Claims.landed, Pipe.vreg_writeResult, hn]
      · simp [Result.writes, Claims.reads, Pipe.vreg_writeResult, hn, Ne.symm hn]
    | _ =>
      unfold Pipe.writeResult
      dsimp only
      split <;> rfl
  | mreg d v m =>
    cases r with
    | m n =>
      by_cases hn : n = d
      · simp [Result.writes, Claims.reads, Claims.landed, Pipe.mreg_writeResult, hn]
      · simp [Result.writes, Claims.reads, Pipe.mreg_writeResult, hn, Ne.symm hn]
    | _ =>
      unfold Pipe.writeResult
      dsimp only
      split <;> rfl
  | cb d v =>
    cases r with
    | cb n =>
      by_cases hn : n = d
      · simp [Pipe.writeResult, Result.writes, Claims.reads, Claims.landed, Pipe.cbreg, Regs.sound, SMap.get_set, hn]
      · simp [Pipe.writeResult, Result.writes, Claims.reads, Pipe.cbreg, Regs.sound, SMap.get_set, hn, Ne.symm hn]
    | _ => rfl
  | coef | scfg | nxt | tlb | latch | acc | flags => cases r <;> simp [Result.writes, Claims.landed] <;> rfl

/-! ### What else a result writes -/

theorem Pipe.fly_writeResult (p : Pipe) (x : Result) : (p.writeResult x).fly = p.fly := by
  cases x with
  | sreg d v | preg d v => unfold Pipe.writeResult; dsimp only; split <;> rfl
  | _ => rfl

theorem Pipe.q_writeResult (p : Pipe) (x : Result) : (p.writeResult x).q = p.q := by
  cases x with
  | sreg d v | preg d v => unfold Pipe.writeResult; dsimp only; split <;> rfl
  | _ => rfl

theorem Pipe.csr_writeResult (p : Pipe) (x : Result) : (p.writeResult x).csr = p.csr := by
  cases x with
  | sreg d v | preg d v => unfold Pipe.writeResult; dsimp only; split <;> rfl
  | _ => rfl

theorem Pipe.mem_writeResult (p : Pipe) {x : Result} (hx : x.plain = true) : (p.writeResult x).mem = p.mem := by
  cases x with
  | sreg d v | preg d v => unfold Pipe.writeResult; dsimp only; split <;> rfl
  | coef => exact Bool.noConfusion hx
  | _ => rfl

/-- A row after rows are set, one after another. -/
theorem get_foldl_set {α : Type} (rows : List (Nat × α)) (m : SMap α) (n : Nat) (d : α) :
    SMap.get (rows.foldl (fun m e => m.set e.1 e.2) m) n d =
      rows.foldl (fun v e => if e.1 = n then e.2 else v) (SMap.get m n d) := by
  induction rows generalizing m with
  | nil => rfl
  | cons e rows ih =>
    rw [List.foldl_cons, List.foldl_cons, ih, SMap.get_set]
    by_cases h : e.1 = n
    · rw [if_pos h, if_pos h.symm]
    · rw [if_neg h, if_neg (Ne.symm h)]

/-- A row of a table that lists rows in their order from number `k` on. -/
theorem get_zipIdx {α : Type} (rows : List α) (k n : Nat) (d : α) :
    SMap.get ((rows.zipIdx k).map (fun e => (e.2, e.1))) (k + n) d = rows.getD n d := by
  induction rows generalizing k n with
  | nil => rfl
  | cons v rows ih =>
    rw [List.zipIdx_cons, List.map_cons, SMap.get]
    cases n with
    | zero => exact if_pos rfl
    | succ n =>
      rw [if_neg (by simp), show k + (n + 1) = k + 1 + n by omega, ih]
      rfl

theorem Pipe.acc_writeResult (p : Pipe) (x : Result) (n : Nat) : (p.writeResult x).mx.acc.get n 0 = match x with
    | .acc rows => rows.foldl (fun v e => if e.1 = n then e.2 else v) (p.mx.acc.get n 0)
    | _ => p.mx.acc.get n 0 := by
  cases x with
  | sreg d v | preg d v => unfold Pipe.writeResult; dsimp only; split <;> rfl
  | acc rows => exact get_foldl_set rows p.mx.acc n 0
  | _ => rfl

theorem Pipe.latchA_writeResult (p : Pipe) (x : Result) (n : Nat) : (p.writeResult x).mx.latchA.get n 0 = match x with
    | .latch rows => rows.getD n 0
    | _ => p.mx.latchA.get n 0 := by
  cases x with
  | sreg d v | preg d v => unfold Pipe.writeResult; dsimp only; split <;> rfl
  | latch rows =>
    have h := get_zipIdx rows 0 n 0
    rw [Nat.zero_add] at h
    exact h
  | _ => rfl

/-! ### All that is due -/

/-- A part of a state that each step of a fold changes by `g` is changed by the fold of `g`. -/
theorem foldl_part {σ α β : Type} (part : σ → β) (f : σ → α → σ) (g : β → α → β) (l : List α) (s : σ)
    (h : ∀ q, ∀ a ∈ l, part (f q a) = g (part q) a) : part (l.foldl f s) = l.foldl g (part s) := by
  induction l generalizing s with
  | nil => rfl
  | cons a l ih =>
    rw [List.foldl_cons, List.foldl_cons, ih _ (fun q b hb => h q b (List.mem_cons_of_mem _ hb)),
      h s a List.mem_cons_self]

theorem foldl_unchanged {α β : Type} (l : List α) (b : β) : l.foldl (fun b _ => b) b = b := by
  induction l with
  | nil => rfl
  | cons a l ih => exact ih

theorem foldl_congr_mem {α β : Type} {f g : β → α → β} {l : List α} (b : β) (h : ∀ b, ∀ a ∈ l, f b a = g b a) :
    l.foldl f b = l.foldl g b :=
  foldl_part (fun b => b) f g l b h

theorem foldl_keeps {σ α β : Type} (part : σ → β) (f : σ → α → σ) (l : List α) (s : σ)
    (h : ∀ q, ∀ a ∈ l, part (f q a) = part q) : part (l.foldl f s) = part s :=
  (foldl_part part f (fun x _ => x) l s h).trans (foldl_unchanged ..)

/-- The pipeline with a due result written and its flags raised. -/
def Pipe.takeResult (p : Pipe) (f : Flight) : Pipe := (p.writeResult f.res).raise f.flags

theorem Pipe.fflags_takeResult (p : Pipe) (f : Flight) : (p.takeResult f).csr.fflags = p.csr.fflags ||| f.flags := by
  unfold Pipe.takeResult Pipe.raise
  rw [Pipe.csr_writeResult]

theorem registerResultsLand : Claims.RegisterResultsLand := by
  rintro s g due now rfl rfl
  have hplain : ∀ f ∈ (s.pipe g).fly.res.filter (fun f => decide (f.due = s.now (dieOfPipe g)) && f.res.plain),
      f.res.plain = true := fun f hf => (Bool.and_eq_true_iff.1 (List.mem_filter.1 hf).2).2
  refine ⟨_, rfl, ?_⟩
  rw [State.pipe_onPipe_same]
  refine ⟨?_, fun r => ?_, fun n => ?_, fun n => ?_, ?_, ?_, ?_, rfl, rfl⟩
  · exact foldl_keeps Pipe.fly Pipe.takeResult _ _ (fun q f _ => q.fly_writeResult f.res)
  · rw [List.foldl_filter]
    exact foldl_part (Claims.reads · r) Pipe.takeResult
      (fun old f => if f.res.writes r then Claims.landed f.res r old else old) _ _ (fun q f _ => q.reads_writeResult f.res r)
  · exact foldl_part (fun q : Pipe => q.mx.acc.get n 0) Pipe.takeResult _ _ _ (fun q f _ => q.acc_writeResult f.res n)
  · exact foldl_part (fun q : Pipe => q.mx.latchA.get n 0) Pipe.takeResult _ _ _ (fun q f _ => q.latchA_writeResult f.res n)
  · exact foldl_part (fun q : Pipe => q.csr.fflags) Pipe.takeResult _ _ _ (fun q f _ => q.fflags_takeResult f)
  · exact foldl_keeps Pipe.mem Pipe.takeResult _ _ (fun q f hf => q.mem_writeResult (hplain f hf))
  · exact foldl_keeps Pipe.q Pipe.takeResult _ _ (fun q f _ => q.q_writeResult f.res)

end Sys2Proof.Machine
end

section
/-! Elements that land under a mask, and what a pipeline detects (O20). -/
namespace Sys2Proof.Machine

/-! ### Elements of a vector word -/

theorem packElems_lt (w n : Nat) (f : Nat → Nat) : packElems w n f < 2 ^ (w * n) := by
  induction n with
  | zero => simp [packElems]
  | succ n ih =>
    have hf : f n % 2 ^ w < 2 ^ w := Nat.mod_lt _ (Nat.two_pow_pos w)
    calc packElems w n f + f n % 2 ^ w * 2 ^ (w * n) < 2 ^ (w * n) + f n % 2 ^ w * 2 ^ (w * n) := Nat.add_lt_add_right ih _
      _ = (f n % 2 ^ w + 1) * 2 ^ (w * n) := by rw [Nat.succ_mul, Nat.add_comm]
      _ ≤ 2 ^ w * 2 ^ (w * n) := Nat.mul_le_mul_right _ hf
      _ = 2 ^ (w * (n + 1)) := by rw [← Nat.pow_add, Nat.mul_succ, Nat.add_comm]

/-- Bit i of element e of a packed number. -/
theorem testBit_packElems {w n e i : Nat} (f : Nat → Nat) (he : e < n) (hi : i < w) :
    (packElems w n f).testBit (w * e + i) = (f e).testBit i := by
  induction n with
  | zero => exact absurd he (Nat.not_lt_zero _)
  | succ n ih =>
    rw [packElems, Nat.add_comm, Nat.mul_comm (f n % 2 ^ w), Nat.testBit_two_pow_mul_add _ (packElems_lt w n f)]
    rcases Nat.lt_succ_iff_lt_or_eq.1 he with h | rfl
    · have : w * e + i < w * n := calc
        w * e + i < w * e + w := by omega
        _ = w * (e + 1) := (Nat.mul_succ w e).symm
        _ ≤ w * n := Nat.mul_le_mul_left _ h
      rw [if_pos this, ih h]
    · rw [if_neg (by omega), Nat.add_sub_cancel_left, Nat.testBit_mod_two_pow, decide_eq_true hi, Bool.true_and]

theorem testBit_elemOf (v : VWord) (w e i : Nat) : (elemOf v w e).testBit i = (decide (i < w) && v.getLsbD (w * e + i)) := by
  rw [elemOf, Nat.testBit_mod_two_pow, Nat.testBit_div_two_pow, BitVec.getLsbD, Nat.add_comm]

theorem getLsbD_vecPack {w n e i : Nat} (f : Nat → Nat) (hwn : w * n = 2048) (he : e < n) (hi : i < w) :
    (vecPack w n f).getLsbD (w * e + i) = (f e).testBit i := by
  have hlt : w * e + i < 2048 := calc
    w * e + i < w * e + w := by omega
    _ = w * (e + 1) := (Nat.mul_succ w e).symm
    _ ≤ w * n := Nat.mul_le_mul_left _ he
    _ = 2048 := hwn
  rw [vecPack, BitVec.getLsbD_ofNat, decide_eq_true hlt, Bool.true_and, testBit_packElems f he hi]

/-- An element of a word written under the mask of the elements that `on` selects. -/
theorem elemOf_masked {w n e : Nat} (old : VWord) (f : Nat → Nat) (on : Nat → Bool) (hwn : w * n = 2048) (he : e < n) :
    elemOf (masked old (vecPack w n f) (elemMask w n on)) w e = if on e then f e % 2 ^ w else elemOf old w e := by
  apply Nat.eq_of_testBit_eq
  intro i
  rw [testBit_elemOf]
  by_cases hi : i < w
  · have hlt : w * e + i < 2048 := calc
      w * e + i < w * e + w := by omega
      _ = w * (e + 1) := (Nat.mul_succ w e).symm
      _ ≤ w * n := Nat.mul_le_mul_left _ he
      _ = 2048 := hwn
    rw [decide_eq_true hi, Bool.true_and, masked, elemMask, BitVec.getLsbD_or, BitVec.getLsbD_and, BitVec.getLsbD_and,
      BitVec.getLsbD_not, getLsbD_vecPack _ hwn he hi, getLsbD_vecPack _ hwn he hi]
    cases hon : on e
    · simp [hlt, testBit_elemOf, hi]
    · simp [Nat.testBit_mod_two_pow, hi, Nat.testBit_two_pow_sub_one]
  · rw [decide_eq_false hi, Bool.false_and]
    split
    · rw [Nat.testBit_mod_two_pow, decide_eq_false hi, Bool.false_and]
    · rw [testBit_elemOf, decide_eq_false hi, Bool.false_and]

theorem maskedElementsLand : Claims.MaskedElementsLand := by
  intro p now lat d n w m f e hwn hw hn he r hr
  have hres : r.res = .vreg d (vecPack w n (fun e => (f e).bits)) (elemMask w n (laneOn m n)) := by
    have := List.append_cancel_left hr
    rw [List.singleton_inj] at this
    rw [← this]
  rw [hres, Pipe.vreg_writeResult, if_pos rfl, elemOf_masked _ _ _ hwn he]
  rfl

/-! ### What a pipeline detects -/

/-- The least detection is one of them, and none comes before it. -/
theorem leastDet_foldl (ds : List Det) (b : Det) :
    ∃ d, ds.foldl (fun b d => match b with
      | none => some d
      | some e => if d.before e then some d else some e) (some b) = some d ∧ d ∈ b :: ds ∧
      ∀ e ∈ b :: ds, d.cause < e.cause ∨ (d.cause = e.cause ∧ d.stream ≤ e.stream) := by
  induction ds generalizing b with
  | nil => exact ⟨b, rfl, List.mem_cons_self, fun e he => by rw [List.mem_singleton.1 he]; exact .inr ⟨rfl, Nat.le_refl _⟩⟩
  | cons c ds ih =>
    rw [List.foldl_cons]
    dsimp only
    split
    · rename_i hb
      obtain ⟨d, hd, hm, hl⟩ := ih c
      refine ⟨d, hd, List.mem_cons_of_mem _ hm, fun e he => ?_⟩
      rcases List.mem_cons.1 he with rfl | he
      · have := hl c List.mem_cons_self
        simp only [Det.before, Bool.or_eq_true, Bool.and_eq_true, decide_eq_true_eq] at hb
        omega
      · exact hl e he
    · rename_i hb
      obtain ⟨d, hd, hm, hl⟩ := ih b
      refine ⟨d, hd, ?_, fun e he => ?_⟩
      · rcases List.mem_cons.1 hm with rfl | hm
        · exact List.mem_cons_self
        · exact List.mem_cons_of_mem _ (List.mem_cons_of_mem _ hm)
      · rcases List.mem_cons.1 he with rfl | he
        · exact hl e List.mem_cons_self
        · rcases List.mem_cons.1 he with rfl | he
          · have := hl b List.mem_cons_self
            simp only [Det.before, Bool.or_eq_true, Bool.and_eq_true, decide_eq_true_eq] at hb
            omega
          · exact hl e (List.mem_cons_of_mem _ he)

theorem leastDet_spec {ds : List Det} (h : ds ≠ []) : ∃ d ∈ ds, leastDet ds = some d ∧
    ∀ e ∈ ds, d.cause < e.cause ∨ (d.cause = e.cause ∧ d.stream ≤ e.stream) := by
  cases ds with
  | nil => exact absurd rfl h
  | cons c ds =>
    obtain ⟨d, hd, hm, hl⟩ := leastDet_foldl ds c
    exact ⟨d, hm, hd, hl⟩

/-- The fields of FAULT_INFO (04 Table 4-12). -/
theorem Det.word_fields (d : Det) (v : Nat) (hv : v = (d.word true).toNat) :
    v % 2 ^ 8 = d.cause % 2 ^ 8 ∧ v / 2 ^ 8 % 4 = 2 ∧ v / 2 ^ 10 % 4 = d.stream % 4 ∧ v / 2 ^ 12 % 2 ^ 14 = d.pc % 2 ^ 14 ∧
      v / 2 ^ 26 % 2 ^ 6 = d.detail % 2 ^ 6 ∧ v / 2 ^ 32 = d.info.toNat := by
  have hi := d.info.isLt
  rw [Det.word, if_pos rfl, BitVec.toNat_ofNat] at hv
  generalize d.info.toNat = i at *
  omega

/-- What telling the domain leaves: partitions and pipelines. -/
theorem State.tellFirst_eq (s : State) (k : Nat) (old : TimedRun) : ∃ ns, s.tellFirst k old = { s with notices := ns } := by
  unfold State.tellFirst
  dsimp only
  split
  · split
    · unfold State.tellDomain
      split <;> exact ⟨_, rfl⟩
    · split
      · unfold State.tellDomain State.untell
        split <;> exact ⟨_, rfl⟩
      · exact ⟨_, rfl⟩
  · exact ⟨_, rfl⟩

theorem State.countUnc_eq (s : State) (b : BoxSource) : ∃ fw, s.countUnc b = { s with fw := fw } := by
  unfold State.countUnc
  cases b <;> exact ⟨_, rfl⟩

theorem State.foldl_countUnc_eq (l : List Det) (f : Det → BoxSource) (s : State) :
    ∃ fw, l.foldl (fun s e => s.countUnc (f e)) s = { s with fw := fw } := by
  induction l generalizing s with
  | nil => exact ⟨_, rfl⟩
  | cons a l ih =>
    obtain ⟨fw, h⟩ := ih (s.countUnc (f a))
    obtain ⟨fw', h'⟩ := s.countUnc_eq (f a)
    refine ⟨fw, h.trans ?_⟩
    rw [h']

/-- What a pipeline's record of its detections changes: the pipeline, its partition's run, and what is told and counted. -/
theorem State.conclude_eq {s : State} {g : Nat} {td : Tick} {held : Option Nat} {d : Det}
    (h : leastDet (s.pipe g).cyc.dets = some d) : ∃ (b : Book) (ns : List LinkNotice) (fw : Firmware),
    s.conclude g td held = { (s.setPipe g { s.pipe g with
        csr := { (s.pipe g).csr with faultInfo := ((s.pipe g).reflects td d).2.word true }
        detected := some ((s.pipe g).reflects td d), book := b, cyc := { (s.pipe g).cyc with dets := [] } }).onRun
      (s.partOfPipe g) (fun r => r.detected td g d held) with notices := ns, fw := fw } := by
  unfold State.conclude
  dsimp only
  rw [h]
  dsimp only
  rw [(State.tellFirst_eq _ _ _).choose_spec, (State.foldl_countUnc_eq _ _ _).choose_spec]
  exact ⟨_, _, _, rfl⟩

theorem faultsRecorded : Claims.FaultsRecorded := by
  rintro s g k p td held rfl rfl
  refine ⟨fun h => ?_, ?_⟩
  · unfold State.conclude
    dsimp only
    rw [h]
    rfl
  · rintro t rfl hne hdet
    obtain ⟨d, hd, hl, hmin⟩ := leastDet_spec hne
    have htop : (s.pipe g).reflects td d = (td, d) := by
      unfold Pipe.reflects
      rcases hdet with h | ⟨u, e, h, hlt, hu⟩
      · rw [h]
      · rw [h]
        exact if_neg (by simp [hlt, Ne.symm hu])
    obtain ⟨b, ns, fw, hc⟩ := State.conclude_eq (td := td) (held := held) hl
    rw [htop] at hc
    have hpipe : (s.conclude g td held).pipe g = { s.pipe g with
        csr := { (s.pipe g).csr with faultInfo := d.word true }
        detected := some (td, d), book := b, cyc := { (s.pipe g).cyc with dets := [] } } := by
      rw [hc]
      exact (State.pipe_setPipe ..).trans (if_pos rfl)
    have hrun : ((s.conclude g td held).part (s.partOfPipe g)).run = (s.part (s.partOfPipe g)).run.detected td g d held := by
      rw [hc]
      exact congrArg Partition.run ((State.part_setPart ..).trans (if_pos rfl))
    refine ⟨d, hd, hmin, ?_⟩
    rw [hpipe, hrun]
    refine ⟨rfl, rfl, rfl, rfl, Det.word_fields d, fun hn => ?_⟩
    unfold TimedRun.detected
    rw [hn]
    refine ⟨rfl, rfl, ?_⟩
    cases held <;> rfl

end Sys2Proof.Machine
end

section
/-! The end of a cycle of a pipeline (O20). -/
namespace Sys2Proof.Machine

/-! ### The writes that enter tensor SRAM -/

theorem State.onPipe_onPipe (s : State) (g : Nat) (f h : Pipe → Pipe) : (s.onPipe g f).onPipe g h = s.onPipe g (fun p => h (f p)) := by
  unfold State.onPipe
  rw [State.pipe_setPipe, if_pos rfl]
  simp [State.setPipe]

/-- A write that enters, or is a slip where `slips` says so. -/
def Pipe.enterWrite (c : Nat) (slips : TWrite → List Det) (p : Pipe) (w : TWrite) : Pipe :=
  if (slips w).isEmpty then
    { p with fly := { p.fly with done := p.fly.done ++ [w] }
             cyc := { p.cyc with wr := p.cyc.wr + w.bytes.length, wrPc := if c = 6 then p.cyc.wrPc else w.pc } }
  else p.detect (slips w)

/-- The writes of class `c` that a pipeline charges in the cycle `now`. -/
def Pipe.charged (p : Pipe) (now : Tick) (c : Nat) : List TWrite :=
  p.fly.writes.filter (fun w => decide (w.at_ = now) && decide (w.cls = c))

/-- The pipeline with those writes judged. -/
def Pipe.enterWrites (p : Pipe) (now : Tick) (c : Nat) (slips : TWrite → List Det) : Pipe :=
  (p.charged now c).foldl (Pipe.enterWrite c slips) { p with fly := { p.fly with
    writes := p.fly.writes.filter (fun w => !(decide (w.at_ = now) && decide (w.cls = c))) } }

/-- The slips of a write of class `c` of pipeline `g`: an STS has been judged at its issue. -/
def State.writeSlips (s : State) (g c : Nat) (w : TWrite) : List Det :=
  if c = 6 then [] else s.bankSlips g 3 w.pc w.addr w.bytes.length

theorem State.writesDue_eq (s : State) (g c : Nat) :
    s.writesDue g c = s.onPipe g (fun p => p.enterWrites (s.now (dieOfPipe g)) c (s.writeSlips g c)) := by
  have hfold : ∀ (l : List TWrite) (f : Pipe → Pipe), l.foldl (fun t w =>
      if (t.writeSlips g c w).isEmpty then
        t.onPipe g (fun p => { p with fly := { p.fly with done := p.fly.done ++ [w] },
                                      cyc := { p.cyc with wr := p.cyc.wr + w.bytes.length,
                                                          wrPc := if c = 6 then p.cyc.wrPc else w.pc } })
      else t.record g (t.writeSlips g c w)) (s.onPipe g f) =
      s.onPipe g (fun p => l.foldl (Pipe.enterWrite c (s.writeSlips g c)) (f p)) := by
    intro l
    induction l with
    | nil => exact fun f => rfl
    | cons w l ih =>
      intro f
      rw [List.foldl_cons, show (s.onPipe g f).writeSlips g c w = s.writeSlips g c w from rfl, State.record,
        State.onPipe_onPipe, State.onPipe_onPipe]
      unfold Pipe.enterWrite at ih ⊢
      by_cases h : (s.writeSlips g c w).isEmpty = true
      · rw [if_pos h, ih]
        simp only [List.foldl_cons, if_pos h]
      · rw [if_neg h, ih]
        simp only [List.foldl_cons, if_neg h]
  exact hfold _ _

/-- What the writes of a cycle leave of a pipeline. -/
def Pipe.besideWrites (p : Pipe) :=
  (p.mem, p.q, p.fly.late, p.cyc.tokDelta, p.cyc.landed, p.cyc.rd, p.cyc.rdPc)

/-- The detections of `q` are those of `p` and further ones for which `new` holds. -/
def Pipe.DetsGrow (new : Det → Prop) (p q : Pipe) : Prop :=
  (∀ e ∈ p.cyc.dets, e ∈ q.cyc.dets) ∧ ∀ e ∈ q.cyc.dets, e ∈ p.cyc.dets ∨ new e

theorem Pipe.DetsGrow.refl {new : Det → Prop} {p q : Pipe} (h : q.cyc.dets = p.cyc.dets) : p.DetsGrow new q := by
  unfold Pipe.DetsGrow
  rw [h]
  exact ⟨fun e he => he, fun e he => .inl he⟩

theorem Pipe.DetsGrow.trans {new : Det → Prop} {p q r : Pipe} (h : p.DetsGrow new q) (h' : q.DetsGrow new r) :
    p.DetsGrow new r :=
  ⟨fun e he => h'.1 e (h.1 e he), fun e he => (h'.2 e he).elim (h.2 e) .inr⟩

theorem Pipe.DetsGrow.detect {new : Det → Prop} (p : Pipe) {ds : List Det} (h : ∀ e ∈ ds, new e) : p.DetsGrow new (p.detect ds) :=
  ⟨fun _ he => List.mem_append_left _ he, fun e he => (List.mem_append.1 he).imp_right (h e)⟩

theorem Pipe.DetsGrow.foldl {α : Type} {new : Det → Prop} (f : Pipe → α → Pipe) (l : List α) (p : Pipe)
    (h : ∀ q : Pipe, ∀ a ∈ l, q.DetsGrow new (f q a)) : p.DetsGrow new (l.foldl f p) := by
  induction l generalizing p with
  | nil => exact refl rfl
  | cons a l ih => exact (h p a List.mem_cons_self).trans (ih _ (fun q b hb => h q b (List.mem_cons_of_mem _ hb)))

theorem Pipe.besideWrites_enterWrites (p : Pipe) (now : Tick) (c : Nat) (slips : TWrite → List Det) :
    (p.enterWrites now c slips).besideWrites = p.besideWrites :=
  foldl_keeps Pipe.besideWrites _ _ _ (fun q w _ => by unfold Pipe.enterWrite; split <;> rfl)

theorem Pipe.done_enterWrites (p : Pipe) (now : Tick) (c : Nat) (slips : TWrite → List Det) :
    (p.enterWrites now c slips).fly.done = p.fly.done ++ (p.charged now c).filter (fun w => (slips w).isEmpty) := by
  have hf : ∀ (l : List TWrite) (d : List TWrite), l.foldl (fun d w => if (slips w).isEmpty then d ++ [w] else d) d =
      d ++ l.filter (fun w => (slips w).isEmpty) := by
    intro l
    induction l with
    | nil => exact fun d => (List.append_nil d).symm
    | cons w l ih =>
      intro d
      rw [List.foldl_cons, ih]
      by_cases h : (slips w).isEmpty = true
      · simp [h]
      · simp [h]
  refine (foldl_part (fun q : Pipe => q.fly.done) _ (fun d w => if (slips w).isEmpty then d ++ [w] else d) _ _ ?_).trans (hf _ _)
  intro q w _
  unfold Pipe.enterWrite
  split <;> rfl

theorem Pipe.wr_enterWrites (p : Pipe) (now : Tick) (c : Nat) (slips : TWrite → List Det) :
    (p.enterWrites now c slips).cyc.wr =
      ((p.charged now c).filter (fun w => (slips w).isEmpty)).foldl (fun n w => n + w.bytes.length) p.cyc.wr := by
  rw [List.foldl_filter]
  refine foldl_part (fun q : Pipe => q.cyc.wr) _ (fun n w => if (slips w).isEmpty then n + w.bytes.length else n) _ _ ?_
  intro q w _
  unfold Pipe.enterWrite
  split <;> rfl

theorem Pipe.charged_enterWrites (p : Pipe) (now : Tick) {c e : Nat} (h : e ≠ c) (slips : TWrite → List Det) :
    (p.enterWrites now c slips).charged now e = p.charged now e := by
  have hw : (p.enterWrites now c slips).fly.writes = p.fly.writes.filter (fun w => !(decide (w.at_ = now) && decide (w.cls = c))) :=
    foldl_keeps (fun q : Pipe => q.fly.writes) _ _ _ (fun q w _ => by unfold Pipe.enterWrite; split <;> rfl)
  unfold Pipe.charged
  rw [hw, List.filter_filter]
  refine List.filter_congr (fun w _ => ?_)
  by_cases hc : w.cls = e
  · simp [hc, h]
  · simp [hc]

theorem Pipe.detsGrow_enterWrites {new : Det → Prop} (p : Pipe) (now : Tick) (c : Nat) (slips : TWrite → List Det)
    (h : ∀ w, ∀ e ∈ slips w, new e) : p.DetsGrow new (p.enterWrites now c slips) := by
  unfold Pipe.enterWrites
  refine Pipe.DetsGrow.trans ?_ (Pipe.DetsGrow.foldl _ _ _ (fun q w _ => ?_))
  · exact Pipe.DetsGrow.refl rfl
  unfold Pipe.enterWrite
  split
  · exact Pipe.DetsGrow.refl rfl
  · exact Pipe.DetsGrow.detect _ (h w)

/-- The pipeline after the instruction writes of its cycle. -/
def Pipe.cycleWrites (p : Pipe) (now : Tick) (slips : Nat → TWrite → List Det) : Pipe :=
  ((p.enterWrites now 6 (slips 6)).enterWrites now 5 (slips 5)).enterWrites now 4 (slips 4)

/-- What enters, in order. -/
def Pipe.entered (p : Pipe) (now : Tick) (slips : Nat → TWrite → List Det) : List TWrite :=
  [6, 5, 4].flatMap (fun c => (p.charged now c).filter (fun w => (slips c w).isEmpty))

theorem Pipe.besideWrites_cycleWrites (p : Pipe) (now : Tick) (slips : Nat → TWrite → List Det) :
    (p.cycleWrites now slips).besideWrites = p.besideWrites := by
  unfold Pipe.cycleWrites
  rw [Pipe.besideWrites_enterWrites, Pipe.besideWrites_enterWrites, Pipe.besideWrites_enterWrites]

theorem Pipe.done_cycleWrites (p : Pipe) (now : Tick) (slips : Nat → TWrite → List Det) :
    (p.cycleWrites now slips).fly.done = p.fly.done ++ p.entered now slips := by
  unfold Pipe.cycleWrites Pipe.entered
  rw [Pipe.done_enterWrites, Pipe.charged_enterWrites _ _ (by decide), Pipe.charged_enterWrites _ _ (by decide),
    Pipe.done_enterWrites, Pipe.charged_enterWrites _ _ (by decide), Pipe.done_enterWrites]
  simp

theorem Pipe.wr_cycleWrites (p : Pipe) (now : Tick) (slips : Nat → TWrite → List Det) :
    (p.cycleWrites now slips).cyc.wr = (p.entered now slips).foldl (fun n w => n + w.bytes.length) p.cyc.wr := by
  unfold Pipe.cycleWrites Pipe.entered
  rw [Pipe.wr_enterWrites, Pipe.charged_enterWrites _ _ (by decide), Pipe.charged_enterWrites _ _ (by decide),
    Pipe.wr_enterWrites, Pipe.charged_enterWrites _ _ (by decide), Pipe.wr_enterWrites]
  simp

/-! ### The bytes that prevail -/

/-- A write covers the byte at `a`. -/
def TWrite.covers (w : TWrite) (a : Nat) : Prop := w.addr ≤ a ∧ a < w.addr + w.bytes.length

theorem read_writeBytes_of_not_covers {w : TWrite} {a : Nat} (m : Memory) (h : ¬ w.covers a) :
    (m.writeBytes w.addr w.bytes).read a = m.read a :=
  Memory.read_writeBytes_outside _ _ _ _ (by unfold TWrite.covers at h; omega)

/-- Bytes that no write of a list covers are left. -/
theorem read_foldl_writes_outside {ws : List TWrite} {a : Nat} (m : Memory) (h : ∀ w ∈ ws, ¬ w.covers a) :
    (ws.foldl (fun m w => m.writeBytes w.addr w.bytes) m).read a = m.read a := by
  induction ws generalizing m with
  | nil => rfl
  | cons w ws ih =>
    rw [List.foldl_cons, ih _ (fun v hv => h v (List.mem_cons_of_mem _ hv)),
      read_writeBytes_of_not_covers _ (h w List.mem_cons_self)]

/-- Writes that all leave what memory `v` holds leave it wherever one of them reaches. -/
theorem read_foldl_prevailing {ws : List TWrite} {a : Nat} (v m : Memory) (h : m.read a = v.read a ∨ ∃ w ∈ ws, w.covers a) :
    ((ws.map (fun w => { w with bytes := v.readBytes w.addr w.bytes.length })).foldl (fun m w => m.writeBytes w.addr w.bytes) m).read a =
      v.read a := by
  induction ws generalizing m with
  | nil =>
    rcases h with h | ⟨w, hw, -⟩
    · exact h
    · simp at hw
  | cons w ws ih =>
    rw [List.map_cons, List.foldl_cons]
    refine ih _ ?_
    by_cases hc : w.covers a
    · left
      obtain ⟨h1, h2⟩ := hc
      have hlen : a - w.addr < (v.readBytes w.addr w.bytes.length).length := by
        simp only [Memory.readBytes, List.length_map, List.length_range]
        omega
      have hr := Memory.read_writeBytes_inside m w.addr (a - w.addr) _ hlen
      rw [Nat.add_sub_cancel' h1] at hr
      rw [hr]
      simp [Memory.readBytes, Nat.add_sub_cancel' h1]
    · rcases h with h | ⟨u, hu, huc⟩
      · left
        refine Eq.trans (Memory.read_writeBytes_outside _ _ _ _ ?_) h
        simp only [Memory.readBytes, List.length_map, List.length_range]
        unfold TWrite.covers at hc
        omega
      · right
        rcases List.mem_cons.1 hu with rfl | hu
        · exact absurd huc hc
        · exact ⟨u, hu, huc⟩

/-- The same bytes written over two memories that agree on a byte leave it alike. -/
theorem read_foldl_congr {α : Type} (f : α → Nat × List Byte) (l : List α) {m n : Memory} {a : Nat} (h : m.read a = n.read a) :
    (l.foldl (fun m e => m.writeBytes (f e).1 (f e).2) m).read a = (l.foldl (fun m e => m.writeBytes (f e).1 (f e).2) n).read a := by
  induction l generalizing m n with
  | nil => exact h
  | cons e l ih =>
    refine ih ?_
    by_cases hc : a < (f e).1 ∨ (f e).1 + (f e).2.length ≤ a
    · rw [Memory.read_writeBytes_outside _ _ _ _ hc, Memory.read_writeBytes_outside _ _ _ _ hc, h]
    · have hlt : a - (f e).1 < (f e).2.length := by omega
      have h1 := Memory.read_writeBytes_inside m (f e).1 (a - (f e).1) _ hlt
      have h2 := Memory.read_writeBytes_inside n (f e).1 (a - (f e).1) _ hlt
      rw [Nat.add_sub_cancel' (by omega)] at h1 h2
      rw [h1, h2]

theorem Store.sram_foldl_put {α : Type} (f : α → Nat × List Byte) (l : List α) (m : Store) :
    (l.foldl (fun m e => m.put (f e).1 (f e).2) m).sram = l.foldl (fun m e => m.writeBytes (f e).1 (f e).2) m.sram :=
  foldl_part Store.sram _ _ _ _ (fun _ _ _ => rfl)

/-- The memory of a pipeline once the writes that prevail in its cycle are in it. -/
theorem Pipe.read_settleWrites_prevail (p : Pipe)
    (hl : ∀ a, (p.cyc.landed.foldl (fun m e => m.writeBytes e.2.2.1 e.2.2.2) p.mem.sram).read a = p.mem.sram.read a) (a : Nat) :
    p.prevail.settleWrites.mem.sram.read a =
      (p.cyc.landed.foldl (fun m e => m.writeBytes e.2.2.1 e.2.2.2)
        (p.fly.done.foldl (fun m w => m.writeBytes w.addr w.bytes) p.mem.sram)).read a := by
  have hput := fun (l : List TWrite) (m : Store) => Store.sram_foldl_put (fun w : TWrite => (w.addr, w.bytes)) l m
  have hland := fun m : Store => Store.sram_foldl_put (fun e : Nat × Nat × Nat × List Byte => (e.2.2.1, e.2.2.2)) p.cyc.landed m
  unfold Pipe.settleWrites Pipe.prevail
  dsimp only at hput hland ⊢
  rw [hput, hland, hput]
  refine read_foldl_prevailing _ _ ?_
  by_cases h : ∃ w ∈ p.fly.done, w.covers a
  · exact .inr h
  · left
    rw [← hl a]
    exact read_foldl_congr (fun e : Nat × Nat × Nat × List Byte => (e.2.2.1, e.2.2.2)) p.cyc.landed
      (read_foldl_writes_outside _ (fun w hw hc => h ⟨w, hw, hc⟩)).symm

end Sys2Proof.Machine
end

section
/-! The end of a cycle, step by step (O20). -/
namespace Sys2Proof.Machine

/-- The details of the two port overflows (05 R149) and that of the other slips of a cycle's end. -/
theorem portDetail_ne : ((0 : Nat) ≠ 60) ∧ ((0 : Nat) ≠ 61) ∧ ((60 : Nat) ≠ 61) ∧ ((61 : Nat) ≠ 60) := by decide

/-! ### The steps on a pipeline -/

/-- Tokens after the GIVEs and TAKEs of the cycle. -/
theorem Pipe.tokens_settleTokens (p : Pipe) (n : Nat) : p.settleTokens.tokens n =
    (p.cyc.tokDelta.filter (fun e => decide (e.1 = n))).foldl (fun (c : Nat) e => ((c : Int) + e.2).toNat) (p.tokens n) := by
  rw [List.foldl_filter]
  refine foldl_part (Pipe.tokens · n) _
    (fun (c : Nat) (e : Nat × Int) => if decide (e.1 = n) then ((c : Int) + e.2).toNat else c) _ _ ?_
  intro q e _
  unfold Pipe.tokens
  rw [SMap.get_set]
  by_cases h : e.1 = n
  · subst h; simp
  · simp [h, Ne.symm h]

/-- What the tokens of a cycle leave. -/
theorem Pipe.settleTokens_rest (p : Pipe) : p.settleTokens.mem = p.mem ∧ p.settleTokens.fly = p.fly ∧ p.settleTokens.cyc = p.cyc :=
  ⟨foldl_keeps Pipe.mem _ _ _ (fun _ _ _ => rfl), foldl_keeps Pipe.fly _ _ _ (fun _ _ _ => rfl),
    foldl_keeps Pipe.cyc _ _ _ (fun _ _ _ => rfl)⟩

/-- The ports and the late detections of a cycle apart, a detection is none of a port. -/
def Det.portless (e : Det) : Prop := e.detail ≠ 60 ∧ e.detail ≠ 61

/-- What a step that leaves memory, tokens and writes does: detections that are none of a port may be added. -/
structure Pipe.Passes (p q : Pipe) : Prop where
  mem : q.mem = p.mem
  fly : q.fly = p.fly
  tok : q.q.tok = p.q.tok
  rd : q.cyc.rd = p.cyc.rd
  rdPc : q.cyc.rdPc = p.cyc.rdPc
  wr : q.cyc.wr = p.cyc.wr
  dets : p.DetsGrow Det.portless q

theorem Pipe.Passes.trans {p q r : Pipe} (h : p.Passes q) (h' : q.Passes r) : p.Passes r :=
  ⟨h'.mem.trans h.mem, h'.fly.trans h.fly, h'.tok.trans h.tok, h'.rd.trans h.rd, h'.rdPc.trans h.rdPc, h'.wr.trans h.wr,
    h.dets.trans h'.dets⟩

theorem Pipe.Passes.foldl {α : Type} (f : Pipe → α → Pipe) (l : List α) (p : Pipe) (h : ∀ q : Pipe, ∀ a, q.Passes (f q a)) :
    p.Passes (l.foldl f p) := by
  induction l generalizing p with
  | nil => exact ⟨rfl, rfl, rfl, rfl, rfl, rfl, .refl rfl⟩
  | cons a l ih => exact (h p a).trans (ih _)

/-- Drawbar words that arrive change the buffers, and are lost where those are full. -/
theorem State.by_drawbarArrival (s : State) (g : Nat) :
    ∃ f : Pipe → Pipe, s.by (execDrawbarArrival g) = s.onPipe g f ∧ ∀ p : Pipe, p.Passes (f p) := by
  unfold State.by execDrawbarArrival
  refine ⟨_, rfl, fun p => ?_⟩
  refine Pipe.Passes.trans (q := { p with q := { p.q with
      dbIn := p.q.dbIn.filter (fun e => !(decide (e.1 = s.now (dieOfPipe g))))
      badIn := p.q.badIn.filter (fun e => !(decide (e.1 = s.now (dieOfPipe g)))) } })
    ⟨rfl, rfl, rfl, rfl, rfl, rfl, .refl rfl⟩ (Pipe.Passes.foldl _ _ _ (fun q e => ?_))
  obtain ⟨at_, east, w⟩ := e
  cases east
  · simp only [Bool.false_eq_true, if_false]
    split
    · refine ⟨rfl, rfl, rfl, rfl, rfl, rfl, .detect _ (fun d hd => ?_)⟩
      rw [List.mem_singleton.1 hd]
      exact ⟨by decide, by decide⟩
    · exact ⟨rfl, rfl, rfl, rfl, rfl, rfl, .refl rfl⟩
  · simp only [if_true]
    split
    · refine ⟨rfl, rfl, rfl, rfl, rfl, rfl, .detect _ (fun d hd => ?_)⟩
      rw [List.mem_singleton.1 hd]
      exact ⟨by decide, by decide⟩
    · exact ⟨rfl, rfl, rfl, rfl, rfl, rfl, .refl rfl⟩

theorem Pipe.passes_countDraws (p : Pipe) : p.Passes p.countDraws := by
  unfold Pipe.countDraws
  dsimp only
  split <;> exact ⟨rfl, rfl, rfl, rfl, rfl, rfl, .refl rfl⟩

/-- The draws of a cycle are counted unless `b` holds, a CSRW of SR_BASE. -/
theorem State.draws_unless (s : State) (g : Nat) (k : Pipe → Pipe) (b : Bool) : ∃ c : Pipe → Pipe, (∀ p : Pipe, p.Passes (c p)) ∧
    (if b then s.onPipe g k else (s.onPipe g k).onPipe g Pipe.countDraws) = s.onPipe g (fun p => c (k p)) := by
  cases b
  · exact ⟨Pipe.countDraws, Pipe.passes_countDraws, State.onPipe_onPipe ..⟩
  · exact ⟨id, fun p => ⟨rfl, rfl, rfl, rfl, rfl, rfl, .refl rfl⟩, rfl⟩

theorem State.by_registerWrite (s : State) (g : Nat) :
    ∃ f : Pipe → Pipe, s.by (execRegisterWrite g) = s.onPipe g f ∧ ∀ p : Pipe, p.Passes (f p) := by
  unfold State.by execRegisterWrite
  refine ⟨_, rfl, fun p => ?_⟩
  split <;> exact ⟨rfl, rfl, rfl, rfl, rfl, rfl, .refl rfl⟩

/-- The pipeline after the writes of its cycle, the holds of their banks ended. -/
def Pipe.afterWrites (p : Pipe) (now : Tick) (slips : Nat → TWrite → List Det) : Pipe :=
  { p.cycleWrites now slips with fly := { (p.cycleWrites now slips).fly with
    rmwHold := (p.cycleWrites now slips).fly.rmwHold.filter (fun e => !(Tick.le e.2 now)) } }

theorem State.cycleWrites_eq (s : State) (g : Nat) : ((s.writesDue g 6).writesDue g 5).by (execRmwFinalWrite g) =
    s.onPipe g (fun p => p.afterWrites (s.now (dieOfPipe g)) (s.writeSlips g)) := by
  unfold State.by execRmwFinalWrite
  dsimp only
  rw [State.writesDue_eq, State.writesDue_eq, State.writesDue_eq, State.onPipe_onPipe, State.onPipe_onPipe,
    State.onPipe_onPipe]
  rfl

/-- The pipeline as its cycle closes: `f`, `h` and `c` are its drawbar words, its CSRW and its draws. -/
def Pipe.closed (p : Pipe) (now : Tick) (slips : Nat → TWrite → List Det) (f c h : Pipe → Pipe) : Pipe :=
  h (c ((f ((p.afterWrites now slips).prevail.settleTokens)).lateDets now))

/-- The end of a cycle: its pipeline closes, its detections are recorded, and it may be finished. -/
theorem State.endPipe_eq (s : State) (g : Nat) : ∃ f c h : Pipe → Pipe,
    (∀ p : Pipe, p.Passes (f p)) ∧ (∀ p : Pipe, p.Passes (c p)) ∧ (∀ p : Pipe, p.Passes (h p)) ∧
    s.endPipe g = ((s.onPipe g (fun p => p.closed (s.now (dieOfPipe g)) (s.writeSlips g) f c h)).conclude g
      (s.now (dieOfPipe g)) none).by (execPipelineFinished g) := by
  unfold State.endPipe
  dsimp only
  rw [State.cycleWrites_eq, State.onPipe_onPipe]
  obtain ⟨f, hf, hfp⟩ := State.by_drawbarArrival (s.onPipe g (fun p =>
    (p.afterWrites (s.now (dieOfPipe g)) (s.writeSlips g)).prevail.settleTokens)) g
  rw [hf, State.onPipe_onPipe, State.onPipe_onPipe]
  obtain ⟨c, hcp, hc⟩ := s.draws_unless g (fun p =>
      (f ((p.afterWrites (s.now (dieOfPipe g)) (s.writeSlips g)).prevail.settleTokens)).lateDets (s.now (dieOfPipe g))) _
  rw [hc]
  obtain ⟨h, hh, hhp⟩ := State.by_registerWrite (s.onPipe g (fun p =>
    c ((f ((p.afterWrites (s.now (dieOfPipe g)) (s.writeSlips g)).prevail.settleTokens)).lateDets (s.now (dieOfPipe g))))) g
  refine ⟨f, c, h, hfp, hcp, hhp, ?_⟩
  rw [hh, State.onPipe_onPipe]
  rfl

/-! ### What recording and finishing leave of a pipeline -/

/-- A part of a pipeline that recording detections, finishing and the launch's end leave. -/
structure Pipe.Rest {β : Type} (part : Pipe → β) : Prop where
  recorded : ∀ (p : Pipe) (fi : BitVec 64) (d : Option (Tick × Det)) (b : Book),
    part { p with csr := { p.csr with faultInfo := fi }, detected := d, book := b, cyc := { p.cyc with dets := [] } } = part p
  finished : ∀ (p : Pipe) (b : Bool), part { p with finished := b } = part p
  ended : ∀ p : Pipe, part { p.settleWrites with
    c := { p.settleWrites.c with run := false }, l := { p.settleWrites.l with run := false }
    x := { p.settleWrites.x with run := false }, s := { p.settleWrites.s with run := false } } = part p

section Rest
variable {β : Type} {part : Pipe → β} (hr : Pipe.Rest part)
include hr

theorem State.rest_conclude (s : State) (g : Nat) (td : Tick) (held : Option Nat) :
    part ((s.conclude g td held).pipe g) = part (s.pipe g) := by
  cases h : leastDet (s.pipe g).cyc.dets with
  | none =>
    unfold State.conclude
    dsimp only
    rw [h]
  | some d =>
    obtain ⟨b, ns, fw, hc⟩ := State.conclude_eq (td := td) (held := held) h
    rw [hc]
    refine (congrArg part ((State.pipe_setPipe ..).trans (if_pos rfl))).trans (hr.recorded ..)

theorem State.rest_endTimed (s : State) (k : Nat) (status : JobStatus) (reason : Nat) (detail : Word) (g : Nat) :
    part ((s.endTimed k status reason detail).pipe g) = part (s.pipe g) := by
  unfold State.endTimed
  dsimp only
  refine (foldl_keeps (fun t : State => part (t.pipe g)) _ _ _ (fun t h _ => ?_)).trans ?_
  · unfold State.onPipe
    rw [State.pipe_setPipe]
    split
    · rename_i he
      rw [he]
      exact hr.ended _
    · rfl
  · refine (foldl_keeps (fun t : State => part (t.pipe g)) _ _ _ (fun t h _ => ?_)).trans ?_
    · rfl
    · unfold State.onJob
      split <;> rfl

theorem State.rest_endTimed_if (c : Prop) [Decidable c] (s : State) (k : Nat) (status : JobStatus) (reason : Nat) (detail : Word)
    (g : Nat) : part ((if c then s.endTimed k status reason detail else s).pipe g) = part (s.pipe g) := by
  split
  · exact State.rest_endTimed hr ..
  · rfl

theorem State.rest_finished (s : State) (g : Nat) : part ((s.by (execPipelineFinished g)).pipe g) = part (s.pipe g) := by
  have hfin : ∀ (b : Bool), part ((s.setPipe g { s.pipe g with finished := b }).pipe g) = part (s.pipe g) := fun b =>
    (congrArg part ((State.pipe_setPipe ..).trans (if_pos rfl))).trans (hr.finished ..)
  unfold State.by execPipelineFinished
  dsimp only
  split
  · rename_i t ht
    split at ht
    · split at ht
      · have hone : ∀ f, part ((if (s.pipe g).finished then s else
            (s.setPipe g { s.pipe g with finished := true }).onRun (s.partOfPipe g) f).pipe g) = part (s.pipe g) := fun f => by
          split
          · rfl
          · exact hfin true
        injection ht with ht
        rw [← ht]
        exact (State.rest_endTimed_if hr ..).trans (hone _)
      · cases ht
        exact hfin false
    · cases ht
      rfl
  · rfl

end Rest

/-- The tokens of a pipeline stand when its cycle is recorded, and so does its memory once its writes are in it. -/
theorem Pipe.rest_tokens (n : Nat) : Pipe.Rest (fun p => p.tokens n) := ⟨fun _ _ _ _ => rfl, fun _ _ => rfl, fun _ => rfl⟩

theorem Pipe.rest_settled : Pipe.Rest (fun p => p.settleWrites.mem) := ⟨fun _ _ _ _ => rfl, fun _ _ => rfl, fun _ => rfl⟩

/-! ### What the cycle leaves -/

section Closed
variable {f c h : Pipe → Pipe} (hf : ∀ p : Pipe, p.Passes (f p)) (hc : ∀ p : Pipe, p.Passes (c p))
  (hh : ∀ p : Pipe, p.Passes (h p)) (p : Pipe) (now : Tick) (slips : Nat → TWrite → List Det)
include hf hc hh

/-- Tokens, memory, writes and detections of a pipeline whose cycle closes. -/
theorem Pipe.closed_eq : ∃ q : Pipe, ((p.afterWrites now slips).prevail.settleTokens).Passes q ∧
    (q.lateDets now).Passes (p.closed now slips f c h) := ⟨_, hf _, (hc _).trans (hh _)⟩

theorem Pipe.tokens_closed (n : Nat) : (p.closed now slips f c h).tokens n =
    (p.cyc.tokDelta.filter (fun e => decide (e.1 = n))).foldl (fun (c : Nat) e => ((c : Int) + e.2).toNat) (p.tokens n) := by
  obtain ⟨q, hq, hl⟩ := Pipe.closed_eq hf hc hh p now slips
  have hb := p.besideWrites_cycleWrites now slips
  simp only [Pipe.besideWrites, Prod.mk.injEq] at hb
  obtain ⟨-, htok, -, hdelta, -, -, -⟩ := hb
  have htokens : ∀ {x y : Pipe}, x.q.tok = y.q.tok → x.tokens n = y.tokens n := fun e => congrArg (SMap.get · n 0) e
  calc (p.closed now slips f c h).tokens n = q.tokens n := htokens hl.tok
    _ = (p.afterWrites now slips).prevail.settleTokens.tokens n := htokens hq.tok
    _ = _ := by
      rw [Pipe.tokens_settleTokens]
      exact congr (congrArg (List.foldl (fun (c : Nat) (e : Nat × Int) => ((c : Int) + e.2).toNat))
        (congrArg (SMap.get · n 0) (congrArg Queues.tok htok))) (congrArg (List.filter _) hdelta)

theorem Pipe.read_settled_closed (hd : p.fly.done = [])
    (hl : ∀ a, (p.cyc.landed.foldl (fun m e => m.writeBytes e.2.2.1 e.2.2.2) p.mem.sram).read a = p.mem.sram.read a) (a : Nat) :
    (p.closed now slips f c h).settleWrites.mem.sram.read a =
      (p.cyc.landed.foldl (fun m e => m.writeBytes e.2.2.1 e.2.2.2)
        ((p.entered now slips).foldl (fun m w => m.writeBytes w.addr w.bytes) p.mem.sram)).read a := by
  obtain ⟨q, hq, hq'⟩ := Pipe.closed_eq hf hc hh p now slips
  have hb := p.besideWrites_cycleWrites now slips
  simp only [Pipe.besideWrites, Prod.mk.injEq] at hb
  obtain ⟨hmem, -, -, -, hland, -, -⟩ := hb
  have hdone := p.done_cycleWrites now slips
  rw [hd, List.nil_append] at hdone
  obtain ⟨hm, hfl, -⟩ := (p.afterWrites now slips).prevail.settleTokens_rest
  have hstore : (p.closed now slips f c h).settleWrites.mem = (p.afterWrites now slips).prevail.settleWrites.mem := by
    unfold Pipe.settleWrites
    rw [hq'.mem, hq'.fly]
    change List.foldl _ _ _ = List.foldl _ _ _
    refine congr (congrArg (List.foldl (fun (m : Store) (w : TWrite) => m.put w.addr w.bytes)) ?_) ?_
    · exact hq.mem.trans hm
    · exact (congrArg InFlight.done (hq.fly.trans hfl) :)
  have hmem' : (p.afterWrites now slips).mem = p.mem := hmem
  have hland' : (p.afterWrites now slips).cyc.landed = p.cyc.landed := hland
  have hdone' : (p.afterWrites now slips).fly.done = p.entered now slips := hdone
  rw [hstore, Pipe.read_settleWrites_prevail _ (by rw [hmem', hland']; exact hl), hmem', hland', hdone']

/-- The detections of a pipeline whose cycle closes: those that it had, those that come late, overflows of its ports, and ones of
words and drawbars. -/
theorem Pipe.dets_closed (hs : ∀ c w, ∀ e ∈ slips c w, e.portless) {wr : Nat}
    (hwr : wr = (p.entered now slips).foldl (fun n w => n + w.bytes.length) p.cyc.wr) :
    (512 < p.cyc.rd → ({ cause := 3, stream := 1, pc := p.cyc.rdPc, detail := 60, info := 0 } : Det) ∈
      (p.closed now slips f c h).cyc.dets) ∧
    (256 < wr → ∃ pc : Nat, ({ cause := 3, stream := 3, pc := pc, detail := 61, info := 0 } : Det) ∈
      (p.closed now slips f c h).cyc.dets) ∧
    (∀ e ∈ (p.closed now slips f c h).cyc.dets, e ∈ p.cyc.dets ∨ (∃ l ∈ p.fly.late, l.det = e) ∨
      ((e.detail = 60 → 512 < p.cyc.rd) ∧ (e.detail = 61 → 256 < wr))) ∧
    (∀ e ∈ p.cyc.dets, e ∈ (p.closed now slips f c h).cyc.dets) := by
  obtain ⟨q, hq, hq'⟩ := Pipe.closed_eq hf hc hh p now slips
  have hb := p.besideWrites_cycleWrites now slips
  simp only [Pipe.besideWrites, Prod.mk.injEq] at hb
  obtain ⟨-, -, hlate, -, -, hrd, hrdPc⟩ := hb
  obtain ⟨-, hfl, hcy⟩ := (p.afterWrites now slips).prevail.settleTokens_rest
  have hqlate : q.fly.late = p.fly.late := (congrArg InFlight.late (hq.fly.trans hfl)).trans hlate
  have hqrd : q.cyc.rd = p.cyc.rd := hq.rd.trans ((congrArg Cycle.rd hcy).trans hrd)
  have hqrdPc : q.cyc.rdPc = p.cyc.rdPc := hq.rdPc.trans ((congrArg Cycle.rdPc hcy).trans hrdPc)
  have hqwr : q.cyc.wr = wr := (hq.wr.trans ((congrArg Cycle.wr hcy).trans (p.wr_cycleWrites now slips))).trans hwr.symm
  have hgrow : p.DetsGrow Det.portless q := by
    refine Pipe.DetsGrow.trans (q := p.cycleWrites now slips) ?_ (Pipe.DetsGrow.trans (.refl (congrArg Cycle.dets hcy)) hq.dets)
    unfold Pipe.cycleWrites
    exact ((p.detsGrow_enterWrites now 6 _ (hs 6)).trans (Pipe.detsGrow_enterWrites _ now 5 _ (hs 5))).trans
      (Pipe.detsGrow_enterWrites _ now 4 _ (hs 4))
  have hldets : (q.lateDets now).cyc.dets = q.cyc.dets ++
      (q.portSlips ++ (q.fly.late.filter (fun e => decide (e.at_ = now))).map (fun e => e.det) ++ q.overdue .c now ++
        q.overdue .x now) := rfl
  have hover : ∀ k, ∀ e ∈ q.overdue k now, e.portless := by
    intro k e he
    unfold Pipe.overdue at he
    dsimp only at he
    split at he
    · obtain ⟨v, -, rfl⟩ := List.mem_map.1 he
      exact ⟨portDetail_ne.1, portDetail_ne.2.1⟩
    · simp at he
  refine ⟨fun hr => hq'.dets.1 _ ?_, fun hw => ⟨q.cyc.wrPc, hq'.dets.1 _ ?_⟩, fun e he => ?_, fun e he => hq'.dets.1 _ ?_⟩
  · rw [hldets]
    simp [Pipe.portSlips, hqrd, hqrdPc, hr, causeToken]
  · rw [hldets]
    simp [Pipe.portSlips, hqwr, hw, causeToken]
  · have hportless : ∀ {e : Det}, e.portless → (e.detail = 60 → 512 < p.cyc.rd) ∧ (e.detail = 61 → 256 < wr) :=
      fun h => ⟨fun he => absurd he h.1, fun he => absurd he h.2⟩
    rcases hq'.dets.2 e he with he | he
    · rw [hldets] at he
      simp only [List.mem_append] at he
      rcases he with he | ((he | he) | he) | he
      · exact (hgrow.2 e he).imp_right (fun h => .inr (hportless h))
      · right; right
        unfold Pipe.portSlips at he
        rw [hqrd, hqwr] at he
        rcases List.mem_append.1 he with he | he
        · split at he
          · rename_i hr
            rw [List.mem_singleton.1 he]
            exact ⟨fun _ => hr, fun h => absurd h portDetail_ne.2.2.1⟩
          · simp at he
        · split at he
          · rename_i hw
            rw [List.mem_singleton.1 he]
            exact ⟨fun h => absurd h portDetail_ne.2.2.2, fun _ => hw⟩
          · simp at he
      · right; left
        obtain ⟨l, hl, rfl⟩ := List.mem_map.1 he
        exact ⟨l, hqlate ▸ (List.mem_filter.1 hl).1, rfl⟩
      · exact .inr (.inr (hportless (hover _ e he)))
      · exact .inr (.inr (hportless (hover _ e he)))
    · exact .inr (.inr (hportless he))
  · rw [hldets]
    exact List.mem_append_left _ (hgrow.1 e he)

end Closed

/-- What enters the memory, as the statement lists it. -/
theorem entering_eq (s : State) (g c : Nat) : Claims.entering s g c =
    ((s.pipe g).charged (s.now (dieOfPipe g)) c).filter (fun w => (s.writeSlips g c w).isEmpty) := by
  unfold Claims.entering Pipe.charged
  rw [List.filter_filter]
  refine List.filter_congr (fun w _ => ?_)
  unfold State.writeSlips
  by_cases hc : c = 6
  · simp [hc]
  · simp [hc, Bool.and_comm]

theorem State.portless_writeSlips (s : State) (g c : Nat) (w : TWrite) : ∀ e ∈ s.writeSlips g c w, e.portless := by
  intro e he
  unfold State.writeSlips State.bankSlips at he
  split at he
  · simp at he
  · split at he
    · simp at he
    · rw [List.mem_singleton.1 he]
      exact ⟨portDetail_ne.1, portDetail_ne.2.1⟩

theorem cycleEnds : Claims.CycleEnds := by
  rintro s g p now put rfl rfl hput hdone
  obtain ⟨f, c, h, hf, hc, hh, heq⟩ := s.endPipe_eq g
  have hent : [6, 5, 4].flatMap (Claims.entering s g) = (s.pipe g).entered (s.now (dieOfPipe g)) (s.writeSlips g) :=
    congrArg (List.flatMap · [6, 5, 4]) (funext fun c => entering_eq s g c)
  have hpart : ∀ {β : Type} {part : Pipe → β}, Pipe.Rest part → part ((s.endPipe g).pipe g) =
      part ((s.pipe g).closed (s.now (dieOfPipe g)) (s.writeSlips g) f c h) := fun hr => by
    rw [heq, State.rest_finished hr, State.rest_conclude hr, State.pipe_onPipe_same]
  refine ⟨fun n => ?_, fun hl a => ?_, _, heq, fun wr hwr => ?_⟩
  · exact (hpart (Pipe.rest_tokens n)).trans (Pipe.tokens_closed hf hc hh _ _ _ n)
  · rw [hpart Pipe.rest_settled, Pipe.read_settled_closed hf hc hh _ _ _ hdone hl, ← hent, hput, hput, hput]
    simp
  · rw [State.pipe_onPipe_same]
    exact Pipe.dets_closed hf hc hh _ _ _ (fun c w => s.portless_writeSlips g c w) (hwr.trans (by rw [hent]))

/-- Settles O20. -/
theorem resultsLand : Obligations.ResultsLand := ⟨registerResultsLand, maskedElementsLand, cycleEnds, faultsRecorded⟩

end Sys2Proof.Machine
end

section
/-! Samples, the turn of a step, reset, and the ownership writes. -/
namespace Sys2Proof.Machine

/-! ### A step and its turn (01 R35; log 1) -/

/-- With a turn at hand, a step takes it. -/
theorem step_of_schedule {s : State} {t : Turn} {rest : List Turn} (h : s.schedule = t :: rest) :
    step s = ({ s with schedule := rest } : State).turn t := by
  have hturn : s.takeTurn = (t, { s with schedule := rest }) := by
    unfold State.takeTurn
    rw [h]
  unfold step
  rw [hturn]

/-- A package with power may take any turn (25 R485). -/
theorem State.mayAct_of_powered {s : State} (h : s.fw.powered = true) (t : Turn) : s.mayAct t = true := by
  unfold State.mayAct
  rw [h, Bool.true_or]

/-- A thread that may issue in its slice, with no interrupt to take first, executes the word that it fetches. -/
theorem State.turn_gig {s s2 : State} {t n : Nat} {w : BitVec 32} {i : Instr} (hp : s.fw.powered = true) (ht : t < 4096)
    (hfree : ((s.atTurn t n).thread t).free t = true) (hslice : (s.atTurn t n).inSlice t (s.turnAt t n) = true)
    (hext : ((s.atTurn t n).thread t).ext = [] ∨ ((s.atTurn t n).thread t).trap.xie = false ∨
      ((s.atTurn t n).thread t).trap.inh = true)
    (hf : (s.atTurn t n).fetch t = (.word w, s2)) (hd : decode .gig w = .ok i) : s.turn (.gig t n) = exec i s2 := by
  have hno : (!((s.atTurn t n).thread t).ext.isEmpty && ((s.atTurn t n).thread t).trap.xie &&
      !((s.atTurn t n).thread t).trap.inh) = false := by
    rcases hext with h | h | h <;> simp [h]
  have hturn : s.gigTurn t n = .word i s2 := by
    unfold State.gigTurn
    rw [if_neg (Nat.not_le.2 ht)]
    dsimp only
    rw [hfree, hslice, hno, if_neg (by decide), if_neg Bool.false_ne_true]
    unfold State.fetchAct
    rw [hf]
    dsimp only
    rw [hd]
  unfold State.turn
  rw [if_pos (State.mayAct_of_powered hp _)]
  dsimp only
  rw [hturn]
  rfl

/-- A die whose next piece of work is an issue issues the word at the stream's PC. -/
theorem State.turn_die {s : State} {d g : Nat} {k : StreamKind} {more : List Work} {i : Instr} (hp : s.fw.powered = true)
    (hw : (s.die d).work = .issue g k :: more) (hpc : ((s.pipe g).seq k).pc < 16384)
    (hbad : ((s.pipe g).seq k).bad.contains (((s.pipe g).seq k).pc / 2) = false)
    (hd : decode k (((s.pipe g).seq k).imem.get ((s.pipe g).seq k).pc 0) = .ok i) :
    s.turn (.die d) = exec i { (s.onDie d (fun x => { x with work := more })) with curPipe := g, curStream := k } := by
  have hpipe : (s.onDie d (fun x => { x with work := more })).pipe g = s.pipe g := rfl
  have hturn : s.dieTurn d = .word i { (s.onDie d (fun x => { x with work := more })) with curPipe := g, curStream := k } := by
    unfold State.dieTurn
    rw [hw]
    dsimp only
    unfold State.issueWord
    dsimp only
    rw [hpipe, hbad, if_neg (fun h => Bool.false_ne_true h.2), if_pos hpc, hd]
  unfold State.turn
  rw [if_pos (State.mayAct_of_powered hp _)]
  dsimp only
  rw [hturn]
  rfl

theorem stepRunsGigInstruction : Claims.StepRunsGigInstruction := by
  rintro s s1 s2 t n rest w i hs hp ht rfl hfree hslice hext hf hd
  exact (step_of_schedule hs).trans (State.turn_gig hp ht hfree hslice hext hf hd)

theorem stepRunsTimedInstruction : Claims.StepRunsTimedInstruction := fun _ _ _ _ _ _ _ hs hp hw hpc hbad hd =>
  (step_of_schedule hs).trans (State.turn_die hp hw hpc hbad hd)

theorem stepRunsEvent : Claims.StepRunsEvent := fun _ _ _ hs hp =>
  (step_of_schedule hs).trans (if_pos (State.mayAct_of_powered hp _))

/-- Settles O4. -/
theorem stepRunsTheNextInstruction : Obligations.StepRunsTheNextInstruction :=
  ⟨stepRunsGigInstruction, stepRunsTimedInstruction, stepRunsEvent⟩

/-! ### Samples and reset -/

/-- Settles O3: each word is decoded. -/
theorem sampleWordsDecode : Obligations.SampleWordsDecode :=
  ⟨rfl, rfl, rfl, rfl, rfl, rfl, rfl, rfl, rfl, rfl, rfl⟩

/-- Settles O57: every pipeline, die, partition and coach of the reset state is the default one. -/
theorem resetState : Obligations.ResetState := by
  refine ⟨fun g => ⟨rfl, rfl, rfl, rfl, rfl, fun n => ?_, fun n => ?_, rfl, rfl, rfl, rfl, rfl, rfl, rfl⟩,
    fun d => ⟨rfl, rfl, rfl⟩, rfl, rfl, fun k => rfl, fun c => rfl⟩
  · unfold Pipe.tokens
    rfl
  · unfold Pipe.dqueue
    rfl

/-! ### Ownership (24 R469, R474; 25 R485) -/

/-- A master that the status page knows, and whose port passed its training, may write it. -/
theorem State.mayWritePage_of {s : State} {m : BitVec 2} (hm : m ≠ 0) (h : s.fw.hostOff.getLsbD (m.toNat - 1) = false) :
    s.mayWritePage m.toNat = true := by
  have h0 : 0 < m.toNat := Nat.pos_of_ne_zero (fun h => hm (BitVec.eq_of_toNat_eq h))
  have h3 : m.toNat ≤ 3 := Nat.le_of_lt_succ m.isLt
  simp [State.mayWritePage, h0, h3, h]

/-- What a master may not write is ignored. -/
theorem ownWrites_ignored {s : State} {m : Nat} (h : s.mayWritePage m = false) (n : Nat) :
    exec (.ownClaim m) s = .next s ∧ exec (.ownSucc m n) s = .next s :=
  ⟨if_pos (.inl h), if_pos (.inl h)⟩

/-- What a CLAIM that is handled does. -/
theorem exec_ownClaim {s : State} {m : BitVec 2} (hm : s.mayWritePage m.toNat = true) (hact : s.fw.active = true) :
    exec (.ownClaim m.toNat) s = .next (
      if s.fw.own.succ = m then s.setOwn { epoch := s.fw.own.epoch + 1, succ := 0, owner := m }
      else if s.fw.own.owner = 0 then s.setOwn { s.fw.own with epoch := s.fw.own.epoch + 1, owner := m }
      else s) := by
  change execOwnClaim m.toNat s = _
  unfold execOwnClaim
  dsimp only
  rw [if_neg (by simp [hm, hact]), BitVec.ofNat_toNat, BitVec.setWidth_eq]
  split
  · rfl
  · split <;> rfl

/-- What a write of SUCC that is handled does. -/
theorem exec_ownSucc {s : State} {m : BitVec 2} (hm : s.mayWritePage m.toNat = true) (n : BitVec 2) :
    exec (.ownSucc m.toNat n.toNat) s = .next (
      if s.fw.own.owner = m then s.setOwn { s.fw.own with succ := if n = m then 0 else n } else s) := by
  have hn : ¬ 3 < n.toNat := Nat.not_lt.2 (Nat.le_of_lt_succ n.isLt)
  change execOwnSucc m.toNat n.toNat s = _
  unfold execOwnSucc
  dsimp only
  rw [if_neg (by simp [hm, hn])]
  simp only [BitVec.ofNat_toNat, BitVec.setWidth_eq, ← BitVec.toNat_inj]
  split <;> rfl

/-- Settles O56. -/
theorem ownershipWrites : Obligations.OwnershipWrites := by
  rintro s m o rfl
  refine ⟨fun hoff n => ownWrites_ignored (by simp [State.mayWritePage, hoff]) n, fun hm hon => ?_, fun k n hk => ?_, rfl,
    fun h => congrArg Host.Outcome.next (if_neg h), fun h => congrArg Host.Outcome.next (if_pos h)⟩
  · have hw := State.mayWritePage_of hm hon
    refine ⟨fun hact h0 hs => ?_, fun hact hs => ?_, fun h => ?_, fun n => ⟨fun ho => ?_, fun ho => ?_⟩⟩
    · rw [exec_ownClaim hw hact, if_neg hs, if_pos h0]
      rfl
    · rw [exec_ownClaim hw hact, if_pos hs]
      rfl
    · by_cases hact : s.fw.active = false
      · exact if_pos (.inr hact)
      · obtain ⟨ho, hs⟩ := h.resolve_left hact
        rw [exec_ownClaim hw ((Bool.not_eq_false _).mp hact), if_neg hs, if_neg ho]
    · rw [exec_ownSucc hw, if_pos ho]
      rfl
    · rw [exec_ownSucc hw, if_neg ho]
  · refine ownWrites_ignored ?_ n
    rcases hk with rfl | hk
    · rfl
    · simp [State.mayWritePage, Nat.not_le.2 hk]

end Sys2Proof.Machine
end

section
/-! What a pipeline does without a word: registers, late results, writes and drawbars (O40). -/
namespace Sys2Proof.Machine

/-! ### The CSRW of a cycle (04 R134) -/

theorem csrs_write_eq (x : Csrs) (c : Nat) (v : Word) (raised : FlagSet) : x.write c v raised = Claims.csrWritten x c v raised := by
  have hext : ∀ n : Nat, v.extractLsb' 0 n = v.setWidth n := fun n =>
    BitVec.eq_of_toNat_eq (by simp)
  match c with
  | 0 | 1 | 2 | 3 | 4 | 5 => simp only [Csrs.write, Claims.csrWritten, hext]
  | n + 6 =>
    simp only [Csrs.write, Claims.csrWritten, hext]
    by_cases h : 16 ≤ n + 6 ∧ n + 6 < 32
    · rw [if_pos h, if_neg (by omega)]
    · rw [if_neg h, if_pos (by omega)]

theorem registerWrites : Claims.RegisterWrites := by
  rintro s g p rfl
  refine ⟨fun h => ?_, fun c v h => ?_⟩
  · change execRegisterWrite g s = _
    unfold execRegisterWrite State.onPipe
    dsimp only
    rw [h]
  · change execRegisterWrite g s = _
    unfold execRegisterWrite State.onPipe
    dsimp only
    rw [h]
    dsimp only
    rw [csrs_write_eq]

/-! ### Descriptors, walks and coefficient tables (05 R145, R156, R158) -/

theorem foldl_appends {σ α β : Type} (part : σ → List β) (f : σ → α → σ) (g : α → List β) (l : List α) (s : σ)
    (h : ∀ q, ∀ a ∈ l, part (f q a) = part q ++ g a) : part (l.foldl f s) = part s ++ l.flatMap g := by
  induction l generalizing s with
  | nil => exact (List.append_nil _).symm
  | cons a l ih =>
    rw [List.foldl_cons, ih _ (fun q b hb => h q b (List.mem_cons_of_mem _ hb)), h s a List.mem_cons_self, List.flatMap_cons,
      List.append_assoc]

/-- A flight that stays when the due ones are taken from the list. -/
theorem mem_filter_not_iff {α : Type} (l : List α) (c : α → Bool) (f : α) :
    f ∈ l.filter (fun e => !(c e)) ↔ f ∈ l ∧ f ∉ l.filter c := by
  simp only [List.mem_filter, not_and, Bool.not_eq_true', Bool.not_eq_true]
  exact ⟨fun h => ⟨h.1, fun _ => h.2⟩, fun h => ⟨h.1, h.2 h.1⟩⟩

/-- The pipeline with the descriptor of a due SCFG judged. -/
def Pipe.takeScfg (p : Pipe) (f : Flight) : Pipe :=
  match f.res with
  | .scfg st a ws pc => p.takeDesc f.stream st a ws pc
  | _ => p

/-- A flight is a walk of a stream register that descriptor `e` replaces. -/
def Flight.replacedBy (f e : Flight) : Prop :=
  ∃ (st a pc : Nat) (ws : List Word), e.res = .scfg st a ws pc ∧ Desc.valid ws st = true ∧ f.res.prefetches st = true

theorem Pipe.takeScfg_cases (p : Pipe) (e : Flight) :
    (∃ (st a pc : Nat) (ws : List Word), e.res = .scfg st a ws pc ∧ p.takeScfg e = p.takeDesc e.stream st a ws pc) ∨
    ((∀ (st a pc : Nat) (ws : List Word), e.res ≠ .scfg st a ws pc) ∧ p.takeScfg e = p) := by
  unfold Pipe.takeScfg
  cases he : e.res with
  | scfg st a ws pc => exact .inl ⟨st, a, pc, ws, rfl, rfl⟩
  | _ => exact .inr ⟨fun _ _ _ _ h => Result.noConfusion h, rfl⟩

theorem Pipe.rest_takeScfg (p : Pipe) (e : Flight) :
    (p.takeScfg e).mem = p.mem ∧ (p.takeScfg e).q = p.q ∧ (p.takeScfg e).csr = p.csr := by
  rcases p.takeScfg_cases e with ⟨st, a, pc, ws, -, h⟩ | ⟨-, h⟩
  · rw [h]
    unfold Pipe.takeDesc
    split <;> exact ⟨rfl, rfl, rfl⟩
  · rw [h]
    exact ⟨rfl, rfl, rfl⟩

theorem Pipe.mem_res_takeScfg (p : Pipe) (e f : Flight) :
    f ∈ (p.takeScfg e).fly.res ↔ f ∈ p.fly.res ∧ ¬ f.replacedBy e := by
  rcases p.takeScfg_cases e with ⟨st, a, pc, ws, he, h⟩ | ⟨hne, h⟩
  · rw [h]
    unfold Pipe.takeDesc
    split
    · rename_i hv
      rw [show f.replacedBy e ↔ f.res.prefetches st = true from
        ⟨fun ⟨st', _, _, _, he', _, hp⟩ => by rw [he] at he'; injection he' with h1; rw [h1]; exact hp,
          fun hp => ⟨st, a, pc, ws, he, hv, hp⟩⟩]
      simp [List.mem_filter]
    · rename_i hv
      refine ⟨fun hf => ⟨hf, fun ⟨st', _, _, ws', he', hv', _⟩ => ?_⟩, fun hf => hf.1⟩
      rw [he] at he'
      injection he' with h1 _ h3
      rw [← h1, ← h3] at hv'
      exact hv hv'
  · rw [h]
    exact ⟨fun hf => ⟨hf, fun ⟨st, a, pc, ws, he, _⟩ => hne st a pc ws he⟩, fun hf => hf.1⟩

theorem Pipe.mem_res_foldl_takeScfg (l : List Flight) (p : Pipe) (f : Flight) :
    f ∈ (l.foldl Pipe.takeScfg p).fly.res ↔ f ∈ p.fly.res ∧ ∀ e ∈ l, ¬ f.replacedBy e := by
  induction l generalizing p with
  | nil => simp
  | cons e l ih =>
    rw [List.foldl_cons, ih, Pipe.mem_res_takeScfg]
    simp only [List.forall_mem_cons, and_assoc]

theorem scfgsTakeEffect (s : State) (g : Nat) (due : List Flight)
    (hdue : due = Claims.due s g (fun r => match r with | .scfg .. => true | _ => false)) :
      ∃ t : State, exec (.scfgTakesEffect g) s = .next t ∧ (t.pipe g).mem = (s.pipe g).mem ∧ (t.pipe g).q = (s.pipe g).q ∧
        (t.pipe g).csr = (s.pipe g).csr ∧
        (∀ n : Nat, (t.pipe g).streg n = due.foldl (fun old f => match f.res with
          | .scfg st a ws _ => if st = n ∧ Desc.valid ws st = true then
              { desc := some (Desc.ofWords ws), addr := a, p := 0, cur := {}, nxt := {} } else old
          | _ => old) ((s.pipe g).streg n)) ∧
        (∀ f : Flight, f ∈ (t.pipe g).fly.res ↔ f ∈ (s.pipe g).fly.res ∧ f ∉ due ∧
          ∀ e ∈ due, ∀ (st a pc : Nat) (ws : List Word), e.res = .scfg st a ws pc → Desc.valid ws st = true →
            f.res.prefetches st = false) ∧
        (t.pipe g).cyc.dets = (s.pipe g).cyc.dets ++ due.flatMap (fun f => match f.res with
          | .scfg st _ ws pc => if Desc.valid ws st = true then [] else
              [{ cause := 1, stream := f.stream, pc := pc, detail := 0, info := 0 }]
          | _ => []) := by
  subst hdue
  refine ⟨_, rfl, ?_⟩
  rw [State.pipe_onPipe_same]
  refine ⟨?_, ?_, ?_, fun n => ?_, fun f => ?_, ?_⟩
  · exact foldl_keeps Pipe.mem Pipe.takeScfg _ _ (fun q e _ => (q.rest_takeScfg e).1)
  · exact foldl_keeps Pipe.q Pipe.takeScfg _ _ (fun q e _ => (q.rest_takeScfg e).2.1)
  · exact foldl_keeps Pipe.csr Pipe.takeScfg _ _ (fun q e _ => (q.rest_takeScfg e).2.2)
  · refine foldl_part (fun q : Pipe => q.streg n) Pipe.takeScfg _ _ _ (fun q e _ => ?_)
    unfold Pipe.takeScfg
    cases e.res with
    | scfg st a ws pc =>
      dsimp only
      unfold Pipe.takeDesc Pipe.streg
      by_cases hv : Desc.valid ws st = true
      · simp [hv, Regs.sound, SMap.get_set, eq_comm]
      · simp [hv]
    | _ => rfl
  · refine (Pipe.mem_res_foldl_takeScfg _ _ f).trans ?_
    refine (and_congr (mem_filter_not_iff _ _ f) Iff.rfl).trans (and_assoc.trans (and_congr_right fun _ => and_congr_right fun _ => ?_))
    refine forall₂_congr (fun e _ => ⟨fun h st a pc ws he hv => Bool.eq_false_iff.2 fun hp => h ⟨st, a, pc, ws, he, hv, hp⟩, ?_⟩)
    rintro h ⟨st, a, pc, ws, he, hv, hp⟩
    exact absurd hp (Bool.eq_false_iff.1 (h st a pc ws he hv))
  · refine foldl_appends (fun q : Pipe => q.cyc.dets) Pipe.takeScfg _ _ _ (fun q e _ => ?_)
    unfold Pipe.takeScfg
    cases e.res with
    | scfg st a ws pc =>
      dsimp only
      unfold Pipe.takeDesc
      by_cases hv : Desc.valid ws st = true
      · rw [if_pos hv, if_pos hv, List.append_nil]
        rfl
      · rw [if_neg hv, if_neg hv]
        rfl
    | _ => exact (List.append_nil _).symm

/-- The pipeline with the outcome of a due walk, made of the table from `root`. -/
def State.takeWalk (s : State) (root : Nat) (q : Pipe) (f : Flight) : Pipe :=
  match f.res with
  | .nxt st va read => q.setSt st { q.streg st with nxt := walkResult va st (s.walkOn root va 3 read) }
  | .tlb st e => q.setSt st { q.streg st with nxt := e }
  | _ => q

theorem State.takeWalk_cases (s : State) (root : Nat) (q : Pipe) (f : Flight) :
    (∃ (st : Nat) (r : StreamReg), s.takeWalk root q f = q.setSt st r) ∨ s.takeWalk root q f = q := by
  unfold State.takeWalk
  split
  · exact .inl ⟨_, _, rfl⟩
  · exact .inl ⟨_, _, rfl⟩
  · exact .inr rfl

/-- What setting stream registers leaves, walks of other kinds too. -/
theorem State.takeWalk_keeps {β : Type} {part : Pipe → β} (hpart : ∀ (q : Pipe) (st : Nat) (r : StreamReg), part (q.setSt st r) = part q)
    (s : State) (root : Nat) (l : List Flight) (p : Pipe) : part (l.foldl (s.takeWalk root) p) = part p :=
  foldl_keeps part _ _ _ (fun q f _ => by
    rcases s.takeWalk_cases root q f with ⟨st, r, h⟩ | h
    · rw [h, hpart]
    · rw [h])

theorem walksEnd (s : State) (g : Nat) (due : List Flight) (hdue : due = Claims.due s g Result.isPrefetch) :
      ∃ t : State, exec (.tlbpResult g) s = .next t ∧ (t.pipe g).mem = (s.pipe g).mem ∧ (t.pipe g).q = (s.pipe g).q ∧
        (t.pipe g).csr = (s.pipe g).csr ∧ (t.pipe g).cyc = (s.pipe g).cyc ∧
        (∀ f : Flight, f ∈ (t.pipe g).fly.res ↔ f ∈ (s.pipe g).fly.res ∧ f ∉ due) ∧
        (∀ n : Nat, (t.pipe g).streg n = due.foldl (fun old f => match f.res with
          | .nxt st va read => if st = n then
              { old with nxt := walkResult va st (s.walkOn (s.part (s.partOfPipe g)).root va 3 read) } else old
          | .tlb st e => if st = n then { old with nxt := e } else old
          | _ => old) ((s.pipe g).streg n)) := by
  subst hdue
  refine ⟨_, rfl, ?_⟩
  have hpipe : ∀ reads : List Nat, (s.countTable reads).pipe g = s.pipe g := fun reads =>
    foldl_keeps (fun u : State => u.pipe g) _ _ _ (fun u a _ => by rw [(State.countUnc_eq u _).choose_spec]; rfl)
  rw [State.pipe_onPipe_same, hpipe]
  refine ⟨?_, ?_, ?_, ?_, fun f => ?_, fun n => ?_⟩
  · exact State.takeWalk_keeps (part := Pipe.mem) (fun _ _ _ => rfl) s _ _ _
  · exact State.takeWalk_keeps (part := Pipe.q) (fun _ _ _ => rfl) s _ _ _
  · exact State.takeWalk_keeps (part := Pipe.csr) (fun _ _ _ => rfl) s _ _ _
  · exact State.takeWalk_keeps (part := Pipe.cyc) (fun _ _ _ => rfl) s _ _ _
  · have hfly := State.takeWalk_keeps (part := Pipe.fly) (fun _ _ _ => rfl) s (s.part (s.partOfPipe g)).root
    exact (iff_of_eq (congrArg (fun x : InFlight => f ∈ x.res) (hfly _ _))).trans (mem_filter_not_iff _ _ f)
  · refine foldl_part (fun q : Pipe => q.streg n) (s.takeWalk (s.part (s.partOfPipe g)).root) _ _ _ (fun q e _ => ?_)
    unfold State.takeWalk
    cases e.res with
    | nxt st va read =>
      dsimp only
      rw [Pipe.streg, Pipe.setSt_regs]
      dsimp only
      rw [SMap.get_set]
      by_cases h : n = st
      · rw [if_pos h, if_pos h.symm, h]
      · rw [if_neg h, if_neg (Ne.symm h)]
        rfl
    | tlb st t =>
      dsimp only
      rw [Pipe.streg, Pipe.setSt_regs]
      dsimp only
      rw [SMap.get_set]
      by_cases h : n = st
      · rw [if_pos h, if_pos h.symm, h]
      · rw [if_neg h, if_neg (Ne.symm h)]
        rfl
    | _ => rfl

/-- A table entry after a list of words is set, from entry `b` on. -/
theorem get_foldl_zipIdx {α : Type} (ws : List α) (m : SMap α) (b i n : Nat) (d : α) :
    SMap.get ((ws.zipIdx i).foldl (fun m e => m.set (b + e.2) e.1) m) n d =
      if b + i ≤ n ∧ n < b + i + ws.length then ws.getD (n - (b + i)) d else SMap.get m n d := by
  induction ws generalizing m i with
  | nil => rw [if_neg (by simp)]; rfl
  | cons w ws ih =>
    rw [List.zipIdx_cons, List.foldl_cons, ih, SMap.get_set, List.length_cons]
    by_cases h0 : n = b + i
    · subst h0
      rw [if_neg (by omega), if_pos rfl, if_pos (by omega), Nat.sub_self]
      rfl
    · rw [if_neg h0]
      by_cases h1 : b + (i + 1) ≤ n ∧ n < b + (i + 1) + ws.length
      · rw [if_pos h1, if_pos (by omega), show n - (b + i) = n - (b + (i + 1)) + 1 by omega]
        rfl
      · rw [if_neg h1, if_neg (by omega)]

/-- What a coefficient table writes. -/
theorem Pipe.coef_writeResult (p : Pipe) (x : Result) :
    (p.writeResult x).mem.coef = match x with
      | .coef t ws => ws.zipIdx.foldl (fun m e => m.set (t * 256 + e.2) e.1) p.mem.coef
      | _ => p.mem.coef := by
  cases x with
  | sreg d v | preg d v => unfold Pipe.writeResult; dsimp only; split <;> rfl
  | _ => rfl

theorem coefsComplete (s : State) (g : Nat) (due : List Flight)
    (hdue : due = Claims.due s g (fun r => match r with | .coef .. => true | _ => false)) :
      ∃ t : State, exec (.ldcmComplete g) s = .next t ∧ (t.pipe g).mem.sram = (s.pipe g).mem.sram ∧ (t.pipe g).regs = (s.pipe g).regs ∧
        (t.pipe g).q = (s.pipe g).q ∧ (t.pipe g).csr = (s.pipe g).csr ∧ (t.pipe g).cyc = (s.pipe g).cyc ∧
        (∀ f : Flight, f ∈ (t.pipe g).fly.res ↔ f ∈ (s.pipe g).fly.res ∧ f ∉ due) ∧
        (∀ n : Nat, (t.pipe g).mem.coef.get n 0 = due.foldl (fun old f => match f.res with
          | .coef k ws => if k * 256 ≤ n ∧ n < k * 256 + ws.length then ws.getD (n - k * 256) 0 else old
          | _ => old) ((s.pipe g).mem.coef.get n 0)) := by
  subst hdue
  refine ⟨_, rfl, ?_⟩
  rw [State.pipe_onPipe_same]
  have hcoef : ∀ f ∈ Claims.due s g (fun r => match r with | .coef .. => true | _ => false), ∃ k ws, f.res = .coef k ws := by
    intro f hf
    have hr := (Bool.and_eq_true_iff.1 (List.mem_filter.1 hf).2).2
    cases hres : f.res with
    | coef k ws => exact ⟨k, ws, rfl⟩
    | _ => rw [hres] at hr; exact absurd hr Bool.false_ne_true
  have hkeep : ∀ {β : Type} {part : Pipe → β}, (∀ (q : Pipe) (k : Nat) (ws : List (BitVec 128)), part (q.writeResult (.coef k ws)) = part q) →
      part ((Claims.due s g (fun r => match r with | .coef .. => true | _ => false)).foldl (fun q f => q.writeResult f.res)
        { s.pipe g with fly := { (s.pipe g).fly with res := (s.pipe g).fly.res.filter (fun e =>
          !(decide (e.due = s.now (dieOfPipe g)) && (match e.res with | .coef .. => true | _ => false))) } }) =
      part { s.pipe g with fly := { (s.pipe g).fly with res := (s.pipe g).fly.res.filter (fun e =>
          !(decide (e.due = s.now (dieOfPipe g)) && (match e.res with | .coef .. => true | _ => false))) } } := by
    intro β part hpart
    refine foldl_keeps part _ _ _ (fun q f hf => ?_)
    obtain ⟨k, ws, h⟩ := hcoef f hf
    rw [h, hpart]
  refine ⟨?_, ?_, ?_, ?_, ?_, fun f => ?_, fun n => ?_⟩
  · exact hkeep (part := fun q => q.mem.sram) (fun _ _ _ => rfl)
  · exact hkeep (part := Pipe.regs) (fun _ _ _ => rfl)
  · exact hkeep (part := Pipe.q) (fun _ _ _ => rfl)
  · exact hkeep (part := Pipe.csr) (fun _ _ _ => rfl)
  · exact hkeep (part := Pipe.cyc) (fun _ _ _ => rfl)
  · exact (iff_of_eq (congrArg (fun x : InFlight => f ∈ x.res) (hkeep (part := Pipe.fly) (fun _ _ _ => rfl)))).trans
      (mem_filter_not_iff _ _ f)
  · refine foldl_part (fun q : Pipe => q.mem.coef.get n 0) (fun (q : Pipe) (f : Flight) => q.writeResult f.res) _ _ _ (fun q e _ => ?_)
    rw [Pipe.coef_writeResult]
    cases e.res with
    | coef k ws =>
      refine (get_foldl_zipIdx ws q.mem.coef (k * 256) 0 n 0).trans ?_
      rw [Nat.add_zero]
    | _ => rfl

theorem lateResultsTakeEffect : Claims.LateResultsTakeEffect := by
  rintro s g p now rfl rfl
  exact ⟨scfgsTakeEffect s g, walksEnd s g, coefsComplete s g⟩

/-! ### Final writes and drawbar words (05 R170, R171; 07 R213, R214) -/

theorem finalWritesDone (s : State) (g : Nat) (due : List TWrite)
    (hdue : due = (s.pipe g).fly.writes.filter (fun w => decide (w.at_ = s.now (dieOfPipe g)) && decide (w.cls = 4))) :
      ∃ t : State, exec (.rmwFinalWrite g) s = .next t ∧ (t.pipe g).mem = (s.pipe g).mem ∧ (t.pipe g).regs = (s.pipe g).regs ∧
        (t.pipe g).q = (s.pipe g).q ∧ (t.pipe g).fly.res = (s.pipe g).fly.res ∧
        (t.pipe g).fly.writes = (s.pipe g).fly.writes.filter (fun w => !(decide (w.at_ = s.now (dieOfPipe g)) && decide (w.cls = 4))) ∧
        (t.pipe g).fly.done = (s.pipe g).fly.done ++ due.filter (fun w => (s.bankSlips g 3 w.pc w.addr w.bytes.length).isEmpty) ∧
        (t.pipe g).cyc.dets = (s.pipe g).cyc.dets ++ due.flatMap (fun w => s.bankSlips g 3 w.pc w.addr w.bytes.length) ∧
        (t.pipe g).fly.rmwHold = (s.pipe g).fly.rmwHold.filter (fun e => !(Tick.le e.2 (s.now (dieOfPipe g)))) := by
  subst hdue
  refine ⟨_, rfl, ?_⟩
  rw [State.writesDue_eq, State.onPipe_onPipe, State.pipe_onPipe_same]
  have hkeep : ∀ {β : Type} {part : Pipe → β} (c : Nat) (slips : TWrite → List Det), (∀ q w, part (Pipe.enterWrite c slips q w) = part q) →
      ∀ (l : List TWrite) (q : Pipe), part (l.foldl (Pipe.enterWrite c slips) q) = part q :=
    fun c slips h l q => foldl_keeps _ _ _ _ (fun q w _ => h q w)
  refine ⟨?_, ?_, ?_, ?_, ?_, ?_, ?_, ?_⟩
  · exact hkeep (part := Pipe.mem) 4 _ (fun q w => by unfold Pipe.enterWrite; split <;> rfl) _ _
  · exact hkeep (part := Pipe.regs) 4 _ (fun q w => by unfold Pipe.enterWrite; split <;> rfl) _ _
  · exact hkeep (part := Pipe.q) 4 _ (fun q w => by unfold Pipe.enterWrite; split <;> rfl) _ _
  · exact hkeep (part := fun q : Pipe => q.fly.res) 4 _ (fun q w => by unfold Pipe.enterWrite; split <;> rfl) _ _
  · exact hkeep (part := fun q : Pipe => q.fly.writes) 4 _ (fun q w => by unfold Pipe.enterWrite; split <;> rfl) _ _
  · exact Pipe.done_enterWrites (s.pipe g) _ 4 (s.writeSlips g 4)
  · refine foldl_appends (fun q : Pipe => q.cyc.dets) (Pipe.enterWrite 4 (s.writeSlips g 4)) _ _ _ (fun q w _ => ?_)
    unfold Pipe.enterWrite
    split
    · rename_i h
      rw [show s.bankSlips g 3 w.pc w.addr w.bytes.length = s.writeSlips g 4 w from rfl, List.isEmpty_iff.1 h, List.append_nil]
    · rfl
  · exact congrArg (List.filter _) (hkeep (part := fun q : Pipe => q.fly.rmwHold) 4 _
      (fun q w => by unfold Pipe.enterWrite; split <;> rfl) _ _)

/-- A drawbar word that arrives, at buffers that are full or not. -/
def Pipe.takeDrawbar (p : Pipe) (fullE fullW : Bool) (q : Pipe) (e : Tick × Bool × VWord) : Pipe :=
  if (if e.2.1 then fullE else fullW) then
    q.detect [{ cause := causeToken, stream := 2, pc := 0, detail := if e.2.1 then 28 else 29, info := 0 }]
  else
    let bad := if p.q.badIn.contains (e.1, e.2.1) then [(e.2.1, if e.2.1 then q.q.east.length else q.q.west.length)] else []
    if e.2.1 then { q with q := { q.q with east := q.q.east ++ [e.2.2], badDb := q.q.badDb ++ bad } }
    else { q with q := { q.q with west := q.q.west ++ [e.2.2], badDb := q.q.badDb ++ bad } }

theorem Pipe.takeDrawbar_cases (p q : Pipe) (fullE fullW : Bool) (e : Tick × Bool × VWord) :
    ((if e.2.1 then fullE else fullW) = true ∧ p.takeDrawbar fullE fullW q e =
      q.detect [{ cause := causeToken, stream := 2, pc := 0, detail := if e.2.1 then 28 else 29, info := 0 }]) ∨
    ((if e.2.1 then fullE else fullW) = false ∧ ∃ bad : List (Bool × Nat), p.takeDrawbar fullE fullW q e =
      { q with q := { q.q with east := q.q.east ++ (if e.2.1 then [e.2.2] else []),
                               west := q.q.west ++ (if e.2.1 then [] else [e.2.2]), badDb := bad } }) := by
  unfold Pipe.takeDrawbar
  by_cases h : (if e.2.1 then fullE else fullW) = true
  · exact .inl ⟨h, if_pos h⟩
  · refine .inr ⟨Bool.eq_false_iff.2 h, ?_⟩
    rw [if_neg h]
    by_cases he : e.2.1 = true
    · simp only [he, if_true, List.append_nil]
      exact ⟨_, rfl⟩
    · simp only [he, Bool.false_eq_true, if_false, List.append_nil]
      exact ⟨_, rfl⟩

theorem foldl_guarded_appends {α β : Type} (c : α → Bool) (f : α → β) (full : Bool) (l : List α) (b : List β) :
    l.foldl (fun b e => if c e = true ∧ full = false then b ++ [f e] else b) b =
      b ++ if full then [] else (l.filter c).map f := by
  cases full with
  | true => simp only [Bool.true_eq_false, and_false, if_false, if_true, List.append_nil, foldl_unchanged]
  | false =>
    induction l generalizing b with
    | nil => simp
    | cons e l ih =>
      rw [List.foldl_cons, ih]
      by_cases h : c e = true
      · simp [h]
      · simp [h]

theorem drawbarWordsArrive (s : State) (g : Nat) (fullE fullW : Bool) (due : List (Tick × Bool × VWord))
    (hE : fullE = decide (4 ≤ (s.pipe g).q.east.length + (s.pipe g).cyc.popE))
    (hW : fullW = decide (4 ≤ (s.pipe g).q.west.length + (s.pipe g).cyc.popW))
    (hdue : due = (s.pipe g).q.dbIn.filter (fun e => decide (e.1 = s.now (dieOfPipe g)))) :
      ∃ t : State, exec (.drawbarArrival g) s = .next t ∧ (t.pipe g).mem = (s.pipe g).mem ∧ (t.pipe g).regs = (s.pipe g).regs ∧
        (t.pipe g).fly = (s.pipe g).fly ∧
        (t.pipe g).q.dbIn = (s.pipe g).q.dbIn.filter (fun e => !(decide (e.1 = s.now (dieOfPipe g)))) ∧
        (t.pipe g).q.east = (s.pipe g).q.east ++ (if fullE then [] else (due.filter (fun e => e.2.1)).map (fun e => e.2.2)) ∧
        (t.pipe g).q.west = (s.pipe g).q.west ++ (if fullW then [] else (due.filter (fun e => !e.2.1)).map (fun e => e.2.2)) ∧
        (t.pipe g).cyc.dets = (s.pipe g).cyc.dets ++ due.flatMap (fun e => if (if e.2.1 then fullE else fullW) then
          [{ cause := 3, stream := 2, pc := 0, detail := if e.2.1 then 28 else 29, info := 0 }] else []) := by
  have hexec : ∃ t : State, exec (.drawbarArrival g) s = .next t ∧ t.pipe g = due.foldl ((s.pipe g).takeDrawbar fullE fullW)
      { s.pipe g with q := { (s.pipe g).q with dbIn := (s.pipe g).q.dbIn.filter (fun e => !(decide (e.1 = s.now (dieOfPipe g)))),
                                               badIn := (s.pipe g).q.badIn.filter (fun e => !(decide (e.1 = s.now (dieOfPipe g)))) } } := by
    refine ⟨_, rfl, ?_⟩
    rw [State.pipe_onPipe_same, hE, hW, hdue]
    refine foldl_congr_mem _ (fun q e _ => ?_)
    unfold Pipe.takeDrawbar
    cases e.2.1 <;> rfl
  obtain ⟨t, ht, hp⟩ := hexec
  have hkeep : ∀ {β : Type} {part : Pipe → β}, (∀ q e, part ((s.pipe g).takeDrawbar fullE fullW q e) = part q) →
      ∀ q : Pipe, part (due.foldl ((s.pipe g).takeDrawbar fullE fullW) q) = part q :=
    fun h q => foldl_keeps _ _ _ _ (fun q e _ => h q e)
  refine ⟨t, ht, ?_⟩
  rw [hp]
  refine ⟨?_, ?_, ?_, ?_, ?_, ?_, ?_⟩
  · refine hkeep (part := Pipe.mem) (fun q e => ?_) _
    rcases (s.pipe g).takeDrawbar_cases q fullE fullW e with ⟨-, h⟩ | ⟨-, bad, h⟩ <;> exact (congrArg Pipe.mem h :)
  · refine hkeep (part := Pipe.regs) (fun q e => ?_) _
    rcases (s.pipe g).takeDrawbar_cases q fullE fullW e with ⟨-, h⟩ | ⟨-, bad, h⟩ <;> exact (congrArg Pipe.regs h :)
  · refine hkeep (part := Pipe.fly) (fun q e => ?_) _
    rcases (s.pipe g).takeDrawbar_cases q fullE fullW e with ⟨-, h⟩ | ⟨-, bad, h⟩ <;> exact (congrArg Pipe.fly h :)
  · refine hkeep (part := fun q : Pipe => q.q.dbIn) (fun q e => ?_) _
    rcases (s.pipe g).takeDrawbar_cases q fullE fullW e with ⟨-, h⟩ | ⟨-, bad, h⟩ <;> exact (congrArg (fun q : Pipe => q.q.dbIn) h :)
  · refine (foldl_part (fun q : Pipe => q.q.east) _
      (fun b e => if e.2.1 = true ∧ fullE = false then b ++ [e.2.2] else b) _ _ (fun q e _ => ?_)).trans
        (foldl_guarded_appends (fun e => e.2.1) _ fullE due _)
    rcases (s.pipe g).takeDrawbar_cases q fullE fullW e with ⟨hf, h⟩ | ⟨hf, bad, h⟩ <;> rw [h]
    all_goals cases he : e.2.1 <;> simp_all
  · refine (foldl_part (fun q : Pipe => q.q.west) _
      (fun b e => if (!e.2.1) = true ∧ fullW = false then b ++ [e.2.2] else b) _ _ (fun q e _ => ?_)).trans
        (foldl_guarded_appends (fun e => !e.2.1) _ fullW due _)
    rcases (s.pipe g).takeDrawbar_cases q fullE fullW e with ⟨hf, h⟩ | ⟨hf, bad, h⟩ <;> rw [h]
    all_goals cases he : e.2.1 <;> simp_all
  · refine foldl_appends (fun q : Pipe => q.cyc.dets) _ _ _ _ (fun q e _ => ?_)
    rcases (s.pipe g).takeDrawbar_cases q fullE fullW e with ⟨hf, h⟩ | ⟨hf, bad, h⟩
    · rw [h, if_pos hf]
      rfl
    · rw [h, if_neg (Bool.eq_false_iff.1 hf), List.append_nil]

theorem writesAndDrawbarsLand : Claims.WritesAndDrawbarsLand := by
  rintro s g p now rfl rfl
  exact ⟨finalWritesDone s g, drawbarWordsArrive s g⟩

/-! ### The end of a pipeline's program (04 R138) -/

theorem State.foldl_onDie_eq (l : List Nat) (f : Nat → Die → Die) (s : State) :
    ∃ ds, l.foldl (fun t d => t.onDie d (f d)) s = { s with dies := ds } := by
  induction l generalizing s with
  | nil => exact ⟨s.dies, rfl⟩
  | cons d l ih =>
    obtain ⟨ds, h⟩ := ih (s.onDie d (f d))
    exact ⟨ds, h⟩

theorem State.foldl_onPipe_eq (l : List Nat) (f : Nat → Pipe → Pipe) (s : State) :
    ∃ ps, l.foldl (fun t g => t.onPipe g (f g)) s = { s with pipes := ps } := by
  induction l generalizing s with
  | nil => exact ⟨s.pipes, rfl⟩
  | cons g l ih =>
    obtain ⟨ps, h⟩ := ih (s.onPipe g (f g))
    exact ⟨ps, h⟩

theorem State.onJob_eq (s : State) (j : Option Nat) (f : Job → Job) : ∃ po, s.onJob j f = { s with portal := po } := by
  cases j with
  | none => exact ⟨s.portal, rfl⟩
  | some j => exact ⟨_, rfl⟩

theorem repeat_succ_apply {α : Type} (f : α → α) (n : Nat) (a : α) : Nat.repeat f (n + 1) a = Nat.repeat f n (f a) := by
  induction n with
  | zero => rfl
  | succ n ih => exact congrArg f ih

/-- A pipeline after one change made at each of a list of pipelines: made as often as the list names it. -/
theorem State.pipe_foldl_onPipe (l : List Nat) (f : Pipe → Pipe) (s : State) (g : Nat) :
    (l.foldl (fun t h => t.onPipe h f) s).pipe g = Nat.repeat f (l.count g) (s.pipe g) := by
  induction l generalizing s with
  | nil => rfl
  | cons h l ih =>
    rw [List.foldl_cons, ih, List.count_cons]
    unfold State.onPipe
    rw [State.pipe_setPipe]
    by_cases hg : g = h
    · rw [if_pos hg, hg, beq_self_eq_true, if_pos rfl, repeat_succ_apply]
    · rw [if_neg hg, if_neg (fun e => hg (beq_iff_eq.1 e).symm)]
      rfl

theorem State.die_foldl_onDie (l : List Nat) (f : Die → Die) (s : State) (d : Nat) :
    (l.foldl (fun t e => t.onDie e f) s).die d = Nat.repeat f (l.count d) (s.die d) := by
  induction l generalizing s with
  | nil => rfl
  | cons e l ih =>
    rw [List.foldl_cons, ih, List.count_cons, State.die_onDie]
    by_cases hd : d = e
    · rw [if_pos hd, hd, beq_self_eq_true, if_pos rfl, repeat_succ_apply]
    · rw [if_neg hd, if_neg (fun h => hd (beq_iff_eq.1 h).symm)]
      rfl

/-- A part that a change leaves is left by making it again. -/
theorem iterate_keeps {α β : Type} {part : α → β} {f : α → α} (h : ∀ a, part (f a) = part a) (n : Nat) (a : α) :
    part (Nat.repeat f n a) = part a := by
  induction n generalizing a with
  | zero => rfl
  | succ n ih => rw [repeat_succ_apply, ih, h]

/-- The timed part of a partition whose launch has ended with flags `fl`. -/
def TimedRun.over (r : TimedRun) (fl : BitVec 7) : TimedRun :=
  { r with phase := .complete, flags := fl, ext := [], frozenDies := [], td := none, fe := none, feHeld := none, notice := false,
           first := none }

/-- A pipeline whose streams stop, the writes of its cycle in its memory. -/
def Pipe.stopped (p : Pipe) : Pipe :=
  { p.settleWrites with
    c := { p.settleWrites.c with run := false }, l := { p.settleWrites.l with run := false }
    x := { p.settleWrites.x with run := false }, s := { p.settleWrites.s with run := false } }

/-- The end of a launch changes its dies, stops its pipelines, and changes its packet, the words on their way and the partition's
launch. -/
theorem State.endTimed_eq (s : State) (k : Nat) (status : JobStatus) (reason : Nat) (detail : Word) :
    ∃ u : State, (∃ po ds ps ws ls, u = { s with portal := po, dies := ds, pipes := ps, words := ws, linkWords := ls }) ∧
      (∀ g, u.pipe g = Nat.repeat Pipe.stopped ((s.part k).pipes.count g) (s.pipe g)) ∧
      ∃ fl, s.endTimed k status reason detail = u.onRun k (·.over fl) := by
  unfold State.endTimed
  dsimp only
  obtain ⟨po, hj⟩ := s.onJob_eq (s.part k).run.job _
  rw [hj]
  obtain ⟨ds, hd⟩ := State.foldl_onDie_eq (s.part k).dies _ { s with portal := po }
  rw [hd]
  obtain ⟨ps, hp⟩ := State.foldl_onPipe_eq (s.part k).pipes _ { s with portal := po, dies := ds }
  rw [hp]
  refine ⟨_, ⟨po, ds, ps, _, _, rfl⟩, fun g => ?_, _, rfl⟩
  exact (congrArg (State.pipe · g) hp).symm.trans
    (State.pipe_foldl_onPipe (s.part k).pipes Pipe.stopped { s with portal := po, dies := ds } g)

theorem State.part_onRun (s : State) (k j : Nat) (f : TimedRun → TimedRun) :
    (s.onRun k f).part j = if j = k then { s.part k with run := f (s.part k).run } else s.part j :=
  State.part_setPart ..

theorem State.run_onRun (s : State) (k j : Nat) (f : TimedRun → TimedRun) :
    ((s.onRun k f).part j).run = if j = k then f (s.part k).run else (s.part j).run := by
  rw [State.part_onRun]
  split <;> rfl

theorem State.pipes_onRun (s : State) (k j : Nat) (f : TimedRun → TimedRun) :
    ((s.onRun k f).part j).pipes = (s.part j).pipes := by
  rw [State.part_onRun]
  split
  · rename_i h
    rw [h]
    rfl
  · rfl

/-- A pipeline of a running launch that has halted and of which nothing is in flight is finished, and may end the launch. -/
theorem exec_pipelineFinished (s : State) (g : Nat) (hrun : (s.part (s.partOfPipe g)).run.phase = .running)
    (hst : (s.part (s.partOfPipe g)).run.started.contains (dieOfPipe g) = true) (hh : (s.pipe g).halted = true)
    (hl : s.landed g = true) :
    ∃ s1 : State, s1 = (if (s.pipe g).finished then s else (s.setPipe g { s.pipe g with finished := true }).onRun (s.partOfPipe g)
        (fun r => { r with span := Nat.max r.span ((s.part (s.partOfPipe g)).run.tau (s.now (dieOfPipe g))) })) ∧
      exec (.pipelineFinished g) s = .next (if (s.part (s.partOfPipe g)).run.td = none ∧ s1.allFinished (s.partOfPipe g) = true then
        s1.endTimed (s.partOfPipe g) .done 0 0 else s1) := by
  refine ⟨_, rfl, ?_⟩
  change execPipelineFinished g s = _
  unfold execPipelineFinished
  dsimp only
  rw [if_pos ⟨hrun, hst, hh⟩, if_pos hl]

/-- Whether a pipeline has landed depends on its own flights, nest and arrivals, and on the words and clocks. -/
theorem State.landed_marked (s : State) (g h k : Nat) (b : Bool) (f : TimedRun → TimedRun) :
    ((s.setPipe g { s.pipe g with finished := b }).onRun k f).landed h = s.landed h := by
  have hp : ∃ b', ((s.setPipe g { s.pipe g with finished := b }).onRun k f).pipe h = { s.pipe h with finished := b' } := by
    refine ⟨if h = g then b else (s.pipe h).finished, ((State.pipe_setPipe s g h _).trans ?_)⟩
    by_cases hh : h = g
    · rw [if_pos hh, if_pos hh, hh]
    · rw [if_neg hh, if_neg hh]
  obtain ⟨b', hp⟩ := hp
  unfold State.landed
  dsimp only
  rw [hp]
  rfl

theorem pipelinesFinish : Claims.PipelinesFinish := by
  rintro s g k p r now rfl rfl rfl rfl
  refine ⟨fun h => ?_, fun hrun hst hh => ⟨fun hl => ?_, fun hl all hall => ?_⟩⟩
  · refine if_neg (fun hc => ?_)
    obtain ⟨h1, h2, h3⟩ := hc
    rcases h with h | h | h
    · exact h h1
    · exact Bool.false_ne_true (h.symm.trans h2)
    · exact Bool.false_ne_true (h.symm.trans h3)
  · exact (if_pos ⟨hrun, hst, hh⟩).trans (if_neg (by rw [hl]; exact Bool.false_ne_true))
  · obtain ⟨s1, hs1, hexec⟩ := exec_pipelineFinished s g hrun hst hh hl
    have hfin : ∀ h, (s1.pipe h).finished = true ↔ h = g ∨ (s.pipe h).finished = true := by
      intro h
      rw [hs1]
      by_cases hf : (s.pipe g).finished = true
      · rw [if_pos hf]
        exact ⟨.inr, fun h' => h'.elim (fun e => e ▸ hf) id⟩
      · rw [if_neg hf, show ∀ f, ((s.setPipe g { s.pipe g with finished := true }).onRun (s.partOfPipe g) f).pipe h =
          (s.setPipe g { s.pipe g with finished := true }).pipe h from fun _ => rfl, State.pipe_setPipe]
        by_cases hg : h = g
        · simp [hg]
        · simp [hg]
    have hrest : (∀ h, (s1.pipe h).fly = (s.pipe h).fly ∧ s1.landed h = s.landed h) ∧
        (s1.part (s.partOfPipe g)).pipes = (s.part (s.partOfPipe g)).pipes ∧ s1.mem = s.mem ∧
        (s1.part (s.partOfPipe g)).run.lid = (s.part (s.partOfPipe g)).run.lid ∧
        (s1.part (s.partOfPipe g)).run.phase = .running ∧
        (s1.part (s.partOfPipe g)).run.span = if (s.pipe g).finished then (s.part (s.partOfPipe g)).run.span
          else Nat.max (s.part (s.partOfPipe g)).run.span ((s.part (s.partOfPipe g)).run.tau (s.now (dieOfPipe g))) := by
      rw [hs1]
      by_cases hf : (s.pipe g).finished = true
      · rw [if_pos hf, if_pos hf]
        exact ⟨fun h => ⟨rfl, rfl⟩, rfl, rfl, rfl, hrun, rfl⟩
      · rw [if_neg hf, if_neg hf]
        refine ⟨fun h => ⟨?_, s.landed_marked g h _ true _⟩, ?_, rfl, ?_, ?_, ?_⟩
        · refine (congrArg Pipe.fly (State.pipe_setPipe s g h _)).trans ?_
          split
          · rename_i e
            rw [e]
          · rfl
        · exact State.pipes_onRun ..
        · rw [State.run_onRun, if_pos rfl]
          rfl
        · rw [State.run_onRun, if_pos rfl]
          exact hrun
        · rw [State.run_onRun, if_pos rfl]
          rfl
    obtain ⟨hp, hpipes, hmem, hlid, hphase, hspan⟩ := hrest
    have hcond : ((s.part (s.partOfPipe g)).run.td = none ∧ s1.allFinished (s.partOfPipe g) = true) ↔ all := by
      rw [hall]
      refine and_congr_right (fun _ => ?_)
      unfold State.allFinished
      rw [hpipes, List.all_eq_true]
      refine forall₂_congr (fun h _ => ?_)
      rw [(hp h).1, (hp h).2, Bool.and_eq_true_iff, Bool.and_eq_true_iff, hfin, List.isEmpty_iff, and_assoc]
    refine ⟨_, hexec, ?_⟩
    by_cases hc : all
    · rw [if_pos (hcond.2 hc)]
      obtain ⟨u, ⟨po, ds, ps, ws, ls, hu⟩, hpipe, fl, he⟩ := s1.endTimed_eq (s.partOfPipe g) .done 0 0
      rw [he]
      have hrun' : ((u.onRun (s.partOfPipe g) (·.over fl)).part (s.partOfPipe g)).run = (s1.part (s.partOfPipe g)).run.over fl := by
        rw [State.run_onRun, if_pos rfl, hu]
        rfl
      rw [hrun']
      refine ⟨?_, hlid, hspan, ?_, fun _ => rfl, fun h => absurd hc h⟩
      · exact (congrArg Pipe.finished (hpipe g)).trans ((iterate_keeps (part := Pipe.finished) (f := Pipe.stopped) (fun _ => rfl) _ _).trans
          ((hfin g).2 (.inl rfl)))
      · rw [← hmem, hu]
        rfl
    · rw [if_neg (fun h => hc (hcond.1 h))]
      exact ⟨(hfin g).2 (.inl rfl), hlid, hspan, hmem, fun h => absurd h hc, fun _ => hphase⟩

end Sys2Proof.Machine
end

section
/-! K-steps of a nest (O40). -/
namespace Sys2Proof.Machine

/-! ### Cells and rows -/

/-- Element `e` of a packed number. -/
theorem digit_packElems {w n e : Nat} (f : Nat → Nat) (he : e < n) :
    packElems w n f / 2 ^ (w * e) % 2 ^ w = f e % 2 ^ w := by
  apply Nat.eq_of_testBit_eq
  intro i
  rw [Nat.testBit_mod_two_pow, Nat.testBit_mod_two_pow, Nat.testBit_div_two_pow]
  by_cases hi : i < w
  · rw [Nat.add_comm, testBit_packElems f he hi]
  · simp [hi]

/-- The cells of a row of accumulator are as wide as their format, and 1,536 bits together (06 Table 6-2). -/
theorem Nest.row_width (x : Nest) : x.af.bits = (if x.af = .fp64 then 64 else 32) ∧ x.af.bits * nestCols x.cls = 1536 := by
  unfold Nest.af Nest.cls
  by_cases h9 : x.a.fmt = 9
  · rw [if_pos h9, h9]
    decide
  · have hcls : nestCols ((nestClass x.a.fmt).getD 0) = 48 := by
      unfold nestCols
      refine if_neg (fun h => ?_)
      unfold nestClass at h
      split at h <;> simp_all
    rw [if_neg h9, hcls]
    split <;> decide

/-- The B block of K-step `k` as elements, column by column (R178). -/
def Pipe.bCols (p : Pipe) (k : KStep) (d : VWord) : List (List (XVal × FlagSet)) :=
  let x := p.mx.nest
  (List.range (nestCols x.cls)).map (fun j => (List.range (nestGroup x.cls)).map (fun e =>
    valueOf (fmtOf x.b.fmt) (p.cbreg x.b.cbr)
      (p.bBlock k d / 2 ^ ((fmtOf x.b.fmt).bits * (e * nestCols x.cls + j)) % 2 ^ (fmtOf x.b.fmt).bits)))

/-- The scale of column `j` (R179). -/
theorem Nest.bScales_getD (x : Nest) (k : KStep) (f : Int → XVal) (one : XVal) {j : Nat} (hj : j < nestCols x.cls) :
    ((x.bScales k).map f).getD j one =
      if x.b.scl = true then f (x.b.scaleAt ((k.nt * nestCols x.cls + j : Nat) : Int) (k.kt * nestGroup x.cls)) else one := by
  unfold Nest.bScales
  by_cases h : x.b.scl = true
  · rw [if_pos h, if_pos h]
    simp [List.getD, hj]
  · rw [if_neg h, if_neg h]
    rfl

/-- Row `i` of a K-step holds the cells that the statement gives it, with their flags. -/
theorem Pipe.tileRow_eq (p : Pipe) (k : KStep) (d : VWord) (i : Nat) :
    let x := p.mx.nest
    let cells := (List.range (nestCols x.cls)).map (Claims.cell p k d i)
    p.tileRow k (p.bCols k d) ((x.bScales k).map p.scaleVal) i =
      (packElems x.af.bits (nestCols x.cls) (fun j => (cells.getD j ⟨0, 0⟩).bits), cells.foldl (fun f c => f ||| c.flags) 0) := by
  intro x cells
  have hcells : (List.range (nestCols x.cls)).map (fun j =>
      let acc := (if k.first && nestZero x.active then 0 else (p.mx.current (64 * k.slot + i)).toNat) /
        2 ^ ((if x.af = .fp64 then 64 else 32) * j) % 2 ^ (if x.af = .fp64 then 64 else 32)
      let t := groupSum ((List.range (nestGroup x.cls)).map (fun e =>
        if k.zeroRow i then (XVal.fin false 0 0 false, (0 : FlagSet))
        else valueOf (fmtOf x.a.fmt) (p.cbreg x.a.cbr) (p.aElem k i e))) ((p.bCols k d).getD j [])
          (decide ((RMode.ofCode x.rm).getD .rne = .rdn))
      if x.af = Fmt.int32 then (⟨intCell (nestSat x.active) acc (intOf t.1.val), 0⟩ : FRes)
      else fpCell x.af ((RMode.ofCode x.rm).getD .rne)
        (if (RMode.ofCode x.rm).getD .rne = RMode.sr then p.draw 1 (i * nestCols x.cls + j) else 0) acc t.1 t.2
        (if x.a.scl || x.b.scl then some (if x.a.scl && !(k.zeroRow i) then
          p.scaleVal (x.a.scaleAt (k.scaleRow i) (k.kt * nestGroup x.cls)) else .fin false 1 0 false,
          (((x.bScales k).map p.scaleVal).getD j (.fin false 1 0 false))) else none)) = cells := by
    refine List.map_congr_left (fun j hj => ?_)
    have hj' := List.mem_range.1 hj
    have hb : (p.bCols k d).getD j [] = (List.range (nestGroup x.cls)).map (fun e =>
        valueOf (fmtOf x.b.fmt) (p.cbreg x.b.cbr)
          (p.bBlock k d / 2 ^ ((fmtOf x.b.fmt).bits * (e * nestCols x.cls + j)) % 2 ^ (fmtOf x.b.fmt).bits)) := by
      simp [Pipe.bCols, List.getD, x, hj']
    dsimp only
    rw [x.bScales_getD k _ _ hj', hb, ← x.row_width.1]
    unfold Claims.cell
    have hacc : (if k.first && nestZero x.active then 0 else (p.mx.current (64 * k.slot + i)).toNat) / 2 ^ (x.af.bits * j) %
        2 ^ x.af.bits = if k.first = true ∧ nestZero x.active = true then 0
          else (p.mx.current (64 * k.slot + i)).toNat / 2 ^ (x.af.bits * j) % 2 ^ x.af.bits := by
      by_cases h : k.first = true ∧ nestZero x.active = true
      · rw [if_pos h, if_pos (Bool.and_eq_true_iff.2 h), Nat.zero_div, Nat.zero_mod]
      · rw [if_neg h, if_neg (fun h' => h (Bool.and_eq_true_iff.1 h'))]
    rw [hacc]
    simp only [Bool.or_eq_true, Bool.and_eq_true, Bool.not_eq_true', x]
  unfold Pipe.tileRow
  dsimp only
  rw [show p.mx.nest = x from rfl, hcells, x.row_width.1]

/-- What a map holds after distinct keys are set. -/
theorem SMap.find?_foldl_set {α : Type} (rows : List (Nat × α)) (hd : (rows.map Prod.fst).Nodup) (m : SMap α) {r : Nat × α}
    (hr : r ∈ rows) : (rows.foldl (fun m e => m.set e.1 e.2) m).find? (fun e => e.1 == r.1) = some r := by
  induction rows generalizing m with
  | nil => exact absurd hr List.not_mem_nil
  | cons e rows ih =>
    rw [List.map_cons, List.nodup_cons] at hd
    rw [List.foldl_cons]
    rcases List.mem_cons.1 hr with rfl | hr
    · have hkeep : ∀ (l : List (Nat × α)) (m : SMap α), (∀ e ∈ l, e.1 ≠ r.1) →
          (l.foldl (fun m e => m.set e.1 e.2) m).find? (fun e => e.1 == r.1) = m.find? (fun e => e.1 == r.1) := by
        intro l m h
        refine foldl_keeps (fun m : SMap α => m.find? (fun e => e.1 == r.1)) _ l m (fun q a ha => ?_)
        exact SMap.find?_set_of_not _ _ _ _ (beq_eq_false_iff_ne.2 (h a ha)) (fun w _ => beq_eq_false_iff_ne.2 (h a ha))
      rw [hkeep rows _ (fun e he h => hd.1 (h ▸ List.mem_map_of_mem he))]
      exact SMap.find?_set ..
    · exact ih hd.2 _ hr

/-! ### A K-step (R177 to R182) -/

/-- The rows that K-step `k` of pipeline `p` forms with drawbar word `d`. -/
def Pipe.tile (p : Pipe) (k : KStep) (d : VWord) : List (Nat × Nat × FlagSet) :=
  (List.range 64).map (fun i => (64 * k.slot + i, p.tileRow k (p.bCols k d) ((p.mx.nest.bScales k).map p.scaleVal) i))

/-- Those rows as the accumulator store takes them. -/
def Pipe.tileRows (p : Pipe) (k : KStep) (d : VWord) : List (Nat × BitVec 1536) :=
  (p.tile k d).map (fun r => (r.1, BitVec.ofNat 1536 r.2.1))

/-- The flags that they raise. -/
def Pipe.tileFlags (p : Pipe) (k : KStep) (d : VWord) : FlagSet := (p.tile k d).foldl (fun f r => f ||| r.2.2) 0

theorem Pipe.tileRows_fst (p : Pipe) (k : KStep) (d : VWord) :
    (p.tileRows k d).map Prod.fst = (List.range 64).map (fun i => 64 * k.slot + i) := by
  simp [Pipe.tileRows, Pipe.tile]

theorem Pipe.tileRows_cell (p : Pipe) (k : KStep) (d : VWord) {i j : Nat} {r : Nat × BitVec 1536}
    (hr : (p.tileRows k d)[i]? = some r) (hj : j < nestCols p.mx.nest.cls) :
    r.2.toNat / 2 ^ (p.mx.nest.af.bits * j) % 2 ^ p.mx.nest.af.bits =
      (Claims.cell p k d i j).bits % 2 ^ p.mx.nest.af.bits := by
  have hi : i < 64 := by
    obtain ⟨h, -⟩ := List.getElem?_eq_some_iff.1 hr
    simpa [Pipe.tileRows, Pipe.tile] using h
  have hlt : ∀ f, packElems p.mx.nest.af.bits (nestCols p.mx.nest.cls) f < 2 ^ 1536 := fun f =>
    Nat.lt_of_lt_of_eq (packElems_lt ..) (congrArg (2 ^ ·) p.mx.nest.row_width.2)
  simp only [Pipe.tileRows, Pipe.tile, List.map_map, List.getElem?_map, List.getElem?_range hi, Option.map_some,
    Function.comp_apply, Option.some.injEq] at hr
  rw [← hr, Pipe.tileRow_eq]
  dsimp only
  rw [BitVec.toNat_ofNat, Nat.mod_eq_of_lt (hlt _), digit_packElems _ hj]
  simp [List.getD, hj]

theorem Pipe.tileFlags_eq (p : Pipe) (k : KStep) (d : VWord) :
    p.tileFlags k d = ((List.range 64).flatMap (fun i => (List.range (nestCols p.mx.nest.cls)).map (fun j =>
      (Claims.cell p k d i j).flags))).foldl (fun a b => a ||| b) 0 := by
  have hor : ∀ (l : List FlagSet) (a : FlagSet), l.foldl (fun a b => a ||| b) a = a ||| l.foldl (fun a b => a ||| b) 0 := by
    intro l
    induction l with
    | nil => simp
    | cons b l ih =>
      intro a
      rw [List.foldl_cons, List.foldl_cons, ih, ih ((0 : FlagSet) ||| b), show (0 : FlagSet) ||| b = b from BitVec.zero_or, BitVec.or_assoc]
  unfold Pipe.tileFlags Pipe.tile
  rw [List.foldl_map, List.foldl_flatMap]
  refine foldl_congr_mem _ (fun f i _ => ?_)
  dsimp only
  rw [Pipe.tileRow_eq, hor, List.foldl_map, List.foldl_map]

/-- Pipeline `p` after K-step `k`, which has no effect but its detections, draws and place in the nest unless it is sound. -/
def Pipe.stepped (p : Pipe) (now : Tick) (k : KStep) (faults slip : List Det) (east ok : Bool) (d : VWord) : Pipe :=
  let x := p.mx.nest
  let p1 := (p.detect (p.kstepScores ++ faults ++ slip)).drawn x.draws
  let p2 := if ok then p1.kstepWrite now k d else p1
  let p3 := if ok && decide (nestFrom x.active ≠ 0) then p2.popDrawbar east else p2
  let load := if ok then x.charge k else 0
  ({ p3 with mx := { p3.mx with nest := p3.mx.nest.stepped load } } : Pipe).charge (load + if ok && nestGidx x.active then 256 else 0)

/-- A sound K-step, and any other. -/
theorem State.runKstep_eq (s : State) (g : Nat) {p : Pipe} {k : KStep} {east : Bool} {d : VWord} {now : Tick} (hp : p = s.pipe g)
    (hk : k = p.kstep p.mx.nest.n) (he : east = decide (nestFrom p.mx.nest.active = 1)) (hd : d = (p.drawbar east).headD 0)
    (hnow : now = s.now (dieOfPipe g)) :
    (s.kstepFaults g k = [] → (nestFrom p.mx.nest.active ≠ 0 → p.drawbar east ≠ []) →
      s.runKstep g = if decide (nestFrom p.mx.nest.active ≠ 0) && nestFwd p.mx.nest.active then
        (s.setPipe g (p.stepped now k [] [] east true d)).sendDrawbar g (!east) now d
        else s.setPipe g (p.stepped now k [] [] east true d)) ∧
    (s.kstepFaults g k ≠ [] ∨ (nestFrom p.mx.nest.active ≠ 0 ∧ p.drawbar east = []) →
      s.runKstep g = s.setPipe g (p.stepped now k (s.kstepFaults g k)
        (if nestFrom p.mx.nest.active ≠ 0 ∧ p.drawbar east = [] then
          [{ cause := 3, stream := 1, pc := 0, detail := if east then 28 else 29, info := 0 }] else []) east false d)) := by
  have hrun : ∀ (empty ok : Bool), empty = (decide (nestFrom p.mx.nest.active ≠ 0) && (p.drawbar east).isEmpty) →
      ok = ((s.kstepFaults g k).isEmpty && !empty) → ∀ s1, s1 = s.setPipe g (p.stepped now k (s.kstepFaults g k)
        (if empty then [{ cause := causeToken, stream := 1, pc := 0, detail := if east then 28 else 29, info := 0 }] else []) east ok d) →
      s.runKstep g = if (ok && decide (nestFrom p.mx.nest.active ≠ 0)) && nestFwd p.mx.nest.active then
        s1.sendDrawbar g (!east) now d else s1 := by
    rintro _ _ rfl rfl _ rfl
    subst hk hd hnow he hp
    rfl
  have hempty : (decide (nestFrom p.mx.nest.active ≠ 0) && (p.drawbar east).isEmpty) = true ↔
      nestFrom p.mx.nest.active ≠ 0 ∧ p.drawbar east = [] := by
    rw [Bool.and_eq_true_iff, decide_eq_true_eq, List.isEmpty_iff]
  refine ⟨fun hf hpop => ?_, fun hbad => ?_⟩
  · refine hrun false true (Bool.eq_false_iff.2 (fun h => (hempty.1 h).elim (fun h0 hn => hpop h0 hn))).symm (by rw [hf]; rfl) _ ?_
    rw [hf]
    rfl
  · by_cases h : nestFrom p.mx.nest.active ≠ 0 ∧ p.drawbar east = []
    · refine hrun true false (hempty.2 h).symm (by rw [Bool.not_true, Bool.and_false]) _ ?_
      rw [if_pos h]
      rfl
    · have hf : (s.kstepFaults g k).isEmpty = false := List.isEmpty_eq_false_iff.2 (hbad.resolve_right h)
      refine hrun false false (Bool.eq_false_iff.2 (fun h' => h (hempty.1 h'))).symm (by rw [hf, Bool.false_and]) _ ?_
      rw [if_neg h]
      rfl

/-- What the rows of a K-step and the drawbar that it pops leave of a pipeline. -/
def Pipe.besideStep (p : Pipe) :=
  (p.mx.acc, p.mem, p.regs, p.cyc.dets, p.cyc.draws, p.mx.nest.n, p.mx.nest.at_, p.mx.nest.cls)

/-- The rows of a K-step go in flight and overlay the store. -/
theorem Pipe.kstepWrite_eq (p : Pipe) (now : Tick) (k : KStep) (d : VWord) : ∃ st bn, p.kstepWrite now k d =
    { p.produce .c now (nestCpk p.mx.nest.cls + 8) (.acc (p.tileRows k d)) (p.tileFlags k d) with
      mx := { p.mx with staging := st, badNest := bn,
                        nest := { p.mx.nest with seen := (p.tileRows k d).foldl (fun m r => m.set r.1 r.2) p.mx.nest.seen } } } := by
  refine ⟨BitVec.ofNat 8192 (p.bBlock k d % 2 ^ (8 * p.mx.nest.bBytes)), p.mx.badNest.filter (fun n => decide (n < 192)), ?_⟩
  unfold Pipe.kstepWrite Pipe.tileRows Pipe.tileFlags Pipe.tile Pipe.bCols
  rfl

theorem Pipe.besideStep_kstepWrite (p : Pipe) (now : Tick) (k : KStep) (d : VWord) :
    (p.kstepWrite now k d).besideStep = p.besideStep := by
  obtain ⟨st, bn, h⟩ := p.kstepWrite_eq now k d
  rw [h]
  simp only [Pipe.besideStep, Pipe.produce, Nest.cls]

/-- The rows of a K-step. -/
theorem Pipe.kstepWrite_facts (p : Pipe) (now : Tick) (k : KStep) (d : VWord) :
    (p.kstepWrite now k d).fly.res = p.fly.res ++ [{ due := now + BitVec.ofNat 64 (nestCpk p.mx.nest.cls + 8), issue := now,
                                                     stream := 0, res := .acc (p.tileRows k d), flags := p.tileFlags k d }] ∧
    (p.kstepWrite now k d).mx.nest.seen = (p.tileRows k d).foldl (fun m r => m.set r.1 r.2) p.mx.nest.seen ∧
    (p.kstepWrite now k d).q = p.q := by
  obtain ⟨st, bn, h⟩ := p.kstepWrite_eq now k d
  rw [h]
  refine ⟨rfl, ?_, rfl⟩
  dsimp only

theorem Pipe.besideStep_popDrawbar (p : Pipe) (east : Bool) : (p.popDrawbar east).besideStep = p.besideStep := by
  unfold Pipe.popDrawbar
  cases east <;> rfl

theorem Pipe.draws_drawn (p : Pipe) (n : Nat) : (p.drawn n).cyc.draws = Nat.max p.cyc.draws n := by
  change (if p.cyc.draws < n then n else p.cyc.draws) = Max.max p.cyc.draws n
  rw [Nat.max_def]
  split <;> split <;> omega

/-- A part of a pipeline that a change leaves, made or not. -/
theorem Pipe.besideStep_ite (b : Bool) (p q : Pipe) (h : q.besideStep = p.besideStep) :
    (if b then q else p).besideStep = p.besideStep := by
  cases b
  · rfl
  · exact h

/-- What a K-step leaves of a pipeline and what it advances, sound or not. -/
theorem Pipe.stepped_facts (p : Pipe) (now : Tick) (k : KStep) (faults slip : List Det) (east ok : Bool) (d : VWord) :
    let q := p.stepped now k faults slip east ok d
    q.mx.nest.n = p.mx.nest.n + 1 ∧ q.mx.nest.at_ = p.mx.nest.at_ + BitVec.ofNat 64 (nestCpk p.mx.nest.cls) ∧
      q.mx.acc = p.mx.acc ∧ q.mem = p.mem ∧ q.regs = p.regs ∧ q.cyc.draws = Nat.max p.cyc.draws p.mx.nest.draws ∧
      q.cyc.dets = p.cyc.dets ++ (p.kstepScores ++ faults ++ slip) := by
  have hrest := (Pipe.besideStep_ite (ok && decide (nestFrom p.mx.nest.active ≠ 0)) _ _ (Pipe.besideStep_popDrawbar _ east)).trans
    (Pipe.besideStep_ite ok _ _ (Pipe.besideStep_kstepWrite ((p.detect (p.kstepScores ++ faults ++ slip)).drawn p.mx.nest.draws) now k d))
  simp only [Pipe.besideStep, Prod.mk.injEq] at hrest
  obtain ⟨hacc, hmem, hregs, hdets, hdraws, hn, hat, hcls⟩ := hrest
  refine ⟨congrArg (· + 1) hn, ?_, hacc, hmem, hregs, hdraws.trans (Pipe.draws_drawn ..), hdets⟩
  exact congr (congrArg (fun (a : Tick) (c : Nat) => a + BitVec.ofNat 64 (nestCpk c)) hat) hcls

/-- A K-step that is not sound leaves flights and queues. -/
theorem Pipe.stepped_unsound (p : Pipe) (now : Tick) (k : KStep) (faults slip : List Det) (east : Bool) (d : VWord) :
    (p.stepped now k faults slip east false d).fly = p.fly ∧ (p.stepped now k faults slip east false d).q = p.q := ⟨rfl, rfl⟩

theorem Pipe.popDrawbar_facts (p : Pipe) (east : Bool) :
    (p.popDrawbar east).fly = p.fly ∧ (p.popDrawbar east).mx = p.mx ∧
      (p.popDrawbar east).q.east = (if east = true then p.q.east.tail else p.q.east) ∧
      (p.popDrawbar east).q.west = (if east = false then p.q.west.tail else p.q.west) := by
  unfold Pipe.popDrawbar
  cases east <;> exact ⟨rfl, rfl, rfl, rfl⟩

/-- A sound K-step puts its rows in flight, keeps them as current, and pops the drawbar that it takes B from. -/
theorem Pipe.stepped_sound (p : Pipe) (now : Tick) (k : KStep) (faults slip : List Det) (east : Bool) (d : VWord) :
    let q := p.stepped now k faults slip east true d
    q.fly.res = p.fly.res ++ [{ due := now + BitVec.ofNat 64 (nestCpk p.mx.nest.cls + 8), issue := now, stream := 0,
                                res := .acc (p.tileRows k d), flags := p.tileFlags k d }] ∧
      q.mx.nest.seen = (p.tileRows k d).foldl (fun m r => m.set r.1 r.2) p.mx.nest.seen ∧
      q.q.east = (if nestFrom p.mx.nest.active ≠ 0 ∧ east = true then p.q.east.tail else p.q.east) ∧
      q.q.west = (if nestFrom p.mx.nest.active ≠ 0 ∧ east = false then p.q.west.tail else p.q.west) := by
  intro q
  obtain ⟨p2, h2, load, n, hq⟩ : ∃ p2, p2 = ((p.detect (p.kstepScores ++ faults ++ slip)).drawn p.mx.nest.draws).kstepWrite now k d ∧
      ∃ (load n : Nat), q = (Pipe.charge { (if decide (nestFrom p.mx.nest.active ≠ 0) then p2.popDrawbar east else p2) with
        mx := { (if decide (nestFrom p.mx.nest.active ≠ 0) then p2.popDrawbar east else p2).mx with
          nest := (if decide (nestFrom p.mx.nest.active ≠ 0) then p2.popDrawbar east else p2).mx.nest.stepped load } } n) :=
    ⟨_, rfl, _, _, rfl⟩
  obtain ⟨hres, hseen, hq2⟩ := ((p.detect (p.kstepScores ++ faults ++ slip)).drawn p.mx.nest.draws).kstepWrite_facts now k d
  rw [← h2] at hres hseen hq2
  obtain ⟨hfly, hmx, hE, hW⟩ := p2.popDrawbar_facts east
  rw [hq]
  by_cases h : nestFrom p.mx.nest.active = 0
  · rw [if_neg (by simp [h]), if_neg (fun e => e.1 h), if_neg (fun e => e.1 h)]
    exact ⟨hres, hseen, congrArg Queues.east hq2, congrArg Queues.west hq2⟩
  · rw [if_pos (by simp [h])]
    simp only [ne_eq, h, not_false_eq_true, true_and]
    refine ⟨(congrArg InFlight.res hfly).trans hres, (congrArg (fun m : Matrix => m.nest.seen) hmx).trans hseen, ?_, ?_⟩
    · exact hE.trans (by rw [hq2]; rfl)
    · exact hW.trans (by rw [hq2]; rfl)

/-- The pipelines after a K-step: its own but for the sides that it has sent out of, and the neighbour that it forwards to. -/
theorem State.pipe_runKstep (s : State) (g : Nat) {ok : Bool} {q : Pipe} {fwd east : Bool} {now : Tick} {d : VWord} {t : State}
    (ht : t = if ok && fwd then (s.setPipe g q).sendDrawbar g (!east) now d else s.setPipe g q) :
    (∃ c : Cycle, c.dets = q.cyc.dets ∧ c.draws = q.cyc.draws ∧ t.pipe g = { q with cyc := c }) ∧
      (ok = true → fwd = true → ∀ h, drawbarTo g (!east) = some h → (t.pipe h).q.dbIn = (s.pipe h).q.dbIn ++ [(now + 1, east, d)]) := by
  rw [ht]
  by_cases h : (ok && fwd) = true
  · rw [if_pos h]
    refine ⟨?_, fun _ _ k hk => ?_⟩
    · refine ⟨(q.sent (!east)).cyc, ?_, ?_, ?_⟩
      · cases east <;> rfl
      · cases east <;> rfl
      · rw [State.pipe_sendDrawbar, if_pos rfl, State.pipe_setPipe, if_pos rfl]
        rfl
    · have hkg : k ≠ g := fun e => drawbarTo_ne g (!east) (e ▸ hk)
      rw [State.pipe_sendDrawbar, if_neg hkg, if_pos hk, State.pipe_setPipe, if_neg hkg]
      unfold Pipe.awaits
      rw [Bool.not_not]
  · rw [if_neg h]
    refine ⟨⟨q.cyc, rfl, rfl, by rw [State.pipe_setPipe, if_pos rfl]⟩, fun ho hf => absurd (by rw [ho, hf]; rfl) h⟩

theorem kstepBegins (s : State) (g : Nat) {p : Pipe} {x : Nest} {now : Tick} {east : Bool} (hp : p = s.pipe g) (hx : x = p.mx.nest)
    (hnow : now = s.now (dieOfPipe g)) (he : east = decide (nestFrom x.active = 1)) {t : State} (ht : t = s.runKstep g) :
        (t.pipe g).mx.nest.n = x.n + 1 ∧ (t.pipe g).mx.nest.at_ = x.at_ + BitVec.ofNat 64 (nestCpk x.cls) ∧
        (t.pipe g).mx.acc = p.mx.acc ∧ (t.pipe g).mem = p.mem ∧ (t.pipe g).regs = p.regs ∧
        (t.pipe g).cyc.draws = Nat.max p.cyc.draws x.draws ∧
        (s.kstepFaults g (p.kstep x.n) = [] → (nestFrom x.active ≠ 0 → p.drawbar east ≠ []) →
          (∃ (rows : List (Nat × BitVec 1536)) (fl : FlagSet),
            (t.pipe g).fly.res = p.fly.res ++ [{ due := now + BitVec.ofNat 64 (nestCpk x.cls + 8), issue := now, stream := 0,
                                                 res := .acc rows, flags := fl }] ∧
            rows.map (fun r => r.1) = (List.range 64).map (fun i => 64 * (p.kstep x.n).slot + i) ∧
            (∀ (i : Nat) (r : Nat × BitVec 1536), rows[i]? = some r → (t.pipe g).mx.current r.1 = r.2 ∧
              ∀ j : Nat, j < nestCols x.cls → r.2.toNat / 2 ^ (x.af.bits * j) % 2 ^ x.af.bits =
                (Claims.cell p (p.kstep x.n) ((p.drawbar east).headD 0) i j).bits % 2 ^ x.af.bits) ∧
            fl = ((List.range 64).flatMap (fun i => (List.range (nestCols x.cls)).map (fun j =>
              (Claims.cell p (p.kstep x.n) ((p.drawbar east).headD 0) i j).flags))).foldl (fun a b => a ||| b) 0) ∧
          (t.pipe g).cyc.dets = p.cyc.dets ++ p.kstepScores ∧
          (t.pipe g).q.east = (if nestFrom x.active ≠ 0 ∧ east = true then p.q.east.tail else p.q.east) ∧
          (t.pipe g).q.west = (if nestFrom x.active ≠ 0 ∧ east = false then p.q.west.tail else p.q.west) ∧
          (∀ h : Nat, nestFrom x.active ≠ 0 → nestFwd x.active = true → drawbarTo g (!east) = some h →
            (t.pipe h).q.dbIn = (s.pipe h).q.dbIn ++ [(now + 1, east, (p.drawbar east).headD 0)])) ∧
        (s.kstepFaults g (p.kstep x.n) ≠ [] ∨ (nestFrom x.active ≠ 0 ∧ p.drawbar east = []) →
          (t.pipe g).fly = p.fly ∧ (t.pipe g).q = p.q ∧
          (t.pipe g).cyc.dets = p.cyc.dets ++ p.kstepScores ++ s.kstepFaults g (p.kstep x.n) ++
            (if nestFrom x.active ≠ 0 ∧ p.drawbar east = [] then
              [{ cause := 3, stream := 1, pc := 0, detail := if east then 28 else 29, info := 0 }] else [])) := by
  subst hx
  obtain ⟨hgood, hbad⟩ := s.runKstep_eq g hp rfl he rfl hnow
  by_cases h : s.kstepFaults g (p.kstep p.mx.nest.n) ≠ [] ∨ (nestFrom p.mx.nest.active ≠ 0 ∧ p.drawbar east = [])
  · have htp := ht.trans (hbad h)
    have hpipe : t.pipe g = _ := (congrArg (State.pipe · g) htp).trans ((State.pipe_setPipe ..).trans (if_pos rfl))
    obtain ⟨h1, h2, h3, h4, h5, h6, h7⟩ := p.stepped_facts now (p.kstep p.mx.nest.n) (s.kstepFaults g (p.kstep p.mx.nest.n))
      (if nestFrom p.mx.nest.active ≠ 0 ∧ p.drawbar east = [] then
        [{ cause := 3, stream := 1, pc := 0, detail := if east then 28 else 29, info := 0 }] else []) east false ((p.drawbar east).headD 0)
    rw [hpipe]
    refine ⟨h1, h2, h3, h4, h5, h6, fun hf hpop => ?_, fun _ => ⟨(Pipe.stepped_unsound ..).1, (Pipe.stepped_unsound ..).2, ?_⟩⟩
    · rcases h with h | h
      · exact absurd hf h
      · exact absurd h.2 (hpop h.1)
    · rw [h7, List.append_assoc, List.append_assoc, List.append_assoc]
  · have hf : s.kstepFaults g (p.kstep p.mx.nest.n) = [] := Classical.byContradiction fun hf => h (.inl hf)
    have hpop : nestFrom p.mx.nest.active ≠ 0 → p.drawbar east ≠ [] := fun h0 hn => h (.inr ⟨h0, hn⟩)
    obtain ⟨⟨c, hdets, hdraws, hpipe⟩, hfwd⟩ := State.pipe_runKstep s g (ht.trans (hgood hf hpop))
    obtain ⟨h1, h2, h3, h4, h5, h6, h7⟩ := p.stepped_facts now (p.kstep p.mx.nest.n) [] [] east true ((p.drawbar east).headD 0)
    obtain ⟨hres, hseen, hE, hW⟩ := p.stepped_sound now (p.kstep p.mx.nest.n) [] [] east ((p.drawbar east).headD 0)
    rw [hpipe]
    refine ⟨h1, h2, h3, h4, h5, hdraws.trans h6, fun _ _ => ⟨⟨_, _, hres, Pipe.tileRows_fst .., fun i r hr => ⟨?_, fun j hj => ?_⟩,
      Pipe.tileFlags_eq ..⟩, ?_, hE, hW, fun k h0 hfw hk => ?_⟩, fun hb => absurd hb h⟩
    · have hnodup : ((p.tileRows (p.kstep p.mx.nest.n) ((p.drawbar east).headD 0)).map Prod.fst).Nodup := by
        rw [Pipe.tileRows_fst]
        exact List.Pairwise.map _ (fun a b hab h => hab (Nat.add_left_cancel h)) List.nodup_range
      unfold Matrix.current
      rw [hseen, SMap.find?_foldl_set _ hnodup _ (List.mem_of_getElem? hr)]
    · exact p.tileRows_cell _ _ hr hj
    · exact hdets.trans (h7.trans (by rw [List.append_nil, List.append_nil]))
    · exact hfwd (decide_eq_true h0) hfw k hk

theorem nestGoesOn : Claims.NestGoesOn := by
  rintro s g p x now east rfl rfl rfl rfl
  refine ⟨fun hgo hat hn => ?_, fun h => ?_, fun hgo hfin => ?_, fun h => ?_⟩
  · exact ⟨s.runKstep g, if_pos (by rw [hgo, hat]; simp [hn]), kstepBegins s g rfl rfl rfl rfl rfl⟩
  · refine if_neg (fun hc => ?_)
    simp only [Bool.and_eq_true, decide_eq_true_eq] at hc
    obtain ⟨⟨h1, h2⟩, h3⟩ := hc
    rcases h with h | h | h
    · exact Bool.false_ne_true (h.symm.trans h1)
    · exact h h2
    · exact absurd h3 (Nat.not_lt.2 h)
  · exact if_pos (by rw [hgo, hfin]; simp)
  · refine if_neg (fun hc => ?_)
    simp only [Bool.and_eq_true, decide_eq_true_eq] at hc
    rcases h with h | h
    · exact Bool.false_ne_true (h.symm.trans hc.1)
    · exact h hc.2

/-- Settles O40. -/
theorem pipelineEvents : Obligations.PipelineEvents :=
  ⟨registerWrites, lateResultsTakeEffect, writesAndDrawbarsLand, nestGoesOn, pipelinesFinish⟩

end Sys2Proof.Machine
end

section
/-! HBM transfers, refused, landed and completed, and counted errors (O41). -/
namespace Sys2Proof.Machine

/-! ### The controllers of the stacks (05 R161; 09 R277 to R279) -/

theorem getElem?_zipIdx_map {α β : Type} (l : List α) (f : α × Nat → β) (n : Nat) :
    (l.zipIdx.map f)[n]? = l[n]?.map (fun a => f (a, n)) := by
  rw [List.getElem?_map, List.getElem?_zipIdx]
  cases l[n]? with
  | none => rfl
  | some a => simp

/-- A place that a list's length picks. -/
theorem exists_getElem?_mod {α : Type} {l : List α} (h : l ≠ []) (n : Nat) : ∃ a ∈ l, l[n % l.length]? = some a := by
  have hlt : n % l.length < l.length := Nat.mod_lt _ (List.length_pos_iff.2 h)
  exact ⟨_, List.getElem_mem hlt, List.getElem?_eq_getElem hlt⟩

theorem HbmOp.readPiece_load {o : HbmOp} (m : Memory) (h : o.isLoad = true) (i : Nat) :
    o.readPiece m i = { o with data := if o.data.any (fun e => e.1 == i) then o.data else o.data.set i (m.word (o.pa + 8 * i)) } := by
  unfold HbmOp.readPiece
  by_cases ha : o.data.any (fun e => e.1 == i) = true
  · rw [if_pos ha, if_neg (by simp [ha])]
  · rw [if_neg ha, if_pos (by simp [h, ha])]

theorem slotTransferServes (s : State) (j : Nat) : (s.hbmWaiters j = [] → exec (.hbmSlotTransfer j) s = .next s) ∧
      (s.hbmWaiters j ≠ [] → ∃ (t : State) (h : Nat), h ∈ s.hbmWaiters j ∧ exec (.hbmSlotTransfer j) s = .next t ∧
        t.mem = s.mem ∧ t.bad = s.bad ∧ t.dies = s.dies ∧ (∀ f : Nat, f ≠ h → t.pipe f = s.pipe f) ∧
        t.pipe h = { s.pipe h with fly := { (s.pipe h).fly with hbm := (t.pipe h).fly.hbm } } ∧
        (s.hbmReady j h = [] → t.pipe h = s.pipe h) ∧
        (s.hbmReady j h ≠ [] → ∃ m ∈ s.hbmReady j h, ∃ i < 32, (t.pipe h).fly.hbm.length = (s.pipe h).fly.hbm.length ∧
          (∀ (n : Nat) (o : HbmOp), (s.pipe h).fly.hbm[n]? = some o → (t.pipe h).fly.hbm[n]? = some (if n = m then
            { o with data := if o.data.any (fun e => e.1 == i) then o.data else o.data.set i (s.mem.word (o.pa + 8 * i)),
                     bad := o.bad || s.damaged (o.pa + 8 * i) 8 } else o)))) := by
  refine ⟨fun h => ?_, fun h => ?_⟩
  · change execHbmSlotTransfer j s = _
    unfold execHbmSlotTransfer
    rw [h]
    rfl
  · obtain ⟨g, hg, hget⟩ := exists_getElem?_mod h s.freeVal
    have hexec : exec (.hbmSlotTransfer j) s = .next (match (s.hbmReady j g)[Config.freeNat (s.free + 2) % (s.hbmReady j g).length]? with
        | none => { s with free := s.free + 3 }
        | some m => ({ s with free := s.free + 3 } : State).hbmPiece g m (Config.freeNat (s.free + 1) % 32)) := by
      change execHbmSlotTransfer j s = _
      unfold execHbmSlotTransfer
      dsimp only
      rw [hget] <;> rfl
    refine ⟨_, g, hg, hexec, ?_⟩
    by_cases hr : s.hbmReady j g = []
    · rw [hr]
      exact ⟨rfl, rfl, rfl, fun _ _ => rfl, rfl, fun _ => rfl, fun hn => absurd rfl hn⟩
    · obtain ⟨m, hm, hmget⟩ := exists_getElem?_mod hr (Config.freeNat (s.free + 2))
      rw [hmget]
      dsimp only
      refine ⟨rfl, rfl, rfl, fun f hf => ?_, ?_, fun hn => absurd hn hr, fun _ => ⟨m, hm, Config.freeNat (s.free + 1) % 32, Nat.mod_lt _ (by decide), ?_, ?_⟩⟩
      · unfold State.hbmPiece State.onPipe
        rw [State.pipe_setPipe, if_neg hf]
        rfl
      · unfold State.hbmPiece
        rw [State.pipe_onPipe_same]
        rfl
      · unfold State.hbmPiece
        rw [State.pipe_onPipe_same]
        simp
        rfl
      · intro n o ho
        unfold State.hbmPiece
        rw [State.pipe_onPipe_same]
        refine (getElem?_zipIdx_map _ _ n).trans ?_
        rw [show (({ s with free := s.free + 3 } : State).pipe g) = s.pipe g from rfl, ho, Option.map_some]
        dsimp only
        by_cases hnm : n = m
        · have hload : o.isLoad = true := by
            have hw := (List.mem_filter.1 hm).2
            rw [← hnm, ho] at hw
            simp only [HbmOp.waiting, Bool.and_eq_true] at hw
            exact hw.1.1.1
          rw [if_pos hnm, if_pos hnm]
          rw [HbmOp.readPiece_load _ hload]
          rfl
        · rw [if_neg hnm, if_neg hnm]

theorem usesBefore_iff (b o : HbmOp) (h g : Nat) : Claims.usesBefore b h o g ↔ b.refuses h o g = true := by
  simp only [Claims.usesBefore, HbmOp.refuses, Bool.and_eq_true, Bool.or_eq_true, decide_eq_true_eq, Bool.not_eq_true', and_assoc]

theorem channelsServe : Claims.ChannelsServe := by
  rintro s g p now rfl rfl
  refine ⟨fun _ => rfl, slotTransferServes s, fun late => ?_, ?_⟩
  · refine ⟨_, s.freeVal % (s.pipe g).fly.hbm.length, rfl, rfl, ?_⟩
    rw [show ∀ q, (s.drawn.setPipe g q).pipe g = q from fun q => (State.pipe_setPipe s.drawn g g q).trans (if_pos rfl)]
    refine ⟨rfl, by simp, fun h => Nat.mod_lt _ (List.length_pos_iff.2 h), fun i o ho => ?_⟩
    refine (getElem?_zipIdx_map _ _ i).trans ?_
    rw [ho, Option.map_some]
    exact congrArg some (ite_congr (propext (by simp [and_assoc])) (fun _ => rfl) (fun _ => rfl))
  · refine ⟨_, rfl, rfl, ?_⟩
    rw [State.pipe_setPipe, if_pos rfl]
    have hlate : ∀ o : HbmOp, ∀ late : Prop,
        (late ↔ o.issue + 40 = s.now (dieOfPipe g) ∧ ∃ h ∈ (s.part (s.partOfPipe g)).pipes, ∃ b ∈ (s.pipe h).fly.hbm,
          Claims.usesBefore b h o g) → (late ↔ (decide (o.issue + 40 = s.now (dieOfPipe g)) &&
            (s.part (s.partOfPipe g)).pipes.any (fun h => (s.pipe h).fly.hbm.any (fun b => b.refuses h o g))) = true) := by
      intro o late h
      rw [h]
      simp only [usesBefore_iff, Bool.and_eq_true, decide_eq_true_eq, List.any_eq_true]
    refine ⟨rfl, rfl, by simp [Pipe.onHbm, Pipe.detect], fun i o ho late hl => ⟨fun h => ⟨?_, ?_⟩, fun h => ?_⟩, fun x hx => ?_⟩
    · refine (List.getElem?_map ..).trans ?_
      rw [ho, Option.map_some, if_pos ((hlate o late hl).1 h)]
    · refine List.mem_append_right _ (List.mem_map.2 ⟨o, List.mem_filter.2 ⟨List.mem_of_getElem? ho, (hlate o late hl).1 h⟩, rfl⟩)
    · refine (List.getElem?_map ..).trans ?_
      rw [ho, Option.map_some, if_neg (fun h' => h ((hlate o late hl).2 h'))]
    · refine (List.mem_append.1 hx).imp_right (fun h => ?_)
      obtain ⟨o, -, rfl⟩ := List.mem_map.1 h
      rfl

/-! ### Errors (23 R461 to R463, R468) -/

/-- What one more uncorrectable error of a die or a stack counts and enters in the black box. -/
theorem State.countUnc_facts (s : State) {b : BoxSource} (hb : ∀ p, b ≠ .port p) :
    let t := s.countUnc b
    t.fw.health.cor = s.fw.health.cor ∧
      t.fw.health.unc.get b.unit 0 = Nat.min (s.fw.health.unc.get b.unit 0 + 1) 0xFFFFFFFF ∧
      (∀ n : Nat, n ≠ b.unit → t.fw.health.unc.get n 0 = s.fw.health.unc.get n 0) ∧
      ∃ e : BoxEntry, t.fw.rings = (e :: s.fw.rings).take 8192 ∧ e.num = s.fw.nextBox ∧ e.kind = boxEcc ∧ e.source = b := by
  have h : s.countUnc b = (s.countUnit b).box (if b.unit < 16 then b.unit else 0) boxEcc b 0 := by
    cases b with
    | port p => exact absurd rfl (hb p)
    | _ => rfl
  rw [h]
  refine ⟨rfl, ?_, fun n hn => ?_, _, rfl, rfl, rfl, rfl⟩
  · exact (SMap.get_set ..).trans (if_pos rfl)
  · exact (SMap.get_set ..).trans (if_neg hn)

theorem eccSource_ne_port {u a : Nat} {b : BoxSource} (h : eccSource u a = some b) : ∀ p, b ≠ .port p := by
  rintro p rfl
  unfold eccSource at h
  repeat' split at h
  all_goals cases h

theorem errorsCounted : Claims.ErrorsCounted := by
  intro s u a
  refine ⟨fun h bad => ?_, fun b hb => ⟨?_, fun hm => ?_, fun hm => ?_⟩⟩
  · change execScrub u a bad s = _
    unfold execScrub
    rw [h]
  · refine ⟨s.countCor b, ?_, rfl, rfl, rfl, rfl, rfl, rfl, ?_, fun n hn => ?_⟩
    · change execScrub u a false s = _
      unfold execScrub
      rw [hb]
      rfl
    · exact (SMap.get_set ..).trans (if_pos rfl)
    · exact (SMap.get_set ..).trans (if_neg hn)
  · change execScrub u a true s = _
    unfold execScrub
    rw [hb, hm]
    rfl
  · have hexec : exec (.scrub u a true) s = .next ((s.strike u a).countUnc b) := by
      change execScrub u a true s = _
      unfold execScrub
      rw [hb, hm]
      rfl
    have hu : u = 9240 ∨ u < 1024 := by
      unfold State.mayScrub at hm
      simp only [Bool.and_eq_true, Bool.or_eq_true, decide_eq_true_eq] at hm
      exact hm.2.imp_right And.left
    have hstrike : (u = 9240 ∧ s.strike u a = { s with bad := a :: s.bad }) ∨
        (u < 1024 ∧ s.strike u a = s.onPipe (u % 512) (fun p => p.strike (u / 512) a)) := by
      rcases hu with hu | hu
      · refine .inl ⟨hu, ?_⟩
        rw [hu]
        rfl
      · exact .inr ⟨hu, if_pos (by omega)⟩
    obtain ⟨fw, hunc⟩ := (s.strike u a).countUnc_eq b
    obtain ⟨hcor, hone, hrest, hbox⟩ := (s.strike u a).countUnc_facts (eccSource_ne_port hb)
    have hfw : (s.strike u a).fw = s.fw := by rcases hstrike with ⟨-, h⟩ | ⟨-, h⟩ <;> exact (congrArg State.fw h :)
    rw [hfw] at hcor hone hrest hbox
    refine ⟨_, hexec, ?_, ?_, ?_, hcor, hone, hrest, hbox, fun h => ?_, fun h => ?_, fun h g => ?_⟩
    · rw [hunc]
      rcases hstrike with ⟨-, h⟩ | ⟨-, h⟩ <;> rw [h] <;> rfl
    · rw [hunc]
      rcases hstrike with ⟨-, h⟩ | ⟨-, h⟩ <;> rw [h] <;> rfl
    · rw [hunc]
      rcases hstrike with ⟨-, h⟩ | ⟨-, h⟩ <;> rw [h] <;> rfl
    · obtain ⟨-, hs⟩ := hstrike.resolve_right (by omega)
      rw [hunc, hs]
      exact ⟨rfl, rfl⟩
    · obtain ⟨-, hs⟩ := hstrike.resolve_left (fun e => h e.1)
      rw [hunc, hs]
      rfl
    · obtain ⟨-, hs⟩ := hstrike.resolve_left (fun e => by omega)
      rw [hunc, hs]
      refine (State.pipe_setPipe s (u % 512) g _).trans ?_
      by_cases hg : g = u % 512
      · rw [if_pos hg, if_neg (Classical.not_not.2 hg), hg]
        by_cases h5 : u < 512
        · rw [if_pos h5, show u / 512 = 0 by omega]
          rfl
        · rw [if_neg h5, show u / 512 = 1 by omega]
          rfl
      · rw [if_neg hg, if_pos hg]

/-! ### Landings of loads (05 R150, R151, R162; 09 R279) -/

/-- What reading every piece leaves of a transfer. -/
theorem HbmOp.rest_readPiece (o : HbmOp) (m : Memory) (i : Nat) : ∃ d, o.readPiece m i = { o with data := d } := by
  unfold HbmOp.readPiece
  split
  · exact ⟨_, rfl⟩
  · exact ⟨o.data, rfl⟩

theorem HbmOp.rest_foldl_readPiece (l : List Nat) (m : Memory) (o : HbmOp) :
    ∃ d, l.foldl (fun (o : HbmOp) i => o.readPiece m i) o = { o with data := d } := by
  induction l generalizing o with
  | nil => exact ⟨o.data, rfl⟩
  | cons i l ih =>
    obtain ⟨d, h⟩ := o.rest_readPiece m i
    obtain ⟨d', h'⟩ := ih { o with data := d }
    exact ⟨d', by rw [List.foldl_cons, h, h']⟩

theorem State.rest_readAll (s : State) (o : HbmOp) : ∃ d b, s.readAll o = { o with data := d, bad := b } := by
  unfold State.readAll
  split
  · obtain ⟨d, h⟩ := HbmOp.rest_foldl_readPiece (List.range 32) s.mem o
    exact ⟨d, _, by rw [h]⟩
  · exact ⟨o.data, o.bad, rfl⟩

/-- The detections of a load, its pieces read, as it lands. -/
def State.landSlips (s : State) (g : Nat) (o : HbmOp) : List Det :=
  s.bankSlips g 1 o.pc o.off 256 ++ (if o.bad then
    [{ cause := 12, stream := 1, pc := o.pc, detail := 0, info := BitVec.ofNat 32 o.pa, stack := some (stackOf o.pa) }] else [])

theorem State.landSlips_readAll (s : State) (g : Nat) (o : HbmOp) : s.landSlips g (s.readAll o) =
    s.bankSlips g 1 o.pc o.off 256 ++ (if (s.readAll o).bad then
      [{ cause := 12, stream := 1, pc := o.pc, detail := 0, info := BitVec.ofNat 32 o.pa, stack := some (stackOf o.pa) }] else []) := by
  obtain ⟨d, b, h⟩ := s.rest_readAll o
  rw [h]
  rfl

theorem State.landSlips_isEmpty (s : State) (g : Nat) (o : HbmOp) :
    (s.landSlips g (s.readAll o)).isEmpty = true ↔ s.bankSlips g 1 o.pc o.off 256 = [] ∧ (s.readAll o).bad = false := by
  rw [State.landSlips_readAll]
  cases (s.readAll o).bad <;> simp

/-- Pipeline `g` as a load due now lands, is late, or slips. -/
def Pipe.landLoad (s : State) (g : Nat) (now : Tick) (p : Pipe) (o : HbmOp) : Pipe :=
  if o.refused then p
  else if o.late ≠ 0 then
    { p with fly := { p.fly with late := p.fly.late ++
      [{ at_ := now + BitVec.ofNat 64 o.late,
         det := { cause := causeLink, stream := 0, pc := 0, detail := 0, info := BitVec.ofInt 32 (-(o.late : Int)) } }] } }
  else if (s.landSlips g (s.readAll o)).isEmpty then p.land 3 0 o.off (s.readAll o).bytes else p.detect (s.landSlips g (s.readAll o))

section LandLoad
variable (s : State) (g : Nat) (now : Tick) (p : Pipe) (o : HbmOp)

/-- A landing changes tensor SRAM, what the cycle writes and the detections, and no other part. -/
theorem Pipe.landLoad_keeps {β : Type} (part : Pipe → β) (s : State) (g : Nat) (now : Tick) (p : Pipe) (o : HbmOp)
    (hlate : ∀ l, part { p with fly := { p.fly with late := l } } = part p) (hland : ∀ bs, part (p.land 3 0 o.off bs) = part p)
    (hdet : ∀ ds, part (p.detect ds) = part p) : part (Pipe.landLoad s g now p o) = part p := by
  unfold Pipe.landLoad
  split
  · rfl
  · split
    · exact hlate _
    · split
      · exact hland _
      · exact hdet _

theorem Pipe.landLoad_refused (h : o.refused = true) : Pipe.landLoad s g now p o = p := if_pos h

theorem Pipe.landLoad_late (h : ¬ o.refused = true) (h2 : o.late ≠ 0) : Pipe.landLoad s g now p o =
    { p with fly := { p.fly with late := p.fly.late ++
      [{ at_ := now + BitVec.ofNat 64 o.late,
         det := { cause := causeLink, stream := 0, pc := 0, detail := 0, info := BitVec.ofInt 32 (-(o.late : Int)) } }] } } :=
  (if_neg h).trans (if_pos h2)

theorem Pipe.landLoad_lands (h : ¬ o.refused = true) (h2 : ¬ o.late ≠ 0) (h3 : (s.landSlips g (s.readAll o)).isEmpty = true) :
    Pipe.landLoad s g now p o = p.land 3 0 o.off (s.readAll o).bytes :=
  (if_neg h).trans ((if_neg h2).trans (if_pos h3))

theorem Pipe.landLoad_slips (h : ¬ o.refused = true) (h2 : ¬ o.late ≠ 0) (h3 : ¬ (s.landSlips g (s.readAll o)).isEmpty = true) :
    Pipe.landLoad s g now p o = p.detect (s.landSlips g (s.readAll o)) :=
  (if_neg h).trans ((if_neg h2).trans (if_neg h3))

end LandLoad

theorem Pipe.sram_land (p : Pipe) (rank n off : Nat) (bs : List Byte) :
    (p.land rank n off bs).mem.sram = p.mem.sram.writeBytes off bs := rfl

/-- A load due in the cycle `now` of pipeline `g` lands, is late, or slips. -/
def State.landLoad (g : Nat) (now : Tick) (s : State) (o : HbmOp) : State :=
  if o.refused then s
  else if o.late ≠ 0 then
    s.onPipe g (fun p => { p with fly := { p.fly with late := p.fly.late ++
      [{ at_ := now + BitVec.ofNat 64 o.late,
         det := { cause := causeLink, stream := 0, pc := 0, detail := 0, info := BitVec.ofInt 32 (-(o.late : Int)) } }] } })
  else if (s.landSlips g (s.readAll o)).isEmpty then s.onPipe g (fun p => p.land 3 0 (s.readAll o).off (s.readAll o).bytes)
  else s.record g (s.landSlips g (s.readAll o))

theorem exec_hldLanding (s : State) (g : Nat) : exec (.hldLanding g) s = .next (s.onPipe g (fun p =>
    ((s.pipe g).fly.hbm.filter (fun o => o.isLoad && decide (o.issue + 640 = s.now (dieOfPipe g)))).foldl
      (Pipe.landLoad s g (s.now (dieOfPipe g)))
      { p with fly := { p.fly with hbm := p.fly.hbm.filter (fun o => !(o.isLoad && decide (o.issue + 640 = s.now (dieOfPipe g)))) } })) := by
  have hfold : ∀ (l : List HbmOp) (f : Pipe → Pipe), l.foldl (State.landLoad g (s.now (dieOfPipe g))) (s.onPipe g f) =
      s.onPipe g (fun p => l.foldl (Pipe.landLoad s g (s.now (dieOfPipe g))) (f p)) := by
    intro l
    induction l with
    | nil => exact fun f => rfl
    | cons o l ih =>
      intro f
      have hone : (s.onPipe g f).landLoad g (s.now (dieOfPipe g)) o =
          s.onPipe g (fun p => Pipe.landLoad s g (s.now (dieOfPipe g)) (f p) o) := by
        obtain ⟨d, b, hr⟩ := s.rest_readAll o
        have hoff : (s.readAll o).off = o.off := by rw [hr]
        unfold State.landLoad Pipe.landLoad
        rw [show (s.onPipe g f).readAll o = s.readAll o from rfl,
          show (s.onPipe g f).landSlips g (s.readAll o) = s.landSlips g (s.readAll o) from rfl, hoff]
        by_cases h1 : o.refused = true
        · simp only [if_pos h1]
        · by_cases h2 : o.late ≠ 0
          · simp only [if_neg h1, if_pos h2]
            exact State.onPipe_onPipe ..
          · by_cases h3 : (s.landSlips g (s.readAll o)).isEmpty = true
            · simp only [if_neg h1, if_neg h2, if_pos h3]
              exact State.onPipe_onPipe ..
            · simp only [if_neg h1, if_neg h2, if_neg h3]
              exact State.onPipe_onPipe ..
      rw [List.foldl_cons, hone, ih]
      rfl
  exact congrArg Host.Outcome.next (hfold _ _)

theorem loadsLand (s : State) (g : Nat) {p : Pipe} {now : Tick} (hp : p = s.pipe g) (hnow : now = s.now (dieOfPipe g))
    (due : List HbmOp) (hdue : due = p.fly.hbm.filter (fun o => o.isLoad && decide (o.issue + 640 = now))) :
      ∃ t : State, exec (.hldLanding g) s = .next t ∧ t.mem = s.mem ∧ (t.pipe g).regs = p.regs ∧ (t.pipe g).fly.res = p.fly.res ∧
        (t.pipe g).fly.hbm = p.fly.hbm.filter (fun o => !(o.isLoad && decide (o.issue + 640 = now))) ∧
        (t.pipe g).mem.sram = due.foldl (fun m o =>
          if o.refused = false ∧ o.late = 0 ∧ s.bankSlips g 1 o.pc o.off 256 = [] ∧ (s.readAll o).bad = false then
            m.writeBytes o.off (s.readAll o).bytes else m) p.mem.sram ∧
        (t.pipe g).cyc.dets = p.cyc.dets ++ due.flatMap (fun o => if o.refused = true ∨ o.late ≠ 0 then [] else
          s.bankSlips g 1 o.pc o.off 256 ++ (if (s.readAll o).bad then
            [{ cause := 12, stream := 1, pc := o.pc, detail := 0, info := BitVec.ofNat 32 o.pa, stack := some (stackOf o.pa) }] else [])) ∧
        (t.pipe g).fly.late = p.fly.late ++ (due.filter (fun o => !o.refused && decide (o.late ≠ 0))).map (fun o =>
          { at_ := now + BitVec.ofNat 64 o.late,
            det := { cause := 5, stream := 0, pc := 0, detail := 0, info := BitVec.ofInt 32 (-(o.late : Int)) } }) := by
  subst hp hnow hdue
  refine ⟨_, exec_hldLanding s g, rfl, ?_⟩
  rw [State.pipe_onPipe_same]
  have hkeep : ∀ {β : Type} {part : Pipe → β}, (∀ q o, part (Pipe.landLoad s g (s.now (dieOfPipe g)) q o) = part q) →
      ∀ (l : List HbmOp) (q : Pipe), part (l.foldl (Pipe.landLoad s g (s.now (dieOfPipe g))) q) = part q :=
    fun h l q => foldl_keeps _ _ _ _ (fun q w _ => h q w)
  refine ⟨?_, ?_, ?_, ?_, ?_, ?_⟩
  · exact hkeep (part := Pipe.regs) (fun q o => Pipe.landLoad_keeps Pipe.regs _ _ _ q o (fun _ => rfl) (fun _ => rfl) (fun _ => rfl)) _ _
  · exact hkeep (part := fun q : Pipe => q.fly.res) (fun q o => Pipe.landLoad_keeps (fun q : Pipe => q.fly.res) _ _ _ q o (fun _ => rfl) (fun _ => rfl) (fun _ => rfl)) _ _
  · exact hkeep (part := fun q : Pipe => q.fly.hbm) (fun q o => Pipe.landLoad_keeps (fun q : Pipe => q.fly.hbm) _ _ _ q o (fun _ => rfl) (fun _ => rfl) (fun _ => rfl)) _ _
  · refine foldl_part (fun q : Pipe => q.mem.sram) (Pipe.landLoad s g (s.now (dieOfPipe g))) _ _ _ (fun q o _ => ?_)
    have hc := s.landSlips_isEmpty g o
    by_cases h1 : o.refused = true
    · rw [Pipe.landLoad_refused _ _ _ _ _ h1, if_neg (fun h => by simp [h1] at h)]
    · by_cases h2 : o.late ≠ 0
      · rw [Pipe.landLoad_late _ _ _ _ _ h1 h2, if_neg (fun h => h2 h.2.1)]
      · by_cases h3 : (s.landSlips g (s.readAll o)).isEmpty = true
        · rw [Pipe.landLoad_lands _ _ _ _ _ h1 h2 h3, if_pos ⟨Bool.eq_false_iff.2 h1, Classical.not_not.1 h2, hc.1 h3⟩, Pipe.sram_land]
        · rw [Pipe.landLoad_slips _ _ _ _ _ h1 h2 h3, if_neg (fun h => h3 (hc.2 h.2.2))]
          rfl
  · refine foldl_appends (fun q : Pipe => q.cyc.dets) (Pipe.landLoad s g (s.now (dieOfPipe g))) _ _ _ (fun q o _ => ?_)
    rw [← State.landSlips_readAll]
    by_cases h1 : o.refused = true
    · rw [Pipe.landLoad_refused _ _ _ _ _ h1, if_pos (.inl h1), List.append_nil]
    · by_cases h2 : o.late ≠ 0
      · rw [Pipe.landLoad_late _ _ _ _ _ h1 h2, if_pos (.inr h2), List.append_nil]
      · rw [if_neg (fun h : o.refused = true ∨ o.late ≠ 0 => h.elim h1 h2)]
        by_cases h3 : (s.landSlips g (s.readAll o)).isEmpty = true
        · rw [Pipe.landLoad_lands _ _ _ _ _ h1 h2 h3, List.isEmpty_iff.1 h3, List.append_nil]
          rfl
        · rw [Pipe.landLoad_slips _ _ _ _ _ h1 h2 h3]
          rfl
  · refine (foldl_part (fun q : Pipe => q.fly.late) _ (fun (b : List LateDet) (o : HbmOp) =>
      if (!o.refused && decide (o.late ≠ 0)) = true ∧ false = false then b ++ [(⟨s.now (dieOfPipe g) + BitVec.ofNat 64 o.late,
        { cause := 5, stream := 0, pc := 0, detail := 0, info := BitVec.ofInt 32 (-(o.late : Int)) }⟩ : LateDet)]
      else b) _ _ (fun q o _ => ?_)).trans (foldl_guarded_appends _ _ false _ _)
    by_cases h1 : o.refused = true
    · rw [Pipe.landLoad_refused _ _ _ _ _ h1, if_neg (by simp [h1])]
    · by_cases h2 : o.late ≠ 0
      · rw [Pipe.landLoad_late _ _ _ _ _ h1 h2, if_pos (by simp [h1, h2])]
        rfl
      · rw [if_neg (by simp [h2])]
        by_cases h3 : (s.landSlips g (s.readAll o)).isEmpty = true
        · rw [Pipe.landLoad_lands _ _ _ _ _ h1 h2 h3]
          rfl
        · rw [Pipe.landLoad_slips _ _ _ _ _ h1 h2 h3]
          rfl

/-! ### Completion of stores (05 R162, R163) -/

end Sys2Proof.Machine
end

section
/-! Stores that complete (O41). -/
namespace Sys2Proof.Machine

/-! ### Loads that have read what they share with a store (05 R163) -/

/-- A map has an entry for a key. -/
def SMap.has {α : Type} (m : SMap α) (k : Nat) : Prop := m.any (fun e => e.1 == k) = true

theorem SMap.has_set_same {α : Type} (m : SMap α) (k : Nat) (v : α) : (m.set k v).has k := by
  have h := SMap.find?_set m k v
  exact List.any_eq_true.2 ⟨_, List.mem_of_find?_eq_some h, beq_self_eq_true k⟩

theorem SMap.has_set {α : Type} {m : SMap α} {i : Nat} (h : m.has i) (k : Nat) (v : α) : (m.set k v).has i := by
  by_cases hk : i = k
  · exact hk ▸ m.has_set_same k v
  · unfold SMap.has at h ⊢
    rw [List.any_eq_true] at h ⊢
    obtain ⟨e, he, hi⟩ := h
    have hsome : (m.set k v).find? (fun e => e.1 == i) = m.find? (fun e => e.1 == i) :=
      SMap.find?_set_of_not m k v _ (beq_eq_false_iff_ne.2 (Ne.symm hk)) (fun w _ => beq_eq_false_iff_ne.2 (Ne.symm hk))
    obtain ⟨e', he'⟩ := Option.isSome_iff_exists.1 (List.find?_isSome.2 ⟨e, he, hi⟩ : (m.find? (fun e => e.1 == i)).isSome)
    rw [← hsome] at he'
    exact ⟨e', List.mem_of_find?_eq_some he', (List.find?_eq_some_iff_append.1 he').1⟩

theorem HbmOp.has_readPiece {o : HbmOp} (hl : o.isLoad = true) (m : Memory) (i : Nat) : (o.readPiece m i).data.has i := by
  rw [HbmOp.readPiece_load m hl]
  dsimp only
  split
  · assumption
  · exact SMap.has_set_same ..

theorem HbmOp.has_readPiece_of_has {o : HbmOp} {j : Nat} (h : o.data.has j) (m : Memory) (i : Nat) : (o.readPiece m i).data.has j := by
  unfold HbmOp.readPiece
  split
  · exact SMap.has_set h _ _
  · exact h

theorem HbmOp.has_foldl_readPiece (l : List Nat) (m : Memory) {o : HbmOp} (hl : o.isLoad = true) {j : Nat}
    (hj : j ∈ l ∨ o.data.has j) : (l.foldl (fun (o : HbmOp) i => o.readPiece m i) o).data.has j := by
  induction l generalizing o with
  | nil => exact hj.resolve_left List.not_mem_nil
  | cons i l ih =>
    obtain ⟨d, hd⟩ := o.rest_readPiece m i
    refine ih (by dsimp only; rw [hd]; exact hl) ?_
    rcases hj with hj | hj
    · rcases List.mem_cons.1 hj with rfl | hj
      · exact .inr (HbmOp.has_readPiece hl m j)
      · exact .inl hj
    · exact .inr (HbmOp.has_readPiece_of_has hj m i)

/-- A load all of whose pieces have been read holds 32 pieces. -/
theorem State.length_readAll (s : State) {o : HbmOp} (hl : o.isLoad = true) : 32 ≤ (s.readAll o).data.length := by
  unfold State.readAll
  by_cases hw : o.waiting = true
  · rw [if_pos hw]
    dsimp only
    have hsub : List.range 32 ⊆ ((List.range 32).foldl (fun (o : HbmOp) i => o.readPiece s.mem i) o).data.map Prod.fst := by
      intro i hi
      obtain ⟨e, he, hk⟩ := List.any_eq_true.1 (HbmOp.has_foldl_readPiece (List.range 32) s.mem hl (.inl hi))
      exact List.mem_map.2 ⟨e, he, beq_iff_eq.1 hk⟩
    simpa using List.nodup_range.length_le_of_subset hsub
  · rw [if_neg hw]
    simpa [HbmOp.waiting, hl] using hw

/-- A transfer that may have read more pieces. -/
structure HbmOp.Grows (a b : HbmOp) : Prop where
  isLoad : b.isLoad = a.isLoad
  pa : b.pa = a.pa
  issue : b.issue = a.issue
  data : 32 ≤ a.data.length → 32 ≤ b.data.length

theorem HbmOp.Grows.refl (a : HbmOp) : a.Grows a := ⟨rfl, rfl, rfl, id⟩

theorem HbmOp.Grows.trans {a b c : HbmOp} (h : a.Grows b) (h' : b.Grows c) : a.Grows c :=
  ⟨h'.isLoad.trans h.isLoad, h'.pa.trans h.pa, h'.issue.trans h.issue, h'.data ∘ h.data⟩

theorem State.grows_readAll (s : State) (a : HbmOp) : a.Grows (s.readAll a) := by
  obtain ⟨d, b, h⟩ := s.rest_readAll a
  refine ⟨by rw [h], by rw [h], by rw [h], fun hd => ?_⟩
  have hw : a.waiting = false := by
    unfold HbmOp.waiting
    rw [decide_eq_false (Nat.not_lt.2 hd), Bool.and_false]
  unfold State.readAll
  rw [hw, if_neg Bool.false_ne_true]
  exact hd

/-- A load that issued before `t` and shares a byte with the store `o` has read its pieces. -/
def HbmOp.ReadFor (o : HbmOp) (t : Tick) (a : HbmOp) : Prop :=
  a.isLoad = true → a.meets o = true → Tick.lt a.issue t = true → 32 ≤ a.data.length

theorem HbmOp.Grows.readFor {o a b : HbmOp} {t : Tick} (h : a.Grows b) (hr : o.ReadFor t a) : o.ReadFor t b := by
  intro hl hm hi
  rw [h.isLoad] at hl
  rw [h.issue] at hi
  refine h.data (hr hl ?_ hi)
  unfold HbmOp.meets at hm ⊢
  rw [← h.pa]
  exact hm

/-- A pipeline whose loads may have read more pieces, all else unchanged but its detections. -/
structure Pipe.HbmGrows (p q : Pipe) : Prop where
  rest : q = { p with fly := { p.fly with hbm := q.fly.hbm }, cyc := { p.cyc with dets := q.cyc.dets } }
  hbm : ∃ f : HbmOp → HbmOp, q.fly.hbm = p.fly.hbm.map f ∧ ∀ a : HbmOp, a.Grows (f a)

theorem Pipe.HbmGrows.refl (p : Pipe) : p.HbmGrows p := ⟨rfl, fun a => a, (List.map_id' _).symm, fun a => .refl a⟩

theorem Pipe.HbmGrows.trans {p q r : Pipe} (h : p.HbmGrows q) (h' : q.HbmGrows r) : p.HbmGrows r := by
  refine ⟨by rw [h'.rest, h.rest], ?_⟩
  obtain ⟨f, hf, hg⟩ := h.hbm
  obtain ⟨f', hf', hg'⟩ := h'.hbm
  exact ⟨f' ∘ f, by rw [hf', hf, List.map_map], fun a => (hg a).trans (hg' (f a))⟩

theorem Pipe.HbmGrows.length_hbm {p q : Pipe} (h : p.HbmGrows q) : q.fly.hbm.length = p.fly.hbm.length := by
  obtain ⟨f, hf, -⟩ := h.hbm
  rw [hf, List.length_map]

theorem Pipe.HbmGrows.readFor {p q : Pipe} (h : p.HbmGrows q) {o : HbmOp} {t : Tick} (hr : ∀ a ∈ p.fly.hbm, o.ReadFor t a) :
    ∀ a ∈ q.fly.hbm, o.ReadFor t a := by
  obtain ⟨f, hf, hg⟩ := h.hbm
  intro a ha
  rw [hf] at ha
  obtain ⟨b, hb, rfl⟩ := List.mem_map.1 ha
  exact (hg b).readFor (hr b hb)

/-- The pipeline whose loads that share bytes with a store have read them, where one has not yet. -/
def Pipe.readBefore (u : State) (o : HbmOp) (t : Tick) (p : Pipe) : Pipe :=
  if p.fly.hbm.any (fun a => a.waiting && a.meets o && Tick.lt a.issue t) then
    p.onHbm (fun a => if a.meets o && Tick.lt a.issue t then u.readAll a else a)
  else p

theorem Pipe.readBefore_facts (u : State) (o : HbmOp) (t : Tick) (p : Pipe) :
    p.HbmGrows (p.readBefore u o t) ∧ (p.readBefore u o t).cyc = p.cyc ∧ ∀ a ∈ (p.readBefore u o t).fly.hbm, o.ReadFor t a := by
  unfold Pipe.readBefore
  split
  · refine ⟨⟨rfl, ?_⟩, rfl, fun a ha hl hm hi => ?_⟩
    · refine ⟨_, rfl, fun a => ?_⟩
      split
      · exact u.grows_readAll a
      · exact .refl a
    · obtain ⟨b, hb, rfl⟩ := List.mem_map.1 ha
      by_cases hc : (b.meets o && Tick.lt b.issue t) = true
      · rw [if_pos hc] at hl ⊢
        exact u.length_readAll ((u.grows_readAll b).isLoad ▸ hl)
      · rw [if_neg hc] at hm hi
        exact absurd (Bool.and_eq_true_iff.2 ⟨hm, hi⟩) hc
  · rename_i hno
    refine ⟨.refl p, rfl, fun a ha hl hm hi => ?_⟩
    refine Classical.byContradiction fun hlt => ?_
    refine hno (List.any_eq_true.2 ⟨a, ha, ?_⟩)
    simp [HbmOp.waiting, hl, hm, hi, Nat.not_le.1 hlt]

/-- One pipeline's loads have read what they share with the store `o`. -/
def State.readBeforeIn (o : HbmOp) (t : Tick) (u : State) (h : Nat) : State :=
  if (u.pipe h).fly.hbm.any (fun a => a.waiting && a.meets o && Tick.lt a.issue t) then
    u.onPipe h (fun p => p.onHbm (fun a => if a.meets o && Tick.lt a.issue t then u.readAll a else a))
  else u

theorem State.readBeforeIn_facts (u : State) (o : HbmOp) (t : Tick) (h : Nat) :
    (∃ ps, u.readBeforeIn o t h = { u with pipes := ps }) ∧
      ∀ j, (u.readBeforeIn o t h).pipe j = if j = h then (u.pipe h).readBefore u o t else u.pipe j := by
  unfold State.readBeforeIn Pipe.readBefore
  split
  · refine ⟨⟨_, rfl⟩, fun j => ?_⟩
    unfold State.onPipe
    rw [State.pipe_setPipe]
  · refine ⟨⟨u.pipes, rfl⟩, fun j => ?_⟩
    split
    · rename_i hj
      rw [hj]
    · rfl

theorem State.foldl_readBeforeIn (o : HbmOp) (t : Tick) (l : List Nat) (u : State) :
    (∃ ps, l.foldl (State.readBeforeIn o t) u = { u with pipes := ps }) ∧
      ∀ j, (u.pipe j).HbmGrows ((l.foldl (State.readBeforeIn o t) u).pipe j) ∧
        ((l.foldl (State.readBeforeIn o t) u).pipe j).cyc = (u.pipe j).cyc ∧
        (j ∈ l → ∀ a ∈ ((l.foldl (State.readBeforeIn o t) u).pipe j).fly.hbm, o.ReadFor t a) := by
  induction l generalizing u with
  | nil => exact ⟨⟨u.pipes, rfl⟩, fun j => ⟨.refl _, rfl, fun h => absurd h List.not_mem_nil⟩⟩
  | cons h l ih =>
    obtain ⟨⟨ps, h1⟩, hpipe⟩ := u.readBeforeIn_facts o t h
    obtain ⟨⟨qs, h2⟩, hrest⟩ := ih (u.readBeforeIn o t h)
    refine ⟨⟨qs, by rw [List.foldl_cons, h2, h1]⟩, fun j => ?_⟩
    obtain ⟨hg, hc, hr⟩ := hrest j
    rw [List.foldl_cons]
    obtain ⟨hg1, hc1, hr1⟩ := Pipe.readBefore_facts u o t (u.pipe h)
    by_cases hj : j = h
    · subst hj
      rw [hpipe, if_pos rfl] at hg hc
      exact ⟨hg1.trans hg, hc.trans hc1, fun _ => hg.readFor hr1⟩
    · rw [hpipe, if_neg hj] at hg hc
      exact ⟨hg, hc, fun hm => hr ((List.mem_cons.1 hm).resolve_left hj)⟩

/-! ### Stores -/

theorem State.mem_writePhys (s : State) (pa : Nat) (bs : List Byte) : (s.writePhys pa bs).mem = s.mem.writeBytes pa bs := rfl

/-- Store `o` of pipeline `g` completes. -/
def State.storeDone (g : Nat) (s : State) (o : HbmOp) : State :=
  if o.refused then s
  else if o.bad then
    s.record g [{ cause := causeEcc, stream := 3, pc := o.pc, detail := 0, info := BitVec.ofNat 32 o.pa }]
  else (s.readBefore (s.partOfPipe g) o (o.issue + 640)).writePhys o.pa o.bytes

/-- What a completed store may change, and what it does. -/
structure State.StoreDone (g : Nat) (o : HbmOp) (u v : State) : Prop where
  rest : ∃ ps m b, v = { u with pipes := ps, mem := m, bad := b }
  mem : v.mem = if o.refused = true ∨ o.bad = true then u.mem else u.mem.writeBytes o.pa o.bytes
  grows : ∀ j, (u.pipe j).HbmGrows (v.pipe j)
  dets : (v.pipe g).cyc.dets = (u.pipe g).cyc.dets ++ (if (!o.refused && o.bad) = true then
    [{ cause := 12, stream := 3, pc := o.pc, detail := 0, info := BitVec.ofNat 32 o.pa }] else [])
  read : o.refused = false → o.bad = false → ∀ h ∈ (u.part (u.partOfPipe g)).pipes, ∀ a ∈ (v.pipe h).fly.hbm,
    o.ReadFor (o.issue + 640) a

theorem State.storeDone_facts (g : Nat) (u : State) (o : HbmOp) : State.StoreDone g o u (u.storeDone g o) := by
  unfold State.storeDone
  by_cases h1 : o.refused = true
  · rw [if_pos h1]
    exact ⟨⟨_, _, _, rfl⟩, (if_pos (.inl h1)).symm, fun j => .refl _, by rw [h1]; exact (List.append_nil _).symm,
      fun h => absurd (h1.symm.trans h) (by decide)⟩
  · rw [if_neg h1]
    by_cases h2 : o.bad = true
    · rw [if_pos h2]
      have hpipe : ∀ j, (u.record g [{ cause := causeEcc, stream := 3, pc := o.pc, detail := 0, info := BitVec.ofNat 32 o.pa }]).pipe j =
          if j = g then (u.pipe g).detect [{ cause := causeEcc, stream := 3, pc := o.pc, detail := 0, info := BitVec.ofNat 32 o.pa }]
          else u.pipe j := fun j => State.pipe_setPipe ..
      refine ⟨⟨_, _, _, rfl⟩, (if_pos (.inr h2)).symm, fun j => ?_, ?_, fun _ h => absurd (h2.symm.trans h) (by decide)⟩
      · rw [hpipe]
        split
        · rename_i hj
          rw [hj]
          exact ⟨rfl, (Pipe.HbmGrows.refl _).hbm⟩
        · exact .refl _
      · rw [hpipe, if_pos rfl, if_pos (by simp [h1, h2])]
        rfl
    · rw [if_neg h2]
      obtain ⟨⟨ps, h⟩, hrest⟩ := State.foldl_readBeforeIn o (o.issue + 640) (u.part (u.partOfPipe g)).pipes u
      have hread : u.readBefore (u.partOfPipe g) o (o.issue + 640) =
          (u.part (u.partOfPipe g)).pipes.foldl (State.readBeforeIn o (o.issue + 640)) u := rfl
      rw [hread]
      refine ⟨⟨ps, _, _, by rw [h]; rfl⟩, ?_, fun j => (hrest j).1, ?_, fun _ _ h hh => (hrest h).2.2 hh⟩
      · rw [if_neg (fun h => h.elim h1 h2), h, State.mem_writePhys]
      · rw [if_neg (by simp [h2]), List.append_nil]
        exact congrArg Cycle.dets (hrest g).2.1

/-- The stores of a list, completed one after another. -/
theorem State.foldl_storeDone (g : Nat) (l : List HbmOp) (u : State) :
    (∃ ps m b, l.foldl (State.storeDone g) u = { u with pipes := ps, mem := m, bad := b }) ∧
      (l.foldl (State.storeDone g) u).mem =
        l.foldl (fun m o => if o.refused = true ∨ o.bad = true then m else m.writeBytes o.pa o.bytes) u.mem ∧
      (∀ j, (u.pipe j).HbmGrows ((l.foldl (State.storeDone g) u).pipe j)) ∧
      ((l.foldl (State.storeDone g) u).pipe g).cyc.dets = (u.pipe g).cyc.dets ++
        (l.filter (fun o => !o.refused && o.bad)).map (fun o =>
          { cause := 12, stream := 3, pc := o.pc, detail := 0, info := BitVec.ofNat 32 o.pa }) ∧
      (∀ o ∈ l, o.refused = false → o.bad = false → ∀ h ∈ (u.part (u.partOfPipe g)).pipes,
        ∀ a ∈ ((l.foldl (State.storeDone g) u).pipe h).fly.hbm, o.ReadFor (o.issue + 640) a) := by
  induction l generalizing u with
  | nil => exact ⟨⟨_, _, _, rfl⟩, rfl, fun j => .refl _, (List.append_nil _).symm, fun o ho => absurd ho List.not_mem_nil⟩
  | cons o l ih =>
    obtain ⟨⟨ps, m, b, hone⟩, hmem, hgrows, hdets, hread⟩ := State.storeDone_facts g u o
    obtain ⟨⟨ps', m', b', hall⟩, hmem', hgrows', hdets', hread'⟩ := ih (u.storeDone g o)
    have hparts : (u.storeDone g o).part ((u.storeDone g o).partOfPipe g) = u.part (u.partOfPipe g) := by
      rw [hone]
      rfl
    simp only [List.foldl_cons]
    refine ⟨⟨ps', m', b', by rw [hall, hone]⟩, by rw [hmem', hmem], fun j => (hgrows j).trans (hgrows' j), ?_, ?_⟩
    · rw [hdets', hdets, List.append_assoc]
      refine congrArg _ ?_
      by_cases h : (!o.refused && o.bad) = true
      · rw [if_pos h, List.filter_cons, if_pos h]
        rfl
      · rw [if_neg h, List.filter_cons, if_neg h]
        rfl
    · intro o' ho' h1 h2 h hh
      rcases List.mem_cons.1 ho' with rfl | ho'
      · exact (hgrows' h).readFor (hread h1 h2 h hh)
      · exact hread' o' ho' h1 h2 h (by rw [hparts]; exact hh)

theorem storesReach (s : State) (g : Nat) {p : Pipe} {now : Tick} (hp : p = s.pipe g) (hnow : now = s.now (dieOfPipe g))
    (done : HbmOp → Bool) (due : List HbmOp)
    (hdone : ∀ o : HbmOp, done o = true ↔ o.isLoad = false ∧
      (if o.refused = true ∨ o.bad = true then o.issue + 640 = now
       else ∀ d ∈ (s.part (s.partOfPipe g)).dies, Tick.le (o.issue + 640) (s.now d) = true))
    (hdue : due = p.fly.hbm.filter done) :
      ∃ t : State, exec (.hstCompletion g) s = .next t ∧ (t.pipe g).mem = p.mem ∧ (t.pipe g).regs = p.regs ∧
        t.mem = due.foldl (fun m o => if o.refused = true ∨ o.bad = true then m else m.writeBytes o.pa o.bytes) s.mem ∧
        (t.pipe g).fly.hbm.length = (p.fly.hbm.filter (fun o => !(done o))).length ∧
        (t.pipe g).cyc.dets = p.cyc.dets ++ (due.filter (fun o => !o.refused && o.bad)).map (fun o =>
          { cause := 12, stream := 3, pc := o.pc, detail := 0, info := BitVec.ofNat 32 o.pa }) ∧
        (∀ o ∈ due, o.refused = false → o.bad = false → ∀ h ∈ (s.part (s.partOfPipe g)).pipes, ∀ a ∈ (t.pipe h).fly.hbm,
          a.isLoad = true → a.pa < o.pa + 256 → o.pa < a.pa + 256 → Tick.lt a.issue (o.issue + 640) = true → 32 ≤ a.data.length) := by
  have hcompletes : s.completes g = done := by
    funext o
    rw [Bool.eq_iff_iff, hdone, hnow]
    unfold State.completes
    dsimp only
    rw [Bool.and_eq_true_iff, Bool.not_eq_true']
    refine and_congr_right (fun _ => ?_)
    by_cases h : o.refused = true ∨ o.bad = true
    · rw [if_pos h, if_pos (by simpa using h), decide_eq_true_eq]
    · rw [if_neg h, if_neg (by simpa using h), List.all_eq_true]
  subst hp hdue
  obtain ⟨-, hmem, hgrows, hdets, hread⟩ := State.foldl_storeDone g ((s.pipe g).fly.hbm.filter done)
    (s.onPipe g (fun p => { p with fly := { p.fly with hbm := p.fly.hbm.filter (fun o => !(done o)) } }))
  have hexec : exec (.hstCompletion g) s = .next (((s.pipe g).fly.hbm.filter done).foldl (State.storeDone g)
      (s.onPipe g (fun p => { p with fly := { p.fly with hbm := p.fly.hbm.filter (fun o => !(done o)) } }))) := by
    rw [← hcompletes]
    rfl
  have hg := hgrows g
  rw [State.pipe_onPipe_same] at hg hdets
  refine ⟨_, hexec, ?_, ?_, hmem, hg.length_hbm, hdets, fun o ho h1 h2 h hh a ha hl hx hy hi => ?_⟩
  · rw [hg.rest]
  · rw [hg.rest]
  · exact hread o ho h1 h2 h hh a ha hl (by simp [HbmOp.meets, hx, hy]) hi

theorem transfersLand : Claims.TransfersLand := fun s g _ _ hp hnow => ⟨loadsLand s g hp hnow, storesReach s g hp hnow⟩

/-- Settles O41. -/
theorem hbmEventsPerform : Obligations.HbmEventsPerform := ⟨channelsServe, transfersLand, errorsCounted⟩

end Sys2Proof.Machine
end

section
/-! What recording a detection leaves (09 R286 to R289). -/
namespace Sys2Proof.Machine

/-- A detection changes its launch's record of the first one alone. -/
theorem TimedRun.detected_eq (r : TimedRun) (td : Tick) (g : Nat) (d : Det) (held : Option Nat) :
    ∃ t f e h, r.detected td g d held = { r with td := t, first := f, fe := e, feHeld := h } := by
  unfold TimedRun.detected
  dsimp only
  split
  · split
    · exact ⟨_, _, _, _, rfl⟩
    · split <;> exact ⟨_, _, _, _, rfl⟩
  · exact ⟨_, _, _, _, rfl⟩

theorem State.hasDie_onRun (s : State) (k j d : Nat) (f : TimedRun → TimedRun) :
    ((s.onRun k f).part j).hasDie d = (s.part j).hasDie d := by
  rw [State.part_onRun]
  split
  · rename_i h
    rw [h]
    rfl
  · rfl

theorem State.partOf_onRun (s : State) (k d : Nat) (f : TimedRun → TimedRun) : (s.onRun k f).partOf d = s.partOf d := by
  unfold State.partOf
  simp only [State.hasDie_onRun]

theorem State.dies_onRun (s : State) (k j : Nat) (f : TimedRun → TimedRun) :
    ((s.onRun k f).part j).dies = (s.part j).dies := by
  unfold Partition.dies
  rw [show ((s.onRun k f).part j).hasDie = (s.part j).hasDie from funext fun d => s.hasDie_onRun k j d f]

/-- A state after detections have been recorded: pipelines, the launches' records of them, notices and counts apart, nothing differs. -/
structure State.Recorded (s t : State) : Prop where
  rest : ∃ ps pa ns fw, t = { s with pipes := ps, parts := pa, notices := ns, fw := fw }
  part : ∀ k, ∃ td f e h, t.part k =
    { s.part k with run := { (s.part k).run with td := td, first := f, fe := e, feHeld := h } }

theorem State.Recorded.refl (s : State) : s.Recorded s := ⟨⟨_, _, _, _, rfl⟩, fun _ => ⟨_, _, _, _, rfl⟩⟩

theorem State.Recorded.trans {s t u : State} (h : s.Recorded t) (h' : t.Recorded u) : s.Recorded u := by
  obtain ⟨ps, pa, ns, fw, he⟩ := h.rest
  obtain ⟨ps', pa', ns', fw', he'⟩ := h'.rest
  refine ⟨⟨ps', pa', ns', fw', by rw [he', he]⟩, fun k => ?_⟩
  obtain ⟨a, b, c, d, hk⟩ := h.part k
  obtain ⟨a', b', c', d', hk'⟩ := h'.part k
  exact ⟨a', b', c', d', by rw [hk', hk]⟩

theorem State.Recorded.hasDie {s t : State} (h : s.Recorded t) (k d : Nat) : (t.part k).hasDie d = (s.part k).hasDie d := by
  obtain ⟨a, b, c, e, hk⟩ := h.part k
  rw [hk]
  rfl

theorem State.Recorded.partOf {s t : State} (h : s.Recorded t) (d : Nat) : t.partOf d = s.partOf d := by
  unfold State.partOf
  simp only [h.hasDie]

theorem State.Recorded.partOfPipe {s t : State} (h : s.Recorded t) (g : Nat) : t.partOfPipe g = s.partOfPipe g :=
  congrArg (Option.getD · 0) (h.partOf _)

theorem State.Recorded.dies {s t : State} (h : s.Recorded t) : t.dies = s.dies := by
  obtain ⟨ps, pa, ns, fw, he⟩ := h.rest
  rw [he]

theorem State.Recorded.die {s t : State} (h : s.Recorded t) (d : Nat) : t.die d = s.die d :=
  congrArg (fun m : SMap Die => m.get d {}) h.dies

theorem State.Recorded.now {s t : State} (h : s.Recorded t) (d : Nat) : t.now d = s.now d :=
  congrArg Die.atk (h.die d)

theorem State.Recorded.frozenDies {s t : State} (h : s.Recorded t) (k : Nat) :
    (t.part k).run.frozenDies = (s.part k).run.frozenDies := by
  obtain ⟨a, b, c, e, hk⟩ := h.part k
  rw [hk]

theorem State.recorded_record (s : State) (g : Nat) (ds : List Det) : s.Recorded (s.record g ds) :=
  ⟨⟨_, _, _, _, rfl⟩, fun _ => ⟨_, _, _, _, rfl⟩⟩

theorem State.pipe_record (s : State) (g h : Nat) (ds : List Det) :
    (s.record g ds).pipe h = if h = g then (s.pipe g).detect ds else s.pipe h := State.pipe_setPipe ..

theorem State.conclude_none {s : State} {g : Nat} {td : Tick} {held : Option Nat} (h : (s.pipe g).cyc.dets = []) :
    s.conclude g td held = s := by
  unfold State.conclude
  dsimp only
  rw [h]
  rfl

theorem State.recorded_conclude (s : State) (g : Nat) (td : Tick) (held : Option Nat) : s.Recorded (s.conclude g td held) := by
  by_cases hn : (s.pipe g).cyc.dets = []
  · rw [State.conclude_none hn]
    exact .refl s
  · obtain ⟨d, -, hd, -⟩ := leastDet_spec hn
    obtain ⟨b, ns, fw, hc⟩ := State.conclude_eq (td := td) (held := held) hd
    refine ⟨⟨_, _, _, _, hc⟩, fun k => ?_⟩
    obtain ⟨q, hp⟩ : ∃ q, (s.conclude g td held).part k =
        ((s.setPipe g q).onRun (s.partOfPipe g) (fun r => r.detected td g d held)).part k := ⟨_, by rw [hc]; rfl⟩
    rw [State.part_onRun] at hp
    by_cases hk : k = s.partOfPipe g
    · obtain ⟨a, f, e, h, hr⟩ := ((s.part (s.partOfPipe g)).run).detected_eq td g d held
      refine ⟨a, f, e, h, hp.trans ((if_pos hk).trans ?_)⟩
      rw [hk]
      exact congrArg (fun r => { s.part (s.partOfPipe g) with run := r }) hr
    · exact ⟨(s.part k).run.td, (s.part k).run.first, (s.part k).run.fe, (s.part k).run.feHeld, hp.trans (if_neg hk)⟩

/-- What a recorded detection leaves of a pipeline. -/
theorem State.pipe_conclude {s : State} {g : Nat} {td : Tick} {held : Option Nat} {d : Det}
    (h : leastDet (s.pipe g).cyc.dets = some d) : ∃ b : Book, (s.conclude g td held).pipe g = { s.pipe g with
        csr := { (s.pipe g).csr with faultInfo := ((s.pipe g).reflects td d).2.word true }
        detected := some ((s.pipe g).reflects td d), book := b, cyc := { (s.pipe g).cyc with dets := [] } } := by
  obtain ⟨b, ns, fw, hc⟩ := State.conclude_eq (td := td) (held := held) h
  refine ⟨b, ?_⟩
  rw [hc]
  exact (State.pipe_setPipe ..).trans (if_pos rfl)

theorem State.pipe_conclude_ne (s : State) {g h : Nat} (td : Tick) (held : Option Nat) (hne : h ≠ g) :
    (s.conclude g td held).pipe h = s.pipe h := by
  by_cases hn : (s.pipe g).cyc.dets = []
  · rw [State.conclude_none hn]
  · obtain ⟨d, -, hd, -⟩ := leastDet_spec hn
    obtain ⟨b, ns, fw, hc⟩ := State.conclude_eq (td := td) (held := held) hd
    rw [hc]
    exact (State.pipe_setPipe ..).trans (if_neg hne)

theorem State.detected_conclude (s : State) (g h : Nat) (td : Tick) (held : Option Nat)
    (hd : (s.pipe h).detected.isSome = true ∨ (h = g ∧ (s.pipe g).cyc.dets ≠ [])) :
    ((s.conclude g td held).pipe h).detected.isSome = true := by
  by_cases hh : h = g
  · subst hh
    by_cases hn : (s.pipe h).cyc.dets = []
    · rw [State.conclude_none hn]
      exact hd.resolve_right (fun e => e.2 hn)
    · obtain ⟨d, -, hd', -⟩ := leastDet_spec hn
      obtain ⟨b, hp⟩ := State.pipe_conclude (td := td) (held := held) hd'
      rw [hp]
      rfl
  · rw [s.pipe_conclude_ne td held hh]
    exact hd.resolve_right (fun e => hh e.1)

/-- Recording detections apart from those of a running cycle leaves what that cycle has gathered. -/
theorem State.recorded_concludeApart (s : State) (g : Nat) (td : Tick) (ds : List Det) : s.Recorded (s.concludeApart g td ds) := by
  have h1 : s.Recorded (s.onPipe g (fun p => { p with cyc := { p.cyc with dets := ds } })) :=
    ⟨⟨_, _, _, _, rfl⟩, fun _ => ⟨_, _, _, _, rfl⟩⟩
  have h2 := State.recorded_conclude (s.onPipe g (fun p => { p with cyc := { p.cyc with dets := ds } })) g td none
  refine (h1.trans h2).trans ⟨⟨_, _, _, _, rfl⟩, fun _ => ⟨_, _, _, _, rfl⟩⟩

theorem State.dets_concludeApart (s : State) (g h : Nat) (td : Tick) (ds : List Det) :
    ((s.concludeApart g td ds).pipe h).cyc.dets = (s.pipe h).cyc.dets := by
  unfold State.concludeApart State.onPipe
  dsimp only
  rw [State.pipe_setPipe]
  by_cases hh : h = g
  · rw [if_pos hh, hh]
  · rw [if_neg hh, State.pipe_conclude_ne _ _ _ hh, State.pipe_setPipe, if_neg hh]

end Sys2Proof.Machine
end

section
/-! Words between dies and packages (O42). -/
namespace Sys2Proof.Machine

/-! ### Relay words that arrive (09 R281) -/

/-- The LINK slip of a relay word that comes outside its window. -/
def State.lateWord (s : State) (w : RelayWord) : Det :=
  { cause := causeLink, stream := 0, pc := 0, detail := 0, info := BitVec.ofInt 32 (skew w.ta (s.now (dieOfPipe w.dst))) }

/-- That slip is detected at the word's target. -/
def State.slipWord (s0 : State) (s : State) (w : RelayWord) : State :=
  if (s.part (s.partOfPipe w.dst)).run.frozenDies.contains (dieOfPipe w.dst) then s
  else if (s.die (dieOfPipe w.dst)).work.contains (.endPipe w.dst) then s.record w.dst [s0.lateWord w]
  else match (s.die (dieOfPipe w.dst)).inHold with
    | some h => (s.record w.dst [s0.lateWord w]).conclude w.dst (s.now (dieOfPipe w.dst) + 1) (some (h + 31))
    | none => (s.record w.dst [s0.lateWord w]).conclude w.dst (s.now (dieOfPipe w.dst)) none

/-- Where a slip is recorded: with its cycle's detections, or at once. -/
theorem State.slipWord_cases (s0 s : State) (w : RelayWord) :
    ((s.part (s.partOfPipe w.dst)).run.frozenDies.contains (dieOfPipe w.dst) = true ∧ State.slipWord s0 s w = s) ∨
    ((s.part (s.partOfPipe w.dst)).run.frozenDies.contains (dieOfPipe w.dst) = false ∧
      (s.die (dieOfPipe w.dst)).work.contains (.endPipe w.dst) = true ∧ State.slipWord s0 s w = s.record w.dst [s0.lateWord w]) ∨
    ((s.part (s.partOfPipe w.dst)).run.frozenDies.contains (dieOfPipe w.dst) = false ∧
      (s.die (dieOfPipe w.dst)).work.contains (.endPipe w.dst) = false ∧
      ∃ td held, State.slipWord s0 s w = (s.record w.dst [s0.lateWord w]).conclude w.dst td held) := by
  unfold State.slipWord
  by_cases h1 : (s.part (s.partOfPipe w.dst)).run.frozenDies.contains (dieOfPipe w.dst) = true
  · exact .inl ⟨h1, if_pos h1⟩
  · by_cases h2 : (s.die (dieOfPipe w.dst)).work.contains (.endPipe w.dst) = true
    · exact .inr (.inl ⟨Bool.eq_false_iff.2 h1, h2, (if_neg h1).trans (if_pos h2)⟩)
    · refine .inr (.inr ⟨Bool.eq_false_iff.2 h1, Bool.eq_false_iff.2 h2, ?_⟩)
      rw [if_neg h1, if_neg h2]
      split <;> exact ⟨_, _, rfl⟩

theorem State.recorded_slipWord (s0 s : State) (w : RelayWord) : s.Recorded (State.slipWord s0 s w) := by
  rcases s0.slipWord_cases s w with ⟨-, h⟩ | ⟨-, -, h⟩ | ⟨-, -, td, held, h⟩
  · rw [h]
    exact .refl s
  · rw [h]
    exact s.recorded_record ..
  · rw [h]
    exact (s.recorded_record ..).trans (State.recorded_conclude ..)

/-- What stands of pipeline `h` when slips are recorded: in a cycle that goes on its detections, and what it has recorded. -/
theorem State.slipWord_keeps (s0 s : State) (w : RelayWord) (h : Nat) :
    ((s.die (dieOfPipe h)).work.contains (.endPipe h) = true → ∀ e ∈ (s.pipe h).cyc.dets, e ∈ ((State.slipWord s0 s w).pipe h).cyc.dets) ∧
    ((s.pipe h).detected.isSome = true → ((State.slipWord s0 s w).pipe h).detected.isSome = true) := by
  have hrec : ∀ e ∈ (s.pipe h).cyc.dets, e ∈ ((s.record w.dst [s0.lateWord w]).pipe h).cyc.dets := by
    intro e he
    rw [State.pipe_record]
    split
    · rename_i hh
      rw [hh] at he
      exact List.mem_append_left _ he
    · exact he
  have hdet : ((s.record w.dst [s0.lateWord w]).pipe h).detected = (s.pipe h).detected := by
    rw [State.pipe_record]
    split
    · rename_i hh
      rw [hh]
      rfl
    · rfl
  rcases s0.slipWord_cases s w with ⟨-, hs⟩ | ⟨-, -, hs⟩ | ⟨-, hw, td, held, hs⟩
  · rw [hs]
    exact ⟨fun _ e he => he, id⟩
  · rw [hs]
    exact ⟨fun _ => hrec, fun hd => hdet ▸ hd⟩
  · rw [hs]
    refine ⟨fun hc e he => ?_, fun hd => State.detected_conclude _ _ _ _ _ (.inl (hdet ▸ hd))⟩
    have hne : h ≠ w.dst := fun hh => by
      rw [hh, hw] at hc
      exact Bool.false_ne_true hc
    rw [State.pipe_conclude_ne _ _ _ hne]
    exact hrec e he

/-- A slip at a die that does not stand frozen is detected. -/
theorem State.slipWord_detects (s0 s : State) (w : RelayWord)
    (hf : (s.part (s.partOfPipe w.dst)).run.frozenDies.contains (dieOfPipe w.dst) = false) :
    ((s.die (dieOfPipe w.dst)).work.contains (.endPipe w.dst) = true →
      s0.lateWord w ∈ ((State.slipWord s0 s w).pipe w.dst).cyc.dets) ∧
    ((s.die (dieOfPipe w.dst)).work.contains (.endPipe w.dst) = false → ((State.slipWord s0 s w).pipe w.dst).detected.isSome = true) := by
  rcases s0.slipWord_cases s w with ⟨hfr, -⟩ | ⟨-, hw, hs⟩ | ⟨-, hw, td, held, hs⟩
  · exact absurd (hf.symm.trans hfr) Bool.false_ne_true
  · refine ⟨fun _ => ?_, fun h => absurd (h.symm.trans hw) Bool.false_ne_true⟩
    rw [hs, State.pipe_record, if_pos rfl]
    exact List.mem_append_right _ (List.mem_singleton.2 rfl)
  · refine ⟨fun h => absurd (hw.symm.trans h) Bool.false_ne_true, fun _ => ?_⟩
    rw [hs]
    refine State.detected_conclude _ _ _ _ _ (.inr ⟨rfl, ?_⟩)
    rw [State.pipe_record, if_pos rfl]
    exact List.append_ne_nil_of_right_ne_nil _ (List.cons_ne_nil _ _)

theorem State.foldl_slipWord (s0 : State) (l : List RelayWord) (s : State) :
    s.Recorded (l.foldl (State.slipWord s0) s) ∧
    (∀ h, ((s.die (dieOfPipe h)).work.contains (.endPipe h) = true →
        ∀ e ∈ (s.pipe h).cyc.dets, e ∈ ((l.foldl (State.slipWord s0) s).pipe h).cyc.dets) ∧
      ((s.pipe h).detected.isSome = true → ((l.foldl (State.slipWord s0) s).pipe h).detected.isSome = true)) ∧
    (∀ w ∈ l, (s.part (s.partOfPipe w.dst)).run.frozenDies.contains (dieOfPipe w.dst) = false →
      ((s.die (dieOfPipe w.dst)).work.contains (.endPipe w.dst) = true →
        s0.lateWord w ∈ ((l.foldl (State.slipWord s0) s).pipe w.dst).cyc.dets) ∧
      ((s.die (dieOfPipe w.dst)).work.contains (.endPipe w.dst) = false →
        ((l.foldl (State.slipWord s0) s).pipe w.dst).detected.isSome = true)) := by
  induction l generalizing s with
  | nil => exact ⟨.refl s, fun h => ⟨fun _ e he => he, id⟩, fun w hw => absurd hw List.not_mem_nil⟩
  | cons v l ih =>
    have hone := s0.recorded_slipWord s v
    obtain ⟨hrec, hkeep, hdet⟩ := ih (State.slipWord s0 s v)
    rw [List.foldl_cons]
    refine ⟨hone.trans hrec, fun h => ⟨fun hw e he => ?_, fun hd => (hkeep h).2 ((s0.slipWord_keeps s v h).2 hd)⟩, fun w hw hf => ?_⟩
    · exact (hkeep h).1 (by rw [hone.die]; exact hw) e ((s0.slipWord_keeps s v h).1 hw e he)
    · rcases List.mem_cons.1 hw with rfl | hw
      · refine ⟨fun hc => ?_, fun hc => (hkeep _).2 ((s0.slipWord_detects s w hf).2 hc)⟩
        exact (hkeep _).1 (by rw [hone.die]; exact hc) _ ((s0.slipWord_detects s w hf).1 hc)
      · have h := hdet w hw (by rw [hone.partOfPipe, hone.frozenDies]; exact hf)
        rw [hone.die] at h
        exact h

theorem relayWordsArrive : Claims.RelayWordsArrive := by
  intro s d mine kept hmine hkept
  have hm : mine = fun w => decide (dieOfPipe w.src = d) && decide (w.ta = s.now d) && !w.judged && !w.slipped := by
    funext w
    rw [Bool.eq_iff_iff, hmine]
    simp [and_assoc]
  have hk : kept = fun w => decide (-6 ≤ skew w.ta (s.now (dieOfPipe w.dst))) && decide (skew w.ta (s.now (dieOfPipe w.dst)) ≤ 6) &&
      Tick.lt (s.now (dieOfPipe w.dst)) w.ta := by
    funext w
    rw [Bool.eq_iff_iff, hkept]
    simp [and_assoc]
  obtain ⟨s1, hs1⟩ : ∃ s1 : State, s1 = { s with words := s.words.map (fun w =>
    if mine w then (if kept w then { w with judged := true } else { w with slipped := true }) else w) } := ⟨_, rfl⟩
  have hexec : exec (.wordArrival d) s = .next (((s.words.filter mine).filter (fun w => !(kept w))).foldl (State.slipWord s) s1) := by
    rw [hs1, hm, hk]
    rfl
  obtain ⟨hrec, -, hdet⟩ := State.foldl_slipWord s ((s.words.filter mine).filter (fun w => !(kept w))) s1
  obtain ⟨ps, pa, ns, fw, ht⟩ := hrec.rest
  refine ⟨_, hexec, ?_, ?_, ?_, fun hall => ?_, fun w hw hmw hkw hf => ?_⟩
  · rw [ht, hs1]
  · rw [ht, hs1]
  · rw [ht, hs1]
  · have hnil : (s.words.filter mine).filter (fun w => !(kept w)) = [] := by
      refine List.filter_eq_nil_iff.2 (fun w hw => ?_)
      obtain ⟨hw, hmw⟩ := List.mem_filter.1 hw
      rw [hall w hw hmw]
      exact Bool.false_ne_true
    rw [hnil, hs1]
    exact ⟨rfl, rfl⟩
  · refine (hdet w ?_ ?_).imp (fun h hc => h ?_) (fun h hc => h ?_)
    · exact List.mem_filter.2 ⟨List.mem_filter.2 ⟨hw, hmw⟩, by rw [hkw]; rfl⟩
    · rw [hs1]
      exact hf
    · rw [hs1]
      exact hc
    · rw [hs1]
      exact hc

end Sys2Proof.Machine
end

section
/-! Words that land, boundaries, link plans and the sideband (O42). -/
namespace Sys2Proof.Machine

/-! ### Relay words that land (05 R150, R168, R169) -/

/-- What keeps a landing word out of tensor SRAM. -/
def State.wordSlips (s : State) (g : Nat) (w : RelayWord) : List Det := s.bankSlips g 0 0 w.off 256 ++ landEcc w.bad w.off

/-- Pipeline `g` with a relay word landed, or slipped. -/
def Pipe.landWord (s : State) (g : Nat) (p : Pipe) (w : RelayWord) : Pipe :=
  if (s.wordSlips g w).isEmpty then p.land 1 w.src w.off (toBytes 256 w.data.toNat) else p.detect (s.wordSlips g w)

theorem Pipe.land_rest (p : Pipe) (rank n off : Nat) (bs : List Byte) : (p.land rank n off bs).cyc.wr = p.cyc.wr + bs.length ∧
    (p.land rank n off bs).cyc.dets = p.cyc.dets ∧ (p.land rank n off bs).regs = p.regs ∧ (p.land rank n off bs).q = p.q :=
  ⟨rfl, rfl, rfl, rfl⟩

theorem State.foldl_landWord {s : State} {g : Nat} {l : List RelayWord} (hl : ∀ w ∈ l, w.dst = g) {u : State}
    (hu : ∃ ps ws, u = { s with pipes := ps, words := ws }) :
    (∃ ps, l.foldl State.landWord u = { u with pipes := ps }) ∧
      (l.foldl State.landWord u).pipe g = l.foldl (Pipe.landWord s g) (u.pipe g) := by
  induction l generalizing u with
  | nil => exact ⟨⟨u.pipes, rfl⟩, rfl⟩
  | cons w l ih =>
    have hw := hl w List.mem_cons_self
    have hone : State.landWord u w = u.onPipe g (fun p => Pipe.landWord s g p w) := by
      obtain ⟨ps, ws, rfl⟩ := hu
      unfold State.landWord Pipe.landWord
      rw [hw]
      by_cases h : (s.wordSlips g w).isEmpty = true
      · simp only [if_pos h]
        exact if_pos h
      · simp only [if_neg h]
        exact if_neg h
    obtain ⟨⟨ps, h1⟩, h2⟩ := ih (u := State.landWord u w) (fun v hv => hl v (List.mem_cons_of_mem _ hv)) (by
      obtain ⟨ps, ws, rfl⟩ := hu
      rw [hone]
      exact ⟨_, _, rfl⟩)
    refine ⟨⟨ps, ?_⟩, ?_⟩
    · rw [List.foldl_cons, h1, hone]
      rfl
    · rw [List.foldl_cons, h2, hone, State.pipe_onPipe_same]
      rfl

theorem relayWordsLand : Claims.RelayWordsLand := by
  rintro s g p due slips rfl hdue hslips
  have hs : slips = s.wordSlips g := funext hslips
  have hmem : ∀ w ∈ due, w.dst = g := by
    intro w hw
    rw [hdue] at hw
    have := (List.mem_filter.1 ((sortBy_perm _ _).mem_iff.1 hw)).2
    exact of_decide_eq_true (Bool.and_eq_true_iff.1 this).1
  have hexec : exec (.relayLanding g) s = .next (due.foldl State.landWord ({ s with words := s.words.filter (fun w =>
      !(decide (w.dst = g) && s.landsNow w (s.now (dieOfPipe g)))) } : State)) := by
    rw [hdue]
    rfl
  obtain ⟨⟨ps, ht⟩, hp⟩ := State.foldl_landWord hmem (u := { s with words := s.words.filter (fun w =>
      !(decide (w.dst = g) && s.landsNow w (s.now (dieOfPipe g)))) }) ⟨_, _, rfl⟩
  refine ⟨_, hexec, by rw [ht], by rw [ht], by rw [ht], ?_⟩
  rw [hp, hs]
  have hland : ∀ (q : Pipe) (w : RelayWord), (Pipe.landWord s g q w).mem.sram =
      (if (s.wordSlips g w).isEmpty then q.mem.sram.writeBytes w.off (toBytes 256 w.data.toNat) else q.mem.sram) ∧
      (Pipe.landWord s g q w).cyc.wr = (if (s.wordSlips g w).isEmpty then q.cyc.wr + 256 else q.cyc.wr) ∧
      (Pipe.landWord s g q w).cyc.dets = q.cyc.dets ++ s.wordSlips g w ∧ (Pipe.landWord s g q w).regs = q.regs ∧
      (Pipe.landWord s g q w).q = q.q := by
    intro q w
    unfold Pipe.landWord
    by_cases h : (s.wordSlips g w).isEmpty = true
    · rw [if_pos h, if_pos h, if_pos h, List.isEmpty_iff.1 h, List.append_nil]
      obtain ⟨hwr, hdets, hregs, hq⟩ := q.land_rest 1 w.src w.off (toBytes 256 w.data.toNat)
      exact ⟨Pipe.sram_land .., hwr.trans (congrArg (q.cyc.wr + ·) (toBytes_length 256 _)), hdets, hregs, hq⟩
    · rw [if_neg h, if_neg h, if_neg h]
      exact ⟨rfl, rfl, rfl, rfl, rfl⟩
  refine ⟨?_, ?_, ?_, ?_, ?_⟩
  · rw [List.foldl_filter]
    exact foldl_part (fun q : Pipe => q.mem.sram) _ _ _ _ (fun q w _ => (hland q w).1)
  · refine (foldl_part (fun q : Pipe => q.cyc.wr) _ (fun n w => if (s.wordSlips g w).isEmpty then n + 256 else n) _ _
      (fun q w _ => (hland q w).2.1)).trans ?_
    rw [← List.foldl_filter (f := fun (n : Nat) (_ : RelayWord) => n + 256)]
    have hsum : ∀ (l : List RelayWord) (n : Nat), l.foldl (fun n _ => n + 256) n = n + 256 * l.length := by
      intro l
      induction l with
      | nil => exact fun n => rfl
      | cons w l ih =>
        intro n
        rw [List.foldl_cons, ih, List.length_cons]
        omega
    exact hsum _ _
  · exact foldl_appends (fun q : Pipe => q.cyc.dets) _ _ _ _ (fun q w _ => (hland q w).2.2.1)
  · exact foldl_keeps Pipe.regs _ _ _ (fun q w _ => (hland q w).2.2.2.1)
  · exact foldl_keeps Pipe.q _ _ _ (fun q w _ => (hland q w).2.2.2.2)

/-! ### The boundaries (09 R276) -/

/-- The judgement of one boundary direction in the window that ends at `t`. -/
def State.windowSlip (d : Nat) (us : List ChanUse) (t : Tick) (s : State) (dir : Nat) : State :=
  match (windowUses us dir t)[s.fw.tch.toNat]? with
  | some u =>
    if dieOfPipe u.g = d then
      if t = s.now d then s.record u.g [{ cause := causeToken, stream := 3, pc := u.pc, detail := 57, info := 0 }]
      else s.concludeApart u.g t [{ cause := causeToken, stream := 3, pc := u.pc, detail := 57, info := 0 }]
    else s
  | none => s

theorem State.windowSlips_eq (s : State) (d : Nat) (us : List ChanUse) (t : Tick) :
    s.windowSlips d us t = ((us.map (fun u => u.dir)).eraseDups).foldl (State.windowSlip d us t) s := rfl

theorem windowUses_quiet {us : List ChanUse} {dir n : Nat} (h : (us.filter (fun u => decide (u.dir = dir))).length ≤ n) (t : Tick) :
    (windowUses us dir t)[n]? = none := by
  refine List.getElem?_eq_none_iff.2 (Nat.le_trans ?_ h)
  unfold windowUses
  rw [(sortBy_perm _ _).length_eq]
  refine List.Sublist.length_le ?_
  rw [show (fun u : ChanUse => decide (u.dir = dir) && decide ((t - u.enter).toNat < 4)) =
    fun u => decide ((t - u.enter).toNat < 4) && decide (u.dir = dir) from funext fun u => Bool.and_comm ..]
  rw [← List.filter_filter]
  exact List.filter_sublist

/-- The window that ends in the cycle that die `d` runs: a slip is among the detections of that cycle. -/
theorem State.windowSlip_now {d : Nat} {us : List ChanUse} {t : Tick} {s : State} (ht : t = s.now d) (dir : Nat) :
    (∃ ps, s.windowSlip d us t dir = { s with pipes := ps }) ∧
    (∀ h, ∀ e ∈ (s.pipe h).cyc.dets, e ∈ ((s.windowSlip d us t dir).pipe h).cyc.dets) ∧
    (∀ u, (windowUses us dir t)[s.fw.tch.toNat]? = some u → dieOfPipe u.g = d →
      ({ cause := 3, stream := 3, pc := u.pc, detail := 57, info := 0 } : Det) ∈ ((s.windowSlip d us t dir).pipe u.g).cyc.dets) := by
  have hrec : ∀ (g : Nat) (ds : List Det), ∀ h, ∀ e ∈ (s.pipe h).cyc.dets, e ∈ ((s.record g ds).pipe h).cyc.dets := by
    intro g ds h e he
    rw [State.pipe_record]
    split
    · rename_i hh
      rw [hh] at he
      exact List.mem_append_left _ he
    · exact he
  unfold State.windowSlip
  cases hu : (windowUses us dir t)[s.fw.tch.toNat]? with
  | none => exact ⟨⟨s.pipes, rfl⟩, fun h e he => he, fun u h => nomatch h⟩
  | some v =>
    dsimp only
    by_cases hd : dieOfPipe v.g = d
    · rw [if_pos hd, if_pos ht]
      refine ⟨⟨_, rfl⟩, hrec _ _, fun u h _ => ?_⟩
      injection h with h
      rw [← h, State.pipe_record, if_pos rfl]
      exact List.mem_append_right _ (List.mem_singleton.2 rfl)
    · rw [if_neg hd]
      exact ⟨⟨s.pipes, rfl⟩, fun h e he => he, fun u h hd' => absurd (by injection h with h; rw [h]; exact hd') hd⟩

theorem State.foldl_windowSlip_now {d : Nat} {us : List ChanUse} {t : Tick} (dirs : List Nat) {s : State} (ht : t = s.now d) :
    (∃ ps, dirs.foldl (State.windowSlip d us t) s = { s with pipes := ps }) ∧
    (∀ h, ∀ e ∈ (s.pipe h).cyc.dets, e ∈ ((dirs.foldl (State.windowSlip d us t) s).pipe h).cyc.dets) ∧
    (∀ dir ∈ dirs, ∀ u, (windowUses us dir t)[s.fw.tch.toNat]? = some u → dieOfPipe u.g = d →
      ({ cause := 3, stream := 3, pc := u.pc, detail := 57, info := 0 } : Det) ∈
        ((dirs.foldl (State.windowSlip d us t) s).pipe u.g).cyc.dets) := by
  induction dirs generalizing s with
  | nil => exact ⟨⟨s.pipes, rfl⟩, fun h e he => he, fun dir h => absurd h List.not_mem_nil⟩
  | cons dir dirs ih =>
    obtain ⟨⟨ps, h1⟩, h2, h3⟩ := s.windowSlip_now (us := us) ht dir
    obtain ⟨⟨qs, i1⟩, i2, i3⟩ := ih (s := s.windowSlip d us t dir) (by rw [h1]; exact ht)
    rw [List.foldl_cons]
    refine ⟨⟨qs, by rw [i1, h1]⟩, fun h e he => i2 h e (h2 h e he), fun dir' hm u hu hd => ?_⟩
    rcases List.mem_cons.1 hm with rfl | hm
    · exact i2 _ _ (h3 u hu hd)
    · exact i3 dir' hm u (by rw [h1]; exact hu) hd

theorem State.foldl_windowSlip_quiet {d : Nat} {us : List ChanUse} {s : State}
    (hq : ∀ dir : Nat, (us.filter (fun u => decide (u.dir = dir))).length ≤ s.fw.tch.toNat) (t : Tick) (dirs : List Nat) :
    dirs.foldl (State.windowSlip d us t) s = s := by
  induction dirs with
  | nil => rfl
  | cons dir dirs ih =>
    have h : s.windowSlip d us t dir = s := by
      unfold State.windowSlip
      rw [windowUses_quiet (hq dir)]
    rw [List.foldl_cons, h, ih]

theorem boundariesJudged : Claims.BoundariesJudged := by
  rintro s d k us rfl rfl
  refine ⟨fun hq => ?_, fun u dir hdone hsent hu hd => ?_⟩
  · refine ⟨_, rfl, ?_⟩
    unfold State.judgeWindows
    dsimp only
    split
    · have hfold : ∀ l : List Nat, l.foldl (fun t i => t.windowSlips d
          (((s.part ((s.partOf d).getD 0)).dies.flatMap (fun e => (s.die e).chan))) ((s.die d).chanDone + 1 + BitVec.ofNat 64 i)) s = s := by
        intro l
        induction l with
        | nil => rfl
        | cons i l ih =>
          rw [List.foldl_cons, State.windowSlips_eq, State.foldl_windowSlip_quiet hq, ih]
      rw [hfold, ite_self]
      exact ⟨rfl, rfl, rfl, rfl⟩
    · exact ⟨rfl, rfl, rfl, rfl⟩
  · obtain ⟨us, hus⟩ : ∃ us, us = (s.part ((s.partOf d).getD 0)).dies.flatMap (fun e => (s.die e).chan) := ⟨_, rfl⟩
    rw [← hus] at hu
    have hmem : u ∈ us ∧ u.dir = dir := by
      have h := (sortBy_perm _ _).mem_iff.1 (List.mem_of_getElem? hu)
      obtain ⟨h1, h2⟩ := List.mem_filter.1 h
      exact ⟨h1, of_decide_eq_true (Bool.and_eq_true_iff.1 h2).1⟩
    have hlt : Tick.lt (s.die d).chanDone (s.now d) = true := by
      rw [← hdone]
      unfold Tick.lt Tick.le
      rw [show (s.die d).chanDone - ((s.die d).chanDone + 1) = -1 by bv_omega]
      decide
    have hone : (s.now d - (s.die d).chanDone).toNat = 1 := by
      rw [← hdone, show (s.die d).chanDone + 1 - (s.die d).chanDone = 1 by bv_omega]
      decide
    have hexec : exec (.boundaryChannelOverflow d) s =
        .next ((((us.map (fun u => u.dir)).eraseDups).foldl (State.windowSlip d us (s.now d)) s).onDie d
          (fun y => { y with chanDone := s.now d })) := by
      change Host.Outcome.next (s.judgeWindows d (s.sentUpTo ((s.partOf d).getD 0) (s.now d))) = _
      rw [hsent]
      unfold State.judgeWindows
      dsimp only
      rw [if_pos hlt, ← hus, if_neg (fun h => by rw [List.isEmpty_iff.1 h] at hmem; exact List.not_mem_nil hmem.1), hone]
      have hnow : (s.die d).chanDone + 1 + BitVec.ofNat 64 0 = s.now d := hdone ▸ BitVec.add_zero _
      rw [List.range_one, List.foldl_cons, List.foldl_nil, hnow]
      rfl
    obtain ⟨⟨ps, h1⟩, -, h3⟩ := State.foldl_windowSlip_now (d := d) (us := us) ((us.map (fun u => u.dir)).eraseDups)
      (s := s) (t := s.now d) rfl
    refine ⟨_, hexec, by rw [h1]; rfl, by rw [h1]; rfl, ?_⟩
    exact h3 dir (List.mem_eraseDups.2 (List.mem_map.2 ⟨u, hmem⟩)) u hu hd

/-! ### Link plans and the sideband (01 R32; 22 R447, R450 to R452) -/

theorem linkPlanRuns : Claims.LinkPlanRuns := by
  intro s k j g off
  refine ⟨fun h => ?_, fun e slips he hg hoff hslips => ⟨fun h => ?_, fun hocc hlup => ?_⟩, fun h => ?_,
    fun l slips hl hg hoff hslips => ⟨fun h => ?_, fun hta hlo hhi hdie => ?_⟩⟩
  · change execLinkPlanRead k j s = _
    unfold execLinkPlanRead
    dsimp only
    rw [h]
  · change execLinkPlanRead k j s = _
    unfold execLinkPlanRead
    dsimp only
    rw [he]
    dsimp only
    rw [← hg]
    exact if_neg (fun hc => by rcases h with h | h <;> simp [h] at hc)
  · change execLinkPlanRead k j s = _
    unfold execLinkPlanRead
    dsimp only
    rw [he]
    dsimp only
    rw [← hg, if_pos (Bool.and_eq_true_iff.2 ⟨hocc, hlup⟩), ← hoff, ← hslips]
    by_cases hs : slips = []
    · rw [if_pos hs, if_pos (List.isEmpty_iff.2 hs)]
      rfl
    · rw [if_neg hs, if_neg (fun h => hs (List.isEmpty_iff.1 h))]
      rfl
  · change execLinkPlanLanding k j s = _
    unfold execLinkPlanLanding
    rw [h]
  · change execLinkPlanLanding k j s = _
    unfold execLinkPlanLanding
    rw [hl]
    dsimp only
    rw [← hg]
    refine if_neg (fun hc => ?_)
    obtain ⟨h1, h2, h3⟩ := hc
    simp only [LinkWord.inWindow, Bool.and_eq_true, decide_eq_true_eq] at h2
    rcases h with h | h | h | h
    · exact h h1
    · exact absurd h2.1 (Int.not_le.2 h)
    · exact absurd h2.2 (Int.not_le.2 h)
    · exact Bool.false_ne_true (h.symm.trans h3)
  · have hexec : exec (.linkPlanLanding k j) s = .next (({ s with linkWords := s.linkWords.eraseIdx j } : State).onPipe g (fun p =>
        if slips.isEmpty then p.land 2 l.link off (toBytes 256 l.data.toNat) else p.detect slips)) := by
      change execLinkPlanLanding k j s = _
      unfold execLinkPlanLanding
      rw [hl]
      dsimp only
      rw [← hg, if_pos ⟨hta, by simp [LinkWord.inWindow, hlo, hhi], hdie⟩, ← hoff,
        show s.bankSlips g 0 0 off 256 ++ landEcc l.bad off = slips from hslips.symm]
      by_cases hs : slips.isEmpty = true
      · simp only [if_pos hs]
      · simp only [if_neg hs]
        rfl
    refine ⟨_, hexec, rfl, rfl, ?_⟩
    rw [State.pipe_onPipe_same, show (({ s with linkWords := s.linkWords.eraseIdx j } : State).pipe g) = s.pipe g from rfl]
    by_cases hs : slips = []
    · rw [if_pos hs, if_pos (List.isEmpty_iff.2 hs), hs, List.append_nil]
      obtain ⟨-, hdets, hregs, -⟩ := (s.pipe g).land_rest 2 l.link off (toBytes 256 l.data.toNat)
      exact ⟨hregs, hdets, Pipe.sram_land ..⟩
    · rw [if_neg hs, if_neg (fun h => hs (List.isEmpty_iff.1 h))]
      exact ⟨rfl, rfl, rfl⟩

theorem sidebandArrives : Claims.SidebandArrives := by
  intro s d n
  refine ⟨fun hn h => ?_, fun a hn hnb ha => ?_, fun hn h => ?_, fun hn h => ?_⟩
  · refine (if_pos hn).trans ?_
    cases ha : (s.die n).sent[11]? with
    | none => rfl
    | some a =>
      have hnb := h.resolve_left (by rw [ha]; exact Option.some_ne_none a)
      exact congrArg Host.Outcome.next (if_neg (by rw [hnb]; exact Bool.false_ne_true))
  · refine (if_pos hn).trans ?_
    rw [ha]
    exact congrArg Host.Outcome.next (if_pos hnb)
  · exact (if_neg (Nat.not_lt.2 hn)).trans (if_neg (by rw [h]; exact Bool.false_ne_true))
  · refine ⟨_, BitVec.ofNat 64 s.freeVal, (if_neg (Nat.not_lt.2 hn)).trans (if_pos h), ?_, rfl, rfl⟩
    exact (State.die_onDie ..).trans (if_pos rfl)

/-- Settles O42. -/
theorem wordsArrive : Obligations.WordsArrive :=
  ⟨relayWordsArrive, relayWordsLand, boundariesJudged, linkPlanRuns, sidebandArrives⟩

end Sys2Proof.Machine
end

section
/-! Alignments, brakes, settles, turnpike delays and allowances (04 R123 to R125; 10 R295, R299 to R303; 25 R479 to R482). -/
namespace Sys2Proof.Machine

/-! ### Alignments -/

theorem alignmentsEnd_claim : Claims.AlignmentsEnd := by
  rintro s d x rfl
  refine ⟨fun ha hk hs => ?_, fun hn => ?_, fun ha => ?_, fun a ha => ⟨fun hk hs hl => ?_, fun hn => ?_⟩⟩
  · exact congrArg Host.Outcome.next (if_pos (by rw [ha, hs, decide_eq_true hk]; rfl))
  · refine congrArg Host.Outcome.next (if_neg ?_)
    intro h
    obtain ⟨h12, h3⟩ := Bool.and_eq_true_iff.1 h
    obtain ⟨h1, h2⟩ := Bool.and_eq_true_iff.1 h12
    rcases hn with hn | hn | hn
    · rw [hn] at h1
      exact absurd h1 (by decide)
    · exact hn (of_decide_eq_true h2)
    · exact absurd (h3.symm.trans hn) (by decide)
  · change execAlignSlip d s = _
    unfold execAlignSlip
    dsimp only
    rw [ha]
  · have he : exec (.alignSlip d) s = .next ((s.onDie d (fun x => { x with align := none })).record a.pipe
        [{ cause := causeAlign, stream := 0, pc := a.pc, detail := 0, info := BitVec.ofNat 32 a.limit }]) := by
      change execAlignSlip d s = _
      unfold execAlignSlip
      dsimp only
      rw [ha]
      exact congrArg Host.Outcome.next (if_pos ⟨hk, hs, hl⟩)
    refine ⟨_, he, (State.die_setDie ..).trans (if_pos rfl), rfl, ?_⟩
    rw [State.pipe_record, if_pos rfl]
    exact ⟨rfl, rfl, rfl⟩
  · change execAlignSlip d s = _
    unfold execAlignSlip
    dsimp only
    rw [ha]
    refine congrArg Host.Outcome.next (if_neg ?_)
    rintro ⟨h1, h2, h3⟩
    rcases hn with h | h | h
    · exact h h1
    · exact absurd (h2.symm.trans h) (by decide)
    · exact h h3

/-! ### Brakes -/

/-- What a held cycle of a brake does to the die (10 R300, R302). -/
theorem Die.brakeCycle_tickOn (x : Die) :
    (x.brakeCycle.tickOn true).tick = x.tick + 1 ∧ (x.brakeCycle.tickOn true).absorbed = x.absorbed + 1 ∧
    (x.brakeCycle.tickOn true).atk = x.atk ∧ (x.brakeCycle.tickOn true).held = x.heldOf (x.atk + 1) + 1 ∧
    (x.brakeCycle.tickOn true).heldAt = x.atk + 1 := by
  have hatk : x.tick + 1 - (x.absorbed + 1) = x.atk := by
    unfold Die.atk
    bv_omega
  unfold Die.brakeCycle Die.heldOf
  dsimp only
  by_cases hc : x.heldAt = x.atk + 1
  · by_cases hh : x.held = 0
    · rw [if_neg (fun h => h.2 hh), if_pos hc, hh]
      exact ⟨rfl, rfl, hatk, rfl, rfl⟩
    · rw [if_pos ⟨hc, hh⟩, if_pos hc]
      exact ⟨rfl, rfl, hatk, rfl, hc⟩
  · rw [if_neg (fun h => hc h.1), if_neg hc]
    exact ⟨rfl, rfl, hatk, rfl, rfl⟩

theorem State.die_brakeCycle (s : State) (d : Nat) :
    ((s.onDie d Die.brakeCycle).holdCycle d).die d = (s.die d).brakeCycle.tickOn true := by
  unfold State.holdCycle
  rw [State.die_onDie, if_pos rfl, State.die_onDie, if_pos rfl]

theorem execBrakeLimit_of_kind {s : State} {d w : Nat} (h : s.nextKind d = .brakeLimit w) :
    ∃ held : Option Nat, execBrakeLimit d s = .next ((((s.onDie d Die.brakeCycle).holdCycle d).record
      (d * 32 + ((List.range 32).find? (fun i =>
        ((layOf (s.lays ((s.partOf d).getD 0)) w).getD (LayDesc.ofWords [])).pipes.getLsbD i)).getD 0)
      [{ cause := causeBrakeLimit, stream := 0, pc := (((s.die d).layRec w).getD { opened := 0 }).closePc, detail := 0,
         info := BitVec.ofNat 32 w }]).conclude
      (d * 32 + ((List.range 32).find? (fun i =>
        ((layOf (s.lays ((s.partOf d).getD 0)) w).getD (LayDesc.ofWords [])).pipes.getLsbD i)).getD 0)
      (((s.onDie d Die.brakeCycle).holdCycle d).now d + 1) held) := by
  refine ⟨some ((s.die d).held + 32), ?_⟩
  unfold execBrakeLimit
  rw [h]

/-- A pipeline that takes a detection and records what it has gathered has detected something, keeps its registers, and, where it had
gathered and recorded nothing, has recorded that detection (09 R288). -/
theorem State.record_conclude (s : State) (g : Nat) (td : Tick) (held : Option Nat) (e : Det) :
    (((s.record g [e]).conclude g td held).pipe g).detected.isSome = true ∧
    (((s.record g [e]).conclude g td held).pipe g).regs = (s.pipe g).regs ∧
    ((s.pipe g).cyc.dets = [] → (s.pipe g).detected = none →
      (((s.record g [e]).conclude g td held).pipe g).detected = some (td, e)) := by
  have hp : (s.record g [e]).pipe g = (s.pipe g).detect [e] := by rw [State.pipe_record, if_pos rfl]
  have hds : ((s.record g [e]).pipe g).cyc.dets = (s.pipe g).cyc.dets ++ [e] := by rw [hp]; rfl
  have hne : ((s.record g [e]).pipe g).cyc.dets ≠ [] := by simp [hds]
  obtain ⟨c, hcm, hc, -⟩ := leastDet_spec hne
  obtain ⟨b, hq⟩ := State.pipe_conclude (td := td) (held := held) hc
  rw [hq]
  refine ⟨rfl, by rw [hp]; rfl, fun h0 hd => ?_⟩
  have hce : c = e := by
    rw [hds, h0] at hcm
    exact List.mem_singleton.1 hcm
  have hr : ((s.record g [e]).pipe g).reflects td c = (td, c) := by
    unfold Pipe.reflects
    have hd' : ((s.record g [e]).pipe g).detected = none := by rw [hp]; exact hd
    rw [hd']
  change some _ = _
  rw [hr, hce]

theorem execBrakeRelease_iff (s : State) (d : Nat) {isOver : Prop} (h : isOver ↔ (s.die d).heldAt = (s.die d).atk + 1 ∧
      (s.die d).held ≠ 0 ∧ s.brakeTotal ((s.partOf d).getD 0) d ((s.die d).atk + 1) ≠ some none ∧
      (∀ m : Nat, s.brakeTotal ((s.partOf d).getD 0) d ((s.die d).atk + 1) = some (some m) → m ≤ (s.die d).held) ∧
      (s.part ((s.partOf d).getD 0)).run.frozenDies.contains d = false ∧
      (s.part ((s.partOf d).getD 0)).run.heldFreeze ((s.die d).atk + 1) (s.die d).held = none) :
    (isOver → execBrakeRelease d s = .next (s.setDie d { s.die d with holdDone := true })) ∧
    (¬ isOver → execBrakeRelease d s = .next s) := by
  have hend : ∀ c : Bool, (c = true ↔ s.brakeTotal ((s.partOf d).getD 0) d ((s.die d).atk + 1) ≠ some none ∧
      ∀ m : Nat, s.brakeTotal ((s.partOf d).getD 0) d ((s.die d).atk + 1) = some (some m) → m ≤ (s.die d).held) →
      (isOver ↔ (s.die d).heldAt = (s.die d).atk + 1 ∧ (s.die d).held ≠ 0 ∧ c = true ∧
        (s.part ((s.partOf d).getD 0)).run.frozenDies.contains d = false ∧
        ((s.part ((s.partOf d).getD 0)).run.heldFreeze ((s.die d).atk + 1) (s.die d).held).isNone = true) := by
    intro c hc
    rw [hc, Option.isNone_iff_eq_none, and_assoc]
    exact h
  unfold execBrakeRelease
  dsimp only
  cases hb : s.brakeTotal ((s.partOf d).getD 0) d ((s.die d).atk + 1) with
  | none =>
    have hi := hend true (by rw [hb]; simp)
    exact ⟨fun ho => congrArg Host.Outcome.next (if_pos (hi.1 ho)), fun ho => congrArg Host.Outcome.next (if_neg (ho ∘ hi.2))⟩
  | some o =>
    cases o with
    | none =>
      have hi := hend false (by rw [hb]; simp)
      exact ⟨fun ho => congrArg Host.Outcome.next (if_pos (hi.1 ho)), fun ho => congrArg Host.Outcome.next (if_neg (ho ∘ hi.2))⟩
    | some m =>
      have hi := hend (decide (m ≤ (s.die d).held)) (by rw [hb]; simp)
      exact ⟨fun ho => congrArg Host.Outcome.next (if_pos (hi.1 ho)), fun ho => congrArg Host.Outcome.next (if_neg (ho ∘ hi.2))⟩

theorem brakesHold_claim : Claims.BrakesHold := by
  rintro s d k x n rfl rfl rfl
  refine ⟨fun hk => ?_, fun hk => ?_, fun isOver h => execBrakeRelease_iff s d h, fun w q l r hk hl hr hq => ?_, fun hk => ?_⟩
  · refine ⟨_, congrArg Host.Outcome.next (if_pos hk), ?_⟩
    rw [State.die_brakeCycle]
    obtain ⟨ht, ha, hatk, hh, hat⟩ := Die.brakeCycle_tickOn (s.die d)
    exact ⟨ht, ha, hatk, hh, hat, rfl, rfl⟩
  · exact congrArg Host.Outcome.next (if_neg hk)
  · obtain ⟨held, he⟩ := execBrakeLimit_of_kind hk
    rw [hl, hr] at he
    simp only [Option.getD_some] at he
    rw [hq] at he
    simp only [Option.getD_some] at he
    have hd := State.die_brakeCycle s d
    obtain ⟨ht, ha, hatk, -, hat⟩ := Die.brakeCycle_tickOn (s.die d)
    have hpipe : ((s.onDie d Die.brakeCycle).holdCycle d).pipe (d * 32 + q) = s.pipe (d * 32 + q) := rfl
    have hnow : ((s.onDie d Die.brakeCycle).holdCycle d).now d = (s.die d).atk := by
      rw [← hatk, ← hd]
      rfl
    obtain ⟨s1, hs1⟩ : ∃ s1, s1 = (s.onDie d Die.brakeCycle).holdCycle d := ⟨_, rfl⟩
    rw [← hs1] at he hd hpipe hnow
    rw [hnow] at he
    obtain ⟨e, hce⟩ : ∃ e : Det, e = ⟨causeBrakeLimit, 0, r.closePc, 0, BitVec.ofNat 32 w, none⟩ := ⟨_, rfl⟩
    rw [← hce] at he
    have hrec := (State.recorded_record s1 (d * 32 + q) [e]).trans
      (State.recorded_conclude _ (d * 32 + q) ((s.die d).atk + 1) held)
    obtain ⟨h1, h2, h3⟩ := State.record_conclude s1 (d * 32 + q) ((s.die d).atk + 1) held e
    rw [hpipe] at h2 h3
    refine ⟨_, he, ?_⟩
    rw [hrec.die, hd]
    exact ⟨ht, ha, hatk, hat, h1, h2, fun hd hn => (h3 hd hn).trans (by rw [hce]; rfl)⟩
  · change execBrakeLimit d s = _
    unfold execBrakeLimit
    split
    · next w h => exact absurd h (hk w)
    · rfl

/-! ### Settles and turnpike delays -/

/-- One layover of LAYOVER_SETTLE on die `d`, which stood as `x`. -/
def State.settleLay (x : Die) (d : Nat) (s : State) (e : Nat × LayDesc) : State :=
  match x.layRec e.1 with
  | some r =>
    if r.settled = false ∧ r.closed.isSome = true ∧ r.unsettled e.2 x.atk = false then
      let s1 := s.onDie d (fun y => { y with lays := y.lays.set e.1 { r with settled := true } })
      if e.2.nsen && e.2.dies.getLsbD d then
        { s1 with evs := s1.evs ++ [{ kind := .notice, coach := e.2.ncoach, line := e.2.nsettle, lid := 0, src := 0, srcBar := 0 }] }
      else s1
    else s
  | none => s

/-- The layover of `e` settles on a die that stands as `x`, its record being `r` (10 R299). -/
def Die.Settles (x : Die) (e : Nat × LayDesc) (r : LayRec) : Prop :=
  x.layRec e.1 = some r ∧ r.settled = false ∧ r.closed.isSome = true ∧ r.unsettled e.2 x.atk = false

theorem Die.layRec_set (x : Die) (w v : Nat) (r : LayRec) :
    ({ x with lays := x.lays.set w r } : Die).layRec v = if v = w then some r else x.layRec v := by
  unfold Die.layRec
  by_cases h : v = w
  · subst h
    rw [if_pos rfl]
    change Option.map _ ((x.lays.set v r).find? _) = _
    rw [SMap.find?_set]
    rfl
  · rw [if_neg h]
    change Option.map _ ((x.lays.set w r).find? _) = _
    have hb : (w == v) = false := beq_false_of_ne (Ne.symm h)
    rw [SMap.find?_set_of_not _ _ _ (fun e => e.1 == v) hb (fun _ _ => hb)]

/-- The notice of a settled layover (10 R303). -/
def LayDesc.settleNotice (e : LayDesc) : EvMsg :=
  { kind := .notice, coach := e.ncoach, line := e.nsettle, lid := 0, src := 0, srcBar := 0 }

/-- What one layover of LAYOVER_SETTLE may change: records of layovers on the die, and events sent. -/
theorem State.settleLay_spec (x : Die) (d : Nat) (s : State) (e : Nat × LayDesc) :
    (∃ ds es, s.settleLay x d e = { s with dies := ds, evs := s.evs ++ es }) ∧ ((s.settleLay x d e).die d).post = (s.die d).post ∧
    (∀ w, ((s.settleLay x d e).die d).layRec w = (s.die d).layRec w ∨ ∃ r, e.1 = w ∧ x.Settles e r ∧
      ((s.settleLay x d e).die d).layRec w = some { r with settled := true }) ∧
    (∀ r, x.Settles e r → ((s.settleLay x d e).die d).layRec e.1 = some { r with settled := true } ∧
      (e.2.nsen = true → e.2.dies.getLsbD d = true → e.2.settleNotice ∈ (s.settleLay x d e).evs)) := by
  by_cases hs : ∃ r, x.Settles e r
  · obtain ⟨r, hr, hc⟩ := hs
    have hu : ∀ r', x.Settles e r' → r' = r := fun r' h => Option.some.inj (h.1.symm.trans hr)
    have hd : ∃ es, s.settleLay x d e = { s.onDie d (fun y => { y with lays := y.lays.set e.1 { r with settled := true } }) with
        evs := s.evs ++ es } ∧ (e.2.nsen = true → e.2.dies.getLsbD d = true → e.2.settleNotice ∈ es) := by
      unfold State.settleLay
      rw [hr]
      dsimp only
      rw [if_pos hc]
      by_cases hb : (e.2.nsen && e.2.dies.getLsbD d) = true
      · rw [if_pos hb]
        exact ⟨_, rfl, fun _ _ => List.mem_singleton.2 rfl⟩
      · rw [if_neg hb]
        exact ⟨[], by rw [List.append_nil]; rfl, fun h1 h2 => absurd (by rw [h1, h2]; rfl) hb⟩
    obtain ⟨es, he, hes⟩ := hd
    have hdie : (s.settleLay x d e).die d =
        { s.die d with lays := (s.die d).lays.set e.1 { r with settled := true } } := by
      rw [he]
      exact (State.die_setDie ..).trans (if_pos rfl)
    refine ⟨⟨_, es, he⟩, by rw [hdie], fun w => ?_, fun r' h => ?_⟩
    · rw [hdie, Die.layRec_set]
      by_cases hw : w = e.1
      · exact Or.inr ⟨r, hw.symm, ⟨hr, hc⟩, if_pos hw⟩
      · exact Or.inl (if_neg hw)
    · rw [hu r' h, hdie, Die.layRec_set]
      exact ⟨if_pos rfl, fun h1 h2 => by rw [he]; exact List.mem_append_right _ (hes h1 h2)⟩
  · have he : s.settleLay x d e = s := by
      unfold State.settleLay
      cases hr : x.layRec e.1 with
      | none => rfl
      | some r => exact if_neg (fun h => hs ⟨r, hr, h⟩)
    rw [he]
    exact ⟨⟨s.dies, [], by rw [List.append_nil]⟩, rfl, fun _ => Or.inl rfl, fun r h => absurd ⟨r, h⟩ hs⟩

theorem State.foldl_settleLay_spec (x : Die) (d : Nat) (ls : SMap LayDesc) (s : State) :
    (∃ ds es, ls.foldl (State.settleLay x d) s = { s with dies := ds, evs := s.evs ++ es }) ∧
    ((ls.foldl (State.settleLay x d) s).die d).post = (s.die d).post ∧
    (∀ w, ((ls.foldl (State.settleLay x d) s).die d).layRec w = (s.die d).layRec w ∨ ∃ e ∈ ls, ∃ r, e.1 = w ∧ x.Settles e r ∧
      ((ls.foldl (State.settleLay x d) s).die d).layRec w = some { r with settled := true }) ∧
    (∀ e ∈ ls, ∀ r, x.Settles e r → ((ls.foldl (State.settleLay x d) s).die d).layRec e.1 = some { r with settled := true } ∧
      (e.2.nsen = true → e.2.dies.getLsbD d = true → e.2.settleNotice ∈ (ls.foldl (State.settleLay x d) s).evs)) := by
  induction ls generalizing s with
  | nil => exact ⟨⟨s.dies, [], by rw [List.append_nil]; rfl⟩, rfl, fun _ => Or.inl rfl, fun _ h => absurd h List.not_mem_nil⟩
  | cons a ls ih =>
    obtain ⟨⟨ds, es, h1⟩, h2, h3, h4⟩ := State.settleLay_spec x d s a
    obtain ⟨⟨ds', es', i1⟩, i2, i3, i4⟩ := ih (s.settleLay x d a)
    rw [List.foldl_cons]
    refine ⟨⟨ds', es ++ es', ?_⟩, i2.trans h2, fun w => ?_, fun e he r hr => ?_⟩
    · rw [i1, h1, ← List.append_assoc]
    · rcases i3 w with h | ⟨e, he, r, h⟩
      · rw [h]
        exact (h3 w).imp_right (fun ⟨r, hr⟩ => ⟨a, List.mem_cons_self, r, hr⟩)
      · exact Or.inr ⟨e, List.mem_cons_of_mem _ he, r, h⟩
    · rcases List.mem_cons.1 he with rfl | he
      · obtain ⟨j1, j2⟩ := h4 r hr
        refine ⟨?_, fun hn hd => ?_⟩
        · rcases i3 e.1 with h | ⟨e', -, r', hw, hr', h⟩
          · rw [h, j1]
          · have : r' = r := by
              obtain ⟨hr1, -⟩ := hr
              obtain ⟨hr2, -⟩ := hr'
              rw [hw] at hr2
              exact Option.some.inj (hr2.symm.trans hr1)
            rw [h, this]
        · rw [i1]
          exact List.mem_append_left _ (j2 hn hd)
      · exact i4 e he r hr

/-- Allowances set one after another leave the last. -/
theorem Die.foldl_allow (cs : List (Tick × Bool × Nat × Nat)) (x : Die) :
    ∃ ta lb, cs.foldl (fun y c => y.allow c.2.2.1 c.2.2.2) x = x.allow ta lb ∧
      (ta, lb) = ((cs.map (fun c => c.2.2)).getLast?).getD (x.ta, x.lb) := by
  induction cs generalizing x with
  | nil => exact ⟨x.ta, x.lb, rfl, rfl⟩
  | cons c cs ih =>
    obtain ⟨ta, lb, h, hl⟩ := ih (x.allow c.2.2.1 c.2.2.2)
    refine ⟨ta, lb, h, hl.trans ?_⟩
    rw [List.map_cons, List.getLast?_cons]
    rfl

theorem settlesAndDelaysEnd_claim : Claims.SettlesAndDelaysEnd := by
  rintro s d x ls now rfl rfl hnow
  refine ⟨?_, fun hx hk => ?_, fun hn => ?_⟩
  · obtain ⟨⟨ds, es, h1⟩, h2, h3, h4⟩ := State.foldl_settleLay_spec (s.die d) d (s.lays ((s.partOf d).getD 0)) s
    have he : exec (.layoverSettle d) s =
        .next ((s.lays ((s.partOf d).getD 0)).foldl (State.settleLay (s.die d) d) s) := rfl
    refine ⟨_, he, by rw [h1], by rw [h1], h2, fun w hw => ?_, fun w e r hm hr hn => ?_⟩
    · rcases h3 w with h | ⟨e, hm, r, hw', ⟨hr, hs⟩, -⟩
      · exact h
      · rw [hw'] at hr
        exact absurd ((hnow r e.2).2 hs) (hw e hm hw' r hr)
    · exact h4 (w, e) hm r ⟨hr, (hnow r e).1 hn⟩
  · obtain ⟨ta, lb, hf, hl⟩ := Die.foldl_allow ((s.die d).changes.filter (fun c => c.2.1))
      { s.die d with changes := (s.die d).changes.filter (fun c => !c.2.1) }
    refine ⟨_, congrArg Host.Outcome.next (if_pos (by simp [hx, hk])), ?_⟩
    have hd : (s.onDie d (fun x => { x.applyChanges (fun c => c.2.1) with delay := none })).die d =
        { s.die d with changes := (s.die d).changes.filter (fun c => !c.2.1), ta := ta, lb := lb, delay := none } := by
      rw [State.die_onDie, if_pos rfl]
      unfold Die.applyChanges
      rw [hf]
      rfl
    rw [hd]
    exact ⟨rfl, rfl, rfl, rfl, rfl, rfl, hl⟩
  · refine congrArg Host.Outcome.next (if_neg ?_)
    rcases hn with h | h <;> simp [h]

/-! ### Allowances -/

/-- A change sent to a partition is carried once for each of its dies (25 R480). -/
theorem State.sendChange_spec (s : State) (k ta lb : Nat) :
    ∃ (c : Tick × Bool × Nat × Nat) (ds : SMap Die), s.sendChange k ta lb = { s with dies := ds, free := s.free + 1 } ∧ c.2.2 = (ta, lb) ∧
      ((s.die ((s.part k).dies.headD 0)).delay = none → c.2.1 = false ∧ ∃ n : Nat, n < 2 ^ 62 ∧
        c.1 = (s.die ((s.part k).dies.headD 0)).atk + 64 + BitVec.ofNat 64 n) ∧
      (∀ h : Nat, (s.die ((s.part k).dies.headD 0)).delay = some h → c.2.1 = true ∧ c.1 = BitVec.ofNat 64 (h + 31)) ∧
      ∀ e, (s.sendChange k ta lb).die e = { s.die e with
        changes := (s.die e).changes ++ List.replicate ((s.part k).dies.count e) c } := by
  have hfold : ∀ c : Tick × Bool × Nat × Nat, ∃ ds,
      (s.part k).dies.foldl (fun s d => s.onDie d (fun x => { x with changes := x.changes ++ [c] })) s.drawn =
        { s with dies := ds, free := s.free + 1 } ∧
      ∀ e, ((s.part k).dies.foldl (fun s d => s.onDie d (fun x => { x with changes := x.changes ++ [c] })) s.drawn).die e =
        { s.die e with changes := (s.die e).changes ++ List.replicate ((s.part k).dies.count e) c } := by
    intro c
    obtain ⟨ds, h⟩ := State.foldl_onDie_eq (s.part k).dies (fun _ x => { x with changes := x.changes ++ [c] }) s.drawn
    refine ⟨ds, h, fun e => ?_⟩
    rw [State.die_foldl_onDie]
    change Nat.repeat _ _ (s.die e) = _
    obtain ⟨n, hn⟩ : ∃ n, n = (s.part k).dies.count e := ⟨_, rfl⟩
    rw [← hn]
    clear hn
    induction n with
    | zero => rw [List.replicate_zero, List.append_nil]; rfl
    | succ n ih =>
      rw [Nat.repeat, ih, List.replicate_succ', ← List.append_assoc]
  unfold State.sendChange
  dsimp only
  cases hd : (s.die ((s.part k).dies.headD 0)).delay with
  | none =>
    obtain ⟨ds, h1, h2⟩ := hfold ((s.die ((s.part k).dies.headD 0)).atk + 64 + BitVec.ofNat 64 (s.freeVal % 2 ^ 62), false, ta, lb)
    exact ⟨_, ds, h1, rfl, fun _ => ⟨rfl, _, Nat.mod_lt _ (by decide), rfl⟩, fun h hh => absurd hh (by simp), h2⟩
  | some h =>
    obtain ⟨ds, h1, h2⟩ := hfold (BitVec.ofNat 64 (h + 31), true, ta, lb)
    exact ⟨_, ds, h1, rfl, fun hh => absurd hh (by simp), fun h' hh => by cases hh; exact ⟨rfl, rfl⟩, h2⟩

/-- The turn of die `d` in the split of a cap of `watts` (25 R479). -/
def State.splitTo (watts : Nat) (s : State) (d : Nat) : State :=
  let ta := if 2800 ≤ watts then 60 else s.freeVal % 61
  let lb := if 2800 ≤ watts then 268435456 else Config.freeNat (s.free + 1) % 268435457
  let s2 : State := { s with free := s.free + 2 }
  match s2.partOf d with
  | none => s2.onDie d (fun x => x.allow ta lb)
  | some k => if (s2.part k).dies.headD 0 = d then s2.sendChange k ta lb else s2

/-- The turn of a die changes allowances and sends changes alone; a die of no partition takes its allowance, and no other die's
changes at once. -/
theorem State.splitTo_spec (watts : Nat) (s : State) (d : Nat) :
    (∃ ds n, s.splitTo watts d = { s with dies := ds, free := n }) ∧
    (∀ e, e ≠ d → ((s.splitTo watts d).die e).ta = (s.die e).ta ∧ ((s.splitTo watts d).die e).lb = (s.die e).lb) ∧
    (2800 ≤ watts → s.partOf d = none → ((s.splitTo watts d).die d).ta = 60 ∧ ((s.splitTo watts d).die d).lb = 268435456) := by
  obtain ⟨ta, hta⟩ : ∃ ta, ta = if 2800 ≤ watts then 60 else s.freeVal % 61 := ⟨_, rfl⟩
  obtain ⟨lb, hlb⟩ : ∃ lb, lb = if 2800 ≤ watts then 268435456 else Config.freeNat (s.free + 1) % 268435457 := ⟨_, rfl⟩
  obtain ⟨s2, hs2⟩ : ∃ s2 : State, s2 = { s with free := s.free + 2 } := ⟨_, rfl⟩
  have he : s.splitTo watts d = match s.partOf d with
      | none => s2.onDie d (fun x => x.allow ta lb)
      | some k => if (s.part k).dies.headD 0 = d then s2.sendChange k ta lb else s2 := by
    rw [hs2, hta, hlb]
    rfl
  rw [he]
  cases hp : s.partOf d with
  | none =>
    refine ⟨⟨_, _, by rw [hs2]; rfl⟩, fun e hne => ?_, fun hw _ => ?_⟩
    · simp only [State.die_onDie, if_neg hne]
      rw [hs2]
      exact ⟨rfl, rfl⟩
    · simp only [State.die_onDie, if_true]
      exact ⟨hta.trans (if_pos hw), hlb.trans (if_pos hw)⟩
  | some k =>
    dsimp only
    by_cases hh : (s.part k).dies.headD 0 = d
    · rw [if_pos hh]
      obtain ⟨c, ds, hs, -, -, -, hd⟩ := State.sendChange_spec s2 k ta lb
      refine ⟨⟨ds, _, by rw [hs, hs2]⟩, fun e _ => ?_, fun _ h => absurd h (by simp)⟩
      rw [hd e, hs2]
      exact ⟨rfl, rfl⟩
    · rw [if_neg hh, hs2]
      exact ⟨⟨_, _, rfl⟩, fun _ _ => ⟨rfl, rfl⟩, fun _ h => absurd h (by simp)⟩

theorem State.foldl_splitTo_spec (watts : Nat) (l : List Nat) (s : State) :
    (∃ ds n, l.foldl (State.splitTo watts) s = { s with dies := ds, free := n }) ∧
    (∀ e, e ∉ l → ((l.foldl (State.splitTo watts) s).die e).ta = (s.die e).ta ∧
      ((l.foldl (State.splitTo watts) s).die e).lb = (s.die e).lb) ∧
    (2800 ≤ watts → ∀ e ∈ l, s.partOf e = none → ((l.foldl (State.splitTo watts) s).die e).ta = 60 ∧
      ((l.foldl (State.splitTo watts) s).die e).lb = 268435456) := by
  induction l generalizing s with
  | nil => exact ⟨⟨s.dies, s.free, rfl⟩, fun _ _ => ⟨rfl, rfl⟩, fun _ _ h => absurd h List.not_mem_nil⟩
  | cons d l ih =>
    obtain ⟨⟨ds, n, h1⟩, h2, h3⟩ := State.splitTo_spec watts s d
    obtain ⟨⟨ds', n', i1⟩, i2, i3⟩ := ih (s.splitTo watts d)
    have hpart : ∀ e, (s.splitTo watts d).partOf e = s.partOf e := fun e => by rw [h1]; rfl
    rw [List.foldl_cons]
    refine ⟨⟨ds', n', by rw [i1, h1]⟩, fun e he => ?_, fun hw e he hp => ?_⟩
    · obtain ⟨a1, a2⟩ := i2 e (fun h => he (List.mem_cons_of_mem _ h))
      obtain ⟨b1, b2⟩ := h2 e (fun h => he (h ▸ List.mem_cons_self))
      exact ⟨a1.trans b1, a2.trans b2⟩
    · by_cases hl : e ∈ l
      · exact i3 hw e hl ((hpart e).trans hp)
      · obtain ⟨a1, a2⟩ := i2 e hl
        have hed : e = d := (List.mem_cons.1 he).resolve_right hl
        subst hed
        obtain ⟨b1, b2⟩ := h3 hw hp
        exact ⟨a1.trans b1, a2.trans b2⟩

theorem allowancesChange_claim : Claims.AllowancesChange := by
  intro s d ta lb watts
  have hcap : exec (.powerCap watts) s = .next ((if s.fw.active then List.range 16 else []).foldl (State.splitTo watts)
      { s with fw := { s.fw with capWatts := Nat.min watts 2800 } }) := rfl
  refine ⟨fun ha => ⟨?_, ?_⟩, fun ha hp => ?_, ?_, ?_⟩
  · exact congrArg Host.Outcome.next (if_neg (by simp [ha]))
  · rw [hcap, ha]
    rfl
  · refine congrArg Host.Outcome.next ((if_pos ha).trans ?_)
    rw [hp]
    rfl
  · rintro k x ha hp rfl
    obtain ⟨c, ds, h1, h2, h3, h4, h5⟩ := State.sendChange_spec s k ta lb
    refine ⟨s.sendChange k ta lb, c, ?_, h2, h3, h4, fun e => ?_, by rw [h1], by rw [h1]⟩
    · refine congrArg Host.Outcome.next ((if_pos ha).trans ?_)
      rw [hp]
    · rw [h5 e]
      exact ⟨rfl, rfl, rfl⟩
  · obtain ⟨⟨ds, n, h1⟩, -, h3⟩ := State.foldl_splitTo_spec watts (if s.fw.active then List.range 16 else [])
      { s with fw := { s.fw with capWatts := Nat.min watts 2800 } }
    refine ⟨_, hcap, by rw [h1], by rw [h1], by rw [h1], fun ha hw e he hp => h3 hw e ?_ hp⟩
    rw [if_pos ha]
    exact List.mem_range.2 he

/-- Settles O43: alignments and brakes by the branches of their events; settles and the cap's split by an induction over the
layovers and the dies; a delay's end because allowances set one after another leave the last. -/
theorem holdsEnd : Obligations.HoldsEnd :=
  ⟨alignmentsEnd_claim, brakesHold_claim, settlesAndDelaysEnd_claim, allowancesChange_claim⟩

end Sys2Proof.Machine

end

section
/-! A freeze takes effect: what is captured, what the save areas take, and how a frozen launch ends (09 R288; 19 R405, R411,
R413; 22 R455; 23 R463). -/
namespace Sys2Proof.Machine

/-! ### Writes to a save area change memory alone -/

theorem State.vaStore_eq {s t : State} {k va fuel : Nat} {bs : List Byte} (h : s.vaStore k va fuel bs = .ok t) :
    ∃ m b, t = { s with mem := m, bad := b } := by
  induction fuel generalizing s va bs with
  | zero =>
    injection h with h
    exact ⟨s.mem, s.bad, h.symm⟩
  | succ f ih =>
    unfold State.vaStore at h
    split at h
    · injection h with h
      exact ⟨s.mem, s.bad, h.symm⟩
    · dsimp only at h
      split at h
      · exact absurd h (by simp)
      · obtain ⟨m, b, ht⟩ := ih h
        exact ⟨m, b, ht⟩

theorem State.writeFrame_eq {s t : State} {k pos : Nat} {bl : List (Nat × List Byte)} (h : s.writeFrame k pos bl = .ok t) :
    ∃ m b, t = { s with mem := m, bad := b } := by
  induction bl generalizing s with
  | nil =>
    injection h with h
    exact ⟨s.mem, s.bad, h.symm⟩
  | cons a bl ih =>
    unfold State.writeFrame at h
    split at h
    · exact absurd h (by simp)
    · next s1 hs =>
      obtain ⟨m, b, h1⟩ := State.vaStore_eq hs
      obtain ⟨m', b', h2⟩ := ih h
      exact ⟨m', b', by rw [h2, h1]⟩

theorem State.writeFrames_eq (s : State) (k : Nat) (fe : Tick) (gs : List (Nat × Nat)) :
    ∃ m b, (s.writeFrames k fe gs).1 = { s with mem := m, bad := b } := by
  unfold State.writeFrames
  induction gs generalizing s with
  | nil => exact ⟨s.mem, s.bad, rfl⟩
  | cons a gs ih =>
    unfold State.eachPlace
    split
    · exact ⟨s.mem, s.bad, rfl⟩
    · next s1 hs =>
      have h1 : ∃ m b, s1 = { s with mem := m, bad := b } := by
        unfold State.writeFrameOf at hs
        split at hs
        · exact absurd hs (by simp)
        · exact State.writeFrame_eq hs
      obtain ⟨m, b, h1⟩ := h1
      obtain ⟨m', b', h2⟩ := ih s1
      exact ⟨m', b', by rw [h2, h1]⟩

theorem State.setStates_eq (s : State) (k v : Nat) : ∃ m b, s.setStates k v = { s with mem := m, bad := b } := by
  unfold State.setStates
  generalize List.range (s.part k).pipes.length = l
  induction l generalizing s with
  | nil => exact ⟨s.mem, s.bad, rfl⟩
  | cons a l ih =>
    rw [List.foldl_cons]
    split
    · next t ht =>
      obtain ⟨m, b, h1⟩ := State.vaStore_eq ht
      obtain ⟨m', b', h2⟩ := ih t
      exact ⟨m', b', by rw [h2, h1]⟩
    · exact ih s

theorem State.tellDomain_eq (s : State) (k : Nat) (kind : NoticeKind) (pkg : Nat) (a : Tick) :
    ∃ ns, s.tellDomain k kind pkg a = { s with notices := ns } := by
  unfold State.tellDomain
  split
  · exact ⟨_, rfl⟩
  · exact ⟨s.notices, rfl⟩

/-! ### A launch that ends at its fe -/

/-- What a freeze leaves of a pipeline's detections and of what it had in flight. -/
def Pipe.left (p : Pipe) : Option (Tick × Det) × Word × List Flight × List TWrite × List HbmOp :=
  (p.detected, p.csr.faultInfo, p.fly.res, p.fly.writes, p.fly.hbm)

theorem Pipe.left_stopped (n : Nat) (p : Pipe) : (Nat.repeat Pipe.stopped n p).left = p.left :=
  iterate_keeps (part := Pipe.left) (f := Pipe.stopped) (fun _ => rfl) n p

theorem State.run_endTimed (s : State) (k : Nat) (status : JobStatus) (reason : Nat) (detail : Word) :
    ((s.endTimed k status reason detail).part k).run.phase = .complete := by
  obtain ⟨u, -, -, fl, he⟩ := s.endTimed_eq k status reason detail
  rw [he, State.part_onRun, if_pos rfl]
  rfl

theorem State.left_endTimed (s : State) (k : Nat) (status : JobStatus) (reason : Nat) (detail : Word) (g : Nat) :
    ((s.endTimed k status reason detail).pipe g).left = (s.pipe g).left := by
  obtain ⟨u, -, hp, fl, he⟩ := s.endTimed_eq k status reason detail
  rw [he]
  change (u.pipe g).left = _
  rw [hp g, Pipe.left_stopped]

theorem State.abortTimed_spec (s : State) (k reason : Nat) (detail : Word) :
    ((s.abortTimed k reason detail).part k).run.phase = .complete ∧
    ∀ g, ((s.abortTimed k reason detail).pipe g).left = (s.pipe g).left :=
  ⟨State.run_endTimed .., fun g => State.left_endTimed _ k .aborted reason detail g⟩

theorem State.endFrozen_spec (s : State) (k reason : Nat) (detail : Word) :
    ((s.endFrozen k reason detail).part k).run.phase = .complete ∧
    ∀ g, ((s.endFrozen k reason detail).pipe g).left = (s.pipe g).left := by
  obtain ⟨m, b, h1⟩ := s.setStates_eq k 3
  obtain ⟨ns, h2⟩ := (s.setStates k 3).tellDomain_eq k .abort s.fw.pkg.toNat ((s.part k).run.fe.getD 0)
  unfold State.endFrozen
  obtain ⟨ha, hb⟩ := State.abortTimed_spec ((s.setStates k 3).tellDomain k .abort s.fw.pkg.toNat ((s.part k).run.fe.getD 0)) k reason detail
  refine ⟨ha, fun g => (hb g).trans ?_⟩
  rw [h2, h1]
  rfl

/-! ### The notice and the frames -/

/-- FREEZE_NOTICE: of a launch that is frozen with a notice, the chain is told, or the launch ends (19 R413). -/
theorem execFreezeNotice_told {s : State} {k i t0 : Nat} (h1 : (s.part k).run.phase = .frozen) (h2 : (s.part k).run.notice = true)
    (hc : s.chainFrom (s.part k).run.sup 0 = some (i, t0)) :
    execFreezeNotice k s = match s.homeOf t0 with
      | some x => .next ((s.onRun k (fun r => { r with notice := false })).onCtx (coachOf t0) x
          (fun q => q.onThread (localOf t0) (fun th => { th with ext := th.ext ++ [s.firstInfo k] })))
      | none => .next (s.onRun k (fun r => { r with notice := false })) := by
  unfold execFreezeNotice
  dsimp only
  rw [if_pos ⟨h1, h2⟩, hc] <;> rfl

theorem execFreezeNotice_unheard {s : State} {k : Nat} (h1 : (s.part k).run.phase = .frozen) (h2 : (s.part k).run.notice = true)
    (hc : s.chainFrom (s.part k).run.sup 0 = none) :
    execFreezeNotice k s = .next ((s.box (dieOfCoach (s.part k).run.sup) boxFreeze (.die (dieOfCoach (s.part k).run.sup))
      (s.firstInfo k)).endFrozen k 17 (s.firstInfo k)) := by
  unfold execFreezeNotice
  dsimp only
  rw [if_pos ⟨h1, h2⟩, hc]

theorem execFreezeNotice_idle {s : State} {k : Nat} (h : (s.part k).run.phase ≠ .frozen ∨ (s.part k).run.notice = false) :
    execFreezeNotice k s = .next s := by
  refine if_neg (fun hc => ?_)
  obtain ⟨h1, h2⟩ := hc
  rcases h with h | h
  · exact h h1
  · exact absurd (h2.symm.trans h) (by decide)

theorem State.by_next {s t : State} {f : State → Out} (h : f s = .next t) : s.by f = t := by
  unfold State.by
  rw [h]

/-- The notice keeps what the freeze left of the pipelines, and leaves the launch frozen or ends it. -/
theorem State.by_freezeNotice (s : State) (k : Nat) :
    (((s.by (execFreezeNotice k)).part k).run.phase = (s.part k).run.phase ∨
      ((s.by (execFreezeNotice k)).part k).run.phase = .complete) ∧
    ∀ g, ((s.by (execFreezeNotice k)).pipe g).left = (s.pipe g).left := by
  by_cases h : (s.part k).run.phase = .frozen ∧ (s.part k).run.notice = true
  · obtain ⟨h1, h2⟩ := h
    cases hc : s.chainFrom (s.part k).run.sup 0 with
    | none =>
      rw [State.by_next (execFreezeNotice_unheard h1 h2 hc)]
      obtain ⟨u, hu⟩ : ∃ u, u = s.box (dieOfCoach (s.part k).run.sup) boxFreeze (.die (dieOfCoach (s.part k).run.sup)) (s.firstInfo k) :=
        ⟨_, rfl⟩
      have hp : ∀ g, u.pipe g = s.pipe g := fun g => by rw [hu]; rfl
      rw [← hu]
      obtain ⟨ha, hb⟩ := State.endFrozen_spec u k 17 (s.firstInfo k)
      exact ⟨Or.inr ha, fun g => (hb g).trans (by rw [hp g])⟩
    | some e =>
      obtain ⟨i, t0⟩ := e
      have hpart : ((s.onRun k (fun r => { r with notice := false })).part k).run.phase = (s.part k).run.phase := by
        rw [State.part_onRun, if_pos rfl]
      have he := execFreezeNotice_told h1 h2 hc
      cases hh : s.homeOf t0 with
      | none =>
        rw [hh] at he
        rw [State.by_next he]
        exact ⟨Or.inl hpart, fun _ => rfl⟩
      | some x =>
        rw [hh] at he
        rw [State.by_next he]
        exact ⟨Or.inl hpart, fun _ => rfl⟩
  · have hi : (s.part k).run.phase ≠ .frozen ∨ (s.part k).run.notice = false := by
      rcases Classical.em ((s.part k).run.phase = .frozen) with hp | hp
      · exact Or.inr (Bool.eq_false_iff.2 (fun hn => h ⟨hp, hn⟩))
      · exact Or.inl hp
    rw [State.by_next (execFreezeNotice_idle hi)]
    exact ⟨Or.inl rfl, fun _ => rfl⟩

theorem State.saveFrames_spec (s : State) (k : Nat) :
    (((s.saveFrames k).part k).run.phase = .frozen ∨ ((s.saveFrames k).part k).run.phase = .complete) ∧
    ∀ g, ((s.saveFrames k).pipe g).left = (s.pipe g).left := by
  obtain ⟨m, b, hw⟩ := s.writeFrames_eq k ((s.part k).run.fe.getD 0) (s.part k).places
  unfold State.saveFrames
  dsimp only
  rcases hr : s.writeFrames k ((s.part k).run.fe.getD 0) (s.part k).places with ⟨s1, _ | ⟨g0, a⟩⟩
  · replace hw : s1 = { s with mem := m, bad := b } := by rw [← hw, hr]
    obtain ⟨h1, h2⟩ := State.by_freezeNotice ((s1.onRun k (fun r => { r with phase := .frozen, notice := true })).boxFrozen k) k
    have hph : (((s1.onRun k (fun r => { r with phase := .frozen, notice := true })).boxFrozen k).part k).run.phase = .frozen := by
      change ((s1.onRun k (fun r => { r with phase := .frozen, notice := true })).part k).run.phase = .frozen
      rw [State.part_onRun, if_pos rfl]
    refine ⟨h1.imp_left (·.trans hph), fun g => (h2 g).trans ?_⟩
    change (s1.pipe g).left = _
    rw [hw]
    rfl
  · replace hw : s1 = { s with mem := m, bad := b } := by rw [← hw, hr]
    obtain ⟨fw, hc⟩ := (s1.boxFrozen k).countUnc_eq (.pipe g0)
    obtain ⟨h1, h2⟩ := State.abortTimed_spec ((s1.boxFrozen k).countUnc (.pipe g0)) k 12 (BitVec.ofNat 64 a)
    refine ⟨Or.inr h1, fun g => (h2 g).trans ?_⟩
    rw [hc]
    change (s1.pipe g).left = _
    rw [hw]
    rfl

/-! ### Everything stops and is captured -/

theorem foldl_keeps_prop {σ α : Type} {P : σ → Prop} {f : σ → α → σ} (keep : ∀ s a, P s → P (f s a)) (l : List α) {s : σ}
    (h : P s) : P (l.foldl f s) := by
  induction l generalizing s with
  | nil => exact h
  | cons a l ih => exact ih (keep s a h)

/-- A fold whose steps keep `P h` for every `h`, and make `P g` at `g`, makes `P g` of every `g` in the list. -/
theorem foldl_reaches {σ : Type} {P : Nat → σ → Prop} {f : σ → Nat → σ} (keep : ∀ s g h, P h s → P h (f s g))
    (make : ∀ s g, P g (f s g)) (l : List Nat) (s : σ) : ∀ g ∈ l, P g (l.foldl f s) := by
  induction l generalizing s with
  | nil => exact fun g h => absurd h List.not_mem_nil
  | cons a l ih =>
    intro g hg
    rw [List.foldl_cons]
    rcases List.mem_cons.1 hg with rfl | h
    · exact foldl_keeps_prop (fun q b => keep q b _) l (make s _)
    · exact ih (f s a) g h

theorem State.countTable_eq (s : State) (l : List Nat) : ∃ fw, s.countTable l = { s with fw := fw } := by
  unfold State.countTable
  generalize l.filter (fun a => s.damaged a 8) = l
  induction l generalizing s with
  | nil => exact ⟨s.fw, rfl⟩
  | cons a l ih =>
    obtain ⟨fw, h⟩ := s.countUnc_eq (physSource a)
    obtain ⟨fw', h'⟩ := ih (s.countUnc (physSource a))
    exact ⟨fw', by rw [List.foldl_cons, h', h]⟩

/-- A pipeline stops, and its walks and transfers read all that they still have to. -/
def State.stopPipe (k cause : Nat) (s : State) (g : Nat) : State := (s.onPipe g (fun p => p.froze cause)).finishReads k g

/-- A pipeline's flight and the words on their way to it are captured. -/
def State.capturePipe (k : Nat) (fe : Tick) (s : State) (g : Nat) : State := (s.onPipe g (fun p => p.capture fe)).captureWords k g fe

theorem State.stopPipe_spec (k cause : Nat) (s : State) (g : Nat) :
    (∃ ps fw, s.stopPipe k cause g = { s with pipes := ps, fw := fw }) ∧ (∀ h, h ≠ g → (s.stopPipe k cause g).pipe h = s.pipe h) ∧
    ((s.stopPipe k cause g).pipe g).detected = (s.pipe g).detected ∧
    ((s.stopPipe k cause g).pipe g).csr = ((s.pipe g).froze cause).csr := by
  obtain ⟨fw, hc⟩ := (s.onPipe g (fun p => p.froze cause)).countTable_eq
    ((s.onPipe g (fun p => p.froze cause)).restReads ((s.onPipe g (fun p => p.froze cause)).part k).root g (fun _ => true))
  have hfz : ((s.pipe g).froze cause).detected = (s.pipe g).detected := by
    unfold Pipe.froze
    split <;> rfl
  have hpg : ∀ h, ({ s.onPipe g (fun p => p.froze cause) with fw := fw } : State).pipe h =
      if h = g then (s.pipe g).froze cause else s.pipe h := fun h => State.pipe_setPipe ..
  unfold State.stopPipe State.finishReads
  dsimp only
  rw [hc]
  refine ⟨⟨_, _, rfl⟩, fun h hh => ?_, ?_, ?_⟩
  · exact (State.pipe_setPipe ..).trans ((if_neg hh).trans ((hpg h).trans (if_neg hh)))
  · refine (congrArg Pipe.detected ((State.pipe_setPipe ..).trans (if_pos rfl))).trans ?_
    change (State.pipe _ g).detected = _
    rw [hpg g, if_pos rfl, hfz]
  · refine (congrArg Pipe.csr ((State.pipe_setPipe ..).trans (if_pos rfl))).trans ?_
    change (State.pipe _ g).csr = _
    rw [hpg g, if_pos rfl]

theorem Pipe.setQueue_parts (p : Pipe) (n : Nat) (l : List (QEntry VWord)) :
    (p.setQueue n l).detected = p.detected ∧ (p.setQueue n l).csr = p.csr := by
  unfold Pipe.setQueue
  dsimp only
  split
  · exact ⟨rfl, rfl⟩
  · split <;> exact ⟨rfl, rfl⟩

theorem Pipe.presentOnly_parts (p : Pipe) (fe : Tick) :
    (p.presentOnly fe).detected = p.detected ∧ (p.presentOnly fe).csr = p.csr := by
  unfold Pipe.presentOnly
  exact ⟨foldl_keeps Pipe.detected _ _ _ (fun q _ _ => (q.setQueue_parts _ _).1),
    foldl_keeps Pipe.csr _ _ _ (fun q _ _ => (q.setQueue_parts _ _).2)⟩

theorem Pipe.left_capture (p : Pipe) (fe : Tick) : (p.capture fe).left = (p.detected, p.csr.faultInfo, [], [], []) := by
  obtain ⟨hd, hc⟩ := p.presentOnly_parts fe
  unfold Pipe.capture Pipe.left
  dsimp only
  rw [hd, hc]

theorem State.captureWords_spec (s : State) (k g : Nat) (fe : Tick) :
    (∃ ps ws ls, s.captureWords k g fe = { s with pipes := ps, words := ws, linkWords := ls }) ∧
    (∀ h, h ≠ g → (s.captureWords k g fe).pipe h = s.pipe h) ∧ ((s.captureWords k g fe).pipe g).left = (s.pipe g).left := by
  unfold State.captureWords
  dsimp only
  refine ⟨⟨_, _, _, rfl⟩, fun h hh => (State.pipe_setPipe ..).trans (if_neg hh), ?_⟩
  rw [State.pipe_setPipe, if_pos rfl]
  rfl

theorem State.capturePipe_spec (k : Nat) (fe : Tick) (s : State) (g : Nat) :
    (∃ ps ws ls, s.capturePipe k fe g = { s with pipes := ps, words := ws, linkWords := ls }) ∧
    (∀ h, h ≠ g → (s.capturePipe k fe g).pipe h = s.pipe h) ∧
    ((s.capturePipe k fe g).pipe g).left = ((s.pipe g).detected, (s.pipe g).csr.faultInfo, [], [], []) := by
  unfold State.capturePipe
  obtain ⟨⟨ps, ws, ls, h1⟩, h2, h3⟩ := (s.onPipe g (fun p => p.capture fe)).captureWords_spec k g fe
  have hp : ∀ h, (s.onPipe g (fun p => p.capture fe)).pipe h = if h = g then (s.pipe g).capture fe else s.pipe h := fun h =>
    State.pipe_setPipe ..
  refine ⟨⟨ps, ws, ls, h1⟩, fun h hh => ?_, ?_⟩
  · rw [h2 h hh, hp h, if_neg hh]
  · rw [h3, hp g, if_pos rfl, Pipe.left_capture]

/-- The cause of a partition's first detection, 0 where there is none. -/
def TimedRun.firstCause (r : TimedRun) : Nat :=
  match r.first with
  | some (_, d) => d.cause
  | none => 0

theorem State.freezeNow_eq (s : State) (k : Nat) :
    s.freezeNow k = ((s.part k).pipes.foldl (State.capturePipe k ((s.part k).run.fe.getD 0))
      ((s.part k).pipes.foldl (State.stopPipe k (s.part k).run.firstCause) s)).saveFrames k := rfl

theorem Pipe.froze_detected {p : Pipe} {c : Nat} (h : p.detected.isSome = true) : p.froze c = p := if_pos h

theorem Pipe.froze_undetected {p : Pipe} {c : Nat} (h : p.detected = none) :
    (p.froze c).csr.faultInfo = BitVec.ofNat 64 c := by
  unfold Pipe.froze
  rw [h]
  rfl

/-- A freeze leaves the launch frozen or ended, keeps every detection and the FAULT_INFO of a pipeline that has made one, leaves
nothing in flight in the partition's pipelines, and gives the others of them the cause of the first detection (09 R288; 19 R405). -/
theorem State.freezeNow_spec (s : State) (k : Nat) :
    (((s.freezeNow k).part k).run.phase = .frozen ∨ ((s.freezeNow k).part k).run.phase = .complete) ∧
    (∀ g, (s.pipe g).detected.isSome = true → ((s.freezeNow k).pipe g).csr.faultInfo = (s.pipe g).csr.faultInfo) ∧
    (∀ g ∈ (s.part k).pipes, (((s.freezeNow k).pipe g).fly.res = [] ∧ ((s.freezeNow k).pipe g).fly.writes = [] ∧
        ((s.freezeNow k).pipe g).fly.hbm = []) ∧
      ((s.pipe g).detected = none → ((s.freezeNow k).pipe g).csr.faultInfo = BitVec.ofNat 64 (s.part k).run.firstCause)) := by
  obtain ⟨c, hc⟩ : ∃ c, c = (s.part k).run.firstCause := ⟨_, rfl⟩
  obtain ⟨fe, hfe⟩ : ∃ fe, fe = (s.part k).run.fe.getD 0 := ⟨_, rfl⟩
  rw [State.freezeNow_eq, ← hc, ← hfe]
  have hcap : ∀ (q : State) (g h : Nat), ((q.capturePipe k fe g).pipe h).detected = (q.pipe h).detected ∧
      ((q.capturePipe k fe g).pipe h).csr.faultInfo = (q.pipe h).csr.faultInfo := by
    intro q g h
    obtain ⟨-, h1, h2⟩ := State.capturePipe_spec k fe q g
    by_cases hh : h = g
    · subst hh
      exact ⟨congrArg (fun x => x.1) h2, congrArg (fun x => x.2.1) h2⟩
    · rw [h1 h hh]
      exact ⟨rfl, rfl⟩
  have hstop : ∀ (q : State) (g h : Nat), ((q.stopPipe k c g).pipe h).detected = (q.pipe h).detected ∧
      ((q.pipe h).detected.isSome = true → ((q.stopPipe k c g).pipe h).csr.faultInfo = (q.pipe h).csr.faultInfo) ∧
      (h = g → (q.pipe h).detected = none → ((q.stopPipe k c g).pipe h).csr.faultInfo = BitVec.ofNat 64 c) ∧
      (h ≠ g → (q.stopPipe k c g).pipe h = q.pipe h) := by
    intro q g h
    obtain ⟨-, h1, h2, h3⟩ := State.stopPipe_spec k c q g
    by_cases hh : h = g
    · subst hh
      exact ⟨h2, fun hs => by rw [h3, Pipe.froze_detected hs], fun _ hn => by rw [h3, Pipe.froze_undetected hn],
        fun hne => absurd rfl hne⟩
    · rw [h1 h hh]
      exact ⟨rfl, fun _ => rfl, fun he => absurd he hh, fun _ => rfl⟩
  obtain ⟨l, hl⟩ : ∃ l, l = (s.part k).pipes := ⟨_, rfl⟩
  rw [← hl]
  obtain ⟨hph, hsave⟩ := State.saveFrames_spec (l.foldl (State.capturePipe k fe) (l.foldl (State.stopPipe k c) s)) k
  have hdet : ∀ g, ((l.foldl (State.stopPipe k c) s).pipe g).detected = (s.pipe g).detected := fun g =>
    foldl_keeps (fun q : State => (q.pipe g).detected) _ _ _ (fun q a _ => (hstop q a g).1)
  have hfin : ∀ g, ((l.foldl (State.capturePipe k fe) (l.foldl (State.stopPipe k c) s)).pipe g).csr.faultInfo =
      ((l.foldl (State.stopPipe k c) s).pipe g).csr.faultInfo := fun g =>
    foldl_keeps (fun q : State => (q.pipe g).csr.faultInfo) _ _ _ (fun q a _ => (hcap q a g).2)
  refine ⟨hph, fun g hg => ?_, fun g hg => ⟨?_, fun hn => ?_⟩⟩
  · refine (congrArg (fun x => x.2.1) (hsave g)).trans ((hfin g).trans ?_)
    have : ∀ (l : List Nat) (q : State), (q.pipe g).detected.isSome = true →
        ((l.foldl (State.stopPipe k c) q).pipe g).csr.faultInfo = (q.pipe g).csr.faultInfo := by
      intro l
      induction l with
      | nil => exact fun _ _ => rfl
      | cons a l ih =>
        intro q hq
        obtain ⟨h1, h2, -, -⟩ := hstop q a g
        rw [List.foldl_cons, ih _ (by rw [h1]; exact hq), h2 hq]
    exact this l s hg
  · have hE := foldl_reaches (P := fun g (q : State) => (q.pipe g).fly.res = [] ∧ (q.pipe g).fly.writes = [] ∧ (q.pipe g).fly.hbm = [])
      (f := State.capturePipe k fe) (fun q a h hh => by
        obtain ⟨-, h1, h2⟩ := State.capturePipe_spec k fe q a
        by_cases he : h = a
        · subst he
          exact ⟨congrArg (fun x => x.2.2.1) h2, congrArg (fun x => x.2.2.2.1) h2, congrArg (fun x => x.2.2.2.2) h2⟩
        · rw [h1 h he]
          exact hh) (fun q a => by
        obtain ⟨-, -, h2⟩ := State.capturePipe_spec k fe q a
        exact ⟨congrArg (fun x => x.2.2.1) h2, congrArg (fun x => x.2.2.2.1) h2, congrArg (fun x => x.2.2.2.2) h2⟩)
      l (l.foldl (State.stopPipe k c) s) g hg
    obtain ⟨e1, e2, e3⟩ := hE
    exact ⟨(congrArg (fun x => x.2.2.1) (hsave g)).trans e1, (congrArg (fun x => x.2.2.2.1) (hsave g)).trans e2,
      (congrArg (fun x => x.2.2.2.2) (hsave g)).trans e3⟩
  · refine (congrArg (fun x => x.2.1) (hsave g)).trans ((hfin g).trans ?_)
    have hC := foldl_reaches (P := fun g (q : State) => (q.pipe g).detected = none → (q.pipe g).csr.faultInfo = BitVec.ofNat 64 c)
      (f := State.stopPipe k c) (fun q a h hh hn => by
        obtain ⟨h1, -, h3, h4⟩ := hstop q a h
        rw [h1] at hn
        by_cases he : h = a
        · exact h3 he hn
        · rw [h4 he]
          exact hh hn) (fun q a hn => by
        obtain ⟨h1, -, h3, -⟩ := hstop q a a
        exact h3 rfl (h1 ▸ hn)) l s g hg
    exact hC (by rw [hdet]; exact hn)

/-! ### The claim -/

/-- One entry of the plan that a neighbour reads for die `d` in the cycle `t`. -/
def State.linkSend (r : TimedRun) (d : Nat) (t : Tick) (go : Nat → Bool) (s : State) (e : List Word) : State :=
  let l := bitsOf (wordAt e 1) 34 32
  let dst := bitsOf (wordAt e 2) 31 0
  if dieOfPipe (globalPipe dst) = d ∧ s.fw.lup.getLsbD ((l + 3) % 6) = true ∧ linkOcc e (r.tau t) = true ∧ go l = true then
    { s with free := s.free + 2, linkWords := s.linkWords ++ [⟨l, dst, BitVec.ofNat 2048 s.freeVal, t + 640,
        639 - ((Config.freeNat (s.free + 1) % 2 ^ 31 : Nat) : Int), false, false⟩] }
  else s

/-- What the neighbours' reads of the link plan change: the words on their way and free values (22 R452). -/
theorem State.linkSendsAt_eq (s : State) (k d : Nat) (t : Tick) (go : Nat → Bool) :
    ∃ n ws, s.linkSendsAt k d t go = { s with free := n, linkWords := ws } := by
  have h : ∀ (es : List (List Word)) (u : State), ∃ n ws,
      es.foldl (State.linkSend (s.part k).run d t go) u = { u with free := n, linkWords := ws } := by
    intro es
    induction es with
    | nil => exact fun u => ⟨u.free, u.linkWords, rfl⟩
    | cons e es ih =>
      intro u
      obtain ⟨n, ws, h⟩ := ih (u.linkSend (s.part k).run d t go e)
      have h1 : ∃ n ws, u.linkSend (s.part k).run d t go e = { u with free := n, linkWords := ws } := by
        unfold State.linkSend
        dsimp only
        split
        · exact ⟨_, _, rfl⟩
        · exact ⟨u.free, u.linkWords, rfl⟩
      obtain ⟨n', ws', h'⟩ := h1
      exact ⟨n, ws, by rw [List.foldl_cons, h, h']⟩
  exact h (s.part k).run.links s

/-- The neighbour across link `l` goes on reading its plan until it freezes. -/
def State.linkSidingOf (k : Nat) (fe : Tick) (s : State) (l : Nat) : State :=
  let f := fe + BitVec.ofNat 64 (s.freeVal % 801) - 400
  let s1 := s.drawn.onRun k (fun r => { r with linkUpto := r.linkUpto.set l f })
  if Tick.lt fe f then
    (List.range (f - fe).toNat).foldl (fun s i =>
      (s.part k).dies.foldl (fun s d => s.linkSendsAt k d (fe + BitVec.ofNat 64 i) (fun m => decide (m = l))) s) s1
  else s1

theorem State.linkSidingOf_spec (k : Nat) (fe : Tick) (s : State) (l : Nat) :
    (s.linkSidingOf k fe l).pipes = s.pipes ∧ (s.linkSidingOf k fe l).parts =
      (s.onRun k (fun r => { r with linkUpto := r.linkUpto.set l (fe + BitVec.ofNat 64 (s.freeVal % 801) - 400) })).parts := by
  unfold State.linkSidingOf
  dsimp only
  split
  · have hin : ∀ (q : State) (i : Nat) (ds : List Nat), (ds.foldl (fun s d =>
        s.linkSendsAt k d (fe + BitVec.ofNat 64 i) (fun m => decide (m = l))) q).pipes = q.pipes ∧ (ds.foldl (fun s d =>
        s.linkSendsAt k d (fe + BitVec.ofNat 64 i) (fun m => decide (m = l))) q).parts = q.parts := fun q i ds =>
      ⟨foldl_keeps State.pipes _ _ _ (fun q d _ => by obtain ⟨n, ws, h⟩ := q.linkSendsAt_eq k d (fe + BitVec.ofNat 64 i)
                                                        (fun m => decide (m = l)); rw [h]),
       foldl_keeps State.parts _ _ _ (fun q d _ => by obtain ⟨n, ws, h⟩ := q.linkSendsAt_eq k d (fe + BitVec.ofNat 64 i)
                                                        (fun m => decide (m = l)); rw [h])⟩
    exact ⟨foldl_keeps State.pipes _ _ _ (fun q i _ => (hin q i _).1), foldl_keeps State.parts _ _ _ (fun q i _ => (hin q i _).2)⟩
  · exact ⟨rfl, rfl⟩

theorem State.linkSiding_spec (s : State) (k : Nat) (fe : Tick) :
    (∀ g, (s.linkSiding k fe).pipe g = s.pipe g) ∧ ((s.linkSiding k fe).part k).pipes = (s.part k).pipes ∧
    ((s.linkSiding k fe).part k).run.first = (s.part k).run.first := by
  unfold State.linkSiding
  split
  · have hp : ∀ (q : State) (l : Nat), (q.linkSidingOf k fe l).part k = { q.part k with
        run := { (q.part k).run with
          linkUpto := (q.part k).run.linkUpto.set l (fe + BitVec.ofNat 64 (q.freeVal % 801) - 400) } } := by
      intro q l
      refine (congrArg (fun m : SMap Partition => m.get k {}) (q.linkSidingOf_spec k fe l).2).trans ?_
      exact (State.part_onRun ..).trans (if_pos rfl)
    refine ⟨fun g => ?_, ?_, ?_⟩
    · exact foldl_keeps (fun q : State => q.pipe g) (State.linkSidingOf k fe) (List.range 6) s (fun q l _ =>
        congrArg (fun m : SMap Pipe => m.get g {}) (q.linkSidingOf_spec k fe l).1)
    · exact foldl_keeps (fun q : State => (q.part k).pipes) (State.linkSidingOf k fe) (List.range 6) s (fun q l _ => by
        change ((q.linkSidingOf k fe l).part k).pipes = _
        rw [hp q l]
        rfl)
    · exact foldl_keeps (fun q : State => (q.part k).run.first) (State.linkSidingOf k fe) (List.range 6) s (fun q l _ => by
        change ((q.linkSidingOf k fe l).part k).run.first = _
        rw [hp q l])
  · exact ⟨fun _ => rfl, rfl, rfl⟩

theorem freezesTakeEffect_claim : Claims.FreezesTakeEffect := by
  rintro s k x r rfl rfl
  refine ⟨fun hp ha => ?_, fun hn => ?_, fun hp hno => ⟨fun i t0 c y hc hcc hy => ?_, fun hc => ?_⟩, fun hn => execFreezeNotice_idle hn⟩
  · obtain ⟨l1, l2, l3⟩ := s.linkSiding_spec k ((s.part k).run.fe.getD 0)
    obtain ⟨h1, h2, h3⟩ := (s.linkSiding k ((s.part k).run.fe.getD 0)).freezeNow_spec k
    refine ⟨_, congrArg Host.Outcome.next (if_pos ⟨hp, ha⟩), h1, fun g hg => ?_⟩
    obtain ⟨⟨e1, e2, e3⟩, h4⟩ := h3 g (by rw [l2]; exact hg)
    rw [l1 g] at h4
    refine ⟨e1, e2, e3, fun hd => (h2 g (by rw [l1 g]; exact hd)).trans (by rw [l1 g]), fun q e hf hd => (h4 hd).trans ?_⟩
    unfold TimedRun.firstCause
    rw [l3, hf]
  · refine congrArg Host.Outcome.next (if_neg (fun h => ?_))
    obtain ⟨h1, h2⟩ := h
    rcases hn with h | h
    · exact h h1
    · exact absurd (h2.symm.trans h) (by decide)
  · have he := execFreezeNotice_told hp hno hc
    rw [hy] at he
    refine ⟨_, he, ?_, rfl, ?_⟩
    · change ((s.onRun k (fun r => { r with notice := false })).part k).run = _
      rw [State.part_onRun, if_pos rfl]
    · rw [hcc, State.ctx_onCtx, if_pos ⟨rfl, rfl⟩]
      unfold Context.onThread
      rw [SMap.get_set, if_pos rfl]
      rfl
  · exact ⟨_, execFreezeNotice_unheard hp hno hc, (State.endFrozen_spec _ k 17 _).1⟩

end Sys2Proof.Machine

end

section
/-! A timed launch starts, is asked to freeze, forms its domain and ends its restart (03 R72; 10 R300, R305, R306; 16 R366;
19 R411, R414; 22 R446, R449, R453). -/
namespace Sys2Proof.Machine

/-! ### Dies start -/

/-- The streams of a pipeline start at the cycle `n`. -/
def Pipe.started (n : Tick) (p : Pipe) : Pipe :=
  { p with c := { p.c with run := true, next := n }, l := { p.l with run := true, next := n }, x := { p.x with run := true, next := n },
           s := { p.s with run := true, next := n } }

/-- The boards and layovers of a die are empty as its launch starts. -/
def Die.started (n : Tick) (y : Die) : Die :=
  { y with lays := [], post := [], badPost := [], holders := [], align := none, aligns := [], delay := none, held := 0, chan := [],
           chanDone := n, atFe := false }

/-- Die `d` starts the launch `r` of partition `k` (16 R366). -/
def State.startDie (k : Nat) (r : TimedRun) (s : State) (d : Nat) : State :=
  (pipesOfDie d).foldl (fun s g => s.onPipe g (Pipe.started r.atk0))
    ((s.onRun k (fun q => { q with phase := .running, started := q.started ++ [d] })).onDie d (Die.started r.atk0))

theorem State.pipe_startDie (k : Nat) (r : TimedRun) (s : State) (d g : Nat) :
    (s.startDie k r d).pipe g = Nat.repeat (Pipe.started r.atk0) ((pipesOfDie d).count g) (s.pipe g) := State.pipe_foldl_onPipe ..

theorem State.startDie_eq (k : Nat) (r : TimedRun) (s : State) (d : Nat) :
    ∃ ps, s.startDie k r d = { (s.onRun k (fun q => { q with phase := .running, started := q.started ++ [d] })).onDie d
      (Die.started r.atk0) with pipes := ps } := State.foldl_onPipe_eq _ (fun _ => Pipe.started r.atk0) _

/-- Every stream of the pipeline runs from the cycle `n`. -/
def Pipe.Runs (n : Tick) (p : Pipe) : Prop :=
  p.c.run = true ∧ p.l.run = true ∧ p.x.run = true ∧ p.s.run = true ∧ p.c.next = n ∧ p.l.next = n ∧ p.x.next = n ∧ p.s.next = n

theorem Pipe.runs_iterate {n : Tick} {p : Pipe} (m : Nat) (h : p.Runs n ∨ m ≠ 0) : (Nat.repeat (Pipe.started n) m p).Runs n := by
  cases m with
  | zero => exact h.resolve_right (fun h => h rfl)
  | succ m =>
    exact ⟨rfl, rfl, rfl, rfl, rfl, rfl, rfl, rfl⟩

theorem State.die_startDie (k : Nat) (r : TimedRun) (s : State) (d e : Nat) :
    (s.startDie k r d).die e = if e = d then Die.started r.atk0 (s.die d) else s.die e := by
  obtain ⟨ps, h⟩ := State.startDie_eq k r s d
  rw [h]
  exact State.die_setDie ..

theorem State.run_startDie (k : Nat) (r : TimedRun) (s : State) (d : Nat) :
    ((s.startDie k r d).part k).run.phase = .running ∧
    ((s.startDie k r d).part k).run.started = (s.part k).run.started ++ [d] := by
  obtain ⟨ps, h⟩ := State.startDie_eq k r s d
  obtain ⟨u, hu⟩ : ∃ u, u = s.onRun k (fun q => { q with phase := .running, started := q.started ++ [d] }) := ⟨_, rfl⟩
  have hp : (s.startDie k r d).part k = u.part k := by rw [h, ← hu]; rfl
  rw [hp, hu, State.part_onRun, if_pos rfl]
  exact ⟨rfl, rfl⟩

theorem execTimedGlobalStart_eq (s : State) (k : Nat) :
    execTimedGlobalStart k s = .next ((if (s.part k).run.phase = .loading ∨ (s.part k).run.phase = .running then
      (s.part k).dies.filter (fun d => decide (s.now d = (s.part k).run.atk0) && !((s.part k).run.started.contains d)) else []).foldl
        (State.startDie k (s.part k).run) s) := rfl

theorem diesStart_claim : Claims.DiesStart := by
  rintro s k x r rfl rfl
  refine ⟨fun d hp hd hn hs => ?_, fun hno => ?_⟩
  · have he := execTimedGlobalStart_eq s k
    rw [if_pos hp] at he
    obtain ⟨l, hl⟩ : ∃ l, l = (s.part k).dies.filter (fun d => decide (s.now d = (s.part k).run.atk0) &&
      !((s.part k).run.started.contains d)) := ⟨_, rfl⟩
    rw [← hl] at he
    have hdl : d ∈ l := by
      rw [hl]
      exact List.mem_filter.2 ⟨hd, by rw [decide_eq_true hn, hs]; rfl⟩
    obtain ⟨r, hr⟩ : ∃ r, r = (s.part k).run := ⟨_, rfl⟩
    rw [← hr] at he ⊢
    have hrun := foldl_reaches (P := fun d q => (q.part k).run.phase = .running ∧ d ∈ (q.part k).run.started)
      (f := State.startDie k r) (fun q a h hh => by
        obtain ⟨h1, h2⟩ := State.run_startDie k r q a
        exact ⟨h1, by rw [h2]; exact List.mem_append_left _ hh.2⟩) (fun q a => by
        obtain ⟨h1, h2⟩ := State.run_startDie k r q a
        exact ⟨h1, by rw [h2]; exact List.mem_append_right _ (List.mem_singleton.2 rfl)⟩) l s d hdl
    have hdie := foldl_reaches (P := fun d (q : State) => (q.die d).post = [] ∧ (q.die d).lays = [] ∧ (q.die d).holders = [])
      (f := State.startDie k r) (fun q a h hh => by
        rw [State.die_startDie]
        split
        · exact ⟨rfl, rfl, rfl⟩
        · exact hh) (fun q a => by
        rw [State.die_startDie, if_pos rfl]
        exact ⟨rfl, rfl, rfl⟩) l s d hdl
    have hpipe := foldl_reaches (P := fun d (q : State) => ∀ g ∈ pipesOfDie d, (q.pipe g).Runs r.atk0)
      (f := State.startDie k r) (fun q a h hh g hg => by
        rw [State.pipe_startDie]
        exact Pipe.runs_iterate _ (Or.inl (hh g hg))) (fun q a g hg => by
        rw [State.pipe_startDie]
        exact Pipe.runs_iterate _ (Or.inr (Nat.ne_of_gt (List.count_pos_iff.2 hg)))) l s d hdl
    have hkeep : ∀ g, ((l.foldl (State.startDie k r) s).pipe g).c.pc = (s.pipe g).c.pc ∧
        ((l.foldl (State.startDie k r) s).pipe g).mem = (s.pipe g).mem ∧
        ((l.foldl (State.startDie k r) s).pipe g).regs = (s.pipe g).regs := by
      intro g
      have hq : ∀ (q : State) (a : Nat), ((q.startDie k r a).pipe g).c.pc = (q.pipe g).c.pc ∧
          ((q.startDie k r a).pipe g).mem = (q.pipe g).mem ∧ ((q.startDie k r a).pipe g).regs = (q.pipe g).regs := by
        intro q a
        rw [State.pipe_startDie]
        exact ⟨iterate_keeps (part := fun p : Pipe => p.c.pc) (f := Pipe.started r.atk0) (fun _ => rfl) _ _,
          iterate_keeps (part := Pipe.mem) (f := Pipe.started r.atk0) (fun _ => rfl) _ _,
          iterate_keeps (part := Pipe.regs) (f := Pipe.started r.atk0) (fun _ => rfl) _ _⟩
      exact ⟨foldl_keeps (fun q : State => (q.pipe g).c.pc) _ _ _ (fun q a _ => (hq q a).1),
        foldl_keeps (fun q : State => (q.pipe g).mem) _ _ _ (fun q a _ => (hq q a).2.1),
        foldl_keeps (fun q : State => (q.pipe g).regs) _ _ _ (fun q a _ => (hq q a).2.2)⟩
    obtain ⟨hph, hst⟩ := hrun
    obtain ⟨h1, h2, h3⟩ := hdie
    refine ⟨_, he, hph, hst, ?_, h1, h2, h3, ?_, fun g hg => ?_⟩
    · exact foldl_keeps State.mem _ _ _ (fun q a _ => by
        obtain ⟨ps, h⟩ := State.startDie_eq k r q a
        rw [h]
        rfl)
    · exact foldl_keeps (fun q : State => (q.die d).tick) _ _ _ (fun q a _ => by
        rw [State.die_startDie]
        split
        · next h => rw [h]; rfl
        · rfl)
    · obtain ⟨a1, a2, a3, a4, a5, a6, a7, a8⟩ := hpipe g hg
      exact ⟨a1, a2, a3, a4, a5, a6, a7, a8, hkeep g⟩
  · have he := execTimedGlobalStart_eq s k
    have hnil : (if (s.part k).run.phase = .loading ∨ (s.part k).run.phase = .running then
        (s.part k).dies.filter (fun d => decide (s.now d = (s.part k).run.atk0) && !((s.part k).run.started.contains d)) else []) =
        [] := by
      rcases hno with ⟨h1, h2⟩ | h
      · exact if_neg (fun hc => hc.elim h1 h2)
      · split
        · refine List.filter_eq_nil_iff.2 (fun d hd hc => ?_)
          obtain ⟨h1, h2⟩ := Bool.and_eq_true_iff.1 hc
          rcases h d hd with h | h
          · exact h (of_decide_eq_true h1)
          · rw [h] at h2
            exact absurd h2 (by decide)
        · rfl
    rw [hnil] at he
    exact he

/-! ### Requests to freeze -/

theorem State.mem_planeOps {s : State} {c t : Nat} {a : Access} {p : AccOp → Bool} (h : (t, a) ∈ s.planeOps c p) :
    a ∈ (s.thread t).accs ∧ p a.op = true := by
  unfold State.planeOps at h
  obtain ⟨n, -, hn⟩ := List.mem_flatMap.1 h
  obtain ⟨b, hb, he⟩ := List.mem_map.1 hn
  injection he with h1 h2
  subst h1 h2
  exact ⟨(List.mem_filter.1 hb).1, (List.mem_filter.1 hb).2⟩

/-- A thread with an access outstanding belongs to a context that runs, and completes it there. -/
theorem State.thread_complete {s t : State} {n : Nat} {a : Access} (ha : a ∈ (s.thread n).accs) (hc : t.coaches = s.coaches) (v : Word) :
    (t.onThread n (fun th => th.complete a v)).thread n = (s.thread n).complete a v := by
  have hslot : (s.slotOf n).isSome = true := by
    cases hx : s.slotOf n with
    | some x => rfl
    | none =>
      unfold State.thread at ha
      rw [hx] at ha
      exact absurd ha List.not_mem_nil
  have hth : t.thread n = s.thread n := by
    unfold State.thread
    rw [State.slotOf_congr hc n]
    cases s.slotOf n with
    | none => rfl
    | some x => dsimp only; rw [State.ctx_congr hc]
  rw [State.thread_onThread_same _ ((congrArg Option.isSome (State.slotOf_congr hc n)).trans hslot), hth]

/-- A TFREEZE. -/
def AccOp.isTfreeze (o : AccOp) : Bool :=
  match o with
  | .tfreeze _ => true
  | _ => false

/-- The TFREEZE that has been picked, if any, reaches partition `k` (19 R414). -/
def State.freezeRequest (s : State) (k : Nat) (o : Option (Nat × Access)) : Out :=
  match o with
  | none => .next s
  | some (t, a) =>
    let stg := match a.op with
      | .tfreeze g => g
      | _ => false
    if (s.part k).run.phase = .frozen then .next (s.drawn.onThread t (fun th => th.complete a 1))
    else if (s.part k).run.phase = .running ∨ (s.part k).run.phase = .restarting then
      .next ((s.drawn.onRun k (fun r => { r with ext := r.ext ++ [{ who := t, stg := stg, arrived := true }] })).onThread t
        (fun th => th.complete a 0))
    else .next (s.drawn.onThread t (fun th => th.complete a 0))

theorem execExtRequestArrival_eq (s : State) (k : Nat) :
    execExtRequestArrival k s = s.freezeRequest k ((s.planeOps (s.part k).run.sup AccOp.isTfreeze)[s.freeVal %
      (s.planeOps (s.part k).run.sup AccOp.isTfreeze).length]?) := rfl

theorem freezeRequestsArrive_claim : Claims.FreezeRequestsArrive := by
  intro s k r ps hr hps
  subst hr
  replace hps : ps = s.planeOps (s.part k).run.sup AccOp.isTfreeze := hps
  have heq := execExtRequestArrival_eq s k
  rw [← hps] at heq
  refine ⟨fun hn => ?_, fun hn => ?_⟩
  · rw [hn] at heq
    exact heq
  · obtain ⟨⟨t0, a⟩, hm, hget⟩ := exists_getElem?_mod hn s.freeVal
    obtain ⟨ha, hop⟩ := State.mem_planeOps (hps ▸ hm)
    obtain ⟨g, hg⟩ : ∃ g, a.op = .tfreeze g := by
      cases hop' : a.op with
      | tfreeze g => exact ⟨g, rfl⟩
      | _ => rw [hop'] at hop; exact absurd hop Bool.false_ne_true
    have hex : execExtRequestArrival k s = (if (s.part k).run.phase = .frozen then
          .next (s.drawn.onThread t0 (fun th => th.complete a 1))
        else if (s.part k).run.phase = .running ∨ (s.part k).run.phase = .restarting then
          .next ((s.drawn.onRun k (fun r => { r with ext := r.ext ++ [{ who := t0, stg := g, arrived := true }] })).onThread t0
            (fun th => th.complete a 0))
        else .next (s.drawn.onThread t0 (fun th => th.complete a 0))) := by
      rw [heq, hget]
      unfold State.freezeRequest
      dsimp only
      rw [hg]
    by_cases h1 : (s.part k).run.phase = .frozen
    · rw [if_pos h1] at hex
      obtain ⟨cs, hcs⟩ := s.drawn.onThread_eq_coaches t0 (fun th => th.complete a 1)
      refine ⟨_, t0, a, g, hm, hg, hex, by rw [hcs]; rfl, by rw [hcs]; rfl, ?_, fun h => ?_, fun _ _ => by rw [hcs]; rfl⟩
      · rw [if_pos h1]
        exact State.thread_complete (t := s.drawn) ha rfl 1
      · rw [h1] at h
        exact absurd h (by decide)
    · rw [if_neg h1] at hex
      by_cases h2 : (s.part k).run.phase = .running ∨ (s.part k).run.phase = .restarting
      · rw [if_pos h2] at hex
        obtain ⟨u, hu⟩ : ∃ u, u = s.drawn.onRun k (fun r => { r with ext := r.ext ++ [{ who := t0, stg := g, arrived := true }] }) :=
          ⟨_, rfl⟩
        rw [← hu] at hex
        obtain ⟨cs, hcs⟩ := u.onThread_eq_coaches t0 (fun th => th.complete a 0)
        refine ⟨_, t0, a, g, hm, hg, hex, by rw [hcs, hu]; rfl, by rw [hcs, hu]; rfl, ?_, fun _ => ?_,
          fun h3 h4 => absurd h2 (fun h => h.elim h3 h4)⟩
        · rw [if_neg h1]
          exact State.thread_complete ha (by rw [hu]; rfl) 0
        · have hp : (u.onThread t0 (fun th => th.complete a 0)).part k = u.part k := by rw [hcs]; rfl
          rw [hp, hu, State.part_onRun, if_pos rfl]
          rfl
      · rw [if_neg h2] at hex
        obtain ⟨cs, hcs⟩ := s.drawn.onThread_eq_coaches t0 (fun th => th.complete a 0)
        refine ⟨_, t0, a, g, hm, hg, hex, by rw [hcs]; rfl, by rw [hcs]; rfl, ?_, fun h => absurd h h2, fun _ _ => by rw [hcs]; rfl⟩
        rw [if_neg h1]
        exact State.thread_complete (t := s.drawn) ha rfl 0

/-! ### Restarts -/

theorem Die.layRec_map (x : Die) (f : LayRec → LayRec) (w : Nat) :
    ({ x with lays := x.lays.map (fun e => (e.1, f e.2)) } : Die).layRec w = (x.layRec w).map f := by
  unfold Die.layRec
  dsimp only
  induction x.lays with
  | nil => rfl
  | cons a t ih =>
    rw [List.map_cons, List.find?_cons, List.find?_cons]
    dsimp only
    split
    · rfl
    · exact ih

/-- Die `x` as its restart ends, its brakes apart. -/
def Die.restarted (x : Die) : Die :=
  { x with restart := none, atFe := false, absorbed := if x.atFe then x.absorbed + 1 else x.absorbed }

theorem diesRestart_claim : Claims.DiesRestart := by
  rintro s d k x r rfl rfl rfl
  refine ⟨fun hn => if_neg hn, fun h => ?_⟩
  obtain ⟨z, hz⟩ : ∃ z : Die, z = { (s.die d).restarted with lays := (s.die d).restarted.lays.map (fun e => (e.1,
      e.2.restarted (s.die d).restarted ((s.die d).tick - (s.die d).feTick + (if (s.die d).atFe then 1 else 0)))) } := ⟨_, rfl⟩
  have he : exec (.restart d) s = .next ((s.setDie d z).onRun ((s.partOf d).getD 0) (fun r =>
      { r with frozenDies := r.frozenDies.filter (fun e => !(e == d)),
               phase := if (r.frozenDies.filter (fun e => !(e == d))).isEmpty && decide (r.phase = .restarting) then .running
                 else r.phase })) := by
    rw [hz]
    exact if_pos h
  have hd : ((s.setDie d z).onRun ((s.partOf d).getD 0) (fun r =>
      { r with frozenDies := r.frozenDies.filter (fun e => !(e == d)),
               phase := if (r.frozenDies.filter (fun e => !(e == d))).isEmpty && decide (r.phase = .restarting) then .running
                 else r.phase })).die d = z := (State.die_setDie ..).trans (if_pos rfl)
  have hp := State.part_onRun (s.setDie d z) ((s.partOf d).getD 0) ((s.partOf d).getD 0) (fun r =>
      { r with frozenDies := r.frozenDies.filter (fun e => !(e == d)),
               phase := if (r.frozenDies.filter (fun e => !(e == d))).isEmpty && decide (r.phase = .restarting) then .running
                 else r.phase })
  rw [if_pos rfl] at hp
  refine ⟨_, he, rfl, rfl, by rw [hd, hz]; rfl, fun w l y hl hy => ?_, by rw [hp]; rfl, ?_⟩
  · have hy' : y = (s.die d).restarted := hy
    refine (congrArg (Die.layRec · w) (hd.trans hz)).trans ((Die.layRec_map (s.die d).restarted (fun l => l.restarted (s.die d).restarted
      ((s.die d).tick - (s.die d).feTick + (if (s.die d).atFe then 1 else 0))) w).trans ?_)
    change (((s.die d).layRec w).map _) = _
    rw [hl, hy']
    unfold LayRec.restarted
    simp only [Option.map_some, BitVec.sub_sub]
  · rw [hp]
    change (if _ then _ else _) = (if _ then _ else _)
    exact ite_congr (propext (Bool.and_eq_true_iff.trans (and_congr List.isEmpty_iff decide_eq_true_iff))) (fun _ => rfl) (fun _ => rfl)

/-! ### Domains -/

/-- A bit set where a condition holds. -/
def orBit (b : Nat → Bool) (m : BitVec 6) (i : Nat) : BitVec 6 := if b i then m ||| BitVec.ofNat 6 (2 ^ i) else m

theorem getLsbD_orBit (b : Nat → Bool) (m : BitVec 6) {i l : Nat} (hi : i < 6) (hl : l < 6) :
    (orBit b m i).getLsbD l = (m.getLsbD l || (b i && decide (l = i))) := by
  have hbit : (BitVec.ofNat 6 (2 ^ i)).getLsbD l = decide (l = i) := by
    have : ∀ i l : Fin 6, (BitVec.ofNat 6 (2 ^ i.val)).getLsbD l.val = decide (l.val = i.val) := by decide
    exact this ⟨i, hi⟩ ⟨l, hl⟩
  unfold orBit
  cases b i with
  | false => simp
  | true => simp only [if_true, BitVec.getLsbD_or, hbit, Bool.true_and]

theorem getLsbD_foldl_orBit (b : Nat → Bool) {l : Nat} (hl : l < 6) :
    ((List.range 6).foldl (orBit b) 0).getLsbD l = b l := by
  have h : ∀ (is : List Nat) (m : BitVec 6), (∀ i ∈ is, i < 6) →
      (is.foldl (orBit b) m).getLsbD l = (m.getLsbD l || (b l && decide (l ∈ is))) := by
    intro is
    induction is with
    | nil => intro m _; simp
    | cons i is ih =>
      intro m hm
      rw [List.foldl_cons, ih _ (fun j hj => hm j (List.mem_cons_of_mem _ hj)), getLsbD_orBit b m (hm i List.mem_cons_self) hl]
      by_cases h : l = i
      · subst h
        cases b l <;> simp
      · simp [h]
  rw [h _ _ (fun i hi => List.mem_range.1 hi)]
  simp [hl]

/-- Die `d` agrees with the domain's ATK `a` within 6 cycles (22 R449). -/
def State.agree (a : Tick) (s : State) (d : Nat) : State :=
  s.drawn.onDie d (fun y => { y with absorbed := y.tick - (a + BitVec.ofNat 64 (s.freeVal % 7)) })

/-- The firmware of a package that has joined the domain of the configuration word `w` (22 R446). -/
def Firmware.joined (f : Firmware) (w : Word) (lup : BitVec 6) : Firmware :=
  { f with dx := BitVec.ofNat 2 (bitsOf w 19 18), dy := BitVec.ofNat 2 (bitsOf w 21 20), dz := BitVec.ofNat 2 (bitsOf w 23 22),
           pkg := BitVec.ofNat 6 (bitsOf w 17 12), lup := lup }

/-- The links that join a member of the domain of the configuration word `w` (22 R446). -/
def linksJoined (w : Word) : BitVec 6 :=
  (List.range 6).foldl (orBit (fun l => w.getLsbD (6 + l) &&
    linkMay (bitsOf w (19 + 2 * (l % 3)) (18 + 2 * (l % 3))) (bitsOf w 17 12 / 4 ^ (l % 3) % 4) l)) 0

theorem execDomainFormation_eq (n : Nat) (s : State) : execDomainFormation n s =
    if (List.range 3).all (fun i => dimOk (linksJoined (BitVec.ofNat 64 n)) (bitsOf (BitVec.ofNat 64 n) (19 + 2 * i) (18 + 2 * i)) i) =
        false ∨ s.diesBusy (List.range 16) = true then .next s
    else .next ((List.range 16).foldl (State.agree (BitVec.ofNat 64 s.freeVal))
      ({ s with fw := s.fw.joined (BitVec.ofNat 64 n) (linksJoined (BitVec.ofNat 64 n)) } : State).drawn) := rfl

/-- The dies agree, each within 6 cycles, and nothing else changes. -/
theorem State.foldl_agree_spec (a : Tick) (s : State) :
    (∃ ds n, (List.range 16).foldl (State.agree a) s = { s with dies := ds, free := n }) ∧
    (∀ e, (((List.range 16).foldl (State.agree a) s).die e).tick = (s.die e).tick) ∧
    ∀ e, e < 16 → ∃ j : Nat, j ≤ 6 ∧
      (((List.range 16).foldl (State.agree a) s).die e).absorbed = (s.die e).tick - (a + BitVec.ofNat 64 j) := by
  have hstep : ∀ (q : State) (d e : Nat), (q.agree a d).die e = if e = d then
      { q.die d with absorbed := (q.die d).tick - (a + BitVec.ofNat 64 (q.freeVal % 7)) } else q.die e := fun q d e =>
    State.die_setDie ..
  have htick : ∀ e, (((List.range 16).foldl (State.agree a) s).die e).tick = (s.die e).tick := fun e =>
    foldl_keeps (fun q : State => (q.die e).tick) _ _ _ (fun q d _ => by
      rw [hstep]
      split
      · next h => rw [h]
      · rfl)
  refine ⟨?_, htick, fun e he => ?_⟩
  · generalize List.range 16 = l
    induction l generalizing s with
    | nil => exact ⟨s.dies, s.free, rfl⟩
    | cons d l ih =>
      obtain ⟨ds, n, h⟩ := ih (s.agree a d) (fun e => foldl_keeps (fun q : State => (q.die e).tick) _ _ _ (fun q d _ => by
        rw [hstep]
        split
        · next h => rw [h]
        · rfl))
      exact ⟨ds, n, h⟩
  · obtain ⟨j, hj, h⟩ := foldl_reaches (P := fun e (q : State) => ∃ j : Nat, j ≤ 6 ∧ (q.die e).absorbed = (q.die e).tick -
        (a + BitVec.ofNat 64 j)) (f := State.agree a) (fun q d e hh => by
      rw [hstep]
      split
      · exact ⟨_, Nat.le_of_lt_succ (Nat.mod_lt _ (by decide)), rfl⟩
      · exact hh) (fun q d => by
      rw [hstep, if_pos rfl]
      exact ⟨_, Nat.le_of_lt_succ (Nat.mod_lt _ (by decide)), rfl⟩) (List.range 16) s e (List.mem_range.2 he)
    exact ⟨j, hj, by rw [h, htick]⟩

theorem bitsOf_lt (w : Word) (hi lo : Nat) : bitsOf w hi lo < 2 ^ (hi - lo + 1) := Nat.mod_lt _ (Nat.two_pow_pos _)

theorem domainsFormAndFreeze_claim : Claims.DomainsFormAndFreeze := by
  rintro s k n d x w ext up rfl rfl rfl hext hup
  have hlup : linksJoined (BitVec.ofNat 64 n) = up := by
    refine BitVec.eq_of_getLsbD_eq (fun l hl => ?_)
    unfold linksJoined
    rw [getLsbD_foldl_orBit _ hl, hup l hl, hext]
  have hall : (List.range 3).all (fun i => dimOk (linksJoined (BitVec.ofNat 64 n))
      (bitsOf (BitVec.ofNat 64 n) (19 + 2 * i) (18 + 2 * i)) i) = false ↔ ∃ i, i < 3 ∧ dimOk up (ext i) i = false := by
    rw [hlup, List.all_eq_false]
    simp only [List.mem_range, Bool.not_eq_true, hext]
  refine ⟨fun hp hin hfz => ?_, fun hno => ?_, fun hno => ?_, fun hb hok => ?_⟩
  · have hm : s.freeVal % 64 < 64 := Nat.mod_lt _ (by decide)
    have hcond : (s.part k).run.phase = .running ∧ s.fw.inDomain = true ∧ (s.part k).run.frozenDies.isEmpty = true :=
      ⟨hp, hin, by rw [hfz]; rfl⟩
    obtain ⟨d, hd⟩ : ∃ d, d = (s.part k).dies.headD 0 := ⟨_, rfl⟩
    rw [← hd]
    by_cases hh : (s.die d).inHold.isSome = true
    · have he : exec (.linkFreezeNotice k) s = .next (s.drawn.onRun k (fun r =>
          { r with ext := r.ext ++ [{ who := 0xFFFFF000 + s.freeVal % 64, stg := false, arrived := true }] })) := by
        refine (if_pos hcond).trans (if_pos ?_)
        rw [← hd]
        exact hh
      have hnone : (s.die d).inHold ≠ none := fun h => by rw [h] at hh; exact absurd hh (by decide)
      refine ⟨_, _, he, hm, rfl, fun _ => ⟨rfl, ?_⟩, fun h => absurd h hnone, fun h => absurd h hnone⟩
      rw [State.part_onRun, if_pos rfl]
      rfl
    · obtain ⟨e, hde⟩ : ∃ e : Det, e = ⟨causeExt, 0, 0, 0, BitVec.ofNat 32 (0xFFFFF000 + s.freeVal % 64), none⟩ := ⟨_, rfl⟩
      have he : exec (.linkFreezeNotice k) s = .next (if (s.die d).work.contains (.endPipe (d * 32)) then
          s.drawn.record (d * 32) [e] else (s.drawn.record (d * 32) [e]).conclude (d * 32) (s.now d) none) := by
        rw [hd, hde]
        refine (if_pos hcond).trans (if_neg ?_)
        rw [← hd]
        exact hh
      have hr := (State.recorded_record s.drawn (d * 32) [e])
      by_cases hw : (s.die d).work.contains (.endPipe (d * 32)) = true
      · rw [if_pos hw] at he
        refine ⟨_, _, he, hm, rfl, fun h => absurd h hh, fun _ _ => ?_, fun _ h => absurd (hw.symm.trans h) (by decide)⟩
        rw [State.pipe_record, if_pos rfl, hde]
        rfl
      · rw [if_neg hw] at he
        obtain ⟨ps, pa, ns, fw, hrest⟩ := (hr.trans (State.recorded_conclude _ (d * 32) (s.now d) none)).rest
        refine ⟨_, _, he, hm, by rw [hrest]; rfl, fun h => absurd h hh, fun _ h => absurd h hw, fun _ _ => ?_⟩
        exact (State.record_conclude s.drawn (d * 32) (s.now d) none e).1
  · refine if_neg (fun hc => ?_)
    obtain ⟨h1, h2, h3⟩ := hc
    rcases hno with h | h | h
    · exact h h1
    · exact absurd (h2.symm.trans h) (by decide)
    · exact h (List.isEmpty_iff.1 h3)
  · exact (execDomainFormation_eq n s).trans (if_pos (hno.symm.imp_left hall.2))
  · have he : exec (.domainFormation n) s = .next ((List.range 16).foldl (State.agree (BitVec.ofNat 64 s.freeVal))
        ({ s with fw := s.fw.joined (BitVec.ofNat 64 n) (linksJoined (BitVec.ofNat 64 n)) } : State).drawn) := by
      refine (execDomainFormation_eq n s).trans (if_neg (fun hc => ?_))
      rcases hc with h | h
      · obtain ⟨i, hi, h⟩ := hall.1 h
        exact absurd ((hok i hi).symm.trans h) (by decide)
      · exact absurd (hb.symm.trans h) (by decide)
    obtain ⟨⟨ds, m, h1⟩, h2, h3⟩ := State.foldl_agree_spec (BitVec.ofNat 64 s.freeVal)
      ({ s with fw := s.fw.joined (BitVec.ofNat 64 n) (linksJoined (BitVec.ofNat 64 n)) } : State).drawn
    have hb2 : ∀ v, v < 4 → (BitVec.ofNat 2 v).toNat = v := fun v hv => Nat.mod_eq_of_lt hv
    refine ⟨_, BitVec.ofNat 64 s.freeVal, he, ?_, ?_, ?_, ?_, ?_, by rw [h1]; rfl, by rw [h1]; rfl, h2, h3⟩
    · rw [h1, hext]
      exact hb2 _ (bitsOf_lt _ 19 18)
    · rw [h1, hext]
      exact hb2 _ (bitsOf_lt _ 21 20)
    · rw [h1, hext]
      exact hb2 _ (bitsOf_lt _ 23 22)
    · rw [h1]
      exact Nat.mod_eq_of_lt (bitsOf_lt _ 17 12)
    · rw [h1]
      exact hlup

/-- Settles O44: each event by the branches of its meaning; the starts and the domain's dies by what one step of their folds keeps and
makes; the freeze by what stopping, capturing and the save areas leave of a pipeline. -/
theorem timedLaunchEvents : Obligations.TimedLaunchEvents :=
  ⟨diesStart_claim, freezesTakeEffect_claim, freezeRequestsArrive_claim, domainsFormAndFreeze_claim, diesRestart_claim⟩

end Sys2Proof.Machine

end

section
/-! A resume, the notices of a domain, posts and external interrupts (08 R226; 10 R297, R298; 19 R411, R413; 22 R455). -/
namespace Sys2Proof.Machine

/-! ### A free value drawn changes no frame that is read -/

theorem State.pagedBytes_free (s : State) (k va n f : Nat) :
    ({ s with free := f } : State).pagedBytes k va n = s.pagedBytes k va n := by
  induction n generalizing va with
  | zero => rfl
  | succ n ih =>
    unfold State.pagedBytes
    rw [ih]
    rfl

theorem State.readFrame_free (s : State) (k pos f : Nat) (l : List (Nat × Nat)) :
    ({ s with free := f } : State).readFrame k pos l = s.readFrame k pos l := by
  induction l with
  | nil => rfl
  | cons a l ih =>
    unfold State.readFrame
    rw [ih, State.pagedBytes_free]
    rfl

theorem State.vaRead_free (s : State) (k va f : Nat) : ({ s with free := f } : State).vaRead k va = s.vaRead k va := rfl

theorem State.part_free (s : State) (k f : Nat) : ({ s with free := f } : State).part k = s.part k := rfl

theorem State.imageBad_free (s : State) (k va n f : Nat) :
    ({ s with free := f } : State).imageBad k va n = s.imageBad k va n := by
  unfold State.imageBad
  simp only [State.vaRead_free]

theorem State.imagesBad_free (s : State) (k pos f : Nat) :
    ({ s with free := f } : State).imagesBad k pos = s.imagesBad k pos := by
  unfold State.imagesBad
  dsimp only
  rw [State.part_free, State.imageBad_free s k _ 9 f, State.imageBad_free s k _ 96 f]

theorem State.readFrames_free (s : State) (k f : Nat) (gs : List (Nat × Nat)) :
    ({ s with free := f } : State).readFrames k gs = s.readFrames k gs := by
  unfold State.readFrames
  refine congrFun (congrArg mapOk (funext (fun x => ?_))) gs
  unfold State.readFrameOf
  rw [State.readFrame_free, State.imagesBad_free]

/-! ### What a resume does -/

theorem State.endDamaged_spec (s : State) (k a : Nat) : ((s.endDamaged k a).part k).run.phase = .complete := by
  unfold State.endDamaged
  exact (State.endFrozen_spec (s.countUnc (s.frameSource k a ((s.part k).dies.headD 0 * 32))) k 12 (BitVec.ofNat 64 a)).1

/-- Pipeline `g` has recorded, as its own, what it detected. -/
def Pipe.Recorded (p : Pipe) : Prop := p.detected.isSome = true ∧ p.csr.faultInfo.getLsbD 9 = true

theorem Det.word_local (d : Det) : (d.word true).getLsbD 9 = true := by
  obtain ⟨-, h, -⟩ := d.word_fields _ rfl
  rw [BitVec.getLsbD, Nat.testBit_eq_decide_div_mod_eq, decide_eq_true_iff]
  omega

theorem State.recorded_conclude_pipe (s : State) (g h : Nat) (td : Tick) (held : Option Nat)
    (hr : (s.pipe h).Recorded ∨ (h = g ∧ (s.pipe h).cyc.dets ≠ [])) : ((s.conclude g td held).pipe h).Recorded := by
  by_cases hg : h = g
  · subst hg
    by_cases hn : (s.pipe h).cyc.dets = []
    · rw [State.conclude_none hn]
      exact hr.resolve_right (fun e => e.2 hn)
    · obtain ⟨d, -, hd, -⟩ := leastDet_spec hn
      obtain ⟨b, hp⟩ := State.pipe_conclude (td := td) (held := held) hd
      rw [hp]
      exact ⟨rfl, Det.word_local _⟩
  · rw [State.pipe_conclude_ne s td held hg]
    exact hr.resolve_right (fun e => hg e.1)

/-- Every pipeline of a list that has gathered detections records them. -/
theorem State.foldl_conclude_recorded (l : List Nat) (fe : Tick) (s : State) :
    ∀ g ∈ l, (s.pipe g).cyc.dets ≠ [] → ((l.foldl (fun s g => s.conclude g fe none) s).pipe g).Recorded := by
  induction l generalizing s with
  | nil => exact fun g h => absurd h List.not_mem_nil
  | cons a l ih =>
    intro g hg hd
    have hkeep : ∀ (l : List Nat) (q : State), (q.pipe g).Recorded →
        ((l.foldl (fun s g => s.conclude g fe none) q).pipe g).Recorded := by
      intro l
      induction l with
      | nil => exact fun _ h => h
      | cons b l ih => exact fun q h => ih _ (State.recorded_conclude_pipe q b g fe none (Or.inl h))
    rw [List.foldl_cons]
    by_cases ha : g = a
    · subst ha
      exact hkeep l _ (State.recorded_conclude_pipe s g g fe none (Or.inr ⟨rfl, hd⟩))
    · refine ih _ g ((List.mem_cons.1 hg).resolve_left ha) ?_
      rw [State.pipe_conclude_ne s fe none ha]
      exact hd

/-- What comes of a resume whose frames have been read (19 R411, R413). -/
theorem State.restartFrom_spec (s : State) (k : Nat) (fr : List (Nat × Nat × List (Nat × List Byte))) :
    Claims.restarted (s.caughtUp k fr) (s.restartFrom k fr) k (s.part k) := by
  obtain ⟨c, hc⟩ : ∃ c, c = s.caughtUp k fr := ⟨_, rfl⟩
  obtain ⟨fe, hfe⟩ : ∃ fe, fe = (s.part k).run.fe.getD 0 := ⟨_, rfl⟩
  obtain ⟨fs, hfs⟩ : ∃ fs, fs = (s.part k).pipes.filter (fun g => !((c.pipe g).cyc.dets.isEmpty)) := ⟨_, rfl⟩
  have hmem : ∀ g, g ∈ fs ↔ g ∈ (s.part k).pipes ∧ (c.pipe g).cyc.dets ≠ [] := by
    intro g
    rw [hfs, List.mem_filter]
    refine and_congr_right (fun _ => ?_)
    cases (c.pipe g).cyc.dets with
    | nil => exact ⟨fun h => absurd h (by decide), fun h => absurd rfl h⟩
    | cons a l => exact ⟨fun _ => List.cons_ne_nil _ _, fun _ => rfl⟩
  have heq : s.restartFrom k fr = if fs.isEmpty then
        (((s.part k).dies.foldl (fun s d => s.onDie d (fun y => { y with restart := some 31 })) (c.setStates k 2)).onRun k (fun r =>
          { r with phase := .restarting, fe := none, feHeld := none, notice := false,
                   paced := r.paced || s.fw.inDomain })).tellDomain k .restart s.fw.pkg.toNat fe
      else ((s.part k).dies.foldl (fun s d => s.onDie d (fun y => { y with feTick := y.tick }))
        ((fs.foldl (fun s g => s.conclude g fe none) c).onRun k (fun r =>
          { r with td := some fe, fe := some fe, feHeld := none }))).freezeNow k := by
    rw [hfs, hc, hfe]
    rfl
  rw [heq, ← hc]
  refine ⟨fun hno => ?_, fun ⟨g, hg, hd⟩ => ?_⟩
  · have hnil : fs = [] := List.eq_nil_iff_forall_not_mem.2 (fun g hg => ((hmem g).1 hg).2 (hno g ((hmem g).1 hg).1))
    rw [if_pos (by rw [hnil]; rfl)]
    obtain ⟨m, b, h1⟩ := c.setStates_eq k 2
    obtain ⟨ds, h2⟩ := State.foldl_onDie_eq (s.part k).dies (fun _ y => { y with restart := some 31 }) (c.setStates k 2)
    have hdie := foldl_reaches (P := fun d (q : State) => (q.die d).restart = some 31)
      (f := fun s d => s.onDie d (fun y => { y with restart := some 31 })) (fun q a e he => by
        rw [State.die_onDie]
        split
        · rfl
        · exact he) (fun q a => by rw [State.die_onDie, if_pos rfl]) (s.part k).dies (c.setStates k 2)
    obtain ⟨u, hu⟩ : ∃ u, u = (s.part k).dies.foldl (fun s d => s.onDie d (fun y => { y with restart := some 31 }))
      (c.setStates k 2) := ⟨_, rfl⟩
    rw [← hu] at hdie h2 ⊢
    obtain ⟨v, hv⟩ : ∃ v, v = u.onRun k (fun r => { r with
      phase := .restarting, fe := none, feHeld := none, notice := false, paced := r.paced || s.fw.inDomain }) := ⟨_, rfl⟩
    rw [← hv]
    obtain ⟨ns, h3⟩ := v.tellDomain_eq k .restart s.fw.pkg.toNat fe
    rw [h3]
    change (v.part k).run.phase = _ ∧ (v.part k).run.fe = _ ∧ (∀ d ∈ _, (v.die d).restart = _) ∧ ∀ g, v.pipe g = _
    have hp : (v.part k).run.phase = .restarting ∧ (v.part k).run.fe = none := by
      rw [hv, State.part_onRun, if_pos rfl]
      exact ⟨rfl, rfl⟩
    refine ⟨hp.1, hp.2, fun d hd => ?_, fun g => ?_⟩
    · rw [hv]
      exact hdie d hd
    · rw [hv]
      change u.pipe g = _
      rw [h2, h1]
      rfl
  · have hne : ¬ fs.isEmpty = true := fun h => List.not_mem_nil (List.isEmpty_iff.1 h ▸ (hmem g).2 ⟨hg, hd⟩)
    rw [if_neg hne]
    obtain ⟨ds, h2⟩ := State.foldl_onDie_eq (s.part k).dies (fun _ y => { y with feTick := y.tick })
      ((fs.foldl (fun s g => s.conclude g fe none) c).onRun k (fun r => { r with td := some fe, fe := some fe, feHeld := none }))
    obtain ⟨u, hu⟩ : ∃ u, u = (s.part k).dies.foldl (fun s d => s.onDie d (fun y => { y with feTick := y.tick }))
      ((fs.foldl (fun s g => s.conclude g fe none) c).onRun k (fun r => { r with td := some fe, fe := some fe, feHeld := none })) :=
      ⟨_, rfl⟩
    rw [← hu] at h2 ⊢
    have hp : ∀ g, u.pipe g = (fs.foldl (fun s g => s.conclude g fe none) c).pipe g := fun g => by rw [h2]; rfl
    obtain ⟨f1, f2, -⟩ := u.freezeNow_spec k
    refine ⟨f1, fun g hg hd => ?_⟩
    obtain ⟨r1, r2⟩ := State.foldl_conclude_recorded fs fe c g ((hmem g).2 ⟨hg, hd⟩) hd
    rw [f2 g (by rw [hp g]; exact r1), hp g]
    exact r2

/-- The outcomes of a resume of a frozen launch, by what its frames say (19 R411, R413). -/
theorem State.resume_spec (s : State) (k : Nat) (hp : (s.part k).run.phase = .frozen) :
    (∀ va, s.readFrame k 0 [(0, 64)] = .error va → ((s.resume k).1.part k).run.phase = .complete) ∧
    (∀ (bl : List (Nat × List Byte)) (act : Nat), s.readFrame k 0 [(0, 64)] = .ok bl →
      act = bitsOf (wordAt (wordsOf (blockAt bl 0)) 5) 1 0 →
      (2 ≤ act → s.resume k = (s, 2)) ∧ (act = 1 → ((s.resume k).1.part k).run.phase = .complete) ∧
      (act = 0 → ∀ va, s.readFrames k (s.part k).places = .error va → ((s.resume k).1.part k).run.phase = .complete) ∧
      (act = 0 → ∀ fr, s.readFrames k (s.part k).places = .ok fr → (s.resume k).1 = s.restartFrom k fr)) := by
  unfold State.resume
  dsimp only
  rw [if_pos hp]
  refine ⟨fun va h => ?_, fun bl act h hact => ⟨fun h2 => ?_, fun h1 => ?_, fun h0 va hf => ?_, fun h0 fr hf => ?_⟩⟩
  · rw [h]
    dsimp only
    exact s.endDamaged_spec k va
  · rw [h]
    dsimp only
    rw [← hact, if_pos h2]
  · rw [h]
    dsimp only
    rw [← hact, h1, if_neg (by decide), if_pos rfl]
    dsimp only
    exact (State.endFrozen_spec s k 0 (wordAt (wordsOf (blockAt bl 0)) 6)).1
  · rw [h]
    dsimp only
    rw [← hact, h0, if_neg (by decide), if_neg (by decide), hf]
    dsimp only
    exact s.endDamaged_spec k va
  · rw [h]
    dsimp only
    rw [← hact, h0, if_neg (by decide), if_neg (by decide), hf]

/-- A TRESUME. -/
def AccOp.isTresume (o : AccOp) : Bool :=
  match o with
  | .tresume => true
  | _ => false

/-- The TRESUME that has been picked, if any, performs (19 R411). -/
def State.tresumeOf (s : State) (k : Nat) (o : Option (Nat × Access)) : Out :=
  match o with
  | none => .next s
  | some (t, a) => .next ((s.drawn.resume k).1.onThread t (fun th => th.complete a (BitVec.ofNat 64 (s.drawn.resume k).2)))

theorem execTresumePerform_eq (s : State) (k : Nat) :
    execTresumePerform k s = s.tresumeOf k ((s.planeOps (s.part k).run.sup AccOp.isTresume)[s.freeVal %
      (s.planeOps (s.part k).run.sup AccOp.isTresume).length]?) := rfl

theorem resumes_claim : Claims.Resumes := by
  intro s k x ps hx hps
  subst hx
  replace hps : ps = s.planeOps (s.part k).run.sup AccOp.isTresume := hps
  have heq := execTresumePerform_eq s k
  rw [← hps] at heq
  refine ⟨fun hn => ?_, fun hn => ?_⟩
  · rw [hn] at heq
    exact heq
  · obtain ⟨⟨t0, a⟩, hm, hget⟩ := exists_getElem?_mod hn s.freeVal
    obtain ⟨ha, -⟩ := State.mem_planeOps (hps ▸ hm)
    rw [hget] at heq
    obtain ⟨cs, hcs⟩ := (s.drawn.resume k).1.onThread_eq_coaches t0
      (fun th => th.complete a (BitVec.ofNat 64 (s.drawn.resume k).2))
    refine ⟨_, t0, a, hm, heq, fun hp => ?_, fun va hp hf => ?_, fun bl act hp hf hact => ⟨fun h2 => ?_, fun h1 => ?_,
      fun h0 va hfr => ?_, fun h0 fr c hfr hc => ?_⟩⟩
    · have hr : s.drawn.resume k = (s.drawn, 1) := if_neg hp
      rw [hr]
      refine ⟨by rw [hr] at hcs; rw [hcs]; rfl, by rw [hr] at hcs; rw [hcs]; rfl, by rw [hr] at hcs; rw [hcs]; rfl, ?_⟩
      exact State.thread_complete (t := s.drawn) ha rfl 1
    · rw [hcs]
      exact (State.resume_spec s.drawn k hp).1 va ((s.readFrame_free k 0 _ _).trans hf)
    · have hr := ((State.resume_spec s.drawn k hp).2 bl act ((s.readFrame_free k 0 _ _).trans hf) hact).1 h2
      rw [hr]
      refine ⟨by rw [hr] at hcs; rw [hcs]; rfl, by rw [hr] at hcs; rw [hcs]; rfl, by rw [hr] at hcs; rw [hcs]; rfl, ?_⟩
      exact State.thread_complete (t := s.drawn) ha rfl 2
    · rw [hcs]
      exact ((State.resume_spec s.drawn k hp).2 bl act ((s.readFrame_free k 0 _ _).trans hf) hact).2.1 h1
    · rw [hcs]
      exact ((State.resume_spec s.drawn k hp).2 bl act ((s.readFrame_free k 0 _ _).trans hf) hact).2.2.1 h0 va
        ((s.readFrames_free k _ _).trans hfr)
    · have hr := ((State.resume_spec s.drawn k hp).2 bl act ((s.readFrame_free k 0 _ _).trans hf) hact).2.2.2 h0 fr
        ((s.readFrames_free k _ _).trans hfr)
      have hs := State.restartFrom_spec s.drawn k fr
      rw [← hr, ← hc] at hs
      rw [hcs]
      exact hs

theorem restartNotices_claim : Claims.RestartNotices := by
  rintro s k r rfl
  refine ⟨fun hno => ?_, fun abort hab hin hp => ?_⟩
  · refine if_neg (fun hc => ?_)
    obtain ⟨h1, h2⟩ := hc
    rcases hno with h | ⟨h3, h4⟩
    · exact absurd (h1.symm.trans h) (by decide)
    · exact h2.elim h3 h4
  · obtain ⟨u, hu⟩ : ∃ u : State, u = { s with free := s.free + 2 } := ⟨_, rfl⟩
    have he : exec (.linkRestartNotice k) s = .next (if s.freeVal % 2 = 0 then (u.resume k).1
        else u.endFrozen k 0 (BitVec.ofNat 64 (Config.freeNat (s.free + 1)))) := by
      rw [hu]
      exact if_pos ⟨hin, hp⟩
    refine ⟨_, he, fun ha => ?_, fun ha hrun => ?_, fun ha hf => ?_⟩
    · rw [if_neg (hab.1 ha)]
      exact (State.endFrozen_spec u k 0 _).1
    · rw [if_pos (Classical.not_not.1 (fun h => ha (hab.2 h)))]
      have hr : u.resume k = (u, 1) := by
        refine if_neg ?_
        rw [hu]
        change (s.part k).run.phase ≠ _
        rw [hrun]
        decide
      rw [hr, hu]
      exact ⟨rfl, rfl, rfl, rfl⟩
    · rw [if_pos (Classical.not_not.1 (fun h => ha (hab.2 h)))]
      obtain ⟨s1, s2⟩ := State.resume_spec u k (by rw [hu]; exact hf)
      have hpart : u.part k = s.part k := by rw [hu]; rfl
      have hrf : ∀ l, u.readFrame k 0 l = s.readFrame k 0 l := fun l => by rw [hu]; exact s.readFrame_free k 0 _ l
      have hrs : ∀ l, u.readFrames k l = s.readFrames k l := fun l => by rw [hu]; exact s.readFrames_free k _ l
      rw [hrf] at s1 s2
      rw [hrs, hpart] at s2
      refine ⟨s1, fun bl act hb hact => ?_⟩
      obtain ⟨a1, a2, a3, a4⟩ := s2 bl act hb hact
      refine ⟨fun h2 => ?_, a2, a3, fun h0 fr c hfr hc => ?_⟩
      · rw [a1 h2, hu]
        exact ⟨rfl, rfl, rfl, rfl⟩
      · rw [a4 h0 fr hfr, hc, ← hu, ← hpart]
        exact State.restartFrom_spec u k fr

/-! ### Posts -/

/-- A post that is held back until its layover opens (10 R297). -/
def Die.holdPost (x : Die) (w i : Nat) (v : Word) : Die × PostStatus :=
  if (x.holders.find? (fun e => e.1 == i)).isNone then ({ x with holders := x.holders.set i (v, w) }, .pending) else (x, .refused)

/-- The code that POST returns (08 R258). -/
def PostStatus.code (p : PostStatus) : Nat :=
  match p with
  | .onTime => 0
  | .pending => 1
  | .late => 2
  | .refused => 3

theorem Die.takePost_unnamed {x : Die} {ls : SMap LayDesc} {d w i : Nat} {v : Word}
    (h : ∀ l : LayDesc, layOf ls w = some l → l.dies.getLsbD d = false ∨ l.slots.getLsbD i = false) :
    x.takePost ls d w i v = (x, .refused) := by
  unfold Die.takePost
  cases hl : layOf ls w with
  | none => rfl
  | some l => exact if_pos (by rcases h l hl with h | h <;> simp [h])

theorem Die.takePost_named {x : Die} {ls : SMap LayDesc} {d w i : Nat} {v : Word} {l : LayDesc} (hl : layOf ls w = some l)
    (hd : l.dies.getLsbD d = true) (hs : l.slots.getLsbD i = true) :
    x.takePost ls d w i v = match x.layRec w with
      | none => x.holdPost w i v
      | some r =>
        if x.isOpen x.atk w && !r.judged then
          if (x.post.get i {}).v && decide ((x.post.get i {}).lid = w) then (x, .refused)
          else (x.putSlot i { x.post.get i {} with value := v, v := true, lid := w }, .onTime)
        else if r.braking && !(x.post.get i {}).v then
          (x.putSlot i { value := v, v := true, late := true, lid := w, pend := (x.post.get i {}).pend }, .late)
        else if r.unsettled l x.atk then (x, .late)
        else x.holdPost w i v := by
  unfold Die.takePost
  rw [hl]
  exact if_neg (by simp [hd, hs])

theorem Die.post_putSlot (x : Die) (i n : Nat) (p : PostSlot) :
    (x.putSlot i p).post.get n {} = if n = i then p else x.post.get n {} := SMap.get_set ..

theorem Die.holdPost_spec (x : Die) (w i : Nat) (v : Word) :
    (x.holdPost w i v).1.post = x.post ∧
    ((x.holders.find? (fun e => e.1 == i)).isSome = true → (x.holdPost w i v).2.code = 3 ∧ (x.holdPost w i v).1 = x) ∧
    (x.holders.find? (fun e => e.1 == i) = none → (x.holdPost w i v).2.code = 1 ∧
      (x.holdPost w i v).1.holders = x.holders.set i (v, w)) := by
  unfold Die.holdPost
  cases x.holders.find? (fun e => e.1 == i) with
  | none => exact ⟨rfl, fun h => absurd h (by decide), fun _ => ⟨rfl, rfl⟩⟩
  | some e => exact ⟨rfl, fun _ => ⟨rfl, rfl⟩, fun h => absurd h (by simp)⟩

/-- A post that is taken does what R297 says. -/
theorem Die.takePost_posted (x : Die) (ls : SMap LayDesc) (d w i : Nat) (v : Word) :
    Claims.posted x (x.takePost ls d w i v).1 ls d w i v (x.takePost ls d w i v).2.code := by
  by_cases hun : ∀ l : LayDesc, layOf ls w = some l → l.dies.getLsbD d = false ∨ l.slots.getLsbD i = false
  · rw [Die.takePost_unnamed hun]
    refine ⟨fun _ _ => rfl, fun _ => ⟨rfl, rfl⟩, fun l hl hd hs => ?_⟩
    rcases hun l hl with h | h
    · exact absurd (hd.symm.trans h) (by decide)
    · exact absurd (hs.symm.trans h) (by decide)
  · obtain ⟨l, hl, hd, hs⟩ : ∃ l, layOf ls w = some l ∧ l.dies.getLsbD d = true ∧ l.slots.getLsbD i = true := by
      simp only [Classical.not_forall, not_or, Bool.not_eq_false] at hun
      obtain ⟨l, hl, h⟩ := hun
      exact ⟨l, hl, h⟩
    have hsame : ∀ l', layOf ls w = some l' → l' = l := fun l' h => Option.some.inj (h.symm.trans hl)
    rw [Die.takePost_named hl hd hs]
    obtain ⟨h1, h2, h3⟩ := x.holdPost_spec w i v
    cases hr : x.layRec w with
    | none =>
      dsimp only
      refine ⟨fun n _ => by rw [h1], fun h => absurd h hun, fun l' hl' _ _ op br la hop hbr hla => ?_⟩
      rw [hr] at hop hbr hla
      have ho : ¬ op := fun h => by obtain ⟨r, h, -⟩ := hop.1 h; exact absurd h (by simp)
      have hb : ¬ br := fun h => by obtain ⟨-, r, h, -⟩ := hbr.1 h; exact absurd h (by simp)
      have ha : ¬ la := fun h => by obtain ⟨-, -, r, h, -⟩ := hla.1 h; exact absurd h (by simp)
      exact ⟨fun h => absurd h ho, fun h => absurd h ho, fun h => absurd h hb, fun h => absurd h ha, fun _ _ _ => ⟨h1, h2, h3⟩⟩
    | some r =>
      dsimp only
      have hiff : ∀ (op br la : Prop),
          (op ↔ ∃ r', some r = some r' ∧ x.isOpen x.atk w = true ∧ r'.judged = false) →
          (br ↔ ¬ op ∧ ∃ r', some r = some r' ∧ r'.braking = true ∧ (x.post.get i {}).v = false) →
          (la ↔ ¬ op ∧ ¬ br ∧ ∃ r', some r = some r' ∧ r'.unsettled l x.atk = true) →
          (op ↔ (x.isOpen x.atk w && !r.judged) = true) ∧ (br ↔ ¬ op ∧ (r.braking && !(x.post.get i {}).v) = true) ∧
          (la ↔ ¬ op ∧ ¬ br ∧ r.unsettled l x.atk = true) := by
        intro op br la hop hbr hla
        refine ⟨hop.trans ?_, hbr.trans ?_, hla.trans ?_⟩ <;> simp
      split
      · next ho =>
        have hnb : ∀ (op br la : Prop), (op ↔ (x.isOpen x.atk w && !r.judged) = true) →
            (br ↔ ¬ op ∧ (r.braking && !(x.post.get i {}).v) = true) → (la ↔ ¬ op ∧ ¬ br ∧ r.unsettled l x.atk = true) →
            op ∧ ¬ br ∧ ¬ la := fun op br la h1 h2 h3 =>
          ⟨h1.2 ho, fun h => (h2.1 h).1 (h1.2 ho), fun h => (h3.1 h).1 (h1.2 ho)⟩
        split
        · next hv =>
          refine ⟨fun _ _ => rfl, fun h => absurd h hun, fun l' hl' _ _ op br la hop hbr hla => ?_⟩
          rw [hsame l' hl'] at hla
          rw [hr] at hop hbr hla
          obtain ⟨j1, j2, j3⟩ := hiff op br la hop hbr hla
          obtain ⟨o1, o2, o3⟩ := hnb op br la j1 j2 j3
          obtain ⟨v1, v2⟩ := Bool.and_eq_true_iff.1 hv
          refine ⟨fun _ _ _ => ⟨rfl, rfl⟩, fun _ h => ?_, fun h => absurd h o2, fun h => absurd h o3, fun h => absurd o1 h⟩
          rcases h with h | h
          · exact absurd (v1.symm.trans h) (by decide)
          · exact absurd (of_decide_eq_true v2) h
        · next hv =>
          refine ⟨fun n hn => (x.post_putSlot ..).trans (if_neg hn), fun h => absurd h hun,
            fun l' hl' _ _ op br la hop hbr hla => ?_⟩
          rw [hsame l' hl'] at hla
          rw [hr] at hop hbr hla
          obtain ⟨j1, j2, j3⟩ := hiff op br la hop hbr hla
          obtain ⟨o1, o2, o3⟩ := hnb op br la j1 j2 j3
          refine ⟨fun _ h h' => absurd (by rw [h, decide_eq_true h']; rfl) hv,
            fun _ _ => ⟨rfl, (x.post_putSlot ..).trans (if_pos rfl), rfl⟩, fun h => absurd h o2, fun h => absurd h o3,
            fun h => absurd o1 h⟩
      · next ho =>
        split
        · next hb =>
          refine ⟨fun n hn => (x.post_putSlot ..).trans (if_neg hn), fun h => absurd h hun,
            fun l' hl' _ _ op br la hop hbr hla => ?_⟩
          rw [hsame l' hl'] at hla
          rw [hr] at hop hbr hla
          obtain ⟨j1, j2, j3⟩ := hiff op br la hop hbr hla
          have o1 : ¬ op := fun h => ho (j1.1 h)
          have o2 : br := j2.2 ⟨o1, hb⟩
          exact ⟨fun h => absurd h o1, fun h => absurd h o1, fun _ => ⟨rfl, rfl, (x.post_putSlot ..).trans (if_pos rfl)⟩,
            fun h => absurd o2 (j3.1 h).2.1, fun _ h => absurd o2 h⟩
        · next hb =>
          split
          · next hu =>
            refine ⟨fun _ _ => rfl, fun h => absurd h hun, fun l' hl' _ _ op br la hop hbr hla => ?_⟩
            rw [hsame l' hl'] at hla
            rw [hr] at hop hbr hla
            obtain ⟨j1, j2, j3⟩ := hiff op br la hop hbr hla
            have o1 : ¬ op := fun h => ho (j1.1 h)
            have o2 : ¬ br := fun h => hb (j2.1 h).2
            exact ⟨fun h => absurd h o1, fun h => absurd h o1, fun h => absurd h o2, fun _ => ⟨rfl, rfl⟩,
              fun _ _ h => absurd (j3.2 ⟨o1, o2, hu⟩) h⟩
          · next hu =>
            refine ⟨fun n _ => by rw [h1], fun h => absurd h hun, fun l' hl' _ _ op br la hop hbr hla => ?_⟩
            rw [hsame l' hl'] at hla
            rw [hr] at hop hbr hla
            obtain ⟨j1, j2, j3⟩ := hiff op br la hop hbr hla
            have o1 : ¬ op := fun h => ho (j1.1 h)
            have o2 : ¬ br := fun h => hb (j2.1 h).2
            exact ⟨fun h => absurd h o1, fun h => absurd h o1, fun h => absurd h o2, fun h => absurd (j3.1 h).2.2 hu,
              fun _ _ _ => ⟨h1, h2, h3⟩⟩

theorem Die.releaseBrake_keeps (x : Die) (ls : SMap LayDesc) (w : Nat) (t : Tick) (waits : Bool) :
    (x.releaseBrake ls w t waits).post = x.post ∧ (x.releaseBrake ls w t waits).holders = x.holders := by
  unfold Die.releaseBrake
  split
  · dsimp only
    split <;> exact ⟨rfl, rfl⟩
  · exact ⟨rfl, rfl⟩

/-- A post. -/
def AccOp.isPost (o : AccOp) : Bool :=
  match o with
  | .post .. => true
  | _ => false

/-- A post that has been picked, if any, reaches its board where it may (10 R297, R298). -/
def State.postOf (s : State) (t : Nat) (o : Option Access) : Out :=
  match o with
  | none => .next s
  | some a =>
    match a.op with
    | .post die w i v =>
      if (s.die die).mayPost t i then
        let k := s.partOfThread t
        let ls := s.lays k
        let x := ((s.die die).takePost ls die w i v).1
        let r := (s.part k).run
        let waits := r.frozenDies.contains die || (r.feHeld.isSome && (match x.layRec w with
          | some e => x.underHold e
          | none => false))
        let y := x.releaseBrake ls w (s.axisNow k die) waits
        .next ((s.drawn.setDie die { y with posted := (i, t) :: y.posted }).onThread t
          (fun th => th.complete a (BitVec.ofNat 64 ((s.die die).takePost ls die w i v).2.code)))
      else .next s.drawn
    | _ => .next s

theorem execPostArrival_eq (s : State) (t : Nat) : execPostArrival t s =
    s.postOf t (((s.thread t).accs.filter (fun a => a.op.isPost && (s.thread t).postable a))[s.freeVal %
      ((s.thread t).accs.filter (fun a => a.op.isPost && (s.thread t).postable a)).length]?) := rfl

theorem postsArrive_claim : Claims.PostsArrive := by
  intro s t0 ps hps
  replace hps : ps = (s.thread t0).accs.filter (fun a => a.op.isPost && (s.thread t0).postable a) := hps
  have heq := execPostArrival_eq s t0
  rw [← hps] at heq
  refine ⟨fun hn => ?_, fun hn => ?_⟩
  · rw [hn] at heq
    exact heq
  · obtain ⟨a, hm, hget⟩ := exists_getElem?_mod hn s.freeVal
    rw [hget] at heq
    obtain ⟨ha, hpick⟩ := List.mem_filter.1 (hps ▸ hm)
    obtain ⟨hpost, -⟩ := Bool.and_eq_true_iff.1 hpick
    obtain ⟨die, w, i, v, hop⟩ : ∃ die w i v, a.op = .post die w i v := by
      cases hop : a.op with
      | post die w i v => exact ⟨die, w, i, v, rfl⟩
      | _ => rw [hop] at hpost; exact absurd hpost Bool.false_ne_true
    unfold State.postOf at heq
    dsimp only at heq
    rw [hop] at heq
    dsimp only at heq
    cases hmay : (s.die die).mayPost t0 i with
    | false =>
      rw [hmay, if_neg Bool.false_ne_true] at heq
      exact ⟨_, a, die, w, i, v, hm, hop, heq, rfl, rfl, fun _ => ⟨rfl, rfl⟩, fun h => absurd (hmay.symm.trans h) (by decide)⟩
    | true =>
      rw [hmay, if_pos rfl] at heq
      obtain ⟨x, hx⟩ : ∃ x, x = ((s.die die).takePost (s.lays (s.partOfThread t0)) die w i v).1 := ⟨_, rfl⟩
      obtain ⟨code, hcode⟩ : ∃ c, c = ((s.die die).takePost (s.lays (s.partOfThread t0)) die w i v).2.code := ⟨_, rfl⟩
      have hposted := Die.takePost_posted (s.die die) (s.lays (s.partOfThread t0)) die w i v
      rw [← hx, ← hcode] at heq hposted
      generalize ((s.part (s.partOfThread t0)).run.frozenDies.contains die || _) = waits at heq
      obtain ⟨h1, h2⟩ := x.releaseBrake_keeps (s.lays (s.partOfThread t0)) w (s.axisNow (s.partOfThread t0) die) waits
      obtain ⟨y, hy⟩ : ∃ y, y = x.releaseBrake (s.lays (s.partOfThread t0)) w (s.axisNow (s.partOfThread t0) die) waits := ⟨_, rfl⟩
      rw [← hy] at heq h1 h2
      obtain ⟨u, hu⟩ : ∃ u, u = s.drawn.setDie die { y with posted := (i, t0) :: y.posted } := ⟨_, rfl⟩
      rw [← hu] at heq
      obtain ⟨cs, hcs⟩ := u.onThread_eq_coaches t0 (fun th => th.complete a (BitVec.ofNat 64 code))
      have hdie : (u.onThread t0 (fun th => th.complete a (BitVec.ofNat 64 code))).die die =
          { y with posted := (i, t0) :: y.posted } := by
        rw [hcs, hu]
        exact (State.die_setDie ..).trans (if_pos rfl)
      refine ⟨_, a, die, w, i, v, hm, hop, heq, by rw [hcs, hu]; rfl, by rw [hcs, hu]; rfl,
        fun h => absurd (hmay.symm.trans h) (by decide), fun _ => ⟨x, code, hposted, ?_, ?_, ?_⟩⟩
      · rw [hdie]
        exact h1
      · rw [hdie]
        exact h2
      · exact State.thread_complete (t := u) ha (by rw [hu]; rfl) _

/-! ### External interrupts -/

theorem interruptsTaken_claim : Claims.InterruptsTaken := by
  rintro s t0 th rfl
  refine ⟨fun hno => ?_, fun v rest hext hfree hxie hinh => ?_⟩
  · change execExtIntTaken t0 s = _
    unfold execExtIntTaken
    dsimp only
    cases hext : (s.thread t0).ext with
    | nil => rfl
    | cons v rest =>
      refine if_neg (fun hc => ?_)
      obtain ⟨h12, h3⟩ := Bool.and_eq_true_iff.1 hc
      obtain ⟨h1, h2⟩ := Bool.and_eq_true_iff.1 h12
      rcases hno with h | h | h | h
      · exact absurd (hext.symm.trans h) (List.cons_ne_nil _ _)
      · exact absurd (h1.symm.trans h) (by decide)
      · exact absurd (h2.symm.trans h) (by decide)
      · rw [h] at h3
        exact absurd h3 (by decide)
  · have hslot : (s.slotOf t0).isSome = true := by
      cases hx : s.slotOf t0 with
      | some x => rfl
      | none =>
        unfold State.thread at hext
        rw [hx] at hext
        exact absurd hext.symm (List.cons_ne_nil _ _)
    obtain ⟨u, hu⟩ : ∃ u, u = s.onThread t0 (fun th => { th with ext := rest }) := ⟨_, rfl⟩
    have huth : u.thread t0 = { s.thread t0 with ext := rest } := by
      rw [hu]
      exact State.thread_onThread_same _ hslot
    have huslot : (u.slotOf t0).isSome = true := by
      obtain ⟨x, hx⟩ := Option.isSome_iff_exists.1 hslot
      rw [hu]
      unfold State.onThread
      rw [hx]
      exact (congrArg Option.isSome (State.run_onCtx ..)).trans hslot
    have he : exec (.extIntTaken t0) s = .next (u.trapAt t0 trapExt 0 v (s.thread t0).pc) := by
      change execExtIntTaken t0 s = _
      unfold execExtIntTaken
      dsimp only
      rw [hext]
      dsimp only
      rw [hfree, hxie, hinh, hu]
      rfl
    refine ⟨_, he, ?_⟩
    have hinh' : (u.thread t0).trap.inh = false := by rw [huth]; exact hinh
    unfold State.trapAt
    dsimp only
    rw [hinh', if_neg Bool.false_ne_true]
    obtain ⟨gs, m, b, hn⟩ := u.noteGig_eq t0 5 (s.thread t0).pc trapExt
    have hnth : (u.noteGig t0 5 (s.thread t0).pc trapExt).thread t0 = u.thread t0 := by rw [hn]; rfl
    rw [State.thread_onThread_same _ (by rw [State.slotOf_noteGig]; exact huslot), hnth, huth]
    rfl

/-- Settles O45: a resume ends, refuses or restarts as its frames say; a catch-up with a fault freezes again, with what it detected
recorded; posts by the branches of R297; an interrupt by the entry of a trap with INH = 0. -/
theorem resumePerforms : Obligations.ResumePerforms :=
  ⟨resumes_claim, restartNotices_claim, postsArrive_claim, interruptsTaken_claim⟩

end Sys2Proof.Machine

end

section
/-! Shoot-downs and host accesses that fail (17 R386, R387, R389; 23 R466). -/
namespace Sys2Proof.Machine

theorem State.accs_of_access {s : State} {t j : Nat} {a : Access} (h : s.access t j = some a) : a ∈ (s.thread t).accs :=
  List.mem_of_find?_eq_some h

theorem State.thread_retire {s : State} {n : Nat} (f : Thread → Thread) (h : (s.slotOf n).isSome = true) :
    (s.onThread n f).thread n = f (s.thread n) ∧ ∃ cs, s.onThread n f = { s with coaches := cs } :=
  ⟨State.thread_onThread_same f h, s.onThread_eq_coaches n f⟩

theorem State.part_onPart_same (s : State) (k : Nat) (f : Partition → Partition) : (s.onPart k f).part k = f (s.part k) :=
  (State.part_setPart ..).trans (if_pos rfl)

/-- SHOOT, once every earlier access has performed, requests a shoot-down (17 R386). -/
theorem execShoot_store {s : State} {t j n v : Nat} {a : Access} (h : s.access t j = some a) (hk : a.target = .control 8)
    (ho : a.op = .store n v) : execShoot t j s = if (s.thread t).mayRelease a then
      .next ((s.onThread t (fun th => th.retireAcc a.id)).onPart (s.partOfThread t) (fun x =>
        { x with shoots := x.shoots ++ [{ num := x.nextShoot, kind := v / 2 ^ 62, va := v % 2 ^ 49 / 2 ^ 16 * 2 ^ 16 }],
                 nextShoot := x.nextShoot + 1 })) else .next s := by
  unfold execShoot
  rw [h]
  dsimp only
  rw [hk, ho] <;> rfl

theorem execDone_load {s : State} {t j n : Nat} {g : Bool} {a : Access} (h : s.access t j = some a) (hk : a.target = .control 16)
    (ho : a.op = .load n g) : execDone t j s =
      if !((s.thread t).mayPerform t a) then .next s
      else if (s.part (s.partOfThread t)).shoots.isEmpty then
        .next (s.onThread t (fun th => th.complete a (s.part (s.partOfThread t)).done))
      else .next (s.onThread t (fun th =>
        { th.retireAcc a.id with wait := .done (a.dest.getD 0) (s.part (s.partOfThread t)).nextShoot })) := by
  unfold execDone
  rw [h]
  dsimp only
  rw [hk, ho] <;> rfl

theorem execCompletionTimeout_phys {s : State} {t j pa : Nat} {a : Access} (h : s.access t j = some a) (hk : a.target = .phys pa) :
    execCompletionTimeout t j s = if s.tier pa = .host ∧ (s.thread t).mayPerform t a then
      .next ((s.onThread t (fun th => th.spoil a)).countUnc (physSource pa)) else .next s := by
  unfold execCompletionTimeout
  rw [h]
  dsimp only
  rw [hk]

/-- A host address lies behind a port. -/
theorem State.physSource_of_host {s : State} {pa : Nat} (h : s.tier pa = .host) : ∃ p, physSource pa = .port p := by
  have hb : hostBase ≤ pa := by
    unfold State.tier at h
    split at h
    · split at h <;> exact absurd h (by decide)
    · split at h
      · split at h <;> exact absurd h (by decide)
      · split at h
        · exact absurd h (by simp)
        · split at h
          · next hh => exact hh.elim (fun h => h.1) (fun h => by have := h.1; omega)
          · exact absurd h (by decide)
  exact ⟨_, if_pos hb⟩

/-- What a completed shoot-down makes of the threads that wait for it in DONE (17 R387). -/
def Thread.shot (h : Shoot) (done : Word) (th : Thread) : Thread :=
  match th.wait with
  | .done d n => if n ≤ h.num + 1 then th.wake d done else th
  | _ => th

theorem execShootdownComplete_free {s : State} {k : Nat} {h : Shoot} {rest : List Shoot} (hs : (s.part k).shoots = h :: rest)
    (hb : s.shootBusy k h = false) : ∃ cs, execShootdownComplete k s = .next
      { ({ s with tlb := s.tlb.filter (fun e => !(decide (e.part = k) && h.hits e.use)) } : State).onPart k (fun x =>
          { x with shoots := rest, done := (s.part k).done + 1 }) with coaches := cs } := by
  unfold execShootdownComplete
  dsimp only
  rw [hs]
  dsimp only
  rw [hb]
  exact ⟨_, rfl⟩

/-- Settles O48: by the branches of SHOOT, DONE, the failing host access and the completion of the oldest shoot-down. -/
theorem shootdownsPerform : Obligations.ShootdownsPerform := by
  rintro s k x rfl
  refine ⟨fun t0 j a ha hk => ⟨fun n v htg hop => ⟨fun hm => ?_, fun hm => ?_⟩, fun n g htg hop => ⟨fun hm => ?_, fun hm hs => ?_,
    fun hm hs => ?_⟩, fun pa htg => ⟨fun hno => ?_, fun hh hm => ?_⟩⟩, fun hn => ?_, fun h rest hs => ⟨fun hb => ?_, fun hb => ?_⟩⟩
  · exact (execShoot_store ha htg hop).trans (if_neg (by rw [hm]; exact Bool.false_ne_true))
  · have hslot := State.slotOf_of_access ha
    obtain ⟨h1, cs, h2⟩ := State.thread_retire (s := s) (n := t0) (fun th => th.retireAcc a.id) hslot
    have he := (execShoot_store ha htg hop).trans (if_pos hm)
    obtain ⟨u, hu⟩ : ∃ u, u = s.onThread t0 (fun th => th.retireAcc a.id) := ⟨_, rfl⟩
    rw [← hu] at he h1 h2
    rw [← hk] at he
    have hp := u.part_onPart_same k (fun x => { x with
      shoots := x.shoots ++ [{ num := x.nextShoot, kind := v / 2 ^ 62, va := v % 2 ^ 49 / 2 ^ 16 * 2 ^ 16 }], nextShoot := x.nextShoot + 1 })
    have hpart : u.part k = s.part k := by rw [h2]; rfl
    rw [hpart] at hp
    refine ⟨_, he, by rw [hp], by rw [hp], by rw [hp], ?_, h1⟩
    change u.tlb = s.tlb
    rw [h2]
  · exact (execDone_load ha htg hop).trans (if_pos (by rw [hm]; rfl))
  · refine (execDone_load ha htg hop).trans ((if_neg (by rw [hm]; decide)).trans ?_)
    rw [← hk, hs]
    rfl
  · refine (execDone_load ha htg hop).trans ((if_neg (by rw [hm]; decide)).trans ?_)
    rw [← hk]
    exact if_neg (fun h => hs (List.isEmpty_iff.1 h))
  · refine (execCompletionTimeout_phys ha htg).trans (if_neg (fun hc => ?_))
    obtain ⟨h1, h2⟩ := hc
    rcases hno with h | h
    · exact h h1
    · exact absurd (h2.symm.trans h) (by decide)
  · have he := (execCompletionTimeout_phys ha htg).trans (if_pos ⟨hh, hm⟩)
    obtain ⟨p, hp⟩ := State.physSource_of_host hh
    rw [hp] at he
    obtain ⟨h1, cs, h2⟩ := State.thread_retire (s := s) (n := t0) (fun th => th.spoil a) (State.slotOf_of_access ha)
    refine ⟨_, he, ?_, ?_, h1⟩
    · rw [h2]
      rfl
    · rw [h2]
      rfl
  · change execShootdownComplete k s = _
    unfold execShootdownComplete
    dsimp only
    rw [hn]
  · change execShootdownComplete k s = _
    unfold execShootdownComplete
    dsimp only
    rw [hs]
    exact if_pos hb
  · obtain ⟨cs, he⟩ := execShootdownComplete_free hs hb
    have hp := ({ s with tlb := s.tlb.filter (fun e => !(decide (e.part = k) && h.hits e.use)) } : State).part_onPart_same k (fun x =>
      { x with shoots := rest, done := (s.part k).done + 1 })
    refine ⟨_, he, congrArg Partition.shoots hp, congrArg Partition.done hp, fun e => ?_, rfl⟩
    refine List.mem_filter.trans (and_congr_right (fun _ => ?_))
    rw [Bool.not_eq_true', Bool.and_eq_false_iff, decide_eq_false_iff_not]
    exact ⟨fun h hk => h.resolve_left (fun hn => hn hk), fun h => (Classical.em (e.part = k)).symm.imp_right h⟩

end Sys2Proof.Machine

end

section
/-! The packets of the host portal: what becomes of a job, when a row starts it, and the answers and records of the portal
(16 R354 to R360; 17 R389; 24 R470, R473). -/
namespace Sys2Proof.Machine

/-! ### Jobs -/

theorem State.job_onJob (s : State) (j i : Nat) (f : Job → Job) :
    (s.onJob (some j) f).job i = if i = j then (s.job j).map f else s.job i := by
  unfold State.job State.onJob
  dsimp only
  generalize s.portal.jobs = l
  induction l with
  | nil => simp
  | cons a l ih =>
    obtain ⟨k, y⟩ := a
    rw [List.map_cons, List.find?_cons]
    by_cases hk : k = j
    · subst hk
      by_cases hi : i = k
      · subst hi
        simp [List.find?_cons]
      · rw [if_neg hi] at ih ⊢
        simp only [if_true, beq_false_of_ne (Ne.symm hi), List.find?_cons]
        exact ih
    · simp only [if_neg hk]
      by_cases hi : i = j
      · subst hi
        rw [if_pos rfl] at ih ⊢
        simp only [beq_false_of_ne hk, List.find?_cons]
        exact ih
      · rw [if_neg hi] at ih ⊢
        by_cases hki : k = i
        · subst hki
          simp [List.find?_cons]
        · simp only [beq_false_of_ne hki, List.find?_cons]
          exact ih

theorem State.job_onJob_same {s : State} {j : Nat} {x : Job} (f : Job → Job) (h : s.job j = some x) :
    (s.onJob (some j) f).job j = some (f x) := by
  rw [State.job_onJob, if_pos rfl, h]
  rfl

theorem State.job_endJob {s : State} {j : Nat} {x : Job} (h : s.job j = some x) (status : JobStatus) (reason : Nat) (detail : Word) :
    (s.endJob j status reason detail).job j = some (Claims.ends x status reason detail) := State.job_onJob_same _ h

theorem State.endJob_eq (s : State) (j : Nat) (status : JobStatus) (reason : Nat) (detail : Word) :
    ∃ po, s.endJob j status reason detail = { s with portal := po } := State.onJob_eq ..

@[simp] theorem State.parts_endJob (s : State) (j : Nat) (status : JobStatus) (reason : Nat) (detail : Word) :
    (s.endJob j status reason detail).parts = s.parts := rfl

@[simp] theorem State.pipes_endJob (s : State) (j : Nat) (status : JobStatus) (reason : Nat) (detail : Word) :
    (s.endJob j status reason detail).pipes = s.pipes := rfl

@[simp] theorem State.mem_endJob (s : State) (j : Nat) (status : JobStatus) (reason : Nat) (detail : Word) :
    (s.endJob j status reason detail).mem = s.mem := rfl

theorem State.job_rejectJob {s : State} {j : Nat} {x : Job} (h : s.job j = some x) (reason : Nat) (detail : Word) :
    (s.rejectJob j reason detail).job j = some (Claims.ends x .rejected reason detail) := State.job_endJob h ..

/-! ### A free value drawn changes no packet's turn -/

theorem State.readSpot_free (s : State) (port k sp a f : Nat) :
    ({ s with free := f } : State).readSpot port k sp a = s.readSpot port k sp a := rfl

theorem State.spotRead_free (s : State) (p : Spot) (f : Nat) : ({ s with free := f } : State).spotRead p = s.spotRead p := by
  cases p <;> rfl

theorem State.readSpace_free (s : State) (port k sp a n f : Nat) :
    ({ s with free := f } : State).readSpace port k sp a n = s.readSpace port k sp a n := by
  induction n generalizing a with
  | zero => rfl
  | succ n ih =>
    have hr : (({ s with free := f } : State).readSpot port k sp a).bind (State.spotRead { s with free := f }) =
        (s.readSpot port k sp a).bind s.spotRead := by
      rw [State.readSpot_free]
      exact congrArg (Option.bind _) (funext (fun p => s.spotRead_free p f))
    unfold State.readSpace
    rw [hr, ih]

theorem State.roomless_free (s : State) (x : Job) (f : Nat) : ({ s with free := f } : State).roomless x = s.roomless x := by
  unfold State.roomless
  simp only [State.pagedBytes_free]
  rfl

theorem State.readDesc_free (s : State) (x : Job) (f : Nat) : ({ s with free := f } : State).readDesc x = s.readDesc x := by
  unfold State.readDesc
  simp only [State.readSpace_free]
  rfl

theorem State.chooseImage_free (s : State) (k obj f : Nat) : ({ s with free := f } : State).chooseImage k obj =
    ({ (s.chooseImage k obj).1 with free := f }, (s.chooseImage k obj).2) := by
  unfold State.chooseImage
  split
  · rfl
  · unfold State.loadObject
    simp only [State.pagedBytes_free]
    split
    · rfl
    · split
      · split
        · rfl
        · split <;> rfl
      · rfl

theorem State.takesSeed_free (s : State) (x : Job) (f : Nat) : ({ s with free := f } : State).takesSeed x = s.takesSeed x := by
  unfold State.takesSeed
  rw [State.chooseImage_free]
  rcases s.chooseImage x.part (x.w 2).toNat with ⟨u, _ | e⟩ <;> rfl

theorem State.startWaits_free (s : State) (j : Nat) (x : Job) (f : Nat) :
    ({ s with free := f } : State).startWaits j x = s.startWaits j x := by
  unfold State.startWaits
  rw [State.takesSeed_free, State.roomless_free, State.readDesc_free]
  rfl

theorem State.jobMayStart_free (s : State) (j : Nat) (x : Job) (f : Nat) :
    ({ s with free := f } : State).jobMayStart j x = s.jobMayStart j x := by
  unfold State.jobMayStart State.onlyTurn
  simp only [State.startWaits_free]
  rfl

/-! ### The rows of packets -/

section
variable {s : State} {j c : Nat} {x : Job} (go on : Job → State)

theorem State.packet_none (h : s.job j = none) : s.packet j c go on = .next s := by
  unfold State.packet
  rw [h]

theorem State.packet_other (h : s.job j = some x) (hf : x.form ≠ some c) (hn : x.form ≠ none) : s.packet j c go on = .next s := by
  unfold State.packet
  rw [h]
  exact if_neg (fun h => h.elim hf hn)

theorem State.packet_early (h : s.job j = some x) (hp : x.phase = .waiting) (hm : s.jobMayStart j x = false) :
    s.packet j c go on = .next s := by
  unfold State.packet
  rw [h]
  dsimp only
  rw [hp, hm]
  exact ite_self _

theorem State.packet_over (h : s.job j = some x) (hp : x.phase = .completed ∨ x.phase = .recorded) : s.packet j c go on = .next s := by
  unfold State.packet
  rw [h]
  dsimp only
  rcases hp with hp | hp <;> rw [hp] <;> exact ite_self _

theorem State.packet_malformed (h : s.job j = some x) (hf : x.form = some c ∨ x.form = none) (hp : x.phase = .waiting)
    (hm : s.jobMayStart j x = true) (hb : s.malformed x = true) : s.packet j c go on = .next (s.rejectJob j 1 0) := by
  unfold State.packet
  rw [h]
  dsimp only
  rw [if_pos hf, hp]
  dsimp only
  rw [if_pos hm, if_pos hb]

theorem State.packet_start (h : Claims.starts s j c x) : s.packet j c go on = .next (go x) := by
  obtain ⟨hj, hf, hp, hm, hb⟩ := h
  unfold State.packet
  rw [hj]
  dsimp only
  rw [if_pos (Or.inl hf), hp]
  dsimp only
  rw [if_pos hm, hb]
  exact if_neg Bool.false_ne_true

theorem State.packet_on (h : s.job j = some x) (hf : x.form = some c) (hp : x.phase = .started) :
    s.packet j c go on = .next (on x) := by
  unfold State.packet
  rw [h]
  dsimp only
  rw [if_pos (Or.inl hf), hp]

theorem State.packet_next (s : State) (j c : Nat) (go on : Job → State) : ∃ t, s.packet j c go on = .next t := by
  unfold State.packet
  split
  · exact ⟨_, rfl⟩
  · split
    · split
      · split
        · split <;> exact ⟨_, rfl⟩
        · exact ⟨_, rfl⟩
      · exact ⟨_, rfl⟩
      · exact ⟨_, rfl⟩
    · exact ⟨_, rfl⟩

end

theorem execQueryAttestation_packet (s : State) (j : Nat) : ∃ go on, execQueryAttestation j s = s.packet j 0x76 go on := by
  cases h : s.job j with
  | none =>
    refine ⟨fun _ => s, fun _ => s, ?_⟩
    rw [State.packet_none _ _ h]
    unfold execQueryAttestation
    rw [h]
  | some x =>
    unfold execQueryAttestation
    rw [h]
    dsimp only
    split
    · exact ⟨_, _, rfl⟩
    · exact ⟨_, _, rfl⟩

/-- Every row of packets acts through `packet`, QUERY type 0 with a free value drawn. -/
theorem packetRow_packet {i : Instr} {j c : Nat} (s : State) (h : Claims.packetRow i j c) :
    ∃ n go on, exec i s = ({ s with free := n } : State).packet j c go on := by
  rcases h with ⟨rfl, rfl⟩ | ⟨rfl, rfl⟩ | ⟨rfl, rfl⟩ | ⟨rfl, rfl⟩ | ⟨rfl, rfl⟩ | ⟨rfl, rfl⟩ | ⟨rfl, rfl⟩ | ⟨rfl, rfl⟩ | ⟨rfl, rfl⟩ |
    ⟨rfl, rfl⟩ | ⟨rfl, rfl⟩ | ⟨rfl, rfl⟩ | ⟨rfl, rfl⟩ | ⟨rfl, rfl⟩ | ⟨rfl, rfl⟩ | ⟨rfl, rfl⟩ | ⟨rfl, rfl⟩ | ⟨rfl, rfl⟩ | ⟨rfl, rfl⟩
  case inr.inr.inr.inr.inr.inr.inr.inr.inr.inl => exact ⟨s.free + 1, _, _, rfl⟩
  case inr.inr.inr.inr.inr.inr.inr.inr.inr.inr.inr.inr.inr.inr.inr.inl =>
    obtain ⟨go, on, h⟩ := execQueryAttestation_packet s j
    exact ⟨s.free, go, on, h⟩
  all_goals exact ⟨s.free, _, _, rfl⟩

theorem packetsTakeTheirTurn_claim : Claims.PacketsTakeTheirTurn := by
  intro s j c i hrow
  obtain ⟨n, go, on, he⟩ := packetRow_packet s hrow
  refine ⟨?_, fun x hj hf hp hm hb _ => ?_⟩
  · obtain ⟨t, ht⟩ := State.packet_next { s with free := n } j c go on
    refine ⟨t, he.trans ht, fun hidle => ?_⟩
    have hsame : ({ s with free := n } : State).packet j c go on = .next { s with free := n } := by
      rcases hidle with h | ⟨x, hj, h⟩
      · exact State.packet_none go on (s := { s with free := n }) h
      · rcases h with ⟨r, hr, hne⟩ | ⟨hp, hm⟩ | hp | hp
        · exact State.packet_other go on (s := { s with free := n }) hj (by rw [hr]; exact fun h => hne (Option.some.inj h))
            (by rw [hr]; exact Option.some_ne_none r)
        · exact State.packet_early go on (s := { s with free := n }) hj hp ((s.jobMayStart_free j x n).trans hm)
        · exact State.packet_over go on (s := { s with free := n }) hj (Or.inl hp)
        · exact State.packet_over go on (s := { s with free := n }) hj (Or.inr hp)
    have hteq : t = { s with free := n } := by
      injection ht.symm.trans hsame
    rw [hteq]
    exact ⟨rfl, rfl, rfl, rfl, rfl, rfl⟩
  · have hex := he.trans (State.packet_malformed go on (s := { s with free := n }) hj hf hp
      ((s.jobMayStart_free j x n).trans hm) hb)
    refine ⟨_, hex, State.job_rejectJob (s := { s with free := n }) hj 1 0, ?_, ?_, ?_⟩
    · exact State.parts_endJob { s with free := n } j .rejected 1 0
    · exact State.pipes_endJob { s with free := n } j .rejected 1 0
    · exact State.mem_endJob { s with free := n } j .rejected 1 0

/-! ### Writes to the portal -/

theorem writesAnswered_claim : Claims.WritesAnswered := by
  intro s port a w
  refine ⟨fun i own hi hown => ?_, fun hp ho => ?_, fun hno => ?_⟩
  · have he : exec i s = .next (s.submit port a w) := by
      rcases hi with ⟨rfl, hp, ho⟩ | ⟨rfl, rfl, rfl⟩
      · exact congrArg Host.Outcome.next (if_pos ⟨hp, ho⟩)
      · rfl
    have hiff : own = true ↔ ¬ (s.fw.own.owner.toNat ≠ port + 1 ∨ w.length ≠ 8 ∨ a % 64 ≠ 0 ∨ 4096 ≤ a) := by
      rw [hown, decide_eq_true_iff]
      simp only [not_or, Classical.not_not, Nat.not_le]
    rw [he]
    unfold State.submit State.judgeWrite
    refine ⟨fun hh ho hb => ?_, fun h => ?_, fun hh ho => ?_⟩
    · rw [hh, if_neg Bool.false_ne_true, if_neg (hiff.1 ho), if_neg (Nat.not_le.2 hb)]
      refine ⟨_, rfl, ?_, rfl, rfl, rfl⟩
      unfold State.job State.accept
      dsimp only
      rw [SMap.find?_set]
      rfl
    · rcases h with hh | ⟨ho, hb⟩
      · rw [hh, if_pos rfl]
        rfl
      · by_cases hh : s.fw.handover = true
        · rw [hh, if_pos rfl]
          rfl
        · rw [if_neg hh, if_neg (hiff.1 ho), if_pos hb]
          rfl
    · rw [hh, if_neg Bool.false_ne_true, if_pos (Classical.not_not.1 (fun h => absurd ((hiff.2 h).symm.trans ho) (by decide)))]
      rfl
  · refine ⟨_, congrArg Host.Outcome.next (if_pos ⟨hp, ho⟩), rfl, ?_, rfl⟩
    dsimp only
    rw [SMap.get_set, if_pos rfl]
  · have hc : ¬ (port < 2 ∧ s.fw.hostOff.getLsbD port = false) := by
      rintro ⟨h1, h2⟩
      rcases hno with h | h
      · omega
      · exact absurd (h.symm.trans h2) (by decide)
    exact ⟨congrArg Host.Outcome.next (if_neg hc), congrArg Host.Outcome.next (if_neg hc)⟩

/-! ### Completion records -/

/-- The bytes of a completion record. -/
def Job.recordBytes (x : Job) : List Byte := x.record.flatMap (toBytes 8)

theorem Job.recordBytes_length (x : Job) : x.recordBytes.length = 32 := by
  unfold Job.recordBytes Job.record
  simp

/-- The `n`th word of four, in the bytes of all. -/
theorem ofBytes_words (ws : List Nat) (n : Nat) (h : n < ws.length) :
    ofBytes (((ws.flatMap (toBytes 8)).drop (8 * n)).take 8) = ws[n] % 256 ^ 8 := by
  induction ws generalizing n with
  | nil => exact absurd h (Nat.not_lt_zero _)
  | cons w ws ih =>
    rw [List.flatMap_cons]
    cases n with
    | zero =>
      rw [Nat.mul_zero, List.drop_zero, List.take_append_of_le_length (Nat.le_of_eq (toBytes_length ..).symm),
        List.take_of_length_le (Nat.le_of_eq (toBytes_length ..)), ofBytes_toBytes]
      rfl
    | succ n =>
      rw [List.drop_append, List.drop_of_length_le (by rw [toBytes_length]; omega), toBytes_length, List.nil_append,
        show 8 * (n + 1) - 8 = 8 * n by omega, ih n (Nat.lt_of_succ_lt_succ h)]
      rfl

theorem Job.recordBytes_fields (x : Job) :
    ofBytes (x.recordBytes.take 8) = x.lid % 2 ^ 32 * 2 ^ 32 + x.status.code * 2 ^ 24 + x.kind * 2 ^ 16 + x.tag ∧
    ofBytes ((x.recordBytes.drop 16).take 8) = x.span.toNat ∧ ofBytes ((x.recordBytes.drop 24).take 8) = x.detail.toNat := by
  have hk : x.kind < 2 ^ 8 := bitsOf_lt _ 7 0
  have ht : x.tag < 2 ^ 16 := bitsOf_lt _ 31 16
  have hc : x.status.code < 4 := by cases x.status <;> decide
  have hlen : x.record.length = 4 := rfl
  refine ⟨(ofBytes_words x.record 0 (by rw [hlen]; decide)).trans ?_, (ofBytes_words x.record 2 (by rw [hlen]; decide)).trans ?_,
    (ofBytes_words x.record 3 (by rw [hlen]; decide)).trans ?_⟩
  · exact Nat.mod_eq_of_lt (by change x.lid % 2 ^ 32 * 2 ^ 32 + x.status.code * 2 ^ 24 + x.kind * 2 ^ 16 + x.tag < _; omega)
  · exact Nat.mod_eq_of_lt x.span.isLt
  · exact Nat.mod_eq_of_lt x.detail.isLt

/-- What a write over the host bus may change: memory, and the counts of errors. -/
theorem State.hostWrite_eq (s : State) (port a : Nat) (bs : List Byte) :
    ∃ m fw, s.hostWrite port a bs = { s with mem := m, fw := fw } ∧
      (s.damaged (hostAddr port a) bs.length = false → m = s.mem.writeBytes (hostAddr port a) bs) := by
  unfold State.hostWrite
  dsimp only
  split
  · next h =>
    obtain ⟨fw, hc⟩ := State.countUnc_eq ({ s with mem := bs.zipIdx.foldl (fun (m : Memory) (e : Byte × Nat) =>
      if s.damaged (hostAddr port a + e.2) 1 then m else m.write (hostAddr port a + e.2) e.1) s.mem } : State)
      (physSource (hostAddr port a))
    exact ⟨_, fw, hc, fun hd => absurd (h.symm.trans hd) (by decide)⟩
  · exact ⟨_, s.fw, rfl, fun _ => rfl⟩

theorem State.damaged_congr {s t : State} (hb : t.bad = s.bad) (hf : t.fw = s.fw) (pa n : Nat) : t.damaged pa n = s.damaged pa n := by
  unfold State.damaged State.portGone
  rw [hb, hf]

theorem recordsWritten_claim : Claims.RecordsWritten := by
  intro s j
  refine ⟨fun h => ?_, fun x turn hj hturn => ?_⟩
  · change execCompletionRecordWrite j s = _
    unfold execCompletionRecordWrite
    rw [h]
  · have hiff : turn = true ↔ x.phase = .completed ∧ s.portal.jobs.all (fun e => decide (j ≤ e.1) || !(e.2.sameQueue x) ||
        !(e.2.owed) || decide (e.2.phase = .recorded)) = true := by
      rw [hturn, Bool.and_eq_true_iff, decide_eq_true_iff]
      rfl
    have he : exec (.completionRecordWrite j) s = if x.phase = .completed ∧ s.portal.jobs.all (fun e => decide (j ≤ e.1) ||
        !(e.2.sameQueue x) || !(e.2.owed) || decide (e.2.phase = .recorded)) = true then
          .next (if x.port = 2 then
              { s.onJob (some j) (fun y => { y with phase := .recorded }) with portal := {
                (s.onJob (some j) (fun y => { y with phase := .recorded })).portal with toBmc := s.portal.toBmc ++ [x.recordBytes] } }
            else if x.crec = 0 then s.onJob (some j) (fun y => { y with phase := .recorded })
            else (s.onJob (some j) (fun y => { y with phase := .recorded })).hostWrite x.port x.crec x.recordBytes)
        else .next s := by
      change execCompletionRecordWrite j s = _
      unfold execCompletionRecordWrite
      rw [hj]
      rfl
    refine ⟨fun ht => he.trans (if_neg (fun h => absurd ((hiff.2 h).symm.trans ht) (by decide))), fun ht => ?_⟩
    rw [if_pos (hiff.1 ht)] at he
    obtain ⟨h1, h2, h3⟩ := x.recordBytes_fields
    have hrec := State.job_onJob_same (fun y => { y with phase := .recorded }) hj
    obtain ⟨po, hpo⟩ := s.onJob_eq (some j) (fun y => { y with phase := .recorded })
    obtain ⟨u, hu⟩ : ∃ u, u = s.onJob (some j) (fun y => { y with phase := .recorded }) := ⟨_, rfl⟩
    rw [← hu] at he hrec hpo
    have hpipes : u.pipes = s.pipes := by rw [hpo]
    have hparts : u.parts = s.parts := by rw [hpo]
    have hmem : u.mem = s.mem := by rw [hpo]
    have hbad : u.bad = s.bad := by rw [hpo]
    have hfw : u.fw = s.fw := by rw [hpo]
    by_cases hp : x.port = 2
    · rw [if_pos hp] at he
      refine ⟨_, x.recordBytes, he, hrec, x.recordBytes_length, ?_, ?_, h1, h2, h3, fun h => absurd hp h, fun h => absurd hp h,
        fun _ => ⟨rfl, ?_⟩⟩
      · exact hpipes
      · exact hparts
      · exact hmem
    · rw [if_neg hp] at he
      by_cases hc : x.crec = 0
      · rw [if_pos hc] at he
        refine ⟨_, x.recordBytes, he, hrec, x.recordBytes_length, ?_, ?_, h1, h2, h3, fun _ h => absurd hc h, fun _ _ => ?_,
          fun h => absurd h hp⟩
        · exact hpipes
        · exact hparts
        · exact hmem
      · rw [if_neg hc] at he
        obtain ⟨m, fw, hw, hm⟩ := u.hostWrite_eq x.port x.crec x.recordBytes
        rw [hw] at he
        refine ⟨_, x.recordBytes, he, hrec, x.recordBytes_length, ?_, ?_, h1, h2, h3, fun _ _ hd => ?_, fun _ h => absurd h hc,
          fun h => absurd h hp⟩
        · exact hpipes
        · exact hparts
        · rw [x.recordBytes_length] at hm
          rw [State.damaged_congr hbad hfw, hmem] at hm
          exact hm hd

/-- Settles O50: the portal's answers by the order of its checks; a record by the branches of where it goes; a packet's turn because
every row acts through the one that judges it. -/
theorem portalAnswers : Obligations.PortalAnswers :=
  ⟨writesAnswered_claim, recordsWritten_claim, packetsTakeTheirTurn_claim⟩

end Sys2Proof.Machine

end

section
/-! Signals, waits and the lines that they set (O51; 16 R358; 19 R421; 22 R456). -/
namespace Sys2Proof.Machine

/-! ### Lines -/

theorem SMap.keys_nodup {α : Type} {m : SMap α} (h : SMap.wf m = true) : (m.map Prod.fst).Nodup := by
  induction m with
  | nil => exact List.nodup_nil
  | cons a m ih =>
    refine List.nodup_cons.2 ⟨fun hm => ?_, ih (SMap.wf_tail h)⟩
    obtain ⟨e, he, hk⟩ := List.mem_map.1 hm
    exact absurd (SMap.lt_of_wf (i := a.1) (x := a.2) h (y := e.2) he) (by rw [hk]; exact Nat.lt_irrefl _)

/-- A line that is set stays set where no thread waits on it, and wakes the lowest thread that does. -/
theorem Context.lineSet_setLine (k : Context) (n : Nat) : Claims.lineSet k (k.setLine n) n := by
  refine ⟨fun h => ?_, fun l d th pre post hk hwf hw hpre => ?_⟩
  · have hlow : k.lowest (Thread.onLine n) = none := by
      rw [Context.lowest, List.find?_eq_none.2 (fun e he => by simp [onLine_eq_false (List.all_eq_true.1 h e he)])]
      rfl
    rw [Context.setLine_eq, hlow]
  · have hlow : k.lowest (Thread.onLine n) = some l := by
      have hnone : pre.find? (fun e => e.2.onLine n) = none :=
        List.find?_eq_none.2 (fun e he => by simp [onLine_eq_false (List.all_eq_true.1 hpre e he)])
      rw [Context.lowest, hk, List.find?_append, hnone, Option.none_or, List.find?_cons_of_pos (by simp [Thread.onLine, hw])]
      rfl
    have hget : k.threads.get l {} = th := SMap.get_of_mem hwf (by rw [hk]; exact List.mem_append_right _ List.mem_cons_self)
    have hset : k.setLine n = { k with threads := k.threads.set l (th.wake d 0) } := by
      rw [Context.setLine_eq, hlow]
      simp only [Context.onThread, hget, hw]
    have hthr : ∀ m, (k.setLine n).threads.get m {} = if m = l then th.wake d 0 else k.threads.get m {} := fun m => by
      rw [hset]
      exact SMap.get_set ..
    refine ⟨by rw [hset], ?_, ?_, fun hd => ?_, fun m hm => by rw [hthr, if_neg hm]⟩
    · rw [hthr, if_pos rfl, Thread.wake, Thread.setD_wait]
    · rw [hthr, if_pos rfl, Thread.wake, Thread.setD_pc]
    · rw [hthr, if_pos rfl, Thread.wake, Thread.d_setD]
      simp [hd]

theorem State.ctx_foldl_onCtx (f : Context → Context) (c : Nat) (l : List Nat) (hl : l.Nodup) (s : State) {y : Nat} (hy : y ∈ l) :
    (l.foldl (fun s x => s.onCtx c x f) s).ctx c y = f (s.ctx c y) := by
  induction l generalizing s with
  | nil => exact absurd hy List.not_mem_nil
  | cons a l ih =>
    obtain ⟨ha, hl⟩ := List.nodup_cons.1 hl
    rw [List.foldl_cons]
    rcases List.mem_cons.1 hy with rfl | hl'
    · have hkeep : ∀ (l : List Nat) (s : State), y ∉ l → (l.foldl (fun s x => s.onCtx c x f) s).ctx c y = s.ctx c y :=
        fun l s hn => foldl_keeps (fun q : State => q.ctx c y) _ l s
          (fun q a h => by
            rw [State.ctx_onCtx, if_neg]
            rintro ⟨-, rfl⟩
            exact hn h)
      rw [hkeep l _ ha, State.ctx_onCtx_same]
    · rw [ih hl _ hl', State.ctx_onCtx, if_neg]
      rintro ⟨-, rfl⟩
      exact ha hl'

theorem State.writePhys_of {s t : State} (h : ∃ m b, t = { s with mem := m, bad := b }) (pa : Nat) (bs : List Byte) :
    ∃ m b, t.writePhys pa bs = { s with mem := m, bad := b } := by
  obtain ⟨m, b, rfl⟩ := h
  exact ⟨_, _, rfl⟩

theorem State.saveUnit_eq (s : State) (c x : Nat) : ∃ m b, s.saveUnit c x = { s with mem := m, bad := b } :=
  State.writePhys_of (State.writePhys_of (State.writePhys_of (t := s.putHeader c x) ⟨_, s.bad, rfl⟩ _ _) _ _) _ _

theorem State.resave_eq (s : State) (c x : Nat) : ∃ m b, s.resave c x = { s with mem := m, bad := b } := by
  unfold State.resave
  split
  · exact s.saveUnit_eq c x
  · exact ⟨s.mem, s.bad, rfl⟩

/-- A line set on a coach is set in each context that it holds, once. -/
theorem State.ctx_setLineHeld (s : State) (c n : Nat) (hwf : SMap.wf (s.coach c).ctxs = true) {y : Nat} (hy : y ∈ (s.coach c).holds) :
    (s.setLineHeld c n).ctx c y = (s.ctx c y).setLine n := by
  have hsave : ∀ (l : List Nat) (s : State), (l.foldl (fun s x => s.resave c x) s).coaches = s.coaches :=
    fun l s => foldl_keeps State.coaches _ l s (fun q a _ => by
      obtain ⟨m, b, h⟩ := q.resave_eq c a
      rw [h])
  have hnd : (s.coach c).holds.Nodup := (SMap.keys_nodup (SMap.wf_filter _ _ hwf))
  refine (State.ctx_congr (hsave _ _) c y).trans ?_
  exact State.ctx_foldl_onCtx (fun k => k.setLine n) c _ hnd s hy

/-- A line that is set changes contexts, and the saved state of those switched out. -/
theorem State.setLineHeld_eq (s : State) (c n : Nat) :
    ∃ co m b, s.setLineHeld c n = { s with coaches := co, mem := m, bad := b } := by
  have hset : ∀ (l : List Nat) (s : State), ∃ co, l.foldl (fun s x => s.onCtx c x (fun k => k.setLine n)) s = { s with coaches := co } := by
    intro l
    induction l with
    | nil => exact fun s => ⟨s.coaches, rfl⟩
    | cons a l ih => exact fun s => ih (s.onCtx c a (fun k => k.setLine n))
  have hsave : ∀ (l : List Nat) (s : State), ∃ m b, l.foldl (fun s x => s.resave c x) s = { s with mem := m, bad := b } := by
    intro l
    induction l with
    | nil => exact fun s => ⟨s.mem, s.bad, rfl⟩
    | cons a l ih =>
      intro s
      obtain ⟨m, b, h⟩ := s.resave_eq c a
      obtain ⟨m', b', h'⟩ := ih (s.resave c a)
      refine ⟨m', b', ?_⟩
      rw [List.foldl_cons, h', h]
  obtain ⟨co, h1⟩ := hset (s.coach c).holds s
  obtain ⟨m, b, h2⟩ := hsave ((s.setLineAll c n).coach c).holds (s.setLineAll c n)
  refine ⟨co, m, b, h2.trans ?_⟩
  unfold State.setLineAll
  rw [h1]

/-! ### Counters and the waits on them -/

/-- A WAIT whose condition holds, of those that have started. -/
def State.waitDone (s : State) (y : Job) : Prop := y.phase = .started ∧ y.form = some 0x50 ∧ s.waitHolds y = true

theorem execWaitComplete_of_done {s : State} {j : Nat} {x : Job} (h : s.job j = some x) (hw : s.waitDone x) :
    execWaitComplete j s = .next (s.endJob j .done 0 0) := by
  unfold execWaitComplete
  rw [h]
  exact congrArg Host.Outcome.next (if_pos hw)

theorem execWaitComplete_of_not {s : State} {j : Nat} (h : ∀ x, s.job j = some x → ¬ s.waitDone x) : execWaitComplete j s = .next s := by
  unfold execWaitComplete
  cases hj : s.job j with
  | none => rfl
  | some x => exact congrArg Host.Outcome.next (if_neg (h x hj))

theorem State.waitHolds_congr {s t : State} (h : t.parts = s.parts) (x : Job) : t.waitHolds x = s.waitHolds x := by
  unfold State.waitHolds State.part
  rw [h]

theorem State.part_congr {s t : State} (h : t.parts = s.parts) (k : Nat) : t.part k = s.part k := by
  unfold State.part
  rw [h]

/-- One wait of the walk through the packets changes at most its own packet. -/
theorem State.by_waitComplete (s : State) (j : Nat) :
    (∃ po, s.by (execWaitComplete j) = { s with portal := po } ∧ po.msix = s.portal.msix) ∧
    (∀ i x, s.job i = some x → ¬ s.waitDone x → (s.by (execWaitComplete j)).job i = some x) ∧
    (∀ i x, s.job i = some x → s.waitDone x → (s.by (execWaitComplete j)).job i =
      some (if i = j then Claims.ends x .done 0 0 else x)) := by
  cases hj : s.job j with
  | none =>
    have h : s.by (execWaitComplete j) = s := State.by_next (execWaitComplete_of_not (fun x hx => by rw [hj] at hx; cases hx))
    rw [h]
    refine ⟨⟨s.portal, rfl, rfl⟩, fun i x hi _ => hi, fun i x hi _ => ?_⟩
    rw [if_neg (fun hij => by rw [hij, hj] at hi; cases hi), hi]
  | some y =>
    by_cases hw : s.waitDone y
    · have h : s.by (execWaitComplete j) = s.endJob j .done 0 0 := State.by_next (execWaitComplete_of_done hj hw)
      rw [h]
      refine ⟨⟨_, rfl, rfl⟩, fun i x hi hn => ?_, fun i x hi _ => ?_⟩
      · refine (State.job_onJob ..).trans ((if_neg (fun hij => ?_)).trans hi)
        rw [hij, hj] at hi
        exact hn (Option.some.inj hi ▸ hw)
      · refine (State.job_onJob ..).trans ?_
        by_cases hij : i = j
        · rw [if_pos hij, if_pos hij, ← hij, hi]
          rfl
        · rw [if_neg hij, if_neg hij, hi]
    · have h : s.by (execWaitComplete j) = s := State.by_next (execWaitComplete_of_not (fun x hx => by
        rw [hj] at hx
        exact Option.some.inj hx ▸ hw))
      rw [h]
      refine ⟨⟨s.portal, rfl, rfl⟩, fun i x hi _ => hi, fun i x hi hx => ?_⟩
      rw [if_neg (fun hij => ?_), hi]
      rw [hij, hj] at hi
      exact hw (Option.some.inj hi ▸ hx)

/-- The walk through the packets completes the started waits whose condition holds, and nothing else. -/
theorem State.settleWaits_spec (s : State) :
    (∃ po, s.settleWaits = { s with portal := po } ∧ po.msix = s.portal.msix) ∧
    (∀ i x, s.job i = some x → ¬ s.waitDone x → s.settleWaits.job i = some x) ∧
    (∀ i x, s.job i = some x → s.waitDone x → s.settleWaits.job i = some (Claims.ends x .done 0 0)) := by
  have hwalk : ∀ (l : List (Nat × Job)) (q : State),
      (∃ po, l.foldl (fun s e => s.by (execWaitComplete e.1)) q = { q with portal := po } ∧ po.msix = q.portal.msix) ∧
      (∀ i x, q.job i = some x → ¬ q.waitDone x → (l.foldl (fun s e => s.by (execWaitComplete e.1)) q).job i = some x) ∧
      (∀ i x, q.job i = some x → q.waitDone x → (l.foldl (fun s e => s.by (execWaitComplete e.1)) q).job i =
        some (if i ∈ l.map Prod.fst then Claims.ends x .done 0 0 else x)) := by
    intro l
    induction l with
    | nil => exact fun q => ⟨⟨q.portal, rfl, rfl⟩, fun i x h _ => h, fun i x h _ => h⟩
    | cons a l ih =>
      intro q
      obtain ⟨⟨po, h1, h1m⟩, h2, h3⟩ := q.by_waitComplete a.1
      obtain ⟨⟨po', g1, g1m⟩, g2, g3⟩ := ih (q.by (execWaitComplete a.1))
      have hdone : ∀ x, (q.by (execWaitComplete a.1)).waitDone x ↔ q.waitDone x := fun x => by
        unfold State.waitDone
        rw [State.waitHolds_congr (s := q) (by rw [h1])]
      rw [List.foldl_cons]
      refine ⟨⟨po', ?_, ?_⟩, fun i x hi hn => g2 i x (h2 i x hi hn) (fun h => hn ((hdone x).1 h)), fun i x hi hd => ?_⟩
      · rw [g1, h1]
      · rw [g1m, h1]
        exact h1m
      · have hi' := h3 i x hi hd
        rw [List.map_cons]
        by_cases hij : i = a.1
        · rw [if_pos hij] at hi'
          rw [if_pos (List.mem_cons.2 (Or.inl hij))]
          exact g2 i _ hi' (fun h => by cases h.1)
        · rw [if_neg hij] at hi'
          rw [g3 i x hi' ((hdone x).2 hd)]
          simp only [List.mem_cons, hij, false_or]
  obtain ⟨h1, h2, h3⟩ := hwalk s.portal.jobs s
  refine ⟨h1, h2, fun i x hi hd => (h3 i x hi hd).trans ?_⟩
  have hmem : i ∈ s.portal.jobs.map Prod.fst := by
    unfold State.job at hi
    obtain ⟨e, he, -⟩ := Option.map_eq_some_iff.1 hi
    exact List.mem_map.2 ⟨e, List.mem_of_find?_eq_some he, eq_of_beq (List.find?_some (p := fun e : Nat × Job => e.1 == i) he)⟩
  rw [if_pos hmem]

/-- A counter that takes a value reads it, its neighbours are kept, and each wait that it satisfies completes. -/
theorem State.setCounter_spec (s : State) (k c : Nat) (v : Word) :
    (∃ pa po, s.setCounter k c v = { s with parts := pa, portal := po } ∧ po.msix = s.portal.msix) ∧
    (∀ m, ((s.setCounter k c v).part k).ctrs.get m 0 = if m = c then v else (s.part k).ctrs.get m 0) ∧
    (∀ i x, s.job i = some x → x.phase ≠ .started → (s.setCounter k c v).job i = some x) ∧
    (∀ i x, s.job i = some x → x.phase = .started → x.form = some 0x50 → x.part = k → bitsOf (x.w 2) 7 0 = c →
      (x.w 3).toNat ≤ v.toNat → (s.setCounter k c v).job i = some (Claims.ends x .done 0 0)) := by
  obtain ⟨⟨po, h1, hm⟩, h2, h3⟩ := (s.onPart k (fun p => { p with ctrs := p.ctrs.set c v })).settleWaits_spec
  have hctr : ∀ m, ((s.onPart k (fun p => { p with ctrs := p.ctrs.set c v })).part k).ctrs.get m 0 =
      if m = c then v else (s.part k).ctrs.get m 0 := fun m => by
    rw [State.part_onPart_same]
    exact SMap.get_set ..
  refine ⟨⟨_, po, h1, hm⟩, fun m => ?_, fun i x hi hp => h2 i x hi (fun h => hp h.1), fun i x hi hp hf hk hc hv => h3 i x hi ⟨hp, hf, ?_⟩⟩
  · rw [← hctr m, State.setCounter, h1]
    rfl
  · refine decide_eq_true ?_
    rw [hk, hc, hctr, if_pos rfl]
    exact hv

/-! ### SIGNAL and WAIT -/

/-- SIGNAL with its new value: its line and vector follow. -/
def State.signalled (s : State) (j : Nat) (x : Job) (v : Word) : State :=
  (s.endJob j .done 0 0).setCounter x.part (bitsOf (x.w 2) 7 0) v

/-- The line of a signal, where it names one. -/
def State.signalLine (s : State) (x : Job) : State :=
  if bitOf (x.w 2) 10 then s.setLineHeld (bitsOf (x.w 2) 17 11) (bitsOf (x.w 2) 22 18) else s

/-- The vector of a signal, where it names one and has a port. -/
def State.signalVector (s : State) (x : Job) : State :=
  if bitOf (x.w 4) 16 && decide (x.port < 2) then
    { s with portal := { s.portal with msix := s.portal.msix ++ [(x.port, bitsOf (x.w 4) 15 0)] } }
  else s

theorem State.signal_starts {s : State} {j c : Nat} {x : Job} (h : Claims.starts s j c x) (f : Word → Word → Word) :
    s.signal j c f = .next (((s.signalled j x (f ((s.part x.part).ctrs.get (bitsOf (x.w 2) 7 0) 0) (x.w 3))).signalLine x).signalVector x) :=
  State.packet_start _ _ h

theorem State.signalVector_facts (s : State) (x : Job) :
    (s.signalVector x).parts = s.parts ∧ (∀ i, (s.signalVector x).job i = s.job i) ∧ (s.signalVector x).coaches = s.coaches ∧
    (s.signalVector x).mem = s.mem ∧ (s.signalVector x).portal.msix = s.portal.msix ++
      (if bitOf (x.w 4) 16 && decide (x.port < 2) then [(x.port, bitsOf (x.w 4) 15 0)] else []) := by
  unfold State.signalVector
  by_cases h : (bitOf (x.w 4) 16 && decide (x.port < 2)) = true
  · rw [if_pos h, if_pos h]
    exact ⟨rfl, fun _ => rfl, rfl, rfl, rfl⟩
  · rw [if_neg h, if_neg h]
    exact ⟨rfl, fun _ => rfl, rfl, rfl, (List.append_nil _).symm⟩

theorem State.signalLine_facts (s : State) (x : Job) :
    (s.signalLine x).parts = s.parts ∧ (s.signalLine x).portal = s.portal := by
  unfold State.signalLine
  split
  · obtain ⟨co, m, b, h⟩ := s.setLineHeld_eq (bitsOf (x.w 2) 17 11) (bitsOf (x.w 2) 22 18)
    rw [h]
    exact ⟨rfl, rfl⟩
  · exact ⟨rfl, rfl⟩

theorem State.waitHolds_iff (s : State) (x : Job) :
    s.waitHolds x = true ↔ (x.w 3).toNat ≤ ((s.part x.part).ctrs.get (bitsOf (x.w 2) 7 0) 0).toNat := decide_eq_true_iff

/-- An Ethernet completion that comes. -/
theorem execUetCompletion_eq {s : State} {k ctr : Nat} {v : Word} {line : Option Nat} (h1 : ctr < 256)
    (h2 : (s.part k).configured = true) (h3 : s.fw.ethOff ≠ -1) :
    execUetCompletion k ctr v line s = .next (match line with
      | none => s.setCounter k ctr v
      | some n => (s.setCounter k ctr v).setLineHeld (n / 32) (n % 32)) := by
  cases line <;> exact if_pos ⟨h1, h2, h3⟩

/-- Settles O51: a counter's change walks the packets once, and each of them that it satisfies completes; a line reaches each context
that its coach holds. -/
theorem signalsAndWaits : Obligations.SignalsAndWaits := by
  rintro s j n x hj rfl
  refine ⟨fun i v hi => ?_, fun hst => ⟨fun hle => ?_, fun hlt => ?_⟩, fun hp hf hle => ?_, fun hno => ?_, fun k ctr v line => ⟨fun hno => ?_,
    fun h1 h2 h3 => ?_⟩⟩
  · have hex : exec i s = .next (((s.signalled j x v).signalLine x).signalVector x) := by
      rcases hi with ⟨rfl, hst, rfl⟩ | ⟨rfl, hst, rfl⟩
      · exact State.signal_starts hst (fun _ v => v)
      · exact State.signal_starts hst (fun o v => o + v)
    have hjob : (s.endJob j .done 0 0).job j = some (Claims.ends x .done 0 0) := State.job_endJob hj ..
    obtain ⟨⟨pa, po, h1, hmsix⟩, h2, h3, h4⟩ := (s.endJob j .done 0 0).setCounter_spec x.part (bitsOf (x.w 2) 7 0) v
    obtain ⟨u, hu⟩ : ∃ u, u = s.signalled j x v := ⟨_, rfl⟩
    rw [show (s.endJob j .done 0 0).setCounter x.part (bitsOf (x.w 2) 7 0) v = u from hu.symm] at h1 h2 h3 h4
    rw [← hu] at hex
    obtain ⟨l1, l2⟩ := u.signalLine_facts x
    obtain ⟨v1, v2, v3, v4, v5⟩ := (u.signalLine x).signalVector_facts x
    have hctr : ∀ m, ((((u.signalLine x).signalVector x)).part x.part).ctrs.get m 0 =
        if m = bitsOf (x.w 2) 7 0 then v else (s.part x.part).ctrs.get m 0 := fun m => by
      rw [State.part_congr (v1.trans l1), h2]
      rfl
    have hkeep : ∀ i, ((u.signalLine x).signalVector x).job i = u.job i := fun i => (v2 i).trans (by unfold State.job; rw [l2])
    have hcoaches : u.coaches = s.coaches := by rw [h1]; rfl
    have hmem : u.mem = s.mem := by rw [h1]; rfl
    refine ⟨_, hex, ?_, ?_, fun m hm => ?_, fun hb => ?_, fun hb hwf y hy => ?_, ?_, fun k y hk hy hp hf hpart hn hle => ?_⟩
    · rw [hctr, if_pos rfl]
    · rw [hkeep]
      exact h3 j _ hjob (by rintro ⟨⟩)
    · rw [hctr, if_neg hm]
    · have hl : u.signalLine x = u := by
        unfold State.signalLine
        rw [hb]
        exact if_neg Bool.false_ne_true
      rw [v3, v4, hl]
      exact ⟨hcoaches, hmem⟩
    · have hl : u.signalLine x = u.setLineHeld (bitsOf (x.w 2) 17 11) (bitsOf (x.w 2) 22 18) := if_pos hb
      have hcoach : u.coach (bitsOf (x.w 2) 17 11) = s.coach (bitsOf (x.w 2) 17 11) := by
        unfold State.coach
        rw [hcoaches]
      rw [State.ctx_congr v3, hl, State.ctx_setLineHeld _ _ _ (by rw [hcoach]; exact hwf) (by rw [hcoach]; exact hy),
        State.ctx_congr hcoaches]
      exact Context.lineSet_setLine _ _
    · rw [v5, l2, h1]
      exact congrArg (· ++ _) hmsix
    · rw [hkeep]
      refine h4 k y ?_ hp hf hpart hn hle
      exact (State.job_onJob ..).trans ((if_neg hk).trans hy)
  · refine ⟨_, (State.packet_start _ _ hst).trans (congrArg Host.Outcome.next (if_pos ((s.waitHolds_iff x).2 hle))),
      State.job_endJob hj .., rfl⟩
  · refine ⟨_, (State.packet_start _ _ hst).trans (congrArg Host.Outcome.next (if_neg (fun h => ?_))), State.job_onJob_same _ hj, rfl⟩
    exact absurd ((s.waitHolds_iff x).1 h) (Nat.not_le.2 hlt)
  · exact ⟨_, execWaitComplete_of_done hj ⟨hp, hf, (s.waitHolds_iff x).2 hle⟩, State.job_endJob hj .., rfl⟩
  · refine execWaitComplete_of_not (fun y hy h => ?_)
    obtain rfl : x = y := Option.some.inj (hj.symm.trans hy)
    obtain ⟨hp, hf, hw⟩ := h
    rcases hno with h | h | h
    · exact h hp
    · exact h hf
    · exact absurd ((s.waitHolds_iff x).1 hw) (Nat.not_le.2 h)
  · refine if_neg (fun h => ?_)
    obtain ⟨h1, h2, h3⟩ := h
    rcases hno with h | h | h
    · omega
    · rw [h] at h2
      cases h2
    · exact h3 h
  · obtain ⟨⟨pa, po, e1, -⟩, e2, -, -⟩ := s.setCounter_spec k ctr v
    have hex := execUetCompletion_eq (v := v) (line := line) h1 h2 h3
    have hcoaches : (s.setCounter k ctr v).coaches = s.coaches := by rw [e1]
    have hmem : (s.setCounter k ctr v).mem = s.mem := by rw [e1]
    cases line with
    | none =>
      refine ⟨_, hex, ?_, fun m hm => ?_, fun _ => ⟨hmem, hcoaches⟩, fun l hl => by cases hl⟩
      · rw [e2, if_pos rfl]
      · rw [e2, if_neg hm]
    | some l =>
      obtain ⟨co, m, b, hl⟩ := (s.setCounter k ctr v).setLineHeld_eq (l / 32) (l % 32)
      have hparts : ((s.setCounter k ctr v).setLineHeld (l / 32) (l % 32)).parts = (s.setCounter k ctr v).parts := by rw [hl]
      refine ⟨_, hex, ?_, fun m hm => ?_, fun h => absurd h (Option.some_ne_none l), fun l' hl' hwf y hy => ?_⟩
      · rw [State.part_congr hparts, e2, if_pos rfl]
      · rw [State.part_congr hparts, e2, if_neg hm]
      · obtain rfl : l = l' := Option.some.inj hl'
        have hcoach : (s.setCounter k ctr v).coach (l / 32) = s.coach (l / 32) := by
          unfold State.coach
          rw [hcoaches]
        rw [State.ctx_setLineHeld _ _ _ (by rw [hcoach]; exact hwf) (by rw [hcoach]; exact hy), State.ctx_congr hcoaches]
        exact Context.lineSet_setLine _ _

end Sys2Proof.Machine

end

section
/-! Packets that launch (16 R364 to R371; 25 R481). -/
namespace Sys2Proof.Machine

/-! ### LAUNCH_TIMED -/

theorem State.loadObject_eq (s : State) (k obj : Nat) : ∃ pa, (s.loadObject k obj).1 = { s with parts := pa } := by
  unfold State.loadObject
  split
  · exact ⟨s.parts, rfl⟩
  · split
    · split
      · exact ⟨_, rfl⟩
      · split <;> exact ⟨_, rfl⟩
    · exact ⟨_, rfl⟩

/-- Choosing the image of a launch changes partitions only. -/
theorem State.chooseImage_eq (s : State) (k obj : Nat) : ∃ pa, (s.chooseImage k obj).1 = { s with parts := pa } := by
  unfold State.chooseImage
  split
  · exact ⟨s.parts, rfl⟩
  · exact s.loadObject_eq k obj

theorem State.rejectRead_eq (s : State) (j : Nat) (x : Job) (sp a : Nat) :
    ∃ fw, s.rejectRead j x sp a = ({ s with fw := fw } : State).rejectJob j 10 (BitVec.ofNat 64 a) := by
  unfold State.rejectRead
  split
  · split
    · next p _ _ =>
      obtain ⟨fw, h⟩ := s.countUnc_eq p.source
      exact ⟨fw, by rw [h]⟩
    · exact ⟨s.fw, rfl⟩
  · exact ⟨s.fw, rfl⟩

theorem State.job_congr {s t : State} (h : t.portal = s.portal) (j : Nat) : t.job j = s.job j := by
  unfold State.job
  rw [h]

/-- A packet rejected for what it could not read ends with reason 10 and the address. -/
theorem State.job_rejectRead {s : State} {j : Nat} {x y : Job} (h : s.job j = some y) (sp a : Nat) :
    (s.rejectRead j x sp a).job j = some (Claims.ends y .rejected 10 (BitVec.ofNat 64 a)) := by
  obtain ⟨fw, hr⟩ := s.rejectRead_eq j x sp a
  rw [hr]
  exact State.job_rejectJob (s := { s with fw := fw }) h ..

theorem State.approves_congr {s t : State} (h : t.dies = s.dies) (x : Partition) (es : List StageEntry) :
    t.approves x es = s.approves x es := by
  unfold State.approves State.die
  rw [h]

theorem State.enterSeed_eq (s : State) (r : SeedRec) : ∃ fw, s.enterSeed r = { s with fw := fw } := by
  unfold State.enterSeed
  split
  · exact ⟨s.fw, rfl⟩
  · exact ⟨_, rfl⟩

theorem State.chooseAtk0_eq (s : State) (x : Partition) : ∃ n, (s.chooseAtk0 x).2 = { s with free := n } := by
  unfold State.chooseAtk0
  dsimp only
  split
  · exact ⟨s.free + 1, rfl⟩
  · exact ⟨s.free, rfl⟩

/-- The run of partition `k` as launch `lid` of packet `j` is loaded for ATK0 `a`. -/
def State.loadingRun (s : State) (k lid j : Nat) (a : Tick) (ovl : Option Nat) : TimedRun :=
  { phase := .loading, lid := lid, atk0 := a, header := timedHeader (s.part k).resident.image, stages := stagesOf (s.part k).resident.image,
    lays := laysOf (s.part k).resident.image, links := linksOf (s.part k).resident.image, cmem := cmemOf (s.part k).resident.image,
    overlap := ovl, job := some j }

/-- What the units of a loaded launch hold. -/
theorem State.loadUnits_spec {s : State} {j : Nat} {x : Job} (hj : s.job j = some x) (k lid : Nat) (ovl : Option Nat) :
    ((s.loadUnits k lid j ovl).part k).run.phase = .loading ∧ ((s.loadUnits k lid j ovl).part k).run.lid = lid ∧
    ((s.loadUnits k lid j ovl).part k).run.overlap = ovl ∧ (s.loadUnits k lid j ovl).nextLid = s.nextLid ∧
    (s.loadUnits k lid j ovl).mem = s.mem ∧ (s.loadUnits k lid j ovl).job j = some { x with phase := .started, lid := lid } := by
  have hload : ∀ (l : List (Nat × Nat)) (f : Nat × Nat → Pipe → Pipe) (s : State),
      ∃ ps, l.foldl (fun s e => s.onPipe e.2 (f e)) s = { s with pipes := ps } := by
    intro l f
    induction l with
    | nil => exact fun s => ⟨s.pipes, rfl⟩
    | cons e l ih => exact fun s => ih (s.onPipe e.2 (f e))
  obtain ⟨ps, h1⟩ := hload (s.part k).places
    (fun e p => p.load (s.part k).resident.image (timedHeader (s.part k).resident.image) e.1 (s.part k).seatsPer) s
  obtain ⟨n, h2⟩ := ({ s with pipes := ps } : State).chooseAtk0_eq (s.part k)
  have he : ∃ r : TimedRun, s.loadUnits k lid j ovl =
      (({ s with pipes := ps, free := n } : State).onRun k (fun _ => r)).onJob (some j)
        (fun y => { y with phase := .started, lid := lid }) ∧ r.phase = .loading ∧ r.lid = lid ∧ r.overlap = ovl := by
    refine ⟨s.loadingRun k lid j (({ s with pipes := ps } : State).chooseAtk0 (s.part k)).1 ovl, ?_, rfl, rfl, rfl⟩
    unfold State.loadUnits
    dsimp only
    rw [h1, h2] <;> rfl
  obtain ⟨r, he, hp, hl, ho⟩ := he
  rw [he]
  obtain ⟨v, hv⟩ : ∃ v : State, v = { s with pipes := ps, free := n } := ⟨_, rfl⟩
  have hvj : v.job j = some x := by rw [hv]; exact hj
  have hrun : ((v.onRun k (fun _ => r)).part k).run = r := by rw [State.run_onRun, if_pos rfl]
  rw [← hv]
  have hpart : (((v.onRun k (fun _ => r)).onJob (some j) (fun y => { y with phase := .started, lid := lid })).part k).run = r := hrun
  refine ⟨?_, ?_, ?_, ?_, ?_, State.job_onJob_same _ hvj⟩
  · rw [hpart, hp]
  · rw [hpart, hl]
  · rw [hpart, ho]
  · rw [hv]; rfl
  · rw [hv]; rfl

theorem timedLaunchesLoad_claim : Claims.TimedLaunchesLoad := by
  rintro s j x k hst rfl
  have hj : s.job j = some x := hst.1
  have hgo := fun go => State.packet_start (s := s) (j := j) (c := 0x10) (x := x) go (fun _ => s) hst
  refine ⟨fun hex => (hgo _).trans (congrArg Host.Outcome.next (if_pos hex)), fun hex u why hch => ?_, fun o ho => ?_⟩
  · have hexf : ¬ s.excluded j x = true := by rw [hex]; exact Bool.false_ne_true
    obtain ⟨pa, hpa⟩ := s.chooseImage_eq x.part (x.w 2).toNat
    rw [hch] at hpa
    have hpa : u = { s with parts := pa } := hpa
    have huj : u.job j = some x := by rw [hpa]; exact hj
    refine ⟨fun r a hr => ?_, fun hnone r hr => ?_, fun hnone hacc h r hh hrec => ⟨fun hspan hbef => ?_, fun hturn =>
      ⟨fun l hl hflt => ?_, fun hclear => ⟨fun happ => ?_, fun happ => ?_⟩⟩⟩⟩
    · subst hr
      by_cases h10 : r = 10
      · refine ⟨u.rejectRead j x 1 a.toNat, (hgo _).trans (congrArg Host.Outcome.next ?_), ?_, fun h => absurd h10 h⟩
        · dsimp only
          rw [if_neg hexf, hch]
          exact if_pos h10
        · rw [State.job_rejectRead huj]
          rfl
      · refine ⟨u.rejectJob j r a, (hgo _).trans (congrArg Host.Outcome.next ?_), ?_, fun _ => ?_⟩
        · dsimp only
          rw [if_neg hexf, hch]
          exact if_neg h10
        · rw [State.job_rejectJob huj]
          rfl
        · rw [State.job_rejectJob huj]
          rfl
    · subst hnone
      refine ⟨u.rejectJob j r 0, (hgo _).trans (congrArg Host.Outcome.next ?_), ?_⟩
      · dsimp only
        rw [if_neg hexf, hch]
        dsimp only
        rw [hr]
      · rw [State.job_rejectJob huj]
        rfl
    · subst hnone hh hrec
      refine (hgo _).trans (congrArg Host.Outcome.next ?_)
      dsimp only
      rw [if_neg hexf, hch]
      dsimp only
      rw [hacc]
      exact if_pos ⟨hspan, hbef⟩
    · subst hnone hh hrec
      refine ⟨(u.endJob j .seedFault 0 (BitVec.ofNat 64 l)).onJob (some j) (fun y => { y with overlap := true }),
        (hgo _).trans (congrArg Host.Outcome.next ?_), rfl, ?_⟩
      · dsimp only
        rw [if_neg hexf, hch]
        dsimp only
        rw [hacc]
        dsimp only
        rw [if_neg (fun hh => hturn.elim (fun h => hh.1 h) (fun h => absurd (h.symm.trans hh.2) Bool.false_ne_true)), hl, hflt]
        rfl
      · rw [State.job_onJob_same _ (State.job_endJob huj ..)]
        rfl
    all_goals
      subst hnone hh hrec
      obtain ⟨fw, hseed⟩ := u.enterSeed_eq (seedOf (timedHeader (u.part x.part).resident.image) u.nextLid)
      obtain ⟨v, hv⟩ : ∃ v : State, v = { u.enterSeed (seedOf (timedHeader (u.part x.part).resident.image) u.nextLid) with
        nextLid := u.nextLid + 1 } := ⟨_, rfl⟩
      have hvj : v.job j = some x := (State.job_congr (by rw [hv, hseed]) j).trans huj
      have hpart : v.part x.part = u.part x.part := State.part_congr (by rw [hv, hseed]) _
      have hmem : v.mem = u.mem := by rw [hv, hseed]
      have hnext : v.nextLid = u.nextLid + 1 := by rw [hv]
      have happv : v.approves (v.part x.part) (stagesOf (v.part x.part).resident.image) =
          u.approves (u.part x.part) (stagesOf (u.part x.part).resident.image) := by
        rw [hpart]
        exact State.approves_congr (by rw [hv, hseed]) _ _
      obtain ⟨cl, hcl⟩ : ∃ cl, cl = u.seedClash (seedOf (timedHeader (u.part x.part).resident.image) u.nextLid) := ⟨_, rfl⟩
      have hgo' : exec (.launchTimed j) s = .next (if v.approves (v.part x.part) (stagesOf (v.part x.part).resident.image) then
          v.loadUnits x.part u.nextLid j cl else (v.rejectJob j 11 (BitVec.ofNat 64 (cl.getD 0))).onJob (some j)
            (fun y => { y with lid := u.nextLid, overlap := cl.isSome })) := by
        refine (hgo _).trans (congrArg Host.Outcome.next ?_)
        dsimp only
        rw [if_neg hexf, hch]
        dsimp only
        rw [hacc]
        dsimp only
        rw [if_neg (fun hh => hturn.elim (fun h => hh.1 h) (fun h => absurd (h.symm.trans hh.2) Bool.false_ne_true)), ← hcl, ← hv, if_neg]
        rcases hclear with h | h
        · rw [hcl, h]
          exact Bool.false_ne_true
        · rw [h, Bool.and_false]
          exact Bool.false_ne_true
      rw [happv, happ] at hgo'
    · refine ⟨_, hgo'.trans (congrArg Host.Outcome.next (if_neg Bool.false_ne_true)), ?_⟩
      rw [State.job_onJob_same _ (State.job_rejectJob hvj ..)]
      rfl
    · obtain ⟨h1, h2, h3, h4, h5, h6⟩ := State.loadUnits_spec hvj x.part u.nextLid cl
      refine ⟨_, hgo'.trans (congrArg Host.Outcome.next (if_pos rfl)), h1, h2, h3.trans hcl, h4.trans hnext, h5.trans hmem, ?_⟩
      rw [h6]
      rfl
  · subst ho
    unfold State.chooseImage
    rw [if_pos rfl]
    cases (s.part x.part).resident.image <;> rfl

/-! ### LAUNCH_DYN -/

theorem State.launch_onLaunch_same {s : State} {lid : Nat} {l : Launch} (f : Launch → Launch) (h : s.launch lid = some l) :
    (s.onLaunch lid f).launch lid = some (f l) := by
  unfold State.onLaunch
  rw [h]
  exact (s.launch_set lid lid (f l)).trans (if_pos rfl)

/-- A new launch with no parent. -/
def Launch.fresh (k d : Nat) (h : List Word) (ev : SMap (BitVec 32)) (p : Bool) (job : Option Nat) : Launch :=
  { part := k, die := d, header := h, evinit := ev, progress := p, parent := none, phase := .spilled, wakes := [], age := 0, kids := 0,
    flags := 0, began := none, job := job, killed := none }

/-- A launch with no parent as it stands in its pool. -/
theorem State.launch_newLaunch_takeIn (s : State) (k d : Nat) (h : List Word) (ev : SMap (BitVec 32)) (p : Bool) (job : Option Nat) :
    ∃ l, ((s.newLaunch k d h ev p none job).takeIn d s.nextLid).launch s.nextLid = some l ∧ l.header = h ∧ l.part = k ∧ l.progress = p ∧
      l.wakes = hCoaches h ∧ l.phase = .pooled := by
  unfold State.takeIn
  have hnew := (s.launch_set s.nextLid s.nextLid (Launch.fresh k d h ev p job)).trans (if_pos rfl)
  exact ⟨_, State.launch_onLaunch_same _ hnew, rfl, rfl, rfl, rfl, rfl⟩

theorem dynamicLaunchesEnter_claim : Claims.DynamicLaunchesEnter := by
  rintro s j x k hst rfl
  have hj : s.job j = some x := hst.1
  have hgo := fun go => State.packet_start (s := s) (j := j) (c := 0x20) (x := x) go (fun _ => s) hst
  refine ⟨fun a ha => ?_, fun bs h hbs hh => ⟨fun hok => ?_, fun hok => ⟨fun a ha => ?_, fun es hes => ⟨fun hev => ?_, fun hev =>
    ⟨fun hfull => ?_, fun hroom => ?_⟩⟩⟩⟩⟩
  · obtain ⟨fw, hr⟩ := s.rejectRead_eq j x 1 a
    refine ⟨s.rejectRead j x 1 a, (hgo _).trans (congrArg Host.Outcome.next ?_), State.job_rejectRead hj .., by rw [hr]; rfl⟩
    dsimp only
    rw [ha]
  · subst hh
    refine ⟨s.rejectJob j 5 0, (hgo _).trans (congrArg Host.Outcome.next ?_), State.job_rejectJob hj .., rfl⟩
    dsimp only
    rw [hbs]
    dsimp only
    rw [hok]
    rfl
  · subst hh
    obtain ⟨fw, hr⟩ := s.rejectRead_eq j x 1 a
    refine ⟨s.rejectRead j x 1 a, (hgo _).trans (congrArg Host.Outcome.next ?_), State.job_rejectRead hj .., by rw [hr]; rfl⟩
    dsimp only
    rw [hbs]
    dsimp only
    rw [hok, ha]
    rfl
  all_goals subst hh
  all_goals
    have hgo' : exec (.launchDyn j) s = .next (
        if !(evinitOk (evinitOf (hFcoach (wordsOf bs)) es) (hFcoach (wordsOf bs)) (hNcoach (wordsOf bs))) then s.rejectJob j 6 0
        else if poolAdmits (s.die (dieOfCoach (hFcoach (wordsOf bs)))).pool.length true then
          ((s.newLaunch x.part (dieOfCoach (hFcoach (wordsOf bs))) (wordsOf bs) (evinitOf (hFcoach (wordsOf bs)) es) true none
            (some j)).takeIn (dieOfCoach (hFcoach (wordsOf bs))) s.nextLid).onJob (some j)
              (fun y => { y with phase := .started, lid := s.nextLid })
        else s) := by
      refine (hgo _).trans (congrArg Host.Outcome.next ?_)
      dsimp only
      rw [hbs]
      dsimp only
      rw [hok, hes]
      rfl
    rw [hev] at hgo'
  · exact ⟨_, hgo'.trans (congrArg Host.Outcome.next (if_pos rfl)), State.job_rejectJob hj .., rfl⟩
  · refine (hgo'.trans (congrArg Host.Outcome.next (if_neg Bool.false_ne_true))).trans (congrArg Host.Outcome.next (if_neg ?_))
    exact fun h => absurd (of_decide_eq_true h) (Nat.not_lt.2 hfull)
  · obtain ⟨d, hd⟩ : ∃ d, d = dieOfCoach (hFcoach (wordsOf bs)) := ⟨_, rfl⟩
    rw [← hd] at hgo' hroom ⊢
    obtain ⟨ev, hevd⟩ : ∃ ev, ev = evinitOf (hFcoach (wordsOf bs)) es := ⟨_, rfl⟩
    rw [← hevd] at hgo'
    obtain ⟨w, hw, -, -, hnext, hmem, hpool, -⟩ := s.newLaunch_takeIn x.part d (wordsOf bs) ev true none (some j)
    obtain ⟨l, hl, hlaunch⟩ := s.launch_newLaunch_takeIn x.part d (wordsOf bs) ev true (some j)
    obtain ⟨ls, e1⟩ := s.newLaunch_eq x.part d (wordsOf bs) ev true none (some j)
    obtain ⟨ls', e2⟩ := (s.newLaunch x.part d (wordsOf bs) ev true none (some j)).takeIn_eq d s.nextLid
    rw [← hw] at hgo' hl e2
    have hwj : w.job j = some x := (State.job_congr (by rw [e2, e1]; rfl) j).trans hj
    obtain ⟨l1, l2, l3, l4, l5⟩ := hlaunch
    refine ⟨_, l, hgo'.trans (congrArg Host.Outcome.next ((if_neg Bool.false_ne_true).trans (if_pos (decide_eq_true hroom)))), hnext, hl,
      l1, l2, l3, l4, l5, hpool, hmem, State.job_onJob_same _ hwj⟩

end Sys2Proof.Machine

end

section
/-! COPY and fill packets (O52; 16 R359; 17 R389). -/
namespace Sys2Proof.Machine

/-! ### Places -/

theorem State.WalkedTo.spot (s : State) (port k sp a : Nat) (wr : Bool) : s.WalkedTo (s.spot port k sp a wr).2 := by
  unfold State.spot
  split
  · exact State.WalkedTo.refl s
  · split
    · exact State.WalkedTo.refl s
    · unfold State.pagedSpot
      have ht := State.WalkedTo.translate s .copy k a
      split
      · next h =>
        rw [h] at ht
        exact ht
      · next e3 big s1 h =>
        rw [h] at ht
        dsimp only
        split
        · split <;> exact ht
        · exact ht

theorem State.WalkedTo.portal {s u : State} (h : s.WalkedTo u) : u.portal = s.portal := by
  obtain ⟨_, _, _, _, rfl⟩ := h
  rfl

theorem State.WalkedTo.mem {s u : State} (h : s.WalkedTo u) : u.mem = s.mem := by
  obtain ⟨_, _, _, _, rfl⟩ := h
  rfl

theorem State.WalkedTo.pipes {s u : State} (h : s.WalkedTo u) : u.pipes = s.pipes := by
  obtain ⟨_, _, _, _, rfl⟩ := h
  rfl

theorem State.portal_spotWrite (s : State) (p : Spot) (bs : List Byte) : (s.spotWrite p bs).portal = s.portal := by
  cases p <;> rfl

theorem State.portal_copyBytes (s : State) (port k sp a n : Nat) (d : Option Spot) :
    (s.copyBytes port k sp a n d).1.portal = s.portal := by
  induction n generalizing s a d with
  | zero => rfl
  | succ n ih =>
    have hw := State.WalkedTo.spot s port k sp a false
    unfold State.copyBytes
    split
    · next h =>
      rw [h] at hw
      exact hw.portal
    · next p s1 h =>
      rw [h] at hw
      split
      · exact (hw.trans (State.WalkedTo.countUnc s1 p.source)).portal
      · dsimp only
        rw [ih]
        cases d with
        | none => exact hw.portal
        | some d => exact (s1.portal_spotWrite d _).trans hw.portal

/-! ### A piece -/

/-- A packet after a piece of `n` bytes. -/
def Job.afterPiece (x : Job) (n : Nat) : Job :=
  if x.copyLen ≤ x.moved + n then Claims.ends { x with moved := x.moved + n } .done 0 0 else { x with phase := .started, moved := x.moved + n }

/-- The packet's note of a piece that has moved. -/
def State.pieceMoved (s : State) (j : Nat) (x : Job) (n : Nat) : State :=
  let s4 := s.onJob (some j) (fun y => { y with phase := .started, moved := x.moved + n })
  if x.copyLen ≤ x.moved + n then s4.endJob j .done 0 0 else s4

theorem State.pieceMoved_spec {s : State} {j : Nat} {x : Job} (h : s.job j = some x) (n : Nat) :
    (s.pieceMoved j x n).job j = some (x.afterPiece n) ∧ (s.pieceMoved j x n).mem = s.mem ∧ (s.pieceMoved j x n).pipes = s.pipes := by
  have h1 := State.job_onJob_same (fun y => { y with phase := .started, moved := x.moved + n }) h
  unfold State.pieceMoved Job.afterPiece
  split
  · exact ⟨State.job_endJob h1 .., rfl, rfl⟩
  · exact ⟨h1, rfl, rfl⟩

/-- The packet's end at an address that stops it. -/
def State.pieceStop (s : State) (j a : Nat) : State := s.endJob j .aborted 10 (BitVec.ofNat 64 a)

/-- The packet after a piece that ran to its end, or stopped. -/
def State.pieceEnd (s : State) (j : Nat) (x : Job) (n : Nat) (stop : Option Nat) : State :=
  match stop with
  | some a => s.pieceStop j a
  | none => s.pieceMoved j x n

/-- What lands of the bytes of a piece: all of them, or none where the host access fails. -/
def State.pieceLand (s v : State) (d : Spot) (n : Nat) (bs : List Byte) : State :=
  if s.spotFails d n then v.countUnc d.source else v.spotWrite d bs

theorem State.pieceLand_spec (s v : State) (d : Spot) (n : Nat) (bs : List Byte) :
    (s.pieceLand v d n bs).portal = v.portal ∧
    (s.spotFails d n = false → (s.pieceLand v d n bs).mem = (v.spotWrite d bs).mem ∧
      (s.pieceLand v d n bs).pipes = (v.spotWrite d bs).pipes) ∧
    (s.spotFails d n = true → (s.pieceLand v d n bs).mem = v.mem ∧ (s.pieceLand v d n bs).pipes = v.pipes) := by
  unfold State.pieceLand
  cases s.spotFails d n with
  | false => exact ⟨v.portal_spotWrite d bs, fun _ => ⟨rfl, rfl⟩, fun h => absurd h Bool.false_ne_true⟩
  | true =>
    have hw := State.WalkedTo.countUnc v d.source
    exact ⟨hw.portal, fun h => absurd h.symm Bool.false_ne_true, fun _ => ⟨hw.mem, hw.pipes⟩⟩

section
variable {s u : State} {j : Nat} {x : Job} {n dst src : Nat}

theorem State.copyPiece_noPlace (hd : dst = (x.w 3).toNat + x.moved) (hs : src = (x.w 2).toNat + x.moved)
    (hp : s.spot x.port x.part x.dsp dst true = (none, u)) :
    ∃ (v : State) (a : Nat), s.copyPiece j x = v.pieceStop j a ∧ s.WalkedTo v ∧ (a = dst ∨ (x.fill = false ∧ a = src)) := by
  subst hd hs
  have hu := State.WalkedTo.spot s x.port x.part x.dsp ((x.w 3).toNat + x.moved) true
  unfold State.copyPiece
  dsimp only
  rw [hp] at hu ⊢
  dsimp only
  cases hf : x.fill with
  | true => exact ⟨u, _, rfl, hu, Or.inl rfl⟩
  | false =>
    have hv := State.WalkedTo.spot u x.port x.part x.ssp ((x.w 2).toNat + x.moved) false
    rcases hq : u.spot x.port x.part x.ssp ((x.w 2).toNat + x.moved) false with ⟨_ | p, v⟩ <;> rw [hq] at hv
    · exact ⟨v, _, rfl, hu.trans hv, Or.inr ⟨rfl, rfl⟩⟩
    · exact ⟨v, _, rfl, hu.trans hv, Or.inl rfl⟩

theorem State.copyPiece_fill {d : Spot} (hn : n = x.piece x.moved) (hd : dst = (x.w 3).toNat + x.moved)
    (hp : s.spot x.port x.part x.dsp dst true = (some d, u)) (hf : x.fill = true) :
    s.copyPiece j x = (u.pieceLand u d n
      ((List.range n).map (fun i => (toBytes 8 (x.w 5).toNat).getD ((x.moved + i) % 8) 0))).pieceMoved j x n := by
  subst hd hn
  unfold State.copyPiece
  dsimp only
  rw [hp]
  dsimp only
  rw [if_pos hf]
  rfl

theorem State.copyPiece_copy {d : Spot} {v : State} {bs : List Byte} {stop : Option Nat} (hn : n = x.piece x.moved)
    (hd : dst = (x.w 3).toNat + x.moved) (hs : src = (x.w 2).toNat + x.moved)
    (hp : s.spot x.port x.part x.dsp dst true = (some d, u)) (hf : x.fill = false)
    (hc : u.copyBytes x.port x.part x.ssp src n (if u.spotFails d n then none else some d) = (v, bs, stop)) :
    s.copyPiece j x = (u.pieceLand v d n bs).pieceEnd j x n stop := by
  subst hd hn hs
  unfold State.copyPiece
  dsimp only
  rw [hp]
  dsimp only
  simp only [hf, Bool.false_eq_true, if_false, hc]
  cases stop <;> rfl

end

/-! ### Between host addresses -/

theorem State.damaged_eq_false {s : State} (hb : s.bad = []) (hf : s.fw.hostOff = 0) (pa n : Nat) : s.damaged pa n = false := by
  unfold State.damaged State.portGone
  rw [hb, hf]
  cases physSource pa <;> simp

theorem State.spotFails_eq_false {s : State} (hb : s.bad = []) (hf : s.fw.hostOff = 0) (d : Spot) (n : Nat) : s.spotFails d n = false := by
  cases d with
  | phys a =>
    simp only [State.spotFails, State.hostStoreFails, s.damaged_eq_false hb hf, Bool.and_false]
  | tensor g o => rfl

theorem State.spot_host (s : State) (port k a : Nat) (wr : Bool) : s.spot port k 0 a wr = (some (.phys (hostAddr port a)), s) :=
  if_pos rfl

theorem State.copyBytes_succ {s s1 : State} {port k sp a n : Nat} {d p : Spot} {b : Byte}
    (h1 : s.spot port k sp a false = (some p, s1)) (h2 : s1.spotRead p = some b) :
    s.copyBytes port k sp a (n + 1) (some d) = (fun r : State × List Byte × Option Nat => (r.1, b :: r.2.1, r.2.2))
      ((s1.spotWrite d [b]).copyBytes port k sp (a + 1) n (some (d.plus 1))) := by
  rw [State.copyBytes, h1]
  dsimp only
  rw [h2]
  rfl

theorem List.map_range_succ_from {α : Type} (g : Nat → α) (a n : Nat) :
    (List.range (n + 1)).map (fun m => g (a + m)) = g a :: (List.range n).map (fun m => g (a + 1 + m)) := by
  rw [List.range_succ_eq_map, List.map_cons, List.map_map]
  refine congrArg (List.cons _) (List.map_congr_left (fun m _ => ?_))
  rw [Function.comp_apply, Nat.succ_eq_add_one, show a + 1 + m = a + (m + 1) by omega]

/-- A COPY between host addresses that do not overlap reads each byte as it stood. -/
theorem State.copyBytes_host (s : State) (port k a n D : Nat) (hb : s.bad = []) (hf : s.fw.hostOff = 0)
    (hne : ∀ m q, m < n → q < n → hostAddr port (a + m) ≠ D + q) :
    ∃ m', s.copyBytes port k 0 a n (some (.phys D)) = ({ s with mem := m', bad := [] },
        (List.range n).map (fun m => s.mem.read (hostAddr port (a + m))), none) ∧
      ∀ b, b < D ∨ D + n ≤ b → m'.read b = s.mem.read b := by
  induction n generalizing s a D with
  | zero =>
    refine ⟨s.mem, ?_, fun _ _ => rfl⟩
    rw [← hb]
    rfl
  | succ n ih =>
    obtain ⟨w, hw⟩ : ∃ w : State, w = { s with mem := s.mem.writeBytes D [s.mem.read (hostAddr port a)], bad := [] } := ⟨_, rfl⟩
    have hread : ∀ b, b ≠ D → w.mem.read b = s.mem.read b := fun b hbD => by
      rw [hw]
      exact Memory.read_writeBytes_outside _ _ _ _ (by simp only [List.length_singleton]; omega)
    obtain ⟨m', h1, h2⟩ := ih w (a + 1) (D + 1) (by rw [hw]) (by rw [hw]; exact hf) (fun m q hm hq => by
      have := hne (m + 1) (q + 1) (Nat.succ_lt_succ hm) (Nat.succ_lt_succ hq)
      rw [show a + 1 + m = a + (m + 1) by omega, show D + 1 + q = D + (q + 1) by omega]
      exact this)
    refine ⟨m', ?_, fun b hb' => ?_⟩
    · have hspot : s.spotRead (.phys (hostAddr port a)) = some (s.mem.read (hostAddr port a)) := by
        unfold State.spotRead
        dsimp only
        rw [s.damaged_eq_false hb hf]
        rfl
      have hwrite : s.spotWrite (.phys D) [s.mem.read (hostAddr port a)] = w := by
        rw [hw]
        unfold State.spotWrite State.writePhys
        dsimp only
        rw [hb]
        rfl
      have hlist : (List.range (n + 1)).map (fun m => s.mem.read (hostAddr port (a + m))) =
          s.mem.read (hostAddr port a) :: (List.range n).map (fun m => w.mem.read (hostAddr port (a + 1 + m))) := by
        refine (List.map_range_succ_from (fun b => s.mem.read (hostAddr port b)) a n).trans ?_
        refine congrArg (List.cons _) (List.map_congr_left (fun m hm => (hread _ ?_).symm))
        have := hne (m + 1) 0 (Nat.succ_lt_succ (List.mem_range.1 hm)) (Nat.succ_pos n)
        rw [show a + 1 + m = a + (m + 1) by omega]
        exact this
      rw [State.copyBytes_succ (s.spot_host port k a false) hspot, hwrite, hlist]
      refine (congrArg (fun r => (r.1, _ :: r.2.1, r.2.2)) h1).trans ?_
      rw [hw]
    · rw [h2 b (by omega), hread b (by omega)]

/-! ### The packets -/

/-- A piece moves: the packet starts with it, or goes on. -/
theorem exec_copy_piece {s : State} {j c : Nat} {i : Instr} {x : Job} (hi : (i = .copy j ∧ c = 0x30) ∨ (i = .copyFill j ∧ c = 0x31))
    (hj : s.job j = some x) (hform : x.form = some c)
    (h : x.phase = .started ∨ (Claims.starts s j c x ∧ (x.scope ≠ 1 ∨ s.excluded j x = false))) :
    exec i s = .next (s.copyPiece j x) := by
  have he : exec i s = s.copyRow j c := by
    rcases hi with ⟨rfl, rfl⟩ | ⟨rfl, rfl⟩ <;> rfl
  rw [he]
  unfold State.copyRow
  rcases h with h | ⟨hst, hx⟩
  · exact State.packet_on _ _ hj hform h
  · refine (State.packet_start _ _ hst).trans (congrArg Host.Outcome.next (if_neg (fun h => ?_)))
    obtain ⟨h1, h2⟩ := Bool.and_eq_true_iff.1 h
    rcases hx with hx | hx
    · exact hx (of_decide_eq_true h1)
    · exact absurd (hx.symm.trans h2) Bool.false_ne_true

theorem copiesMove_claim : Claims.CopiesMove := by
  rintro s j c n dst src i x hi hj hform hn hdst hsrc
  have hn : n = x.piece x.moved := hn
  refine ⟨fun hst hsc hex => ?_, fun hph u place after hpl hafter => ?_⟩
  · have he : exec i s = s.copyRow j c := by
      rcases hi with ⟨rfl, rfl⟩ | ⟨rfl, rfl⟩ <;> rfl
    refine he.trans ((State.packet_start _ _ hst).trans (congrArg Host.Outcome.next (if_pos ?_)))
    rw [decide_eq_true hsc, hex]
    rfl
  · have hex := exec_copy_piece hi hj hform hph
    have hafter : after = x.afterPiece n := hafter
    have hu := State.WalkedTo.spot s x.port x.part x.dsp dst true
    rw [hpl] at hu
    have huj : u.job j = some x := (State.job_congr hu.portal j).trans hj
    refine ⟨fun hnone => ?_, fun d hd hf bs hbs => ?_, fun d v bs stop hd hf hc => ?_, fun hdsp hssp hf hbad hoff hne => ?_⟩
    · subst hnone
      obtain ⟨v, a, he, hv, ha⟩ := State.copyPiece_noPlace (j := j) hdst hsrc hpl
      rw [he] at hex
      exact ⟨_, a, hex, State.job_endJob ((State.job_congr hv.portal j).trans hj) .., hv.mem, ha⟩
    · subst hd hbs
      rw [State.copyPiece_fill hn hdst hpl hf] at hex
      obtain ⟨l1, l2, l3⟩ := u.pieceLand_spec u d n ((List.range n).map (fun i => (toBytes 8 (x.w 5).toNat).getD ((x.moved + i) % 8) 0))
      obtain ⟨m1, m2, m3⟩ := State.pieceMoved_spec ((State.job_congr l1 j).trans huj) n
      refine ⟨_, hex, m1.trans (congrArg some hafter.symm), fun h => ?_, fun h => ?_⟩
      · rw [m2, m3]
        exact l2 h
      · rw [m2, m3, (l3 h).1, (l3 h).2]
        exact ⟨hu.mem, hu.pipes⟩
    · subst hd
      rw [State.copyPiece_copy hn hdst hsrc hpl hf hc] at hex
      obtain ⟨l1, l2, l3⟩ := u.pieceLand_spec v d n bs
      have hvp := u.portal_copyBytes x.port x.part x.ssp src n (if u.spotFails d n then none else some d)
      rw [hc] at hvp
      have hlj := (State.job_congr (l1.trans hvp) j).trans huj
      cases stop with
      | none =>
        obtain ⟨m1, m2, m3⟩ := State.pieceMoved_spec hlj n
        have hex : exec i s = .next ((u.pieceLand v d n bs).pieceMoved j x n) := hex
        refine ⟨_, hex, m1.trans (congrArg some hafter.symm), fun h => ?_, fun h => ?_⟩
        · rw [m2, m3]
          exact l2 h
        · rw [m2, m3]
          exact l3 h
      | some a => exact ⟨_, hex, State.job_endJob hlj .., l2, l3⟩
    · have hpl' : s.spot x.port x.part x.dsp dst true = (some (.phys (hostAddr x.port dst)), s) := by
        rw [hdsp]
        rfl
      rw [hpl] at hpl'
      obtain ⟨rfl, rfl⟩ := Prod.mk.inj hpl'
      have hfails := u.spotFails_eq_false hbad hoff (.phys (hostAddr x.port dst)) n
      obtain ⟨m', h1, h2⟩ := u.copyBytes_host x.port x.part src n (hostAddr x.port dst) hbad hoff hne
      have hc : u.copyBytes x.port x.part x.ssp src n (if u.spotFails (.phys (hostAddr x.port dst)) n then none
          else some (.phys (hostAddr x.port dst))) = ({ u with mem := m', bad := [] },
          (List.range n).map (fun m => u.mem.read (hostAddr x.port (src + m))), none) := by
        rw [hfails, hssp, if_neg Bool.false_ne_true, h1]
      rw [State.copyPiece_copy hn hdst hsrc hpl hf hc] at hex
      obtain ⟨v, hv⟩ : ∃ v : State, v = { u with mem := m', bad := [] } := ⟨_, rfl⟩
      obtain ⟨bs, hbs⟩ : ∃ bs, bs = (List.range n).map (fun m => u.mem.read (hostAddr x.port (src + m))) := ⟨_, rfl⟩
      rw [← hv, ← hbs] at hex
      have hex : exec i u = .next ((u.pieceLand v (.phys (hostAddr x.port dst)) n bs).pieceMoved j x n) := hex
      have hlen : bs.length = n := by rw [hbs, List.length_map, List.length_range]
      obtain ⟨l1, l2, -⟩ := u.pieceLand_spec v (.phys (hostAddr x.port dst)) n bs
      have hlj : (u.pieceLand v (.phys (hostAddr x.port dst)) n bs).job j = some x :=
        (State.job_congr (l1.trans (by rw [hv])) j).trans huj
      obtain ⟨m1, m2, -⟩ := State.pieceMoved_spec hlj n
      have hmem : ((u.pieceLand v (.phys (hostAddr x.port dst)) n bs).pieceMoved j x n).mem =
          m'.writeBytes (hostAddr x.port dst) bs := by
        rw [m2, (l2 hfails).1, hv]
        rfl
      refine ⟨_, hex, m1.trans (congrArg some hafter.symm), fun m hm => ?_, fun b hb => ?_⟩
      · rw [hmem, Memory.read_writeBytes_inside _ _ _ _ (by rw [hlen]; exact hm)]
        subst hbs
        rw [List.getElem_map, List.getElem_range]
      · rw [hmem, Memory.read_writeBytes_outside _ _ _ _ (by rw [hlen]; exact hb), h2 b hb]

/-- Settles O52: LAUNCH_TIMED and LAUNCH_DYN by the branches of their checks, COPY by the bytes of a piece. -/
theorem launchAndCopyPackets : Obligations.LaunchAndCopyPackets :=
  ⟨timedLaunchesLoad_claim, dynamicLaunchesEnter_claim, copiesMove_claim⟩

end Sys2Proof.Machine

end

section
/-! Configuration banks and partitions (O53; 16 R362, R363, R372, R373). -/
namespace Sys2Proof.Machine

/-! ### Banks -/

theorem Partition.resident_setShadow (p : Partition) (b : Bank) : (p.setShadow b).resident = p.resident := by
  unfold Partition.setShadow Partition.resident
  cases h : p.useB <;> simp [h]

theorem Partition.shadow_setShadow (p : Partition) (b : Bank) : (p.setShadow b).shadow = b := by
  unfold Partition.setShadow Partition.shadow
  cases h : p.useB <;> simp [h]

theorem State.banks_setShadow (s : State) (k : Nat) (b : Bank) {t : State}
    (h : t.parts = (s.onPart k (fun p => p.setShadow b)).parts) :
    (t.part k).resident = (s.part k).resident ∧ (t.part k).shadow = b := by
  have hpart : t.part k = (s.part k).setShadow b := (State.part_congr h k).trans (State.part_onPart_same ..)
  rw [hpart]
  exact ⟨Partition.resident_setShadow .., Partition.shadow_setShadow ..⟩

/-- After a swap the shadow is resident, and what was resident is the shadow. -/
theorem Partition.swapBanks_spec (p : Partition) : p.swapBanks.resident.image = p.shadow.image ∧
    p.swapBanks.shadow = { p.resident with intact := !p.resident.image.isEmpty } ∧ p.swapBanks.useB = !p.useB := by
  unfold Partition.swapBanks Partition.resident Partition.shadow
  cases h : p.useB <;> simp

theorem State.swapMeasured_eq (s : State) (k : Nat) : ∃ fw, s.swapMeasured k = { s.onPart k Partition.swapBanks with fw := fw } :=
  ⟨_, rfl⟩

/-- A swap that ends its packet. -/
theorem State.swapped_spec {s : State} {j : Nat} {x : Job} (hj : s.job j = some x) (k : Nat) (t : State)
    (ht : t = (s.swapMeasured k).endJob j .done 0 0) :
    (t.part k).resident.image = (s.part k).shadow.image ∧
    (t.part k).shadow = { (s.part k).resident with intact := !(s.part k).resident.image.isEmpty } ∧
    (t.part k).useB = !(s.part k).useB ∧ t.job j = some (Claims.ends x .done 0 0) := by
  obtain ⟨fw, h⟩ := s.swapMeasured_eq k
  have hpart : t.part k = (s.part k).swapBanks := by
    rw [ht, State.part_congr (State.parts_endJob ..), h]
    exact State.part_onPart_same ..
  obtain ⟨h1, h2, h3⟩ := (s.part k).swapBanks_spec
  rw [hpart]
  refine ⟨h1, h2, h3, ?_⟩
  rw [ht]
  exact State.job_endJob ((State.job_congr (by rw [h]; rfl) j).trans hj) ..

theorem differencesApply_claim : Claims.DifferencesApply := by
  rintro s j x k hj rfl
  refine ⟨fun hst hex => ?_, fun hst hex => ⟨fun a ha => ?_, fun bs new hbs hnew => ⟨fun hn => ?_, fun im him => ⟨fun hcrc => ?_,
    fun hcrc => ?_⟩⟩⟩, fun hst => ⟨fun hex => ?_, fun hex hint hcrc => ?_, fun hex hbad => ?_⟩, fun found hfound => ⟨fun hn => ?_,
    fun hs => ⟨fun hex => ?_, fun hex => ?_⟩⟩⟩
  · exact (State.packet_start _ _ hst).trans (congrArg Host.Outcome.next (if_pos hex))
  · obtain ⟨fw, hr⟩ := s.rejectRead_eq j x (bitsOf (x.w 4) 0 0) a
    refine ⟨s.rejectRead j x (bitsOf (x.w 4) 0 0) a, (State.packet_start _ _ hst).trans (congrArg Host.Outcome.next ?_),
      State.job_rejectRead hj .., by rw [hr]; rfl⟩
    dsimp only
    rw [hex, if_neg Bool.false_ne_true, ha]
  · subst hn
    refine ⟨(s.onPart x.part (fun p => p.setShadow {})).rejectJob j 9 0,
      (State.packet_start _ _ hst).trans (congrArg Host.Outcome.next ?_), State.job_rejectJob hj .., ?_, ?_⟩
    · dsimp only
      rw [hex, if_neg Bool.false_ne_true, hbs]
      dsimp only
      rw [← hnew]
    · exact (State.banks_setShadow s x.part {} (t := (s.onPart x.part (fun p => p.setShadow {})).rejectJob j 9 0) rfl).1
    · exact (State.banks_setShadow s x.part {} (t := (s.onPart x.part (fun p => p.setShadow {})).rejectJob j 9 0) rfl).2
  · subst him
    obtain ⟨b, hb⟩ : ∃ b : Bank, b = { image := if im.isEmpty then [] else overlay im 12 (toBytes 4 ((x.w 5).setWidth 32).toNat) } :=
      ⟨_, rfl⟩
    refine ⟨(s.onPart x.part (fun p => p.setShadow b)).onJob (some j) (fun y => { y with phase := .started, ready := true }),
      (State.packet_start _ _ hst).trans (congrArg Host.Outcome.next ?_), ?_, ?_, State.job_onJob_same _ hj⟩
    · dsimp only
      rw [hex, if_neg Bool.false_ne_true, hbs]
      dsimp only
      rw [← hnew]
      dsimp only
      rw [if_pos hcrc, hb]
    · exact (State.banks_setShadow s x.part b
        (t := (s.onPart x.part (fun p => p.setShadow b)).onJob (some j) (fun y => { y with phase := .started, ready := true })) rfl).1
    · rw [(State.banks_setShadow s x.part b
        (t := (s.onPart x.part (fun p => p.setShadow b)).onJob (some j) (fun y => { y with phase := .started, ready := true })) rfl).2,
        hb, BitVec.toNat_setWidth]
      cases im <;> rfl
  · subst him
    refine ⟨(s.onPart x.part (fun p => p.setShadow {})).rejectJob j 7 0,
      (State.packet_start _ _ hst).trans (congrArg Host.Outcome.next ?_), ?_, ?_, State.job_rejectJob hj ..⟩
    · dsimp only
      rw [hex, if_neg Bool.false_ne_true, hbs]
      dsimp only
      rw [← hnew]
      exact if_neg hcrc
    · exact (State.banks_setShadow s x.part {} (t := (s.onPart x.part (fun p => p.setShadow {})).rejectJob j 7 0) rfl).1
    · exact (State.banks_setShadow s x.part {} (t := (s.onPart x.part (fun p => p.setShadow {})).rejectJob j 7 0) rfl).2
  · exact (State.packet_start _ _ hst).trans (congrArg Host.Outcome.next (if_pos hex))
  · refine ⟨(s.swapMeasured x.part).endJob j .done 0 0, (State.packet_start _ _ hst).trans (congrArg Host.Outcome.next ?_),
      State.swapped_spec hj x.part _ rfl⟩
    dsimp only
    rw [hex, if_neg Bool.false_ne_true, hint, hcrc]
    rfl
  · refine ⟨s.rejectJob j 8 0, (State.packet_start _ _ hst).trans (congrArg Host.Outcome.next ?_), rfl, State.job_rejectJob hj ..⟩
    dsimp only
    rw [hex, if_neg Bool.false_ne_true, if_neg]
    rcases hbad with h | h
    · rw [h]
      exact Bool.false_ne_true
    · rw [h, Bool.and_false]
      exact Bool.false_ne_true
  · subst hn
    change execConfigSwap x.part s = _
    unfold execConfigSwap
    rw [← hfound]
  all_goals
    subst hs
    have hsw : exec (.configSwap x.part) s = .next (if s.excluded j x then s else (s.swapMeasured x.part).endJob j .done 0 0) := by
      change execConfigSwap x.part s = _
      unfold execConfigSwap
      rw [← hfound]
  · exact hsw.trans (congrArg Host.Outcome.next (if_pos hex))
  · exact ⟨_, hsw.trans (congrArg Host.Outcome.next (if_neg (by rw [hex]; exact Bool.false_ne_true))),
      State.swapped_spec hj x.part _ rfl⟩

/-! ### Partitions -/

theorem State.alignDies_eq (s : State) (x : Partition) : ∃ ds n, s.alignDies x = { s with dies := ds, free := n } := by
  unfold State.alignDies
  dsimp only
  generalize s.now (x.dies.headD 0) = a
  generalize x.dies.drop 1 = l
  induction l generalizing s with
  | nil => exact ⟨s.dies, s.free, rfl⟩
  | cons d l ih =>
    obtain ⟨ds, n, h⟩ := ih (s.drawn.onDie d (fun y => { y with absorbed := y.tick - (a + BitVec.ofNat 64 (s.freeVal % 13) - 6) }))
    exact ⟨ds, n, h⟩

theorem State.measure_eq (s : State) (n : Nat) (d : BitVec 384) : ∃ fw, s.measure n d = { s with fw := fw } := ⟨_, rfl⟩

/-- A PARTITION packet whose descriptor cannot be read. -/
theorem State.partitionRow_error {s : State} {j a : Nat} {x : Job} (hst : Claims.starts s j 0x90 x)
    (hex : s.exclusiveBefore j x false = false) (hd : s.readDesc x = .error a) (destroy : Bool) (act : Job → List Word → State) :
    s.partitionRow j destroy act = .next (s.rejectRead j x (bitsOf (x.w 3) 0 0) a) := by
  refine (State.packet_start _ _ hst).trans (congrArg Host.Outcome.next ?_)
  rw [hex, if_neg Bool.false_ne_true, hd]

theorem State.partitionRow_ok {s : State} {j : Nat} {x : Job} {w : List Word} (hst : Claims.starts s j 0x90 x)
    (hex : s.exclusiveBefore j x false = false) (hd : s.readDesc x = .ok w) (destroy : Bool) (act : Job → List Word → State) :
    s.partitionRow j destroy act =
      .next (if bitOf (wordAt w 0) 0 ≠ destroy ∨ s.diesBusy (s.descDies x w) = true then s else act x w) := by
  refine (State.packet_start _ _ hst).trans (congrArg Host.Outcome.next ?_)
  rw [hex, if_neg Bool.false_ne_true, hd]

theorem State.part_setPart_same (s : State) (k : Nat) (p : Partition) : (s.setPart k p).part k = p := by
  rw [State.part_setPart, if_pos rfl]

theorem partitionsChange_claim : Claims.PartitionsChange := by
  rintro s j x k sp got hst rfl rfl hgot
  have hj : s.job j = some x := hst.1
  have hdesc : s.readDesc x = got.map wordsOf := by rw [hgot]; rfl
  refine ⟨fun hex => ⟨(State.packet_start _ _ hst).trans (congrArg Host.Outcome.next (if_pos hex)),
    (State.packet_start _ _ hst).trans (congrArg Host.Outcome.next (if_pos hex))⟩, fun hex => ⟨fun a i hg hi => ?_, fun bs w hg hw => ?_⟩⟩
  · rw [hg] at hdesc
    obtain ⟨fw, hr⟩ := s.rejectRead_eq j x (bitsOf (x.w 3) 0 0) a
    refine ⟨s.rejectRead j x (bitsOf (x.w 3) 0 0) a, ?_, State.job_rejectRead hj .., by rw [hr]; rfl⟩
    rcases hi with rfl | rfl
    · exact State.partitionRow_error hst hex hdesc _ _
    · exact State.partitionRow_error hst hex hdesc _ _
  · rw [hg] at hdesc
    have hdesc : s.readDesc x = .ok w := hdesc.trans (congrArg Except.ok hw.symm)
    have hcreate := State.partitionRow_ok hst hex hdesc false (fun x w =>
      if s.createOk x.part w then
        (((s.setPart x.part (descPart w)).alignDies (descPart w)).measure 4
          (Config.sha384 ((s.setPart x.part (descPart w)).alignDies (descPart w)).mapBytes)).endJob j .done 0 0
      else s.rejectJob j 18 0)
    have hdestroy := State.partitionRow_ok hst hex hdesc true (fun x w =>
      if !((s.part x.part).configured) then s.rejectJob j 1 0
      else if w ≠ 1 :: List.replicate 39 0 then s.rejectJob j 18 0
      else (({ s.setPart x.part {} with tlb := s.tlb.filter (fun e => !(decide (e.part = x.part))) } : State).measure 4
        (Config.sha384 ({ s.setPart x.part {} with tlb := s.tlb.filter (fun e => !(decide (e.part = x.part))) } : State).mapBytes)).endJob
          j .done 0 0)
    have hnew : bitOf (wordAt w 0) 0 = false → s.descDies x w = (s.part x.part).dies ++ (descPart w).dies := fun h => by
      unfold State.descDies
      rw [h]
      rfl
    have hold : bitOf (wordAt w 0) 0 = true → s.descDies x w = (s.part x.part).dies := fun h => by
      unfold State.descDies
      rw [h, if_pos rfl, List.append_nil]
    refine ⟨fun h => ?_, fun hbit hbusy => ⟨fun hok => ?_, fun hok => ?_⟩, fun h => ?_, fun hbit hbusy => ⟨fun hc => ?_, fun hc hw' => ?_,
      fun hc hw' => ?_⟩⟩
    · refine hcreate.trans (congrArg Host.Outcome.next (if_pos ?_))
      cases hb : bitOf (wordAt w 0) 0 with
      | true => exact Or.inl (fun h => Bool.false_ne_true h.symm)
      | false =>
        rw [hnew hb]
        exact Or.inr (h.resolve_left (by rw [hb]; exact Bool.false_ne_true))
    · rw [hbit, hnew hbit, hbusy, if_neg (by rintro (h | h) <;> exact absurd h (by decide)), if_pos hok] at hcreate
      obtain ⟨ds, n, hal⟩ := (s.setPart x.part (descPart w)).alignDies_eq (descPart w)
      obtain ⟨fw, hme⟩ := ((s.setPart x.part (descPart w)).alignDies (descPart w)).measure_eq 4
        (Config.sha384 ((s.setPart x.part (descPart w)).alignDies (descPart w)).mapBytes)
      obtain ⟨u, hu⟩ : ∃ u, u = (((s.setPart x.part (descPart w)).alignDies (descPart w)).measure 4
        (Config.sha384 ((s.setPart x.part (descPart w)).alignDies (descPart w)).mapBytes)) := ⟨_, rfl⟩
      rw [← hu] at hcreate
      rw [← hu, hal] at hme
      have hparts : (u.endJob j .done 0 0).parts = (s.setPart x.part (descPart w)).parts := by rw [State.parts_endJob, hme]
      refine ⟨_, hcreate, (State.part_congr hparts _).trans (State.part_setPart_same ..), ?_, fun i hi => ?_, by rw [State.mem_endJob, hme]; rfl⟩
      · exact State.job_endJob ((State.job_congr (by rw [hme]; rfl) j).trans hj) ..
      · rw [State.part_congr hparts, State.part_setPart, if_neg hi]
    · rw [hbit, hnew hbit, hbusy, if_neg (by rintro (h | h) <;> exact absurd h (by decide)), if_neg (by rw [hok]; decide)] at hcreate
      exact ⟨_, hcreate, rfl, State.job_rejectJob hj ..⟩
    · refine hdestroy.trans (congrArg Host.Outcome.next (if_pos ?_))
      cases hb : bitOf (wordAt w 0) 0 with
      | false => exact Or.inl Bool.false_ne_true
      | true =>
        rw [hold hb]
        exact Or.inr (h.resolve_left (by rw [hb]; decide))
    · rw [hbit, hold hbit, hbusy, if_neg (by rintro (h | h) <;> exact absurd h (by decide)), hc] at hdestroy
      exact ⟨_, hdestroy, rfl, State.job_rejectJob hj ..⟩
    · rw [hbit, hold hbit, hbusy, if_neg (by rintro (h | h) <;> exact absurd h (by decide)), hc, if_neg (by decide),
        if_pos hw'] at hdestroy
      exact ⟨_, hdestroy, rfl, State.job_rejectJob hj ..⟩
    · rw [hbit, hold hbit, hbusy, if_neg (by rintro (h | h) <;> exact absurd h (by decide)), hc, if_neg (by decide),
        if_neg (Classical.not_not.2 hw')] at hdestroy
      obtain ⟨v, hv⟩ : ∃ v : State, v = { s.setPart x.part {} with tlb := s.tlb.filter (fun e => !(decide (e.part = x.part))) } := ⟨_, rfl⟩
      rw [← hv] at hdestroy
      have hjv : v.job j = some x := (State.job_congr (by rw [hv]; rfl) j).trans hj
      have hparts : v.parts = (s.setPart x.part {}).parts := by rw [hv]
      refine ⟨_, hdestroy, ?_, State.job_endJob (s := v.measure 4 (Config.sha384 v.mapBytes)) hjv .., fun i hi => ?_, fun e he => ?_, ?_⟩
      · exact (State.part_congr (s := v) rfl _).trans ((State.part_congr hparts _).trans (State.part_setPart_same ..))
      · refine (State.part_congr (s := v) rfl _).trans ((State.part_congr hparts _).trans ?_)
        rw [State.part_setPart, if_neg hi]
      · have he : e ∈ v.tlb := he
        rw [hv] at he
        have := (List.mem_filter.1 he).2
        simpa using this
      · exact (show v.mem = s.mem by rw [hv]; rfl)

/-- Settles O53: banks by the side that is resident, partitions by the branches of their descriptor. -/
theorem configurationPackets : Obligations.ConfigurationPackets := ⟨differencesApply_claim, partitionsChange_claim⟩

end Sys2Proof.Machine

end

section
/-! QUERY packets and the attestation report (O54; 16 R374; 24 R478). -/
namespace Sys2Proof.Machine

/-! ### Replies -/

theorem sized_length (n : Nat) (bs : List Byte) : (sized n bs).length = n := by
  unfold sized
  rw [List.length_append, List.length_take, List.length_replicate]
  omega

theorem flatMap_length_of {α : Type} {f : α → List Byte} {m : Nat} (hf : ∀ a, (f a).length = m) (l : List α) :
    (l.flatMap f).length = l.length * m := by
  rw [List.length_flatMap]
  induction l with
  | nil => rw [List.map_nil, List.sum_nil, List.length_nil, Nat.zero_mul]
  | cons a l ih => rw [List.map_cons, List.sum_cons, hf, ih, List.length_cons, Nat.succ_mul, Nat.add_comm]

/-- The `n`th of pieces of `m` bytes. -/
theorem flatMap_piece {α : Type} {f : α → List Byte} {m : Nat} (hf : ∀ a, (f a).length = m) (l : List α) {n : Nat} (h : n < l.length) :
    ((l.flatMap f).drop (m * n)).take m = f l[n] := by
  induction l generalizing n with
  | nil => exact absurd h (Nat.not_lt_zero _)
  | cons a l ih =>
    rw [List.flatMap_cons]
    cases n with
    | zero =>
      rw [Nat.mul_zero, List.drop_zero, List.take_append_of_le_length (Nat.le_of_eq (hf a).symm), List.take_of_length_le (Nat.le_of_eq (hf a))]
      rfl
    | succ n =>
      rw [List.drop_append, List.drop_of_length_le (by rw [hf, Nat.mul_succ]; omega), hf, List.nil_append,
        show m * (n + 1) - m = m * n by rw [Nat.mul_succ]; omega, ih (Nat.lt_of_succ_lt_succ h)]
      rfl

/-- The reply of a QUERY on the state after its access, and its outcome. -/
theorem State.query_starts {s : State} {j c : Nat} {x : Job} (h : Claims.starts s j c x) (reply : Job → List Byte) :
    ∃ t : State, s.query j c reply = .next t ∧
      (s.damaged (hostAddr x.port (x.w 3).toNat) ((reply x).take (bitsOf (x.w 4) 31 0)).length = false →
        t.mem = s.mem.writeBytes (hostAddr x.port (x.w 3).toNat) ((reply x).take (bitsOf (x.w 4) 31 0))) ∧
      t.job j = some (Claims.ends x .done 0
        (if bitsOf (x.w 4) 31 0 < (reply x).length then BitVec.ofNat 64 (reply x).length else 0)) ∧
      t.parts = s.parts ∧ t.pipes = s.pipes := by
  obtain ⟨m, fw, hw, hm⟩ := s.hostWrite_eq x.port (x.w 3).toNat ((reply x).take (bitsOf (x.w 4) 31 0))
  refine ⟨_, State.packet_start _ _ h, fun hd => ?_, State.job_endJob ((State.job_congr (by rw [hw]) j).trans h.1) .., ?_, ?_⟩
  · rw [State.mem_endJob, hw]
    exact hm hd
  · rw [State.parts_endJob, hw]
  · rw [State.pipes_endJob, hw]

/-- A free value drawn is no part of a packet's turn. -/
theorem Claims.starts_drawn {s : State} {j c : Nat} {x : Job} (h : Claims.starts s j c x) : Claims.starts s.drawn j c x := by
  obtain ⟨hj, hf, hp, hm, hb⟩ := h
  exact ⟨hj, hf, hp, (s.jobMayStart_free j x (s.free + 1)).trans hm, hb⟩

theorem State.identity_length (s : State) : s.identity.length = 64 := by
  unfold State.identity
  rw [List.length_append, List.length_append, List.length_append, sized_length, toBytes_length, toBytes_length,
    flatMap_length_of (fun _ => toBytes_length 8 _)]
  rfl

/-- The identity ends with the writes that each port has discarded. -/
theorem State.identity_ports (s : State) : (s.identity.drop 48).take 8 = toBytes 8 (s.portal.discarded.get 0 0) ∧
    (s.identity.drop 56).take 8 = toBytes 8 (s.portal.discarded.get 1 0) := by
  obtain ⟨pre, hpre, hid⟩ : ∃ pre : List Byte, pre.length = 48 ∧
      s.identity = pre ++ [0, 1].flatMap (fun p => toBytes 8 (s.portal.discarded.get p 0)) := by
    refine ⟨_, ?_, rfl⟩
    rw [List.length_append, List.length_append, sized_length, toBytes_length, toBytes_length]
  have hdrop : ∀ n, s.identity.drop (48 + n) = ([0, 1].flatMap (fun p => toBytes 8 (s.portal.discarded.get p 0))).drop n := fun n => by
    rw [hid, List.drop_append, hpre, List.drop_of_length_le (by omega), List.nil_append, Nat.add_sub_cancel_left]
  exact ⟨(congrArg (List.take 8) (hdrop 0)).trans (flatMap_piece (fun _ => toBytes_length 8 _) [0, 1] (n := 0) (by decide)),
    (congrArg (List.take 8) (hdrop 8)).trans (flatMap_piece (fun _ => toBytes_length 8 _) [0, 1] (n := 1) (by decide))⟩

theorem Partition.mapEntry_length (p : Partition) : p.mapEntry.length = 16 := by
  unfold Partition.mapEntry
  simp only [List.length_append, toBytes_length]

/-- The report begins with its nonce. -/
theorem Firmware.report_take (f : Firmware) {nonce : List Byte} (h : nonce.length = 48) : (f.report nonce).take 48 = nonce := by
  unfold Firmware.report
  dsimp only
  rw [List.append_assoc, List.append_assoc, List.append_assoc, List.append_assoc, List.take_append_of_le_length (Nat.le_of_eq h.symm),
    List.take_of_length_le (Nat.le_of_eq h)]

/-- What a row of QUERY promises of its reply. -/
def Claims.replyOf (s : State) (x : Job) (c : Nat) (len : Option Nat) (reply : List Byte) : Prop :=
  (∀ n, len = some n → reply.length = n) ∧
  (c = 0x70 → (reply.drop 48).take 8 = toBytes 8 (s.portal.discarded.get 0 0) ∧
    (reply.drop 56).take 8 = toBytes 8 (s.portal.discarded.get 1 0) ∧ reply.drop 64 = toBytes 8 s.fw.linkWord) ∧
  (c = 0x72 → reply = toBytes 8 (s.launchState (bitsOf (x.w 2) 63 32))) ∧
  (c = 0x74 → bitsOf (x.w 2) 63 32 = 0 → reply = s.fw.health.bytes) ∧
  (c = 0x75 → ∀ n : Nat, bitsOf (x.w 2) 63 32 + n < 256 →
    (reply.drop (8 * n)).take 8 = toBytes 8 ((s.part x.part).ctrs.get (bitsOf (x.w 2) 63 32 + n) 0).toNat) ∧
  (c = 0x76 → reply = s.fw.report (s.mem.readBytes (hostAddr x.port (x.w 3).toNat) 48))

theorem identity_reply (s : State) (x : Job) : Claims.replyOf s x 0x70 (some 72) (s.identity ++ toBytes 8 s.fw.linkWord) := by
  have hl := s.identity_length
  obtain ⟨h0, h1⟩ := s.identity_ports
  refine ⟨fun n hn => ?_, fun _ => ⟨?_, ?_, ?_⟩, fun h => absurd h (by decide), fun h => absurd h (by decide), fun h => absurd h (by decide), fun h => absurd h (by decide)⟩
  · rw [List.length_append, hl, toBytes_length]
    exact Option.some.inj hn
  · rw [List.drop_append_of_le_length (by omega), List.take_append_of_le_length (by rw [List.length_drop]; omega), h0]
  · rw [List.drop_append_of_le_length (by omega), List.take_append_of_le_length (by rw [List.length_drop]; omega), h1]
  · rw [List.drop_append, List.drop_of_length_le (by omega), List.nil_append, hl]
    rfl

theorem counters_reply (s : State) (x : Job) : Claims.replyOf s x 0x75 none ((List.range (256 - x.arg)).flatMap (fun i =>
    toBytes 8 ((s.part x.part).ctrs.get (x.arg + i) 0).toNat)) := by
  refine ⟨fun n hn => absurd hn (Option.some_ne_none n).symm, fun h => absurd h (by decide), fun h => absurd h (by decide), fun h => absurd h (by decide), fun _ n hn => ?_, fun h => absurd h (by decide)⟩
  have hn : x.arg + n < 256 := hn
  rw [flatMap_piece (fun _ => toBytes_length 8 _) _ (by rw [List.length_range]; omega), List.getElem_range]
  rfl

/-- A reply of one kind only. -/
theorem replyOf_length {s : State} {x : Job} {c n : Nat} {reply : List Byte} (hc : c = 0x71 ∨ c = 0x73) (h : reply.length = n) :
    Claims.replyOf s x c (some n) reply := by
  refine ⟨fun m hm => h.trans (Option.some.inj hm), ?_, ?_, ?_, ?_, ?_⟩ <;> rcases hc with rfl | rfl <;> intro h <;> cases h

/-- Every row of QUERY is a `query` with the reply that it promises. -/
theorem exec_query_row {s : State} {i : Instr} {j c : Nat} {x : Job} {len : Option Nat} (hi : Claims.queryRow i j = some (c, len))
    (hst : Claims.starts s j c x) (hd : c = 0x76 → s.damaged (hostAddr x.port (x.w 3).toNat) 48 = false) :
    ∃ (n : Nat) (reply : Job → List Byte), exec i s = ({ s with free := n } : State).query j c reply ∧
      Claims.starts { s with free := n } j c x ∧ Claims.replyOf s x c len (reply x) := by
  have hrow : ∀ {m : Nat} {v : Nat × Option Nat}, (if m = j then some v else none) = some (c, len) → m = j ∧ v = (c, len) := by
    intro m v h
    by_cases hm : m = j
    · exact ⟨hm, Option.some.inj ((if_pos hm).symm.trans h)⟩
    · exact absurd ((if_neg hm).symm.trans h) (by simp)
  cases i <;> dsimp only [Claims.queryRow] at hi
  case queryIdentity m =>
    obtain ⟨rfl, hv⟩ := hrow hi
    obtain ⟨rfl, rfl⟩ := Prod.mk.inj hv
    exact ⟨s.free + 1, _, rfl, Claims.starts_drawn hst, identity_reply s x⟩
  case queryPartitionMap m =>
    obtain ⟨rfl, hv⟩ := hrow hi
    obtain ⟨rfl, rfl⟩ := Prod.mk.inj hv
    refine ⟨s.free, _, rfl, hst, replyOf_length (Or.inl rfl) ?_⟩
    exact flatMap_length_of (fun k => (s.part k).mapEntry_length) _
  case queryLaunchState m =>
    obtain ⟨rfl, hv⟩ := hrow hi
    obtain ⟨rfl, rfl⟩ := Prod.mk.inj hv
    refine ⟨s.free, _, rfl, hst, fun n hn => (toBytes_length 8 _).trans (Option.some.inj hn), fun h => absurd h (by decide), fun _ => rfl,
      fun h => absurd h (by decide), fun h => absurd h (by decide), fun h => absurd h (by decide)⟩
  case querySeedRecords m =>
    obtain ⟨rfl, hv⟩ := hrow hi
    obtain ⟨rfl, rfl⟩ := Prod.mk.inj hv
    exact ⟨s.free, _, rfl, hst, replyOf_length (Or.inr rfl) (sized_length ..)⟩
  case queryHealth m =>
    obtain ⟨rfl, hv⟩ := hrow hi
    obtain ⟨rfl, rfl⟩ := Prod.mk.inj hv
    exact ⟨s.free, _, rfl, hst, fun n hn => absurd hn (Option.some_ne_none n).symm, fun h => absurd h (by decide), fun h => absurd h (by decide), fun _ h0 => if_pos h0,
      fun h => absurd h (by decide), fun h => absurd h (by decide)⟩
  case queryCounters m =>
    obtain ⟨rfl, hv⟩ := hrow hi
    obtain ⟨rfl, rfl⟩ := Prod.mk.inj hv
    exact ⟨s.free, _, rfl, hst, counters_reply s x⟩
  case queryAttestation m =>
    obtain ⟨rfl, hv⟩ := hrow hi
    obtain ⟨rfl, rfl⟩ := Prod.mk.inj hv
    refine ⟨s.free, (fun x => s.fw.report (s.mem.readBytes (hostAddr x.port (x.w 3).toNat) 48)), ?_, hst, fun n hn => absurd hn (Option.some_ne_none n).symm,
      fun h => absurd h (by decide), fun h => absurd h (by decide), fun h => absurd h (by decide), fun h => absurd h (by decide), fun _ => rfl⟩
    change execQueryAttestation m s = _
    unfold execQueryAttestation
    rw [hst.1]
    exact if_neg (by rw [hd rfl]; exact Bool.false_ne_true)
  all_goals cases hi

/-- Settles O54: every row of QUERY is one `query` with its own reply; the report is a list that begins with its nonce. -/
theorem queriesAnswer : Obligations.QueriesAnswer := by
  intro s j x
  refine ⟨fun i c len hi hst hd => ?_, fun hst hd => ?_, fun nonce => ⟨fun ha => ?_, fun ha => ?_⟩⟩
  · obtain ⟨n, reply, hex, hst', hlen, h70, h72, h74, h75, h76⟩ := exec_query_row hi hst hd
    obtain ⟨t, ht, hmem, hjob, hparts, hpipes⟩ := State.query_starts hst' reply
    refine ⟨t, reply x, hex.trans ht, hlen, fun h => hmem ?_, hjob, hparts, hpipes, h70, h72, h74, h75, h76⟩
    exact (State.damaged_congr (s := s) (t := { s with free := n }) rfl rfl _ _).trans h
  · have hex : exec (.queryAttestation j) s = .next (match s.readSpace x.port x.part 0 (x.w 3).toNat 48 with
        | .error a => s.rejectRead j x 0 a
        | .ok _ => s) := by
      change execQueryAttestation j s = _
      unfold execQueryAttestation
      rw [hst.1]
      dsimp only
      rw [if_pos hd]
      exact State.packet_start _ _ hst
    cases hr : s.readSpace x.port x.part 0 (x.w 3).toNat 48 with
    | ok bs =>
      rw [hr] at hex
      exact ⟨_, hex, rfl, rfl⟩
    | error a =>
      rw [hr] at hex
      obtain ⟨fw, he⟩ := s.rejectRead_eq j x 0 a
      exact ⟨_, hex, by dsimp only; rw [he]; rfl, by dsimp only; rw [he]; rfl⟩
  · exact congrArg Host.Outcome.next (if_neg (by rw [ha]; exact Bool.false_ne_true))
  · exact ⟨_, _, congrArg Host.Outcome.next (if_pos ha), rfl, Firmware.report_take _ (toBytes_length ..), rfl, rfl⟩

end Sys2Proof.Machine

end

section
/-! Firmware updates, package reset and loss of power (O55; 24 R469 to R472; 25 R485). -/
namespace Sys2Proof.Machine

/-! ### FW_UPDATE -/

/-- A counted error leaves the image store and the handover. -/
theorem State.countUnc_images (s : State) (b : BoxSource) : (s.countUnc b).fw.cur = s.fw.cur ∧ (s.countUnc b).fw.next = s.fw.next ∧
    (s.countUnc b).fw.handover = s.fw.handover := by
  unfold State.countUnc
  cases b <;> exact ⟨rfl, rfl, rfl⟩

theorem State.rejectRead_images (s : State) (j : Nat) (x : Job) (sp a : Nat) : (s.rejectRead j x sp a).fw.cur = s.fw.cur ∧
    (s.rejectRead j x sp a).fw.next = s.fw.next ∧ (s.rejectRead j x sp a).fw.handover = s.fw.handover := by
  unfold State.rejectRead
  split
  · split
    · next p _ _ => exact s.countUnc_images p.source
    · exact ⟨rfl, rfl, rfl⟩
  · exact ⟨rfl, rfl, rfl⟩

/-- The image in slot NEXT. -/
def State.staged (s : State) (im : List Byte) : State := { s with fw := { s.fw with next := im } }

/-- The takeover begins. -/
def State.handingOver (s : State) : State := { s with fw := { s.fw with handover := true } }

theorem State.refuseFirmware_next (s : State) (f : Firmware) (im : List Byte) (h : f.tableVersion = s.fw.tableVersion) :
    ({ s with fw := f } : State).refuseFirmware im = s.refuseFirmware im := by
  unfold State.refuseFirmware
  rw [h]

theorem State.job_congr' {s t : State} (h : t.portal.jobs = s.portal.jobs) (j : Nat) : t.job j = s.job j := by
  unfold State.job
  rw [h]

theorem State.takeover_facts (s : State) : s.takeover.portal.jobs = s.portal.jobs ∧ s.takeover.pipes = s.pipes ∧ s.takeover.mem = s.mem ∧
    s.takeover.fw.west = !s.fw.west ∧ s.takeover.fw.cur = s.fw.next ∧ s.takeover.fw.next = s.fw.cur ∧ s.takeover.fw.handover = false ∧
    s.takeover.fw.own = s.fw.own := by
  unfold State.takeover
  dsimp only [State.measure, State.box]
  exact ⟨rfl, rfl, rfl, rfl, rfl, rfl, rfl, rfl⟩

theorem firmwareUpdates_claim : Claims.FirmwareUpdates := by
  intro s j x hj
  refine ⟨fun hst => ⟨fun hex => ?_, fun hex => ⟨fun a ha => ?_, fun im him => ⟨fun r hr => ?_, fun hr => ?_⟩⟩⟩, fun hf hp => ?_⟩
  · exact (State.packet_start _ _ hst).trans (congrArg Host.Outcome.next (if_pos hex))
  · obtain ⟨h1, h2, h3⟩ := s.rejectRead_images j x 0 a
    refine ⟨s.rejectRead j x 0 a, (State.packet_start _ _ hst).trans (congrArg Host.Outcome.next ?_), State.job_rejectRead hj ..,
      h1, h2, h3⟩
    dsimp only
    rw [hex, if_neg Bool.false_ne_true, ha]
  · refine ⟨(s.staged im).rejectJob j r 0, (State.packet_start _ _ hst).trans (congrArg Host.Outcome.next ?_),
      State.job_rejectJob (s := s.staged im) hj .., rfl, rfl, rfl⟩
    dsimp only
    rw [hex, if_neg Bool.false_ne_true, him]
    dsimp only
    rw [State.refuseFirmware_next, hr] <;> rfl
  · refine ⟨(s.staged im).handingOver.onJob (some j) (fun y => { y with phase := .started }),
      (State.packet_start _ _ hst).trans (congrArg Host.Outcome.next ?_), State.job_onJob_same (s := (s.staged im).handingOver) _ hj,
      rfl, rfl, rfl⟩
    dsimp only
    rw [hex, if_neg Bool.false_ne_true, him]
    dsimp only
    rw [State.refuseFirmware_next, hr] <;> rfl
  · obtain ⟨hport, hpipes, hmem, hwest, hcur, hnext, hover, hown⟩ := s.takeover_facts
    exact ⟨s.takeover.endJob j .done 0 0, State.packet_on _ _ hj hf hp, State.job_endJob ((State.job_congr' hport j).trans hj) ..,
      hwest, hcur, hnext, hover, hown, hpipes, hmem⟩

/-! ### What a reset keeps -/

theorem Memory.read_filter (m : Memory) (p : Nat → Bool) (a : Nat) :
    Memory.read (m.filter (fun c => p c.1)) a = if p a then m.read a else Memory.blank := by
  induction m with
  | nil => exact (ite_self _).symm
  | cons c m ih =>
    obtain ⟨k, v⟩ := c
    rw [List.filter_cons]
    by_cases hk : k = a
    · subst hk
      cases hp : p k
      · rw [if_neg Bool.false_ne_true, ih, hp]
        rfl
      · rw [if_pos rfl, if_pos rfl, Memory.read, Memory.read, if_pos rfl, if_pos rfl]
    · have hread : Memory.read ((k, v) :: m) a = Memory.read m a := by rw [Memory.read, if_neg hk]
      rw [hread, ← ih]
      split
      · rw [Memory.read, if_neg hk]
      · rfl

theorem outerMemory_read (m : Memory) (a : Nat) : (outerMemory m).read a = if 0x1000000000000 ≤ a then m.read a else 0 := by
  unfold outerMemory
  rw [Memory.read_filter m (fun k => decide (0x1000000000000 ≤ k)) a]
  by_cases h : 0x1000000000000 ≤ a
  · rw [if_pos h, if_pos (decide_eq_true h)]
  · rw [if_neg h, if_neg (by rw [decide_eq_false h]; exact Bool.false_ne_true)]
    rfl

/-- A bit stays set while further bits are set. -/
theorem getLsbD_foldl_or {n : Nat} (l : List Nat) (f : Nat → BitVec n) (m : BitVec n) (d : Nat) :
    (l.foldl (fun m e => m ||| f e) m).getLsbD d = (m.getLsbD d || l.any (fun e => (f e).getLsbD d)) := by
  induction l generalizing m with
  | nil => rw [List.foldl_nil, List.any_nil, Bool.or_false]
  | cons a l ih => rw [List.foldl_cons, ih, BitVec.getLsbD_or, List.any_cons, Bool.or_assoc]

/-- Dies that fail their tests are retired, and dies that were stay so. -/
theorem Health.tested_retired (h : Health) (bad : List Nat) {d : Nat} (hd : d < 16) (hb : d ∈ bad ∨ h.retired.getLsbD d = true) :
    (h.tested bad).retired.getLsbD d = true := by
  have hfold : (h.tested bad).retired = ((List.range 16).filter (fun d => dieFails bad d)).foldl
      (fun (m : BitVec 16) d => m ||| BitVec.ofNat 16 (2 ^ d)) h.retired := rfl
  rw [hfold, getLsbD_foldl_or, Bool.or_eq_true]
  rcases hb with hb | hb
  · refine Or.inr (List.any_eq_true.2 ⟨d, List.mem_filter.2 ⟨List.mem_range.2 hd, ?_⟩, ?_⟩)
    · unfold dieFails
      rw [List.contains_iff_mem.2 hb, Bool.true_or]
    · have : ∀ d : Fin 16, (BitVec.ofNat 16 (2 ^ d.val)).getLsbD d.val = true := by decide
      exact this ⟨d, hd⟩
  · exact Or.inl hb

/-- `t` is `s` with black-box entries written. -/
def State.Boxed (s t : State) : Prop := ∃ r n, t = { s with fw := { s.fw with rings := r, nextBox := n } }

theorem State.Boxed.trans {s t u : State} (h : s.Boxed t) (h' : t.Boxed u) : s.Boxed u := by
  obtain ⟨_, _, rfl⟩ := h
  obtain ⟨_, _, rfl⟩ := h'
  exact ⟨_, _, rfl⟩

theorem State.Boxed.foldl {f : State → Nat → State} (hf : ∀ (s : State) (a : Nat), s.Boxed (f s a)) (l : List Nat) (s : State) : s.Boxed (l.foldl f s) := by
  induction l generalizing s with
  | nil => exact ⟨_, _, rfl⟩
  | cons a l ih => exact (hf s a).trans (ih (f s a))

/-- The state of a package reset before its measurements. -/
def State.comeUp (s : State) (bad : List Nat) : State :=
  let c := s.cold
  let f := c.fw
  let west := imageOk f.cur
  let run := if west then f.cur else f.next
  let h := f.health.tested bad
  let ok := west || imageOk f.next
  let lw := if west then f.leafWest + 1 else f.leafWest
  let le := if ok && !west then f.leafEast + 1 else f.leafEast
  { c with fw := { f with
    west := west, active := ok, marked := 0, image := if ok then run else [], certWest := west, leafWest := lw, leafEast := le,
    ethOff := portsOff bad 32, hostOff := portsOff bad 40, cxlOff := portsOff bad 42,
    health := { h with fatal := h.fatal || !ok,
                       replace := h.replace || decide (2 ^ 20 < lw + 1024) || decide (2 ^ 20 < le + 1024) } } }

/-- A package reset is what comes up, with black-box entries and measurements. -/
theorem execPackageReset_eq (bad : List Nat) (s : State) :
    ∃ r n me, execPackageReset bad s = .next { s.comeUp bad with fw := { (s.comeUp bad).fw with rings := r, nextBox := n, meas := me } } := by
  obtain ⟨v, hv, he⟩ : ∃ v : State, (s.comeUp bad).Boxed v ∧ execPackageReset bad s = .next (
      if imageOk s.fw.cur || imageOk s.fw.next then (v.measure 0 Config.bootDigest).measure 1
        (Config.sha384 (if imageOk s.fw.cur then s.fw.cur else s.fw.next)) else v) := by
    refine ⟨_, ?_, rfl⟩
    refine State.Boxed.trans ?_ (State.Boxed.foldl (fun q a => ⟨_, _, rfl⟩) _ _)
    refine State.Boxed.trans ?_ (State.Boxed.foldl (fun q a => ⟨_, _, rfl⟩) _ _)
    exact ⟨_, _, rfl⟩
  obtain ⟨r, n, rfl⟩ := hv
  rw [he]
  split
  · exact ⟨_, _, _, rfl⟩
  · exact ⟨_, _, _, rfl⟩

theorem packageResets_claim : Claims.PackageResets := by
  intro s
  refine ⟨fun bad => ?_, ⟨_, rfl, rfl, rfl, rfl, rfl, rfl, rfl, fun a => outerMemory_read s.mem a⟩⟩
  obtain ⟨r, n, me, he⟩ := execPackageReset_eq bad s
  refine ⟨_, he, rfl, rfl, rfl, rfl, rfl, rfl, rfl, rfl, rfl, rfl, rfl, rfl, fun h => ?_, fun h1 h2 => ?_, fun h1 h2 => ?_,
    fun d hd hb => Health.tested_retired s.fw.health bad hd hb, fun a => outerMemory_read s.mem a⟩
  · refine ⟨?_, h, ?_⟩
    · change (imageOk s.fw.cur || imageOk s.fw.next) = true
      rw [h, Bool.true_or]
    · change (if (imageOk s.fw.cur || imageOk s.fw.next) then (if imageOk s.fw.cur then s.fw.cur else s.fw.next) else []) = s.fw.cur
      rw [h, Bool.true_or]
      rfl
  · refine ⟨?_, h1, ?_⟩
    · change (imageOk s.fw.cur || imageOk s.fw.next) = true
      rw [h2, Bool.or_true]
    · change (if (imageOk s.fw.cur || imageOk s.fw.next) then (if imageOk s.fw.cur then s.fw.cur else s.fw.next) else []) = s.fw.next
      rw [h1, h2]
      rfl
  · refine ⟨?_, ?_⟩
    · change (imageOk s.fw.cur || imageOk s.fw.next) = false
      rw [h1, h2]
      rfl
    · change ((s.fw.health.tested bad).fatal || !(imageOk s.fw.cur || imageOk s.fw.next)) = true
      rw [h1, h2]
      exact Bool.or_true _

/-- Settles O55: FW_UPDATE by the branches of its two steps; a reset by what comes up, which black-box entries and measurements leave. -/
theorem firmwareEvents : Obligations.FirmwareEvents := ⟨firmwareUpdates_claim, packageResets_claim⟩

end Sys2Proof.Machine

end

section
/-! Groups that exit (O46): an arrival of a thread that its context does not have (11 R312, R317). -/
namespace Sys2Proof.Machine

/-- One thread of a context that runs on coach 0, which has left, and an arrival in the name of thread 1, which the context does not
have. -/
def strayArrival : State :=
  { coaches := [(0, { ctxs := [(0, { lid := 1, threads := [(0, { phase := .left })], arrivals := [{ bar := 0, who := .thread 1 0 }] })],
                      run := some 0 })] }

/-- Group 0 of coach 0 has not exited, and its context still runs. -/
def groupHeld (o : Out) : Bool :=
  match o with
  | .next t => !((t.ctx 0 0).exited.getLsbD 0) && decide ((t.coach 0).run = some 0)
  | _ => false

/-- The arrival enters thread 1 in the context's threads, absent, before the groups are looked at. -/
theorem groupHeld_strayArrival : groupHeld (exec (.groupExit 0) strayArrival) = true := by decide

/-- Refutes O46: the gig cycle ends with the arrivals before the groups exit, so that an arrival in the name of a thread that the context
does not have gives it one that has not left, and the group, which had nothing left to do, stays. -/
theorem not_contextEventsPerform : ¬ Obligations.ContextEventsPerform := by
  unfold Obligations.ContextEventsPerform
  rintro ⟨-, h, -, -⟩
  obtain ⟨t, ht, -, -, hexit, -, -⟩ := (h strayArrival 0).2.1 0 0 _ (by decide) (by decide) (by decide) (by decide) (by decide) rfl (by decide)
  have hheld := groupHeld_strayArrival
  rw [ht] at hheld
  obtain ⟨h1, h2⟩ := Bool.and_eq_true_iff.1 hheld
  rcases hexit with he | he
  · rw [he] at h1
    exact absurd h1 (by decide)
  · exact he (of_decide_eq_true h2)

end Sys2Proof.Machine

end

section
/-! A SEND to a receiver that is gone (O47): the entry of its trap may be the last of a road book (08 R249; 19 R428, R429). -/
namespace Sys2Proof.Machine

/-- Thread 0 waits with a SEND to thread 32, whose coach holds no context, and one more entry stops the road book of its gig. -/
def sendToNone : State :=
  { coaches := [(0, { ctxs := [(0, { lid := 1, threads := [(0, { phase := .running, wait := .send 32 [] })] })], run := some 0 })],
    gigs := [(0, { book := { left := some 1 } })] }

/-- The road book as the trap leaves it. -/
def bookOfTrap : Book := Book.add { left := some 1 } 0 5 0 trapPeer

/-- The trap's entry stops the book, which is written to the save region. -/
theorem mem_noteGig_of_last {s : State} {t kind addr data : Nat} (b : Book)
    (hb : b = (s.gig (gigOf t)).book.add (s.cycle (dieOf t)) kind addr data) (h : b.left = some 0) :
    ∃ base, (s.noteGig t kind addr data).mem = s.mem.writeBytes base b.bytes := by
  obtain ⟨u, hu⟩ : ∃ u, u = s.onGig (gigOf t) (fun g => { g with book := g.book.add (s.cycle (dieOf t)) kind addr data }) := ⟨_, rfl⟩
  have hbook : (u.gig (gigOf t)).book = b := by
    rw [hu, hb]
    refine (congrArg Gig.book (State.gig_onGig ..)).trans ?_
    rw [if_pos rfl]
  have hmem : u.mem = s.mem := by rw [hu]; rfl
  refine ⟨(u.part ((u.partOf (gigOf t / 64)).getD 0)).csbase + 0x2000000 + gigOf t * 0x10000, ?_⟩
  unfold State.noteGig State.flushBook
  dsimp only
  rw [← hu, hbook, if_pos h, ← hmem] <;> rfl

/-- A byte other than 0 that is written stands in memory. -/
theorem Memory.ne_nil_of_writeBytes {m : Memory} {a : Nat} {bs : List Byte} {v : Byte} (hv : v ∈ bs) (h : v ≠ Memory.blank) :
    m.writeBytes a bs ≠ [] := by
  obtain ⟨i, hi, rfl⟩ := List.getElem_of_mem hv
  intro he
  have hread := Memory.read_writeBytes_inside m a i bs hi
  rw [he] at hread
  exact h hread.symm

/-- The entry of the trap is among the bytes of its book. -/
theorem mem_bytes_bookOfTrap : (0x50 : Byte) ∈ bookOfTrap.bytes := by
  unfold Book.bytes
  refine List.mem_append_right _ (List.mem_flatMap.2 ⟨(0, BitVec.ofNat 64 (5 * 2 ^ 60 + 6)), ?_, ?_⟩)
  · decide
  · decide

/-- Refutes O47: thread 0 sends to a receiver that is gone, and the entry of its trap PEER_GONE stops the road book of its gig, which is
written to the save region: memory does not stand as before. -/
theorem not_eventUnitPerforms : ¬ Obligations.EventUnitPerforms := by
  unfold Obligations.EventUnitPerforms
  rintro ⟨-, -, h, -, -⟩
  obtain ⟨t, ht, -, -, -, -, -, hmem⟩ := ((h sendToNone 0).2 32 [] (by decide)).1 (by decide) (by decide) (by decide)
  obtain ⟨u, hu⟩ : ∃ u : State, u = ({ sendToNone with held := [] } : State).onThread 0 (fun th => { th with wait := .none }) := ⟨_, rfl⟩
  have hex : exec (.sendAccept 0) sendToNone = .next (u.trapAt 0 trapPeer 0 (BitVec.ofNat 64 32) 0) := by
    rw [hu]
    rfl
  have hteq : t = u.trapAt 0 trapPeer 0 (BitVec.ofNat 64 32) 0 := by
    injection ht.symm.trans hex
  have hinh : (u.thread 0).trap.inh = false := by rw [hu]; decide
  have htrap : (u.trapAt 0 trapPeer 0 (BitVec.ofNat 64 32) 0).mem = (u.noteGig 0 5 0 trapPeer).mem := by
    unfold State.trapAt
    dsimp only
    rw [hinh, if_neg Bool.false_ne_true]
    unfold State.onThread
    split <;> rfl
  obtain ⟨base, hw⟩ := mem_noteGig_of_last (s := u) (t := 0) (kind := 5) (addr := 0) (data := trapPeer) bookOfTrap
    (by rw [hu]; decide) (by decide)
  refine Memory.ne_nil_of_writeBytes (m := u.mem) (a := base) mem_bytes_bookOfTrap (by decide) ?_
  rw [← hw, ← htrap, ← hteq, hmem]
  rfl

end Sys2Proof.Machine

end

section
/-! A card that faults (O49): the context to which its EXT_INT goes (11 R328). -/
namespace Sys2Proof.Machine

/-- Words of a card under GATHER without a row in bounds: every row access of it fails. -/
def boundless : List Word := [0, BitVec.ofNat 64 (2 ^ 38), 0, 0, BitVec.ofNat 64 (8 * 2 ^ 32 + 1), 0, BitVec.ofNat 64 nearBase, 0]

/-- A card of launch 1 that runs. -/
def faultyCard : Card :=
  { num := 0, lid := 1, thread := 0, level := false, words := boundless, state := .running, granted := false, retry := 0, rows := [],
    cause := 0, edges := [] }

/-- A running card of launch 2 behind the first, with line 0 to be set when it faults. -/
def laterCard : Card :=
  { num := 1, lid := 2, thread := 0, level := false, words := [1, 0, 0, 0, 0, 0, 0, BitVec.ofNat 64 (2 ^ 11)], state := .running,
    granted := false, retry := 0, rows := [], cause := 0, edges := [0] }

/-- Contexts in slots 5 and 3 of coach 0 that both belong to launch 1, and one more entry for slot 3, of launch 2. -/
def twoHomes : State :=
  { coaches := [(0, { ctxs := [(5, { lid := 1 }), (3, { lid := 1 }), (3, { lid := 2 })], cards := [faultyCard, laterCard] })] }

/-- An access to a row of a card whose index lies beyond its bound fails. -/
theorem rowStep_faultyCard : twoHomes.rowStep 0 faultyCard = (.error trapAccess, twoHomes.drawn) := by
  have hrow : twoHomes.freeVal % wRows faultyCard.words = 0 := by
    rw [show wRows faultyCard.words = 1 by decide, Nat.mod_one]
  have hbegin : twoHomes.drawn.beginRow 0 faultyCard 0 = (.error trapAccess, twoHomes.drawn) := rfl
  unfold State.rowStep State.pickRow
  dsimp only
  rw [hrow, show faultyCard.rows = [] from rfl, List.find?_nil]
  dsimp only
  rw [hbegin]

/-- The state once both cards have faulted. -/
def bothFaulted : State :=
  (twoHomes.drawn.faultOne 0 faultyCard trapAccess).faultChain 0 trapAccess (twoHomes.drawn.coach 0).cards.length faultyCard

/-- The line of the second card stands in slot 3, which comes first now. -/
theorem ctxOf_bothFaulted : (bothFaulted.coach 0).ctxOf 1 = some 3 := by decide

/-- The word of EXT_INT for the first card. -/
def faultWord : Word := BitVec.ofNat 64 (wSeq faultyCard.words * 2 ^ 32 + trapAccess)

theorem exec_cardFault_twoHomes : exec (.cardFault 0 0) twoHomes =
    .next (bothFaulted.onCtx 0 3 (fun k => k.onThread 0 (fun th => { th with ext := th.ext ++ [faultWord] }))) := by
  change execCardFault 0 0 twoHomes = _
  unfold execCardFault
  rw [show twoHomes.card 0 0 = some faultyCard from rfl]
  dsimp only
  rw [if_pos (show faultyCard.state = .running from rfl), rowStep_faultyCard]
  dsimp only
  change (match (bothFaulted.coach 0).ctxOf 1 with
    | none => Host.Outcome.next bothFaulted
    | some x => .next (bothFaulted.onCtx 0 x (fun k => k.onThread 0 (fun th => { th with ext := th.ext ++ [faultWord] })))) = _
  rw [ctxOf_bothFaulted]

/-- Refutes O49: where the contexts of a coach are not in the order of their slots, a later card that faults with a card sets its line in a
copy of its slot that comes to stand before the context to which the EXT_INT of the first was to go; the EXT_INT goes there. -/
theorem not_cardEventsPerform : ¬ Obligations.CardEventsPerform := by
  unfold Obligations.CardEventsPerform
  rintro ⟨-, h, -⟩
  obtain ⟨-, t, ht, -, -, -, hext⟩ :=
    ((h twoHomes 0 0).2 faultyCard rfl rfl).2.1 trapAccess twoHomes.drawn rowStep_faultyCard
  have hteq : t = bothFaulted.onCtx 0 3 (fun k => k.onThread 0 (fun th => { th with ext := th.ext ++ [faultWord] })) := by
    injection ht.symm.trans exec_cardFault_twoHomes
  have hnone : ((t.ctx 0 5).threads.get faultyCard.thread {}).ext = [] := by
    rw [hteq, State.ctx_onCtx, if_neg (by decide)]
    decide
  rw [hext 5 (by decide)] at hnone
  exact absurd hnone (by decide)

end Sys2Proof.Machine

end
